-- ==== Sys2Proof/Word.lean ====
section
/-!
DEFINITION. Sys2Proof/Word.lean: the word types of the part and their plainest arithmetic (R2, R3).
-/
namespace Sys2Proof

abbrev Byte := BitVec 8
abbrev Word := BitVec 32
abbrev DWord := BitVec 64

/-- The two kinds of core that decode instructions (R55, R57). -/
inductive Core where
  | vector | control
  deriving DecidableEq, Repr

/-- A map held as data: key and value pairs with keys strictly rising (Machine/Ops.lean has its operations). -/
abbrev FMap (α : Type) := List (Nat × α)

end Sys2Proof
end

