-- ==== Sys2Proof/Fields.lean ====
section
/-!
DEFINITION. Sys2Proof/Fields.lean: the fields of an instruction as R26 to R28 lay them out, and the parameters of the events.
-/
namespace Sys2Proof

/-- The fields of a form-S instruction (R26). The block bits stand beside the operands they belong to. -/
structure FormS where
  dst : BitVec 6
  a   : BitVec 6
  b   : BitVec 6
  ba  : Bool
  bb  : Bool
  g   : BitVec 3
  deriving DecidableEq, Repr

/-- Operand b of an instruction of form L (a register field with its block bit) or of form X (the literal word), R27 and R28. -/
inductive OpB where
  | reg (n : BitVec 8) (blk : Bool)
  | lit (w : BitVec 32)
  deriving DecidableEq, Repr

/-- The fields of a form-L or form-X instruction (R27, R28). MOD is read through the accessors of Machine/Operands.lean,
one layout per instruction class (R51 to R54). -/
structure FormL where
  dst : BitVec 8
  a   : BitVec 8
  g   : BitVec 3
  gn  : Bool
  ba  : Bool
  b   : OpB
  c   : BitVec 8
  bc  : Bool
  mod : BitVec 15
  deriving DecidableEq, Repr

/-- How the training of a link ends (R373). -/
inductive TrainResult where
  | up
  /-- with lane faults, data and control, of each of its bundles -/
  | degraded (faults : List (Nat × Nat))
  | failed
  deriving DecidableEq, Repr

/-- How bring-up ends (R407 FWERR, R417). -/
inductive BringUp where
  /-- complete, with the links that trained with lane faults, those as in TrainResult -/
  | ok (degraded : List (Nat × List (Nat × Nat)))
  | signatureInvalid | imageUnreadable | calibrationFailed | memoryFailed
  deriving DecidableEq, Repr

/-- A chunk that a SEND of another package sends to a stack engine of this one (R395). -/
structure Arrival where
  stack : Nat
  asid  : Nat
  comm  : Nat
  tag   : Nat
  chunk : Nat
  data  : List (BitVec 8)
  deriving DecidableEq, Repr

/-- What an ECC error or a targeted self-test concerns (R415). -/
inductive EccUnit where
  /-- a 4-byte word of HBM, by physical address -/
  | hbm (pa : BitVec 56)
  /-- vector register n of the thread with key k -/
  | vreg (k n : Nat)
  /-- X register n of the task with key k -/
  | xreg (k n : Nat)
  /-- predicate n of the thread with key k -/
  | preg (k n : Nat)
  /-- an NF, CT or CV register of a cluster's control core, by its field value (R33), and an accumulator of its matrix engine -/
  | creg (cl n : Nat)
  | acc (cl n : Nat)
  /-- a word of the scratchpad SRAM of a vector core -/
  | sram (core off : Nat)
  /-- the L2 arrays of a die's mash region, by segment -/
  | mash (die seg : Nat)
  /-- a line held in a die L2 -/
  | l2 (die : Nat) (va : BitVec 64)
  /-- the saved state of a context -/
  | saved (asid : Nat)
  /-- firmware state -/
  | firmware
  /-- a link lane, and a mast -/
  | link (n : Nat)
  | mast (n : Nat)
  /-- a whole compute die -/
  | die (n : Nat)
  deriving DecidableEq, Repr


end Sys2Proof
end

