-- ==== Sys2Proof/Syntax.lean ====
section
/-!
DEFINITION. Sys2Proof/Syntax.lean: the steps of the part as data: every instruction of the opcode table and every event of the
table (its parameters name what it happens to). No meaning stands here.
-/
namespace Sys2Proof

/-- Every step of the opcode table: 215 instructions (constructors ending in S are of form S) and 105 events. -/
inductive Instr where
  /-- NOP_S (R139): Compact 32-bit NOP; has no effect. -/
  | nopS (f : FormS)
  /-- NOP (R139): NOP in form L; has no effect. -/
  | nop (f : FormL)
  /-- MOV_S (R139): Compact move that copies the bit pattern of a to the destination. -/
  | movS (f : FormS)
  /-- MOV (R139): Move in form L that copies 32 or 64 bits of a by TYPE. -/
  | mov (f : FormL)
  /-- MOVI (R139): Writes the literal word, extended or converted by TYPE. -/
  | movi (f : FormL)
  /-- SEL (R139): Writes a if predicate c is true, and b otherwise. -/
  | sel (f : FormL)
  /-- IADD_S (R128): Compact integer add, wrapped or saturated. -/
  | iaddS (f : FormS)
  /-- IADD (R128): Integer add in form L or X, wrapped or saturated. -/
  | iadd (f : FormL)
  /-- ISUB_S (R128): Compact integer subtract. -/
  | isubS (f : FormS)
  /-- ISUB (R128): Integer subtract in form L or X. -/
  | isub (f : FormL)
  /-- IADDC (R129): Adds a, b and a carry-in predicate, and writes the sum and the carry-out predicate. -/
  | iaddc (f : FormL)
  /-- INEG_S (R128): Compact integer negate. -/
  | inegS (f : FormS)
  /-- INEG (R128): Integer negate in form L. -/
  | ineg (f : FormL)
  /-- IMUL_S (R128): Compact integer multiply, giving the low bits or the clamped product. -/
  | imulS (f : FormS)
  /-- IMUL (R128): Integer multiply in form L or X. -/
  | imul (f : FormL)
  /-- IMULH_S (R128): Compact multiply that gives the high half of the product. -/
  | imulhS (f : FormS)
  /-- IMULH (R128): Multiply giving the high half, in form L or X. -/
  | imulh (f : FormL)
  /-- IMAD_S (R128): Compact multiply-add with the addend taken from the destination register. -/
  | imadS (f : FormS)
  /-- IMAD (R128): Integer multiply-add in form L or X. -/
  | imad (f : FormL)
  /-- IMADW (R130): 32 × 32-bit multiply plus a 64-bit addend, written to a 64-bit pair. -/
  | imadw (f : FormL)
  /-- IDIV (R131): Producer integer divide that rounds toward zero. -/
  | idiv (f : FormL)
  /-- IREM (R131): Producer integer remainder, with the sign of the dividend. -/
  | irem (f : FormL)
  /-- IMIN_S (R128): Compact integer minimum. -/
  | iminS (f : FormS)
  /-- IMIN (R128): Integer minimum in form L or X. -/
  | imin (f : FormL)
  /-- IMAX_S (R128): Compact integer maximum. -/
  | imaxS (f : FormS)
  /-- IMAX (R128): Integer maximum in form L or X. -/
  | imax (f : FormL)
  /-- IABS_S (R128): Compact integer absolute value. -/
  | iabsS (f : FormS)
  /-- IABS (R128): Integer absolute value in form L. -/
  | iabs (f : FormL)
  /-- AND_S (R128): Compact bitwise AND. -/
  | andS (f : FormS)
  /-- AND (R128): Bitwise AND in form L or X. -/
  | and (f : FormL)
  /-- OR_S (R128): Compact bitwise OR. -/
  | orS (f : FormS)
  /-- OR (R128): Bitwise OR in form L or X. -/
  | or (f : FormL)
  /-- XOR_S (R128): Compact bitwise XOR. -/
  | xorS (f : FormS)
  /-- XOR (R128): Bitwise XOR in form L or X. -/
  | xor (f : FormL)
  /-- NOT_S (R128): Compact bitwise NOT. -/
  | notS (f : FormS)
  /-- NOT (R128): Bitwise NOT in form L. -/
  | not (f : FormL)
  /-- ANDN_S (R128): Compact a AND NOT b. -/
  | andnS (f : FormS)
  /-- ANDN (R128): a AND NOT b in form L or X. -/
  | andn (f : FormL)
  /-- SHL_S (R132): Compact shift left. -/
  | shlS (f : FormS)
  /-- SHL (R132): Shift left in form L or X. -/
  | shl (f : FormL)
  /-- SHR_S (R132): Compact logical shift right. -/
  | shrS (f : FormS)
  /-- SHR (R132): Logical shift right in form L or X. -/
  | shr (f : FormL)
  /-- SAR_S (R132): Compact arithmetic shift right. -/
  | sarS (f : FormS)
  /-- SAR (R132): Arithmetic shift right in form L or X. -/
  | sar (f : FormL)
  /-- ROT_S (R132): Compact rotate left. -/
  | rotS (f : FormS)
  /-- ROT (R132): Rotate left in form L or X. -/
  | rot (f : FormL)
  /-- SHF_S (R133): Compact funnel shift, with the high word taken from the destination register. -/
  | shfS (f : FormS)
  /-- SHF (R133): Funnel shift of the pair c:a, in form L or X. -/
  | shf (f : FormL)
  /-- POPC_S (R128): Compact population count. -/
  | popcS (f : FormS)
  /-- POPC (R128): Population count in form L. -/
  | popc (f : FormL)
  /-- CLZ_S (R128): Compact count of leading zeros. -/
  | clzS (f : FormS)
  /-- CLZ (R128): Count of leading zeros in form L. -/
  | clz (f : FormL)
  /-- CTZ_S (R128): Compact count of trailing zeros. -/
  | ctzS (f : FormS)
  /-- CTZ (R128): Count of trailing zeros in form L. -/
  | ctz (f : FormL)
  /-- BREV_S (R128): Compact bit reverse. -/
  | brevS (f : FormS)
  /-- BREV (R128): Bit reverse in form L. -/
  | brev (f : FormL)
  /-- BFE (R134): Extracts a bit field, sign- or zero-extended. -/
  | bfe (f : FormL)
  /-- BFI (R134): Inserts a bit field into c. -/
  | bfi (f : FormL)
  /-- PRMT (R135): Permutes bytes of c:a under a selector. -/
  | prmt (f : FormL)
  /-- LEA (R136): Forms a 64-bit base plus a shifted index. -/
  | lea (f : FormL)
  /-- ISET (R137): Integer compare written to a predicate, or as 0 or 1 to an X register. -/
  | iset (f : FormL)
  /-- IDP4 (R138): Four-byte dot product plus an addend. -/
  | idp4 (f : FormL)
  /-- FADD_S (R142): Compact F32 add with RN. -/
  | faddS (f : FormS)
  /-- FADD (R142): Floating-point add in form L or X. -/
  | fadd (f : FormL)
  /-- FSUB_S (R142): Compact F32 subtract. -/
  | fsubS (f : FormS)
  /-- FSUB (R142): Floating-point subtract in form L or X. -/
  | fsub (f : FormL)
  /-- FMUL_S (R142): Compact F32 multiply. -/
  | fmulS (f : FormS)
  /-- FMUL (R142): Floating-point multiply in form L or X. -/
  | fmul (f : FormL)
  /-- FFMA_S (R142): Compact F32 fused multiply-add with the addend in the destination register. -/
  | ffmaS (f : FormS)
  /-- FFMA (R142): Fused multiply-add in form L or X, rounded once. -/
  | ffma (f : FormL)
  /-- FMIN_S (R143): Compact F32 minimum. -/
  | fminS (f : FormS)
  /-- FMIN (R143): Floating-point minimum in form L or X. -/
  | fmin (f : FormL)
  /-- FMAX_S (R143): Compact F32 maximum. -/
  | fmaxS (f : FormS)
  /-- FMAX (R143): Floating-point maximum in form L or X. -/
  | fmax (f : FormL)
  /-- FSET (R144): Floating-point compare written to a predicate. -/
  | fset (f : FormL)
  /-- FCLASS (R145): Writes a one-hot class of the operand. -/
  | fclass (f : FormL)
  /-- FRND (R146): Rounds to an integral value of the operand's format. -/
  | frnd (f : FormL)
  /-- FSCL (R147): Scales a by 2^b with one rounding. -/
  | fscl (f : FormL)
  /-- DADD_S (R142): Compact F64 add. -/
  | daddS (f : FormS)
  /-- DADD (R142): F64 add in form L or X. -/
  | dadd (f : FormL)
  /-- DMUL_S (R142): Compact F64 multiply. -/
  | dmulS (f : FormS)
  /-- DMUL (R142): F64 multiply in form L or X. -/
  | dmul (f : FormL)
  /-- DFMA_S (R142): Compact F64 fused multiply-add. -/
  | dfmaS (f : FormS)
  /-- DFMA (R142): F64 fused multiply-add in form L or X. -/
  | dfma (f : FormL)
  /-- DSET (R144): F64 compare written to a predicate. -/
  | dset (f : FormL)
  /-- HFMA2_S (R148): Compact packed F16 fused multiply-add. -/
  | hfma2S (f : FormS)
  /-- HFMA2 (R148): Packed fused multiply-add in form L or X. -/
  | hfma2 (f : FormL)
  /-- HADD2_S (R148): Compact packed F16 add. -/
  | hadd2S (f : FormS)
  /-- HADD2 (R148): Packed add in form L or X. -/
  | hadd2 (f : FormL)
  /-- HMUL2_S (R148): Compact packed F16 multiply. -/
  | hmul2S (f : FormS)
  /-- HMUL2 (R148): Packed multiply in form L or X. -/
  | hmul2 (f : FormL)
  /-- FCVT (R81): Converts between floating-point formats. -/
  | fcvt (f : FormL)
  /-- F2I (R82): Converts floating point to an integer under RND. -/
  | f2i (f : FormL)
  /-- I2F (R83): Converts an integer to floating point. -/
  | i2f (f : FormL)
  /-- QNT (R84): Quantises a value with a block scale and optional compand curve to a narrow code. -/
  | qnt (f : FormL)
  /-- DQNT (R85): Decodes a narrow code, expands it and applies the block scale. -/
  | dqnt (f : FormL)
  /-- PACK (R86): Replaces field j of a word with the low bits of a. -/
  | pack (f : FormL)
  /-- UNPK (R86): Extracts field j of a word. -/
  | unpk (f : FormL)
  /-- RCP (R150): SFU reciprocal, a producer. -/
  | rcp (f : FormL)
  /-- RSQ (R150): SFU reciprocal square root, a producer. -/
  | rsq (f : FormL)
  /-- SQRT (R149): SFU correctly rounded square root, a producer. -/
  | sqrt (f : FormL)
  /-- EX2 (R150): SFU base-2 exponential, a producer. -/
  | ex2 (f : FormL)
  /-- LG2 (R150): SFU base-2 logarithm, a producer. -/
  | lg2 (f : FormL)
  /-- SIN (R150): SFU sine, a producer. -/
  | sin (f : FormL)
  /-- COS (R150): SFU cosine, a producer. -/
  | cos (f : FormL)
  /-- TANH (R150): SFU hyperbolic tangent, a producer. -/
  | tanh (f : FormL)
  /-- FDIV_S (R149): Compact F32 divide, a producer. -/
  | fdivS (f : FormS)
  /-- FDIV (R149): Correctly rounded divide in form L or X, a producer. -/
  | fdiv (f : FormL)
  /-- DDIV (R149): F64 divide, a producer. -/
  | ddiv (f : FormL)
  /-- DSQRT (R149): F64 square root, a producer. -/
  | dsqrt (f : FormL)
  /-- PLOG (R111): Three-input predicate logic by LUT. -/
  | plog (f : FormL)
  /-- PMOV (R112): Moves predicates to a register, or sets masked predicates from one. -/
  | pmov (f : FormL)
  /-- FLRD (R113): Reads FL after earlier FL-setting instructions complete. -/
  | flrd (f : FormL)
  /-- FLCLR (R113): Clears masked FL bits after earlier FL-setting instructions complete. -/
  | flclr (f : FormL)
  /-- MOVS (R114): Reads a special register by index. -/
  | movs (f : FormL)
  /-- CLK (R115): Producer that reads the core's 64-bit cycle counter. -/
  | clk (f : FormL)
  /-- WID (R116): Writes the index or extent of a work-identifier field. -/
  | wid (f : FormL)
  /-- SETPART (R122): Rendezvous of the static warp that sets its partition width. -/
  | setpart (f : FormL)
  /-- VOTE (R118): Rendezvous vote over the members' predicate or FL bits. -/
  | vote (f : FormL)
  /-- SHFL (R119): Rendezvous shuffle of register values between tile members. -/
  | shfl (f : FormL)
  /-- TRED (R120): Rendezvous reduction over the contributing members in lane order. -/
  | tred (f : FormL)
  /-- TSCAN (R120): Rendezvous prefix scan over the contributing members. -/
  | tscan (f : FormL)
  /-- TSYNC (R121): Rendezvous with no other effect. -/
  | tsync (f : FormL)
  /-- BRA (R103): PC-relative branch. -/
  | bra (f : FormL)
  /-- BRC (R103): PC-relative branch on a compare with zero. -/
  | brc (f : FormL)
  /-- JMP (R104): Jump to a 64-bit register target. -/
  | jmp (f : FormL)
  /-- CALL (R105): Pushes the return address and transfers PC-relative. -/
  | call (f : FormL)
  /-- CALLI (R105): Pushes the return address and transfers to a register target. -/
  | calli (f : FormL)
  /-- RET_S (R105): Compact return that pops the return stack. -/
  | retS (f : FormS)
  /-- RET (R105): Return in form L. -/
  | ret (f : FormL)
  /-- EXIT_S (R106): Compact EXIT: waits for producers, ends the region and makes the thread EXITED. -/
  | exitS (f : FormS)
  /-- EXIT (R106): EXIT in form L; on the control core it ends the task. -/
  | exit (f : FormL)
  /-- YIELD_S (R107): Compact YIELD; the thread yields for 32 cycles. -/
  | yieldS (f : FormS)
  /-- YIELD (R107): YIELD in form L. -/
  | yield (f : FormL)
  /-- TRAP (R108): Freezes the thread with SOFTWARE_TRAP and the trap number. -/
  | trap (f : FormL)
  /-- BKPT (R108): Freezes with BREAKPOINT when enabled, otherwise acts as NOP. -/
  | bkpt (f : FormL)
  /-- LD_S (R190): Compact 32-bit global load, a producer. -/
  | ldS (f : FormS)
  /-- LD (R190): Global load in form L or X, plain or atomic, a producer. -/
  | ld (f : FormL)
  /-- ST_S (R191): Compact 32-bit global store of the register that DST names. -/
  | stS (f : FormS)
  /-- ST (R191): Global store in form L or X, plain or atomic. -/
  | st (f : FormL)
  /-- LDS_S (R190): Compact scratchpad load. -/
  | ldsS (f : FormS)
  /-- LDS (R190): Scratchpad load in form L or X. -/
  | lds (f : FormL)
  /-- STS_S (R191): Compact scratchpad store. -/
  | stsS (f : FormS)
  /-- STS (R191): Scratchpad store in form L or X. -/
  | sts (f : FormL)
  /-- LDL_S (R190): Compact thread-private load. -/
  | ldlS (f : FormS)
  /-- LDL (R190): Thread-private load in form L or X. -/
  | ldl (f : FormL)
  /-- STL_S (R191): Compact thread-private store. -/
  | stlS (f : FormS)
  /-- STL (R191): Thread-private store in form L or X. -/
  | stl (f : FormL)
  /-- ATOM (R193): Global atomic read-modify-write with return. -/
  | atom (f : FormL)
  /-- ATOMS (R193): Scratchpad atomic read-modify-write with return. -/
  | atoms (f : FormL)
  /-- RED (R193): Global atomic reduction without return. -/
  | red (f : FormL)
  /-- FENCE (R215): Ends the region and orders the thread's accesses by order and scope. -/
  | fence (f : FormL)
  /-- PREF (R194): Prefetches a line into L1 or L2. -/
  | pref (f : FormL)
  /-- APPEND (R167): Appends a 64-bit item to a work list. -/
  | append (f : FormL)
  /-- WLTAKE (R168): Producer that takes an item from a work list, or reports quiescence. -/
  | wltake (f : FormL)
  /-- LAUNCH (R163): Reads a launch header and pushes it into a launch queue. -/
  | launch (f : FormL)
  /-- TRDY (R254): Release, then adds 1 to a residency token. -/
  | trdy (f : FormL)
  /-- CPY (R248): Releases and pushes a linear copy entry into a COPY queue. -/
  | cpy (f : FormL)
  /-- CPYT (R248): Reads a tensor-copy descriptor, releases and pushes it into a COPY queue. -/
  | cpyt (f : FormL)
  /-- GSUM (R401): Reads a GSUM node image, releases and pushes a node entry into a STACK queue. -/
  | gsum (f : FormL)
  /-- QSIG (R250): Releases at SYS scope, then adds a value to a signal. -/
  | qsig (f : FormL)
  /-- QWAIT (R251): Raises a pending delivery, or waits until a signal reaches a threshold. -/
  | qwait (f : FormL)
  /-- QFENCE (R252): Pushes a join marker into queue QA that waits for queue QB. -/
  | qfence (f : FormL)
  /-- TRIG (R253): Arms a trigger at a signal's home. -/
  | trig (f : FormL)
  /-- TASKPUSH (R284): Reads a task record and pushes it into the cluster set's TASK queue. -/
  | taskpush (f : FormL)
  /-- CGRUN (R400): Releases and pushes a graph run entry into a STACK queue. -/
  | cgrun (f : FormL)
  /-- CARVE (R297): Declares k ways at acceptance and pushes a CARVE entry into the die's MASH queue. -/
  | carve (f : FormL)
  /-- MS_LDT (R296): Pushes a transpose-in entry from memory to lanes. -/
  | msLdt (f : FormL)
  /-- MS_STT (R296): Pushes a transpose-out entry from lanes to memory. -/
  | msStt (f : FormL)
  /-- MS_ADD (R295): Pushes a bit-serial add entry. -/
  | msAdd (f : FormL)
  /-- MS_SUB (R295): Pushes a bit-serial subtract entry. -/
  | msSub (f : FormL)
  /-- MS_MUL (R295): Pushes a bit-serial multiply entry. -/
  | msMul (f : FormL)
  /-- MS_MULC (R295): Pushes a multiply-by-constant entry. -/
  | msMulc (f : FormL)
  /-- MS_LOG (R295): Pushes a bitwise LUT logic entry. -/
  | msLog (f : FormL)
  /-- MS_CMP (R295): Pushes a compare entry that writes a mask row. -/
  | msCmp (f : FormL)
  /-- MS_SEL (R295): Pushes a select entry. -/
  | msSel (f : FormL)
  /-- MS_SET (R295): Pushes an entry that sets a field to a constant. -/
  | msSet (f : FormL)
  /-- MS_CPY (R295): Pushes a field copy entry with width change. -/
  | msCpy (f : FormL)
  /-- MS_SHR (R295): Pushes a field shift-right entry. -/
  | msShr (f : FormL)
  /-- MS_RSUM (R296): Pushes a per-segment or whole-region sum entry. -/
  | msRsum (f : FormL)
  /-- MS_CMPT (R296): Pushes a compaction entry that writes the count and indices of selected lanes. -/
  | msCmpt (f : FormL)
  /-- MS_REL (R297): Clears KDECL and pushes a release entry for the mash region. -/
  | msRel (f : FormL)
  /-- BAR_SYNC (R220): Arrives at the group barrier and waits for the phase. -/
  | barSync (f : FormL)
  /-- BAR_ARV (R220): Arrives at the group barrier, releasing at GRP scope. -/
  | barArv (f : FormL)
  /-- BAR_WAIT (R220): Waits for the group barrier phase and acquires. -/
  | barWait (f : FormL)
  /-- MBINIT (R224): Initialises a memory barrier object's counts. -/
  | mbinit (f : FormL)
  /-- MBARV (R225): Arrives at a memory barrier object with a count and byte total. -/
  | mbarv (f : FormL)
  /-- MBWAIT (R226): Waits until an object's phase differs from p, or until LIMIT expires. -/
  | mbwait (f : FormL)
  /-- MBTEST (R226): Tests whether an object's phase differs from p. -/
  | mbtest (f : FormL)
  /-- MBDROP (R227): Lowers EXPECTED of a memory barrier object. -/
  | mbdrop (f : FormL)
  /-- CAP_RDR (R338): Reads a frozen party's register into a handler register. -/
  | capRdr (f : FormL)
  /-- CAP_WRR (R339): Writes a frozen party's register. -/
  | capWrr (f : FormL)
  /-- CAP_RDS (R340): Reads a record word, the party status or a register state. -/
  | capRds (f : FormL)
  /-- CAP_SETPC (R341): Sets the frozen party's resumption point. -/
  | capSetpc (f : FormL)
  /-- CAP_RES (R343): Releases, invalidates the capability and resumes the party, reissuing faulted loads and refused writes. -/
  | capRes (f : FormL)
  /-- CAP_KILL (R344): Kills the party named by the capability. -/
  | capKill (f : FormL)
  /-- CAP_STEP (R342): Makes the party issue one instruction alone and then refreeze. -/
  | capStep (f : FormL)
  /-- CAP_ARV (R345): Arrives at a barrier or object on behalf of the frozen party. -/
  | capArv (f : FormL)
  /-- CAP_REL (R346): Empties a capability register and returns the record to the frozen queue. -/
  | capRel (f : FormL)
  /-- CAP_NEXT (R337): Takes the oldest frozen record into a capability register, or ends the handler. -/
  | capNext (f : FormL)
  /-- PGINV (R323): Invalidates translations and lines of a page range at its homes and replays side logs. -/
  | pginv (f : FormL)
  /-- PGMIG (R324): Starts migration of a present page to a new physical address. -/
  | pgmig (f : FormL)
  /-- TFMT (R278): Writes an NF descriptor register. -/
  | tfmt (f : FormL)
  /-- TCT (R278): Loads a 128-byte compand or codebook table from scratchpad. -/
  | tct (f : FormL)
  /-- TCFG (R278): Loads a 64-byte convolution view from scratchpad. -/
  | tcfg (f : FormL)
  /-- TZERO (R278): Zeroes an accumulator or a pair and clears its poison. -/
  | tzero (f : FormL)
  /-- MMA (R279): Issues a one-step matrix multiply from A and B tiles. -/
  | mma (f : FormL)
  /-- MMAC (R279): Issues a one-step matrix multiply with A from a convolution view. -/
  | mmac (f : FormL)
  /-- MMAB (R279): Issues a one-step matrix multiply with A from BYP. -/
  | mmab (f : FormL)
  /-- TMAC (R279): Issues a multi-step matrix multiply-accumulate. -/
  | tmac (f : FormL)
  /-- TDRN (R281): Drains accumulator rows to scratchpad or global memory. -/
  | tdrn (f : FormL)
  /-- TDRNB (R282): Converts an accumulator into the BYP tile. -/
  | tdrnb (f : FormL)
  /-- TWAIT (R283): Raises a pending delivery, ends the region and waits for the task's operations. -/
  | twait (f : FormL)
  /-- TFLG (R283): Reads and clears the task queue's engine flags. -/
  | tflg (f : FormL)
  /-- ENDT (R285): Ends the task: waits, releases, decrements JOIN and may push a continuation. -/
  | endt (f : FormL)
  /-- THREAD_URGENT (R94): A thread's age reaches 1024 and it becomes urgent for the picker. -/
  | threadUrgent (k : Nat)
  /-- HOLD_TIMEOUT (R95): A HELD thread becomes READY after 256 cycles. -/
  | holdTimeout (k : Nat)
  /-- YIELD_EXPIRY (R107): A yielding thread's 32 cycles end. -/
  | yieldExpiry (k : Nat)
  /-- PRODUCER_COMPLETION (R153): An arithmetic producer fills its destination and writes FL. -/
  | producerCompletion (id : Nat)
  /-- LOAD_COMPLETION (R190): A load or atomic response fills its destination, faulted or poisoned as found. -/
  | loadCompletion (id : Nat)
  /-- RENDEZVOUS_COMPLETION (R98): Every named member has arrived, and each participant receives its result. -/
  | rendezvousCompletion (k : Nat)
  /-- MBWAIT_LIMIT_EXPIRY (R226): An MBWAIT's LIMIT × 1024 cycles pass and it completes with false. -/
  | mbwaitLimitExpiry (k : Nat)
  /-- QWAIT_LIMIT_EXPIRY (R251): A QWAIT's LIMIT × 1024 cycles pass and it completes with false. -/
  | qwaitLimitExpiry (k : Nat)
  /-- LAUNCH_ENTRY_HEAD (R158): A launch entry reaches the head of its queue and the distributor checks its header. -/
  | launchEntryHead (q : Nat)
  /-- GROUP_PLACEMENT (R159): The distributor places a group, or all groups of a CONCURRENT kernel, as resources free. -/
  | groupPlacement (kern start : Nat)
  /-- WEAK_GROUP_SAVE (R160): The distributor saves a placed WEAK group to place others. -/
  | weakGroupSave (g : Nat)
  /-- GROUP_RESTORE (R174): A saved group and its cluster set are restored onto a cluster. -/
  | groupRestore (g start : Nat)
  /-- GROUP_RETIREMENT (R173): A group whose threads have exited and whose stores are performed retires and frees its resources. -/
  | groupRetirement (g : Nat)
  /-- KERNEL_RETIREMENT (R162): A kernel retires, discards its work lists and adds 1 to SIGNAL. -/
  | kernelRetirement (kern : Nat)
  /-- APPEND_ARRIVAL (R164): An appended item reaches its list at the owner die and may serve a waiting taker. -/
  | appendArrival (id : Nat)
  /-- QUIESCENCE (R169): The termination detector finds the kernel quiescent and completes every waiting WLTAKE with true. -/
  | quiescence (kern : Nat)
  /-- QUEUE_ENTRY_START (R237): A queue starts its next entry after the previous one has completed. -/
  | queueEntryStart (q : Nat)
  /-- COPY_BOX (R245): A copy engine takes a box of a COPY head entry and moves its bytes. -/
  | copyBox (q n : Nat)
  /-- ENTRY_COMPLETION (R238): An entry performs its completion action, writes its status word and increments DONE. -/
  | entryCompletion (q : Nat)
  /-- SIGNAL_ADDITION (R240): An atomic add to a signal is performed at its home, or logged. -/
  | signalAddition (id : Nat)
  /-- TRIGGER_FIRE (R241): A due trigger reads its entry image and pushes the entry. -/
  | triggerFire (id : Nat)
  /-- TRIGGER_ENTRY_PUSH (R241): A fired trigger waiting for room pushes its entry once the target queue has a free slot. -/
  | triggerEntryPush (id : Nat)
  /-- JOIN_MARKER_COMPLETION (R252): A join marker completes when QB's DONE reaches its snapshot. -/
  | joinMarkerCompletion (q : Nat)
  /-- TASK_HEAD (R259): A task becomes the head of its queue and its record is checked. -/
  | taskHead (q : Nat)
  /-- TASK_ADMISSION (R260): The scheduler admits an admissible HEAD task and charges its energy. -/
  | taskAdmission (cl : Nat)
  /-- MATRIX_OPERATION_ACCEPT (R280): A waiting matrix operation enters the engine when fewer than 16 are held. -/
  | matrixOperationAccept (cl : Nat)
  /-- MATRIX_K_STEP (R279): The engine performs one k-step of an operation on the accumulator. -/
  | matrixKStep (cl : Nat)
  /-- CONTINUATION_PUSH (R285): The queue processor pushes a continuation record once the TASK queue has room. -/
  | continuationPush (q : Nat)
  /-- CARVE_ENTRY (R297): A CARVE entry runs, takes ownership and begins carving or fails with 0x30 or 0x31. -/
  | carveEntry (q : Nat)
  /-- CARVING_COMPLETE (R289): Every chosen way is emptied and zeroed and the region becomes READY. -/
  | carvingComplete (die : Nat)
  /-- MASH_OPERATION_ENTRY (R295): A mash row-operation entry runs over every acting lane. -/
  | mashOperationEntry (q : Nat)
  /-- MASH_TRANSFER_ENTRY (R296): A transpose, RSUM or CMPT entry runs and accesses memory. -/
  | mashTransferEntry (q : Nat)
  /-- MS_REL_ENTRY (R297): An MS.REL entry releases the region's ways and ownership. -/
  | msRelEntry (q : Nat)
  /-- RELEASING_COMPLETE (R288): All K ways are allocatable again and the region becomes NONE. -/
  | releasingComplete (die : Nat)
  /-- READ (R310): A READ request at the home walks, checks and performs or faults by page state. -/
  | read (id : Nat)
  /-- WRITE (R310): A WRITE request at the home is performed, logged or discarded by page state. -/
  | write (id : Nat)
  /-- ATOMIC (R193): An ATOMIC request is performed indivisibly at the point of coherence. -/
  | atomic (id : Nat)
  /-- RESP (R190): A response flit returns data or status to its requester. -/
  | resp (id : Nat)
  /-- ACK (R213): An acknowledgement of an ordered access reaches its source. -/
  | ack (id : Nat)
  /-- MARKER (R375): A marker copy arrives at its target; at COUNT copies the target sends MARKERACK. -/
  | marker (id : Nat)
  /-- MARKERACK (R375): A MARKERACK reaches the source and the marker fence completes. -/
  | markerack (id : Nat)
  /-- INVAL (R317): A die L2 invalidates a line and its L1 copies, writes back, and acknowledges. -/
  | inval (id : Nat)
  /-- INVALACK (R317): An invalidation acknowledgement reaches the home. -/
  | invalack (id : Nat)
  /-- FWD (R370): A forwarded physical request reaches its target stack or window. -/
  | fwd (id : Nat)
  /-- FWDANS (R370): A forwarded request's answer returns to the home. -/
  | fwdans (id : Nat)
  /-- CHUNK (R395): A collective beat arrives and lands in a posted RECV's destination or in spill; `outside`, where another package sent it. -/
  | chunk (id : Nat) (outside : Option Arrival := none)
  /-- FW (R367): A firmware message flit is delivered. -/
  | fw (st : Nat) (msg : BitVec 64)
  /-- MIGRATION_LINE_COPY (R320): The home copies the next 128-byte line of a migrating page. -/
  | migrationLineCopy (st n : Nat)
  /-- MIGRATION_SWITCH (R321): The home writes the new leaf, updates its TLB and adds 1 to the signal. -/
  | migrationSwitch (st n : Nat)
  /-- RUN_ENTRY_START (R386): A run entry starts, checks and loads its graph and zeroes the counters. -/
  | runEntryStart (q : Nat)
  /-- NODE_COPY (R384): A ready COPY chunk runs on its engine. -/
  | nodeCopy (q n : Nat)
  /-- NODE_RADD (R384): A ready RADD chunk adds the source into the destination. -/
  | nodeRadd (q n : Nat)
  /-- NODE_RMAX (R384): A ready RMAX chunk takes elementwise maxima. -/
  | nodeRmax (q n : Nat)
  /-- NODE_GSUM (R393): A GSUM chunk gathers and sums table rows per bag. -/
  | nodeGsum (q n : Nat)
  /-- NODE_CMP4 (R391): A CMP4 chunk compresses blocks to C4 with residuals. -/
  | nodeCmp4 (q n : Nat)
  /-- NODE_SEND (R395): A granted SEND reads its source and sends its beats. -/
  | nodeSend (q n : Nat)
  /-- NODE_RECV (R395): A ready RECV is posted, or copies a spilled match into its destination. -/
  | nodeRecv (q n : Nat)
  /-- LANDING_GRANT (R395): The receiving engine grants a SEND when a RECV is posted or spill room is reserved. -/
  | landingGrant (q n : Nat)
  /-- NODE_COMPLETION (R387): A node completes, releases and increments its output counter. -/
  | nodeCompletion (q n : Nat)
  /-- RUN_COMPLETION (R388): All nodes are done; the run completes with its signal addition. -/
  | runCompletion (q : Nat)
  /-- CRC_REPLAY (R369): A bad CRC makes the sender replay the flit and every later flit. -/
  | crcReplay (link fails : Nat)
  /-- LINK_TRAINING (R373): Bring-up or a firmware request starts link training. -/
  | linkTraining (link : Nat)
  /-- LINK_TRAINED (R373): Training ends UP, DEGRADED or FENCED. -/
  | linkTrained (link : Nat) (r : TrainResult)
  /-- LANE_FAULT (R373): A lane fault, of one of the link's bundles (R11), degrades or fences the link. -/
  | laneFault (link : Nat) (control : Bool) (bundle : Nat := 0)
  /-- LINK_SELF_TEST (R373): The self-test of a FENCED link returns it to training or retires it. -/
  | linkSelfTest (link : Nat) (lasting : Bool)
  /-- MAST_REMAP (R364): Sources stop, the fabric drains and the remap registers are rewritten. -/
  | mastRemap (mast : Nat) (inService : Bool)
  /-- ROUTE_CHANGE (R379): VC 0 injection is stopped and drained, and the routing table is rewritten. -/
  | routeChange (st pkg : Nat) (routes : BitVec 64)
  /-- FROZEN_RECORD_ADMIT (R329): A waiting record enters the frozen queue as room frees. -/
  | frozenRecordAdmit (asid : Nat)
  /-- HANDLER_START (R330): A level-1 handler thread starts in a free pool slot. -/
  | handlerStart (asid : Nat)
  /-- HANDLER_BUDGET (R333): A capability budget runs out and the handler freezes to level 2. -/
  | handlerBudget (k : Nat)
  /-- LEVEL2_HANDLING (R334): Firmware resumes or kills a frozen level-1 handler in a level-2 slot. -/
  | level2Handling (die : Nat) (faulted : Bool)
  /-- CONTEXT_BUILD (R351): CTXREQ build checks the descriptor and makes the context RUNNABLE or ERROR. -/
  | contextBuild (asid : Nat)
  /-- CONTEXT_START (R359): CTXREQ start runs the context, restoring saved state first. -/
  | contextStart (asid : Nat)
  /-- CONTEXT_START_WHEN_FREE (R408): A waiting start proceeds once the dies of DIEMASK are free. -/
  | contextStartWhenFree (asid : Nat)
  /-- CONTEXT_PREEMPT (R349): CTXREQ pre-empt starts a cut of a running context. -/
  | contextPreempt (asid : Nat)
  /-- CONTEXT_HALT (R360): CTXREQ halt stops every unit of the context for debugging. -/
  | contextHalt (asid : Nat)
  /-- CONTEXT_RESUME (R349): CTXREQ resume returns a HALTED context to RUNNING or CUTTING. -/
  | contextResume (asid : Nat)
  /-- CONTEXT_RETIRE (R349): CTXREQ retire makes the context RETIRED. -/
  | contextRetire (asid : Nat)
  /-- CONTEXT_FREE (R349): A retired context becomes FREE once every base die has dropped its TLB entries and side logs. -/
  | contextFree (asid : Nat)
  /-- TSLICE_EXPIRY (R349): The time slice expires and the context is cut. -/
  | tsliceExpiry (asid : Nat)
  /-- CONTEXT_CUT (R355): After handlers and drains end, the context is frozen, settled, scanned and released to SAVED. -/
  | contextCut (asid : Nat)
  /-- DRAIN_TIMEOUT (R354): A DRAIN group still resident 100 µs after the cut began becomes SAVE. -/
  | drainTimeout (asid : Nat)
  /-- HANDLER_CUT_TIMEOUT (R355): A handler still holding a capability 2 ms into a cut freezes with HANDLER_BUDGET. -/
  | handlerCutTimeout (asid : Nat)
  /-- DRAIN_FORWARD (R356): Packages exchange completion markers once link counters are full, then save. -/
  | drainForward (asid : Nat)
  /-- DOORBELL_WRITE (R235): A doorbell write advances PUSHED, or is refused and sets DBE. -/
  | doorbellWrite (master asid q : Nat) (v : BitVec 64)
  /-- QUEUE_ENABLE (R236): EN := 1 through MMIO moves a DISABLED queue to IDLE. -/
  | queueEnable (q : Nat)
  /-- QUEUE_DISABLE (R236): EN := 0 disables a queue once its entry in progress completes. -/
  | queueDisable (q : Nat)
  /-- QUEUE_ERR_CLEAR (R236): Clearing ERR through MMIO resumes a HALTED queue. -/
  | queueErrClear (q : Nat)
  /-- DIE_POWER_OFF (R413): DIEPWR REQ = 0 writes back the die L2 and turns the die off, or is refused. -/
  | diePowerOff (die : Nat)
  /-- DIE_POWER_ON (R413): DIEPWR REQ = 1 powers the die on and resets its cores and counters. -/
  | diePowerOn (die : Nat)
  /-- OPERATING_POINT_REQUEST (R413): A DIEPWR OPPT write requests a new operating point. -/
  | operatingPointRequest (die : Nat) (p : BitVec 2)
  /-- OPERATING_POINT_SWITCH (R413): At the next interval boundary the die changes point and reloads A and I defaults. -/
  | operatingPointSwitch (die : Nat)
  /-- MMIO_REGISTER_WRITE (R406): A write to an MMIO register with no behaviour of its own, by a master (R410), the physical function where none is given. -/
  | mmioRegisterWrite (off : BitVec 48) (bytes : Nat) (v : BitVec 64) (master : Nat := 0x100)
  /-- CONTROL_INTERVAL_START (R260): A 10 µs control interval starts and every cluster's remaining energy is reset to A. -/
  | controlIntervalStart
  /-- ACTIVATION_WINDOW_ADJUST (R414): The power manager lengthens or restores the activation window around 35 W. -/
  | activationWindowAdjust (st : Nat) (above : Bool)
  /-- ECC_ERROR (R415): An ECC error is corrected or poisons its data, and is logged. -/
  | eccError (unit : EccUnit) (correctable : Bool)
  /-- HEALTH_SELF_TEST (R415): The targeted self-test ends and spares or retires the unit. -/
  | healthSelfTest (unit : EccUnit) (lasting spared : Bool)
  /-- DIE_FAILURE (R14): A compute die fails and its home poisons the lines it held modified. -/
  | dieFailure (die : Nat)
  /-- HOST_WRITE_INVALIDATE (R405): A host write invalidates die-L2 copies of a host-memory line through CXL.cache. -/
  | hostWriteInvalidate (pa : BitVec 56) (data : List (BitVec 8))
  /-- BACK_INVALIDATE (R405): A back-invalidate snoop invalidates die-L2 copies of an HDM line. -/
  | backInvalidate (pa : BitVec 56)
  /-- ATTESTATION_QUOTE (R411): The device signs a quote over a nonce and measurements. -/
  | attestationQuote (nonce : BitVec 256)
  /-- PACKAGE_RESET (R417): Reset starts bring-up through calibration, memory initialisation and firmware verification. -/
  | packageReset (failure : BringUp)
  /-- PACKAGE_FATAL (R418): The package stops with FATAL and every running context enters ERROR; `image`, where a later load failed (R411). -/
  | packageFatal (image : Bool := false)
  /-- DISCARDED_FLIT (R367): A flit that passes its CRC but holds a reserved KIND, a reserved unit or a VC not given for its KIND is discarded, and its link goes FENCED. -/
  | discardedFlit (link : Nat) (flit : BitVec 256 := 0)
  /-- HOST_HBM_ACCESS (R211): An access that the host or a CXL device makes into HBM through a host port is performed there as an unchecked access under PCIe and CXL ordering. -/
  | hostHbmAccess (master : Nat) (pa : BitVec 56) (bytes : Nat) (data : Option (List (BitVec 8)))
  deriving DecidableEq, Repr

end Sys2Proof
end

