-- ==== Sys2Proof/WellFormed.lean ====
section
/-!
DEFINITION. Sys2Proof/WellFormed.lean: the operations of the opcode maps (R55, R57), the shape of each one's fields, and the
encoding rules that every instruction must meet (R30 to R33 and the rules of each class). A word that breaks one raises
ILLEGAL_OPCODE (R58).
-/
namespace Sys2Proof

/-- The operations of the opcode maps, one per mnemonic; a form-S row of the table is the same operation in form S. -/
inductive Op where
  | nop | mov | movi | sel | iadd | isub | iaddc | ineg | imul | imulh | imad | imadw
  | idiv | irem | imin | imax | iabs | and | or | xor | not | andn | shl | shr
  | sar | rot | shf | popc | clz | ctz | brev | bfe | bfi | prmt | lea | iset
  | idp4 | fadd | fsub | fmul | ffma | fmin | fmax | fset | fclass | frnd | fscl | dadd
  | dmul | dfma | dset | hfma2 | hadd2 | hmul2 | fcvt | f2i | i2f | qnt | dqnt | pack
  | unpk | rcp | rsq | sqrt | ex2 | lg2 | sin | cos | tanh | fdiv | ddiv | dsqrt
  | plog | pmov | flrd | flclr | movs | clk | wid | setpart | vote | shfl | tred | tscan
  | tsync | bra | brc | jmp | call | calli | ret | exit | yield | trap | bkpt | ld
  | st | lds | sts | ldl | stl | atom | atoms | red | fence | pref | append | wltake
  | launch | trdy | cpy | cpyt | gsum | qsig | qwait | qfence | trig | taskpush | cgrun | carve
  | msLdt | msStt | msAdd | msSub | msMul | msMulc | msLog | msCmp | msSel | msSet | msCpy | msShr
  | msRsum | msCmpt | msRel | barSync | barArv | barWait | mbinit | mbarv | mbwait | mbtest | mbdrop | capRdr
  | capWrr | capRds | capSetpc | capRes | capKill | capStep | capArv | capRel | capNext | pginv | pgmig | tfmt
  | tct | tcfg | tzero | mma | mmac | mmab | tmac | tdrn | tdrnb | twait | tflg | endt
  deriving DecidableEq, Repr

def Op.all0 : List Op := [.nop, .mov, .movi, .sel, .iadd, .isub, .iaddc, .ineg, .imul, .imulh, .imad, .imadw, .idiv, .irem, .imin, .imax, .iabs, .and, .or, .xor, .not, .andn, .shl, .shr]
def Op.all1 : List Op := [.sar, .rot, .shf, .popc, .clz, .ctz, .brev, .bfe, .bfi, .prmt, .lea, .iset, .idp4, .fadd, .fsub, .fmul, .ffma, .fmin, .fmax, .fset, .fclass, .frnd, .fscl, .dadd]
def Op.all2 : List Op := [.dmul, .dfma, .dset, .hfma2, .hadd2, .hmul2, .fcvt, .f2i, .i2f, .qnt, .dqnt, .pack, .unpk, .rcp, .rsq, .sqrt, .ex2, .lg2, .sin, .cos, .tanh, .fdiv, .ddiv, .dsqrt]
def Op.all3 : List Op := [.plog, .pmov, .flrd, .flclr, .movs, .clk, .wid, .setpart, .vote, .shfl, .tred, .tscan, .tsync, .bra, .brc, .jmp, .call, .calli, .ret, .exit, .yield, .trap, .bkpt, .ld]
def Op.all4 : List Op := [.st, .lds, .sts, .ldl, .stl, .atom, .atoms, .red, .fence, .pref, .append, .wltake, .launch, .trdy, .cpy, .cpyt, .gsum, .qsig, .qwait, .qfence, .trig, .taskpush, .cgrun, .carve]
def Op.all5 : List Op := [.msLdt, .msStt, .msAdd, .msSub, .msMul, .msMulc, .msLog, .msCmp, .msSel, .msSet, .msCpy, .msShr, .msRsum, .msCmpt, .msRel, .barSync, .barArv, .barWait, .mbinit, .mbarv, .mbwait, .mbtest, .mbdrop, .capRdr]
def Op.all6 : List Op := [.capWrr, .capRds, .capSetpc, .capRes, .capKill, .capStep, .capArv, .capRel, .capNext, .pginv, .pgmig, .tfmt, .tct, .tcfg, .tzero, .mma, .mmac, .mmab, .tmac, .tdrn, .tdrnb, .twait, .tflg, .endt]
/-- Every operation. -/
def Op.all : List Op := all0 ++ all1 ++ all2 ++ all3 ++ all4 ++ all5 ++ all6

/-- The opcode of an operation (R55, R57). -/
def Op.opc : Op → Nat
  | .nop => 0x00
  | .mov => 0x01
  | .movi => 0x02
  | .sel => 0x03
  | .iadd => 0x04
  | .isub => 0x05
  | .iaddc => 0x06
  | .ineg => 0x07
  | .imul => 0x08
  | .imulh => 0x09
  | .imad => 0x0A
  | .imadw => 0x0B
  | .idiv => 0x0C
  | .irem => 0x0D
  | .imin => 0x0E
  | .imax => 0x0F
  | .iabs => 0x10
  | .and => 0x11
  | .or => 0x12
  | .xor => 0x13
  | .not => 0x14
  | .andn => 0x15
  | .shl => 0x16
  | .shr => 0x17
  | .sar => 0x18
  | .rot => 0x19
  | .shf => 0x1A
  | .popc => 0x1B
  | .clz => 0x1C
  | .ctz => 0x1D
  | .brev => 0x1E
  | .bfe => 0x1F
  | .bfi => 0x20
  | .prmt => 0x21
  | .lea => 0x22
  | .iset => 0x23
  | .idp4 => 0x24
  | .fadd => 0x30
  | .fsub => 0x31
  | .fmul => 0x32
  | .ffma => 0x33
  | .fmin => 0x34
  | .fmax => 0x35
  | .fset => 0x36
  | .fclass => 0x37
  | .frnd => 0x38
  | .fscl => 0x39
  | .dadd => 0x3A
  | .dmul => 0x3B
  | .dfma => 0x3C
  | .dset => 0x3D
  | .hfma2 => 0x3E
  | .hadd2 => 0x3F
  | .hmul2 => 0x40
  | .fcvt => 0x41
  | .f2i => 0x42
  | .i2f => 0x43
  | .qnt => 0x44
  | .dqnt => 0x45
  | .pack => 0x46
  | .unpk => 0x47
  | .rcp => 0x48
  | .rsq => 0x48
  | .sqrt => 0x48
  | .ex2 => 0x48
  | .lg2 => 0x48
  | .sin => 0x48
  | .cos => 0x48
  | .tanh => 0x48
  | .fdiv => 0x49
  | .ddiv => 0x4A
  | .dsqrt => 0x4B
  | .plog => 0x50
  | .pmov => 0x51
  | .flrd => 0x52
  | .flclr => 0x53
  | .movs => 0x54
  | .clk => 0x55
  | .wid => 0x56
  | .setpart => 0x57
  | .vote => 0x58
  | .shfl => 0x59
  | .tred => 0x5A
  | .tscan => 0x5B
  | .tsync => 0x5C
  | .bra => 0x60
  | .brc => 0x61
  | .jmp => 0x62
  | .call => 0x63
  | .calli => 0x64
  | .ret => 0x65
  | .exit => 0x66
  | .yield => 0x67
  | .trap => 0x68
  | .bkpt => 0x69
  | .ld => 0x70
  | .st => 0x71
  | .lds => 0x72
  | .sts => 0x73
  | .ldl => 0x74
  | .stl => 0x75
  | .atom => 0x76
  | .atoms => 0x77
  | .red => 0x78
  | .fence => 0x79
  | .pref => 0x7A
  | .append => 0x80
  | .wltake => 0x8C
  | .launch => 0x89
  | .trdy => 0x81
  | .cpy => 0x82
  | .cpyt => 0x83
  | .gsum => 0x84
  | .qsig => 0x85
  | .qwait => 0x86
  | .qfence => 0x87
  | .trig => 0x88
  | .taskpush => 0x8A
  | .cgrun => 0x8B
  | .carve => 0x90
  | .msLdt => 0x91
  | .msStt => 0x92
  | .msAdd => 0x93
  | .msSub => 0x94
  | .msMul => 0x95
  | .msMulc => 0x96
  | .msLog => 0x97
  | .msCmp => 0x98
  | .msSel => 0x99
  | .msSet => 0x9A
  | .msCpy => 0x9B
  | .msShr => 0x9C
  | .msRsum => 0x9D
  | .msCmpt => 0x9E
  | .msRel => 0x9F
  | .barSync => 0xA0
  | .barArv => 0xA1
  | .barWait => 0xA2
  | .mbinit => 0xA3
  | .mbarv => 0xA4
  | .mbwait => 0xA5
  | .mbtest => 0xA6
  | .mbdrop => 0xA7
  | .capRdr => 0xB0
  | .capWrr => 0xB1
  | .capRds => 0xB2
  | .capSetpc => 0xB3
  | .capRes => 0xB4
  | .capKill => 0xB5
  | .capStep => 0xB6
  | .capArv => 0xB7
  | .capRel => 0xB8
  | .capNext => 0xB9
  | .pginv => 0xBA
  | .pgmig => 0xBB
  | .tfmt => 0xC0
  | .tct => 0xC1
  | .tcfg => 0xC2
  | .tzero => 0xC3
  | .mma => 0xC4
  | .mmac => 0xC5
  | .mmab => 0xC6
  | .tmac => 0xC7
  | .tdrn => 0xC8
  | .tdrnb => 0xC9
  | .twait => 0xCA
  | .tflg => 0xCB
  | .endt => 0xCC

/-- The CODE that selects a member of the SFU family (R52). -/
def Op.sfu : Op → Option Nat
  | .rcp => some 0
  | .rsq => some 1
  | .sqrt => some 2
  | .ex2 => some 3
  | .lg2 => some 4
  | .sin => some 5
  | .cos => some 6
  | .tanh => some 7
  | _ => none

/-- The operation is in the control-core map (R57). -/
def Op.onControl : Op → Bool
  | .nop | .mov | .movi | .iadd | .isub | .ineg | .imul | .imulh => true
  | .imad | .idiv | .irem | .imin | .imax | .iabs | .and | .or | .xor => true
  | .not | .andn | .shl | .shr | .sar | .rot | .shf | .popc | .clz | .ctz => true
  | .brev | .bfe | .bfi | .prmt | .lea | .iset => true
  | .bra | .brc | .jmp | .call | .calli => true
  | .ret | .exit | .trap | .bkpt | .ld | .st | .lds | .sts => true
  | .atom | .fence | .trdy => true
  | .qsig | .taskpush => true
  | .tfmt | .tct | .tcfg | .tzero | .mma => true
  | .mmac | .mmab | .tmac | .tdrn | .tdrnb | .twait | .tflg | .endt => true
  | _ => false

/-- The operation is in the vector-core map (R55): all but 0xC0 to 0xCC. -/
def Op.onVector (o : Op) : Bool := o.opc < 0xC0

/-- The form-L or form-X instruction of an operation. -/
def Op.mkL (f : FormL) : Op → Instr
  | .nop => .nop f
  | .mov => .mov f
  | .movi => .movi f
  | .sel => .sel f
  | .iadd => .iadd f
  | .isub => .isub f
  | .iaddc => .iaddc f
  | .ineg => .ineg f
  | .imul => .imul f
  | .imulh => .imulh f
  | .imad => .imad f
  | .imadw => .imadw f
  | .idiv => .idiv f
  | .irem => .irem f
  | .imin => .imin f
  | .imax => .imax f
  | .iabs => .iabs f
  | .and => .and f
  | .or => .or f
  | .xor => .xor f
  | .not => .not f
  | .andn => .andn f
  | .shl => .shl f
  | .shr => .shr f
  | .sar => .sar f
  | .rot => .rot f
  | .shf => .shf f
  | .popc => .popc f
  | .clz => .clz f
  | .ctz => .ctz f
  | .brev => .brev f
  | .bfe => .bfe f
  | .bfi => .bfi f
  | .prmt => .prmt f
  | .lea => .lea f
  | .iset => .iset f
  | .idp4 => .idp4 f
  | .fadd => .fadd f
  | .fsub => .fsub f
  | .fmul => .fmul f
  | .ffma => .ffma f
  | .fmin => .fmin f
  | .fmax => .fmax f
  | .fset => .fset f
  | .fclass => .fclass f
  | .frnd => .frnd f
  | .fscl => .fscl f
  | .dadd => .dadd f
  | .dmul => .dmul f
  | .dfma => .dfma f
  | .dset => .dset f
  | .hfma2 => .hfma2 f
  | .hadd2 => .hadd2 f
  | .hmul2 => .hmul2 f
  | .fcvt => .fcvt f
  | .f2i => .f2i f
  | .i2f => .i2f f
  | .qnt => .qnt f
  | .dqnt => .dqnt f
  | .pack => .pack f
  | .unpk => .unpk f
  | .rcp => .rcp f
  | .rsq => .rsq f
  | .sqrt => .sqrt f
  | .ex2 => .ex2 f
  | .lg2 => .lg2 f
  | .sin => .sin f
  | .cos => .cos f
  | .tanh => .tanh f
  | .fdiv => .fdiv f
  | .ddiv => .ddiv f
  | .dsqrt => .dsqrt f
  | .plog => .plog f
  | .pmov => .pmov f
  | .flrd => .flrd f
  | .flclr => .flclr f
  | .movs => .movs f
  | .clk => .clk f
  | .wid => .wid f
  | .setpart => .setpart f
  | .vote => .vote f
  | .shfl => .shfl f
  | .tred => .tred f
  | .tscan => .tscan f
  | .tsync => .tsync f
  | .bra => .bra f
  | .brc => .brc f
  | .jmp => .jmp f
  | .call => .call f
  | .calli => .calli f
  | .ret => .ret f
  | .exit => .exit f
  | .yield => .yield f
  | .trap => .trap f
  | .bkpt => .bkpt f
  | .ld => .ld f
  | .st => .st f
  | .lds => .lds f
  | .sts => .sts f
  | .ldl => .ldl f
  | .stl => .stl f
  | .atom => .atom f
  | .atoms => .atoms f
  | .red => .red f
  | .fence => .fence f
  | .pref => .pref f
  | .append => .append f
  | .wltake => .wltake f
  | .launch => .launch f
  | .trdy => .trdy f
  | .cpy => .cpy f
  | .cpyt => .cpyt f
  | .gsum => .gsum f
  | .qsig => .qsig f
  | .qwait => .qwait f
  | .qfence => .qfence f
  | .trig => .trig f
  | .taskpush => .taskpush f
  | .cgrun => .cgrun f
  | .carve => .carve f
  | .msLdt => .msLdt f
  | .msStt => .msStt f
  | .msAdd => .msAdd f
  | .msSub => .msSub f
  | .msMul => .msMul f
  | .msMulc => .msMulc f
  | .msLog => .msLog f
  | .msCmp => .msCmp f
  | .msSel => .msSel f
  | .msSet => .msSet f
  | .msCpy => .msCpy f
  | .msShr => .msShr f
  | .msRsum => .msRsum f
  | .msCmpt => .msCmpt f
  | .msRel => .msRel f
  | .barSync => .barSync f
  | .barArv => .barArv f
  | .barWait => .barWait f
  | .mbinit => .mbinit f
  | .mbarv => .mbarv f
  | .mbwait => .mbwait f
  | .mbtest => .mbtest f
  | .mbdrop => .mbdrop f
  | .capRdr => .capRdr f
  | .capWrr => .capWrr f
  | .capRds => .capRds f
  | .capSetpc => .capSetpc f
  | .capRes => .capRes f
  | .capKill => .capKill f
  | .capStep => .capStep f
  | .capArv => .capArv f
  | .capRel => .capRel f
  | .capNext => .capNext f
  | .pginv => .pginv f
  | .pgmig => .pgmig f
  | .tfmt => .tfmt f
  | .tct => .tct f
  | .tcfg => .tcfg f
  | .tzero => .tzero f
  | .mma => .mma f
  | .mmac => .mmac f
  | .mmab => .mmab f
  | .tmac => .tmac f
  | .tdrn => .tdrn f
  | .tdrnb => .tdrnb f
  | .twait => .twait f
  | .tflg => .tflg f
  | .endt => .endt f

/-- The form-S instruction of an operation, where it has one (the starred entries of R55). -/
def Op.mkS (f : FormS) : Op → Option Instr
  | .nop => some (.nopS f)
  | .mov => some (.movS f)
  | .iadd => some (.iaddS f)
  | .isub => some (.isubS f)
  | .ineg => some (.inegS f)
  | .imul => some (.imulS f)
  | .imulh => some (.imulhS f)
  | .imad => some (.imadS f)
  | .imin => some (.iminS f)
  | .imax => some (.imaxS f)
  | .iabs => some (.iabsS f)
  | .and => some (.andS f)
  | .or => some (.orS f)
  | .xor => some (.xorS f)
  | .not => some (.notS f)
  | .andn => some (.andnS f)
  | .shl => some (.shlS f)
  | .shr => some (.shrS f)
  | .sar => some (.sarS f)
  | .rot => some (.rotS f)
  | .shf => some (.shfS f)
  | .popc => some (.popcS f)
  | .clz => some (.clzS f)
  | .ctz => some (.ctzS f)
  | .brev => some (.brevS f)
  | .fadd => some (.faddS f)
  | .fsub => some (.fsubS f)
  | .fmul => some (.fmulS f)
  | .ffma => some (.ffmaS f)
  | .fmin => some (.fminS f)
  | .fmax => some (.fmaxS f)
  | .dadd => some (.daddS f)
  | .dmul => some (.dmulS f)
  | .dfma => some (.dfmaS f)
  | .hfma2 => some (.hfma2S f)
  | .hadd2 => some (.hadd2S f)
  | .hmul2 => some (.hmul2S f)
  | .fdiv => some (.fdivS f)
  | .ret => some (.retS f)
  | .exit => some (.exitS f)
  | .yield => some (.yieldS f)
  | .ld => some (.ldS f)
  | .st => some (.stS f)
  | .lds => some (.ldsS f)
  | .sts => some (.stsS f)
  | .ldl => some (.ldlS f)
  | .stl => some (.stlS f)
  | _ => none

/-- The operation of an instruction; an event has none. -/
def Instr.op? : Instr → Option Op
  | .nopS _ => some .nop
  | .nop _ => some .nop
  | .movS _ => some .mov
  | .mov _ => some .mov
  | .movi _ => some .movi
  | .sel _ => some .sel
  | .iaddS _ => some .iadd
  | .iadd _ => some .iadd
  | .isubS _ => some .isub
  | .isub _ => some .isub
  | .iaddc _ => some .iaddc
  | .inegS _ => some .ineg
  | .ineg _ => some .ineg
  | .imulS _ => some .imul
  | .imul _ => some .imul
  | .imulhS _ => some .imulh
  | .imulh _ => some .imulh
  | .imadS _ => some .imad
  | .imad _ => some .imad
  | .imadw _ => some .imadw
  | .idiv _ => some .idiv
  | .irem _ => some .irem
  | .iminS _ => some .imin
  | .imin _ => some .imin
  | .imaxS _ => some .imax
  | .imax _ => some .imax
  | .iabsS _ => some .iabs
  | .iabs _ => some .iabs
  | .andS _ => some .and
  | .and _ => some .and
  | .orS _ => some .or
  | .or _ => some .or
  | .xorS _ => some .xor
  | .xor _ => some .xor
  | .notS _ => some .not
  | .not _ => some .not
  | .andnS _ => some .andn
  | .andn _ => some .andn
  | .shlS _ => some .shl
  | .shl _ => some .shl
  | .shrS _ => some .shr
  | .shr _ => some .shr
  | .sarS _ => some .sar
  | .sar _ => some .sar
  | .rotS _ => some .rot
  | .rot _ => some .rot
  | .shfS _ => some .shf
  | .shf _ => some .shf
  | .popcS _ => some .popc
  | .popc _ => some .popc
  | .clzS _ => some .clz
  | .clz _ => some .clz
  | .ctzS _ => some .ctz
  | .ctz _ => some .ctz
  | .brevS _ => some .brev
  | .brev _ => some .brev
  | .bfe _ => some .bfe
  | .bfi _ => some .bfi
  | .prmt _ => some .prmt
  | .lea _ => some .lea
  | .iset _ => some .iset
  | .idp4 _ => some .idp4
  | .faddS _ => some .fadd
  | .fadd _ => some .fadd
  | .fsubS _ => some .fsub
  | .fsub _ => some .fsub
  | .fmulS _ => some .fmul
  | .fmul _ => some .fmul
  | .ffmaS _ => some .ffma
  | .ffma _ => some .ffma
  | .fminS _ => some .fmin
  | .fmin _ => some .fmin
  | .fmaxS _ => some .fmax
  | .fmax _ => some .fmax
  | .fset _ => some .fset
  | .fclass _ => some .fclass
  | .frnd _ => some .frnd
  | .fscl _ => some .fscl
  | .daddS _ => some .dadd
  | .dadd _ => some .dadd
  | .dmulS _ => some .dmul
  | .dmul _ => some .dmul
  | .dfmaS _ => some .dfma
  | .dfma _ => some .dfma
  | .dset _ => some .dset
  | .hfma2S _ => some .hfma2
  | .hfma2 _ => some .hfma2
  | .hadd2S _ => some .hadd2
  | .hadd2 _ => some .hadd2
  | .hmul2S _ => some .hmul2
  | .hmul2 _ => some .hmul2
  | .fcvt _ => some .fcvt
  | .f2i _ => some .f2i
  | .i2f _ => some .i2f
  | .qnt _ => some .qnt
  | .dqnt _ => some .dqnt
  | .pack _ => some .pack
  | .unpk _ => some .unpk
  | .rcp _ => some .rcp
  | .rsq _ => some .rsq
  | .sqrt _ => some .sqrt
  | .ex2 _ => some .ex2
  | .lg2 _ => some .lg2
  | .sin _ => some .sin
  | .cos _ => some .cos
  | .tanh _ => some .tanh
  | .fdivS _ => some .fdiv
  | .fdiv _ => some .fdiv
  | .ddiv _ => some .ddiv
  | .dsqrt _ => some .dsqrt
  | .plog _ => some .plog
  | .pmov _ => some .pmov
  | .flrd _ => some .flrd
  | .flclr _ => some .flclr
  | .movs _ => some .movs
  | .clk _ => some .clk
  | .wid _ => some .wid
  | .setpart _ => some .setpart
  | .vote _ => some .vote
  | .shfl _ => some .shfl
  | .tred _ => some .tred
  | .tscan _ => some .tscan
  | .tsync _ => some .tsync
  | .bra _ => some .bra
  | .brc _ => some .brc
  | .jmp _ => some .jmp
  | .call _ => some .call
  | .calli _ => some .calli
  | .retS _ => some .ret
  | .ret _ => some .ret
  | .exitS _ => some .exit
  | .exit _ => some .exit
  | .yieldS _ => some .yield
  | .yield _ => some .yield
  | .trap _ => some .trap
  | .bkpt _ => some .bkpt
  | .ldS _ => some .ld
  | .ld _ => some .ld
  | .stS _ => some .st
  | .st _ => some .st
  | .ldsS _ => some .lds
  | .lds _ => some .lds
  | .stsS _ => some .sts
  | .sts _ => some .sts
  | .ldlS _ => some .ldl
  | .ldl _ => some .ldl
  | .stlS _ => some .stl
  | .stl _ => some .stl
  | .atom _ => some .atom
  | .atoms _ => some .atoms
  | .red _ => some .red
  | .fence _ => some .fence
  | .pref _ => some .pref
  | .append _ => some .append
  | .wltake _ => some .wltake
  | .launch _ => some .launch
  | .trdy _ => some .trdy
  | .cpy _ => some .cpy
  | .cpyt _ => some .cpyt
  | .gsum _ => some .gsum
  | .qsig _ => some .qsig
  | .qwait _ => some .qwait
  | .qfence _ => some .qfence
  | .trig _ => some .trig
  | .taskpush _ => some .taskpush
  | .cgrun _ => some .cgrun
  | .carve _ => some .carve
  | .msLdt _ => some .msLdt
  | .msStt _ => some .msStt
  | .msAdd _ => some .msAdd
  | .msSub _ => some .msSub
  | .msMul _ => some .msMul
  | .msMulc _ => some .msMulc
  | .msLog _ => some .msLog
  | .msCmp _ => some .msCmp
  | .msSel _ => some .msSel
  | .msSet _ => some .msSet
  | .msCpy _ => some .msCpy
  | .msShr _ => some .msShr
  | .msRsum _ => some .msRsum
  | .msCmpt _ => some .msCmpt
  | .msRel _ => some .msRel
  | .barSync _ => some .barSync
  | .barArv _ => some .barArv
  | .barWait _ => some .barWait
  | .mbinit _ => some .mbinit
  | .mbarv _ => some .mbarv
  | .mbwait _ => some .mbwait
  | .mbtest _ => some .mbtest
  | .mbdrop _ => some .mbdrop
  | .capRdr _ => some .capRdr
  | .capWrr _ => some .capWrr
  | .capRds _ => some .capRds
  | .capSetpc _ => some .capSetpc
  | .capRes _ => some .capRes
  | .capKill _ => some .capKill
  | .capStep _ => some .capStep
  | .capArv _ => some .capArv
  | .capRel _ => some .capRel
  | .capNext _ => some .capNext
  | .pginv _ => some .pginv
  | .pgmig _ => some .pgmig
  | .tfmt _ => some .tfmt
  | .tct _ => some .tct
  | .tcfg _ => some .tcfg
  | .tzero _ => some .tzero
  | .mma _ => some .mma
  | .mmac _ => some .mmac
  | .mmab _ => some .mmab
  | .tmac _ => some .tmac
  | .tdrn _ => some .tdrn
  | .tdrnb _ => some .tdrnb
  | .twait _ => some .twait
  | .tflg _ => some .tflg
  | .endt _ => some .endt
  | _ => none

/-- The fields of a form-L or form-X instruction. -/
def Instr.formL? : Instr → Option FormL
  | .nop f => some f
  | .mov f => some f
  | .movi f => some f
  | .sel f => some f
  | .iadd f => some f
  | .isub f => some f
  | .iaddc f => some f
  | .ineg f => some f
  | .imul f => some f
  | .imulh f => some f
  | .imad f => some f
  | .imadw f => some f
  | .idiv f => some f
  | .irem f => some f
  | .imin f => some f
  | .imax f => some f
  | .iabs f => some f
  | .and f => some f
  | .or f => some f
  | .xor f => some f
  | .not f => some f
  | .andn f => some f
  | .shl f => some f
  | .shr f => some f
  | .sar f => some f
  | .rot f => some f
  | .shf f => some f
  | .popc f => some f
  | .clz f => some f
  | .ctz f => some f
  | .brev f => some f
  | .bfe f => some f
  | .bfi f => some f
  | .prmt f => some f
  | .lea f => some f
  | .iset f => some f
  | .idp4 f => some f
  | .fadd f => some f
  | .fsub f => some f
  | .fmul f => some f
  | .ffma f => some f
  | .fmin f => some f
  | .fmax f => some f
  | .fset f => some f
  | .fclass f => some f
  | .frnd f => some f
  | .fscl f => some f
  | .dadd f => some f
  | .dmul f => some f
  | .dfma f => some f
  | .dset f => some f
  | .hfma2 f => some f
  | .hadd2 f => some f
  | .hmul2 f => some f
  | .fcvt f => some f
  | .f2i f => some f
  | .i2f f => some f
  | .qnt f => some f
  | .dqnt f => some f
  | .pack f => some f
  | .unpk f => some f
  | .rcp f => some f
  | .rsq f => some f
  | .sqrt f => some f
  | .ex2 f => some f
  | .lg2 f => some f
  | .sin f => some f
  | .cos f => some f
  | .tanh f => some f
  | .fdiv f => some f
  | .ddiv f => some f
  | .dsqrt f => some f
  | .plog f => some f
  | .pmov f => some f
  | .flrd f => some f
  | .flclr f => some f
  | .movs f => some f
  | .clk f => some f
  | .wid f => some f
  | .setpart f => some f
  | .vote f => some f
  | .shfl f => some f
  | .tred f => some f
  | .tscan f => some f
  | .tsync f => some f
  | .bra f => some f
  | .brc f => some f
  | .jmp f => some f
  | .call f => some f
  | .calli f => some f
  | .ret f => some f
  | .exit f => some f
  | .yield f => some f
  | .trap f => some f
  | .bkpt f => some f
  | .ld f => some f
  | .st f => some f
  | .lds f => some f
  | .sts f => some f
  | .ldl f => some f
  | .stl f => some f
  | .atom f => some f
  | .atoms f => some f
  | .red f => some f
  | .fence f => some f
  | .pref f => some f
  | .append f => some f
  | .wltake f => some f
  | .launch f => some f
  | .trdy f => some f
  | .cpy f => some f
  | .cpyt f => some f
  | .gsum f => some f
  | .qsig f => some f
  | .qwait f => some f
  | .qfence f => some f
  | .trig f => some f
  | .taskpush f => some f
  | .cgrun f => some f
  | .carve f => some f
  | .msLdt f => some f
  | .msStt f => some f
  | .msAdd f => some f
  | .msSub f => some f
  | .msMul f => some f
  | .msMulc f => some f
  | .msLog f => some f
  | .msCmp f => some f
  | .msSel f => some f
  | .msSet f => some f
  | .msCpy f => some f
  | .msShr f => some f
  | .msRsum f => some f
  | .msCmpt f => some f
  | .msRel f => some f
  | .barSync f => some f
  | .barArv f => some f
  | .barWait f => some f
  | .mbinit f => some f
  | .mbarv f => some f
  | .mbwait f => some f
  | .mbtest f => some f
  | .mbdrop f => some f
  | .capRdr f => some f
  | .capWrr f => some f
  | .capRds f => some f
  | .capSetpc f => some f
  | .capRes f => some f
  | .capKill f => some f
  | .capStep f => some f
  | .capArv f => some f
  | .capRel f => some f
  | .capNext f => some f
  | .pginv f => some f
  | .pgmig f => some f
  | .tfmt f => some f
  | .tct f => some f
  | .tcfg f => some f
  | .tzero f => some f
  | .mma f => some f
  | .mmac f => some f
  | .mmab f => some f
  | .tmac f => some f
  | .tdrn f => some f
  | .tdrnb f => some f
  | .twait f => some f
  | .tflg f => some f
  | .endt f => some f
  | _ => none

/-- The fields of a form-S instruction. -/
def Instr.formS? : Instr → Option FormS
  | .nopS f => some f
  | .movS f => some f
  | .iaddS f => some f
  | .isubS f => some f
  | .inegS f => some f
  | .imulS f => some f
  | .imulhS f => some f
  | .imadS f => some f
  | .iminS f => some f
  | .imaxS f => some f
  | .iabsS f => some f
  | .andS f => some f
  | .orS f => some f
  | .xorS f => some f
  | .notS f => some f
  | .andnS f => some f
  | .shlS f => some f
  | .shrS f => some f
  | .sarS f => some f
  | .rotS f => some f
  | .shfS f => some f
  | .popcS f => some f
  | .clzS f => some f
  | .ctzS f => some f
  | .brevS f => some f
  | .faddS f => some f
  | .fsubS f => some f
  | .fmulS f => some f
  | .ffmaS f => some f
  | .fminS f => some f
  | .fmaxS f => some f
  | .daddS f => some f
  | .dmulS f => some f
  | .dfmaS f => some f
  | .hfma2S f => some f
  | .hadd2S f => some f
  | .hmul2S f => some f
  | .fdivS f => some f
  | .retS f => some f
  | .exitS f => some f
  | .yieldS f => some f
  | .ldS f => some f
  | .stS f => some f
  | .ldsS f => some f
  | .stsS f => some f
  | .ldlS f => some f
  | .stlS f => some f
  | _ => none

/-! ### The modifier layouts (R51 to R54) -/

/-- Bits [hi:lo] of MOD. -/
def modBits (m : BitVec 15) (hi lo : Nat) : Nat := m.toNat / 2 ^ lo % 2 ^ (hi + 1 - lo)
def modBit (m : BitVec 15) (n : Nat) : Bool := m.toNat / 2 ^ n % 2 == 1
def modTy (m : BitVec 15) : Nat := modBits m 14 12
def modRnd (m : BitVec 15) : Nat := modBits m 11 10
def modCode (m : BitVec 15) : Nat := modBits m 4 0
def modScope (m : BitVec 15) : Nat := modBits m 10 8
def modOrder (m : BitVec 15) : Nat := modBits m 7 5
/-- No bit of MOD outside `mask` is set (R30). -/
def only (m : BitVec 15) (mask : Nat) : Bool := m.toNat &&& (0x7FFF - mask) == 0

/-- The registers that a value of TYPE takes in a vector core: a pair for I64, N64 and F64 (R32, R124). -/
def tyRegs (t : Nat) : Nat := if t == 2 || t == 3 || t == 7 then 2 else 1
def tyInt (t : Nat) : Bool := t < 4
/-- The registers that WIDTH takes in a vector core (R53, R187). -/
def widRegs (w : Nat) : Nat := if w == 3 then 2 else if w == 4 then 4 else 1

/-- What a register field names (R31 to R33). -/
inductive Kind where
  /-- the field is unused and 0 (R30) -/
  | no
  /-- n vector registers; the base is a multiple of n, V255 excepted (R32) -/
  | v (n : Nat)
  /-- an X register -/
  | x
  /-- an even X register (R187, CAS at WIDTH 3) -/
  | xe
  /-- a predicate, 0 to 7 -/
  | p
  /-- a capability, 0 to 3 -/
  | cap
  /-- any number: a mash row, a party register, a plain count -/
  | raw
  | nf | ct | cv | acc | accE | byp
  /-- only the literal of form X -/
  | litOnly
  deriving DecidableEq, Repr

/-- How the literal of form X is taken to the width of operand b (R28). -/
inductive LitMode where
  | word | sext | f64
  deriving DecidableEq, Repr

/-- The shape of an instruction: its forms, what each field names, and whether its MOD is one its description allows. -/
structure Shape where
  s : Bool
  l : Bool
  x : Bool
  d : Kind := .no
  a : Kind := .no
  b : Kind := .no
  c : Kind := .no
  lit : LitMode := .word
  ok : Bool := true
  deriving DecidableEq, Repr

/-- A queue identifier that an instruction may name (R231). -/
def qidOk (q : Nat) : Bool := (q / 8 ≤ 2 && q % 8 < 4) || q / 8 == 3 || (q / 8 == 4 && q % 8 == 0)
/-- An index of the special-register table (R48). -/
def sregOk (n : Nat) : Bool := n ≤ 0x0D || (0x10 ≤ n && n ≤ 0x17) || (0x30 ≤ n && n ≤ 0x32)

/-- The rules that the memory class shares (R53, R187). -/
def memOk (core : Core) (m : BitVec 15) (maxW : Nat) (orders : List Nat) (loads scratch : Bool) (hints modes : Bool) : Bool :=
  let w := modBits m 14 12; let sc := modScope m; let o := modOrder m
  let hint := modBits m 4 3
  w ≤ maxW && (core == .vector || w ≤ 3) && sc ≤ 5 && o ≤ 5 && orders.contains o && modBits m 1 0 == 0 &&
  (if o == 0 then sc == 0 else sc != 0) && (!modBit m 11 || (loads && w < 2)) &&
  (o == 0 || ((w == 2 || w == 3) && hint == 0 && !modBit m 2)) &&
  (!scratch || sc ≤ 2) && (hints || hint == 0) && (modes || !modBit m 2)

/-- The rules of ATOM, ATOMS and RED (R53, R54, R187). -/
def atomOk (m : BitVec 15) (orders ops : List Nat) (scratch : Bool) : Bool :=
  let w := modBits m 14 12; let sc := modScope m; let o := modOrder m
  (w == 2 || w == 3) && !modBit m 11 && 1 ≤ sc && sc ≤ 5 && orders.contains o && ops.contains (modCode m) && (!scratch || sc ≤ 2)

/-- The literal mode of a numeric operand b (R28). -/
def tyLit (t : Nat) : LitMode := if t == 2 then .sext else if t == 7 then .f64 else .word

/-- A mash mask field: row c is read when MK is 1 (R294). -/
def maskKind (m : BitVec 15) : Kind := if modBit m 6 then .raw else .no
def mashOk (m : BitVec 15) (mask : Nat) : Bool := only m mask && (modBit m 6 || !modBit m 7)

/-- The kinds of a completion operand of CPY and CPYT (R247). -/
def compKind (m : BitVec 15) : Kind :=
  match modBits m 3 2 with
  | 1 => .v 2 | 2 => .v 1 | 3 => .v 1 | _ => .no

/-- The capability register class of MOD [10:8] is a pair on the handler's side (R336). -/
def rclsKind (m : BitVec 15) : Kind := if modScope m == 1 || modScope m == 4 then .v 2 else .v 1

/-- The shape of every operation (R102, R110, R117, R127, R140, R79, R166, R163, R187, R214, R219, R247, R277, R294, R322, R335,
R399), by the MOD it carries and the core that decodes it. R335 gives no type to the new PC of CAP.SETPC: that its literal is
extended with zeros, as a word, is DESIGN CHOICE, log 74. -/
def Op.shape (core : Core) (m : BitVec 15) : Op → Shape :=
  let r (n : Nat) : Kind := if core == .control then .x else .v n
  let t := modTy m; let rt := r (tyRegs t); let code := modCode m
  let lt := tyLit t
  let intT := tyInt t
  let sfu (mask : Nat) : Shape := { s := false, l := true, x := false, d := .v 1, a := .v 1, ok := t == 4 && only m mask }
  let f3 (mask : Nat) : Bool := (t == 4 || t == 5 || t == 6) && only m mask
  let i2 (mask : Nat) : Shape := { s := true, l := true, x := true, d := rt, a := rt, b := rt, lit := lt, ok := intT && only m mask }
  let i1 (ok : Bool) : Shape := { s := true, l := true, x := false, d := rt, a := rt, ok := ok }
  let fl2 (mask : Nat) : Shape := { s := true, l := true, x := true, d := rt, a := rt, b := rt, lit := lt, ok := f3 mask }
  let d2 (mask : Nat) : Shape := { s := true, l := true, x := true, d := rt, a := rt, b := rt, lit := lt, ok := t == 7 && only m mask }
  let h2 (mask : Nat) : Shape := { s := true, l := true, x := true, d := .v 1, a := .v 1, b := .v 1, ok := (t == 5 || t == 6) && only m mask }
  let comb : Bool := code ≤ 5 && !((code ≥ 3) && (t == 4 || t == 7)) && !(modBit m 9 && (t == 4 || t == 7 || code != 0)) &&
    !(modRnd m != 0 && intT) && t != 5 && t != 6
  let row (ok : Bool) : Shape := { s := false, l := true, x := false, d := .raw, a := .raw, b := .raw, c := maskKind m, ok := ok }
  fun
  | .nop => { s := true, l := true, x := false, ok := m == 0 }
  | .mov => { s := true, l := true, x := false, d := rt, a := rt, ok := only m 0x7000 && (core == .vector || intT) }
  | .movi => { s := false, l := false, x := true, d := rt, b := .litOnly, lit := lt,
               ok := only m 0x7000 && (intT || (core == .vector && (t == 4 || t == 7))) }
  | .sel => { s := false, l := true, x := true, d := rt, a := rt, b := rt, c := .p, lit := lt, ok := only m 0x7000 }
  | .iadd | .isub | .imul => i2 0x7200
  | .iaddc => { i2 0x7007 with s := false, c := .p }
  | .ineg | .iabs => i1 (only m 0x7200 && (t == 0 || t == 2))
  | .imulh | .imin | .imax | .and | .or | .xor | .andn => i2 0x7000
  | .imad => { i2 0x7200 with c := rt }
  | .imadw => { s := false, l := true, x := true, d := .v 2, a := .v 1, b := .v 1, c := .v 2, ok := t ≤ 1 && only m 0x7200 }
  | .idiv => { i2 0x7200 with s := false }
  | .irem => { i2 0x7000 with s := false }
  | .not => i1 (intT && only m 0x7000)
  | .shl | .shr | .sar | .rot => { i2 0x7000 with b := r 1, lit := .word }
  | .shf => { i2 0x7000 with b := r 1, c := rt, lit := .word }
  | .popc | .clz | .ctz => { i1 (intT && only m 0x7000) with d := r 1 }
  | .brev => i1 (intT && only m 0x7000)
  | .bfe => { i2 0x7000 with s := false, b := r 1, lit := .word }
  | .bfi => { i2 0x7000 with s := false, b := r 1, c := rt, lit := .word }
  | .prmt => { i2 0x7000 with s := false, c := rt, ok := t ≤ 1 && only m 0x7000 }
  | .lea => { s := false, l := true, x := true, d := r 2, a := r 2, b := r 1, ok := t ≤ 1 && only m 0x7007 }
  | .iset => { i2 0x701F with s := false, d := if core == .control then .x else .p, ok := intT && only m 0x701F && code ≤ 5 }
  | .idp4 => { i2 0x7203 with s := false, c := rt, ok := t ≤ 1 && only m 0x7203 }
  | .fadd | .fsub | .fmul => fl2 0x7FE0
  | .ffma => { fl2 0x7FE1 with c := rt }
  | .fmin | .fmax => fl2 0x71E0
  | .fset => { fl2 0x71FF with s := false, d := .p, ok := f3 0x71FF && code ≤ 13 }
  | .fclass => { s := false, l := true, x := false, d := .v 1, a := rt, ok := t ≥ 4 && only m 0x7000 }
  | .frnd => { s := false, l := true, x := false, d := rt, a := rt, ok := t ≥ 4 && only m 0x7D40 }
  | .fscl => { s := false, l := true, x := true, d := rt, a := rt, b := .v 1, ok := t ≥ 4 && only m 0x7F40 }
  | .dadd | .dmul => d2 0x7FE0
  | .dfma => { d2 0x7FE1 with c := rt }
  | .dset => { d2 0x71FF with s := false, d := .p, ok := t == 7 && only m 0x71FF && code ≤ 13 }
  | .hfma2 => { h2 0x7FE1 with c := .v 1 }
  | .hadd2 | .hmul2 => h2 0x7FE0
  | .sqrt => sfu 0x7D5F
  | .rcp | .rsq | .ex2 | .lg2 | .sin | .cos | .tanh => sfu 0x715F
  | .fdiv => fl2 0x7DE0
  | .ddiv => { d2 0x7DE0 with s := false }
  | .dsqrt => { s := false, l := true, x := false, d := .v 2, a := .v 2, ok := t == 7 && only m 0x7D40 }
  | .fcvt => { s := false, l := true, x := false, d := rt, a := .v (tyRegs (code % 8)), ok := t ≥ 4 && only m 0x7D47 && code ≥ 4 }
  | .f2i => { s := false, l := true, x := false, d := rt, a := .v (tyRegs (code % 8)), ok := intT && only m 0x7D47 && code ≥ 4 }
  | .i2f => { s := false, l := true, x := false, d := rt, a := .v (tyRegs (code % 8)), ok := t ≥ 4 && only m 0x7C03 }
  | .qnt => { s := false, l := true, x := true, d := .v 1, a := .v 1, b := .v 1, c := .v 1,
              ok := f3 0x7D47 && !(modBit m 2 && code % 4 != 0) }
  | .dqnt => { s := false, l := true, x := true, d := .v 1, a := .v 1, b := .v 1, c := .v 1,
               ok := f3 0x7C07 && !(modBit m 2 && code % 4 != 0) }
  | .pack => { s := false, l := true, x := true, d := .v 1, a := .v 1, b := .v 1, c := .v 1, ok := only m 0x0007 && code ≤ 4 }
  | .unpk => { s := false, l := true, x := true, d := .v 1, a := .v 1, b := .v 1, ok := only m 0x000F && code % 8 ≤ 4 }
  | .plog => { s := false, l := true, x := false, d := .p, a := .p, b := .p, c := .p, ok := only m 0x00FF }
  | .pmov => { s := false, l := true, x := false, d := if modBit m 0 then .no else .v 1, a := if modBit m 0 then .v 1 else .no,
               ok := only m 0x00FF && (modBit m 0 || m == 0) }
  | .flrd => { s := false, l := true, x := false, d := .v 1, ok := m == 0 }
  | .flclr => { s := false, l := true, x := false, ok := only m 0x001F }
  | .movs => { s := false, l := true, x := false, d := .v 1, ok := only m 0x00FF && sregOk (modBits m 7 0) }
  | .clk => { s := false, l := true, x := false, d := .v 2, ok := m == 0 }
  | .wid => { s := false, l := true, x := false, d := .v 1, ok := only m 0x000F && code % 8 ≤ 5 }
  | .setpart => { s := false, l := true, x := true, b := .v 1, ok := m == 0 }
  | .vote => { s := false, l := true, x := true, d := if code % 8 ≤ 2 then .p else .v 1, a := if modBit m 3 then .no else .p, b := .v 1,
               ok := only m 0x00EF && code % 8 ≤ 4 && modBits m 7 5 ≤ 4 && (modBit m 3 || modBits m 7 5 == 0) }
  | .shfl => { s := false, l := true, x := true, d := .v 1, a := .v 1, b := .v 1, c := .v 1, ok := only m 0x0003 }
  | .tred => { s := false, l := true, x := true, d := rt, a := if modBit m 7 then .no else rt, b := .v 1,
               ok := only m 0x7E9F && comb && (!modBit m 7 || (t == 1 && code ≥ 3)) }
  | .tscan => { s := false, l := true, x := true, d := rt, a := rt, b := .v 1, ok := only m 0x7E5F && comb }
  | .tsync => { s := false, l := true, x := true, b := .v 1, ok := m == 0 }
  | .bra => { s := false, l := false, x := true, b := .litOnly, lit := .sext, ok := m == 0 }
  | .brc => { s := false, l := false, x := true, a := rt, b := .litOnly, lit := .sext, ok := intT && only m 0x701F && code ≤ 5 }
  | .jmp | .calli => { s := false, l := true, x := false, a := r 2, ok := m == 0 }
  | .call => { s := false, l := false, x := true, b := .litOnly, lit := .sext, ok := m == 0 }
  | .ret | .exit | .yield => { s := true, l := true, x := false, ok := m == 0 }
  | .trap => { s := false, l := false, x := true, b := .litOnly, ok := m == 0 }
  | .bkpt => { s := false, l := true, x := false, ok := m == 0 }
  | .ld => { s := true, l := true, x := true, d := r (widRegs t), a := r 2, b := r 1, lit := .sext,
             ok := memOk core m 4 [0, 1, 2, 5] true false true true }
  | .st => { s := true, l := true, x := true, a := r 2, b := r 1, c := r (widRegs t), lit := .sext,
             ok := memOk core m 4 [0, 1, 3, 5] false false true true }
  | .lds => { s := true, l := true, x := true, d := r (widRegs t), a := r 1, b := r 1, ok := memOk core m 4 [0, 1, 2, 5] true true false true }
  | .sts => { s := true, l := true, x := true, a := r 1, b := r 1, c := r (widRegs t), ok := memOk core m 4 [0, 1, 3, 5] false true false true }
  | .ldl => { s := true, l := true, x := true, d := r (widRegs t), a := r 1, b := r 1, ok := memOk core m 4 [0] true false true false }
  | .stl => { s := true, l := true, x := true, a := r 1, b := r 1, c := r (widRegs t), ok := memOk core m 4 [0] false false true false }
  | .atom => { s := false, l := true, x := true, d := r (widRegs t), a := r 2, b := r 1, lit := .sext,
               c := if code == 7 then (if core == .control then (if t == 3 then .xe else .x) else .v (2 * widRegs t)) else r (widRegs t),
               ok := atomOk m [1, 2, 3, 4, 5] [0, 1, 2, 3, 4, 5, 6, 7, 8, 9, 10] false }
  | .atoms => { s := false, l := true, x := true, d := .v (widRegs t), a := .v 1, b := .v 1,
                c := if code == 7 then .v (2 * widRegs t) else .v (widRegs t),
                ok := atomOk m [1, 2, 3, 4, 5] [0, 1, 2, 3, 4, 5, 6, 7, 8, 9, 10] true }
  | .red => { s := false, l := true, x := true, a := .v 2, b := .v 1, c := .v (widRegs t), lit := .sext,
              ok := atomOk m [1, 3, 5] [0, 1, 2, 3, 4, 5, 8, 9, 10] false }
  | .fence => { s := false, l := true, x := false,
                ok := only m 0x07E0 && 1 ≤ modScope m && modScope m ≤ 5 && 2 ≤ modOrder m && modOrder m ≤ 5 }
  | .pref => { s := false, l := true, x := true, a := .v 2, b := .v 1, lit := .sext, ok := only m 0x0018 && modBits m 4 3 ≤ 2 }
  | .append => { s := false, l := true, x := true, a := .v 2, b := .v 1, ok := m == 0 }
  | .trdy => { s := false, l := true, x := true, b := r 1, ok := m == 0 }
  | .cpy => { s := false, l := true, x := true, d := compKind m, a := .v (if modBit m 4 then 1 else 2), b := .v (if modBit m 5 then 1 else 2),
              c := .v 1, lit := if modBit m 5 then .word else .sext, ok := only m 0x007F }
  | .cpyt => { s := false, l := true, x := false, d := compKind m, a := .v 2, ok := only m 0x004F }
  | .gsum => { s := false, l := true, x := true, d := if modBit m 2 then .v 2 else .no, a := .v 2, b := .v 1, lit := .sext, ok := only m 0x0007 }
  | .qsig => { s := false, l := true, x := true, a := r 2, b := r 2, lit := .sext, ok := m == 0 }
  | .qwait => { s := false, l := true, x := true, d := .p, a := .v 2, b := .v 2, ok := only m 0x00FF }
  | .qfence => { s := false, l := true, x := false, ok := only m 0x0FFF && qidOk (modBits m 5 0) && qidOk (modBits m 11 6) }
  | .trig => { s := false, l := true, x := true, a := .v 2, b := .v 2, c := .v 2, ok := only m 0x003F && qidOk (modBits m 5 0) }
  | .launch => { s := false, l := true, x := false, a := .v 2, ok := only m 0x0003 }
  | .taskpush => { s := false, l := true, x := true, a := r 2, b := r 1, lit := .sext, ok := m == 0 }
  | .cgrun => { s := false, l := true, x := false, d := if modBit m 2 then .v 2 else .no, a := .v 2, b := .v 2, ok := only m 0x000F }
  | .wltake => { s := false, l := true, x := true, d := .v 2, b := .v 1, c := .p, ok := m == 0 }
  | .carve => { s := false, l := true, x := true, a := .v 2, b := .v 1, ok := m == 0 }
  | .msLdt | .msStt => { s := false, l := true, x := true, d := .raw, a := .v 2, b := .v 1, c := maskKind m, ok := mashOk m 0x1FFF }
  | .msAdd | .msSub => row (mashOk m 0x07FF)
  | .msMul => row (mashOk m 0x0FFF && (!modBit m 11 || modBits m 5 0 < 32))
  | .msMulc => { s := false, l := false, x := true, d := .raw, a := .raw, b := .litOnly, c := maskKind m, ok := mashOk m 0x07FF }
  | .msLog => row (mashOk m 0x79FF)
  | .msCmp => row (mashOk m 0x3DFF && modBits m 13 11 ≤ 5)
  | .msSel => { row (only m 0x01BF) with c := .raw }
  | .msSet => { s := false, l := false, x := true, d := .raw, b := .litOnly, c := maskKind m, ok := mashOk m 0x05FF }
  | .msCpy => row (mashOk m 0x07FF)
  | .msShr => row (mashOk m 0x05FF)
  | .msRsum => { s := false, l := true, x := false, d := .raw, a := .v 2, c := maskKind m, ok := mashOk m 0x0DFF }
  | .msCmpt => { s := false, l := true, x := true, a := .v 2, b := .v 1, c := .raw, ok := only m 0x0180 }
  | .msRel => { s := false, l := true, x := false, a := .v 2, ok := m == 0 }
  | .barSync | .barArv | .barWait => { s := false, l := true, x := false, ok := m == 0 }
  | .mbinit | .mbdrop => { s := false, l := true, x := true, a := .v 1, b := .v 1, ok := m == 0 }
  | .mbarv => { s := false, l := true, x := true, d := .v 1, a := .v 1, b := .v 1, c := .v 1, ok := m == 0 }
  | .mbwait => { s := false, l := true, x := true, d := .p, a := .v 1, b := .v 1, ok := only m 0x00FF }
  | .mbtest => { s := false, l := true, x := true, d := .p, a := .v 1, b := .v 1, ok := m == 0 }
  | .capRdr => { s := false, l := true, x := false, d := rclsKind m, a := .cap, b := .raw, ok := only m 0x0700 && modScope m ≤ 4 }
  | .capWrr => { s := false, l := true, x := false, a := .cap, b := .raw, c := rclsKind m, ok := only m 0x0700 && modScope m ≤ 4 }
  | .capRds => { s := false, l := true, x := false, d := .v 1, a := .cap, b := if modBit m 5 then .raw else .no,
                 ok := only m 0x073F && modScope m ≤ 4 && (if modBit m 5 then code == 0 else code ≤ 18 && modScope m == 0) }
  | .capSetpc => { s := false, l := true, x := true, a := .cap, b := .v 2, ok := m == 0 }
  | .capRes | .capKill | .capStep | .capRel => { s := false, l := true, x := false, a := .cap, ok := m == 0 }
  | .capArv => { s := false, l := true, x := modBit m 0, d := .p, a := .cap, b := if modBit m 0 then .v 1 else .no, ok := only m 0x0001 }
  | .capNext => { s := false, l := true, x := false, d := .cap, ok := m == 0 }
  | .pginv => { s := false, l := true, x := false, a := .v 2, ok := only m 0x0003 }
  | .pgmig => { s := false, l := true, x := false, a := .v 2, b := .v 2, c := .v 2, ok := m == 0 }
  | .tfmt => { s := false, l := true, x := true, d := .nf, b := .x, ok := m == 0 }
  | .tct => { s := false, l := true, x := true, d := .ct, a := .x, b := .x, ok := m == 0 }
  | .tcfg => { s := false, l := true, x := true, d := .cv, a := .x, b := .x, ok := m == 0 }
  | .tzero => { s := false, l := true, x := false, d := if modBit m 0 then .accE else .acc, ok := only m 0x0001 }
  | .mma => { s := false, l := true, x := false, d := accKind, a := .x, b := .x, c := .x, ok := only m 0x000F && acctOk }
  | .mmac => { s := false, l := true, x := false, d := accKind, a := .cv, b := .x, c := .x, ok := only m 0x000F && acctOk }
  | .mmab => { s := false, l := true, x := false, d := accKind, a := .byp, b := .x, c := .x, ok := only m 0x003F && acctOk }
  | .tmac => { s := false, l := true, x := false, d := accKind, b := .x, c := .x,
               a := match modBits m 5 4 with | 0 => .x | 1 => .cv | _ => .byp, ok := acctOk && modBits m 5 4 ≤ 2 }
  | .tdrn => { s := false, l := true, x := false, a := if modBit m 2 then .accE else .acc, b := .x,
               ok := only m 0x03FF && modBits m 1 0 ≤ 2 && !(modBit m 2 && modBits m 1 0 != 0) }
  | .tdrnb => { s := false, l := true, x := false, d := .byp, a := if modBit m 2 then .accE else .acc, c := .x, ok := only m 0x000C }
  | .twait | .endt => { s := false, l := true, x := false, ok := m == 0 }
  | .tflg => { s := false, l := true, x := false, d := .x, ok := only m 0x001F }
where
  /-- ACCT of a matrix operation: F64 takes an even accumulator (R277). -/
  accKind : Kind := if modBits m 1 0 == 1 then .accE else .acc
  acctOk : Bool := modBits m 1 0 ≤ 2 && (!modBit m 2 || modBits m 1 0 == 2)

/-- A field value is one that its kind gives (R30 to R33). -/
def Kind.fieldOk (n : Nat) : Kind → Bool
  | .no => n == 0
  | .v w => n % w == 0 || n == 255
  | .x => n < 0x20
  | .xe => n < 0x20 && n % 2 == 0
  | .p => n < 8
  | .cap => n < 4
  | .raw => n < 256
  | .nf => 0x20 ≤ n && n < 0x28
  | .ct => 0x28 ≤ n && n < 0x2C
  | .cv => 0x2C ≤ n && n < 0x30
  | .acc => 0x30 ≤ n && n < 0x38
  | .accE => 0x30 ≤ n && n < 0x38 && n % 2 == 0
  | .byp => n == 0x38
  | .litOnly => false

/-- The field's block bit has a use: only a register operand read under R40 has one (R30, R110, R277, R294). -/
def Kind.hasBlk : Kind → Bool
  | .v _ | .x | .xe => true
  | _ => false

/-- The default MOD of form S (R29). -/
def Op.sMod (core : Core) : Op → BitVec 15
  | .nop | .ret | .exit | .yield => 0
  | .fadd | .fsub | .fmul | .ffma | .fmin | .fmax | .fdiv => 0x4000
  | .dadd | .dmul | .dfma => 0x7000
  | .hfma2 | .hadd2 | .hmul2 => 0x5000
  | .ld | .st | .lds | .sts | .ldl | .stl => 0x2000
  | _ => if core == .control then 0x2000 else 0

/-- Operand c of form S is the register named by DST, read with block bit 1; a store has no destination (R29, R187). -/
def FormS.expand (f : FormS) (core : Core) (o : Op) : FormL :=
  let sh := o.shape core (o.sMod core)
  let d8 : BitVec 8 := f.dst.setWidth 8
  { dst := if sh.d == .no then 0 else d8, a := f.a.setWidth 8, g := f.g, gn := false, ba := f.ba,
    b := .reg (f.b.setWidth 8) f.bb, c := if sh.c == .no then 0 else d8, bc := sh.c.hasBlk, mod := o.sMod core }

def OpB.isLit : OpB → Bool
  | .lit _ => true
  | .reg _ _ => false

/-- The guard of a form-L or form-X instruction: 7 with GN is reserved (R27); the control core has none (R33). -/
def guardOk (core : Core) (g : BitVec 3) (gn : Bool) : Bool := !(g == 7 && gn) && (core == .vector || (g == 7 && !gn))

/-- A form-L or form-X instruction meets every encoding rule of its operation on that core (R30 to R33, R51 to R58). -/
def FormL.legal (core : Core) (o : Op) (f : FormL) : Bool :=
  let sh := o.shape core f.mod
  (match core with | .vector => o.onVector | .control => o.onControl) &&
  (if f.b.isLit then sh.x else sh.l) && sh.ok &&
  (match o.sfu with | some n => modCode f.mod == n | none => true) && guardOk core f.g f.gn &&
  sh.d.fieldOk f.dst.toNat && sh.a.fieldOk f.a.toNat && sh.c.fieldOk f.c.toNat &&
  (match f.b with
   | .reg n blk => sh.b.fieldOk n.toNat && (sh.b.hasBlk || !blk) && !(o == .msCpy && n.toNat > 63)
   | .lit w => !(o == .tfmt && w.toNat ≥ 65536)) &&
  (sh.a.hasBlk || !f.ba) && (sh.c.hasBlk || !f.bc)

/-- The registers a form-S field can name: V0 to V63, or X0 to X31 on the control core (R31, R33). -/
def sFieldOk (core : Core) (k : Kind) (n : BitVec 6) : Bool := if k == .no then n == 0 else core == .vector || n.toNat < 32

/-- A form-S instruction meets every encoding rule of its operation on that core. -/
def FormS.legal (core : Core) (o : Op) (f : FormS) : Bool :=
  let sh := o.shape core (o.sMod core)
  sh.s && (match core with | .vector => o.onVector | .control => o.onControl) &&
  (core == .vector || f.g == 7) &&
  -- DST names the destination, or operand c where the instruction has no destination
  (if sh.d == .no then (if sh.c == .no then f.dst == 0 else sFieldOk core sh.c f.dst && sh.c.fieldOk f.dst.toNat)
   else sFieldOk core sh.d f.dst && sh.d.fieldOk f.dst.toNat) &&
  (sh.c == .no || sh.c.fieldOk f.dst.toNat) &&
  sFieldOk core sh.a f.a && sh.a.fieldOk f.a.toNat && sFieldOk core sh.b f.b && sh.b.fieldOk f.b.toNat &&
  (sh.a.hasBlk || !f.ba) && (sh.b.hasBlk || !f.bb)

/-- An instruction is well formed on a core when that core decodes it without ILLEGAL_OPCODE; an event is no instruction word. -/
def Instr.wellFormed (core : Core) (i : Instr) : Bool :=
  match i.op?, i.formL?, i.formS? with
  | some o, some f, _ => f.legal core o
  | some o, none, some f => f.legal core o
  | _, _, _ => false

end Sys2Proof
end

