-- ==== Sys2Proof/Decode.lean ====
section
/-!
DEFINITION. Sys2Proof/Decode.lean: from instruction words to instructions (R25 to R28, R55 to R58) and back. Decoding is total: a
header, a cut-off instruction and every word that breaks an encoding rule are rejected by name.
-/
namespace Sys2Proof

/-- What the words at an instruction position hold. -/
inductive Decoded where
  /-- an instruction and its length in words -/
  | ok (i : Instr) (len : Nat)
  /-- the first word opens a block header (R25) -/
  | header
  /-- the words end inside the instruction -/
  | short
  /-- ILLEGAL_OPCODE (R58) -/
  | illegal
  deriving DecidableEq, Repr

/-- The operation of an opcode and, for the SFU family, of its CODE (R52, R55). -/
def opOf (opc code : Nat) : Option Op := Op.all.find? fun o => o.opc == opc && (match o.sfu with | some n => n == code | none => true)

/-- Form S (R26). -/
def formSOf (w : Word) : FormS :=
  { dst := w.extractLsb' 17 6, a := w.extractLsb' 11 6, b := w.extractLsb' 5 6, ba := w.getLsbD 4, bb := w.getLsbD 3, g := w.extractLsb' 0 3 }

/-- Words 0 and 1 of form L or X (R27), with operand b given. -/
def formLOf (w0 w1 : Word) (b : OpB) : FormL :=
  { dst := w0.extractLsb' 14 8, a := w0.extractLsb' 6 8, g := w0.extractLsb' 3 3, gn := w0.getLsbD 2, ba := w0.getLsbD 1, b := b,
    c := w1.extractLsb' 16 8, bc := w1.getLsbD 15, mod := w1.extractLsb' 0 15 }

/-- The opcode field of a form-L or form-X instruction. -/
def opcL (w0 : Word) : Nat := (w0.extractLsb' 22 8).toNat

/-- Form L or X once its words are at hand. -/
def decodeLX (core : Core) (w0 w1 : Word) (b : OpB) (len : Nat) : Decoded :=
  let f := formLOf w0 w1 b
  match opOf (opcL w0) (modCode f.mod) with
  | some o => if f.legal core o then .ok (o.mkL f) len else .illegal
  | none => .illegal

/-- The decoder of a core (R25). -/
def decode (core : Core) (ws : List Word) : Decoded :=
  match ws with
  | [] => .short
  | w0 :: rest =>
    match (w0.extractLsb' 30 2).toNat with
    | 0 =>
      match opOf (w0.extractLsb' 23 7).toNat 0 with
      | some o =>
        let f := formSOf w0
        if f.legal core o then (match o.mkS f with | some i => .ok i 1 | none => .illegal) else .illegal
      | none => .illegal
    | 1 =>
      match rest with
      | w1 :: _ => decodeLX core w0 w1 (.reg (w1.extractLsb' 24 8) (w0.getLsbD 0)) 2
      | [] => .short
    | 2 =>
      match rest with
      | w1 :: w2 :: _ => if w1.extractLsb' 24 8 == 0 && !w0.getLsbD 0 then decodeLX core w0 w1 (.lit w2) 3 else .illegal
      | _ => .short
    | _ => .header

/-- The length in words that the first word of an instruction names (R25). -/
def lengthOf (w0 : Word) : Nat :=
  match (w0.extractLsb' 30 2).toNat with
  | 0 => 1 | 1 => 2 | 2 => 3 | _ => 2

def bit (b : Bool) : BitVec 1 := if b then 1 else 0

/-- The word of a form-S instruction (R26). -/
def encodeS (o : Op) (f : FormS) : List Word :=
  [0#2 ++ BitVec.ofNat 7 o.opc ++ f.dst ++ f.a ++ f.b ++ bit f.ba ++ bit f.bb ++ f.g]

/-- The words of a form-L or form-X instruction (R27, R28). -/
def encodeL (o : Op) (f : FormL) : List Word :=
  match f.b with
  | .reg n blk =>
    [1#2 ++ BitVec.ofNat 8 o.opc ++ f.dst ++ f.a ++ f.g ++ bit f.gn ++ bit f.ba ++ bit blk, n ++ f.c ++ bit f.bc ++ f.mod]
  | .lit w =>
    [2#2 ++ BitVec.ofNat 8 o.opc ++ f.dst ++ f.a ++ f.g ++ bit f.gn ++ bit f.ba ++ 0#1, 0#8 ++ f.c ++ bit f.bc ++ f.mod, w]

/-- The words of an instruction; an event has none. -/
def encode (i : Instr) : List Word :=
  match i.op?, i.formL?, i.formS? with
  | some o, some f, _ => encodeL o f
  | some o, none, some f => encodeS o f
  | _, _, _ => []

/-- The words of an instruction of `nbits` bits whose bits are `w`, first word least significant, with the words above `nbits`
zero up to the longest instruction of three words. -/
def tableWords (_nbits w : Nat) : List Word := [BitVec.ofNat 32 w, BitVec.ofNat 32 (w / 2 ^ 32), BitVec.ofNat 32 (w / 2 ^ 64)]

/-- The instruction that the decoder reads from a word of the opcode table: the vector core's, or else the control core's. -/
def decodeTableWord (nbits w : Nat) : Option Instr :=
  match decode .vector (tableWords nbits w) with
  | .ok i _ => some i
  | _ =>
    match decode .control (tableWords nbits w) with
    | .ok i _ => some i
    | _ => none

end Sys2Proof
end

