-- ==== Sys2Proof/Config.lean ====
section
/-!
DEFINITION. Sys2Proof/Config.lean: the sizes of the part (R1, R7, R15, R88) and the values the spec leaves open. An open value is an
opaque constant: no proof can see what it is, so a claim holds whatever it is. Each is named in the assumption log.
-/
namespace Sys2Proof.Config

def numStacks : Nat := 16
def numDies : Nat := 8
/-- Clusters per die, vector cores per cluster, slots per core. -/
def numClusters : Nat := 20
def numVcores : Nat := 4
def numSlots : Nat := 2048
/-- Registers of one vector core's file (R46) and bytes of its SRAM (R15). -/
def fileRegs : Nat := 131072
def sramBytes : Nat := 524288
/-- Lanes of one carved way across a die (R286). -/
def wayLanes : Nat := 524288

/-- How far a core's cycle counter advances between two readings of it (R115, R126): timing is open. Log 4. -/
opaque cycles : Nat → Nat
/-- Which of the two F32 neighbours RCP and RSQ deliver for an inexact result (R150). Log 5. -/
opaque sfuUp (code : Nat) (x : Word) : Bool
/-- The F32 bits of an inexact EX2, LG2, TANH, SIN or COS, where they keep the bound of R150; else it is the correctly rounded result. Log 5. -/
opaque sfuBits (code : Nat) (x : Word) : Nat
/-- The signature bytes that follow an attestation quote (R411), as one number. Log 6. -/
opaque signature (quote : Nat) : Nat
/-- The package's firmware image (R411), which a quote measures. Log 6. -/
opaque firmware : List (BitVec 8)
/-- The set of an L2 slice that a line of an ASID goes to, modulo the sets of a slice (R182: set selection is not architected). Log 7. -/
opaque l2Set (asid va : Nat) : Nat
/-- Where in the L1 of its core a line goes, modulo the L1's lines (the spec gives the L1 no replacement). Log 7. -/
opaque l1Place : Nat → Nat
/-- How many words more than 64 a region tag store holds with its spill area (R202: its capacity is not given). Log 50. -/
opaque tagSpare : Nat
/-- The base die at which a route of a package's routing table arrives (R376: how the ports of packages are joined is not given). Log 71. -/
opaque arrivalDie (pkg route : Nat) : Nat
/-- What firmware writes into the access tables for a context at its build (R410: the contents are not given): a master, a range of physical
addresses, and in bits 0 to 3 which of R, W, X and A is refused. Log 25. -/
opaque accessTable (asid desc : Nat) : List (Nat × Nat × Nat × Nat)
/-- Where the roots of an ASID's trees lie at a home of another package, whose firmware holds them (R303, R352). Log 65. -/
opaque remoteRoot (asid home : Nat) (striped : Bool) : Nat
/-- The set size of the die L2 (R16): slices, sets per slice (256 KiB / 128 bytes per way), ways. -/
def l2Slices : Nat := 64
def l2Sets : Nat := 2048
def l2Ways : Nat := 16

end Sys2Proof.Config
end

