-- ==== Sys2Proof/Event.lean ====
section
/-!
DEFINITION. Sys2Proof/Event.lean: the events of the part as data that State can hold: each is the row of Sys2Proof/Syntax.lean of the same
name, and means what that row means (Machine/Step.lean).
-/
namespace Sys2Proof

/-- An event that is due, or an input. -/
inductive Event where
  | threadUrgent (k : Nat)
  | holdTimeout (k : Nat)
  | yieldExpiry (k : Nat)
  | producerCompletion (id : Nat)
  | loadCompletion (id : Nat)
  | rendezvousCompletion (k : Nat)
  | mbwaitLimitExpiry (k : Nat)
  | qwaitLimitExpiry (k : Nat)
  | launchEntryHead (q : Nat)
  | groupPlacement (kern start : Nat)
  | weakGroupSave (g : Nat)
  | groupRestore (g start : Nat)
  | groupRetirement (g : Nat)
  | kernelRetirement (kern : Nat)
  | appendArrival (id : Nat)
  | quiescence (kern : Nat)
  | queueEntryStart (q : Nat)
  | copyBox (q n : Nat)
  | entryCompletion (q : Nat)
  | signalAddition (id : Nat)
  | triggerFire (id : Nat)
  | triggerEntryPush (id : Nat)
  | joinMarkerCompletion (q : Nat)
  | taskHead (q : Nat)
  | taskAdmission (cl : Nat)
  | matrixOperationAccept (cl : Nat)
  | matrixKStep (cl : Nat)
  | continuationPush (q : Nat)
  | carveEntry (q : Nat)
  | carvingComplete (die : Nat)
  | mashOperationEntry (q : Nat)
  | mashTransferEntry (q : Nat)
  | msRelEntry (q : Nat)
  | releasingComplete (die : Nat)
  | read (id : Nat)
  | write (id : Nat)
  | atomic (id : Nat)
  | resp (id : Nat)
  | ack (id : Nat)
  | marker (id : Nat)
  | markerack (id : Nat)
  | inval (id : Nat)
  | invalack (id : Nat)
  | fwd (id : Nat)
  | fwdans (id : Nat)
  | chunk (id : Nat) (outside : Option Arrival := none)
  | fw (st : Nat) (msg : BitVec 64)
  | migrationLineCopy (st n : Nat)
  | migrationSwitch (st n : Nat)
  | runEntryStart (q : Nat)
  | nodeCopy (q n : Nat)
  | nodeRadd (q n : Nat)
  | nodeRmax (q n : Nat)
  | nodeGsum (q n : Nat)
  | nodeCmp4 (q n : Nat)
  | nodeSend (q n : Nat)
  | nodeRecv (q n : Nat)
  | landingGrant (q n : Nat)
  | nodeCompletion (q n : Nat)
  | runCompletion (q : Nat)
  | crcReplay (link fails : Nat)
  | linkTraining (link : Nat)
  | linkTrained (link : Nat) (r : TrainResult)
  | laneFault (link : Nat) (control : Bool) (bundle : Nat := 0)
  | linkSelfTest (link : Nat) (lasting : Bool)
  | mastRemap (mast : Nat) (inService : Bool)
  | routeChange (st pkg : Nat) (routes : BitVec 64)
  | frozenRecordAdmit (asid : Nat)
  | handlerStart (asid : Nat)
  | handlerBudget (k : Nat)
  | level2Handling (die : Nat) (faulted : Bool)
  | contextBuild (asid : Nat)
  | contextStart (asid : Nat)
  | contextStartWhenFree (asid : Nat)
  | contextPreempt (asid : Nat)
  | contextHalt (asid : Nat)
  | contextResume (asid : Nat)
  | contextRetire (asid : Nat)
  | contextFree (asid : Nat)
  | tsliceExpiry (asid : Nat)
  | contextCut (asid : Nat)
  | drainTimeout (asid : Nat)
  | handlerCutTimeout (asid : Nat)
  | drainForward (asid : Nat)
  | doorbellWrite (master asid q : Nat) (v : BitVec 64)
  | queueEnable (q : Nat)
  | queueDisable (q : Nat)
  | queueErrClear (q : Nat)
  | diePowerOff (die : Nat)
  | diePowerOn (die : Nat)
  | operatingPointRequest (die : Nat) (p : BitVec 2)
  | operatingPointSwitch (die : Nat)
  | mmioRegisterWrite (off : BitVec 48) (bytes : Nat) (v : BitVec 64) (master : Nat := 0x100)
  | controlIntervalStart
  | activationWindowAdjust (st : Nat) (above : Bool)
  | eccError (unit : EccUnit) (correctable : Bool)
  | healthSelfTest (unit : EccUnit) (lasting spared : Bool)
  | dieFailure (die : Nat)
  | hostWriteInvalidate (pa : BitVec 56) (data : List (BitVec 8))
  | backInvalidate (pa : BitVec 56)
  | attestationQuote (nonce : BitVec 256)
  | packageReset (failure : BringUp)
  | packageFatal (image : Bool := false)
  | discardedFlit (link : Nat) (flit : BitVec 256 := 0)
  | hostHbmAccess (master : Nat) (pa : BitVec 56) (bytes : Nat) (data : Option (List (BitVec 8)))
  deriving DecidableEq, Repr

end Sys2Proof
end

