-- ==== Sys2Proof/Machine/State.lean ====
section
/-!
DEFINITION. Sys2Proof/Machine/State.lean: every piece of state the spec gives the part, as plain data, and its reset. INVENTORY.md
lists each field with the rule that names it and its reset value. Fields marked MODEL are the model's own, not the spec's.
-/
namespace Sys2Proof.Machine

/-- Memory as bytes: addresses strictly rising, no byte 0 listed (an unlisted byte reads 0: R174, R417). -/
abbrev Memory := List Host.Cell

/-- Fault codes (R325). -/
inductive FCode where
  | illegalOpcode | illegalTarget | regRange | regEmpty | regPoison | misaligned | pageFaultLoad | pageFaultFetch | protection | race
  | barrierOverrun | rendezvousMismatch | sideLogFull | softwareTrap | breakpoint | fpEngine | queueError | capInvalid | handlerBudget
  | mashRange | partitionMismatch | stackOverflow
  deriving DecidableEq, Repr

/-- Why a run of the model stops. -/
inductive Fault where
  /-- raised by `step` when the package is FATAL and no event is due: only a package reset leaves that state (R418). Safe. -/
  | packageStopped
  deriving DecidableEq, Repr

/-- Why the model gives no next state. -/
inductive Refusal where
  /-- raised by an arm of `exec` whose instruction has no meaning yet. Safe. -/
  | notModelled (mnemonic : String)
  deriving DecidableEq, Repr

/-- Where a party issues from, for scopes (R204): a die, a cluster, a group, or none for an engine of a base die. -/
structure Place where
  die     : Option Nat
  cluster : Option Nat := none
  group   : Option Nat := none
  /-- the party itself, for the GRP scope of a handler thread (R331) -/
  alone   : Option Nat := none
  /-- its vector core, whose L1 its loads fill (R181) -/
  core    : Option Nat := none
  /-- the base die of an engine, by home number -/
  stack   : Nat := 0
  deriving DecidableEq, Repr

/-- A clock: for each party, how many of its regions are known to have ended (R205, happens-before). MODEL of R205's closure. -/
abbrev Clock := FMap Nat

/-- A release that a later acquire can meet (R205). -/
structure Rel where
  uid   : Nat
  place : Place
  scope : Nat
  clk   : Clock
  deriving DecidableEq, Repr

/-- The releases at a location: `head` those that its present value carries, `all` every one of its modification order (R205). -/
structure RelLoc where
  head : List Rel := []
  all  : List Rel := []
  deriving DecidableEq, Repr

/-- A region tag of a 4-byte word (R203, R207). -/
structure Tag where
  uid    : Nat
  region : Nat
  write  : Bool
  atomic : Bool
  engine : Bool
  /-- the thread or task behind the access, and the access's own PC and address, for a deferred freeze (R196, R207) -/
  key    : Nat
  asid   : Nat
  pc     : DWord
  addr   : DWord
  entry  : Nat := 0
  kernel : Nat := 0
  /-- what the access's region followed, by which a write replayed after it is judged (R206, R315) -/
  clk    : Clock := []
  deriving DecidableEq, Repr

/-- Who makes an access: the party of R203 with its current region and clock. -/
structure Who where
  uid    : Nat
  region : Nat
  clk    : Clock
  place  : Place
  key    : Nat
  /-- the context served, and the ASID through which the access translates (R331) -/
  asid   : Nat
  tasid  : Nat
  engine : Bool
  pc     : DWord
  /-- a task's entry number, and the identifier of a party's kernel -/
  entry  : Nat := 0
  kernel : Nat := 0
  /-- the releases of its earlier release fences, which its later atomic writes carry (R205) -/
  rels   : List Rel := []
  /-- an engine's traffic with ORD = 0, which travels relaxed (R370) -/
  relaxed : Bool := false
  /-- the access's place in its party's program order -/
  seq    : Nat := 0
  deriving DecidableEq, Repr

inductive AccKind where
  | load | store | rmw
  deriving DecidableEq, Repr

/-- Where a load or atomic delivers its value. -/
inductive Dst where
  | none
  /-- n vector registers from r -/
  | v (r n : Nat)
  | x (r : Nat)
  /-- a predicate -/
  | p (r : Nat)
  /-- a CT or CV register of the control core, by its field value (R33) -/
  | tab (r : Nat)
  deriving DecidableEq, Repr

/-- An access as issued (R188 to R193). A global access has one address; a scratchpad access lists its byte locations (R178, R179). -/
structure Access where
  kind   : AccKind
  scratch : Bool
  addr   : DWord
  locs   : List Nat
  bytes  : Nat
  /-- operation code of R54; 6 for a plain or atomic store -/
  op     : Nat := 6
  data   : Nat := 0
  cmp    : Nat := 0
  width  : Nat
  sx     : Bool := false
  order  : Nat := 0
  scope  : Nat := 0
  rx     : Bool := false
  hint   : Nat := 0
  /-- the addition of a QSIG (R240) -/
  sig    : Bool := false
  dst    : Dst := .none
  pc     : DWord
  /-- a matrix-engine store of a task, and whether its data are poisoned (R266, R276) -/
  eng    : Bool := false
  bad    : Bool := false
  /-- how many low bytes of its result its destination leaves out, when a handler has written a register of a pair (R311) -/
  skip   : Nat := 0
  deriving DecidableEq, Repr

/-- The mark of a register that completed faulted, with the kept load (R41, R195, R311). -/
structure LoadMark where
  code : FCode
  acc  : Access
  deriving DecidableEq, Repr

/-- A register with its full/empty bit, faulted mark and poison mark (R39 to R42). -/
structure Cell (w : Nat) where
  val    : BitVec w
  full   : Bool := true
  mark   : Option LoadMark := none
  poison : Bool := false
  deriving DecidableEq, Repr

/-! ### Flits (R365 to R368) -/

/-- A control flit of 32 bytes, by the fields of R366. -/
structure Flit where
  kind  : BitVec 5
  vc    : BitVec 3
  hc    : Bool := false
  lmast : BitVec 2
  data  : Bool := false
  tag   : BitVec 16 := 0
  sunit : Byte
  spkg  : Byte
  dunit : Byte
  dpkg  : Byte
  addr  : DWord := 0
  asid  : BitVec 12 := 0
  width : BitVec 3 := 0
  phys  : Bool := false
  op    : Byte := 0
  count : Byte := 0
  party : Word := 0
  inline : DWord := 0
  deriving DecidableEq, Repr

/-- What crosses a link of one VC together (R368): one to four control flits, each with the model's number of the request, invalidation,
marker or beat that it belongs to, and, when they carry lines or a beat, the data flit of 512 bytes that follows them, a line in each
128 bytes, the first lowest. -/
structure Packet where
  mail : List (Flit × Nat)
  data : Option (BitVec 4096) := none
  /-- the links still to cross: it takes slots of the first one's receiver (R371) -/
  path : List Nat
  /-- its last link has delivered it, and it keeps its slot while it waits there -/
  here : Bool := false
  deriving DecidableEq, Repr

/-- The life of a request: issued, waiting in a receiver slot of its home (R371), forwarded to where its data lie and back (R370),
performed at its home, returned to its requester. -/
inductive Stage where
  | issued | arrived | forwarded | answered | performed | returned
  deriving DecidableEq, Repr

/-- A fence that still holds later accesses (R215). -/
structure Fence where
  seq   : Nat
  /-- the party's region that begins at the fence -/
  region : Nat
  order : Nat
  scope : Nat
  deriving DecidableEq, Repr

structure Req where
  id     : Nat
  seq    : Nat
  who    : Who
  acc    : Access
  stage  : Stage := .issued
  /-- the translation that a forwarded request carries (R370) -/
  pa     : Option Nat := none
  result : Nat := 0
  fault  : Option FCode := none
  poison : Bool := false
  /-- the fences of its party that hold it (R215) -/
  fences : List Fence := []
  /-- the physical address, home and leaf by which the answer may fill a line of its die's L2 (R183, R184) -/
  fill   : Option (Nat × Nat × Nat) := none
  deriving DecidableEq, Repr

/-- An arithmetic producer in flight (R153). -/
structure Prod where
  id    : Nat
  key   : Nat
  uid   : Nat
  dst   : Dst
  value : Nat
  flags : BitVec 5
  /-- a CAP.RDR reads this register (key, identity, RCLS, number) of another party once it is full or faulted (R338) -/
  src   : Option (Nat × Nat × Nat × Nat) := none
  /-- its value is poisoned (R42, R225) -/
  poison : Bool := false
  deriving DecidableEq, Repr

/-- A marker fence (R375). -/
structure Marker where
  id      : Nat
  uid     : Nat
  seq     : Nat
  target  : Nat
  count   : Nat
  arrived : Nat := 0
  /-- where its source stands, and the copies that are still to be injected, in order -/
  place   : Place := { die := none }
  todo    : List Packet := []
  deriving DecidableEq, Repr

/-- What a frozen record names (R327, R347). -/
inductive Target where
  | agent (k uid : Nat)
  | box (q n num : Nat)
  | chunk (q n num : Nat)
  | entry (q num : Nat)
  | trigger (id : Nat)
  /-- a party that has ended (KIND 4), by the record's own number -/
  | ended (id : Nat)
  deriving DecidableEq, Repr

/-- A frozen record (R327, R328). -/
structure Rec where
  code   : FCode
  lvl2   : Bool := false
  kind   : Nat
  step   : Bool := false
  done   : Bool := false
  origv  : Bool := false
  nextra : Nat := 0
  kernel : Nat := 0
  fpc    : DWord := 0
  opc    : DWord := 0
  addr   : DWord := 0
  party  : Word := 0
  qid    : Nat := 0
  entry  : Nat := 0
  x0     : Word := 0
  x1     : Word := 0
  target : Target
  asid   : Nat
  /-- what the freeze releases (R205 case 4) -/
  clk    : Clock := []
  deriving DecidableEq, Repr

/-- A capability (R332, R333). -/
structure Cap where
  record : Rec
  budget : Nat
  valid  : Bool
  deriving DecidableEq, Repr

/-- A pending delivery (R239). -/
structure Delivery where
  code  : FCode
  qid   : Nat
  entry : Nat
  x0    : Word
  deriving DecidableEq, Repr

/-- A store fault awaiting its freeze (R196). -/
structure StoreFault where
  code   : FCode
  pc     : DWord
  addr   : DWord
  nextra : Nat := 0
  x0     : Word := 0
  deriving DecidableEq, Repr

/-- A write that a home has refused (R316): the home, the write's place in its party's program order, and the write. -/
structure Refused where
  home : Nat
  seq  : Nat
  acc  : Access
  deriving DecidableEq, Repr

inductive AgentKind where
  | thread | handler | task
  deriving DecidableEq, Repr

/-- States of a thread slot (R91); EMPTY is a slot with no agent. -/
inductive TState where
  | ready | waiting | held | frozen | stepping | exited
  deriving DecidableEq, Repr

/-- What a WAITING party waits for. -/
inductive Wait where
  | none
  /-- a register, a predicate or a queue's room: the instruction is tried again (R40, R43) -/
  | retry
  /-- a rendezvous at its PC (R98) -/
  | rendezvous
  /-- its group barrier (R220) -/
  | barrier
  /-- a memory barrier object at a location, for phase p (R226) -/
  | object (loc phase limit : Nat)
  /-- a signal reaching a threshold (R251) -/
  | signal (va thr : DWord) (limit : Nat)
  /-- an item of a work list (R168) -/
  | take (list : Nat)
  /-- earlier accesses or engine operations of its own, or a PGINV at its homes -/
  | own
  /-- room in the matrix engine (R280) -/
  | engine
  deriving DecidableEq, Repr

/-- How the PC was reached (R35, R36). -/
inductive Entry where
  | inside
  /-- the entry header of a kernel, handler or task -/
  | start
  /-- a transfer by the instruction at `src` -/
  | jump (src : DWord)
  /-- left the block after the instruction at `src` -/
  | fall (src : DWord)
  deriving DecidableEq, Repr

/-- The block a party stands in (R34, R37). -/
structure Block where
  head : DWord
  stop : DWord
  conv : Bool
  /-- some of its words could not be read at entry: R37's checks of them are still to come -/
  part : Bool := false
  deriving DecidableEq, Repr

/-- Group-barrier states (R216). -/
inductive Bar where
  | none | arrived | passed
  deriving DecidableEq, Repr

/-- A party that issues instructions: a thread, a handler thread or a task (R45, R49, R50, R90, R261). -/
structure Agent where
  kind    : AgentKind
  uid     : Nat
  asid    : Nat
  tasid   : Nat
  kernel  : Nat := 0
  group   : Nat := 0
  lin     : Nat := 0
  nregs   : Nat
  state   : TState := .ready
  wait    : Wait := .none
  pc      : DWord
  entry   : Entry := .start
  blk     : Option Block := none
  reconv  : DWord := 0
  age     : Nat := 0
  /-- MODEL: cycles spent HELD, or waiting with a LIMIT (R95, R226, R251) -/
  waited  : Nat := 0
  urgent  : Bool := false
  yielding : Bool := false
  /-- cycles since its YIELD (R107) -/
  yielded : Nat := 0
  /-- the length in bytes of the instruction that it froze at (R108) -/
  stopLen : Nat := 8
  v       : FMap (Cell 32) := []
  x       : FMap (Cell 64) := []
  preds   : BitVec 7 := 0
  pfull   : BitVec 7 := 127
  ppoison : BitVec 7 := 0
  fl      : BitVec 5 := 0
  rstk    : Nat := 0
  /-- the skip mark, by PC (R100) -/
  skips   : List DWord := []
  /-- the instruction a WAITING party waits in (or whose wait has been answered); for a rendezvous also its mask and operands -/
  inst    : Option (Op × FormL × Nat) := none
  /-- what a LAUNCH, CPYT, TASKPUSH or GSUM that waits for room in its queue has read (R163) -/
  image   : Option Nat := none
  mask    : Nat := 0
  ra      : Nat := 0
  rb      : Nat := 0
  bar     : Bar := .none
  barClk  : Clock := []
  -- the party (R201, R203 to R207)
  region  : Nat := 0
  clk     : Clock := []
  relF    : List Rel := []
  /-- what its relaxed atomics and WLTAKEs observed since its last acquire fence (R205) -/
  acqP    : List Rel := []
  fences  : List Fence := []
  seq     : Nat := 0
  relaxed : List Nat := []
  sfault  : Option StoreFault := none
  pending : List Delivery := []
  refused : List Refused := []
  /-- MODEL: one more than the last place in program order of an access that has been performed (log 68) -/
  top     : Nat := 0
  -- handler part (R332, R333)
  caps    : FMap Cap := []
  lastC0  : Option Rec := none
  nexted  : Bool := false
  -- frozen part
  record  : Option Rec := none
  -- task part: its TASK queue and entry
  queue   : Nat := 0
  entryNo : Nat := 0
  deriving DecidableEq, Repr

/-- A sequencer record (R274), with the PC of its instruction. -/
structure SeqRec where
  opc  : Nat
  dst  : Nat
  af   : Nat
  mod  : BitVec 15
  next : Nat := 0
  aop  : DWord := 0
  bop  : DWord := 0
  fmw  : DWord := 0
  pc   : DWord
  /-- the party and region it was issued in, its place in program order, and the bytes it names: whether global, from, how many (R266) -/
  who  : Who
  seq  : Nat
  ext  : List (Bool × Nat × Nat) := []
  /-- the fences of its task that hold it (R215) -/
  fences : List Fence := []
  deriving DecidableEq, Repr

/-- BYP: a tile with its format tag (R50, R282). -/
structure Byp where
  fmt    : Nat
  desc   : BitVec 16
  codes  : FMap Nat
  poison : Bool := false
  deriving DecidableEq, Repr

/-- The control core's special registers and the matrix engine of one cluster (R50, R261, R274). -/
structure Engine where
  nf   : FMap (BitVec 16) := []
  ct   : FMap Nat := []
  cv   : FMap Nat := []
  /-- accumulator n's word (i, j) at 1024 n + 32 i + j -/
  acc  : FMap Word := []
  accPoison : List Nat := []
  byp  : Option Byp := none
  ops  : List SeqRec := []
  /-- an operation waiting for room (R280) -/
  want : Option SeqRec := none
  rstk : List DWord := []
  /-- TCT and TCFG loads that completed faulted, by field value (R275) -/
  tabMark : FMap LoadMark := []
  join : DWord := 0
  cont : DWord := 0
  code : Nat := 0
  /-- the cluster set of the running task has retired (R263) -/
  barred : Bool := false
  deriving DecidableEq, Repr

/-- A cluster: its energy account (R260, R353), its scheduler's turn (R258) and its engine. -/
structure Cluster where
  remaining : Nat := 150000
  admitted  : Nat := 0
  charged   : FMap Nat := []
  admittedBy : FMap Nat := []
  turn      : Nat := 0
  eng       : Engine := {}
  deriving DecidableEq, Repr

inductive KState where
  | queued | placing | running | retiring | retired | rejected | aborted
  deriving DecidableEq, Repr

/-- A kernel: its launch header (R156), identifier and state (R159, R161). -/
structure Kernel where
  asid   : Nat
  ident  : Nat
  hdr    : Nat
  state  : KState := .placing
  /-- the lowest GROUP never placed, and those flushed (R159, R173) -/
  next   : Nat := 0
  back   : List Nat := []
  /-- what the threads of a flushed group had done when it was flushed: its new threads follow it (R174) -/
  backClk : FMap Clock := []
  gone   : Nat := 0
  q      : Nat
  entryNo : Nat
  quiet  : Bool := false
  wldrop : Bool := false
  clk    : Clock := []
  /-- the die that each of its die sets stands on, from the first placement of a group of it (R159) -/
  dieOf  : FMap Nat := []
  deriving DecidableEq, Repr

inductive GState where
  | resident | retiring | saved
  deriving DecidableEq, Repr

/-- A placed group (R172, R173, R354); UNPLACED and RETIRED groups are not listed. -/
structure Group where
  kernel : Nat
  index  : Nat
  state  : GState := .resident
  core   : Nat
  warp   : Nat
  cset   : Nat
  /-- PART of each static warp of the group, by warp within the group; 32 when not listed (R96) -/
  part   : FMap Nat := []
  issued : Nat := 0
  /-- MODEL: its barrier phases completed so far (R217), for statements; nothing reads it (log 1) -/
  phases : Nat := 0
  /-- what a save keeps: the threads by linear index and the scratchpad slice (R174, R357) -/
  kept   : FMap Agent := []
  keptMem : Memory := []
  keptPoison : List Nat := []
  keptRels : FMap RelLoc := []
  deriving DecidableEq, Repr

/-- One addition to a residency token, with what it released (R254, R262). -/
structure TokAdd where
  tok   : Nat
  count : Nat
  clk   : Clock
  deriving DecidableEq, Repr

/-- A cluster set on its cluster: SRAM range, residency tokens, TASK-queue slot (R172, R254, R434). -/
structure CSet where
  kernel  : Nat
  index   : Nat
  cluster : Nat
  base    : Nat
  size    : Nat
  toks    : FMap Nat := []
  adds    : List TokAdd := []
  slot    : Nat
  /-- its groups that have not retired -/
  live    : Nat
  retired : Bool := false
  /-- false while it is saved or flushed: it then holds no cluster, range or slot (R174) -/
  placed  : Bool := true
  deriving DecidableEq, Repr

/-- A work list (R164): its items, each with what its APPEND released, and its waiting takers in order of arrival, by party. -/
structure WList where
  items  : List (DWord × List Rel) := []
  takers : List Nat := []
  deriving DecidableEq, Repr

/-- An APPEND in flight (R167). -/
structure Appending where
  id     : Nat
  key    : Nat
  uid    : Nat
  kernel : Nat
  list   : Nat
  item   : DWord
  /-- the releases of its thread's earlier release fences (R170, R205) -/
  rels   : List Rel := []
  deriving DecidableEq, Repr

inductive QState where
  | disabled | idle | active | faulted | halted | saved
  deriving DecidableEq, Repr

/-- Who pushed an entry (R239), and what its push released. -/
structure EntryMeta where
  issuer : Option (Nat × Nat) := none
  host   : Bool := false
  /-- the issuing thread's group, which scratchpad endpoints, objects and tokens belong to (R245) -/
  group  : Option Nat := none
  /-- that group has been flushed, and what belongs to it alone is lost (R245) -/
  gone   : Bool := false
  /-- a join marker: its second queue and that queue's PUSHED (R252) -/
  marker : Option (Nat × Nat) := none
  /-- a TASK entry that completed with 0x24 behind a running task (R263) -/
  flushed : Bool := false
  /-- the code that the reading of a trigger's image gave the entry (R207, R241) -/
  code   : Nat := 0
  clk    : Clock := []
  lclk   : List Rel := []
  deriving DecidableEq, Repr

/-- A node that has ended and not completed: what its completion releases, its party, and the homes that have had relaxed traffic of it
and no marker since (R375, R388). -/
structure Ended where
  clk  : Clock
  uid  : Nat
  homes : List Nat := []
  deriving DecidableEq, Repr

/-- A collective run in progress (R383 to R398), or one node entry. -/
structure GRun where
  image   : DWord := 0
  /-- by node index, the node's 64 bytes -/
  nodes   : FMap Nat
  bases   : FMap DWord := []
  /-- what every node's start acquires (R388) -/
  clk     : Clock := []
  /-- counters, by 64 × stack + number, and what their increments released, in order, by 8192 × that + place -/
  counts  : FMap Nat := []
  cclk    : FMap Clock := []
  /-- nodes that have ended but not completed -/
  ran     : FMap Ended := []
  done    : List Nat := []
  granted : List Nat := []
  /-- the bytes of spill room that a granted SEND has reserved -/
  spillGrant : FMap Nat := []
  stopped : List Nat := []
  single  : Bool := false
  deriving DecidableEq, Repr

/-- The head entry of a queue in progress. -/
structure Head where
  num     : Nat
  img     : Nat
  who     : Who
  done    : List Nat := []
  stopped : List Nat := []
  skip    : Bool := false
  finished : Bool := false
  code    : Nat := 0
  wldrop  : Bool := false
  marked  : Bool := false
  /-- the homes that have had relaxed traffic of it and no marker since (R375) -/
  homes   : List Nat := []
  /-- a copy's destination lines that take poisoned data (R238) -/
  bad     : List Nat := []
  run     : Option GRun := none
  deriving DecidableEq, Repr

/-- A byte decrement kept for an object of a saved group (R228): its window offset, cluster set, bytes and entry. -/
structure Decrement where
  off   : Nat
  cset  : Nat
  bytes : Nat
  who   : Who
  deriving DecidableEq, Repr

/-- A queue: its record (R233), its place, its entries' issuers, its head, and its mash part (R291, R292). -/
structure Queue where
  asid   : Nat
  qid    : Nat
  /-- virtual address of the record (R434), and its QID field, which the host may write (R233) -/
  recVa  : DWord
  qidf   : Option Nat := none
  ring   : DWord
  logn   : Nat
  en     : Bool := true
  hoe    : Bool := false
  dbe    : Bool := false
  flags  : BitVec 5 := 0
  fen    : BitVec 5 := 0
  err    : Bool := false
  state  : QState := .idle
  kept   : QState := .idle
  lastcode : Nat := 0
  pushed : Nat := 0
  doneN  : Nat := 0
  errnum : Nat := 0
  bmap   : DWord := 0
  /-- a TASK queue out of its slot: its pending entries' images and status words (R434) -/
  out    : FMap (Nat × Nat) := []
  ents   : FMap EntryMeta := []
  head   : Option Head := none
  clk    : Clock := []
  cset   : Nat := 0
  kdecl  : Nat := 0
  siga   : DWord := 0
  /-- continuation records waiting for room (R285), each with the code that its reading gave the entry (R207) -/
  conts  : List (Nat × Clock × Nat) := []
  /-- byte decrements kept for saved groups (R228) -/
  decs   : List Decrement := []
  deriving DecidableEq, Repr

/-- `fired`: due, its image not read yet (latched while its context does not run, R242); `room`: its entry waits for a free slot;
`page`: its image lies on an absent page. -/
inductive TrigState where
  | armed | fired | room | page
  deriving DecidableEq, Repr

/-- A trigger (R241, R242). -/
structure Trig where
  id     : Nat
  asid   : Nat
  tasid  : Nat
  home   : Nat
  signal : DWord
  thr    : DWord
  image  : DWord
  q      : Nat
  issuer : Option (Nat × Nat)
  /-- the issuing thread's group, and whether it has been flushed since (R245) -/
  group  : Option Nat := none
  gone   : Bool := false
  state  : TrigState := .armed
  img    : Nat := 0
  code   : Nat := 0
  clk    : Clock := []
  deriving DecidableEq, Repr

/-- A signal addition of a migration that a cut has latched (R324). -/
structure SigAdd where
  who : Who
  va  : DWord
  deriving DecidableEq, Repr

/-- One entry of a home's side log (R313). -/
structure LogEntry where
  who : Who
  acc : Access
  /-- the releases that the write carries (R205) -/
  rels : List Rel := []
  deriving DecidableEq, Repr

/-- A TLB entry: a page of an ASID and its leaf (R308). `set` is 0 for homed addresses, 1 + the stripe set otherwise. -/
structure Tlb where
  asid : Nat
  set  : Nat
  base : Nat
  size : Nat
  leaf : Nat
  /-- physical address of the leaf entry in memory, for ACC and DRT (R305) -/
  at_  : Nat
  deriving DecidableEq, Repr

/-- A hold of a chunk on a page (R318). -/
structure Hold where
  q    : Nat
  node : Nat
  asid : Nat
  set  : Nat := 0
  base : Nat
  size : Nat
  /-- the leaf that the chunk uses -/
  leaf : Nat
  deriving DecidableEq, Repr

/-- A PGINV or PGMIG in progress at a home (R318, R323): its handler thread, its range, and whether its invalidations have gone out. -/
structure Closing where
  uid  : Nat
  asid : Nat
  set  : Nat
  base : Nat
  size : Nat
  sent : Bool := false
  /-- lines to invalidate that no invalidation is out for yet: die and address -/
  todo : List (Nat × Nat) := []
  deriving DecidableEq, Repr

/-- A page migration (R319 to R321). -/
structure Mig where
  asid   : Nat
  tasid  : Nat
  base   : Nat
  size   : Nat
  old    : Nat
  new    : Nat
  copied : Nat := 0
  /-- its page is PRESENT again, and only its signal's addition is still to come (R321) -/
  switched : Bool := false
  leafAt : Nat
  signal : DWord
  clk    : Clock := []
  deriving DecidableEq, Repr

/-- A graph held in an engine's store, with its header as it was read (R386). -/
structure Stored where
  asid  : Nat
  image : DWord
  hdr   : Nat
  nodes : FMap Nat
  used  : Nat
  deriving DecidableEq, Repr

/-- A spilled arrival (R396). -/
structure Spilled where
  asid  : Nat
  comm  : Nat
  tag   : Nat
  chunk : Nat
  len   : Nat
  addr  : DWord
  /-- offsets of its poisoned bytes, and what its SEND's start had acquired (R388) -/
  bad   : List Nat := []
  clk   : Clock
  deriving DecidableEq, Repr

/-- A posted RECV (R395). -/
structure Post where
  q    : Nat
  node : Nat
  num  : Nat
  asid : Nat
  comm : Nat
  tag  : Nat
  chunk : Nat
  deriving DecidableEq, Repr

/-- A collective chunk in flight to a stack of a package (R395): what a SEND has sent. -/
structure Beat where
  id    : Nat
  asid  : Nat
  pkg   : Nat := 0
  stack : Nat
  comm  : Nat
  tag   : Nat
  chunk : Nat
  data  : List Byte
  bad   : List Nat := []
  /-- the bytes of spill room reserved for it -/
  room  : Option Nat := none
  clk   : Clock
  /-- its beats that are still to be injected, in order -/
  todo  : List Packet := []
  deriving DecidableEq, Repr

/-- A base die (R12, R303, R313, R363, R377, R386, R414, R416). -/
structure Base where
  roots  : FMap (Nat × Nat) := []
  tlb    : List Tlb := []
  logs   : FMap (List LogEntry) := []
  holds  : List Hold := []
  closings : List Closing := []
  migs   : List Mig := []
  store  : List Stored := []
  spills : List Spilled := []
  /-- posted RECVs in post order -/
  posts  : List Post := []
  /-- the queue that the engine served last, for its round robin (R397) -/
  turn   : Nat := 0
  /-- the COPY queue of each priority that a copy engine served last (R237) -/
  copyTurn : FMap Nat := []
  errCount : Nat := 0
  actwin : BitVec 16 := 20
  actNow : Nat := 20
  remap  : Word := 0xFE4
  /-- the routing table in force, and as firmware wrote it before routes left service (R377, R379) -/
  routes : FMap DWord := []
  fullRoutes : FMap DWord := []
  fw     : List DWord := []
  highRun : Nat := 0
  deriving DecidableEq, Repr

/-- A die's mash region (R288, R290): the descriptor, and row r as the number whose bit L is lane L's bit. -/
structure Mash where
  state  : Nat := 0
  owned  : Bool := false
  ways   : Nat := 0
  owner  : Nat := 0
  rows   : FMap Nat := []
  poison : List Nat := []
  deriving DecidableEq, Repr

/-- A compute die (R412, R413, R415). -/
structure Die where
  req    : BitVec 2 := 1
  oppt   : BitVec 2 := 1
  pstate : BitVec 2 := 0
  result : Byte := 0
  want   : Option (BitVec 2) := none
  /-- the point in force (R412) -/
  point  : BitVec 2 := 1
  allow  : BitVec 24 := 150000
  amps   : Byte := 26
  mash   : Mash := {}
  /-- the mast remap register of its attach ports (R363) -/
  remap  : Word := 0xFE4
  level2 : List Rec := []
  deriving DecidableEq, Repr

/-- A line held in a die L2, in a way of a set of a slice, with its L1 copies: by core, at which line of its SRAM (R175, R181 to R185). -/
structure Line where
  die   : Nat
  asid  : Nat
  va    : Nat
  home  : Nat
  pa    : Nat
  dirty : Bool
  keep  : Bool
  slice : Nat
  set   : Nat
  way   : Nat
  l1    : FMap Nat
  deriving DecidableEq, Repr

/-- An invalidation from a home to a die L2 (R317, R367). -/
structure Inval where
  id    : Nat
  die   : Nat
  asid  : Nat
  va    : Nat
  acked : Bool := false
  /-- the home that sent it (R371) -/
  home  : Nat := 0
  deriving DecidableEq, Repr

inductive LState where
  | down | training | up | degraded | fenced | retired
  deriving DecidableEq, Repr

/-- The lane faults of one mast-link bundle or port (R372). -/
structure Lanes where
  data : Nat := 0
  ctl  : Nat := 0
  deriving DecidableEq, Repr

/-- A link (R372, R373): its lane faults, by bundle, of which an attach port has two on each mast (R11), and how often its oldest
unacknowledged flit has been replayed (R369). -/
structure Link where
  state  : LState := .down
  lanes  : FMap Lanes := []
  replay : Nat := 0
  deriving DecidableEq, Repr

inductive CState where
  | free | built | runnable | running | cutting | saved | halted | error | retired
  deriving DecidableEq, Repr

inductive Choice where
  | drain | save | flush
  deriving DecidableEq, Repr

/-- A cut in progress (R354, R355). -/
structure Cut where
  choices  : FMap Choice := []
  ready    : Bool := false
  forwarded : Bool := false
  fromHalt : Bool := false
  deriving DecidableEq, Repr

/-- What a save keeps beside its groups and queues (R357). -/
structure Saved where
  tasks    : List (Nat × Agent × Engine × Nat) := []
  handlers : FMap Agent := []
  mash     : List (Nat × Mash) := []
  deriving DecidableEq, Repr

/-- A context: its descriptor (R350), state and status (R349, R409), frozen queue (R329), cut and saved state. -/
structure Ctx where
  desc    : Nat
  state   : CState := .built
  sliced  : Bool := false
  cause   : Nat := 0
  ntrans  : Word := 0
  nextK   : Nat := 1
  fq      : List Rec := []
  parked  : List Rec := []
  stripes : FMap (BitVec 128) := []
  cut     : Option Cut := none
  saved   : Saved := {}
  latched : List SigAdd := []
  deriving DecidableEq, Repr

/-- Host-visible registers of ST0 and ST15 (R407, R408). -/
structure HostRegs where
  ready   : Bool := false
  fatal   : Bool := false
  stage   : BitVec 3 := 0
  fwerr   : Byte := 0
  err     : Bool := false
  ctxdesc : DWord := 0
  reqAsid : BitVec 12 := 0
  reqOp   : BitVec 3 := 0
  result  : Byte := 0
  busy    : Bool := false
  deriving DecidableEq, Repr

/-- An entry of an access table that refuses a master some permission over a window, and the context at whose build firmware wrote it
(R410). -/
structure Denial where
  asid   : Option Nat := none
  master : Nat
  lo     : Nat
  hi     : Nat
  r : Bool
  w : Bool
  x : Bool
  a : Bool
  deriving DecidableEq, Repr

/-- An MSI-X message of the physical function (R409, R416). -/
inductive Msi where
  | context (asid : Nat) (st : CState)
  | errlog (stack : Nat)
  deriving DecidableEq, Repr

/-- An attestation quote (R411). -/
structure Quote where
  nonce    : BitVec 256
  firmware : BitVec 512
  contexts : List (Nat × BitVec 512)
  sig      : Nat
  deriving DecidableEq, Repr

/-- The state of the part. -/
structure State where
  /-- MODEL: the events and inputs due, first first (log 1) -/
  agenda   : List Event
  /-- MODEL: the parties of the dynamic warp that an instruction acts for (R93, log 1) -/
  issuing  : List Nat
  /-- MODEL: the issue port that issued last (log 1) -/
  lastPort : Nat
  /-- MODEL: counters for fresh identifiers and free values (log 2) -/
  nextId   : Nat
  nextUid  : Nat
  free     : Nat
  /-- this package's number, 0–239 (R48 PACKAGE) -/
  package  : Nat
  /-- ST0's cycle counter (R416) -/
  cycle    : Nat
  agents   : FMap Agent
  clusters : FMap Cluster
  /-- each vector core's cycle counter as last read (R115) -/
  clocks   : FMap DWord
  mem      : Memory
  sram     : Memory
  /-- poisoned 4-byte words: physical memory by address / 4, scratchpad above 2^60 -/
  poison   : List Nat
  tags     : FMap (List Tag)
  rels     : FMap RelLoc
  lines    : List Line
  /-- the replacement tree of each set of a die L2, bit n for its node n (R183) -/
  plru     : FMap Nat
  invals   : List Inval
  /-- what is on the fabric, in the order of its sending over the link that it is on (R365, R371, R374) -/
  fabric   : List Packet
  reqs     : List Req
  prods    : List Prod
  markers  : List Marker
  kernels  : FMap Kernel
  groups   : FMap Group
  csets    : FMap CSet
  lists    : FMap WList
  appends  : List Appending
  queues   : FMap Queue
  trigs    : List Trig
  beats    : List Beat
  ctxs     : FMap Ctx
  /-- what CTXSTAT keeps of a context that has been freed, but for STATE, until the next build (R409) -/
  ctxGone  : FMap Nat
  bases    : FMap Base
  dies     : FMap Die
  links    : FMap Link
  /-- remaps and route changes whose sources are stopped until the fabric has drained (R364, R379) -/
  changes  : List Event
  host     : HostRegs
  denied   : List Denial
  msi      : List Msi
  quotes   : List Quote
  deriving DecidableEq, Repr

/-- The part right after reset (R4, R90, R363, R407, R409, R413, R414, R417): STAGE 0, every context FREE, every link DOWN, every
register at its stated reset value, memory with nothing listed. -/
def State.reset : State :=
  { agenda := [], issuing := [], lastPort := 0, nextId := 0, nextUid := 1, free := 0, package := 0, cycle := 0, agents := [], clusters := [],
    clocks := [], mem := [], sram := [], poison := [], tags := [], rels := [], lines := [], plru := [], invals := [], fabric := [], reqs := [], prods := [],
    markers := [], kernels := [], groups := [], csets := [], lists := [], appends := [], queues := [], trigs := [],
    beats := [], ctxs := [], ctxGone := [], bases := [], dies := [], links := [], changes := [], host := {}, denied := [], msi := [], quotes := [] }

end Sys2Proof.Machine
end

