-- ==== Sys2Proof/Machine/Ops.lean ====
section
/-!
DEFINITION. Sys2Proof/Machine/Ops.lean: the named operations over the state: maps, memory, places, registers, regions and clocks,
and TAKING A FAULT: the freeze of R326 with its record (R327, R328) and the return from it (R343).
-/
namespace Sys2Proof.Machine

/-! ### Maps -/

def fget? {α : Type} : FMap α → Nat → Option α
  | [], _ => none
  | (k, v) :: t, n => if k == n then some v else if n < k then none else fget? t n

def fput {α : Type} : FMap α → Nat → α → FMap α
  | [], n, x => [(n, x)]
  | (k, v) :: t, n, x => if n < k then (n, x) :: (k, v) :: t else if n == k then (n, x) :: t else (k, v) :: fput t n x

def fdel {α : Type} (m : FMap α) (n : Nat) : FMap α := m.filter fun p => p.1 != n

def fgetD {α : Type} (m : FMap α) (n : Nat) (d : α) : α := (fget? m n).getD d

/-- Keys strictly rising. -/
def fwf {α : Type} : FMap α → Bool
  | [] => true
  | [_] => true
  | (a, _) :: (b, y) :: t => a < b && fwf ((b, y) :: t)

/-- The natural numbers from `a`, `n` of them. -/
def upFrom (a : Nat) : Nat → List Nat
  | 0 => []
  | n + 1 => a :: upFrom (a + 1) n

/-- Bits [hi:lo] of a number. -/
def bitsN (x hi lo : Nat) : Nat := x / 2 ^ lo % 2 ^ (hi + 1 - lo)
def bitN (x n : Nat) : Bool := x / 2 ^ n % 2 == 1
/-- `x` with bits [hi:lo] replaced by `v`. -/
def setBitsN (x hi lo v : Nat) : Nat := x - bitsN x hi lo * 2 ^ lo + v % 2 ^ (hi + 1 - lo) * 2 ^ lo
/-- The two's-complement reading of a w-bit number, and back. -/
def toS (w x : Nat) : Int := if x % 2 ^ w < 2 ^ (w - 1) then (x % 2 ^ w : Nat) else (x % 2 ^ w : Nat) - (2 ^ w : Nat)
def ofS (w : Nat) (x : Int) : Nat := (x % (2 ^ w : Nat)).toNat
def sext (w wide x : Nat) : Nat := ofS wide (toS w x)
def ceilDiv (a b : Nat) : Nat := (a + b - 1) / b

/-! ### Memory (R3, R62) -/

def Memory.get : Memory → Nat → Byte
  | [], _ => 0
  | (k, v) :: t, n => if k == n then v else if n < k then 0 else Memory.get t n

/-- Writing the byte that an unlisted address reads as removes the entry. -/
def Memory.set : Memory → Nat → Byte → Memory
  | [], n, x => if x == 0 then [] else [(n, x)]
  | (k, v) :: t, n, x =>
    if n < k then (if x == 0 then (k, v) :: t else (n, x) :: (k, v) :: t)
    else if n == k then (if x == 0 then t else (n, x) :: t)
    else (k, v) :: Memory.set t n x

/-- The canonical form: addresses strictly rising and no byte 0 listed. -/
def Memory.wf : Memory → Bool
  | [] => true
  | [(_, v)] => v != 0
  | (a, v) :: (b, y) :: t => v != 0 && a < b && Memory.wf ((b, y) :: t)

/-- `n` bytes from `a`, the first least significant. -/
def readN (m : Memory) (a : Nat) : Nat → Nat
  | 0 => 0
  | n + 1 => (Memory.get m a).toNat + 256 * readN m (a + 1) n

def writeN (m : Memory) (a v : Nat) : Nat → Memory
  | 0 => m
  | n + 1 => writeN (Memory.set m a (BitVec.ofNat 8 v)) (a + 1) (v / 256) n

/-- Bytes at listed places, the first least significant. -/
def readLocs (m : Memory) : List Nat → Nat
  | [] => 0
  | a :: t => (Memory.get m a).toNat + 256 * readLocs m t

def writeLocs (m : Memory) : List Nat → Nat → Memory
  | [], _ => m
  | a :: t, v => writeLocs (Memory.set m a (BitVec.ofNat 8 v)) t (v / 256)

def bytesOf (v : Nat) : Nat → List Byte
  | 0 => []
  | n + 1 => BitVec.ofNat 8 v :: bytesOf (v / 256) n
def ofBytes : List Byte → Nat
  | [] => 0
  | b :: t => b.toNat + 256 * ofBytes t

/-- Adds to, and removes from, a rising list without repeats. -/
def lput : List Nat → Nat → List Nat
  | [], n => [n]
  | k :: t, n => if n < k then n :: k :: t else if n == k then k :: t else k :: lput t n
def ldel (l : List Nat) (n : Nat) : List Nat := l.filter (· != n)

/-! ### Places and keys (R23, R88) -/

/-- Thread keys are core × 2048 + slot, with core = (die × 20 + cluster) × 4 + vcore; task keys follow them. -/
def taskBase : Nat := 2000000
def isTask (k : Nat) : Bool := k ≥ taskBase
def coreOf (k : Nat) : Nat := if isTask k then (k - taskBase) * 4 else k / 2048
def slotOf (k : Nat) : Nat := if isTask k then 0 else k % 2048
def clusterOf (k : Nat) : Nat := coreOf k / 4
def dieOf (k : Nat) : Nat := clusterOf k / 20
def laneOf (k : Nat) : Nat := slotOf k % 32
def warpOf (k : Nat) : Nat := slotOf k / 32
/-- A place of a core's scratchpad SRAM in the one scratchpad map. -/
def sramLoc (core off : Nat) : Nat := core * Config.sramBytes + off
/-- The word key of a physical byte address, and of a scratchpad byte. -/
def wordOf (pa : Nat) : Nat := pa / 4
def sramWord (loc : Nat) : Nat := 2 ^ 60 + loc / 4

/-! ### Looking up -/

def agent? (s : State) (k : Nat) : Option Agent := fget? s.agents k
def putAgent (s : State) (k : Nat) (a : Agent) : State := { s with agents := fput s.agents k a }
def modAgent (s : State) (k : Nat) (f : Agent → Agent) : State :=
  match agent? s k with
  | some a => putAgent s k (f a)
  | none => s
/-- The agent with that key, if it is still the same party. -/
def party? (s : State) (k uid : Nat) : Option Agent := (agent? s k).filter (·.uid == uid)
def cluster (s : State) (c : Nat) : Cluster := fgetD s.clusters c {}
def putCluster (s : State) (c : Nat) (x : Cluster) : State := { s with clusters := fput s.clusters c x }
def engine (s : State) (c : Nat) : Engine := (cluster s c).eng
def putEngine (s : State) (c : Nat) (e : Engine) : State := putCluster s c { cluster s c with eng := e }
def base (s : State) (b : Nat) : Base := fgetD s.bases b {}
def putBase (s : State) (b : Nat) (x : Base) : State := { s with bases := fput s.bases b x }
def dieSt (s : State) (d : Nat) : Die := fgetD s.dies d {}
def putDie (s : State) (d : Nat) (x : Die) : State := { s with dies := fput s.dies d x }
def ctx? (s : State) (a : Nat) : Option Ctx := fget? s.ctxs a
def putCtx (s : State) (a : Nat) (c : Ctx) : State := { s with ctxs := fput s.ctxs a c }
def modCtx (s : State) (a : Nat) (f : Ctx → Ctx) : State :=
  match ctx? s a with
  | some c => putCtx s a (f c)
  | none => s
def group? (s : State) (g : Nat) : Option Group := fget? s.groups g
def putGroup (s : State) (g : Nat) (x : Group) : State := { s with groups := fput s.groups g x }
def kernel? (s : State) (k : Nat) : Option Kernel := fget? s.kernels k
def putKernel (s : State) (k : Nat) (x : Kernel) : State := { s with kernels := fput s.kernels k x }
def cset? (s : State) (c : Nat) : Option CSet := fget? s.csets c
def putCSet (s : State) (c : Nat) (x : CSet) : State := { s with csets := fput s.csets c x }
def queue? (s : State) (q : Nat) : Option Queue := fget? s.queues q
def putQueue (s : State) (q : Nat) (x : Queue) : State := { s with queues := fput s.queues q x }
def link (s : State) (n : Nat) : Link := fgetD s.links n {}

/-- The key of a context's queue: KIND 0–3 by identifier (R231), TASK queues by their cluster set (R257). -/
def qkey (asid qid : Nat) : Nat := asid * 0x20000 + qid
def taskQkey (ck : Nat) : Nat := 2 ^ 120 + ck
/-- Keys of kernels, groups and cluster sets. -/
def kkey (asid ident : Nat) : Nat := asid * 2 ^ 32 + ident
def gkey (kern index : Nat) : Nat := kern * 2 ^ 64 + index
def lkey (kern d : Nat) : Nat := kern * 4096 + d

/-! ### Context descriptor fields (R350) -/

def Ctx.npkg (c : Ctx) : Nat := bitsN c.desc 31 24
def Ctx.diemask (c : Ctx) : Nat := bitsN c.desc 23 16
def Ctx.brk (c : Ctx) : Bool := bitN c.desc 12
def Ctx.hasid (c : Ctx) : Nat := bitsN c.desc 43 32
def Ctx.nh (c : Ctx) : Nat := 8 * (bitsN c.desc 48 44 + 1)
def Ctx.fqlog (c : Ctx) : Nat := bitsN c.desc 53 49
def Ctx.mashq (c : Ctx) : Nat := bitsN c.desc 57 54
def Ctx.tqlog (c : Ctx) : Nat := bitsN c.desc 62 58
def Ctx.slq (c : Ctx) : Nat := let n := bitsN c.desc 73 64; if n == 0 then 512 else n
def Ctx.teq (c : Ctx) : Nat := bitsN c.desc 95 80
def Ctx.tslice (c : Ctx) : Nat := bitsN c.desc 127 96
def Ctx.hentry (c : Ctx) : Nat := bitsN c.desc 191 128
def Ctx.qarea (c : Ctx) : Nat := bitsN c.desc 255 192
def Ctx.privb (c : Ctx) : Nat := bitsN c.desc 319 256
def Ctx.stripe (c : Ctx) : Nat := bitsN c.desc 383 320
def Ctx.rootsPa (c : Ctx) : Nat := bitsN c.desc 447 384
def Ctx.savePa (c : Ctx) : Nat := bitsN c.desc 511 448
def Ctx.savesz (c : Ctx) : Nat := bitsN c.desc 575 512
def Ctx.ntsq (c : Ctx) : Nat := bitsN c.desc 591 576
def Ctx.hasDie (c : Ctx) (d : Nat) : Bool := bitN c.diemask d
/-- The dies of a mask in ascending order. -/
def diesOf (mask : Nat) : List Nat := (upFrom 0 8).filter (bitN mask)
/-- Bytes of one TASK-queue slot (R434). -/
def Ctx.tsz (c : Ctx) : Nat := 4096 * ceilDiv (4096 + 68 * 2 ^ c.tqlog) 4096

/-! ### Launch header fields (R156, R157) -/

def Kernel.entry (k : Kernel) : Nat := bitsN k.hdr 63 0
def Kernel.nregs (k : Kernel) : Nat := 8 * (bitsN k.hdr 68 64 + 1)
def Kernel.scr (k : Kernel) : Nat := 65536 * bitsN k.hdr 71 69
def Kernel.priv (k : Kernel) : Nat := 1024 * (bitsN k.hdr 81 72 + 1)
def Kernel.cls (k : Kernel) : Nat := bitsN k.hdr 83 82
def Kernel.idem (k : Kernel) : Bool := bitN k.hdr 84
def Kernel.nfld (k : Kernel) : Nat := bitsN k.hdr 87 85
def Kernel.gb (k : Kernel) : Nat := bitsN k.hdr 98 96
def Kernel.cb (k : Kernel) : Nat := bitsN k.hdr 101 99
def Kernel.db (k : Kernel) : Nat := bitsN k.hdr 104 102
def Kernel.ext (k : Kernel) (n : Nat) : Nat := bitsN k.hdr (32 * n + 159) (32 * n + 128)
def Kernel.est (k : Kernel) : Nat := bitsN k.hdr 351 320
def Kernel.nwl (k : Kernel) : Nat := bitsN k.hdr 363 352
def Kernel.wlcapl (k : Kernel) : Nat := bitsN k.hdr 368 364
def Kernel.signal (k : Kernel) : Nat := bitsN k.hdr 447 384
def Kernel.side (k : Kernel) : Nat := bitsN k.hdr 511 448
/-- The product of the extents of fields lo to hi − 1. -/
def Kernel.prod (k : Kernel) (lo hi : Nat) : Nat := ((upFrom lo (hi - lo)).map k.ext).foldl (· * ·) 1
/-- Group size S, groups per cluster set G, cluster sets per die set, groups, cluster sets (R157). -/
def Kernel.size (k : Kernel) : Nat := k.prod 0 k.gb
def Kernel.perSet (k : Kernel) : Nat := k.prod k.gb k.cb
def Kernel.groups (k : Kernel) : Nat := k.prod k.gb k.nfld
def Kernel.sets (k : Kernel) : Nat := k.prod k.cb k.nfld
def Kernel.perDie (k : Kernel) : Nat := if k.db == 0 then 1 else k.prod k.cb k.db
def Kernel.warps (k : Kernel) : Nat := ceilDiv k.size 32

/-! ### Work identifiers (R48, R157) -/

/-- The index of field f of the thread with linear index n of group g, and its extent (R116). -/
def Kernel.field (k : Kernel) (wid f : Nat) : Nat := if f < k.nfld then wid / k.prod 0 f % k.ext f else 0
def Kernel.extent (k : Kernel) (f : Nat) : Nat := if f < k.nfld then k.ext f else 1

/-! ### Clocks, regions and scopes (R201, R204, R205) -/

/-- The later of two clocks, party by party. -/
def cmax (a b : Clock) : Clock := b.foldl (fun m (k, v) => if fgetD m k 0 < v then fput m k v else m) a

/-- A party's place (R204). The tasks of a control core have cluster scope for GRP. -/
def placeOf (k : Nat) (a : Agent) : Place :=
  { die := some (dieOf k), cluster := some (clusterOf k),
    group := if a.kind == .thread then some a.group else none, core := if a.kind == .task then none else some (coreOf k),
    alone := if a.kind == .handler then some a.uid else none }

/-- Place q lies within scope `sc` of a party at place p (R204): 1 GRP, 2 CLU, 3 DIE, 4 PKG, 5 SYS. -/
def inScope (sc : Nat) (p q : Place) : Bool :=
  match sc with
  | 1 => match p.alone, p.group with
    | some u, _ => q.alone == some u
    | none, some g => q.group == some g
    | none, none => p.cluster.isSome && q.cluster == p.cluster
  | 2 => p.cluster.isSome && q.cluster == p.cluster
  | 3 => p.die.isSome && q.die == p.die
  | _ => true

/-- The party that an agent is now. -/
def whoOf (k : Nat) (a : Agent) : Who :=
  { uid := a.uid, region := a.region, clk := a.clk, place := placeOf k a, key := k, asid := a.asid, tasid := a.tasid, engine := false, pc := a.pc, entry := a.entryNo,
    kernel := if a.kind == .handler then 0 else a.kernel % 2 ^ 32, rels := a.relF, seq := a.seq }

/-- The end of a party's region (R201). -/
def Agent.endRegion (a : Agent) : Agent := { a with region := a.region + 1 }
/-- What a release of the party says has ended: everything it knows, and its own regions so far. -/
def Agent.relClk (a : Agent) : Clock := fput a.clk a.uid a.region
def Agent.acquire (a : Agent) (c : Clock) : Agent := { a with clk := cmax a.clk c }
def endRegion (s : State) (k : Nat) : State := modAgent s k Agent.endRegion
def acquire (s : State) (k : Nat) (c : Clock) : State := modAgent s k (·.acquire c)

/-- The releases of a list that a party at place q acquires with scope `sc` (R205: each within the other's scope). -/
def acquired (rs : List Rel) (sc : Nat) (q : Place) : Clock :=
  (rs.filter fun r => inScope r.scope r.place q && inScope sc q r.place).foldl (fun c r => cmax c r.clk) []

/-! ### Registers (R31, R32, R45, R50) -/

def cell0 {w : Nat} : Cell w := { val := 0 }
/-- Vector register n; V255 reads 0, always full (R39, R45). -/
def Agent.vcell (a : Agent) (n : Nat) : Cell 32 := if n ≥ 255 then cell0 else fgetD a.v n cell0
def Agent.setV (a : Agent) (n : Nat) (c : Cell 32) : Agent :=
  if n ≥ 255 then a else { a with v := fput a.v n c }
/-- X register n; X0 reads 0, always full (R50). -/
def Agent.xcell (a : Agent) (n : Nat) : Cell 64 := if n == 0 || n ≥ 32 then cell0 else fgetD a.x n cell0
def Agent.setX (a : Agent) (n : Nat) (c : Cell 64) : Agent :=
  if n == 0 || n ≥ 32 then a else { a with x := fput a.x n c }
/-- Predicate n; P7 is always true and full (R39, R45). -/
def Agent.pval (a : Agent) (n : Nat) : Bool := n == 7 || a.preds.getLsbD n
def Agent.pready (a : Agent) (n : Nat) : Bool := n == 7 || a.pfull.getLsbD n
def setBit7 (w : BitVec 7) (n : Nat) (b : Bool) : BitVec 7 := if b then w ||| (1#7 <<< n) else w &&& ~~~(1#7 <<< n)
def Agent.setP (a : Agent) (n : Nat) (b : Bool) : Agent :=
  if n ≥ 7 then a else { a with preds := setBit7 a.preds n b, pfull := setBit7 a.pfull n true, ppoison := setBit7 a.ppoison n false }
def Agent.emptyP (a : Agent) (n : Nat) : Agent := if n ≥ 7 then a else { a with pfull := setBit7 a.pfull n false, ppoison := setBit7 a.ppoison n false }
def Agent.poisonP (a : Agent) (n : Nat) : Agent := if n ≥ 7 then a else { a with ppoison := setBit7 a.ppoison n true }

/-- The registers that a vector operand of n registers from r names; V255 as a base names itself alone (R32). -/
def vregs (r n : Nat) : List Nat := if r == 255 then [255] else upFrom r n
/-- The value of a vector operand, the register named first least significant. -/
def Agent.vval (a : Agent) (r n : Nat) : Nat :=
  if r == 255 then 0 else ((upFrom 0 n).map fun i => (a.vcell (r + i)).val.toNat * 2 ^ (32 * i)).foldl (· + ·) 0
/-- Writes a vector destination: full, unmarked, unpoisoned (R42). -/
def Agent.putV (a : Agent) (r n x : Nat) : Agent :=
  if r == 255 then a else (upFrom 0 n).foldl (fun a i => a.setV (r + i) { val := BitVec.ofNat 32 (x / 2 ^ (32 * i)) }) a
def Agent.putX (a : Agent) (r x : Nat) : Agent := a.setX r { val := BitVec.ofNat 64 x }
def Agent.emptyV (a : Agent) (r n : Nat) : Agent :=
  if r == 255 then a else (upFrom 0 n).foldl (fun a i => a.setV (r + i) { a.vcell (r + i) with full := false, mark := none, poison := false }) a
def Agent.emptyX (a : Agent) (r : Nat) : Agent := a.setX r { a.xcell r with full := false, mark := none, poison := false }

/-- Delivers a value to a destination. -/
def Agent.deliver (a : Agent) (d : Dst) (x : Nat) : Agent :=
  match d with
  | .v r n => a.putV r n x
  | .x r => a.putX r x
  | .p r => a.setP r (x % 2 == 1)
  | _ => a
/-- A destination that completes faulted: empty and marked (R41, R195). -/
def Agent.markDst (a : Agent) (d : Dst) (m : LoadMark) : Agent :=
  match d with
  | .v r n => if r == 255 then a else (upFrom 0 n).foldl (fun a i => a.setV (r + i) { a.vcell (r + i) with full := false, mark := some m }) a
  | .x r => a.setX r { a.xcell r with full := false, mark := some m }
  | _ => a
def Agent.poisonDst (a : Agent) (d : Dst) : Agent :=
  match d with
  | .v r n => if r == 255 then a else (upFrom 0 n).foldl (fun a i => a.setV (r + i) { a.vcell (r + i) with poison := true }) a
  | .x r => a.setX r { a.xcell r with poison := true }
  | .p r => a.poisonP r
  | _ => a
def Agent.emptyDst (a : Agent) (d : Dst) : Agent :=
  match d with
  | .v r n => a.emptyV r n
  | .x r => a.emptyX r
  | .p r => a.emptyP r
  | _ => a
/-- The destination of an instruction that waits at a rendezvous is empty (R39), and keeps its marks in case it is left as it was. -/
def Agent.openDst (a : Agent) (d : Dst) : Agent :=
  match d with
  | .v r n => if r == 255 then a else (upFrom 0 n).foldl (fun a i => a.setV (r + i) { a.vcell (r + i) with full := false }) a
  | .x r => a.setX r { a.xcell r with full := false }
  | .p r => if r ≥ 7 then a else { a with pfull := setBit7 a.pfull r false }
  | _ => a
/-- A destination that its producer leaves as it found it is full again, unless it was faulted (R41, R123). -/
def Agent.refillDst (a : Agent) (d : Dst) : Agent :=
  match d with
  | .v r n => if r == 255 then a else (upFrom 0 n).foldl (fun a i => let c := a.vcell (r + i); a.setV (r + i) { c with full := c.mark.isNone }) a
  | .x r => let c := a.xcell r; a.setX r { c with full := c.mark.isNone }
  | .p r => if r ≥ 7 then a else { a with pfull := setBit7 a.pfull r true }
  | _ => a
/-- The destination is V255 (or there is none): a load to it freezes at the load itself (R41). -/
def Dst.isVoid : Dst → Bool
  | .v r _ => r == 255
  | .x r => r == 0
  | .p r => r ≥ 7
  | .none => true
  | .tab _ => false

/-- A refused write is kept in its place of the party's program order, the later of equals last (R316). -/
def Agent.refuse (a : Agent) (x : Refused) : Agent :=
  { a with refused := a.refused.filter (·.seq ≤ x.seq) ++ [x] ++ a.refused.filter (x.seq < ·.seq) }

/-! ### The freeze (R326 to R328) -/

/-- Fault code numbers (R325). -/
def FCode.num : FCode → Nat
  | .illegalOpcode => 0x01 | .illegalTarget => 0x02 | .regRange => 0x03 | .regEmpty => 0x04 | .regPoison => 0x05 | .misaligned => 0x06
  | .pageFaultLoad => 0x07 | .pageFaultFetch => 0x08 | .protection => 0x09 | .race => 0x0A | .barrierOverrun => 0x0B
  | .rendezvousMismatch => 0x0C | .sideLogFull => 0x0D | .softwareTrap => 0x0E | .breakpoint => 0x0F | .fpEngine => 0x10
  | .queueError => 0x11 | .capInvalid => 0x12 | .handlerBudget => 0x13 | .mashRange => 0x14 | .partitionMismatch => 0x15
  | .stackOverflow => 0x16

/-- The PARTY word of an agent's record (R327). -/
def partyWord (s : State) (k : Nat) : Word :=
  BitVec.ofNat 32 (slotOf k + (if isTask k then 0 else coreOf k % 4) * 2 ^ 11 + clusterOf k % 20 * 2 ^ 13 + dieOf k * 2 ^ 18 + s.package * 2 ^ 21)

/-- A record enters its context's frozen queue, or waits at its party while the queue is full (R329). -/
def queueRec (s : State) (r : Rec) : State :=
  modCtx s r.asid fun c =>
    if c.fq.length < 2 ^ c.fqlog && c.parked.isEmpty then { c with fq := c.fq ++ [r] } else { c with parked := c.parked ++ [r] }

/-- What a fault says beyond its code. -/
structure FInfo where
  addr : DWord := 0
  opc  : Option DWord := none
  done : Bool := false
  nextra : Nat := 0
  qid  : Nat := 0
  entry : Nat := 0
  x0   : Word := 0
  x1   : Word := 0
  /-- a delivery of R239: QID and ENTRY name the entry that failed -/
  other : Bool := false
  deriving DecidableEq, Repr

/-- The record of an agent's freeze at its PC. QID and ENTRY are a task's own, but for a delivery, which names its entry (R239, R328). -/
def mkRec (s : State) (k : Nat) (a : Agent) (code : FCode) (i : FInfo) : Rec :=
  let opc := i.opc.getD a.pc
  let own := a.kind == .task && !i.other
  { code := code, lvl2 := a.kind == .handler, kind := match a.kind with | .thread => 0 | .task => 1 | .handler => 5,
    step := a.state == .stepping, done := i.done, origv := opc != a.pc, nextra := i.nextra,
    kernel := if a.kind == .handler then 0 else a.kernel % 2 ^ 32, fpc := a.pc, opc := opc, addr := i.addr, party := partyWord s k,
    qid := if own then 0x20 else i.qid, entry := if own then a.entryNo else i.entry, x0 := i.x0, x1 := i.x1,
    target := .agent k a.uid, asid := a.asid, clk := (a.endRegion).relClk }

/-- Every capability that names a party, updated (a stepping party's record stays with its capability, R342), and with it the record
that MOVS shows of C0 (R48). -/
def updateCaps (s : State) (p : Rec → Bool) (f : Cap → Cap) : State :=
  { s with agents := s.agents.map fun (k, a) => (k, { a with
      caps := a.caps.map fun (n, c) => (n, if p c.record then f c else c)
      lastC0 := match fget? a.caps 0 with | some c => if c.valid && p c.record then some (f c).record else a.lastC0 | none => a.lastC0 }) }

/-- TAKING A FAULT (R326): the party stops where it stands with its state in place, its region ends, and its record is queued: in
its context's frozen queue, or for a handler thread in its die's level-2 queue (R334). A party that was stepping keeps its
record with the capability (R342). -/
def freeze (s : State) (k : Nat) (code : FCode) (i : FInfo := {}) : State :=
  match agent? s k with
  | none => s
  | some a =>
    let r := mkRec s k a code i
    let held := s.agents.any fun (_, h) => h.caps.any fun (_, c) => c.valid && c.record.target == r.target
    let s := putAgent s k { a.endRegion with state := .frozen, wait := .none, inst := none, image := none, record := some r, age := 0, urgent := false }
    if a.state == .stepping && held then updateCaps s (fun q => q.target == r.target) fun c => { c with record := r }
    else if a.kind == .handler then putDie s (dieOf k) { dieSt s (dieOf k) with level2 := (dieSt s (dieOf k)).level2 ++ [r] }
    else queueRec s r

/-- Changes a party that is saved with its group or, for a task, with its context; none when no such party is saved. -/
def modSaved (s : State) (uid : Nat) (f : Agent → Agent) : Option State :=
  let inGroup (g : Group) : Bool := g.kept.any fun (_, t) => t.uid == uid
  let inCtx (c : Ctx) : Bool := c.saved.tasks.any fun (_, t, _, _) => t.uid == uid
  if s.groups.any (fun (_, g) => inGroup g) then
    some { s with groups := s.groups.map fun (n, g) => (n, { g with kept := g.kept.map fun (i, t) => (i, if t.uid == uid then f t else t) }) }
  else if s.ctxs.any (fun (_, c) => inCtx c) then
    some { s with ctxs := s.ctxs.map fun (n, c) => (n, { c with saved := { c.saved with
      tasks := c.saved.tasks.map fun (i, t, e, d) => (i, if t.uid == uid then f t else t, e, d) } }) }
  else none

/-- A store fault of a party awaits its freeze (R196); one found after its writer has ended is a KIND 4 record (R315). "The oldest" of
several is the one found first: DESIGN CHOICE, log 51. -/
def storeFault (s : State) (key uid asid : Nat) (code : FCode) (pc addr : DWord) (entry kernel : Nat) : State :=
  match party? s key uid with
  | some a => if a.state == .exited then dead else putAgent s key (hit a)
  | none => (match modSaved s uid hit with | some s => s | none => dead)
where
  hit (a : Agent) : Agent := { a with sfault := match a.sfault with
    | none => some { code := code, pc := pc, addr := addr }
    | some f => some { f with nextra := min 255 (f.nextra + 1) } }
  dead : State := queueRec { s with nextId := s.nextId + 1 }
    { code := code, kind := 4, kernel := kernel, fpc := pc, opc := pc, addr := addr, party := partyWord s key,
      qid := if isTask key then 0x20 else 0, entry := entry, target := .ended s.nextId, asid := asid }

/-- A party frozen at its own load (R41: destination V255; R433: a read without a destination). -/
def freezeAt (s : State) (k : Nat) (code : FCode) (addr : DWord) : State := freeze s k code { addr := addr }

/-! ### Fresh numbers -/

def freshId (s : State) : Nat × State := (s.nextId, { s with nextId := s.nextId + 1 })
def freshUid (s : State) : Nat × State := (s.nextUid, { s with nextUid := s.nextUid + 1 })

/-! ### Deliveries (R239) -/

/-- Makes a delivery pending for an issuer; it is lost with its party. -/
def deliverTo (s : State) (issuer : Option (Nat × Nat)) (d : Delivery) : State :=
  match issuer with
  | none => s
  | some (k, uid) =>
    match party? s k uid with
    | some a => if a.state == .exited then s else putAgent s k { a with pending := a.pending ++ [d] }
    | none =>
      -- a saved party keeps its deliveries (R239)
      (modSaved s uid fun t => { t with pending := t.pending ++ [d] }).getD s

end Sys2Proof.Machine
end

