-- ==== Sys2Proof/Machine/Flags.lean ====
section
/-!
DEFINITION. Sys2Proof/Machine/Flags.lean: numbers. The formats of R61 to R63 as exact values, RoundNF with its flags (R64, R68),
the narrow formats (R65 to R67), scales and curves (R69 to R73), exact sums, quotients and roots, the special functions (R149 to
R152), and integer results (R125). Flags are bits NV 0, DZ 1, OF 2, UF 3, NX 4 (R47).
-/
namespace Sys2Proof.Machine

def fNV : BitVec 5 := 1
def fDZ : BitVec 5 := 2
def fOF : BitVec 5 := 4
def fUF : BitVec 5 := 8
def fNX : BitVec 5 := 16

/-! ### Exact values -/

/-- An exact number: a finite one is (−1)^neg × m × 2^e, and m = 0 is a zero with its sign. -/
inductive Num where
  | nan (signalling : Bool)
  | inf (neg : Bool)
  | fin (neg : Bool) (m : Nat) (e : Int)
  deriving DecidableEq, Repr

/-- A magnitude: m × 2^e, or strictly between that and (m + 1) × 2^e when sticky. -/
structure Mag where
  m : Nat
  e : Int
  sticky : Bool := false
  deriving DecidableEq, Repr

def Num.isNan : Num → Bool
  | .nan _ => true
  | _ => false
def Num.isSig : Num → Bool
  | .nan true => true
  | _ => false
def Num.isInf : Num → Bool
  | .inf _ => true
  | _ => false
def Num.isZero : Num → Bool
  | .fin _ 0 _ => true
  | _ => false
def Num.neg? : Num → Bool
  | .nan _ => false
  | .inf n => n
  | .fin n _ _ => n
def Num.flip : Num → Num
  | .nan b => .nan b
  | .inf n => .inf (!n)
  | .fin n m e => .fin (!n) m e
def Num.abs : Num → Num
  | .nan b => .nan b
  | .inf _ => .inf false
  | .fin _ m e => .fin false m e

/-- m × 2^e on the exponent e', which is at most e. -/
def scaleTo (m : Nat) (e e' : Int) : Nat := m * 2 ^ (e - e').toNat
def signed (n : Bool) (m : Nat) : Int := if n then -(m : Int) else m
/-- An integer times 2^e; a zero takes the sign given. -/
def ofInt (x : Int) (e : Int) (zneg : Bool) : Num := if x == 0 then .fin zneg 0 0 else .fin (x < 0) x.natAbs e

/-- The sign of an exact zero sum (R141): the common sign of two zeros, else + except under RD (mode 2). -/
def zeroSign (a b : Num) (rnd : Nat) : Bool :=
  if a.isZero && b.isZero && a.neg? == b.neg? then a.neg? else rnd == 2

/-- a + b exactly, for operands that are no NaN and not opposite infinities. -/
def addN (a b : Num) (rnd : Nat) : Num :=
  match a, b with
  | .fin na ma ea, .fin nb mb eb =>
    if ma == 0 && mb == 0 then .fin (zeroSign a b rnd) 0 0 else
    if ma == 0 then b else if mb == 0 then a else
    let e := if ea ≤ eb then ea else eb
    ofInt (signed na (scaleTo ma ea e) + signed nb (scaleTo mb eb e)) e (rnd == 2)
  | .inf n, _ => .inf n
  | _, .inf n => .inf n
  | x, _ => x

/-- a × b exactly, for operands that are no NaN and not 0 × ∞. -/
def mulN (a b : Num) : Num :=
  let n := a.neg? != b.neg?
  match a, b with
  | .fin _ ma ea, .fin _ mb eb => .fin n (ma * mb) (ea + eb)
  | _, _ => .inf n

/-- a < b for operands that are no NaN, with −0 equal to +0. -/
def ltN (a b : Num) : Bool :=
  match a, b with
  | .inf na, .inf nb => na && !nb
  | .inf na, _ => na
  | _, .inf nb => !nb
  | .fin na ma ea, .fin nb mb eb =>
    let e := if ea ≤ eb then ea else eb
    signed na (scaleTo ma ea e) < signed nb (scaleTo mb eb e)
  | _, _ => false
def eqN (a b : Num) : Bool := !a.isNan && !b.isNan && !ltN a b && !ltN b a

/-! ### IEEE formats (R61, R63) -/

/-- An IEEE format: exponent bits and fraction bits. -/
structure Fmt where
  eb : Nat
  mb : Nat
  deriving DecidableEq, Repr

def f64 : Fmt := ⟨11, 52⟩
def f32 : Fmt := ⟨8, 23⟩
def f16 : Fmt := ⟨5, 10⟩
def bf16 : Fmt := ⟨8, 7⟩
/-- The format of a floating TYPE (R51). -/
def tyFmt (t : Nat) : Fmt := match t with | 5 => f16 | 6 => bf16 | 7 => f64 | _ => f32
def Fmt.width (f : Fmt) : Nat := 1 + f.eb + f.mb
def Fmt.bias (f : Fmt) : Nat := 2 ^ (f.eb - 1) - 1
/-- The canonical NaN (R63). -/
def Fmt.nan (f : Fmt) : Nat := (2 ^ f.eb - 1) * 2 ^ f.mb + 2 ^ (f.mb - 1)
def Fmt.inf (f : Fmt) (neg : Bool) : Nat := (if neg then 2 ^ (f.eb + f.mb) else 0) + (2 ^ f.eb - 1) * 2 ^ f.mb
/-- The largest finite magnitude. -/
def Fmt.max (f : Fmt) (neg : Bool) : Nat := f.inf neg - 1

def Fmt.decode (f : Fmt) (x : Nat) : Num :=
  let neg := bitN x (f.eb + f.mb); let e := bitsN x (f.eb + f.mb - 1) f.mb; let m := bitsN x (f.mb - 1) 0
  if e == 2 ^ f.eb - 1 then (if m == 0 then .inf neg else .nan (!bitN m (f.mb - 1)))
  else if e == 0 then .fin neg m (1 - (f.bias : Int) - f.mb)
  else .fin neg (2 ^ f.mb + m) ((e : Int) - f.bias - f.mb)

/-- floor(log2) of a nonzero magnitude. -/
def Mag.log2 (x : Mag) : Int := (Nat.log2 x.m : Int) + x.e

/-- Rounds a magnitude to a whole number of quanta 2^q under a mode (0 RN, 1 RZ, 2 RD, 3 RU): the count and whether it is inexact. -/
def roundMag (neg : Bool) (x : Mag) (q : Int) (rnd : Nat) : Nat × Bool :=
  if q ≤ x.e then
    let n := scaleTo x.m x.e q
    -- a sticky magnitude is only ever rounded at a coarser quantum than its own
    (n + (if x.sticky && ((rnd == 2 && neg) || (rnd == 3 && !neg)) then 1 else 0), x.sticky)
  else
    let d := (q - x.e).toNat
    let n := x.m / 2 ^ d; let r := x.m % 2 ^ d; let half := 2 ^ (d - 1)
    let inexact := r != 0 || x.sticky
    let up := match rnd with
      | 0 => half < r || (r == half && (x.sticky || n % 2 == 1))
      | 2 => neg && inexact
      | 3 => !neg && inexact
      | _ => false
    (if up then n + 1 else n, inexact)

/-- The overflow result of R64. -/
def overflowUp (neg : Bool) (rnd : Nat) : Bool := match rnd with | 0 => true | 1 => false | 2 => neg | _ => !neg

/-- RoundNF of a magnitude to an IEEE format, with its flags (R64: tininess before rounding). -/
def Fmt.round (f : Fmt) (neg : Bool) (x : Mag) (rnd : Nat) : Nat × BitVec 5 :=
  let s := if neg then 2 ^ (f.eb + f.mb) else 0
  if x.m == 0 && !x.sticky then (s, 0) else
  let emin : Int := 1 - (f.bias : Int)
  let lg := x.log2
  let tiny := x.m == 0 || lg < emin
  let q : Int := (if tiny then emin else lg) - f.mb
  let (n, inexact) := roundMag neg x q rnd
  -- n quanta of 2^q: the biased exponent and fraction fall out of one sum, carries included
  let code := if tiny then n else ((lg + f.bias).toNat - 1) * 2 ^ f.mb + n
  if code ≥ (2 ^ f.eb - 1) * 2 ^ f.mb then ((if overflowUp neg rnd then f.inf neg else f.max neg), fOF ||| fNX)
  else (s + code, (if inexact then fNX else 0) ||| (if tiny && inexact then fUF else 0))

/-- RoundNF of an exact value to an IEEE format; a signalling NaN sets NV (R63). -/
def Fmt.ofNum (f : Fmt) (x : Num) (rnd : Nat) : Nat × BitVec 5 :=
  match x with
  | .nan sg => (f.nan, if sg then fNV else 0)
  | .inf n => (f.inf n, 0)
  | .fin n m e => f.round n { m := m, e := e } rnd

/-! ### Narrow formats (R65 to R68) -/

structure Nf where
  width : Nat
  sgn   : Bool
  ew    : Nat
  mw    : Int
  bias  : Nat
  top   : Bool
  nzn   : Bool
  ovf   : Nat
  cw    : Nat
  deriving DecidableEq, Repr

def nfOf (d : BitVec 16) : Nf :=
  let x := d.toNat
  let cw := bitsN x 15 14
  let width := match cw with | 0 => 8 | 1 => 6 | _ => 4
  let sgn := bitN x 13; let ew := bitsN x 12 10
  { width := width, sgn := sgn, ew := ew, mw := (width : Int) - (if sgn then 1 else 0) - ew, bias := bitsN x 9 4, top := bitN x 3,
    nzn := bitN x 2, ovf := bitsN x 1 0, cw := cw }

def Nf.m (n : Nf) : Nat := n.mw.toNat
/-- The format has an infinity, and a NaN (R67). -/
def Nf.hasInf (n : Nf) : Bool := n.top
def Nf.hasNan (n : Nf) : Bool := n.nzn || (n.top && n.m ≥ 1)
/-- A valid descriptor for the container of format code 4, 5 or 6 (R66). -/
def Nf.valid (n : Nf) (fmt : Nat) : Bool :=
  n.cw != 3 && 0 ≤ n.mw && !(n.top && n.ew < 2) && !(n.nzn && !n.sgn) && n.ovf ≤ 1 && !(n.ovf == 1 && !n.hasInf && !n.hasNan) && n.cw + 4 == fmt

def Nf.nan (n : Nf) : Nat := if n.nzn then 2 ^ (n.width - 1) else (2 ^ n.ew - 1) * 2 ^ n.m + 2 ^ (n.m - 1)
def Nf.infCode (n : Nf) (neg : Bool) : Nat := (if neg && n.sgn then 2 ^ (n.width - 1) else 0) + (2 ^ n.ew - 1) * 2 ^ n.m
/-- The code of the largest finite magnitude. -/
def Nf.maxMag (n : Nf) : Nat := if n.top then (2 ^ n.ew - 1) * 2 ^ n.m - 1 else 2 ^ (n.ew + n.m) - 1

/-- The value of a code (R67). -/
def Nf.decode (n : Nf) (c : Nat) : Num :=
  let s := n.sgn && bitN c (n.width - 1); let e := if n.ew == 0 then 0 else bitsN c (n.m + n.ew - 1) n.m; let f := c % 2 ^ n.m
  let m : Int := n.m; let b : Int := n.bias
  if n.nzn && s && e == 0 && f == 0 then .nan false
  else if n.top && e == 2 ^ n.ew - 1 then (if f == 0 then .inf s else .nan false)
  else if n.ew == 0 then .fin s f (-b)
  else if e == 0 then .fin s f (1 - b - m)
  else .fin s (2 ^ n.m + f) ((e : Int) - b - m)

/-- RoundNF of a magnitude to a narrow format (R68, steps 2 to 5). -/
def Nf.round (n : Nf) (neg : Bool) (x : Mag) (rnd : Nat) : Nat × BitVec 5 :=
  let b : Int := n.bias; let m : Int := n.m
  let zed := if neg && n.sgn && !n.nzn then 2 ^ (n.width - 1) else 0
  if x.m == 0 && !x.sticky then (zed, 0) else
  let lg := x.log2
  let low := n.ew == 0 || x.m == 0 || lg < 1 - b
  let q : Int := if n.ew == 0 then -b else if low then 1 - b - m else lg - m
  let (k, inexact) := roundMag neg x q rnd
  -- the magnitude's code: fixed point counts quanta; otherwise exponent and fraction in one sum
  let code : Nat := if n.ew == 0 || low then k else ((lg + b).toNat - 1) * 2 ^ n.m + k
  if k != 0 && neg && !n.sgn then (0, fNV)
  else if code > n.maxMag then
    let sat := (if neg then 2 ^ (n.width - 1) else 0) + n.maxMag
    (if n.ovf == 0 || !overflowUp neg rnd then sat else if n.hasInf then n.infCode neg else n.nan, fOF ||| fNX)
  else
    let tiny := n.ew != 0 && (x.m == 0 || lg < 1 - b)
    (if code == 0 then zed else (if neg then 2 ^ (n.width - 1) else 0) + code,
     (if inexact then fNX else 0) ||| (if tiny && inexact then fUF else 0))

/-- RoundNF of an exact value to a narrow format (R68). -/
def Nf.ofNum (n : Nf) (x : Num) (rnd : Nat) : Nat × BitVec 5 :=
  match x with
  | .nan _ => if n.hasNan then (n.nan, 0) else (0, fNV)
  | .inf neg =>
    if neg && !n.sgn then (0, fNV)
    else if n.hasInf then (n.infCode neg, 0)
    else
      let sat := (if neg then 2 ^ (n.width - 1) else 0) + n.maxMag
      (if n.ovf == 0 || !overflowUp neg rnd then sat else n.nan, fOF ||| fNX)
  | .fin neg m e => n.round neg { m := m, e := e } rnd

/-! ### Integers -/

/-- An integer result (R125): wrapped to w bits, or clamped to the type's range with SAT. -/
def intMin (w : Nat) (sg : Bool) : Int := if sg then -(2 ^ (w - 1) : Nat) else 0
def intMax (w : Nat) (sg : Bool) : Int := if sg then (2 ^ (w - 1) : Nat) - 1 else (2 ^ w : Nat) - 1
def clampI (w : Nat) (sg : Bool) (x : Int) : Int := if x < intMin w sg then intMin w sg else if intMax w sg < x then intMax w sg else x
def narrow (w : Nat) (sg sat : Bool) (x : Int) : Nat := ofS w (if sat then clampI w sg x else x)

/-- Rounding an exact value to an integer of w bits, with the cases of R82. -/
def roundInt (w : Nat) (sg : Bool) (x : Num) (rnd : Nat) : Nat × BitVec 5 :=
  match x with
  | .nan _ => (0, fNV)
  | .inf n => (ofS w (if n then intMin w sg else intMax w sg), fNV)
  | .fin n m e =>
    let (k, inexact) := roundMag n { m := m, e := e } 0 rnd
    let v := signed n k
    if v < intMin w sg then (ofS w (intMin w sg), fNV)
    else if intMax w sg < v then (ofS w (intMax w sg), fNV)
    else (ofS w v, if inexact then fNX else 0)

/-- The integer and scaled formats of R61: width, signed. -/
def fmtWidth (f : Nat) : Nat := match f with
  | 0 => 64 | 1 => 32 | 2 => 16 | 3 => 16 | 4 => 8 | 5 => 6 | 6 => 4 | 7 => 16 | 8 => 8 | 9 => 8 | 10 => 4 | 11 => 4 | 12 => 2 | 13 => 4 | _ => 0
def fmtSigned (f : Nat) : Bool := f == 7 || f == 8 || f == 10 || f == 12
/-- A w-bit integer as an exact value. -/
def intNum (w : Nat) (sg : Bool) (x : Nat) : Num := ofInt (if sg then toS w x else (x % 2 ^ w : Nat)) 0 false

/-! ### Arithmetic on exact values (R141 to R149) -/

/-- A result before rounding: a NaN, an infinity, a magnitude, with the flags of the operation itself. -/
inductive Exact where
  | bad (fl : BitVec 5)
  | inf (neg : Bool) (fl : BitVec 5)
  | mag (neg : Bool) (x : Mag)
  deriving DecidableEq, Repr

def exactOf (x : Num) : Exact := match x with | .nan _ => .bad 0 | .inf n => .inf n 0 | .fin n m e => .mag n { m := m, e := e }

/-- R141's frame: signalling NaNs set NV, any NaN gives the canonical NaN, then the operation's own cases, then one rounding. -/
def finish (f : Fmt) (xs : List Num) (invalidFirst : Bool) (op : Exact) (rnd : Nat) : Nat × BitVec 5 :=
  let nv : BitVec 5 := if xs.any Num.isSig || invalidFirst then fNV else 0
  if xs.any Num.isNan then (f.nan, nv) else
  match op with
  | .bad fl => (f.nan, nv ||| fl)
  | .inf n fl => (f.inf n, nv ||| fl)
  | .mag n x => let (r, fl) := f.round n x rnd; (r, nv ||| fl)

def addExact (a b : Num) (rnd : Nat) : Exact :=
  if a.isInf && b.isInf && a.neg? != b.neg? then .bad fNV else exactOf (addN a b rnd)
def mulExact (a b : Num) : Exact :=
  if (a.isZero && b.isInf) || (a.isInf && b.isZero) then .bad fNV else exactOf (mulN a b)
/-- 0 × ∞ in the product is invalid even when c is a quiet NaN (R142). -/
def mulBad (a b : Num) : Bool := (a.isZero && b.isInf) || (a.isInf && b.isZero)
def fmaExact (a b c : Num) (rnd : Nat) : Exact :=
  if mulBad a b then .bad fNV else addExact (mulN a b) c rnd
def divExact (a b : Num) : Exact :=
  let n := a.neg? != b.neg?
  match a, b with
  | .inf _, .inf _ => .bad fNV
  | .inf _, _ => .inf n 0
  | _, .inf _ => .mag n { m := 0, e := 0 }
  | .fin _ ma ea, .fin _ mb eb =>
    if mb == 0 then (if ma == 0 then .bad fNV else .inf n fDZ)
    else
      let k := Nat.log2 mb + 130
      .mag n { m := ma * 2 ^ k / mb, e := ea - eb - k, sticky := ma * 2 ^ k % mb != 0 }
  | _, _ => .bad 0

/-- The integer square root, one bit at a time from bit n − 1. -/
def isqrtFrom (x : Nat) : Nat → Nat → Nat
  | 0, r => r
  | n + 1, r => isqrtFrom x n (if (r + 2 ^ n) * (r + 2 ^ n) ≤ x then r + 2 ^ n else r)
def isqrt (x : Nat) : Nat := isqrtFrom x (Nat.log2 x / 2 + 1) 0

/-- The square root of m × 2^e as a magnitude. -/
def sqrtMag (m : Nat) (e : Int) : Mag :=
  let odd := e % 2 != 0
  let m1 := if odd then 2 * m else m; let e1 := if odd then e - 1 else e
  let m2 := m1 * 2 ^ 260
  let r := isqrt m2
  { m := r, e := (e1 - 260) / 2, sticky := r * r != m2 }
def sqrtExact (a : Num) : Exact :=
  match a with
  | .fin n 0 _ => .mag n { m := 0, e := 0 }
  | .fin true _ _ => .bad fNV
  | .fin false m e => .mag false (sqrtMag m e)
  | .inf true => .bad fNV
  | .inf false => .inf false 0
  | .nan _ => .bad 0

/-- SAT of R141: NaN and values at or below 0 give +0.0, others at most 1.0; it sets no flag. -/
def satF (f : Fmt) (r : Nat) : Nat :=
  match f.decode r with
  | .nan _ => 0
  | x => if ltN (.fin false 0 0) x then (if ltN (.fin false 1 0) x then f.bias * 2 ^ f.mb else r) else 0

/-- FMIN and FMAX (R143): −0 is less than +0, one NaN gives the other operand, two the canonical NaN. -/
def minmaxF (f : Fmt) (isMax : Bool) (xa xb : Nat) : Nat × BitVec 5 :=
  let a := f.decode xa; let b := f.decode xb
  let fl : BitVec 5 := if a.isSig || b.isSig then fNV else 0
  let less := ltN a b || (a.isZero && b.isZero && a.neg? && !b.neg?)
  (if a.isNan && b.isNan then f.nan else if a.isNan then xb else if b.isNan then xa
   else if isMax then (if less then xb else xa) else (if less then xa else if ltN b a || (b.isZero && a.isZero && b.neg? && !a.neg?) then xb else xa), fl)

/-- A compare code of R52 on exact values, and whether NaN operands are unordered. -/
def cmpN (code : Nat) (a b : Num) : Bool :=
  let un := a.isNan || b.isNan
  let lt := !un && ltN a b; let eq := !un && eqN a b; let gt := !un && ltN b a
  match code with
  | 0 => eq | 1 => lt || gt | 2 => lt | 3 => lt || eq | 4 => gt | 5 => gt || eq | 6 => !un | 7 => un
  | 8 => eq || un | 9 => lt || gt || un | 10 => lt || un | 11 => lt || eq || un | 12 => gt || un | 13 => gt || eq || un | _ => false
/-- NV of a compare (R144). -/
def cmpFlags (code : Nat) (a b : Num) : BitVec 5 :=
  if a.isSig || b.isSig || ((2 ≤ code && code ≤ 5) && (a.isNan || b.isNan)) then fNV else 0

/-- FCLASS (R145). -/
def classOf (f : Fmt) (x : Nat) : Nat :=
  let sub := bitsN x (f.eb + f.mb - 1) f.mb == 0
  match f.decode x with
  | .nan true => 1
  | .nan false => 2
  | .inf true => 4
  | .inf false => 512
  | .fin n 0 _ => if n then 32 else 64
  | .fin n _ _ => if n then (if sub then 16 else 8) else (if sub then 128 else 256)

/-- FRND (R146). -/
def frnd (f : Fmt) (x : Num) (rnd : Nat) : Nat × BitVec 5 :=
  match x with
  | .fin n m e =>
    let (k, inexact) := roundMag n { m := m, e := e } 0 rnd
    ((f.round n { m := k, e := 0 } 1).1, if inexact then fNX else 0)
  | y => f.ofNum y rnd

/-! ### The special functions (R149 to R152) -/

/-- Fixed point with 320 fraction bits. -/
def fxBits : Nat := 320
/-- arctan(1/n) in fixed point, by its series. -/
def atanInv (n : Nat) : Nat → Nat → Nat → Int
  | 0, _, _ => 0
  | fuel + 1, k, p =>
    let t : Int := (p / (2 * k + 1) : Nat)
    (if k % 2 == 0 then t else -t) + atanInv n fuel (k + 1) (p / (n * n))
/-- π in fixed point (Machin). -/
def piFx : Nat := (16 * atanInv 5 80 0 (2 ^ fxBits / 5) - 4 * atanInv 239 30 0 (2 ^ fxBits / 239)).toNat

/-- exp of the fixed-point x (0 ≤ x < 1) by its series, and sin, cos likewise. -/
def series (x : Nat) (step first : Nat) (alt : Bool) : Nat → Nat → Nat → Int
  | 0, _, _ => 0
  | fuel + 1, k, t =>
    let n := first + step * k
    let next := (upFrom (n + 1) step).foldl (fun t i => t * x / 2 ^ fxBits / i) t
    (if alt && k % 2 == 1 then -(t : Int) else t) + series x step first alt fuel (k + 1) next
def sinFx (x : Nat) : Int := series x 2 1 true 40 0 x
def cosFx (x : Nat) : Int := series x 2 0 true 40 0 (2 ^ fxBits)
def expFx (x : Nat) : Int := series x 1 0 false 80 0 (2 ^ fxBits)
/-- ln 2 in fixed point: 2 artanh(1/3). -/
def lnSeries : Nat → Nat → Nat → Nat
  | 0, _, _ => 0
  | fuel + 1, k, p => p / (2 * k + 1) + lnSeries fuel (k + 1) (p / 9)
def ln2Fx : Nat := 2 * lnSeries 110 0 (2 ^ fxBits / 3)

/-- A finite value in fixed point, rounded down in magnitude. -/
def toFx (m : Nat) (e : Int) : Nat := if 0 ≤ e + fxBits then m * 2 ^ (e + fxBits).toNat else m / 2 ^ (-(e + fxBits)).toNat

/-- log2 of a fixed-point x in [1, 2), bit by bit. -/
def log2Fx : Nat → Nat → Nat
  | 0, _ => 0
  | n + 1, x =>
    let y := x * x / 2 ^ fxBits
    if y ≥ 2 * 2 ^ fxBits then 2 ^ n + log2Fx n (y / 2) else log2Fx n y

/-- A close approximation, far inside R150's bounds, of an inexact special function: its sign and magnitude. -/
def sfuApprox (code : Nat) (n : Bool) (m : Nat) (e : Int) : Bool × Mag :=
  let ax := toFx m e
  match code with
  | 3 => -- EX2
    let k := ax / 2 ^ fxBits; let f := ax % 2 ^ fxBits
    let (k, f) : Int × Nat := if n then (if f == 0 then (-(k : Int), 0) else (-(k : Int) - 1, 2 ^ fxBits - f)) else (k, f)
    (false, { m := (expFx (f * ln2Fx / 2 ^ fxBits)).toNat, e := k - fxBits, sticky := true })
  | 4 => -- LG2 of m × 2^e
    let lg := Nat.log2 m
    let frac := log2Fx 120 (m * 2 ^ fxBits / 2 ^ lg)
    let v : Int := ((lg : Int) + e) * (2 ^ 120 : Nat) + frac
    (v < 0, { m := v.natAbs, e := -120, sticky := true })
  | 7 => -- TANH
    if ax < 2 ^ (fxBits - 20) then
      -- |x| < 2^−20: x (1 − x²/3), off by less than 2^−80 of the result
      (n, { m := 3 * m * 2 ^ 300 - m * (toFx m e * toFx m e / 2 ^ fxBits) / 2 ^ (fxBits - 300), e := e - 300 - 2, sticky := true } |> fun (y : Mag) => { y with m := y.m * 4 / 3 })
    else if ax ≥ 40 * 2 ^ fxBits then (n, { m := 2 ^ 130 - 1, e := -130, sticky := true })
    else
      let t := 2 * ax; let k := t / ln2Fx; let r := t % ln2Fx
      let ex := (expFx r).toNat * 2 ^ k
      (n, { m := (ex - 2 ^ fxBits) * 2 ^ fxBits / (ex + 2 ^ fxBits), e := -(fxBits : Int), sticky := true })
  | _ => -- SIN, COS: reduce by π/2
    let half := piFx / 2
    let qd := ax / half; let r := ax % half
    let isCos := code == 6
    let quad := (qd + (if isCos then 1 else 0)) % 4
    let v : Int := match quad with | 0 => sinFx r | 1 => cosFx r | 2 => -sinFx r | _ => -cosFx r
    let v := if n && !isCos then -v else v
    (v < 0, { m := v.natAbs, e := -(fxBits : Int), sticky := true })

/-- The finite F32 number r differs from a number by at most k × 2^q. -/
def withinF32 (r : Nat) (neg : Bool) (x : Mag) (k : Nat) (q : Int) : Bool :=
  match f32.decode r with
  | .fin n m e =>
    let lo := min (min e x.e) q
    (signed n (scaleTo m e lo) - signed neg (scaleTo x.m x.e lo)).natAbs ≤ scaleTo k q lo
  | _ => false
/-- The bound of R150 for a result near a number: 2 units in its last place, or for SIN and COS of |x| > 2^15 × π an absolute 2^−22. Where the
number is an approximation, the bound is smaller by more than it can be off: 2^−50 of it. -/
def sfuNear (code : Nat) (x : Word) (r : Nat) (neg : Bool) (y : Mag) : Bool :=
  let big := (code == 5 || code == 6) && match f32.decode (x.toNat % 2 ^ 31) with | .fin _ m e => piFx * 2 ^ 15 < toFx m e | _ => false
  let lg : Int := if y.m == 0 then -126 else max y.log2 (-126)
  let (k, q) : Nat × Int := if big then (1, -22) else (2, lg - 23)
  withinF32 r neg y (k * 2 ^ 50 - if y.sticky then 1 else 0) (q - 50)

/-- An inexact special function: RCP and RSQ give one of the two neighbours; the others a value within the bound (free values, log 5). -/
def sfuInexact (code : Nat) (x : Word) (neg : Bool) (y : Mag) : Nat × BitVec 5 :=
  let (rn, fl) := f32.round neg y 0
  if fl &&& fOF != 0 then (rn, fl) else
  let fl := fl ||| fNX
  if code ≤ 1 then
    let lo := (f32.round neg y 1).1
    let hi := (f32.round neg y (if neg then 2 else 3)).1
    (if Config.sfuUp code x then hi else lo, fl)
  else
    let c := Config.sfuBits code x % 2 ^ 32
    (if sfuNear code x c neg y then c else rn, fl)

/-- The SFU family on an F32 operand already taken through ABSA and NEGA (R149 to R151). -/
def sfuOp (code rnd : Nat) (x : Word) : Nat × BitVec 5 :=
  let a := f32.decode x.toNat
  let one : Nat := 0x3F800000
  match a with
  | .nan sg => (f32.nan, if sg then fNV else 0)
  | _ =>
  match code with
  | 0 => -- RCP
    match divExact (.fin false 1 0) a with
    | .mag n y => if y.sticky then sfuInexact 0 x n y else f32.round n y 0
    | .inf n fl => (f32.inf n, fl)
    | .bad fl => (f32.nan, fl)
  | 1 => -- RSQ
    match a with
    | .fin n 0 _ => (f32.inf n, fDZ)
    | .fin true _ _ => (f32.nan, fNV)
    | .inf true => (f32.nan, fNV)
    | .inf false => (0, 0)
    | .fin false m e =>
      let r := sqrtMag m e
      match divExact (.fin false 1 0) (.fin false r.m r.e) with
      | .mag n y => if r.sticky || y.sticky then sfuInexact 1 x n { y with sticky := true } else f32.round n y 0
      | _ => (f32.nan, 0)
    | .nan _ => (f32.nan, 0)
  | 2 => finish f32 [a] false (sqrtExact a) rnd
  | 3 => -- EX2
    match a with
    | .inf true => (0, 0)
    | .inf false => (f32.inf false, 0)
    | .fin n m e =>
      if m == 0 then (one, 0)
      else if !n && !ltN a (.fin false 128 0) then (f32.inf false, fOF ||| fNX)
      else if n && ltN a (.fin true 300 0) then sfuInexact 3 x false { m := 0, e := -300, sticky := true }
      else if (roundMag n { m := m, e := e } 0 1).2 then let (sn, y) := sfuApprox 3 n m e; sfuInexact 3 x sn y
      else
        -- the integer n: exact from −149; below, 2^n is not representable
        let k := signed n (roundMag n { m := m, e := e } 0 1).1
        if k < -149 then sfuInexact 3 x false { m := 1, e := k } else f32.round false { m := 1, e := k } 0
    | .nan _ => (f32.nan, 0)
  | 4 => -- LG2
    match a with
    | .fin _ 0 _ => (f32.inf true, fDZ)
    | .fin true _ _ => (f32.nan, fNV)
    | .inf true => (f32.nan, fNV)
    | .inf false => (f32.inf false, 0)
    | .fin false m e =>
      if m == 2 ^ Nat.log2 m then f32.ofNum (ofInt ((Nat.log2 m : Int) + e) 0 false) 0
      else let (sn, y) := sfuApprox 4 false m e; sfuInexact 4 x sn y
    | .nan _ => (f32.nan, 0)
  | 5 | 6 => -- SIN, COS
    match a with
    | .inf _ => (f32.nan, fNV)
    | .fin n m e =>
      if m == 0 then (if code == 5 then x.toNat else one, 0)
      else if ltN a.abs (.fin false 1 (-40)) then
        -- sin x = x and cos x = 1 to far less than a unit, both just inside
        if code == 5 then sfuInexact 5 x n { m := m * 2 ^ 100 - 1, e := e - 100, sticky := true }
        else sfuInexact 6 x false { m := 2 ^ 80 - 1, e := -80, sticky := true }
      else let (sn, y) := sfuApprox code n m e; sfuInexact code x sn y
    | .nan _ => (f32.nan, 0)
  | _ => -- TANH
    match a with
    | .inf n => ((if n then 0x80000000 else 0) + one, 0)
    | .fin n m e =>
      if m == 0 then (x.toNat, 0)
      else if ltN a.abs (.fin false 1 (-40)) then sfuInexact 7 x n { m := m * 2 ^ 100 - 1, e := e - 100, sticky := true }
      else let (sn, y) := sfuApprox 7 n m e; sfuInexact 7 x sn y
    | .nan _ => (f32.nan, 0)

/-! ### Scales and curves (R69 to R72) -/

/-- x × 2^k. -/
def scaleNum (x : Num) (k : Int) : Num := match x with | .fin n m e => .fin n m (e + k) | y => y

/-- Segment i of a compand table: x0, y0, x1, y1 as F16 values. -/
def segment (tab : Nat) (i : Nat) : Num × Num × Num × Num :=
  let h (j : Nat) : Num := f16.decode (bitsN tab (64 * i + 16 * j + 15) (64 * i + 16 * j))
  (h 0, h 1, h 2, h 3)
def finN (x : Num) : Bool := !x.isNan && !x.isInf
/-- The curve of R71, or the inverse of R72 with x and y exchanged, exactly: none when no segment matches. -/
def curveSeg (tab : Nat) (inv : Bool) (u : Num) : Nat → Option (Bool × Mag)
  | 0 => none
  | n + 1 =>
    let (x0, y0, x1, y1) := segment tab (16 - (n + 1))
    if finN x0 && finN y0 && finN x1 && finN y1 && ltN x0 x1 && ltN y0 y1 then
      let (p0, q0, p1, q1) := if inv then (y0, x0, y1, x1) else (x0, y0, x1, y1)
      let a := u.abs
      if !ltN a p0 && ltN a p1 then
        -- q0 + (|u| − p0)(q1 − q0)/(p1 − p0)
        let num := addN (mulN q0 (addN p1 p0.flip 0)) (mulN (addN a p0.flip 0) (addN q1 q0.flip 0)) 0
        match num, addN p1 p0.flip 0 with
        | .fin nn nm ne, .fin _ dm de =>
          let k := Nat.log2 dm + 330
          some ((u.neg? != nn), { m := nm * 2 ^ k / dm, e := ne - de - k, sticky := nm * 2 ^ k % dm != 0 })
        | _, _ => none
      else curveSeg tab inv u n
    else curveSeg tab inv u n
def curve (tab : Nat) (inv : Bool) (u : Num) : Exact :=
  match u with
  | .nan _ => .bad 0
  | .inf n => .inf n 0
  | .fin n m e =>
    match curveSeg tab inv u 16 with
    | some (s, x) => .mag s x
    | none => .mag n { m := m, e := e }

end Sys2Proof.Machine
end

