-- ==== Sys2Proof/Machine/Home.lean ====
section
/-!
DEFINITION. Sys2Proof/Machine/Home.lean: addresses (R17 to R23), translation at the home (R303 to R310), the die-L2 directory (R13,
R181 to R185), region tags and releases (R200 to R208), the side log (R313, R314), and the accesses of every party, performed.
-/
namespace Sys2Proof.Machine

/-! ### Places of the package (R7, R9, R13) -/

/-- The stacks attached to a die, by attach port (R7). -/
def attach (d : Nat) : List Nat :=
  match d with
  | 0 => [0, 1, 4, 5] | 1 => [2, 3, 6, 7] | 2 => [8, 9, 12, 13] | 3 => [10, 11, 14, 15]
  | 4 => [5, 6, 9, 10] | 5 => [4, 7, 8, 11] | 6 => [1, 2, 13, 14] | _ => [0, 3, 12, 15]

/-- The entry stack of a die for a home stack (R9). -/
def entryStack (d st : Nat) : Nat :=
  let l := attach d
  if l.contains st then st
  else match l.find? (· / 4 == st / 4) with
    | some x => x
    | none => match l.find? (· % 4 == st % 4) with
      | some x => x
      | none => l.headD 0

/-- The stack through which a party's traffic to a home enters the fabric (R9). For a home of another package the spec does not say whose
routing table decides (R10, R377, R378); the model takes the entry stack of its stack number: DESIGN CHOICE, log 52. -/
def entryOf (p : Place) (home : Nat) : Nat := match p.die with | some d => entryStack d (home % 16) | none => p.stack % 16

/-- Home numbers: stack n of the own package is n; stack n of package p is 16 (p + 1) + n. -/
def homeKey (s : State) (pkg st : Nat) : Nat := if pkg == s.package then st else 16 * (pkg + 1) + st
def homePkg (s : State) (h : Nat) : Nat := if h < 16 then s.package else h / 16 - 1
/-- The stack of a physical HBM address: its package and stack bits (R20). -/
def stackOf (pa : Nat) : Nat := pa / 2 ^ 44
def homeStackBits (s : State) (h : Nat) : Nat := homePkg s h * 16 + h % 16
def paPkg (pa : Nat) : Nat := pa / 2 ^ 48
/-- The stack of its package through which a physical address is served (R21). -/
def servedBy (pa : Nat) : Nat :=
  if paPkg pa < 240 then stackOf pa % 16 else if paPkg pa == 255 then bitsN pa 47 44 else if bitN pa 47 then 15 else 0
/-- What a physical address names stands at a home itself: the home does not forward an access to it (R370). -/
def servedAt (s : State) (h pa : Nat) : Bool := if paPkg pa < 240 then stackOf pa == homeStackBits s h else servedBy pa == h % 16
/-- The end of the memory of a stack that contexts can map (R20). -/
def mappableEnd : Nat := 0x17C0000000
/-- A range of physical memory that lies in mappable HBM of one stack (R20). -/
def mappable (pa n : Nat) : Bool := paPkg pa < 240 && pa < 2 ^ 56 && pa % 2 ^ 44 + n ≤ mappableEnd

/-! ### Virtual addresses (R17 to R19) -/

/-- Where an address is translated: its home, 0 or 1 + its stripe set, and its offset. -/
structure Addr where
  home : Nat
  set  : Nat
  off  : Nat
  pkg  : Nat
  deriving DecidableEq, Repr

/-- The stack of a striped address under a stripe-set descriptor (R18, R19). -/
def stripeStack (d va : Nat) : Option Nat :=
  let n := bitsN d 117 116 + 1; let sh := bitsN d 112 108
  if bitN d 127 && 12 ≤ sh && sh ≤ 21 then
    let v := va % 2 ^ 56
    let h := ((upFrom 0 44).filter fun j => sh + n * j ≤ 55).foldl (fun h j => h ^^^ bitsN v (sh + n * j + n - 1) (sh + n * j)) 0
    some (bitsN d (4 * h + 3) (4 * h))
  else none

/-- The class and home of a virtual address of an ASID (R17); none raises PROTECTION. -/
def classify (s : State) (asid va : Nat) : Option Addr :=
  match ctx? s asid with
  | none => none
  | some c =>
    if bitN va 63 then
      let n := bitsN va 62 56
      (stripeStack (fgetD c.stripes n 0).toNat va).map fun st => { home := st, set := n + 1, off := va % 2 ^ 56, pkg := s.package }
    else
      let p := bitsN va 62 55; let st := bitsN va 54 51
      if p < 240 then (if p < c.npkg then some { home := homeKey s p st, set := 0, off := va % 2 ^ 51, pkg := p } else none)
      else if p ≤ 242 || p == 255 then some { home := st, set := 0, off := va % 2 ^ 51, pkg := s.package }
      else none

/-- A homed or striped address of a context (R323). -/
def homedOrStriped (s : State) (asid va : Nat) : Bool := (classify s asid va).isSome

/-! ### The walk (R303 to R306) -/

inductive Need where
  | load | store | rmw | fetch
  deriving DecidableEq, Repr

inductive Walk where
  | absent
  /-- a malformed entry of a table, which covers so many bytes -/
  | bad (size : Nat)
  /-- a leaf entry, its own physical address and its page size -/
  | leaf (entry pa size : Nat)
  deriving DecidableEq, Repr

/-- The levels of a walk: index bits, and whether a leaf may stand there (R304). -/
def levels (striped : Bool) : List (Nat × Nat × Bool) :=
  [(if striped then 55 else 50, 41, false), (40, 32, true), (31, 26, true), (25, 21, true), (20, 16, true)]

def leafPa (e : Nat) : Nat := bitsN e 55 16 * 65536

def walkFrom (m : Memory) (own off : Nat) : List (Nat × Nat × Bool) → Nat → Walk
  | [], _ => .bad 0
  | (hi, lo, lf) :: t, tab =>
    let a := tab + 8 * bitsN off hi lo
    let e := readN m a 8
    if !bitN e 63 then .absent
    else if bitN e 62 then
      if bitsN e 61 60 == 1 then .absent
      else if !lf || bitsN e 59 56 != 0 || bitsN e 6 0 != 0 || bitsN e 10 9 == 3 || leafPa e % 2 ^ lo != 0 then .bad (2 ^ lo)
      else .leaf e a (2 ^ lo)
    else if bitsN e 62 56 != 0 || bitsN e 7 0 != 0 || stackOf (bitsN e 55 8 * 256) != own then .bad (2 ^ lo)
    else walkFrom m own off t (bitsN e 55 8 * 256)

/-- The roots of an ASID at a home (R303). Those of another package were written by its firmware from its own descriptor of the context,
under R352: free values, log 65. -/
def rootsOf (s : State) (asid home : Nat) : Option (Nat × Nat) :=
  match fget? (base s home).roots asid with
  | some r => some r
  | none =>
    if home < 16 then none else
    let at_ (striped : Bool) (align : Nat) : Nat := homeStackBits s home * 2 ^ 44 + align * (Config.remoteRoot asid home striped % (mappableEnd / align))
    some (at_ false 8192, at_ true 1024)
/-- The walk of an address at its home from the roots of an ASID. -/
def walk (s : State) (asid : Nat) (ad : Addr) : Walk :=
  let own := homeStackBits s ad.home
  match rootsOf s asid ad.home with
  | none => .bad 0
  | some (hroot, sroot) =>
    if ad.set == 0 then walkFrom s.mem own ad.off (levels false) hroot
    else
      let p := readN s.mem (sroot + 8 * (ad.set - 1)) 8
      if p == 0 then .absent
      else if stackOf (bitsN p 55 8 * 256) != own then .bad (2 ^ 56)
      else walkFrom s.mem own ad.off (levels true) (bitsN p 55 8 * 256)

/-- A leaf that keeps R20, R21 and the CHK rule of R200. -/
def leafOk (s : State) (h e size : Nat) : Bool :=
  let pa := leafPa e; let p := paPkg pa; let chk := bitN e 11
  if p < 240 then p == homePkg s h && chk && mappable pa size
  else (p ≤ 242 || p == 255) && !chk

/-- The permissions that an access needs (R305). -/
def permits (e : Nat) : Need → Bool
  | .load => bitN e 15
  | .store => bitN e 14
  | .rmw => bitN e 12 && bitN e 15 && bitN e 14
  | .fetch => bitN e 13 && bitN e 15

/-- The master identifier of a party (R410, R367). -/
def masterOf (p : Place) : Nat :=
  match p.cluster, p.die with
  | some c, _ => 0x20 + c
  | none, some d => 0x10 + d
  | none, none => p.stack % 16

/-- An access table refuses a master (R410). -/
def refusedBy (s : State) (m pa : Nat) (need : Need) : Bool :=
  s.denied.any fun d => d.master == m && d.lo ≤ pa && pa ≤ d.hi &&
    match need with | .load => d.r | .store => d.w | .rmw => d.a | .fetch => d.x

/-- The home's side log of a context (R313). -/
def sideLog (s : State) (h asid : Nat) : List LogEntry := fgetD (base s h).logs asid []
/-- A page of a home has side-log entries (R314). -/
def logged (s : State) (asid : Nat) (ad : Addr) (lo size : Nat) : Bool :=
  (sideLog s ad.home asid).any fun e =>
    match classify s asid e.acc.addr.toNat with
    | some x => x.set == ad.set && lo ≤ x.off && x.off < lo + size
    | none => false

def tlbFind (b : Base) (asid : Nat) (ad : Addr) : Option Tlb :=
  b.tlb.find? fun t => t.asid == asid && t.set == ad.set && t.base ≤ ad.off && ad.off < t.base + t.size

/-- Ranges of n bytes from a and of m bytes from b share a byte. -/
def rangesMeet (a n b m : Nat) : Bool := a < b + m && b < a + n
/-- n bytes from an address touch the queue area of a context, against stores (R232, R434): its fixed part, and the rings, status arrays
and BMAP areas of its queues. A BMAP of 0 names no area: DESIGN CHOICE, log 62. -/
def inQueueArea (s : State) (asid va n : Nat) : Bool :=
  match ctx? s asid with
  | none => false
  | some c =>
    rangesMeet va n c.qarea (0x20000 + c.ntsq * c.tsz) ||
    s.queues.any fun (_, q) => q.asid == asid &&
      (rangesMeet va n q.ring.toNat (68 * 2 ^ q.logn) || (q.bmap != 0 && rangesMeet va n q.bmap.toNat 512))

/-- What the home finds for an access. -/
inductive Loc where
  /-- the access waits at its home (R310 SWITCHING) -/
  | wait
  | absent (home : Nat)
  | prot
  /-- its page is POISONED, and the data there -/
  | poisoned (pa : Nat)
  /-- its physical address, home and leaf, and the state with ACC, DRT and TLB as the access leaves them -/
  | at_ (pa home leaf : Nat) (s : State)
  deriving DecidableEq, Repr

def tlbCap (t : Tlb) : Nat := if t.size == 2 ^ 32 then 1024 else 4096

/-- Puts a translation into a home's TLB; a full TLB drops its oldest entry of the kind (R308). -/
def tlbPut (l : List Tlb) (t : Tlb) : List Tlb :=
  let l := l.filter fun x => !(x.asid == t.asid && x.set == t.set && x.base == t.base && x.size == t.size)
  let same (x : Tlb) : Bool := (x.size == 2 ^ 32) == (t.size == 2 ^ 32)
  let l := if (l.filter same).length ≥ tlbCap t then (match l.find? same with | some x => l.erase x | none => l) else l
  l ++ [t]

/-- A route to a home exists: one of the own package, or one whose package the routing table of its entry stack reaches (R378). -/
def routeOk (s : State) (p : Place) (home : Nat) : Bool :=
  home < 16 || bitN (fgetD (base s (entryOf p home)).routes (homePkg s home) 0).toNat 15

/-- What a home's TLB or its walk finds for an address (R306, R308). -/
def findLeaf (s : State) (asid : Nat) (ad : Addr) : Walk :=
  match tlbFind (base s ad.home) asid ad with
  | some t => .leaf t.leaf t.at_ t.size
  | none => walk s asid ad
/-- The migration of an address's page (R320). -/
def migOf (s : State) (asid : Nat) (ad : Addr) : Option Mig :=
  (base s ad.home).migs.find? fun m => ad.set == 0 && !m.switched && m.asid == asid && m.base ≤ ad.off && ad.off < m.base + m.size
/-- The physical address through a leaf; in a migrating page, of the authoritative copy of the line (R320). -/
def leafAddr (s : State) (asid : Nat) (ad : Addr) (e size : Nat) : Nat :=
  match migOf s asid ad with
  | some m => (if ad.off - m.base < 128 * m.copied then m.new else m.old) + (ad.off - m.base)
  | none => leafPa e + ad.off % size
/-- An access through a leaf: its entry with ACC, and for a write DRT, set in memory and in the home's TLB (R305, R308). -/
def useLeaf (s : State) (asid : Nat) (ad : Addr) (e ea size : Nat) (write : Bool) : Nat × State :=
  let e' := e ||| (256 + if write then 128 else 0)
  let s := if e' == e then s else { s with mem := writeN s.mem ea (readN s.mem ea 8 ||| (e' - e)) 8 }
  (e', putBase s ad.home { base s ad.home with
    tlb := match tlbFind (base s ad.home) asid ad with
      | some t => (base s ad.home).tlb.map fun x => if x == t then { x with leaf := e' } else x
      | none => tlbPut (base s ad.home).tlb { asid := asid, set := ad.set, base := ad.off / size * size, size := size, leaf := e', at_ := ea } })

/-- Translation of an access to n bytes of one line at its home (R306, R308, R310, R314, R320). -/
def locate (s : State) (p : Place) (asid va : Nat) (need : Need) (n : Nat := 1) : Loc :=
  match classify s asid va with
  | none => .prot
  | some ad =>
    if !routeOk s p ad.home || ((need == .store || need == .rmw) && inQueueArea s asid va n) then .prot else
    match findLeaf s asid ad with
    | .absent => .absent ad.home
    | .bad size => if logged s asid ad (ad.off / size * size) size then .absent ad.home else .prot
    | .leaf e ea size =>
      if logged s asid ad (ad.off / size * size) size then .absent ad.home else
      let mig := migOf s asid ad
      let st := bitsN e 61 60
      if !leafOk s ad.home e size || !permits e need || (st == 2 && mig.isNone) then .prot
      else if st == 3 then .poisoned (leafAddr s asid ad e size)
      else
        let pa := leafAddr s asid ad e size
        if refusedBy s (masterOf p) pa need || (need == .rmw && paPkg pa == 255) then .prot
        else if mig.any fun m => m.size ≤ 128 * m.copied then .wait
        else let (e', s) := useLeaf s asid ad e ea size (need == .store || need == .rmw); .at_ pa ad.home e' s

/-- What the device's own queue processors and firmware find at an address: no permission is asked (R232). -/
inductive DevLoc where
  | prot
  /-- the page is absent at that home, or has side-log entries there (R314) -/
  | absent (home : Nat)
  | poisoned (pa : Nat)
  /-- a physical address, and the leaf that it comes from: its value, its own address and its page size -/
  | at_ (pa leaf ea size : Nat)
  deriving DecidableEq, Repr

def deviceLoc (s : State) (asid va : Nat) : DevLoc :=
  match classify s asid va with
  | none => .prot
  | some ad =>
    match findLeaf s asid ad with
    | .absent => .absent ad.home
    | .bad size => if logged s asid ad (ad.off / size * size) size then .absent ad.home else .prot
    | .leaf e ea size =>
      if logged s asid ad (ad.off / size * size) size then .absent ad.home
      else if !leafOk s ad.home e size || (bitsN e 61 60 == 2 && (migOf s asid ad).isNone) then .prot
      else if bitsN e 61 60 == 3 then .poisoned (leafAddr s asid ad e size)
      else .at_ (leafAddr s asid ad e size) e ea size
/-- The physical address where the device reaches an address now. -/
def devicePa (s : State) (asid va : Nat) : Option Nat := match deviceLoc s asid va with | .at_ pa _ _ _ => some pa | _ => none
/-- The device has used the leaf of an address (R305). -/
def deviceUse (s : State) (asid va : Nat) (write : Bool) : State :=
  match classify s asid va, deviceLoc s asid va with
  | some ad, .at_ _ e ea size => (useLeaf s asid ad e ea size write).2
  | _, _ => s

/-! ### Memory-mapped registers (R406 to R414) -/

def hstat (s : State) : Nat :=
  (if s.host.ready then 1 else 0) + (if s.host.fatal then 2 else 0) + s.host.stage.toNat * 4 + s.host.fwerr.toNat * 256 +
  (if s.host.err then 65536 else 0)
def ctxreq (s : State) : Nat :=
  s.host.reqAsid.toNat + s.host.reqOp.toNat * 4096 + s.host.result.toNat * 65536 + if s.host.busy then 2 ^ 31 else 0
def CState.num : CState → Nat
  | .free => 0 | .built => 1 | .runnable => 2 | .running => 3 | .cutting => 4 | .saved => 5 | .halted => 6 | .error => 7 | .retired => 8
def ctxstat (s : State) (a : Nat) : Nat :=
  match ctx? s a with
  | none => fgetD s.ctxGone a 0
  | some c => c.state.num + (if c.sliced then 16 else 0) + c.cause * 256 + c.ntrans.toNat * 2 ^ 32
def diepwr (x : Die) : Nat := x.req.toNat + x.oppt.toNat * 4 + x.pstate.toNat * 16 + x.result.toNat * 256
def dietask (x : Die) : Nat := x.allow.toNat + x.amps.toNat * 2 ^ 24
/-- The key of the MASH queue of a context on a die. -/
def mashKey (asid d : Nat) : Nat := qkey asid (24 + d)
def mashDesc (s : State) (d : Nat) : Nat :=
  let m := (dieSt s d).mash
  m.state + (if m.owned then 8 else 0) + m.ways * 16 +
  (if m.owned then (queue? s (mashKey m.owner d)).elim 0 fun q => q.kdecl * 256 + q.siga.toNat * 2 ^ 64 else 0) +
  (if m.owned then m.owner * 4096 else 0)
/-- The die on attach port A (0) or B (1) of a stack (R7). -/
def dieOnPort (st port : Nat) : Nat := ((upFrom (4 * port) 4).find? fun d => (attach d).contains st).getD 0

/-- A register's value as a 64-bit field of the window, with the offset of the register's first byte. -/
def mmioReg (s : State) (st o : Nat) : Nat × Nat :=
  let host := st == 0 || st == 15
  let b := base s st
  if o / 4 == 0 then (if host then hstat s else 0, 0)
  else if o / 8 == 1 then (if host then s.host.ctxdesc.toNat else 0, 8)
  else if o / 4 == 4 then (if host then ctxreq s else 0, 16)
  else if o / 8 == 4 then (b.errCount % 2 ^ 32 * 2 ^ 32 + 0xC0000000, 0x20)
  else if o / 4 == 0x40 then (diepwr (dieSt s (dieOnPort st 0)), 0x100)
  else if o / 4 == 0x41 then (dietask (dieSt s (dieOnPort st 0)), 0x104)
  else if o / 4 == 0x42 then (diepwr (dieSt s (dieOnPort st 1)), 0x108)
  else if o / 4 == 0x43 then (dietask (dieSt s (dieOnPort st 1)), 0x10C)
  else if o / 16 == 0x18 then (mashDesc s (dieOnPort st 0), 0x180)
  else if o / 16 == 0x19 then (mashDesc s (dieOnPort st 1), 0x190)
  else if o / 4 == 0x80 then (b.actwin.toNat, 0x200)
  else if o / 4 == 0xC0 then (b.remap.toNat, 0x300)
  else if 0x10000 ≤ o && o < 0x10000 + 1920 then ((fgetD b.routes ((o - 0x10000) / 8) 0).toNat, o / 8 * 8)
  else if host && 0x400000 ≤ o && o < 0x408000 then (ctxstat s ((o - 0x400000) / 8), o / 8 * 8)
  else (0, o)

/-- A read of the MMIO window (R406): aligned 32-bit or 64-bit reads; others read 0. After FATAL only HSTAT and ERRLOG answer (R418). -/
def mmioRead (s : State) (off n : Nat) : Nat :=
  let st := bitsN off 47 44; let o := off % 2 ^ 44
  if !((n == 4 || n == 8) && o % n == 0) then 0
  else if s.host.fatal && !(o / 4 == 0 || o / 8 == 4) then 0
  else
    let half (o : Nat) : Nat := let (v, r) := mmioReg s st o; v / 2 ^ (8 * (o - r)) % 2 ^ 32
    half o + (if n == 8 then half (o + 4) * 2 ^ 32 else 0)

/-- A write to the MMIO window reaches its register as an event (R406); other widths are discarded, and after FATAL every write is refused
(R418). -/
def mmioWrite (s : State) (master off n v : Nat) : List Event :=
  if !((n == 4 || n == 8) && off % n == 0) || s.host.fatal then [] else [.mmioRegisterWrite (BitVec.ofNat 48 off) n (BitVec.ofNat 64 v) master]

/-- Bytes of a physical address (R20, R21); 16 bytes of the MMIO window are two halves of 8 (R211). -/
def readPhys (s : State) (pa n : Nat) : Nat :=
  let o := pa % 2 ^ 48
  if paPkg pa != 255 then readN s.mem pa n
  else if n == 16 then mmioRead s o 8 + mmioRead s (o + 8) 8 * 2 ^ 64 else mmioRead s o n

/-- The word keys that n bytes from a physical address touch. -/
def wordsAt (pa n : Nat) : List Nat := upFrom (wordOf pa) (wordOf (pa + n - 1) + 1 - wordOf pa)
/-- The word keys of scratchpad locations. -/
def wordsOfLocs (l : List Nat) : List Nat := l.foldl (fun w x => lput w (sramWord x)) []

/-- Words that n bytes from pa cover whole lose their poison mark. -/
def unpoison (s : State) (pa n : Nat) : State :=
  if s.poison.isEmpty then s else { s with poison := s.poison.filter fun w => !(pa ≤ 4 * w && 4 * w + 4 ≤ pa + n) }
def poisonedWords (s : State) (ws : List Nat) : Bool := !s.poison.isEmpty && ws.any s.poison.contains

def writePhys (s : State) (p : Place) (pa v n : Nat) : State :=
  let o := pa % 2 ^ 48; let m := masterOf p
  if paPkg pa == 255 then
    { s with agenda := s.agenda ++ if n == 16 then mmioWrite s m o 8 (v % 2 ^ 64) ++ mmioWrite s m (o + 8) 8 (v / 2 ^ 64) else mmioWrite s m o n v }
  else unpoison { s with mem := writeN s.mem pa v n } pa n

/-! ### Conflicts (R203, R206, R207) -/

/-- The matrix operations of a task that are not complete. -/
def opsOf (s : State) (uid : Nat) : List SeqRec := s.clusters.flatMap fun (_, c) => c.eng.ops.filter (·.who.uid == uid)
/-- An access of a request has been performed at its home or core. -/
def performed (r : Req) : Bool := r.stage == .performed || r.stage == .returned
def agentOf (s : State) (uid : Nat) : Option (Nat × Agent) := s.agents.find? fun (_, a) => a.uid == uid
/-- The region behind a tag is still open: its party is in it, or an access of the region or an earlier one is still to be performed.
Against a region that has ended whole, the device lets a later access through that its party performs in program order: R202 lets a RACE
go unraised where the execution stays sequentially consistent, and R230 names an outcome that needs it. DEDUCED, log 68. -/
def regionOpen (s : State) (t : Tag) : Bool :=
  s.agents.any (fun (_, a) => a.uid == t.uid && a.state != .exited && a.region ≤ t.region) ||
  s.reqs.any (fun r => r.who.uid == t.uid && !performed r && r.who.region ≤ t.region) ||
  (opsOf s t.uid).any (·.who.region ≤ t.region) ||
  s.queues.any (fun (_, q) => q.head.any fun h =>
    (h.who.uid == t.uid && h.who.region ≤ t.region) || h.run.any fun g => g.ran.any fun (_, e) => e.uid == t.uid) ||
  s.bases.any fun (_, b) => b.logs.any fun (_, l) => l.any fun e => e.who.uid == t.uid && e.who.region ≤ t.region

/-- A later access of the party has been performed before this one (or its party has gone). -/
def outOfOrder (s : State) (w : Who) : Bool := match agentOf s w.uid with | some (_, a) => a.top > w.seq + 1 | none => !w.engine
/-- A performed access is noted with its party. -/
def noteOrder (s : State) (w : Who) : State :=
  match agentOf s w.uid with
  | some (k, a) => if a.top ≤ w.seq then putAgent s k { a with top := w.seq + 1 } else s
  | none => s

def conflicts (s : State) (w : Who) (write atomic : Bool) (t : Tag) : Bool :=
  t.uid != w.uid && (t.write || write) && !(t.atomic && atomic) && t.region ≥ fgetD w.clk t.uid 0 && w.region ≥ fgetD t.clk w.uid 0 && (regionOpen s t || outOfOrder s w)

def tagOf (w : Who) (write atomic : Bool) (addr : DWord) : Tag :=
  { uid := w.uid, region := w.region, write := write, atomic := atomic, engine := w.engine, key := w.key, asid := w.asid, pc := w.pc, addr := addr, entry := w.entry, kernel := w.kernel, clk := w.clk }

/-- The region tag store of a word: its core's for scratchpad, its stack's for global memory (R207), and its capacity with the spill area. -/
def tagStore (word : Nat) : Nat := if word < 2 ^ 60 then stackOf (4 * word) else 2 ^ 20 + (word - 2 ^ 60) * 4 / Config.sramBytes
def tagCap : Nat := Config.tagSpare + 64
/-- The device ends a party's region at an instruction boundary (R202): what follows is held as after a FENCE.SC.SYS, and nothing is
released or acquired. Order 6 marks such a boundary, and order 7 one whose markers have been sent (Machine/Memory.lean). -/
def boundary (s : State) (uid : Nat) : State :=
  { s with
    agents := s.agents.map fun (k, a) => (k, if a.uid != uid then a else
      { a.endRegion with fences := a.fences ++ [{ seq := a.seq, region := a.region + 1, order := 6, scope := 5 }] })
    queues := s.queues.map fun (n, q) => (n, { q with head := q.head.map fun h =>
      if h.who.uid == uid then { h with who := { h.who with region := h.who.region + 1 } } else h }) }
/-- A full store makes room for a new word (R202): words with no open region behind them go, and where there are none the regions behind
its first word end, so that their tags can go next time; which word is log 50. -/
def tagRoom (s : State) (word : Nat) : State :=
  if (fget? s.tags word).isSome then s else
  let mine := s.tags.filter fun (w, _) => tagStore w == tagStore word
  if mine.length < tagCap then s else
  let idle := mine.filter fun (_, ts) => ts.all fun t => !regionOpen s t
  match idle, mine with
  | [], (_, ts) :: _ => ts.foldl (fun s t => boundary s t.uid) s
  | l, _ => { s with tags := s.tags.filter fun (w, _) => l.all fun (x, _) => x != w }

/-- Records a performed access on one word. A plain write that completed no conflict takes the place of every access it follows; a
replayed write (R315) leaves the accesses that follow it. -/
def addTag (s : State) (word : Nat) (t : Tag) (clean : Bool) : State :=
  let s := tagRoom s word
  let old := fgetD s.tags word []
  let same (x : Tag) : Bool := x.uid == t.uid && x.write == t.write && x.atomic == t.atomic && x.engine == t.engine
  let later (x : Tag) : Bool := if x.uid == t.uid then x.region > t.region else fgetD x.clk t.uid 0 > t.region
  if old.any fun x => same x && x.region > t.region then s else
  let kept := old.filter (!same ·)
  { s with tags := fput s.tags word ((if clean && t.write && !t.atomic then kept.filter later else kept) ++ [t]) }

/-- The tags that an access conflicts with, over its words. -/
def hits (s : State) (w : Who) (write atomic : Bool) (ws : List Nat) : List Tag :=
  ws.flatMap fun x => (fgetD s.tags x []).filter (conflicts s w write atomic)

/-- Judging an access on its words (R207): none when it is a plain access of a thread or of a task's control core that completes a
conflict. Otherwise it is performed: plain stores on the other side freeze their threads, and `true` says that both sides are
engine accesses. -/
def judge (s : State) (w : Who) (write atomic : Bool) (ws : List Nat) (addr : DWord) : Option (State × Bool) :=
  let hs := hits s w write atomic ws
  if !hs.isEmpty && !atomic && !w.engine then none else
  let victims := (hs.filter fun t => t.write && !t.atomic && !t.engine).foldl
    (fun l t => if l.any (fun x => x.uid == t.uid && x.pc == t.pc && x.addr == t.addr) then l else l ++ [t]) []
  let s := victims.foldl (fun s t => storeFault s t.key t.uid t.asid .race t.pc t.addr t.entry t.kernel) s
  let t := tagOf w write atomic addr
  let s := ws.foldl (fun s x => addTag s x t hs.isEmpty) s
  some (noteOrder s w, w.engine && hs.any (·.engine))

/-! ### Releases and acquires (R205, R208) -/

def relLoc (s : State) (word : Nat) : RelLoc := fgetD s.rels word {}
def addRel (l : List Rel) (r : Rel) : List Rel :=
  if l.any (fun x => x.uid == r.uid && x.scope == r.scope && x.place == r.place) then
    l.map fun x => if x.uid == r.uid && x.scope == r.scope && x.place == r.place then { x with clk := cmax x.clk r.clk } else x
  else l ++ [r]

/-- Acquired knowledge reaches the party's regions after region r: its own clock, its fences' releases, its accesses in flight. -/
def acquireFrom (s : State) (uid r : Nat) (c : Clock) : State :=
  if c.isEmpty then s else
  { s with
    agents := s.agents.map fun (k, a) => if a.uid != uid then (k, a) else
      (k, { a with clk := cmax a.clk c,
                   relF := a.relF.map fun x => if fgetD x.clk uid 0 > r then { x with clk := cmax x.clk c } else x })
    reqs := s.reqs.map fun q => if q.who.uid == uid && q.who.region > r then
        { q with who := { q.who with clk := cmax q.who.clk c, rels := q.who.rels.map fun x => if fgetD x.clk uid 0 > r then { x with clk := cmax x.clk c } else x } }
      else q
    clusters := s.clusters.map fun (n, x) => (n, { x with eng := { x.eng with ops := x.eng.ops.map fun o =>
      if o.who.uid == uid && o.who.region > r then { o with who := { o.who with clk := cmax o.who.clk c } } else o } }) }

/-- What an atomic read observes (R205 case 1): an ACQ, AR or SC read acquires it, and so does every acquire fence after the read in its
party's program order, each with its own scope: those that have issued now, and later ones from `acqP`. -/
def observe (s : State) (w : Who) (ws : List Nat) (order scope seq : Nat) : State :=
  let rs := ws.foldl (fun l x => (relLoc s x).head.foldl addRel l) []
  if rs.isEmpty then s
  else
    let s := if order == 2 || order == 4 || order == 5 then acquireFrom s w.uid w.region (acquired rs scope w.place) else s
    match agentOf s w.uid with
    | none => s
    | some (k, a) =>
      let later := a.fences.filter fun f => f.seq > seq && f.order != 3 && f.order < 6
      let s := later.foldl (fun s f => acquireFrom s w.uid (f.region - 1) (acquired rs f.scope w.place)) s
      modAgent s k fun a => { a with acqP := rs.foldl addRel a.acqP }

/-- The releases that a write of a party carries: its own, and for an atomic those of the release fences before it. -/
def relsOf (w : Who) (order scope : Nat) (atomic : Bool) : List Rel :=
  (if order ≥ 3 then [{ uid := w.uid, place := w.place, scope := scope, clk := fput w.clk w.uid (w.region + 1) }] else []) ++
  if atomic then w.rels else []

/-- A write publishes on its words; a read-modify-write carries every release of the location on (R205, R208). -/
def publish (s : State) (ws : List Nat) (rels : List Rel) (rmw : Bool) : State :=
  ws.foldl (fun s x =>
    match fget? s.rels x with
    | none => if rels.isEmpty then s else { s with rels := fput s.rels x { head := rels, all := rels } }
    | some l =>
      let all := rels.foldl addRel l.all
      { s with rels := fput s.rels x { head := if rmw then all else rels, all := all } }) s

/-! ### Lines of the die L2 (R181 to R185, R317) -/

def lineOf (n : Nat) : Nat := n / 128 * 128
/-- Other dies that hold the line of a physical address. -/
def holders (s : State) (pa : Nat) (but : Option Nat) : List Line := s.lines.filter fun l => l.pa == lineOf pa && some l.die != but
def dropLines (s : State) (p : Line → Bool) : State := { s with lines := s.lines.filter fun l => !p l }

/-- The slice of a line (R182), and its set there. -/
def l2Slice (va : Nat) : Nat := bitsN va 12 7 ^^^ bitsN va 18 13 ^^^ bitsN va 21 19
def l2Set (asid va : Nat) : Nat := Config.l2Set asid (lineOf va) % Config.l2Sets

/-- The replacement tree of a set (R183): node 1 is its root, node n has the children 2n and 2n + 1, way w is node 16 + w, and bit n says
in which half of node n the next victim lies. -/
def plruKey (d slice set : Nat) : Nat := (d * Config.l2Slices + slice) * Config.l2Sets + set
/-- A way made the most recent, or the least recent, of its set. -/
def plruTouch (tree way : Nat) (recent : Bool) : Nat :=
  (upFrom 0 4).foldl (fun t i => let n := (16 + way) / 2 ^ (i + 1); setBitsN t n n (if bitN (16 + way) i != recent then 1 else 0)) tree
/-- The first way among those allowed, from a node so many levels above the ways. -/
def plruVictim (tree : Nat) (ok : Nat → Bool) : Nat → Nat → Option Nat
  | 0, n => if ok (n - 16) then some (n - 16) else none
  | f + 1, n =>
    let d := if bitN tree n then 1 else 0
    match plruVictim tree ok f (2 * n + d) with
    | some w => some w
    | none => plruVictim tree ok f (2 * n + 1 - d)

/-- A line lies in a set of a slice. -/
def Line.inSet (l : Line) (d slice set : Nat) : Bool := l.die == d && l.slice == slice && l.set == set
/-- The way that a fill takes (R183, R184): one that is neither carved nor being carved; an empty one, else the tree's victim, which
passes over lines with the keep mark while fewer than half of those ways hold marked lines. -/
def fillWay (s : State) (d slice set : Nat) : Nat :=
  let n := Config.l2Ways - (dieSt s d).mash.ways
  let held := s.lines.filter (·.inSet d slice set)
  match (upFrom 0 n).find? fun w => held.all (·.way != w) with
  | some w => w
  | none =>
    let marked (w : Nat) : Bool := held.any fun l => l.way == w && l.keep
    let pass := 2 * ((upFrom 0 n).filter marked).length < n
    (plruVictim (fgetD s.plru (plruKey d slice set) 0) (fun w => w < n && !(pass && marked w)) 4 1).getD 0

/-- The 64 KiB units of a core's SRAM that no cluster set has reserved: its L1 (R175). -/
def l1Units (s : State) (core : Nat) : List Nat :=
  (upFrom 0 (Config.sramBytes / 65536)).filter fun u =>
    !s.csets.any fun (_, c) => c.placed && c.cluster == core / 4 && c.base < 65536 * (u + 1) && 65536 * u < c.base + c.size
/-- An L1 of a core takes a copy of a line of its die: at a line of its SRAM, in place of what stood there (R181; where is log 7). -/
def l1Fill (s : State) (core : Nat) (here : Line → Bool) : State :=
  let units := l1Units s core
  let i := Config.l1Place s.free % (512 * units.length)
  let x := units.getD (i / 512) 0 * 512 + i % 512
  { s with
    free := s.free + 1
    lines := s.lines.map fun l =>
      if here l then { l with l1 := if (fget? l.l1 core).isSome then l.l1 else fput l.l1 core x }
      else if l.die == core / 80 && fget? l.l1 core == some x then { l with l1 := fdel l.l1 core } else l }
/-- The L1 copies in a range of SRAM of a cluster's cores are invalidated (R175). -/
def dropL1 (s : State) (cl base size : Nat) : State :=
  { s with lines := s.lines.map fun l => { l with l1 := l.l1.filter fun (core, x) => !(core / 4 == cl && base ≤ 128 * x && 128 * x < base + size) } }

/-- A read or write at its home finds what other dies had modified written back (R181). -/
def writeBack (s : State) (p : Place) (pa : Nat) : State :=
  if s.lines.any (fun l => l.pa == lineOf pa && some l.die != p.die && l.dirty) then
    { s with lines := s.lines.map fun l => if l.pa == lineOf pa && some l.die != p.die then { l with dirty := false } else l }
  else s
/-- An access of a compute die whose data have arrived uses its line or fills one, as its hint says (R183 to R185); MMIO is never cached,
and a leaf with CP = 2 makes the hint no-allocate. A hit moves the line as a fill with the hint would place it (log 7). -/
def useLine (s : State) (p : Place) (asid va pa home leaf hint : Nat) (write : Bool) : State :=
  match p.die with
  | none => s
  | some d =>
    if paPkg pa == 255 then s else
    let hint := if bitsN leaf 10 9 == 2 then 3 else hint
    let here (l : Line) : Bool := l.die == d && l.asid == asid && l.va == lineOf va
    let slice := l2Slice va; let set := l2Set asid va
    let key := plruKey d slice set
    let touch (s : State) (w : Nat) : State := { s with plru := fput s.plru key (plruTouch (fgetD s.plru key 0) w (hint != 1)) }
    let s : State := match s.lines.find? here with
      | some l =>
        if hint == 3 then s else
        touch { s with lines := s.lines.map fun l => if here l then { l with dirty := l.dirty || write, keep := l.keep || hint == 2 } else l } l.way
      | none =>
        if hint == 3 then s else
        let w := fillWay s d slice set
        let s := dropLines s fun l => l.inSet d slice set && l.way == w
        touch { s with lines := s.lines ++ [{ die := d, asid := asid, va := lineOf va, home := home, pa := lineOf pa, dirty := write, keep := hint == 2,
                                              slice := slice, set := set, way := w, l1 := [] }] } w
    match p.core with
    | some core => if !write && (hint == 0 || hint == 2) && bitsN leaf 10 9 == 0 && paPkg pa < 240 then l1Fill s core here else s
    | none => s

/-! ### Read-modify-write (R193) -/

/-- The new value of an atomic operation of width w bits (R54, R193). -/
def atomicNew (op w old v cmp : Nat) : Nat :=
  let f := if w == 64 then f64 else f32
  match op with
  | 0 => (old + v) % 2 ^ w
  | 1 => if toS w v < toS w old then v % 2 ^ w else old
  | 2 => if toS w old < toS w v then v % 2 ^ w else old
  | 3 => old &&& v
  | 4 => old ||| v
  | 5 => old ^^^ v
  | 6 => v
  | 7 => if old == cmp then v else old
  | 8 => let a := f.decode old; let b := f.decode v; (finish f [a, b] false (addExact a b 0) 0).1
  | 9 => (minmaxF f false old v).1
  | _ => (minmaxF f true old v).1

/-! ### Accesses, performed -/

/-- What became of an access. -/
inductive Res where
  /-- it is not due, or waits at its home: nothing happened -/
  | wait
  | absent (home : Nat)
  | prot
  /-- its page is POISONED: the data that a read delivers, as they stand there: DESIGN CHOICE, log 70 -/
  | poisoned (v : Nat)
  | race (s : State)
  /-- performed: the state, the value, whether it is poisoned, and whether both sides of a conflict are engines (R207) -/
  | done (s : State) (v : Nat) (poison race : Bool)
  deriving DecidableEq, Repr

/-- An access that completes a conflict is not performed: what its translation left is undone (R207, R305). -/
def Res.undo (s : State) : Res → Res
  | .race _ => .race s
  | r => r
def Access.need (a : Access) : Need := match a.kind with | .load => .load | .store => .store | .rmw => .rmw
def Access.atomic (a : Access) : Bool := a.kind == .rmw || a.order != 0

/-- An access performed on its words: judged, its bytes read or written, its releases observed and published. -/
def performOn (s : State) (w : Who) (a : Access) (seq : Nat) (ws : List Nat) (checked : Bool) (old : Nat) (put : State → Nat → State) : Res :=
  match (if checked then judge s w (a.kind != .load) a.atomic ws a.addr else some (s, false)) with
  | none => .race s
  | some (s, r) =>
    let bad := poisonedWords s ws
    match a.kind with
    | .load => .done (if a.order != 0 then observe s w ws a.order a.scope seq else s) old bad r
    | .store =>
      let rels := relsOf w a.order a.scope a.atomic
      let s := publish (put s a.data) ws rels false
      .done (if a.bad then { s with poison := ws.foldl lput s.poison } else s) 0 false r
    | .rmw =>
      let rels := relsOf w a.order a.scope true
      let s := observe s w ws a.order a.scope seq
      let s1 := publish (put s (atomicNew a.op (8 * a.bytes) old a.data a.cmp)) ws rels true
      .done (if bad then { s1 with poison := ws.foldl lput s1.poison } else s1) old bad r

/-- An access of a party to global memory, at its home. The device's own writes have party 0, and take no part in conflicts (R232). -/
def performHome (s : State) (w : Who) (a : Access) (seq pa : Nat) : Res :=
  performOn (writeBack s w.place pa) w a seq (wordsAt pa a.bytes) (paPkg pa < 240 && w.uid != 0) (readPhys s pa a.bytes) fun s v => writePhys s w.place pa v a.bytes
/-- The line of an access, once its answer is at its die. -/
def fillFrom (s : State) (w : Who) (a : Access) (pa home leaf : Nat) : State :=
  useLine s w.place w.tasid a.addr.toNat pa home leaf (if a.kind == .rmw then 3 else a.hint) (a.kind != .load)
/-- An access of a party to global memory, at a translated address, with its answer at once. -/
def performPhys (s : State) (w : Who) (a : Access) (seq pa home leaf : Nat) : Res :=
  match performHome s w a seq pa with
  | .done s v po r => .done (fillFrom s w a pa home leaf) v po r
  | x => x

/-- An access of a party to global memory, translated and performed at once. -/
def performGlobal (s : State) (w : Who) (a : Access) (seq : Nat) : Res :=
  match locate s w.place w.tasid a.addr.toNat a.need a.bytes with
  | .wait => .wait
  | .absent h => .absent h
  | .prot => .prot
  | .poisoned pa => .poisoned (readPhys s pa a.bytes)
  | .at_ pa home leaf s' => (performPhys s' w a seq pa home leaf).undo s

/-- An access to scratchpad, performed at its core (R175). -/
def performScratch (s : State) (w : Who) (a : Access) (seq : Nat) : Res :=
  performOn s w a seq (wordsOfLocs a.locs) true (readLocs s.sram a.locs) fun s v =>
    let whole := (wordsOfLocs a.locs).filter fun x => (a.locs.filter fun l => sramWord l == x).length == 4
    { s with sram := writeLocs s.sram a.locs v, poison := if s.poison.isEmpty then s.poison else s.poison.filter fun x => !whole.contains x }

/-! ### The side log (R313, R316) -/

def logCap (s : State) (asid : Nat) : Nat := match ctx? s asid with | some c => c.slq | none => 512
/-- A write retires into its home's side log; none when the log is full. -/
def logWrite (s : State) (h : Nat) (w : Who) (a : Access) : Option State :=
  let l := sideLog s h w.tasid
  if l.length < logCap s w.tasid then
    some (putBase s h { base s h with logs := fput (base s h).logs w.tasid (l ++ [{ who := w, acc := a, rels := relsOf w a.order a.scope a.atomic }]) })
  else none

/-! ### Accesses of the device itself -/

/-- The pieces of a range, none of which crosses a boundary of so many bytes. -/
def pieces (va line : Nat) : Nat → Nat → List (Nat × Nat)
  | 0, _ => []
  | fuel + 1, n =>
    if n == 0 then [] else
    let k := min n (line - va % line)
    (va, k) :: pieces (va + k) line fuel (n - k)
def piecesOf (va n : Nat) : List (Nat × Nat) := pieces va 128 (n / 128 + 2) n

def plainLoad (va n : Nat) (pc : DWord) : Access :=
  { kind := .load, scratch := false, addr := BitVec.ofNat 64 va, locs := [], bytes := n, width := 0, pc := pc }
def plainStore (va n v : Nat) (pc : DWord) : Access :=
  { kind := .store, scratch := false, addr := BitVec.ofNat 64 va, locs := [], bytes := n, data := v, width := 0, pc := pc }

/-- Every die's copy of a line is invalidated, as the home does before an engine's or the host's write (R181, R405). -/
def invalidateFor (s : State) (pa : Nat) (but : Option Nat) : State :=
  if s.lines.isEmpty then s else dropLines s fun l => l.pa == lineOf pa && some l.die != but

/-- The device itself as a party. -/
def deviceWho (asid : Nat) : Who :=
  { uid := 0, region := 0, clk := [], place := { die := none }, key := 0, asid := asid, tasid := asid, engine := true, pc := 0 }
/-- A write of the device enters the side log of a page that is absent, in entries of at most 16 bytes (R313). It finds room there: DESIGN
CHOICE, log 69. -/
def deviceLog (s : State) (asid home va n v : Nat) : State :=
  ((pieces va 16 (n / 16 + 2) n).foldl (fun (s, v) (p : Nat × Nat) =>
    let e : LogEntry := { who := deviceWho asid, acc := plainStore p.1 p.2 (v % 2 ^ (8 * p.2)) 0 }
    (putBase s home { base s home with logs := fput (base s home).logs asid (sideLog s home asid ++ [e]) }, v / 2 ^ (8 * p.2))) (s, v)).1
/-- Writes of the device itself (records, status words, rings, spills): they take no part in conflicts and ask no permission (R232); an
absent page logs them and a POISONED one discards them (R310). -/
def deviceWrite (s : State) (asid va n v : Nat) : State :=
  match deviceLoc s asid va with
  | .at_ pa _ _ _ =>
    if paPkg pa == 255 then s else
    let s := deviceUse s asid va true
    invalidateFor (unpoison { s with mem := writeN s.mem pa v n } pa n) pa none
  | .absent home => deviceLog s asid home va n v
  | _ => s
/-- What the device would read at an address now. -/
def deviceRead (s : State) (asid va n : Nat) : Option Nat := (devicePa s asid va).map fun pa => readPhys s pa n
/-- A read of the device: its value, and the leaf's ACC set (R305). -/
def deviceFetch (s : State) (asid va n : Nat) : Option (Nat × State) :=
  (devicePa s asid va).map fun pa => (readPhys s pa n, deviceUse s asid va false)

/-! ### Scratchpad addresses (R22, R176, R179) -/

/-- Where a group's scratchpad stands: its core and the first byte. -/
def sliceOf (s : State) (g : Group) : Nat × Nat :=
  match kernel? s g.kernel, cset? s g.cset with
  | some k, some c => let q := g.index % k.perSet; (c.cluster * 4 + q % 4, c.base + q / 4 * k.scr)
  | _, _ => (0, 0)

/-- A byte location for a scratchpad offset of a party of cluster set c: its own slice (bit 31 clear) or the cluster window. -/
def scratchByte (s : State) (c : CSet) (own : Option Group) (off : Nat) : Option Nat :=
  match kernel? s c.kernel with
  | none => none
  | some k =>
    if off < 2 ^ 31 then
      match own with
      | some g => if off < k.scr then let (core, b) := sliceOf s g; some (sramLoc core (b + off)) else none
      | none => none
    else
      let v := bitsN off 21 20; let o := bitsN off 18 0
      if bitsN off 30 22 != 0 || bitN off 19 || k.scr == 0 then none
      else
        let q := o / k.scr * 4 + v
        if o < c.size && q < k.perSet then some (sramLoc (c.cluster * 4 + v) (c.base + o)) else none

/-- The byte offsets of an access of n bytes in linear or diagonal mode (R178, R179). -/
def scratchOffs (off n : Nat) (diag : Bool) : List Nat :=
  if !diag then upFrom off n
  else
    let t := off / 4096 * 4096; let i := bitsN off 11 7; let j := bitsN off 6 2; let b := bitsN off 1 0
    (upFrom 0 n).map fun m => t + 4 * (32 * i + (i + j + (b + m) / 4) % 32) + (b + m) % 4

/-- The locations of a scratchpad access, if every one exists. -/
def scratchLocs (s : State) (c : CSet) (own : Option Group) (off n : Nat) (diag : Bool) : Option (List Nat) :=
  (scratchOffs off n diag).foldr (fun o l => match scratchByte s c own o, l with | some x, some l => some (x :: l) | _, _ => none) (some [])

/-- The cluster set of an agent's thread or task, and its own group. -/
def csetOf (s : State) (a : Agent) : Option CSet :=
  match a.kind with
  | .thread => (group? s a.group).bind fun g => cset? s g.cset
  | .task => ((queue? s a.queue).bind fun q => cset? s q.cset).filter (!·.retired)
  | .handler => none
def ownGroup (s : State) (a : Agent) : Option Group := if a.kind == .thread then group? s a.group else none

/-! ### The thread-private space (R23) -/

/-- The private size P of an agent. -/
def privSize (s : State) (a : Agent) : Nat :=
  if a.kind == .thread then (match kernel? s a.kernel with | some k => k.priv | none => 0) else 0
/-- The virtual address of private offset `off` of the thread with key k. -/
def privVa (s : State) (k : Nat) (a : Agent) (off : Nat) : Nat :=
  match ctx? s a.asid with
  | some c => (c.privb + k * privSize s a + off) % 2 ^ 64
  | none => off

end Sys2Proof.Machine
end

