-- ==== Sys2Proof/Machine/Fabric.lean ====
section
/-!
DEFINITION. Sys2Proof/Machine/Fabric.lean: the links and what they join (R7, R8, R10), the masts by which a line travels (R362, R363), the
flits that carry messages (R365 to R368), their way over the links (R370, R371, R374, R375), drains (R364, R379), and the accesses that cross
the fabric within one event. What crosses another package is not modelled (log 3).
-/
namespace Sys2Proof.Machine

/-! ### Links by number: the model's own numbering (log 10) -/

/-- What a link is: a mast link or an attach bundle of a physical mast, or an off-package port of a base die. -/
inductive LinkKind where
  | mast (m : Nat)
  | port (st p : Nat)
  deriving DecidableEq, Repr

/-- Links 48 m to 48 m + 47 are mast m's; 192 + 4 b + m holds mast m's two bundles of attach port b (R11); 320 + 4 st + p is port p of base
die st. -/
def linkKind (n : Nat) : Option LinkKind :=
  if n < 192 then some (.mast (n / 48))
  else if n < 320 then some (.mast ((n - 192) % 4))
  else if n < 384 then some (.port ((n - 320) / 4) ((n - 320) % 4))
  else none

/-- The number of the pair of two of four places, and the pair of a number. -/
def pairNo (a b : Nat) : Nat := let lo := min a b; lo * (5 - lo) / 2 + max a b - 1
def pairOf (n : Nat) : Nat × Nat := match n with | 0 => (0, 1) | 1 => (0, 2) | 2 => (0, 3) | 3 => (1, 2) | 4 => (1, 3) | _ => (2, 3)
/-- The link of a mast that joins two base dies of one row or one column (R8): six in each row, then six in each column. -/
def meshLink (m a b : Nat) : Nat :=
  48 * m + if a / 4 == b / 4 then 6 * (a / 4) + pairNo (a % 4) (b % 4) else 24 + 6 * (a % 4) + pairNo (a / 4) (b / 4)
/-- Mast m's two bundles of the attach port that joins a die to one of its stacks; port 4 d + i is port i of die d (R7, R11). -/
def attachLink (m d st : Nat) : Nat := 192 + 4 * (4 * d + (attach d).findIdx (· == st)) + m
def portLink (st p : Nat) : Nat := 320 + 4 * st + p
/-- The base dies that a link joins: two for a mast link, the one at its end for an attach bundle or a port. -/
def linkEnds (n : Nat) : List Nat :=
  if n < 192 then
    let i := n % 48; let (a, b) := pairOf (i % 6)
    if i < 24 then [4 * (i / 6) + a, 4 * (i / 6) + b] else [4 * a + (i - 24) / 6, 4 * b + (i - 24) / 6]
  else if n < 320 then [(attach ((n - 192) / 16)).getD ((n - 192) / 4 % 4) 0]
  else if n < 384 then [(n - 320) / 4]
  else []

/-! ### Masts (R362, R363) -/

/-- The logical mast of a line, by its virtual address, or by its physical address for a forwarded request. -/
def lmastOf (a : Nat) : Nat := bitsN a 8 7 ^^^ bitsN a 16 15
/-- The physical mast of a logical one by a mast remap register. -/
def pmOf (remap : Word) (lm : Nat) : Nat := bitsN remap.toNat (2 * lm + 1) (2 * lm)
/-- The remap register at the place where a party's traffic enters: its die's attach ports', or its router's. -/
def remapAt (s : State) (p : Place) : Word := match p.die with | some d => (dieSt s d).remap | none => (base s (p.stack % 16)).remap

/-- The links of the dimension-order path between two base dies: row first, then column (R370). -/
def meshPath (m a b : Nat) : List Nat :=
  if a == b then [] else if a / 4 == b / 4 || a % 4 == b % 4 then [meshLink m a b]
  else let c := a / 4 * 4 + b % 4; [meshLink m a c, meshLink m c b]
/-- The minimal paths between two base dies (R8, R376): one in a row or a column, else row first and column first. -/
def meshPaths (m a b : Nat) : List (List Nat) :=
  meshPath m a b :: if a / 4 == b / 4 || a % 4 == b % 4 then [] else let c := b / 4 * 4 + a % 4; [[meshLink m a c, meshLink m c b]]
/-- A path that begins with two mesh links, with the other corner in place of its own. -/
def turnPath (p : List Nat) : List Nat :=
  match p with
  | x :: y :: t =>
    match (linkEnds x).find? (!(linkEnds y).contains ·), (linkEnds y).find? (!(linkEnds x).contains ·) with
    | some a, some b =>
      if x < 192 && y < 192 then (((meshPaths (x / 48) a b).find? (· != [x, y])).getD [x, y]) ++ t else p
    | _, _ => p
  | _ => p
/-- A path that begins with a column link, turned to begin with a row link where it has one (R370). -/
def rowFirst (p : List Nat) : List Nat := match p with | x :: _ => if x < 192 && 24 ≤ x % 48 then turnPath p else p | [] => p

/-- Route n of a base die's entry for a package: its exit die and its port (R377). -/
def routeAt (s : State) (e pkg n : Nat) : Nat := bitsN (fgetD (base s e).routes pkg 0).toNat (16 * n + 15) (16 * n)
/-- The routes of an entry that may be used (R378). -/
def validRoutes (s : State) (e pkg : Nat) : List Nat := (upFrom 0 4).filter fun n => bitN (routeAt s e pkg n) 15
def routeEnd (r : Nat) : Nat × Nat := (bitsN r 3 0, bitsN r 5 4)
/-- The links between a party and its entry stack. -/
def upLinks (s : State) (p : Place) (home lm : Nat) : List Nat :=
  match p.die with | some d => [attachLink (pmOf (remapAt s p) lm) d (entryOf p home)] | none => []
/-- The paths that a flit of a party may take to a home on a virtual channel, as far as they belong to this package (R370, R378): VC 0 keeps
dimension order and the primary route, VC 1 takes either dimension first and any valid route, VC 2 dimension order and any valid route. -/
def pathsTo (s : State) (p : Place) (home lm vc : Nat) : List (List Nat) :=
  let m := pmOf (remapAt s p) lm; let e := entryOf p home; let up := upLinks s p home lm
  let mesh (a b : Nat) : List (List Nat) := if vc == 1 then meshPaths m a b else [meshPath m a b]
  if home < 16 then (mesh e home).map (up ++ ·)
  else (if vc == 0 then [0] else validRoutes s e (homePkg s home)).flatMap fun n =>
    let (x, port) := routeEnd (routeAt s e (homePkg s home) n)
    (mesh e x).map fun l => up ++ l ++ [portLink x port]
/-- The links that an answer of a home crosses to a party: VC 3 keeps dimension order and the primary route (R370, R378). -/
def pathFrom (s : State) (home : Nat) (p : Place) (lm : Nat) : List Nat :=
  let e := entryOf p home; let m := pmOf (base s (home % 16)).remap lm
  let down : List Nat := match p.die with | some d => [attachLink m d e] | none => []
  if home < 16 then meshPath m home e ++ down
  else let (x, port) := routeEnd (routeAt s e (homePkg s home) 0); [portLink x port] ++ meshPath m x e ++ down
/-- The links between a home and a stack of its package; those of another package are not of this part (log 3). -/
def pathWithin (s : State) (home a b lm : Nat) : List Nat := if home < 16 then meshPath (pmOf (base s (a % 16)).remap lm) (a % 16) (b % 16) else []
/-- The paths of the copies of a marker fence on a logical mast (R375, R376): one copy for each minimal path, of which those in the target's
package differ only there. Where a port of this package leads is not given: a free value, log 71. -/
def markerPaths (s : State) (p : Place) (home lm : Nat) : List (List Nat) :=
  let m := pmOf (remapAt s p) lm; let e := entryOf p home; let up := upLinks s p home lm
  if home < 16 then (meshPaths m e home).map (up ++ ·)
  else (validRoutes s e (homePkg s home)).flatMap fun n =>
    let r := routeAt s e (homePkg s home) n; let (x, port) := routeEnd r
    let far := meshPaths m (Config.arrivalDie s.package r % 16) (home % 16)
    (meshPaths m e x).flatMap fun l => far.map fun _ => up ++ l ++ [portLink x port]

/-! ### Building flits (R366 to R368) -/

/-- The flit kinds (R367). -/
def FlitKind.read : Nat := 0
def FlitKind.write : Nat := 1
def FlitKind.atomic : Nat := 2
def FlitKind.resp : Nat := 3
def FlitKind.ack : Nat := 4
def FlitKind.marker : Nat := 5
def FlitKind.markerack : Nat := 6
def FlitKind.inval : Nat := 7
def FlitKind.invalack : Nat := 8
def FlitKind.fwd : Nat := 9
def FlitKind.fwdans : Nat := 10
def FlitKind.chunk : Nat := 11
def FlitKind.fw : Nat := 31

/-- A unit that R367 names. -/
def unitOk (u : Nat) : Bool := u < 0x18 || (0x20 ≤ u && u < 0xC0)
/-- A virtual channel that R370 gives for a kind; it gives none for firmware messages, which may take any (log 53). -/
def vcOk (kind vc : Nat) : Bool :=
  if kind ≤ 2 then vc ≤ 2 else if kind == FlitKind.marker then vc == 1 || vc == 2 else if kind == FlitKind.chunk then 4 ≤ vc && vc < 8
  else if kind == FlitKind.fw then vc < 8 else kind ≤ 10 && vc == 3
/-- A flit that its receiver does not discard (R367). -/
def Flit.ok (f : Flit) : Bool := vcOk f.kind.toNat f.vc.toNat && unitOk f.sunit.toNat && unitOk f.dunit.toNat

/-- The 256 bits of a control flit (R366); bits [15:12] are reserved. -/
def Flit.bits (f : Flit) : BitVec 256 := BitVec.ofNat 256 (
  f.kind.toNat + f.vc.toNat * 2 ^ 5 + (if f.hc then 2 ^ 8 else 0) + f.lmast.toNat * 2 ^ 9 + (if f.data then 2 ^ 11 else 0) + f.tag.toNat * 2 ^ 16 +
  f.sunit.toNat * 2 ^ 32 + f.spkg.toNat * 2 ^ 40 + f.dunit.toNat * 2 ^ 48 + f.dpkg.toNat * 2 ^ 56 + f.addr.toNat * 2 ^ 64 + f.asid.toNat * 2 ^ 128 +
  f.width.toNat * 2 ^ 140 + (if f.phys then 2 ^ 143 else 0) + f.op.toNat * 2 ^ 144 + f.count.toNat * 2 ^ 152 + f.party.toNat * 2 ^ 160 + f.inline.toNat * 2 ^ 192)
/-- The control flit of 256 bits. -/
def Flit.ofBits (b : BitVec 256) : Flit :=
  let x := b.toNat
  { kind := BitVec.ofNat 5 x, vc := BitVec.ofNat 3 (x / 2 ^ 5), hc := bitN x 8, lmast := BitVec.ofNat 2 (x / 2 ^ 9), data := bitN x 11, tag := BitVec.ofNat 16 (x / 2 ^ 16),
    sunit := BitVec.ofNat 8 (x / 2 ^ 32), spkg := BitVec.ofNat 8 (x / 2 ^ 40), dunit := BitVec.ofNat 8 (x / 2 ^ 48), dpkg := BitVec.ofNat 8 (x / 2 ^ 56),
    addr := BitVec.ofNat 64 (x / 2 ^ 64), asid := BitVec.ofNat 12 (x / 2 ^ 128), width := BitVec.ofNat 3 (x / 2 ^ 140), phys := bitN x 143,
    op := BitVec.ofNat 8 (x / 2 ^ 144), count := BitVec.ofNat 8 (x / 2 ^ 152), party := BitVec.ofNat 32 (x / 2 ^ 160), inline := BitVec.ofNat 64 (x / 2 ^ 192) }

/-- A flit from a unit to a unit, of the own package where not said otherwise. -/
def flit (s : State) (kind vc lm src dst tag : Nat) : Flit :=
  { kind := BitVec.ofNat 5 kind, vc := BitVec.ofNat 3 vc, lmast := BitVec.ofNat 2 lm, tag := BitVec.ofNat 16 tag, sunit := BitVec.ofNat 8 src,
    spkg := BitVec.ofNat 8 s.package, dunit := BitVec.ofNat 8 dst, dpkg := BitVec.ofNat 8 s.package }
/-- PARTY: the party and its region; how 32 bits name them is the model's own (log 53). -/
def partyField (w : Who) : Word := BitVec.ofNat 32 (w.uid % 65536 * 65536 + w.region % 65536)

/-- An access's operand travels in a data flit: a line, a 16-byte write, or the expected value of a 64-bit CAS beside the new one (log 53). -/
def needsData (a : Access) : Bool := if a.kind == .rmw then a.op == 7 && a.bytes == 8 else a.kind == .store && a.bytes > 8
/-- Bytes of an access in its line, as the line's slot of a data flit. -/
def inLine (addr v : Nat) : Nat := v * 2 ^ (8 * (addr % 128)) % 2 ^ 1024
/-- The 8 bytes of INLINE (R366): a write's or an atomic's operand; for a 32-bit CAS its expected value in the low half and the new one in
the high half (log 53). -/
def inlineOf (a : Access) : DWord :=
  if a.kind == .load || (a.kind == .store && a.bytes > 8) then 0
  else if a.kind == .rmw && a.op == 7 && a.bytes ≤ 4 then BitVec.ofNat 64 (a.cmp + a.data * 2 ^ 32)
  else BitVec.ofNat 64 a.data
/-- A request's control flit, from its party to its home, or with a physical address from its home to where the data lie. -/
def reqFlit (s : State) (w : Who) (a : Access) (id kind vc src dst addr : Nat) (phys : Bool) : Flit :=
  { flit s kind vc (lmastOf addr) src dst id with
    data := needsData a, addr := BitVec.ofNat 64 addr, asid := BitVec.ofNat 12 w.tasid, width := BitVec.ofNat 3 a.width, phys := phys,
    op := BitVec.ofNat 8 (if a.kind == .rmw then a.op else 0), party := partyField w, inline := inlineOf a }
/-- The data flit that goes with it. -/
def reqLine (a : Access) : Nat := inLine a.addr.toNat (if a.kind == .rmw then a.cmp else a.data)
def onePacket (f : Flit) (id line : Nat) (path : List Nat) : Packet :=
  { mail := [(f, id)], data := if f.data then some (BitVec.ofNat 4096 line) else none, path := path }

/-- The packet of an access to its home along a path, on VC 0, or for relaxed traffic VC 1 or VC 2. -/
def accessPacket (s : State) (w : Who) (a : Access) (id home vc : Nat) (path : List Nat) : Packet :=
  let kind := match a.kind with | .load => FlitKind.read | .store => FlitKind.write | .rmw => FlitKind.atomic
  onePacket { reqFlit s w a id kind vc (masterOf w.place) (home % 16) a.addr.toNat false with dpkg := BitVec.ofNat 8 (homePkg s home) } id (reqLine a) path
/-- The packet of a forwarded request, between a home and the stack where its data lie (R370). -/
def fwdPacket (s : State) (r : Req) (home pa : Nat) : Packet :=
  let t := servedBy pa
  onePacket { reqFlit s r.who r.acc r.id FlitKind.fwd 3 (home % 16) t pa true with spkg := BitVec.ofNat 8 (homePkg s home), dpkg := BitVec.ofNat 8 (homePkg s home) }
    r.id (reqLine r.acc) (pathWithin s home home t (lmastOf pa))
/-- What answers a request: an atomic's old value inline, a load's line in a data flit (a register's value inline), a fault's code in
OP (log 53); an acknowledgement carries nothing. -/
def ansFlit (s : State) (r : Req) (kind src dst addr : Nat) (phys : Bool) (line : Bool) : Flit :=
  { flit s kind 3 (lmastOf addr) src dst r.id with
    data := line, addr := BitVec.ofNat 64 addr, asid := BitVec.ofNat 12 r.who.tasid, width := BitVec.ofNat 3 r.acc.width, phys := phys,
    op := match r.fault with | some c => BitVec.ofNat 8 c.num | none => 0
    party := partyField r.who, inline := if line then 0 else BitVec.ofNat 64 r.result }
/-- The line that answers a load, with what the load read in its place; none for a register. -/
def lineData (s : State) (r : Req) (pa : Nat) : Nat :=
  if paPkg pa == 255 then 0 else setBitsN (readN s.mem (lineOf pa) 128) (8 * (pa % 128 + r.acc.bytes) - 1) (8 * (pa % 128)) r.result
def answerPacket (s : State) (r : Req) (home pa : Nat) : Packet :=
  let t := servedBy pa
  let line := r.acc.kind == .load && r.fault.isNone && paPkg pa != 255
  onePacket { ansFlit s r FlitKind.fwdans t (home % 16) pa true line with spkg := BitVec.ofNat 8 (homePkg s home), dpkg := BitVec.ofNat 8 (homePkg s home) }
    r.id (lineData s r pa) (pathWithin s home t home (lmastOf pa))
def respPacket (s : State) (r : Req) (home : Nat) (returns : Bool) : Packet :=
  let a := r.acc.addr.toNat
  let line := r.acc.kind == .load && r.fault.isNone && (match r.fill with | some (pa, _, _) => paPkg pa != 255 | none => false)
  let f := ansFlit s r (if returns then FlitKind.resp else FlitKind.ack) (home % 16) (masterOf r.who.place) a false line
  onePacket { f with hc := 16 ≤ home, spkg := BitVec.ofNat 8 (homePkg s home) } r.id (match r.fill with | some (pa, _, _) => lineData s r pa | none => 0)
    (pathFrom s home r.who.place (lmastOf a))
/-- The packet of an invalidation to a die, or of its acknowledgement (R367). -/
def invalPacket (s : State) (i : Inval) (ack : Bool) : Packet :=
  let p : Place := { die := some i.die }; let lm := lmastOf i.va; let h := i.home % 16
  let f (kind src dst : Nat) : Flit := { flit s kind 3 lm src dst i.id with addr := BitVec.ofNat 64 i.va, asid := BitVec.ofNat 12 i.asid }
  if ack then onePacket { f FlitKind.invalack (0x10 + i.die) h with dpkg := BitVec.ofNat 8 (homePkg s i.home) } i.id 0 ((pathsTo s p i.home lm 0).headD [])
  else onePacket { f FlitKind.inval h (0x10 + i.die) with spkg := BitVec.ofNat 8 (homePkg s i.home), hc := 16 ≤ i.home } i.id 0 (pathFrom s i.home p lm)
/-- The acknowledgement of a marker fence (R375); its logical mast is the model's own (log 53). -/
def markerackPacket (s : State) (m : Marker) : Packet :=
  onePacket { flit s FlitKind.markerack 3 0 (m.target % 16) (masterOf m.place) m.id with spkg := BitVec.ofNat 8 (homePkg s m.target), hc := 16 ≤ m.target }
    m.id 0 (pathFrom s m.target m.place 0)
/-- The beats of a chunk that a SEND sends: 512 bytes each, zeros after its end, on the VC of its communicator (R365, R370). -/
def beatPackets (s : State) (src pkg dst vcc id : Nat) (data : List Byte) : List Packet :=
  let home := homeKey s pkg dst
  (upFrom 0 (ceilDiv data.length 512)).map fun i =>
    onePacket { flit s FlitKind.chunk (4 + vcc % 4) (i % 4) src dst id with data := true, dpkg := BitVec.ofNat 8 pkg } id
      (ofBytes ((data.drop (512 * i)).take 512)) ((pathsTo s { die := none, stack := src } home (i % 4) 2).headD [])

/-! ### On the fabric (R368, R370, R371, R374, R375) -/

def Packet.kind (p : Packet) : Nat := match p.mail with | (f, _) :: _ => f.kind.toNat | [] => 0
def Packet.vc (p : Packet) : Nat := match p.mail with | (f, _) :: _ => f.vc.toNat | [] => 0
def Packet.hc (p : Packet) : Bool := match p.mail with | (f, _) :: _ => f.hc | [] => false
/-- The same packet on another virtual channel. -/
def Packet.onVc (p : Packet) (vc : Nat) : Packet := { p with mail := p.mail.map fun (f, i) => ({ f with vc := BitVec.ofNat 3 vc }, i) }

def controlSlots (link : Nat) : Nat := if link < 320 then 16 else 64
def dataSlots (link : Nat) : Nat := if link < 320 then 8 else 32
/-- What takes slots of a link's receiver on a virtual channel and hop class. -/
def onLink (s : State) (link vc : Nat) (hc : Bool) : List Packet := s.fabric.filter fun p => p.path.head? == some link && p.vc == vc && p.hc == hc
/-- Free-slot counters of control and data flits (R371). -/
def freeControl (s : State) (link vc : Nat) (hc : Bool) : Nat := controlSlots link - ((onLink s link vc hc).map (·.mail.length)).foldl (· + ·) 0
def freeData (s : State) (link vc : Nat) (hc : Bool) : Nat := dataSlots link - ((onLink s link vc hc).filter (·.data.isSome)).length
/-- The receiver of the first link of its path has a free slot for each of a packet's flits; a packet that crosses no link needs none. -/
def roomAt (s : State) (p : Packet) : Bool :=
  match p.path with
  | l :: _ => p.mail.length ≤ freeControl s l p.vc p.hc && (p.data.isNone || 0 < freeData s l p.vc p.hc)
  | [] => true
/-- Every slot of every receiver of a link is free: its counters are full (R356, R371). -/
def countersFull (s : State) (link : Nat) : Bool := s.fabric.all fun p => p.path.head? != some link

/-- A packet of lines takes on another's flit and line, up to four (R368). -/
def Packet.joins (p q : Packet) : Bool :=
  p.kind != FlitKind.chunk && p.mail.length < 4 && p.path == q.path && !p.here && p.data.isSome && q.data.isSome && p.vc == q.vc && p.hc == q.hc && p.kind == q.kind
def Packet.join (p q : Packet) : Packet :=
  { p with mail := p.mail ++ q.mail, data := some (BitVec.ofNat 4096 ((p.data.getD 0).toNat + (q.data.getD 0).toNat * 2 ^ (1024 * p.mail.length))) }
/-- A packet goes out on the first link of its path: after what was sent there before, or with the line that was sent there last, so that no
other data flit of the channel comes between (R368, R374). -/
def send (s : State) (q : Packet) : State :=
  match q.path with
  | [] => s
  | l :: _ =>
    match (onLink s l q.vc q.hc).getLast? with
    | some p => if p.joins q then { s with fabric := s.fabric.map fun x => if x == p then p.join q else x } else { s with fabric := s.fabric ++ [q] }
    | none => { s with fabric := s.fabric ++ [q] }

/-- A packet may leave its receiver: nothing that was sent before it on its channel is still on its way (R374), nor, for a copy of a marker,
any relaxed flit that is bound for the same link (R375). Flits that R367 discards do not arrive. -/
def mayLeave (s : State) (p : Packet) : Bool :=
  let before := (s.fabric.takeWhile (· != p)).filter fun q => !q.here && q.path.head? == p.path.head?
  before.all (fun q => !(q.vc == p.vc && q.hc == p.hc)) && p.mail.all (·.1.ok) &&
  (p.kind != FlitKind.marker || before.all fun q => !(q.vc == 1 || q.vc == 2) || (q.path.drop 1).head? != (p.path.drop 1).head?)
/-- How a packet may go on over the rest of its path: a relaxed flit turns, or moves to VC 2 for good (R370). -/
def onward (p : Packet) (rest : List Nat) : List Packet :=
  let q := { p with path := rest }
  if p.vc == 1 && p.kind != FlitKind.marker then [q, { q with path := turnPath rest }, { q.onVc 2 with path := rowFirst rest }] else [q]
/-- A packet crosses its next link; none while it must wait for a slot there. -/
def forward (s : State) (p : Packet) : Option State :=
  match p.path with
  | _ :: l :: t => if mayLeave s p then ((onward p (l :: t)).find? (roomAt s)).map fun q => { s with fabric := s.fabric.erase p ++ [q] } else none
  | _ => none
/-- The packet that carries a message of some kinds with a number. -/
def packetOf (s : State) (kind : Nat → Bool) (id : Nat) : Option Packet := s.fabric.find? fun p => p.mail.any fun (f, i) => i == id && kind f.kind.toNat
/-- A packet without one of its flits and that flit's line. -/
def Packet.without (p : Packet) (id : Nat) : Packet :=
  let i := p.mail.findIdx (·.2 == id)
  { p with mail := p.mail.filter (·.2 != id)
           data := p.data.map fun d => BitVec.ofNat 4096 (d.toNat % 2 ^ (1024 * i) + d.toNat / 2 ^ (1024 * (i + 1)) * 2 ^ (1024 * i)) }
/-- A message has been delivered: its flit leaves the fabric. -/
def takeOff (s : State) (p : Packet) (id : Nat) : State :=
  let q := p.without id
  { s with fabric := if q.mail.isEmpty then s.fabric.erase p else s.fabric.map fun x => if x == p then q else x }
/-- A message has been delivered to a receiver where it waits, in its slot (R371). -/
def keepHere (s : State) (p : Packet) (id : Nat) : State :=
  { s with fabric := s.fabric.flatMap fun x => if x != p then [x] else
      let q := p.without id
      { p with mail := p.mail.filter (·.2 == id), here := true } :: if q.mail.isEmpty then [] else [q] }

/-- The messages that meet a condition on their kind and number leave the fabric undelivered. -/
def dropMail (s : State) (gone : Nat → Nat → Bool) : State :=
  { s with fabric := (s.fabric.map fun p => (p.mail.filter fun (f, i) => gone f.kind.toNat i).foldl (fun p (_, i) => p.without i) p).filter (!·.mail.isEmpty) }

/-- A message reaches its receiver, or crosses one more link, or waits for a slot or for what was sent before it. -/
def nearer (s : State) (p : Packet) (id : Nat) (f : State → State) : State :=
  if p.path.length ≤ 1 then (if mayLeave s p then f (takeOff s p id) else s) else (forward s p).getD s
/-- A message of some kinds on its way: its sender puts it on the fabric once there is room for it (R371), each further event takes it over a
link, and the last one to what it does at its goal. One that crosses no link is there at once. -/
def travel (s : State) (kind id : Nat) (msg : Packet) (f : State → State) : State :=
  match packetOf s (· == kind) id with
  | some p => nearer s p id f
  | none => if msg.path.isEmpty then f s else if roomAt s msg then send s msg else s

/-! ### Stopped sources and drains (R364, R379) -/

/-- The package of an address's home. -/
def addrPkg (s : State) (asid va : Nat) : Nat := ((classify s asid va).map (·.pkg)).getD s.package
/-- The sources may not inject a request to a package: a remap is under way, or a change of the routes there (VC 0 only). -/
def sourceStopped (s : State) (pkg : Nat) (rx : Bool) : Bool :=
  s.changes.any fun e => match e with
    | .mastRemap _ _ => true
    | .routeChange _ p _ => !rx && pkg == p
    | _ => false
/-- Every flit already injected has been delivered: all of them, or those of VC 0 to one package. -/
def drained (s : State) (pkg : Option Nat) : Bool :=
  match pkg with
  | none => s.fabric.all (·.here)
  | some n => s.fabric.all fun p => p.here || p.vc != 0 || p.mail.all fun (f, _) => f.dpkg.toNat != n
/-- A change whose drain is over. -/
def changeReady (s : State) (e : Event) : Bool :=
  match e with
  | .mastRemap _ _ => drained s none
  | .routeChange _ pkg _ => drained s (some pkg)
  | _ => true
/-- What the replay buffer of a link holds: the flits sent over it that have not been delivered, in their order (R369). -/
def replayBuffer (s : State) (link : Nat) : List Packet := s.fabric.filter fun p => p.path.head? == some link && !p.here
/-- The flits that still have to cross links out of service are injected again, in their order, on the path that another mapping gives. -/
def reinject (s : State) (out : Nat → Bool) (dest : Packet → Packet) : State :=
  { s with fabric := s.fabric.map fun p => if !p.here && p.path.any out then dest p else p }

/-- How a request can enter the fabric: on VC 0, or relaxed on VC 1 and else on VC 2, by the first path with a free slot; none while there is
none. A packet with no path crosses no link. -/
def inject (s : State) (w : Who) (a : Access) (id home : Nat) : Option Packet :=
  let rx := a.rx || w.relaxed
  let lm := lmastOf a.addr.toNat
  ((if rx then [1, 2] else [0]).flatMap fun vc => (pathsTo s w.place home lm vc).map (accessPacket s w a id home vc)).find? (roomAt s)
/-- An access that is performed within one event crosses its path within it, and with it its flits: its source may send, a path has a slot
free on every link, and on VC 0 nothing sent before is still on its way there (R364, R371, R374). -/
def crossNow (s : State) (w : Who) (a : Access) (home : Nat) : Bool :=
  let rx := a.rx || w.relaxed
  !sourceStopped s (homePkg s home) rx &&
  (if rx then [1, 2] else [0]).any fun vc => (pathsTo s w.place home (lmastOf a.addr.toNat) vc).any fun path =>
    let p := accessPacket s w a 0 home vc path
    p.mail.all (·.1.ok) && path.all fun l => roomAt s { p with path := [l] } && (rx || (onLink s l vc p.hc).all (·.here))

/-! ### Accesses of the engines and of synchronous reads -/

/-- How a run of engine accesses ended. -/
inductive Bulk where
  | wait
  | absent (va : Nat)
  | prot
  | poisoned
  /-- a plain access of a thread or task met a conflict, at that address -/
  | race (va : Nat)
  | done (s : State) (data : List Byte) (poison race : Bool)
  deriving DecidableEq, Repr

/-- What translation finds over a whole range, before any byte moves (R390): the first failure. Data of a POISONED page can be read, poisoned
(R310). -/
def rangeCheck (s : State) (w : Who) (need : Need) : List (Nat × Nat) → Option Bulk
  | [] => none
  | (va, n) :: t =>
    match locate s w.place w.tasid va need n with
    | .wait => some .wait
    | .absent _ => some (.absent va)
    | .prot => some .prot
    | .poisoned _ => if need == .load then rangeCheck s w need t else some .poisoned
    | .at_ _ home _ _ => if crossNow s w (if need == .load then plainLoad va n 0 else plainStore va n 0 0) home then rangeCheck s w need t else some .wait

/-- A plain read of a range by a party. Over the whole range a failed translation comes first, then a conflict, and then poison: DESIGN CHOICE,
log 72. -/
def readRange (s : State) (w : Who) (va n : Nat) : Bulk :=
  let ps := piecesOf va n
  match rangeCheck s w .load ps with
  | some b => b
  | none =>
    let go (acc : Bulk) (p : Nat × Nat) : Bulk :=
      match acc with
      | .done s d po r =>
        match performGlobal s w (plainLoad p.1 p.2 w.pc) 0 with
        | .done s v po' r' => .done s (d ++ bytesOf v p.2) (po || po') (r || r')
        | .race _ => .race p.1
        | .absent _ => .absent p.1
        | .prot => .prot
        | .poisoned v => .done s (d ++ bytesOf v p.2) true r
        | .wait => .wait
      | b => b
    ps.foldl go (.done s [] false false)

/-- A plain write of a range by an engine. -/
def writeRange (s : State) (w : Who) (va : Nat) (data : List Byte) : Bulk :=
  let ps := piecesOf va data.length
  match rangeCheck s w .store ps with
  | some b => b
  | none =>
    let go (acc : Bulk × List Byte) (p : Nat × Nat) : Bulk × List Byte :=
      match acc with
      | (.done s d po r, rest) =>
        match locate s w.place w.tasid p.1 .store p.2 with
        | .at_ pa home leaf s =>
          match performPhys (invalidateFor s pa w.place.die) w (plainStore p.1 p.2 (ofBytes (rest.take p.2)) w.pc) 0 pa home leaf with
          | .done s _ _ r' => (.done s d po (r || r'), rest.drop p.2)
          | .race _ => (.race p.1, rest)
          | _ => (.wait, rest)
        | .absent _ => (.absent p.1, rest)
        | .prot => (.prot, rest)
        | .poisoned _ => (.poisoned, rest)
        | .wait => (.wait, rest)
      | b => b
    (ps.foldl go (.done s [] false false, data)).1

/-- A page is POISONED once every line of it holds poison (R309): its leaf in memory says so, and no TLB keeps it. `ea` is where the leaf
stands. -/
def poisonLeaf (s : State) (asid home set e ea size : Nat) : State :=
  let lo := leafPa e
  let whole := (upFrom 0 (size / 128)).all fun i => (upFrom 0 32).any fun j => s.poison.contains (wordOf (lo + 128 * i) + j)
  if bitsN e 61 60 != 0 || s.poison.length < size / 128 || !whole then s else
  { putBase s home { base s home with tlb := (base s home).tlb.filter fun t => !(t.asid == asid && t.set == set && t.at_ == ea) } with
    mem := writeN s.mem ea (setBitsN (readN s.mem ea 8) 61 60 3) 8 }
/-- The page of an address of a context. -/
def poisonPageOf (s : State) (asid va : Nat) : State :=
  match classify s asid va, deviceLoc s asid va with
  | some ad, .at_ _ e ea size => poisonLeaf s asid ad.home ad.set e ea size
  | _, _ => s
/-- The leaves below a table: where each stands, its value and its page size. -/
def leavesIn (m : Memory) : List (Nat × Nat × Bool) → Nat → List (Nat × Nat × Nat)
  | [], _ => []
  | (hi, lo, lf) :: t, tab =>
    ((m.filter fun (a, _) => tab ≤ a && a < tab + 8 * 2 ^ (hi + 1 - lo)).foldl (fun l (a, _) => lput l (tab + (a - tab) / 8 * 8)) []).flatMap fun a =>
      let e := readN m a 8
      if !bitN e 63 then [] else if bitN e 62 then (if lf then [(a, e, 2 ^ lo)] else []) else leavesIn m t (bitsN e 55 8 * 256)
/-- An uncorrectable error strikes a word of HBM (R415): it is poisoned, and with it, it may be, a page of a context (R309). -/
def poisonPhys (s : State) (pa : Nat) : State :=
  let s := { s with poison := lput s.poison (wordOf pa) }
  let h := stackOf pa % 16
  ((base s h).roots.flatMap fun (asid, hr, sr) =>
    ((leavesIn s.mem (levels false) hr).map fun x => (asid, 0, x)) ++ (upFrom 0 128).flatMap fun n =>
      let p := readN s.mem (sr + 8 * n) 8
      if p == 0 then [] else (leavesIn s.mem (levels true) (bitsN p 55 8 * 256)).map fun x => (asid, n + 1, x)).foldl
    (fun s (asid, set, ea, e, size) => if leafPa e ≤ pa && pa < leafPa e + size then poisonLeaf s asid h set e ea size else s) s
/-- Marks the words of a range poisoned (poisoned data that an engine wrote on, R299), and the pages that hold nothing else. -/
def poisonRange (s : State) (asid va n : Nat) : State :=
  (piecesOf va n).foldl (fun s p =>
    match devicePa s asid p.1 with
    | some pa => poisonPageOf { s with poison := (wordsAt pa p.2).foldl lput s.poison } asid p.1
    | none => s) s
/-- Marks every destination line that holds one of some offsets of a range (R238, R390): a line of 128 bytes is poisoned whole. -/
def poisonLines (s : State) (asid va : Nat) (offs : List Nat) : State :=
  (offs.foldl (fun l o => lput l (lineOf (va + o))) []).foldl (fun s x => poisonRange s asid (x % 2 ^ 64) 128) s

end Sys2Proof.Machine
end

