-- ==== Sys2Proof/Machine/Operands.lean ====
section
/-!
DEFINITION. Sys2Proof/Machine/Operands.lean: every operand form (R26 to R33, R40 to R45, R50), the order of an instruction's checks (R43),
block entry and transfers (R34 to R37, R95), fetching, and what an instruction leaves behind when it completes, waits or faults.
-/
namespace Sys2Proof.Machine

/-! ### Fetching (R103, R200, R310, R312) -/

inductive Fetched where
  | word (w : Nat) (s : State)
  | absent (va : Nat)
  | prot (va : Nat)
  | wait
  deriving DecidableEq, Repr

/-- A party that fetches: an access of no region (R200), which travels as a READ (R370). -/
def fetchWho (p : Place) (asid : Nat) : Who :=
  { uid := 0, region := 0, clk := [], place := p, key := 0, asid := asid, tasid := asid, engine := false, pc := 0 }
/-- One instruction word at a virtual address. -/
def fetchWord (s : State) (p : Place) (asid va : Nat) : Fetched :=
  match locate s p asid va .fetch 4 with
  | .at_ pa home _ s' => if crossNow s (fetchWho p asid) (plainLoad va 4 0) home then .word (readPhys s' pa 4) s' else .wait
  | .absent _ => .absent va
  | .wait => .wait
  | _ => .prot va

inductive FetchedAll where
  | words (l : List Word) (s : State)
  | absent (va : Nat)
  | prot (va : Nat)
  | wait
  deriving DecidableEq, Repr

/-- n more words from an address, after those in `acc`. -/
def fetchMore (s : State) (p : Place) (asid va : Nat) (acc : List Word) : Nat → FetchedAll
  | 0 => .words acc s
  | n + 1 =>
    match fetchWord s p asid va with
    | .word w s => fetchMore s p asid ((va + 4) % 2 ^ 64) (acc ++ [BitVec.ofNat 32 w]) n
    | .absent v => .absent v
    | .prot v => .prot v
    | .wait => .wait

/-- The words of the instruction at an address: as many as its first word names (R25). -/
def fetchInstr (s : State) (p : Place) (asid va : Nat) : FetchedAll :=
  match fetchWord s p asid va with
  | .word w s => fetchMore s p asid ((va + 4) % 2 ^ 64) [BitVec.ofNat 32 w] (lengthOf (BitVec.ofNat 32 w) - 1)
  | .absent v => .absent v
  | .prot v => .prot v
  | .wait => .wait

/-! ### Block headers (R34, R36, R37, R95) -/

def isHeader (w : Nat) : Bool := bitsN w 31 30 == 3

/-- What the check of a block's instructions finds (R37). -/
inductive BlockCheck where
  | ok
  /-- an instruction runs past the end, or a header word stands at an instruction position -/
  | bad
  /-- nothing wrong up to a word that cannot be read now -/
  | part
  deriving DecidableEq, Repr

/-- The check of a block's instructions from an address, and what its fetches leave; `n` is the number of words left. -/
def blockCheck (p : Place) (asid : Nat) : Nat → State → Nat → Nat → BlockCheck × State
  | 0, s, _, _ => (.ok, s)
  | fuel + 1, s, va, n =>
    if n == 0 then (.ok, s) else
    match fetchWord s p asid va with
    | .word w s =>
      let l := lengthOf (BitVec.ofNat 32 w)
      if isHeader w || n < l then (.bad, s) else blockCheck p asid fuel s (va + 4 * l) (n - l)
    | _ => (.part, s)

/-- Outstanding siblings of a thread at a reconvergence address (R95). -/
def hasSibling (s : State) (k : Nat) (addr : DWord) : Bool :=
  s.agents.any fun (j, b) => j != k && !isTask j && coreOf j == coreOf k && warpOf j == warpOf k && b.state == .ready && b.reconv == addr

/-- Enters the block at the party's PC (R35 to R37, R95): the party then stands at its first instruction, or is HELD, or has frozen. -/
def enterBlock (s : State) (k : Nat) : State :=
  match agent? s k with
  | none => s
  | some a =>
    let p := placeOf k a; let va := a.pc.toNat
    match fetchMore s p a.tasid va [] 2 with
    | .absent v => freeze s k .pageFaultFetch { addr := BitVec.ofNat 64 v }
    | .prot v => freeze s k .protection { addr := BitVec.ofNat 64 v }
    | .wait => s
    | .words l s =>
      let w0 := (l.headD 0).toNat; let w1 := ((l.drop 1).headD 0).toNat
      if va % 8 != 0 || !isHeader w0 then
        match a.entry with
        | .jump src => freeze (putAgent s k { a with pc := src }) k .illegalTarget
        | .fall src => freeze s k .illegalTarget { opc := some src }
        | _ => freeze s k .illegalTarget { addr := a.pc }
      else
        let len := bitsN w0 29 20
        if a.reconv != 0 && a.reconv == a.pc && hasSibling (putAgent s k { a with reconv := 0 }) k a.pc then
          putAgent s k { a with reconv := 0, state := if a.state == .ready then .held else a.state }
        else
          let a := if a.reconv == a.pc then { a with reconv := 0 } else a
          let s := putAgent s k a
          let (check, s) := blockCheck p a.tasid len s (va + 8) len
          if len == 0 || check == .bad then freeze s k .illegalOpcode
          else if bitsN w0 19 12 > (if a.kind == .task then 32 else a.nregs) then freeze s k .regRange
          else
            let rc := ofS 64 (8 * toS 20 (bitsN w1 31 12))
            putAgent s k { a with
              pc := a.pc + 8, entry := .inside, reconv := if rc == 0 then a.reconv else a.pc + BitVec.ofNat 64 rc
              blk := some { head := a.pc, stop := a.pc + 8 + BitVec.ofNat 64 (4 * len), conv := bitN w0 1, part := check == .part } }

/-- The rest of R37's check of the block that a party stands in, once words that could not be read at entry can be: it raises
ILLEGAL_OPCODE at the header, before the instruction in question issues. That the check of words on a page that cannot be read at entry
waits until it can be is the model's: DESIGN CHOICE, log 73. -/
def recheckBlock (s : State) (k : Nat) : State :=
  match agent? s k with
  | none => s
  | some a =>
    match a.blk with
    | none => s
    | some b =>
      let len := (b.stop.toNat - b.head.toNat - 8) / 4
      match blockCheck (placeOf k a) a.tasid len s (b.head.toNat + 8) len with
      | (.ok, s) => putAgent s k { a with blk := some { b with part := false } }
      | (.bad, s) => freeze (putAgent s k { a with pc := b.head, entry := .start, blk := none }) k .illegalOpcode
      | (.part, s) => s

/-- The next instruction position after one that ends at `pc` (R36). -/
def advance (a : Agent) (src pc : DWord) : Agent :=
  match a.blk with
  | some b =>
    if pc.toNat < b.stop.toNat then { a with pc := pc, entry := .inside }
    else { a with pc := BitVec.ofNat 64 ((pc.toNat + 7) / 8 * 8), entry := .fall src }
  | none => { a with pc := pc, entry := .inside }

/-! ### What an instruction asks for -/

/-- What a step of this machine answers. -/
abbrev Out := Host.Outcome State Fault Refusal

/-- The result of an instruction's own execution. -/
inductive Go where
  /-- it completes and execution continues at the next instruction -/
  | next (s : State)
  /-- it completes with a transfer -/
  | jump (s : State) (target : DWord)
  /-- it must wait; it is tried again, or its wait is answered by an event -/
  | wait (s : State) (w : Wait)
  | freeze (s : State) (code : FCode) (i : FInfo)
  /-- the party has ended, or stands where the state says -/
  | ended (s : State)
  deriving DecidableEq, Repr

/-- What a body sees: the state, its party, its fields, and the values of operands a, b, c and of DST where it is read. -/
structure Ctx' where
  s   : State
  k   : Nat
  a   : Agent
  f   : FormL
  len : Nat
  va  : Nat
  vb  : Nat
  vc  : Nat
  vd  : Nat
  deriving DecidableEq, Repr

/-- The registers an operand field names on its core, with what each check asks (R40 to R43). -/
inductive RegAsk where
  | ok
  | wait
  | fault (code : FCode) (i : FInfo)
  deriving DecidableEq, Repr

/-- What a marked register says when it is met (R41, R195, R328). -/
def markInfo (m : LoadMark) : RegAsk :=
  .fault m.code { addr := m.acc.addr, opc := some m.acc.pc,
                  x0 := if m.code == .pageFaultLoad then BitVec.ofNat 32 ((match m.acc.dst with | .v r _ => r | .x r => r | .p r => r | _ => 0) + m.acc.width * 256) else 0 }

/-- The checks of one source: faulted, full or empty, poison (R43 step 5). -/
def askCells {w : Nat} (cs : List (Cell w)) (blk : Bool) : RegAsk :=
  match cs.find? (·.mark.isSome) with
  | some c => (match c.mark with | some m => markInfo m | none => .ok)
  | none =>
    if cs.any (!·.full) then (if blk then .wait else .fault .regEmpty {})
    else if cs.any (·.poison) then .fault .regPoison {} else .ok

def Agent.ask (a : Agent) (kd : Kind) (n : Nat) (blk : Bool) : RegAsk :=
  match kd with
  | .v w => askCells ((vregs n w).map a.vcell) blk
  | .x => askCells [a.xcell n] blk
  | .xe => askCells [a.xcell n, a.xcell (n + 1)] blk
  | .p => if !a.pready n then .wait else if a.ppoison.getLsbD n then .fault .regPoison {} else .ok
  | _ => .ok

/-- The checks of a destination: its faulted mark and the write wait (R43 step 6). -/
def askDst {w : Nat} (cs : List (Cell w)) : RegAsk :=
  match cs.find? (·.mark.isSome) with
  | some c => (match c.mark with | some m => markInfo m | none => .ok)
  | none => if cs.any (!·.full) then .wait else .ok
def Agent.askD (a : Agent) (kd : Kind) (n : Nat) : RegAsk :=
  match kd with
  | .v w => askDst ((vregs n w).map a.vcell)
  | .x => askDst [a.xcell n]
  | .p => if a.pready n then .ok else .wait
  | _ => .ok

/-- The value of an operand field. -/
def Agent.value (a : Agent) (kd : Kind) (n : Nat) : Nat :=
  match kd with
  | .v w => a.vval n w
  | .x => (a.xcell n).val.toNat
  | .xe => (a.xcell n).val.toNat + (a.xcell (n + 1)).val.toNat * 2 ^ 64
  | .p => if a.pval n then 1 else 0
  | _ => n

/-- The literal of form X, extended or converted to the width of operand b (R28). A signalling NaN of an F64 operation becomes the
canonical quiet NaN, so the operation does not see it signal: DESIGN CHOICE, log 54. -/
def literal (m : LitMode) (w : Nat) : Nat :=
  match m with
  | .word => w
  | .sext => sext 32 64 w
  | .f64 => (f64.ofNum (f32.decode w) 0).1

def bNum (f : FormL) : Nat := match f.b with | .reg n _ => n.toNat | .lit _ => 0
def bBlk (f : FormL) : Bool := match f.b with | .reg _ b => b | .lit _ => false
/-- The length of an instruction in bytes. -/
def lenOf (f : FormL) : Nat := if f.b.isLit then 12 else 8

/-- An operand lies beyond the declared register count (R32). -/
def beyond (nregs : Nat) (kd : Kind) (n : Nat) : Bool :=
  match kd with | .v w => (vregs n w).any fun r => r != 255 && nregs ≤ r | _ => false

/-! ### Instruction classes by where they run (R37, R43 step 2, R48, R56, R160, R331) -/

def isRendezvous (o : Op) : Bool := match o with | .vote | .shfl | .tred | .tscan | .tsync | .setpart => true | _ => false
def isHandlerOnly (o : Op) : Bool := 0xB0 ≤ o.opc && o.opc ≤ 0xBB
def isGroupBarrier (o : Op) : Bool := match o with | .barSync | .barArv | .barWait => true | _ => false
def isMash (o : Op) : Bool :=
  match o with
  | .carve | .msLdt | .msStt | .msAdd | .msSub | .msMul | .msMulc | .msLog | .msCmp | .msSel | .msSet | .msCpy | .msShr | .msRsum | .msCmpt | .msRel => true
  | _ => false
/-- What a handler thread may not execute (R331). -/
def barredInHandler (o : Op) (m : BitVec 15) : Bool :=
  isRendezvous o || isGroupBarrier o || isMash o ||
  match o with
  | .mbinit | .mbarv | .mbwait | .mbtest | .mbdrop | .append | .wltake | .trdy | .taskpush => true
  | .cpy | .cpyt => modBits m 3 2 ≥ 2
  | _ => false

/-- ILLEGAL_OPCODE by where the instruction runs (R43 step 2). -/
def illegalHere (s : State) (a : Agent) (o : Op) (m : BitVec 15) : Bool :=
  (isRendezvous o && !(match a.blk with | some b => b.conv | none => false)) ||
  (a.kind != .handler && (isHandlerOnly o || (o == .movs && modBits m 7 0 ≥ 0x30))) ||
  (a.kind == .handler && barredInHandler o m) ||
  (isGroupBarrier o && a.kind == .thread && (kernel? s a.kernel).any (·.cls == 2))

/-- The instructions at which a region ends (R201). -/
def endsRegionAt (o : Op) (m : BitVec 15) : Bool :=
  match o with
  | .ld | .st | .lds | .sts | .atom | .atoms | .red => modOrder m ≥ 2
  | .fence | .barSync | .barArv | .barWait | .mbinit | .mbarv | .mbwait | .mbtest | .mbdrop => true
  | .qsig | .qwait | .trdy | .cpy | .cpyt | .gsum | .cgrun | .twait | .endt | .exit => true
  | _ => false

/-- The instructions before which refused writes freeze their thread (R316). -/
def isWrite (o : Op) : Bool := match o with | .st | .sts | .stl | .red | .atom | .atoms | .call | .calli => true | _ => false

/-- DST is a source of these instructions, read after c (R247, R399). -/
def readsDst (o : Op) : Bool := match o with | .cpy | .cpyt | .gsum | .cgrun => true | _ => false

/-! ### Completing, waiting, freezing -/

/-- A party that was stepping refreezes after its instruction, with its record updated in place (R342), or queued anew when its
capability has been released (R346). -/
def stepDone (s : State) (k : Nat) : State :=
  match agent? s k with
  | none => s
  | some a =>
    if a.state != .stepping || a.wait != .none then s else
    let a' := a.endRegion
    let old := a.record.getD (mkRec s k a .breakpoint {})
    let r := { old with code := .breakpoint, step := true, done := false, origv := false, nextra := 0, fpc := a.pc, opc := a.pc, addr := 0,
                        qid := if a.kind == .task then 0x20 else 0, entry := if a.kind == .task then a.entryNo else 0, x0 := 0, x1 := 0, clk := a'.relClk }
    let held := s.agents.any fun (_, h) => h.caps.any fun (_, c) => c.valid && c.record.target == r.target
    let s := putAgent s k { a' with state := .frozen, record := some r }
    if held then updateCaps s (fun q => q.target == r.target) fun c => { c with record := r } else queueRec s r

/-- The progress counter of the thread's group counts an instruction issued with a true guard (R354). -/
def countIssue (s : State) (a : Agent) : State :=
  if a.kind != .thread then s else
  match group? s a.group with
  | some g => putGroup s a.group { g with issued := min (2 ^ 32 * 256 - 1) (g.issued + 1) }
  | none => s

/-- Each capability held at issue pays one instruction of its budget (R333). -/
def chargeBudget (s : State) (k : Nat) (held : List Nat) : State :=
  modAgent s k fun a => { a with caps := a.caps.map fun (n, c) => (n, if held.contains n then { c with budget := c.budget - 1 } else c) }

/-- What completing, waiting or faulting leaves (R43, R326, R333, R342). -/
def settle (k : Nat) (a : Agent) (len : Nat) (g : Go) : State :=
  let held := a.caps.filterMap fun (n, c) => if c.valid then some n else none
  let done (s : State) : State := let s := countIssue s a; if held.isEmpty then s else chargeBudget s k held
  let completes (b : Agent) : Agent := { b with wait := .none, waited := 0, age := 0, urgent := false }
  match g with
  | .next s => stepDone (done (modAgent s k fun b => completes (advance b a.pc (a.pc + BitVec.ofNat 64 len)))) k
  | .jump s t => stepDone (done (modAgent s k fun b => completes { b with pc := t, entry := .jump a.pc })) k
  | .wait s w => modAgent s k fun b => { b with wait := w, age := 0, urgent := false }
  -- TRAP and BKPT complete, and then freeze (R108)
  | .freeze s c i => freeze (modAgent (if i.done then countIssue s a else s) k fun b => { b with stopLen := len }) k c i
  | .ended s => done s

/-- The pending freezes that come before an instruction with a true guard: refused writes (R316), then a store fault (R196, R215). -/
def dueFreeze (a : Agent) (o : Op) (m : BitVec 15) : Option (FCode × FInfo) :=
  if ((isWrite o && a.kind != .task) || endsRegionAt o m) && !a.refused.isEmpty then
    some (.sideLogFull, { x0 := BitVec.ofNat 32 (min 8 a.refused.length), addr := match a.refused with | x :: _ => x.acc.addr | [] => 0,
                          opc := a.refused.head?.map (·.acc.pc) })
  else if endsRegionAt o m then a.sfault.map fun (f : StoreFault) => (f.code, { addr := f.addr, opc := some f.pc, nextra := f.nextra, x0 := f.x0 })
  else none

/-- Field c is written, not read (R166). -/
def writesC (o : Op) : Bool := match o with | .wltake => true | _ => false
/-- The sources of an instruction in the order a, b, c (and DST where it is read), then its destination (R43 steps 5 and 6). -/
def askAll (a : Agent) (sh : Shape) (o : Op) (f : FormL) : RegAsk :=
  match a.ask sh.a f.a.toNat f.ba with
  | .ok =>
    match (if f.b.isLit then .ok else a.ask sh.b (bNum f) (bBlk f)) with
    | .ok =>
      match (if writesC o then a.askD sh.c f.c.toNat else a.ask sh.c f.c.toNat f.bc) with
      | .ok => if readsDst o then a.ask sh.d f.dst.toNat true else a.askD sh.d f.dst.toNat
      | r => r
    | r => r
  | r => r

/-- The instruction issues: it neither waits to be tried again nor faults. -/
def Go.issues : Go → Bool
  | .wait _ w => w != .retry
  | .freeze _ _ _ => false
  | _ => true

/-- One party issues an instruction: the checks of R43 in their order, then the instruction's own execution. -/
def issueOne (o : Op) (f : FormL) (len : Nat) (body : Ctx' → Go) (s : State) (k : Nat) : State :=
  match agent? s k with
  | none => s
  | some a =>
    let core := if a.kind == .task then Core.control else Core.vector
    let sh := o.shape core f.mod
    if illegalHere s a o f.mod then freeze s k .illegalOpcode
    else if core == .vector && (beyond a.nregs sh.a f.a.toNat || (!f.b.isLit && beyond a.nregs sh.b (bNum f)) ||
        beyond a.nregs sh.c f.c.toNat || beyond a.nregs sh.d f.dst.toNat) then freeze s k .regRange
    else if !a.pready f.g.toNat then settle k a len (.wait s .retry)
    -- a poisoned guard is read here: DESIGN CHOICE, log 55
    else if f.g.toNat != 7 && a.ppoison.getLsbD f.g.toNat then freeze s k .regPoison
    else if a.pval f.g.toNat == f.gn then
      -- a false guard: nothing but the skip mark of a rendezvous (R43, R100)
      settle' s k a len (if isRendezvous o then { a with skips := [a.pc] } else a)
    else
      match dueFreeze a o f.mod with
      | some (c, i) => freeze (putAgent s k { a with sfault := if c == .sideLogFull then a.sfault else none }) k c i
      | none =>
        match askAll a sh o f with
        | .wait => settle k a len (.wait s .retry)
        | .fault c i => freeze s k c i
        | .ok =>
          let g := body
            { s := s, k := k, a := a, f := f, len := len, va := a.value sh.a f.a.toNat,
              vb := match f.b with | .lit w => literal sh.lit w.toNat | .reg n _ => a.value sh.b n.toNat
              vc := a.value sh.c f.c.toNat, vd := a.value sh.d f.dst.toNat }
          match (if g.issues then a.caps.find? fun (_, c) => c.valid && c.budget == 0 else none) with
          -- a budget would go below zero (R333)
          | some (n, _) => freeze s k .handlerBudget { x0 := BitVec.ofNat 32 n }
          | none => settle k a len g
where
  settle' (s : State) (k : Nat) (a : Agent) (len : Nat) (b : Agent) : State :=
    stepDone (putAgent s k { (advance b a.pc (a.pc + BitVec.ofNat 64 len)) with wait := .none, age := 0, urgent := false }) k

/-- A form-L or form-X instruction, issued by every party of the dynamic warp in ascending lane order (R6, R93). -/
def issueL (o : Op) (f : FormL) (body : Ctx' → Go) (s : State) : Out :=
  .next (s.issuing.foldl (issueOne o f (lenOf f) body) s)

/-- The core that the issuing parties stand on. -/
def issuingCore (s : State) : Core := if isTask (s.issuing.headD 0) then .control else .vector

/-- A form-S instruction: its operation in form L with the defaults of R29, one word long. -/
def issueS (o : Op) (f : FormS) (body : Ctx' → Go) (s : State) : Out :=
  .next (s.issuing.foldl (issueOne o (f.expand (issuingCore s) o) 4 body) s)

/-! ### Helpers of bodies -/

def Ctx'.ctl (c : Ctx') : Bool := c.a.kind == .task
def Ctx'.mod (c : Ctx') : BitVec 15 := c.f.mod
def Ctx'.ty (c : Ctx') : Nat := modTy c.f.mod
/-- Width of TYPE in bits for the 32-bit and 64-bit types. -/
def tyBits (t : Nat) : Nat := if t == 2 || t == 3 || t == 7 then 64 else 32
def tySigned (t : Nat) : Bool := t == 0 || t == 2
/-- Changes the issuing agent. -/
def Ctx'.upd (c : Ctx') (g : Agent → Agent) : State := putAgent c.s c.k (g c.a)
/-- Writes a value of TYPE t to the destination: registers on a vector core, one X register on the control core, where a 32-bit
result is sign-extended (I types) or zero-extended (N types) (R50, R124). -/
def Agent.putTy (a : Agent) (ctl : Bool) (r t x : Nat) : Agent :=
  if ctl then a.putX r (if tyBits t == 64 then x else if tySigned t then sext 32 64 x else x % 2 ^ 32)
  else a.putV r (tyRegs t) x
def Ctx'.put (c : Ctx') (t x : Nat) : State := c.upd fun a => a.putTy c.ctl c.f.dst.toNat t x
/-- An operand's low w bits. -/
def low (w x : Nat) : Nat := x % 2 ^ w
/-- An operand as an exact integer under TYPE (R50, R125). -/
def asInt (t x : Nat) : Int := if tySigned t then toS (tyBits t) x else (x % 2 ^ tyBits t : Nat)

/-- The destination of TYPE t as a delivery target. -/
def Ctx'.dstTy (c : Ctx') (t : Nat) : Dst := if c.ctl then .x c.f.dst.toNat else .v c.f.dst.toNat (tyRegs t)
/-- An arithmetic producer: its destination is emptied now and filled by a PRODUCER_COMPLETION (R39, R153). -/
def produce (s : State) (k : Nat) (a : Agent) (d : Dst) (x : Nat) (fl : BitVec 5) (poison : Bool := false) : State :=
  let (id, s) := freshId s
  let s := putAgent s k (a.emptyDst d)
  { s with prods := s.prods ++ [{ id := id, key := k, uid := a.uid, dst := d, value := x, flags := fl, poison := poison }] }

/-- Writes of a party still in flight; a vector core holds at most 8 of one thread (R316). -/
def writesOut (s : State) (uid : Nat) : Nat := (s.reqs.filter fun r => r.who.uid == uid && r.acc.kind != .load && r.acc.dst == .none && !performed r).length

/-- Earlier arithmetic producers of a party are outstanding (R106, R113). -/
def prodsOut (s : State) (uid : Nat) : Bool := s.prods.any (·.uid == uid)
/-- Loads and atomics with return of a party are outstanding (R106). -/
def loadsOut (s : State) (uid : Nat) : Bool := s.reqs.any fun r => r.who.uid == uid && !(r.acc.kind == .store || (r.acc.kind == .rmw && r.acc.dst == .none))
/-- Every earlier access of a party has been performed at SYS scope: acknowledged, with relaxed traffic fenced (R213). -/
def allPerformed (s : State) (uid : Nat) : Bool :=
  s.reqs.all (fun r => r.who.uid != uid || r.stage == .returned || (r.acc.scratch && performed r)) && s.markers.all (·.uid != uid) &&
  (opsOf s uid).isEmpty

end Sys2Proof.Machine
end

