-- ==== Sys2Proof/Machine/Float.lean ====
section
/-!
DEFINITION. Sys2Proof/Machine/Float.lean: the floating-point instructions (R140 to R152), which exist on the vector core only.
-/
namespace Sys2Proof.Machine

/-- An operand's pattern under a format, with its ABS bit and then its NEG bit applied (R141). -/
def signBits (f : Fmt) (ab ng : Bool) (x : Nat) : Nat :=
  let m := low (f.width - 1) x; let sg := bitN x (f.width - 1) && !ab
  m + if sg != ng then 2 ^ (f.width - 1) else 0
def Ctx'.fm (c : Ctx') : Fmt := tyFmt c.ty
def Ctx'.rnd (c : Ctx') : Nat := modRnd c.mod
/-- Operands a and b with their modifiers, and c with NEGC (R51, R142). -/
def Ctx'.fa (c : Ctx') (f : Fmt) (x : Nat) : Nat := signBits f (modBit c.mod 6) (modBit c.mod 8) x
def Ctx'.fb (c : Ctx') (f : Fmt) (x : Nat) : Nat := signBits f (modBit c.mod 5) (modBit c.mod 7) x
def Ctx'.fc (c : Ctx') (f : Fmt) (x : Nat) : Nat := signBits f false (modBit c.mod 0) x

/-- SAT after rounding (R141). -/
def Ctx'.clamp (c : Ctx') (f : Fmt) (r : Nat × BitVec 5) : Nat × BitVec 5 := if modBit c.mod 9 then (satF f r.1, r.2) else r

/-- Writes a floating result of TYPE, or of its format, and ORs its flags into FL (R47). -/
def Ctx'.putF (c : Ctx') (t : Nat) (r : Nat × BitVec 5) : State :=
  c.upd fun a => { (a.putV c.f.dst.toNat (tyRegs t) r.1) with fl := a.fl ||| r.2 }

/-- A two-operand operation of one rounding (R141, R142). -/
def two (op : Num → Num → Nat → Exact) (f : Fmt) (c : Ctx') (xa xb : Nat) : Nat × BitVec 5 :=
  let a := f.decode (c.fa f xa); let b := f.decode (c.fb f xb)
  c.clamp f (finish f [a, b] false (op a b c.rnd) c.rnd)
def opAdd (a b : Num) (r : Nat) : Exact := addExact a b r
def opSub (a b : Num) (r : Nat) : Exact := addExact a b.flip r
def opMul (a b : Num) (_ : Nat) : Exact := mulExact a b
/-- Fused multiply-add (R142). -/
def three (f : Fmt) (c : Ctx') (xa xb xc : Nat) : Nat × BitVec 5 :=
  let a := f.decode (c.fa f xa); let b := f.decode (c.fb f xb); let d := f.decode (c.fc f xc)
  c.clamp f (finish f [a, b, d] (mulBad a b) (fmaExact a b d c.rnd) c.rnd)

def floatTwo (op : Num → Num → Nat → Exact) (c : Ctx') : Go := .next (c.putF c.ty (two op c.fm c c.va c.vb))
def bodyFadd : Ctx' → Go := floatTwo opAdd
def bodyFsub : Ctx' → Go := floatTwo opSub
def bodyFmul : Ctx' → Go := floatTwo opMul
def bodyFfma (c : Ctx') : Go := .next (c.putF c.ty (three c.fm c c.va c.vb c.vc))
def bodyDadd : Ctx' → Go := floatTwo opAdd
def bodyDmul : Ctx' → Go := floatTwo opMul
def bodyDfma : Ctx' → Go := bodyFfma

/-- Minimum and maximum (R143): the operand's own pattern, after its modifiers. -/
def floatMinmax (isMax : Bool) (c : Ctx') : Go := .next (c.putF c.ty (minmaxF c.fm isMax (c.fa c.fm c.va) (c.fb c.fm c.vb)))
def bodyFmin : Ctx' → Go := floatMinmax false
def bodyFmax : Ctx' → Go := floatMinmax true

/-- The compares (R144). -/
def floatCompare (c : Ctx') : Go :=
  let a := c.fm.decode (c.fa c.fm c.va); let b := c.fm.decode (c.fb c.fm c.vb)
  let code := modCode c.mod
  .next (c.upd fun t => { (t.setP c.f.dst.toNat (cmpN code a b)) with fl := t.fl ||| cmpFlags code a b })
def bodyFset : Ctx' → Go := floatCompare
def bodyDset : Ctx' → Go := floatCompare

def bodyFclass (c : Ctx') : Go := .next (c.put 1 (classOf c.fm (low c.fm.width c.va)))

/-- Rounding to an integral value (R146): NX when the result differs, NV for a signalling NaN. -/
def bodyFrnd (c : Ctx') : Go := .next (c.putF c.ty (frnd c.fm (c.fm.decode (c.fa c.fm c.va)) c.rnd))

/-- Scaling (R147). An exponent beyond ±5000 rounds as ±5000 does, in every format. -/
def bodyFscl (c : Ctx') : Go :=
  let e := toS 32 c.vb
  let e := if e < -5000 then -5000 else if 5000 < e then 5000 else e
  let a := c.fm.decode (c.fa c.fm c.va)
  .next (c.putF c.ty (c.clamp c.fm (finish c.fm [a] false (exactOf (scaleNum a e)) c.rnd)))

/-- The packed operations (R148): elements 0 and 1, with the OR of their flags. -/
def packed (op : Nat → Nat → Nat → Nat × BitVec 5) (c : Ctx') : Go :=
  let lo := op (low 16 c.va) (low 16 c.vb) (low 16 c.vc)
  let hi := op (bitsN c.va 31 16) (bitsN c.vb 31 16) (bitsN c.vc 31 16)
  .next (c.upd fun a => { (a.putV c.f.dst.toNat 1 (lo.1 + hi.1 * 65536)) with fl := a.fl ||| lo.2 ||| hi.2 })
def bodyHfma2 (c : Ctx') : Go := packed (three c.fm c) c
def bodyHadd2 (c : Ctx') : Go := packed (fun a b _ => two opAdd c.fm c a b) c
def bodyHmul2 (c : Ctx') : Go := packed (fun a b _ => two opMul c.fm c a b) c

/-! ### Producers (R149 to R153) -/

def floatProduce (c : Ctx') (t : Nat) (r : Nat × BitVec 5) : Go := .next (produce c.s c.k c.a (.v c.f.dst.toNat (tyRegs t)) r.1 r.2)
/-- The SFU family: code 2 is the square root of R149, the others follow R150 and R151. -/
def sfu (code : Nat) (c : Ctx') : Go := floatProduce c 4 (sfuOp code c.rnd (BitVec.ofNat 32 (c.fa f32 c.va)))
def bodyRcp : Ctx' → Go := sfu 0
def bodyRsq : Ctx' → Go := sfu 1
def bodySqrt : Ctx' → Go := sfu 2
def bodyEx2 : Ctx' → Go := sfu 3
def bodyLg2 : Ctx' → Go := sfu 4
def bodySin : Ctx' → Go := sfu 5
def bodyCos : Ctx' → Go := sfu 6
def bodyTanh : Ctx' → Go := sfu 7
def floatDiv (c : Ctx') : Go :=
  let f := c.fm; let a := f.decode (c.fa f c.va); let b := f.decode (c.fb f c.vb)
  floatProduce c c.ty (finish f [a, b] false (divExact a b) c.rnd)
def bodyFdiv : Ctx' → Go := floatDiv
def bodyDdiv : Ctx' → Go := floatDiv
def bodyDsqrt (c : Ctx') : Go :=
  let a := f64.decode (c.fa f64 c.va)
  floatProduce c 7 (finish f64 [a] false (sqrtExact a) c.rnd)

/-! ### The instructions -/

/-- FADD_S (R142): Compact F32 add with RN. -/
def execFaddS (f : FormS) (s : State) : Out := issueS .fadd f bodyFadd s
/-- FADD (R142): Floating-point add in form L or X. -/
def execFadd (f : FormL) (s : State) : Out := issueL .fadd f bodyFadd s
/-- FSUB_S (R142): Compact F32 subtract. -/
def execFsubS (f : FormS) (s : State) : Out := issueS .fsub f bodyFsub s
/-- FSUB (R142): Floating-point subtract in form L or X. -/
def execFsub (f : FormL) (s : State) : Out := issueL .fsub f bodyFsub s
/-- FMUL_S (R142): Compact F32 multiply. -/
def execFmulS (f : FormS) (s : State) : Out := issueS .fmul f bodyFmul s
/-- FMUL (R142): Floating-point multiply in form L or X. -/
def execFmul (f : FormL) (s : State) : Out := issueL .fmul f bodyFmul s
/-- FFMA_S (R142): Compact F32 fused multiply-add with the addend in the destination register. -/
def execFfmaS (f : FormS) (s : State) : Out := issueS .ffma f bodyFfma s
/-- FFMA (R142): Fused multiply-add in form L or X, rounded once. -/
def execFfma (f : FormL) (s : State) : Out := issueL .ffma f bodyFfma s
/-- FMIN_S (R143): Compact F32 minimum. -/
def execFminS (f : FormS) (s : State) : Out := issueS .fmin f bodyFmin s
/-- FMIN (R143): Floating-point minimum in form L or X. -/
def execFmin (f : FormL) (s : State) : Out := issueL .fmin f bodyFmin s
/-- FMAX_S (R143): Compact F32 maximum. -/
def execFmaxS (f : FormS) (s : State) : Out := issueS .fmax f bodyFmax s
/-- FMAX (R143): Floating-point maximum in form L or X. -/
def execFmax (f : FormL) (s : State) : Out := issueL .fmax f bodyFmax s
/-- FSET (R144): Floating-point compare written to a predicate. -/
def execFset (f : FormL) (s : State) : Out := issueL .fset f bodyFset s
/-- FCLASS (R145): Writes a one-hot class of the operand. -/
def execFclass (f : FormL) (s : State) : Out := issueL .fclass f bodyFclass s
/-- FRND (R146): Rounds to an integral value of the operand's format. -/
def execFrnd (f : FormL) (s : State) : Out := issueL .frnd f bodyFrnd s
/-- FSCL (R147): Scales a by 2^b with one rounding. -/
def execFscl (f : FormL) (s : State) : Out := issueL .fscl f bodyFscl s
/-- DADD_S (R142): Compact F64 add. -/
def execDaddS (f : FormS) (s : State) : Out := issueS .dadd f bodyDadd s
/-- DADD (R142): F64 add in form L or X. -/
def execDadd (f : FormL) (s : State) : Out := issueL .dadd f bodyDadd s
/-- DMUL_S (R142): Compact F64 multiply. -/
def execDmulS (f : FormS) (s : State) : Out := issueS .dmul f bodyDmul s
/-- DMUL (R142): F64 multiply in form L or X. -/
def execDmul (f : FormL) (s : State) : Out := issueL .dmul f bodyDmul s
/-- DFMA_S (R142): Compact F64 fused multiply-add. -/
def execDfmaS (f : FormS) (s : State) : Out := issueS .dfma f bodyDfma s
/-- DFMA (R142): F64 fused multiply-add in form L or X. -/
def execDfma (f : FormL) (s : State) : Out := issueL .dfma f bodyDfma s
/-- DSET (R144): F64 compare written to a predicate. -/
def execDset (f : FormL) (s : State) : Out := issueL .dset f bodyDset s
/-- HFMA2_S (R148): Compact packed F16 fused multiply-add. -/
def execHfma2S (f : FormS) (s : State) : Out := issueS .hfma2 f bodyHfma2 s
/-- HFMA2 (R148): Packed fused multiply-add in form L or X. -/
def execHfma2 (f : FormL) (s : State) : Out := issueL .hfma2 f bodyHfma2 s
/-- HADD2_S (R148): Compact packed F16 add. -/
def execHadd2S (f : FormS) (s : State) : Out := issueS .hadd2 f bodyHadd2 s
/-- HADD2 (R148): Packed add in form L or X. -/
def execHadd2 (f : FormL) (s : State) : Out := issueL .hadd2 f bodyHadd2 s
/-- HMUL2_S (R148): Compact packed F16 multiply. -/
def execHmul2S (f : FormS) (s : State) : Out := issueS .hmul2 f bodyHmul2 s
/-- HMUL2 (R148): Packed multiply in form L or X. -/
def execHmul2 (f : FormL) (s : State) : Out := issueL .hmul2 f bodyHmul2 s
/-- RCP (R150): SFU reciprocal, a producer. -/
def execRcp (f : FormL) (s : State) : Out := issueL .rcp f bodyRcp s
/-- RSQ (R150): SFU reciprocal square root, a producer. -/
def execRsq (f : FormL) (s : State) : Out := issueL .rsq f bodyRsq s
/-- SQRT (R149): SFU correctly rounded square root, a producer. -/
def execSqrt (f : FormL) (s : State) : Out := issueL .sqrt f bodySqrt s
/-- EX2 (R150): SFU base-2 exponential, a producer. -/
def execEx2 (f : FormL) (s : State) : Out := issueL .ex2 f bodyEx2 s
/-- LG2 (R150): SFU base-2 logarithm, a producer. -/
def execLg2 (f : FormL) (s : State) : Out := issueL .lg2 f bodyLg2 s
/-- SIN (R150): SFU sine, a producer. -/
def execSin (f : FormL) (s : State) : Out := issueL .sin f bodySin s
/-- COS (R150): SFU cosine, a producer. -/
def execCos (f : FormL) (s : State) : Out := issueL .cos f bodyCos s
/-- TANH (R150): SFU hyperbolic tangent, a producer. -/
def execTanh (f : FormL) (s : State) : Out := issueL .tanh f bodyTanh s
/-- FDIV_S (R149): Compact F32 divide, a producer. -/
def execFdivS (f : FormS) (s : State) : Out := issueS .fdiv f bodyFdiv s
/-- FDIV (R149): Correctly rounded divide in form L or X, a producer. -/
def execFdiv (f : FormL) (s : State) : Out := issueL .fdiv f bodyFdiv s
/-- DDIV (R149): F64 divide, a producer. -/
def execDdiv (f : FormL) (s : State) : Out := issueL .ddiv f bodyDdiv s
/-- DSQRT (R149): F64 square root, a producer. -/
def execDsqrt (f : FormL) (s : State) : Out := issueL .dsqrt f bodyDsqrt s

end Sys2Proof.Machine
end

