-- ==== Sys2Proof/Machine/Convert.lean ====
section
/-!
DEFINITION. Sys2Proof/Machine/Convert.lean: the conversion instructions (R79 to R87).
-/
namespace Sys2Proof.Machine

/-- FCVT (R81). -/
def bodyFcvt (c : Ctx') : Go :=
  let src := tyFmt (modCode c.mod % 8)
  .next (c.putF c.ty (c.fm.ofNum (src.decode (c.fa src c.va)) c.rnd))

/-- F2I (R82). -/
def bodyF2i (c : Ctx') : Go :=
  let src := tyFmt (modCode c.mod % 8)
  .next (c.putF c.ty (roundInt (tyBits c.ty) (tySigned c.ty) (src.decode (c.fa src c.va)) c.rnd))

/-- I2F (R83). -/
def bodyI2f (c : Ctx') : Go :=
  let t := modCode c.mod % 8
  .next (c.putF c.ty (c.fm.ofNum (intNum (tyBits t) (tySigned t) c.va) c.rnd))

/-- A format word that R66 and R80 allow. -/
def formatOk (w : Nat) : Bool :=
  let fmt := bitsN w 19 16
  4 ≤ fmt && fmt ≤ 12 && (fmt > 6 || (nfOf (BitVec.ofNat 16 w)).valid fmt)

/-- The scale byte that QNT and DQNT take from c (R70): BSEL, or the lane within its tile with LSEL. -/
def scaleByte (s : State) (c : Ctx') : Nat :=
  let part := match group? s c.a.group with | some g => fgetD g.part (c.a.lin / 32) 32 | none => 32
  let j := if modBit c.mod 2 then laneOf c.k % part % 4 else modBits c.mod 1 0
  bitsN c.vc (8 * j + 7) (8 * j)

/-- The compand table of a format word: the state after its read, and the table; or what stops the instruction (R80, R87, R207). A poisoned
word of the table is read as it stands: DESIGN CHOICE, log 60. -/
def tableOf (c : Ctx') (w : Nat) : Go ⊕ (State × Nat) :=
  if !bitN w 20 then .inr (c.s, 0) else
  let off := bitsN w 31 21 * 256
  match (csetOf c.s c.a).bind fun cs => scratchLocs c.s cs (ownGroup c.s c.a) off 128 false with
  | none => .inl (.freeze c.s .protection { addr := BitVec.ofNat 64 off })
  | some locs =>
    if !allPerformed c.s c.a.uid then .inl (.wait c.s .retry) else
    let acc : Access := { kind := .load, scratch := true, addr := BitVec.ofNat 64 off, locs := locs, bytes := 128, width := 2,
                          dst := .v c.f.dst.toNat 1, pc := c.a.pc }
    match performScratch c.s (whoOf c.k c.a) acc c.a.seq with
    | .done s v _ _ => .inr (s, v)
    | _ =>
      -- a conflict leaves the destination empty and marked (R195, R207); with V255 the thread freezes here
      if c.f.dst == 255 then .inl (.freeze c.s .race { addr := BitVec.ofNat 64 off })
      else .inl (.next (c.upd fun a => a.markDst (.v c.f.dst.toNat 1) { code := .race, acc := acc }))

/-- QNT (R84). -/
def bodyQnt (c : Ctx') : Go :=
  if !formatOk c.vb then .freeze c.s .illegalOpcode {} else
  match tableOf c c.vb with
  | .inl g => g
  | .inr (s, tab) =>
    let x := c.fm.decode (c.fa c.fm c.va)
    let sc := scaleByte s c
    let u : Num := if sc == 255 then .nan false else scaleNum x (127 - (sc : Int))
    let u : Exact := if bitN c.vb 20 then curve tab false u else exactOf u
    let fmt := bitsN c.vb 19 16
    let nv : BitVec 5 := if x.isSig then fNV else 0
    let (r, fl) := if fmt ≤ 6 then
        let d := nfOf (BitVec.ofNat 16 c.vb)
        match u with
        | .bad _ => d.ofNum (.nan false) c.rnd
        | .inf n _ => d.ofNum (.inf n) c.rnd
        | .mag n m => d.round n m c.rnd
      else
        let w := fmtWidth fmt; let sg := fmtSigned fmt
        match u with
        | .bad _ => roundInt w sg (.nan false) c.rnd
        | .inf n _ => roundInt w sg (.inf n) c.rnd
        | .mag n m => roundMagInt w sg n m c.rnd
    .next (putAgent s c.k ((agent? s c.k).elim c.a fun a => { (a.putV c.f.dst.toNat 1 r) with fl := a.fl ||| fl ||| nv }))
where
  /-- RoundInt of a magnitude (R82, R84). -/
  roundMagInt (w : Nat) (sg neg : Bool) (m : Mag) (rnd : Nat) : Nat × BitVec 5 :=
    let (k, inexact) := roundMag neg m 0 rnd
    let v := signed neg k
    if v < intMin w sg then (ofS w (intMin w sg), fNV)
    else if intMax w sg < v then (ofS w (intMax w sg), fNV)
    else (ofS w v, if inexact then fNX else 0)

/-- DQNT (R85). -/
def bodyDqnt (c : Ctx') : Go :=
  if !formatOk c.vb then .freeze c.s .illegalOpcode {} else
  match tableOf c c.vb with
  | .inl g => g
  | .inr (s, tab) =>
    let fmt := bitsN c.vb 19 16
    let d := nfOf (BitVec.ofNat 16 c.vb)
    let w := if fmt ≤ 6 then d.width else fmtWidth fmt
    let v : Num := if fmt ≤ 6 then d.decode (low w c.va) else intNum w (fmtSigned fmt) (low w c.va)
    let (v, fl1) : Num × BitVec 5 := if bitN c.vb 20 then
        match curve tab true v with
        | .bad _ => (.nan false, 0)
        | .inf n _ => (.inf n, 0)
        | .mag n m => let (r, fl) := f32.round n m 0; (f32.decode r, fl)
      else (v, 0)
    let sc := scaleByte s c
    let (r, fl2) := if sc == 255 || v.isNan then (c.fm.nan, 0) else c.fm.ofNum (scaleNum v ((sc : Int) - 127)) c.rnd
    .next (putAgent s c.k ((agent? s c.k).elim c.a fun a => { (a.putV c.f.dst.toNat 1 r) with fl := a.fl ||| fl1 ||| fl2 }))

/-- The field width of WSEL (R79). -/
def fieldWidth (m : BitVec 15) : Nat := match modBits m 2 0 with | 0 => 2 | 1 => 4 | 2 => 6 | 3 => 8 | _ => 16
/-- PACK and UNPK (R86). -/
def bodyPack (c : Ctx') : Go :=
  let w := fieldWidth c.mod; let j := low 32 c.vb
  .next (c.put 1 (if j ≥ 32 / w then c.vc else setBitsN c.vc (w * j + w - 1) (w * j) c.va))
def bodyUnpk (c : Ctx') : Go :=
  let w := fieldWidth c.mod; let j := low 32 c.vb
  let v := if j ≥ 32 / w then 0 else bitsN c.va (w * j + w - 1) (w * j)
  .next (c.put 1 (if modBit c.mod 3 then sext w 32 v else v))

/-! ### The instructions -/

/-- FCVT (R81): Converts between floating-point formats. -/
def execFcvt (f : FormL) (s : State) : Out := issueL .fcvt f bodyFcvt s
/-- F2I (R82): Converts floating point to an integer under RND. -/
def execF2i (f : FormL) (s : State) : Out := issueL .f2i f bodyF2i s
/-- I2F (R83): Converts an integer to floating point. -/
def execI2f (f : FormL) (s : State) : Out := issueL .i2f f bodyI2f s
/-- QNT (R84): Quantises a value with a block scale and optional compand curve to a narrow code. -/
def execQnt (f : FormL) (s : State) : Out := issueL .qnt f bodyQnt s
/-- DQNT (R85): Decodes a narrow code, expands it and applies the block scale. -/
def execDqnt (f : FormL) (s : State) : Out := issueL .dqnt f bodyDqnt s
/-- PACK (R86): Replaces field j of a word with the low bits of a. -/
def execPack (f : FormL) (s : State) : Out := issueL .pack f bodyPack s
/-- UNPK (R86): Extracts field j of a word. -/
def execUnpk (f : FormL) (s : State) : Out := issueL .unpk f bodyUnpk s

end Sys2Proof.Machine
end

