-- ==== Sys2Proof/Machine/Integer.lean ====
section
/-!
DEFINITION. Sys2Proof/Machine/Integer.lean: the integer and address instructions (R124 to R139), on both cores.
-/
namespace Sys2Proof.Machine

def Ctx'.w (c : Ctx') : Nat := tyBits c.ty
def Ctx'.sat (c : Ctx') : Bool := modBit c.mod 9
/-- Operands a, b and c as exact integers under TYPE. -/
def Ctx'.ia (c : Ctx') : Int := asInt c.ty c.va
def Ctx'.ib (c : Ctx') : Int := asInt c.ty c.vb
def Ctx'.ic (c : Ctx') : Int := asInt c.ty c.vc
/-- Operands a, b and c as w-bit patterns. -/
def Ctx'.ua (c : Ctx') : Nat := low c.w c.va
def Ctx'.ub (c : Ctx') : Nat := low c.w c.vb
def Ctx'.uc (c : Ctx') : Nat := low c.w c.vc
/-- A 32-bit operand b (R127). -/
def Ctx'.n (c : Ctx') : Nat := low 32 c.vb

/-- An exact integer result, wrapped or clamped (R125). -/
def intResult (x : Ctx' → Int) (c : Ctx') : Go := .next (c.put c.ty (narrow c.w (tySigned c.ty) c.sat (x c)))
/-- A w-bit pattern as the result. -/
def bitResult (x : Ctx' → Nat) (c : Ctx') : Go := .next (c.put c.ty (low c.w (x c)))

def bodyNop (c : Ctx') : Go := .next c.s
def bodyMov : Ctx' → Go := bitResult (·.va)
def bodyMovi : Ctx' → Go := bitResult (·.vb)
def bodySel : Ctx' → Go := bitResult fun c => if c.vc == 1 then c.va else c.vb
def bodyIadd : Ctx' → Go := intResult fun c => c.ia + c.ib
def bodyIsub : Ctx' → Go := intResult fun c => c.ia - c.ib
def bodyIneg : Ctx' → Go := intResult fun c => -c.ia
def bodyImul : Ctx' → Go := intResult fun c => c.ia * c.ib
def bodyImulh : Ctx' → Go := intResult fun c => c.ia * c.ib / (2 ^ c.w : Nat)
def bodyImad : Ctx' → Go := intResult fun c => c.ia * c.ib + c.ic
def bodyImin : Ctx' → Go := intResult fun c => if c.ia ≤ c.ib then c.ia else c.ib
def bodyImax : Ctx' → Go := intResult fun c => if c.ia ≤ c.ib then c.ib else c.ia
def bodyIabs : Ctx' → Go := intResult fun c => if c.ia < 0 then -c.ia else c.ia
def bodyAnd : Ctx' → Go := bitResult fun c => c.ua &&& c.ub
def bodyOr : Ctx' → Go := bitResult fun c => c.ua ||| c.ub
def bodyXor : Ctx' → Go := bitResult fun c => c.ua ^^^ c.ub
def bodyAndn : Ctx' → Go := bitResult fun c => c.ua &&& (2 ^ c.w - 1 - c.ub)
def bodyNot : Ctx' → Go := bitResult fun c => 2 ^ c.w - 1 - c.ua

/-- The carry chain (R129): both writes wait, the carry-out's included. -/
def bodyIaddc (c : Ctx') : Go :=
  let p := modBits c.mod 2 0
  let x := c.ua + c.ub + c.vc
  if c.a.pready p then .next (c.upd fun a => (a.putTy c.ctl c.f.dst.toNat c.ty (low c.w x)).setP p (2 ^ c.w ≤ x)) else .wait c.s .retry

/-- IMADW (R130): a 64-bit result from 32-bit factors. -/
def bodyImadw (c : Ctx') : Go :=
  let sg := tySigned c.ty
  let x := c.ia * c.ib + (if sg then toS 64 c.vc else (low 64 c.vc : Nat))
  .next (c.upd fun a => a.putV c.f.dst.toNat 2 (narrow 64 sg c.sat x))

/-- Quotient and remainder toward zero with the corners of R131. -/
def divide (w : Nat) (sg sat : Bool) (a b : Int) : Nat := if b == 0 then 2 ^ w - 1 else narrow w sg sat (a.tdiv b)
def remainder (w : Nat) (a b : Int) : Nat := ofS w (if b == 0 then a else a.tmod b)
def intProduce (x : Ctx' → Nat) (c : Ctx') : Go :=
  let v := x c
  .next (produce c.s c.k c.a (c.dstTy c.ty) (if c.ctl && c.w == 32 && tySigned c.ty then sext 32 64 v else v) 0)
def bodyIdiv : Ctx' → Go := intProduce fun c => divide c.w (tySigned c.ty) c.sat c.ia c.ib
def bodyIrem : Ctx' → Go := intProduce fun c => remainder c.w c.ia c.ib

/-- The shifts (R132). -/
def bodyShl : Ctx' → Go := bitResult fun c => if c.n ≥ c.w then 0 else c.ua * 2 ^ c.n
def bodyShr : Ctx' → Go := bitResult fun c => if c.n ≥ c.w then 0 else c.ua / 2 ^ c.n
def bodySar : Ctx' → Go := bitResult fun c => ofS c.w (toS c.w c.ua / (2 ^ min c.n (c.w - 1) : Nat))
def bodyRot : Ctx' → Go := bitResult fun c => let m := c.n % c.w; low c.w (c.ua * 2 ^ m) + c.ua / 2 ^ (c.w - m)
/-- The funnel shift (R133). -/
def bodyShf : Ctx' → Go := bitResult fun c => (c.uc * 2 ^ c.w + c.ua) / 2 ^ (c.n % (2 * c.w))

/-- Counts of bits of a w-bit pattern, from bit 0 (R128). -/
def popcount (x : Nat) : Nat → Nat
  | 0 => 0
  | n + 1 => x % 2 + popcount (x / 2) n
def trailing (x : Nat) : Nat → Nat
  | 0 => 0
  | n + 1 => if x % 2 == 1 then 0 else 1 + trailing (x / 2) n
def reverse (x : Nat) : Nat → Nat
  | 0 => 0
  | n + 1 => x % 2 * 2 ^ n + reverse (x / 2) n
def leading (w x : Nat) : Nat := if x == 0 then w else w - 1 - Nat.log2 x
/-- A small count, written to one 32-bit register or one X register whatever the TYPE (R127). -/
def countResult (x : Ctx' → Nat) (c : Ctx') : Go := .next (c.put 1 (x c))
def bodyPopc : Ctx' → Go := countResult fun c => popcount c.ua c.w
def bodyClz : Ctx' → Go := countResult fun c => leading c.w c.ua
def bodyCtz : Ctx' → Go := countResult fun c => trailing c.ua c.w
def bodyBrev : Ctx' → Go := bitResult fun c => reverse c.ua c.w

/-- Bit fields (R134). -/
def bodyBfe : Ctx' → Go := bitResult fun c =>
  let pos := bitsN c.n 7 0; let l := min (bitsN c.n 15 8) c.w
  if l == 0 then 0 else
  let v := ofS l (c.ia / (2 ^ pos : Nat))
  if tySigned c.ty then sext l c.w v else v
def bodyBfi : Ctx' → Go := bitResult fun c =>
  let pos := bitsN c.n 7 0; let l := min (min (bitsN c.n 15 8) c.w) (c.w - pos)
  if l == 0 then c.uc else setBitsN c.uc (pos + l - 1) pos c.ua

/-- Byte permute (R135). -/
def bodyPrmt : Ctx' → Go := bitResult fun c =>
  let v := c.uc * 2 ^ 32 + c.ua
  ((upFrom 0 4).map fun i =>
    let sel := bitsN c.n (4 * i + 3) (4 * i)
    let b := bitsN v (8 * (sel % 8) + 7) (8 * (sel % 8))
    (if sel ≥ 8 then (if b ≥ 128 then 255 else 0) else b) * 2 ^ (8 * i)).foldl (· + ·) 0

/-- Scaled address (R136). -/
def bodyLea (c : Ctx') : Go :=
  let x := if tySigned c.ty then toS 32 c.n else (c.n : Nat)
  .next (c.put 3 (ofS 64 ((low 64 c.va : Nat) + x * (2 ^ modBits c.mod 2 0 : Nat))))

/-- The relations 0 to 5 of R52 on integers. -/
def relI (code : Nat) (a b : Int) : Bool :=
  match code with | 0 => a == b | 1 => a != b | 2 => a < b | 3 => a ≤ b | 4 => b < a | _ => b ≤ a
def bodyIset (c : Ctx') : Go :=
  let r := relI (modCode c.mod) c.ia c.ib
  .next (c.upd fun a => if c.ctl then a.putX c.f.dst.toNat (if r then 1 else 0) else a.setP c.f.dst.toNat r)

/-- Four-byte dot product (R138). -/
def bodyIdp4 : Ctx' → Go := intResult fun c =>
  let by8 (sg : Bool) (x i : Nat) : Int := let b := bitsN x (8 * i + 7) (8 * i); if sg then toS 8 b else (b : Nat)
  c.ic + ((upFrom 0 4).map fun i => by8 (modBit c.mod 0) c.va i * by8 (modBit c.mod 1) c.vb i).foldl (· + ·) 0

/-! ### The instructions -/

/-- NOP_S (R139): Compact 32-bit NOP; has no effect. -/
def execNopS (f : FormS) (s : State) : Out := issueS .nop f bodyNop s
/-- NOP (R139): NOP in form L; has no effect. -/
def execNop (f : FormL) (s : State) : Out := issueL .nop f bodyNop s
/-- MOV_S (R139): Compact move that copies the bit pattern of a to the destination. -/
def execMovS (f : FormS) (s : State) : Out := issueS .mov f bodyMov s
/-- MOV (R139): Move in form L that copies 32 or 64 bits of a by TYPE. -/
def execMov (f : FormL) (s : State) : Out := issueL .mov f bodyMov s
/-- MOVI (R139): Writes the literal word, extended or converted by TYPE. -/
def execMovi (f : FormL) (s : State) : Out := issueL .movi f bodyMovi s
/-- SEL (R139): Writes a if predicate c is true, and b otherwise. -/
def execSel (f : FormL) (s : State) : Out := issueL .sel f bodySel s
/-- IADD_S (R128): Compact integer add, wrapped or saturated. -/
def execIaddS (f : FormS) (s : State) : Out := issueS .iadd f bodyIadd s
/-- IADD (R128): Integer add in form L or X, wrapped or saturated. -/
def execIadd (f : FormL) (s : State) : Out := issueL .iadd f bodyIadd s
/-- ISUB_S (R128): Compact integer subtract. -/
def execIsubS (f : FormS) (s : State) : Out := issueS .isub f bodyIsub s
/-- ISUB (R128): Integer subtract in form L or X. -/
def execIsub (f : FormL) (s : State) : Out := issueL .isub f bodyIsub s
/-- IADDC (R129): Adds a, b and a carry-in predicate, and writes the sum and the carry-out predicate. -/
def execIaddc (f : FormL) (s : State) : Out := issueL .iaddc f bodyIaddc s
/-- INEG_S (R128): Compact integer negate. -/
def execInegS (f : FormS) (s : State) : Out := issueS .ineg f bodyIneg s
/-- INEG (R128): Integer negate in form L. -/
def execIneg (f : FormL) (s : State) : Out := issueL .ineg f bodyIneg s
/-- IMUL_S (R128): Compact integer multiply, giving the low bits or the clamped product. -/
def execImulS (f : FormS) (s : State) : Out := issueS .imul f bodyImul s
/-- IMUL (R128): Integer multiply in form L or X. -/
def execImul (f : FormL) (s : State) : Out := issueL .imul f bodyImul s
/-- IMULH_S (R128): Compact multiply that gives the high half of the product. -/
def execImulhS (f : FormS) (s : State) : Out := issueS .imulh f bodyImulh s
/-- IMULH (R128): Multiply giving the high half, in form L or X. -/
def execImulh (f : FormL) (s : State) : Out := issueL .imulh f bodyImulh s
/-- IMAD_S (R128): Compact multiply-add with the addend taken from the destination register. -/
def execImadS (f : FormS) (s : State) : Out := issueS .imad f bodyImad s
/-- IMAD (R128): Integer multiply-add in form L or X. -/
def execImad (f : FormL) (s : State) : Out := issueL .imad f bodyImad s
/-- IMADW (R130): 32 × 32-bit multiply plus a 64-bit addend, written to a 64-bit pair. -/
def execImadw (f : FormL) (s : State) : Out := issueL .imadw f bodyImadw s
/-- IDIV (R131): Producer integer divide that rounds toward zero. -/
def execIdiv (f : FormL) (s : State) : Out := issueL .idiv f bodyIdiv s
/-- IREM (R131): Producer integer remainder, with the sign of the dividend. -/
def execIrem (f : FormL) (s : State) : Out := issueL .irem f bodyIrem s
/-- IMIN_S (R128): Compact integer minimum. -/
def execIminS (f : FormS) (s : State) : Out := issueS .imin f bodyImin s
/-- IMIN (R128): Integer minimum in form L or X. -/
def execImin (f : FormL) (s : State) : Out := issueL .imin f bodyImin s
/-- IMAX_S (R128): Compact integer maximum. -/
def execImaxS (f : FormS) (s : State) : Out := issueS .imax f bodyImax s
/-- IMAX (R128): Integer maximum in form L or X. -/
def execImax (f : FormL) (s : State) : Out := issueL .imax f bodyImax s
/-- IABS_S (R128): Compact integer absolute value. -/
def execIabsS (f : FormS) (s : State) : Out := issueS .iabs f bodyIabs s
/-- IABS (R128): Integer absolute value in form L. -/
def execIabs (f : FormL) (s : State) : Out := issueL .iabs f bodyIabs s
/-- AND_S (R128): Compact bitwise AND. -/
def execAndS (f : FormS) (s : State) : Out := issueS .and f bodyAnd s
/-- AND (R128): Bitwise AND in form L or X. -/
def execAnd (f : FormL) (s : State) : Out := issueL .and f bodyAnd s
/-- OR_S (R128): Compact bitwise OR. -/
def execOrS (f : FormS) (s : State) : Out := issueS .or f bodyOr s
/-- OR (R128): Bitwise OR in form L or X. -/
def execOr (f : FormL) (s : State) : Out := issueL .or f bodyOr s
/-- XOR_S (R128): Compact bitwise XOR. -/
def execXorS (f : FormS) (s : State) : Out := issueS .xor f bodyXor s
/-- XOR (R128): Bitwise XOR in form L or X. -/
def execXor (f : FormL) (s : State) : Out := issueL .xor f bodyXor s
/-- NOT_S (R128): Compact bitwise NOT. -/
def execNotS (f : FormS) (s : State) : Out := issueS .not f bodyNot s
/-- NOT (R128): Bitwise NOT in form L. -/
def execNot (f : FormL) (s : State) : Out := issueL .not f bodyNot s
/-- ANDN_S (R128): Compact a AND NOT b. -/
def execAndnS (f : FormS) (s : State) : Out := issueS .andn f bodyAndn s
/-- ANDN (R128): a AND NOT b in form L or X. -/
def execAndn (f : FormL) (s : State) : Out := issueL .andn f bodyAndn s
/-- SHL_S (R132): Compact shift left. -/
def execShlS (f : FormS) (s : State) : Out := issueS .shl f bodyShl s
/-- SHL (R132): Shift left in form L or X. -/
def execShl (f : FormL) (s : State) : Out := issueL .shl f bodyShl s
/-- SHR_S (R132): Compact logical shift right. -/
def execShrS (f : FormS) (s : State) : Out := issueS .shr f bodyShr s
/-- SHR (R132): Logical shift right in form L or X. -/
def execShr (f : FormL) (s : State) : Out := issueL .shr f bodyShr s
/-- SAR_S (R132): Compact arithmetic shift right. -/
def execSarS (f : FormS) (s : State) : Out := issueS .sar f bodySar s
/-- SAR (R132): Arithmetic shift right in form L or X. -/
def execSar (f : FormL) (s : State) : Out := issueL .sar f bodySar s
/-- ROT_S (R132): Compact rotate left. -/
def execRotS (f : FormS) (s : State) : Out := issueS .rot f bodyRot s
/-- ROT (R132): Rotate left in form L or X. -/
def execRot (f : FormL) (s : State) : Out := issueL .rot f bodyRot s
/-- SHF_S (R133): Compact funnel shift, with the high word taken from the destination register. -/
def execShfS (f : FormS) (s : State) : Out := issueS .shf f bodyShf s
/-- SHF (R133): Funnel shift of the pair c:a, in form L or X. -/
def execShf (f : FormL) (s : State) : Out := issueL .shf f bodyShf s
/-- POPC_S (R128): Compact population count. -/
def execPopcS (f : FormS) (s : State) : Out := issueS .popc f bodyPopc s
/-- POPC (R128): Population count in form L. -/
def execPopc (f : FormL) (s : State) : Out := issueL .popc f bodyPopc s
/-- CLZ_S (R128): Compact count of leading zeros. -/
def execClzS (f : FormS) (s : State) : Out := issueS .clz f bodyClz s
/-- CLZ (R128): Count of leading zeros in form L. -/
def execClz (f : FormL) (s : State) : Out := issueL .clz f bodyClz s
/-- CTZ_S (R128): Compact count of trailing zeros. -/
def execCtzS (f : FormS) (s : State) : Out := issueS .ctz f bodyCtz s
/-- CTZ (R128): Count of trailing zeros in form L. -/
def execCtz (f : FormL) (s : State) : Out := issueL .ctz f bodyCtz s
/-- BREV_S (R128): Compact bit reverse. -/
def execBrevS (f : FormS) (s : State) : Out := issueS .brev f bodyBrev s
/-- BREV (R128): Bit reverse in form L. -/
def execBrev (f : FormL) (s : State) : Out := issueL .brev f bodyBrev s
/-- BFE (R134): Extracts a bit field, sign- or zero-extended. -/
def execBfe (f : FormL) (s : State) : Out := issueL .bfe f bodyBfe s
/-- BFI (R134): Inserts a bit field into c. -/
def execBfi (f : FormL) (s : State) : Out := issueL .bfi f bodyBfi s
/-- PRMT (R135): Permutes bytes of c:a under a selector. -/
def execPrmt (f : FormL) (s : State) : Out := issueL .prmt f bodyPrmt s
/-- LEA (R136): Forms a 64-bit base plus a shifted index. -/
def execLea (f : FormL) (s : State) : Out := issueL .lea f bodyLea s
/-- ISET (R137): Integer compare written to a predicate, or as 0 or 1 to an X register. -/
def execIset (f : FormL) (s : State) : Out := issueL .iset f bodyIset s
/-- IDP4 (R138): Four-byte dot product plus an addend. -/
def execIdp4 (f : FormL) (s : State) : Out := issueL .idp4 f bodyIdp4 s

end Sys2Proof.Machine
end

