-- ==== Sys2Proof/Machine/Special.lean ====
section
/-!
DEFINITION. Sys2Proof/Machine/Special.lean: predicates, FL and the special registers (R47, R48, R110 to R116).
-/
namespace Sys2Proof.Machine

/-- Word i of a frozen record (R327). -/
def recWord (r : Rec) (i : Nat) : Word :=
  match i with
  | 0 => BitVec.ofNat 32 (r.code.num + (if r.lvl2 then 256 else 0) + r.kind * 512 + (if r.step then 4096 else 0) + (if r.done then 8192 else 0) +
      (if r.origv then 16384 else 0) + r.nextra * 65536)
  | 1 => BitVec.ofNat 32 r.kernel
  | 2 => r.fpc.setWidth 32
  | 3 => (r.fpc >>> 32).setWidth 32
  | 4 => r.opc.setWidth 32
  | 5 => (r.opc >>> 32).setWidth 32
  | 6 => r.addr.setWidth 32
  | 7 => (r.addr >>> 32).setWidth 32
  | 8 => r.party
  | 9 => BitVec.ofNat 32 r.qid
  | 10 => BitVec.ofNat 32 r.entry
  | 11 => BitVec.ofNat 32 (r.entry / 2 ^ 32)
  | 12 => r.x0
  | 13 => r.x1
  | _ => 0

/-- PART of a thread's static warp (R96); a handler's is 32 (R331). -/
def partOf (s : State) (a : Agent) : Nat :=
  if a.kind != .thread then 32 else match group? s a.group with | some g => fgetD g.part (a.lin / 32) 32 | none => 32

/-- A thread's work identifier (R157): its linear index and its group's index as one mixed-radix number. -/
def workId (s : State) (a : Agent) : Nat :=
  if a.kind != .thread then 0 else
  match group? s a.group, kernel? s a.kernel with
  | some g, some k => a.lin + g.index * k.size
  | _, _ => 0

/-- PLOG (R111). -/
def bodyPlog (c : Ctx') : Go := .next (c.upd fun a => a.setP c.f.dst.toNat (bitN (modBits c.mod 7 0) (4 * c.va + 2 * c.vb + c.vc)))

/-- PMOV (R112): predicates to a register, or the masked ones from a register. Both directions wait for the predicates they touch, and a
poisoned one that is read raises REG_POISON (R42). -/
def bodyPmov (c : Ctx') : Go :=
  if modBit c.mod 0 then
    let set := (upFrom 0 7).filter fun n => modBit c.mod (n + 1)
    if set.all c.a.pready then .next (c.upd fun a => set.foldl (fun a n => a.setP n (bitN c.va n)) a) else .wait c.s .retry
  else if (upFrom 0 7).all c.a.pready then
    if c.a.ppoison != 0 then .freeze c.s .regPoison {} else
    .next (c.put 1 (((upFrom 0 8).map fun n => if c.a.pval n then 2 ^ n else 0).foldl (· + ·) 0))
  else .wait c.s .retry

/-- FLRD and FLCLR wait for the thread's earlier producers (R113). -/
def bodyFlrd (c : Ctx') : Go := if prodsOut c.s c.a.uid then .wait c.s .retry else .next (c.put 1 c.a.fl.toNat)
def bodyFlclr (c : Ctx') : Go :=
  if prodsOut c.s c.a.uid then .wait c.s .retry else .next (c.upd fun a => { a with fl := a.fl &&& ~~~(BitVec.ofNat 5 (modBits c.mod 4 0)) })

/-- The record that the handler's special registers show: that of C0, or the last taken into it (R327). -/
def shownRec (a : Agent) : Option Rec :=
  match fget? a.caps 0 with
  | some c => if c.valid then some c.record else a.lastC0
  | none => a.lastC0

/-- The special registers (R48, R331). -/
def sreg (s : State) (k : Nat) (a : Agent) (n : Nat) : Nat :=
  let handler := a.kind == .handler
  let kern := if handler then none else kernel? s a.kernel
  match n with
  | 0x00 => laneOf k
  | 0x01 => slotOf k
  | 0x02 => warpOf k
  | 0x03 => laneOf k / partOf s a
  | 0x04 => partOf s a
  | 0x05 => if handler then 0 else (group? s a.group).elim 0 (·.index)
  | 0x06 => coreOf k % 4
  | 0x07 => clusterOf k % 20
  | 0x08 => dieOf k
  | 0x09 => s.package
  | 0x0A => if handler then 0 else a.rstk
  | 0x0B => a.asid
  | 0x0C => kern.elim 0 (·.ident)
  | 0x0D => if handler then 0 else (csetOf s a).elim 0 (·.slot)
  | 0x16 => workId s a % 2 ^ 32
  | 0x17 => workId s a / 2 ^ 32
  | 0x30 => (shownRec a).elim 0 fun r => (recWord r 0).toNat
  | 0x31 => (shownRec a).elim 0 fun r => (recWord r 6).toNat
  | 0x32 => (shownRec a).elim 0 fun r => (recWord r 2).toNat
  | _ => kern.elim 0 fun k => k.field (workId s a) (n - 0x10)

/-- MOVS (R114). -/
def bodyMovs (c : Ctx') : Go := .next (c.put 1 (low 32 (sreg c.s c.k c.a (modBits c.mod 7 0))))

/-- The cycle counter of the issuing core has advanced since it was last read; how far is timing (log 4). The threads of a warp issue in
one cycle and read one value. -/
def tick (s : State) : State :=
  match s.issuing with
  | [] => s
  | k :: _ => { s with clocks := fput s.clocks (coreOf k) (fgetD s.clocks (coreOf k) 0 + BitVec.ofNat 64 (Config.cycles s.free)), free := s.free + 1 }
/-- CLK (R115): the core's cycle counter. -/
def bodyClk (c : Ctx') : Go := .next (produce c.s c.k c.a (.v c.f.dst.toNat 2) (fgetD c.s.clocks (coreOf c.k) 0).toNat 0)
/-- CLK (R115): Reads the 64-bit core cycle counter into a register pair. -/
def execClk (f : FormL) (s : State) : Out := issueL .clk f bodyClk (tick s)

/-- WID (R116, R331). -/
def bodyWid (c : Ctx') : Go :=
  let f := modBits c.mod 2 0
  let k := if c.a.kind == .thread then kernel? c.s c.a.kernel else none
  .next (c.put 1 (if modBit c.mod 3 then k.elim 1 (·.extent f) else k.elim 0 fun k => k.field (workId c.s c.a) f))

/-! ### The instructions -/

/-- PLOG (R111): Three-input predicate logic by LUT. -/
def execPlog (f : FormL) (s : State) : Out := issueL .plog f bodyPlog s
/-- PMOV (R112): Moves predicates to a register, or sets masked predicates from one. -/
def execPmov (f : FormL) (s : State) : Out := issueL .pmov f bodyPmov s
/-- FLRD (R113): Reads FL after earlier FL-setting instructions complete. -/
def execFlrd (f : FormL) (s : State) : Out := issueL .flrd f bodyFlrd s
/-- FLCLR (R113): Clears masked FL bits after earlier FL-setting instructions complete. -/
def execFlclr (f : FormL) (s : State) : Out := issueL .flclr f bodyFlclr s
/-- MOVS (R114): Reads a special register by index. -/
def execMovs (f : FormL) (s : State) : Out := issueL .movs f bodyMovs s
/-- WID (R116): Writes the index or extent of a work-identifier field. -/
def execWid (f : FormL) (s : State) : Out := issueL .wid f bodyWid s

end Sys2Proof.Machine
end

