-- ==== Sys2Proof/Machine/Control.lean ====
section
/-!
DEFINITION. Sys2Proof/Machine/Control.lean: control flow (R102 to R109) on both cores.
-/
namespace Sys2Proof.Machine

/-- A transfer (R35, R103): an unaligned target, or a readable one that is no header, raises ILLEGAL_TARGET at the transferring
instruction; a target that cannot be fetched faults there. -/
def transfer (c : Ctx') (s : State) (t : Nat) : Go :=
  let t := t % 2 ^ 64
  if t % 8 != 0 then .freeze c.s .illegalTarget {}
  else
    match fetchWord s (placeOf c.k c.a) c.a.tasid t with
    | .word w s => if isHeader w then .jump s (BitVec.ofNat 64 t) else .freeze (deviceUse c.s c.a.tasid t false) .illegalTarget {}
    | _ => .jump s (BitVec.ofNat 64 t)

/-- The PC-relative target. -/
def Ctx'.rel (c : Ctx') : Nat := (c.a.pc.toNat + c.vb) % 2 ^ 64

def bodyBra (c : Ctx') : Go := transfer c c.s c.rel
/-- BRC (R103): a compared with zero under TYPE. -/
def bodyBrc (c : Ctx') : Go := if relI (modCode c.mod) c.ia 0 then transfer c c.s c.rel else .next c.s
def bodyJmp (c : Ctx') : Go := transfer c c.s c.va

/-- The first 8-byte-aligned address after the instruction (R105 states it for a vector core; the model takes the same on a control core:
DESIGN CHOICE, log 56). -/
def Ctx'.ret (c : Ctx') : Nat := (c.a.pc.toNat + c.len + 7) / 8 * 8 % 2 ^ 64

/-- A request of a party enters the fabric or its core: it is performed by a later event. -/
def issueReq (s : State) (k : Nat) (a : Agent) (acc : Access) : State :=
  let (id, s) := freshId s
  let s := putAgent s k { a with seq := a.seq + 1 }
  { s with reqs := s.reqs ++ [{ id := id, seq := a.seq, who := { whoOf k a with engine := acc.eng }, acc := acc, fences := a.fences }] }

/-- CALL and CALLI (R105): the vector core pushes in thread-private space, the control core on its return stack of 16. -/
def call (c : Ctx') (t : Nat) : Go :=
  if c.ctl then
    let e := engine c.s (clusterOf c.k)
    if e.rstk.length ≥ 16 then .freeze c.s .stackOverflow {}
    else transfer c (putEngine c.s (clusterOf c.k) { e with rstk := BitVec.ofNat 64 c.ret :: e.rstk }) t
  else if c.a.kind == .handler || c.a.rstk < 8 then .freeze c.s .stackOverflow {}
  else if writesOut c.s c.a.uid ≥ 8 then .wait c.s .retry
  else
    let r := c.a.rstk - 8
    let acc : Access := { kind := .store, scratch := false, addr := BitVec.ofNat 64 (privVa c.s c.k c.a r), locs := [], bytes := 8, width := 3,
                          data := c.ret, pc := c.a.pc }
    transfer c (issueReq c.s c.k { c.a with rstk := r } acc) t
def bodyCall (c : Ctx') : Go := call c c.rel
def bodyCalli (c : Ctx') : Go := call c c.va

/-- A read without a destination (R433): its value, or what becomes of the instruction. It waits for the party's earlier accesses. Where words
of one read fail in different ways, a failed translation comes first, then a conflict, and then poison: DESIGN CHOICE, log 72. -/
def readNow (c : Ctx') (va n : Nat) : Go ⊕ (State × Nat) :=
  if !allPerformed c.s c.a.uid || sourceStopped c.s (addrPkg c.s c.a.tasid va) false then .inl (.wait c.s .retry) else
  if (piecesOf va n).any fun p => onPoisoned c.s p.1 then .inl (.freeze c.s .protection { addr := firstBad c.s va n }) else
  match readRange c.s (whoOf c.k c.a) va n with
  | .done s d po _ => if po then .inl (.freeze c.s .regPoison { addr := firstPoison c.s va n }) else .inr (s, ofBytes d)
  | .race v => .inl (.freeze c.s .race { addr := firstRace c.s v n })
  | .absent v => .inl (.freeze c.s .pageFaultLoad { addr := BitVec.ofNat 64 v })
  | .prot => .inl (.freeze c.s .protection { addr := firstBad c.s va n })
  | .poisoned => .inl (.freeze c.s .protection { addr := firstBad c.s va n })
  | .wait => .inl (.wait c.s .retry)
where
  /-- The address of the first word of a range that answers as asked; the range's own address when none does. -/
  firstWord (ok : Nat → Bool) (va n : Nat) : DWord :=
    BitVec.ofNat 64 (((upFrom 0 (n / 4)).map fun i => va + 4 * i).find? ok |>.getD va)
  onPoisoned (s : State) (v : Nat) : Bool := match locate s (placeOf c.k c.a) c.a.tasid v .load with | .poisoned _ => true | _ => false
  pa? (s : State) (v : Nat) : Option Nat :=
    match locate s (placeOf c.k c.a) c.a.tasid v .load with | .at_ pa _ _ _ => some pa | _ => none
  firstPoison (s : State) (va n : Nat) : DWord := firstWord (fun v => (pa? s v).any fun p => s.poison.contains (wordOf p)) va n
  firstRace (s : State) (va n : Nat) : DWord :=
    firstWord (fun v => (pa? s v).any fun p => !(hits s (whoOf c.k c.a) false false [wordOf p]).isEmpty) va n
  firstBad (s : State) (va n : Nat) : DWord :=
    firstWord (fun v => match locate s (placeOf c.k c.a) c.a.tasid v .load with | .prot | .poisoned _ => true | _ => false) va n

/-- RET (R105, R433). -/
def bodyRet (c : Ctx') : Go :=
  if c.ctl then
    let e := engine c.s (clusterOf c.k)
    match e.rstk with
    | [] => .freeze c.s .stackOverflow {}
    | r :: t => transfer c (putEngine c.s (clusterOf c.k) { e with rstk := t }) r.toNat
  else if c.a.kind == .handler || c.a.rstk ≥ privSize c.s c.a then .freeze c.s .stackOverflow {}
  else
    match readNow c (privVa c.s c.k c.a c.a.rstk) 8 with
    | .inl g => g
    | .inr (s, ra) => transfer { c with s := s } (modAgent s c.k fun a => { a with rstk := a.rstk + 8 }) ra

/-- YIELD (R107). -/
def bodyYield (c : Ctx') : Go := .next (c.upd fun a => { a with yielding := true, yielded := 0 })

/-- An instruction that has completed when its party freezes there (R108, FINFO.DONE). -/
def completedFreeze (c : Ctx') (code : FCode) (x0 : Word) : Go := .freeze c.s code { done := true, x0 := x0 }
def bodyTrap (c : Ctx') : Go := completedFreeze c .softwareTrap (BitVec.ofNat 32 c.vb)
/-- BKPT (R108): it freezes when the context's breakpoint enable is 1. -/
def bodyBkpt (c : Ctx') : Go := if (ctx? c.s c.a.asid).any (·.brk) then completedFreeze c .breakpoint 0 else .next c.s

/-! ### The instructions -/

/-- BRA (R103): PC-relative branch. -/
def execBra (f : FormL) (s : State) : Out := issueL .bra f bodyBra s
/-- BRC (R103): PC-relative branch on a compare with zero. -/
def execBrc (f : FormL) (s : State) : Out := issueL .brc f bodyBrc s
/-- JMP (R104): Jump to a 64-bit register target. -/
def execJmp (f : FormL) (s : State) : Out := issueL .jmp f bodyJmp s
/-- CALL (R105): Pushes the return address and transfers PC-relative. -/
def execCall (f : FormL) (s : State) : Out := issueL .call f bodyCall s
/-- CALLI (R105): Pushes the return address and transfers to a register target. -/
def execCalli (f : FormL) (s : State) : Out := issueL .calli f bodyCalli s
/-- RET_S (R105): Compact return that pops the return stack. -/
def execRetS (f : FormS) (s : State) : Out := issueS .ret f bodyRet s
/-- RET (R105): Return in form L. -/
def execRet (f : FormL) (s : State) : Out := issueL .ret f bodyRet s
/-- YIELD_S (R107): Compact YIELD; the thread yields for 32 cycles. -/
def execYieldS (f : FormS) (s : State) : Out := issueS .yield f bodyYield s
/-- YIELD (R107): YIELD in form L. -/
def execYield (f : FormL) (s : State) : Out := issueL .yield f bodyYield s
/-- TRAP (R108): Freezes the thread with SOFTWARE_TRAP and the trap number. -/
def execTrap (f : FormL) (s : State) : Out := issueL .trap f bodyTrap s
/-- BKPT (R108): Freezes with BREAKPOINT when enabled, otherwise acts as NOP. -/
def execBkpt (f : FormL) (s : State) : Out := issueL .bkpt f bodyBkpt s

end Sys2Proof.Machine
end

