-- ==== Sys2Proof/Machine/Object.lean ====
section
/-!
DEFINITION. Sys2Proof/Machine/Object.lean: a wait that is answered, and the operations of memory barrier objects (R221 to R228).
-/
namespace Sys2Proof.Machine

/-- A party completes the instruction it waits in: its predicate, its acquire, then the next instruction. -/
def finishWait (s : State) (k : Nat) (p : Option Bool) (c : Clock) : State :=
  match agent? s k with
  | none => s
  | some a =>
    match a.inst with
    | none => s
    | some (_, f, len) =>
      let b := match p with | some r => a.setP f.dst.toNat r | none => a
      settle k a len (.next (putAgent s k { (b.acquire c) with inst := none, wait := .none, waited := 0 }))

/-! ### Memory barrier objects -/

/-- An object (R221). -/
structure MbObj where
  expected : Nat
  arrived  : Nat
  phase    : Nat
  ovr      : Bool
  drop     : Bool
  pend     : Nat
  deriving DecidableEq, Repr

def mbOf (v : Nat) : MbObj :=
  { expected := bitsN v 15 0, arrived := bitsN v 31 16, phase := bitsN v 35 32, ovr := bitN v 36, drop := bitN v 37, pend := bitsN v 127 64 }
def MbObj.pack (o : MbObj) : Nat :=
  o.expected + o.arrived * 2 ^ 16 + o.phase * 2 ^ 32 + (if o.ovr then 2 ^ 36 else 0) + (if o.drop then 2 ^ 37 else 0) + o.pend * 2 ^ 64

/-- What the arrivals at an object release: those of its current phase as `head`, those of completed phases as `all` (R223). -/
def objKey (loc : Nat) : Nat := 2 ^ 62 + loc
def objClock (s : State) (loc : Nat) : Clock := (relLoc s (objKey loc)).all.foldl (fun c r => cmax c r.clk) []

/-- The locations of the object at an offset, after the checks of R222. -/
def mbLocs (s : State) (a : Agent) (off : Nat) : FCode ⊕ List Nat :=
  if off % 16 != 0 then .inl .misaligned
  else
    match (csetOf s a).bind fun c => scratchLocs s c (ownGroup s a) off 16 false with
    | some l => .inr l
    | none => .inl .protection

/-- An MB* is an atomic of its party on all 16 bytes: it conflicts with plain accesses only (R222). -/
def mbTouch (s : State) (w : Who) (locs : List Nat) (addr : DWord) : State :=
  ((judge s w true true (wordsOfLocs locs) addr).map (·.1)).getD s

/-- Tests an object for completion (R223): the state, the object, and whether its phase completed. -/
def mbTest (s : State) (loc : Nat) (o : MbObj) : State × MbObj × Bool :=
  if o.arrived == o.expected && o.pend == 0 then
    let l := relLoc s (objKey loc)
    ({ s with rels := fput s.rels (objKey loc) { head := [], all := l.head.foldl addRel l.all } },
     { o with phase := (o.phase + 1) % 16, arrived := 0, drop := false }, true)
  else (s, o, false)

def mbPut (s : State) (locs : List Nat) (o : MbObj) : State := { s with sram := writeLocs s.sram locs o.pack }

/-- Tests for completion, writes the object, and lets every waiter of a completed phase go on (R226). -/
def mbSettle (s : State) (locs : List Nat) (o : MbObj) : State :=
  let loc := locs.headD 0
  let (s, o, done) := mbTest s loc o
  let s := mbPut s locs o
  if !done then s else
  let waits := (s.agents.filter fun (_, a) => match a.wait with | .object l _ _ => l == loc | _ => false).map (·.1)
  waits.foldl (fun s k => finishWait s k (some true) (objClock s loc)) s

/-- A release joins an object's current phase. -/
def mbRelease (s : State) (loc : Nat) (r : Rel) : State :=
  let l := relLoc s (objKey loc)
  { s with rels := fput s.rels (objKey loc) { l with head := addRel l.head r } }

/-- An arrival with a count and bytes (R225): none when the object refuses it, which sets OVR. -/
def mbArrive (s : State) (w : Who) (locs : List Nat) (addr : DWord) (count bytes : Nat) : State ⊕ (State × MbObj) :=
  let s := mbTouch s w locs addr
  let o := mbOf (readLocs s.sram locs)
  if o.arrived + count > o.expected then .inl (mbPut s locs { o with ovr := true })
  else
    let r : Rel := { uid := w.uid, place := w.place, scope := 2, clk := fput w.clk w.uid (w.region + 1) }
    .inr (mbSettle (mbRelease s (locs.headD 0) r) locs { o with arrived := o.arrived + count, pend := (o.pend + bytes) % 2 ^ 64 }, o)

/-- A copy's byte decrement (R228): its release joins the phase it lands in. `true` says that it met a plain engine access (R207). -/
def mbDecrement (s : State) (w : Who) (locs : List Nat) (bytes : Nat) : State × Bool :=
  let race := ((judge s w true true (wordsOfLocs locs) 0).map (·.2)).getD false
  let s := mbTouch s w locs 0
  let o := mbOf (readLocs s.sram locs)
  let r : Rel := { uid := w.uid, place := w.place, scope := 5, clk := fput w.clk w.uid (w.region + 1) }
  (mbSettle (mbRelease s (locs.headD 0) r) locs { o with pend := (o.pend + 2 ^ 64 - bytes % 2 ^ 64) % 2 ^ 64 }, race)

end Sys2Proof.Machine
end

