-- ==== Sys2Proof/Machine/Memory.lean ====
section
/-!
DEFINITION. Sys2Proof/Machine/Memory.lean: loads, stores, atomics, fences and prefetches (R187 to R199, R210 to R215), and the events of
their requests: performed at the home or core, forwarded, answered, acknowledged, completed (R190, R193, R310, R370, R375).
-/
namespace Sys2Proof.Machine

/-! ### After an event -/

/-- Parties that wait to try their instruction again do so after an event. -/
def wakeRetry (s : State) : State :=
  { s with agents := s.agents.map fun (k, a) => (k, if a.wait == .retry then { a with wait := .none } else a) }
/-- A signal's value has reached a threshold. One that its home cannot read now (its page absent, POISONED or with side-log entries) has not
(R314; for a POISONED page DESIGN CHOICE, log 77). -/
def sigReached (s : State) (asid : Nat) (va : DWord) (thr : Nat) : Bool := (deviceRead s asid va.toNat 8).any (thr ≤ ·)
/-- The value of a signal, as its home holds it. -/
def sigValue (s : State) (asid : Nat) (va : DWord) : Nat := (deviceRead s asid va.toNat 8).getD 0
/-- The copies of a marker fence, one for each path of each logical mast (R366, R375, R376); how OP holds an order and a scope is log 53. -/
def markerCopies (s : State) (p : Place) (home id order scope : Nat) : List Packet :=
  let paths := (upFrom 0 4).flatMap fun lm => (markerPaths s p home lm).map fun l => (lm, l)
  paths.map fun (lm, l) => onePacket { flit s FlitKind.marker 1 lm (masterOf p) (home % 16) id with
    dpkg := BitVec.ofNat 8 (homePkg s home), count := BitVec.ofNat 8 paths.length, op := BitVec.ofNat 8 (order + 8 * scope) } id 0 l
/-- A marker fence of a party to a home (R375): its copies are injected by MARKER events; those that cross no link have arrived. -/
def putMarker (s : State) (uid seq : Nat) (p : Place) (home order scope : Nat) : State :=
  let (id, s) := freshId s
  let copies := markerCopies s p home id order scope
  let far := copies.filter (!·.path.isEmpty)
  { s with markers := s.markers ++ [{ id := id, uid := uid, seq := seq, target := home, count := copies.length,
                                      arrived := copies.length - far.length, place := p, todo := far }] }
/-- A boundary at which the device ended a region (R202) sends markers for the party's relaxed traffic, as FENCE.SC.SYS would, before its
next instruction. -/
def boundaryMarkers (s : State) : State :=
  if s.agents.all (fun (_, a) => a.fences.all (·.order != 6)) then s else
  s.agents.foldl (fun s (k, a) =>
    match a.fences.find? (·.order == 6) with
    | some f => a.relaxed.foldl (fun s h => putMarker s a.uid f.seq (placeOf k a) h 5 5)
        (modAgent s k fun a => { a with relaxed := [], fences := a.fences.map fun x => if x.order == 6 then { x with order := 7 } else x })
    | none => s) s
/-- After an update of a signal, its home tests its triggers and its waiting QWAITs (R241, R251). -/
def noteUpdates (s : State) : State :=
  let s := if s.trigs.isEmpty then s else
    { s with trigs := s.trigs.map fun t => if t.state == .armed && sigReached s t.tasid t.signal t.thr.toNat then { t with state := .fired } else t }
  if !s.agents.any (fun (_, a) => match a.wait with | .signal _ _ _ => true | _ => false) then s else
    { s with agents := s.agents.map fun (k, a) =>
        match a.wait with
        | .signal va thr _ => if sigReached s a.tasid va thr.toNat then (k, { a with wait := .none }) else (k, a)
        | _ => (k, a) }
/-- An event's meaning. -/
def event (f : State → State) (s : State) : Out := .next (wakeRetry (noteUpdates (f s)))

/-! ### Issuing accesses -/

def widthBytes (w : Nat) : Nat := 2 ^ w
def Ctx'.width (c : Ctx') : Nat := modBits c.mod 14 12
/-- The effective address of a global access, and of a scratchpad or private access (R188). -/
def Ctx'.ea (c : Ctx') : Nat := (c.va + sext 32 64 (low 32 c.vb)) % 2 ^ 64
def Ctx'.ea32 (c : Ctx') : Nat := (c.va + c.vb) % 2 ^ 32

/-- A release at PKG or SYS scope sends markers to every target of relaxed traffic since the last one (R213, R375). -/
def sendMarkers (s : State) (k : Nat) (order : Nat := 3) (scope : Nat := 5) : State :=
  match agent? s k with
  | none => s
  | some a => a.relaxed.foldl (fun s h => putMarker s a.uid a.seq (placeOf k a) h order scope) (putAgent s k { a with relaxed := [] })

/-- An ordered access ends its region after itself (R201); a wide release sends markers first. -/
def issueAccess (c : Ctx') (a : Agent) (acc : Access) : State :=
  let s := putAgent c.s c.k a
  let s := if acc.order ≥ 3 && acc.scope ≥ 4 then sendMarkers s c.k acc.order acc.scope else s
  let a := (agent? s c.k).getD a
  let a := if acc.rx then (match classify s a.tasid acc.addr.toNat with | some ad => { a with relaxed := lput a.relaxed ad.home } | none => a) else a
  let s := issueReq s c.k a acc
  if acc.order ≥ 2 then endRegion s c.k else s

/-- An access whose destination discards its value (V255, X0): the party waits and a fault freezes it at the access itself (R41, R195). -/
def accessNow (c : Ctx') (acc : Access) : Go :=
  if !allPerformed c.s c.a.uid || (!acc.scratch && sourceStopped c.s (addrPkg c.s c.a.tasid acc.addr.toNat) acc.rx) then .wait c.s .retry else
  let w := whoOf c.k c.a
  let s := if acc.order ≥ 3 && acc.scope ≥ 4 then sendMarkers c.s c.k acc.order acc.scope else c.s
  if !s.markers.all (·.uid != c.a.uid) then .wait s .retry else
  let after (s : State) : State := modAgent s c.k fun a => let a := { a with seq := a.seq + 1 }; if acc.order ≥ 2 then a.endRegion else a
  let res := if acc.scratch then performScratch s w acc c.a.seq else
    match classify s c.a.tasid acc.addr.toNat, devicePa s c.a.tasid acc.addr.toNat with
    | some ad, some pa =>
      if !crossNow s w acc ad.home then .wait else performGlobal (if acc.kind == .load then s else invalidateFor s pa none) w acc c.a.seq
    | _, _ => performGlobal s w acc c.a.seq
  match res with
  | .done s _ _ _ => .next (noteUpdates (after s))
  | .wait => .wait s .retry
  | .absent _ => .freeze s .pageFaultLoad { addr := acc.addr }
  | .prot => .freeze s .protection { addr := acc.addr }
  | .poisoned _ => .next (after s)
  | .race s => .freeze s .race { addr := acc.addr }

/-- A load or an atomic with return: a producer (R190). A scratchpad atomic that discards its old value can fault no more once it has
started, and is performed in its turn (R189, R193). -/
def issueLoad (c : Ctx') (acc : Access) : Go :=
  if acc.dst.isVoid then (if acc.scratch && acc.kind == .rmw then .next (issueAccess c c.a { acc with dst := .none }) else accessNow c acc)
  else .next (issueAccess c (c.a.emptyDst acc.dst) acc)

def issueStore (c : Ctx') (acc : Access) : Go := if writesOut c.s c.a.uid ≥ 8 then .wait c.s .retry else .next (issueAccess c c.a acc)

def Ctx'.memDst (c : Ctx') : Dst := if c.ctl then .x c.f.dst.toNat else .v c.f.dst.toNat (widRegs c.width)
/-- The access that an instruction's fields ask for, at an address and its locations. -/
def Ctx'.access (c : Ctx') (kind : AccKind) (addr : Nat) (locs : List Nat) (scratch : Bool) : Access :=
  let w := c.width
  { kind := kind, scratch := scratch, addr := BitVec.ofNat 64 addr, locs := locs, bytes := widthBytes w, width := w, sx := modBit c.mod 11,
    data := low (8 * widthBytes w) c.vc, order := modOrder c.mod, scope := modScope c.mod, pc := c.a.pc,
    hint := if modOrder c.mod == 0 then modBits c.mod 4 3 else 0, rx := !scratch && modOrder c.mod == 0 && modBit c.mod 2,
    dst := if kind == .load then c.memDst else .none }
/-- The access of an atomic instruction: for CAS, c holds the expected and then the new value (R187). -/
def Ctx'.atomAccess (c : Ctx') (addr : Nat) (locs : List Nat) (scratch ret : Bool) : Access :=
  let w := 8 * widthBytes c.width
  let op := modCode c.mod
  { c.access .rmw addr locs scratch with
    op := op, data := if op == 7 then low w (c.vc / 2 ^ w) else low w c.vc, cmp := low w c.vc, hint := 0, rx := false,
    dst := if ret then c.memDst else .none }

/-- A global access: alignment, then the request (R189). -/
def globally (c : Ctx') (g : Nat → Go) : Go :=
  if c.ea % widthBytes c.width != 0 then .freeze c.s .misaligned { addr := BitVec.ofNat 64 c.ea } else g c.ea
/-- A scratchpad access: alignment, then the existence of every byte (R22, R189; this order of two faults is the model's: DESIGN CHOICE, log
76). A handler thread has no scratchpad (R331). -/
def inScratch (c : Ctx') (diag : Bool) (g : List Nat → Go) : Go :=
  let addr : FInfo := { addr := BitVec.ofNat 64 c.ea32 }
  if c.a.kind == .handler then .freeze c.s .protection addr
  else if c.ea32 % widthBytes c.width != 0 then .freeze c.s .misaligned addr
  else
    match (csetOf c.s c.a).bind fun cs => scratchLocs c.s cs (ownGroup c.s c.a) c.ea32 (widthBytes c.width) diag with
    | some l => g l
    | none => .freeze c.s .protection addr
/-- A thread-private access: its virtual address (R23, R188). Alignment comes before the limit: DESIGN CHOICE, log 76; a handler thread has no
such space (R331). -/
def inPrivate (c : Ctx') (g : Nat → Go) : Go :=
  if c.a.kind != .handler && c.ea32 % widthBytes c.width != 0 then .freeze c.s .misaligned { addr := BitVec.ofNat 64 c.ea32 }
  else if c.a.kind != .thread || c.ea32 + widthBytes c.width > privSize c.s c.a then .freeze c.s .stackOverflow { addr := BitVec.ofNat 64 c.ea32 }
  else g (privVa c.s c.k c.a c.ea32)

def bodyLd (c : Ctx') : Go := globally c fun a => issueLoad c (c.access .load a [] false)
def bodySt (c : Ctx') : Go := globally c fun a => issueStore c (c.access .store a [] false)
def bodyLds (c : Ctx') : Go := inScratch c (modBit c.mod 2) fun l => issueLoad c (c.access .load c.ea32 l true)
def bodySts (c : Ctx') : Go := inScratch c (modBit c.mod 2) fun l => issueStore c (c.access .store c.ea32 l true)
def bodyLdl (c : Ctx') : Go := inPrivate c fun a => issueLoad c (c.access .load a [] false)
def bodyStl (c : Ctx') : Go := inPrivate c fun a => issueStore c (c.access .store a [] false)
def bodyAtom (c : Ctx') : Go := globally c fun a => issueLoad c (c.atomAccess a [] false true)
def bodyAtoms (c : Ctx') : Go := inScratch c false fun l => issueLoad c (c.atomAccess c.ea32 l true true)
def bodyRed (c : Ctx') : Go := globally c fun a => issueStore c (c.atomAccess a [] false false)

/-- An access has been performed at a scope: at PKG and SYS, acknowledged by its target. -/
def performedAt (scope : Nat) (r : Req) : Bool := if scope ≥ 4 && !r.acc.scratch then r.stage == .returned else performed r
/-- A load or atomic has completed. -/
def completed (r : Req) : Bool := r.stage == .returned || (r.acc.scratch && performed r)
/-- Something that a fence of a party waits for is outstanding: an access, a marker or a matrix operation (R213, R215). -/
def fenceLive (s : State) (uid : Nat) (f : Fence) : Bool :=
  s.reqs.any (fun r => r.who.uid == uid && r.seq < f.seq && !(performedAt f.scope r && completed r)) ||
  s.markers.any (fun m => m.uid == uid && m.seq ≤ f.seq) || (opsOf s uid).any (·.seq < f.seq)

/-- An ACQ, AR or SC fence takes what earlier atomics observed; a REL, AR or SC fence keeps its release for later atomic writes (R205, R215). -/
def bodyFence (c : Ctx') : Go :=
  let o := modOrder c.mod; let sc := modScope c.mod
  let s := if o != 2 && sc ≥ 4 then sendMarkers c.s c.k o sc else c.s
  let s := modAgent s c.k fun a =>
    let a := a.endRegion
    let a := if o != 3 then a.acquire (acquired a.acqP sc (placeOf c.k a)) else a
    let a := if o != 2 then
        { a with relF := a.relF.filter (fun r => r.scope != sc) ++ [{ uid := a.uid, place := placeOf c.k a, scope := sc, clk := a.relClk }] } else a
    { a with fences := a.fences.filter (fenceLive s a.uid) ++ [{ seq := a.seq, region := a.region, order := o, scope := sc }] }
  .next s

/-- PREF (R194): fills a line where the address can be read and cached; it faults on nothing. At a page that is POISONED or SWITCHING it does
nothing: DESIGN CHOICE, log 75. -/
def bodyPref (c : Ctx') : Go :=
  let t := modBits c.mod 4 3; let p := placeOf c.k c.a
  match locate c.s p c.a.tasid c.ea .load with
  | .at_ pa home leaf s =>
    if paPkg pa == 255 || bitsN leaf 10 9 == 2 then .next c.s
    else if !crossNow c.s (whoOf c.k c.a) (plainLoad (lineOf c.ea) 128 c.a.pc) home then .wait c.s .retry else
    .next (useLine s (if t == 0 then p else { p with core := none }) c.a.tasid c.ea pa home leaf (if t == 2 then 2 else 0) false)
  | _ => .next c.s

/-! ### Which requests are due (R210, R213, R215) -/

/-- Two accesses of one party touch a common byte, or for an RX access a common 128-byte line (R197, R210). -/
def sameBytes (s : State) (x y : Req) (line : Bool) : Bool :=
  if x.acc.scratch != y.acc.scratch then false
  else if x.acc.scratch then x.acc.locs.any y.acc.locs.contains
  else
    let f (a n : Nat) : Nat × Nat := if line then (lineOf a, 128) else (a, n)
    let va := f x.acc.addr.toNat x.acc.bytes; let vb := f y.acc.addr.toNat y.acc.bytes
    rangesMeet va.1 va.2 vb.1 vb.2 ||
    match devicePa s x.who.tasid x.acc.addr.toNat, devicePa s y.who.tasid y.acc.addr.toNat with
    | some p, some q =>
      let a := f p x.acc.bytes; let b := f q y.acc.bytes
      rangesMeet a.1 a.2 b.1 b.2 || (paPkg p == 255 && paPkg q == 255 && bitsN p 47 44 == bitsN q 47 44)
    | _, _ => false

/-- A fence of a party still holds an access at a place of its program order, a load or not (R215). -/
def fenceHolds (s : State) (earlier : List Req) (uid seq : Nat) (load : Bool) (f : Fence) : Bool :=
  f.seq ≤ seq &&
  let before := earlier.filter (·.seq < f.seq)
  let marks := s.markers.any fun m => m.uid == uid && m.seq ≤ f.seq
  let ops := (opsOf s uid).any (·.seq < f.seq)
  let rel := !load && (ops || before.any (fun e => !performedAt f.scope e) || (f.scope ≥ 4 && marks))
  let acq := before.any fun e => e.acc.atomic && !completed e || e.acc.kind == .load && !completed e
  match f.order with
  | 3 => rel
  | 2 => acq
  | 4 => rel || acq
  | _ => ops || before.any (fun e => !performedAt f.scope e) || (f.scope ≥ 4 && marks)
def heldBy (s : State) (earlier : List Req) (r : Req) (f : Fence) : Bool :=
  fenceHolds s earlier r.who.uid r.seq (r.acc.kind == .load && r.acc.order == 0) f

/-- A matrix operation of a task names a byte that a request touches (R266). -/
def opTouches (s : State) (o : SeqRec) (r : Req) : Bool :=
  o.ext.any fun (g, a, n) =>
    if g then !r.acc.scratch && (rangesMeet a n r.acc.addr.toNat r.acc.bytes ||
      match devicePa s r.who.tasid r.acc.addr.toNat with
      | some p => (piecesOf a n).any fun (v, m) => (match devicePa s o.who.tasid v with | some q => rangesMeet p r.acc.bytes q m | none => false)
      | none => false)
    else r.acc.scratch &&
      match ((party? s o.who.key o.who.uid).bind (csetOf s)).bind fun c => scratchByte s c none a with
      | some l => r.acc.locs.any fun x => l ≤ x && x < l + n
      | none => false

/-- A request may be performed now (R197, R210, R213, R215; ATOMS of one warp in lane order, R193). -/
def mayPerform (s : State) (r : Req) : Bool :=
  let earlier := s.reqs.filter fun e => e.who.uid == r.who.uid && e.seq < r.seq
  let late := earlier.filter (!performed ·)
  !late.any (fun e => sameBytes s e r false) &&
  !earlier.any (fun e => e.acc.rx && e.stage != .returned && sameBytes s e r true) &&
  !late.any (fun e => e.acc.order == 2 || e.acc.order ≥ 4) &&
  !(opsOf s r.who.uid).any (fun o => o.seq < r.seq && (r.acc.order ≥ 3 || opTouches s o r)) &&
  (r.acc.order < 3 || (earlier.all (performedAt r.acc.scope) && (r.acc.scope < 4 || !s.markers.any fun m => m.uid == r.who.uid && m.seq ≤ r.seq))) &&
  !r.fences.any (heldBy s earlier r) &&
  !(r.acc.scratch && r.acc.kind == .rmw && s.reqs.any fun e => e.id < r.id && !performed e && e.acc.scratch && e.acc.kind == .rmw && e.acc.locs.any r.acc.locs.contains)

/-! ### Requests, performed -/

def req? (s : State) (id : Nat) : Option Req := s.reqs.find? (·.id == id)
def putReq (s : State) (r : Req) : State := { s with reqs := s.reqs.map fun x => if x.id == r.id then r else x }
def dropReq (s : State) (id : Nat) : State := { s with reqs := s.reqs.filter (·.id != id) }

/-- The kept write of a refused party, in program order, and the refusal of every later one to that home (R316). -/
def refuseWrite (s : State) (r : Req) (home : Nat) : State :=
  modAgent (dropReq s r.id) r.who.key fun a => if a.uid != r.who.uid then a else
    a.refuse { home := home, seq := r.seq, acc := r.acc }
def alreadyRefused (s : State) (r : Req) (home : Nat) : Bool :=
  match party? s r.who.key r.who.uid with | some a => a.refused.any fun x => x.home == home && x.seq < r.seq | none => false

/-- Other copies of the line that a write must see invalidated first: those of other dies, or every copy for an atomic (R181, R209). -/
def mustInvalidate (s : State) (r : Req) (pa : Nat) : List Line :=
  if r.acc.kind == .load then [] else holders s pa (if r.acc.kind == .rmw then none else r.who.place.die)
/-- A home's invalidations of lines for which none is under way, at most 64 at a time to each die (R371). -/
def sendInvals (s : State) (home : Nat) (ls : List Line) : State :=
  ls.foldl (fun s l =>
    if s.invals.any (fun i => i.die == l.die && i.asid == l.asid && i.va == l.va) ||
        64 ≤ (s.invals.filter fun i => i.home == home && i.die == l.die).length then s else
    let (id, s) := freshId s
    { s with invals := s.invals ++ [{ id := id, die := l.die, asid := l.asid, va := l.va, home := home }] }) s

/-- A task's code recorded by its engine: the first stays (R266, R276). -/
def Engine.note (e : Engine) (code : Nat) (b : Bool) : Engine := if b && e.code == 0 then { e with code := code } else e
/-- A task's code is recorded by its engine, where it runs or is saved (R266). -/
def noteTask (s : State) (key uid code : Nat) : State :=
  if (party? s key uid).isSome then putEngine s (clusterOf key) ((engine s (clusterOf key)).note code true) else
  { s with ctxs := s.ctxs.map fun (n, c) => (n, { c with saved := { c.saved with tasks := c.saved.tasks.map fun (i, t, e, d) =>
      (i, t, if t.uid == uid then e.note code true else e, d) } }) }

/-- What a request's result means for it: a load keeps its value or its fault for the response; a store's fault awaits its freeze. -/
def conclude (s : State) (r : Req) (res : Res) : State :=
  let ret := r.acc.kind == .load || r.acc.dst != .none
  let r := match res with | .done _ _ _ _ | .wait => r | _ => { r with fill := none }
  let faulted (s : State) (c : FCode) : State :=
    if ret then putReq s { r with stage := .performed, fault := some c }
    else storeFault (putReq s { r with stage := .performed }) r.who.key r.who.uid r.who.asid c r.acc.pc r.acc.addr r.who.entry r.who.kernel
  match res with
  | .wait => s
  | .absent _ => faulted s .pageFaultLoad
  | .prot => faulted s .protection
  | .poisoned v => if ret then putReq s { r with stage := .performed, result := v, poison := true } else faulted s .protection
  | .race s => faulted s .race
  | .done s v po race =>
    let s := if race && r.acc.eng then noteTask s r.who.key r.who.uid 0x22 else s
    match req? s r.id with
    | some q => putReq s { q with stage := .performed, result := v, poison := po && ret, fill := r.fill }
    | none => s

/-- A request waits at its home. -/
def waitAtHome (s : State) (r : Req) : State := putReq s { r with stage := .arrived }
/-- Forwarded requests that a home has outstanding to a stack (R371). -/
def fwdsOut (s : State) (home target : Nat) : Nat :=
  (s.reqs.filter fun r => (r.stage == .forwarded || r.stage == .answered) &&
    match r.fill with | some (pa, h, _) => h == home && servedBy pa == target | none => false).length
/-- A request returns something to its party. -/
def returns (r : Req) : Bool := r.acc.kind == .load || r.acc.dst != .none

/-- A request at its home (R310): walked, checked, performed, forwarded, logged, refused, or left waiting. -/
def atHome (s : State) (r : Req) (home : Nat) : State :=
  if alreadyRefused s r home && !returns r then refuseWrite s r home else
  match locate s r.who.place r.who.tasid r.acc.addr.toNat r.acc.need r.acc.bytes with
  | .at_ pa _ leaf s' =>
    if r.acc.sig && paPkg pa ≥ 240 then conclude s r .prot else
    let r := { r with fill := some (pa, home, leaf) }
    match mustInvalidate s r pa with
    | [] =>
      if servedAt s home pa then conclude s r ((performHome s' r.who r.acc r.seq pa).undo s)
      else if 32 ≤ fwdsOut s home (servedBy pa) then waitAtHome s r
      -- the data lie on another stack or in a window that is served there: forwarded with the translation (R370)
      else putReq s { r with stage := .forwarded, pa := some pa }
    | ls => waitAtHome (sendInvals s home ls) r
  | .absent _ =>
    if returns r then conclude s r (.absent home)
    else
      match logWrite s home r.who r.acc with
      | some s => putReq s { r with stage := .performed }
      -- an addition that no thread made waits for room in the log
      | none => if r.who.engine then waitAtHome s r else refuseWrite s r home
  | .prot => conclude s r .prot
  | .poisoned pa => conclude s r (.poisoned (readPhys s pa r.acc.bytes))
  | .wait => waitAtHome s r

/-- What has reached its home is performed there, or waits there in its receiver slot (R371). -/
def meetHome (s : State) (r : Req) (home : Nat) (p : Option Packet) : State :=
  let s := atHome s r home
  match p with
  | some p => if (req? s r.id).any (·.stage == .arrived) then keepHere s p r.id else takeOff s p r.id
  | none => s

/-- A request of a kind, one step on: performed at its core; or put on the fabric when it is due, its sources may inject and its first link
has room (R364, R371), taken over a link, and performed at its home. A route that is not there is found at the die (R378). -/
def requestEvent (kind : AccKind) (sig : Bool) (id : Nat) (s : State) : State :=
  match req? s id with
  | none => s
  | some r =>
    if r.acc.kind != kind || r.acc.sig != sig || !(r.stage == .issued || r.stage == .arrived) then s
    else if r.acc.scratch then (if mayPerform s r then conclude s r (performScratch s r.who r.acc r.seq) else s)
    else
      match classify s r.who.tasid r.acc.addr.toNat, packetOf s (· ≤ 2) id with
      | none, _ => if mayPerform s r then conclude s r .prot else s
      | some ad, some p =>
        if p.here || (p.path.length ≤ 1 && mayLeave s p) then meetHome s r ad.home (some p) else (forward s p).getD s
      | some ad, none =>
        if r.stage == .arrived then meetHome s r ad.home none
        else if !mayPerform s r || sourceStopped s ad.pkg (r.acc.rx || r.who.relaxed) then s
        else if !routeOk s r.who.place ad.home then conclude s r .prot
        else
          match inject s r.who r.acc id ad.home with
          | some p => if p.path.isEmpty then meetHome s r ad.home none else send s p
          | none => s

/-- READ (R310): a READ request at its home, or a scratchpad load at its core. -/
def execRead (id : Nat) (s : State) : Out := event (requestEvent .load false id) s
/-- WRITE (R310): performed, logged, refused or discarded by the page's state. -/
def execWrite (id : Nat) (s : State) : Out := event (requestEvent .store false id) s
/-- ATOMIC (R193): one indivisible step at the point of coherence. -/
def execAtomic (id : Nat) (s : State) : Out := event (requestEvent .rmw false id) s
/-- SIGNAL_ADDITION (R240): the addition of a QSIG is performed at the signal's home, or logged, refused or discarded there. -/
def execSignalAddition (id : Nat) (s : State) : Out := event (requestEvent .rmw true id) s

/-- The home of a request. -/
def homeOf (s : State) (r : Req) : Nat := (classify s r.who.tasid r.acc.addr.toNat).elim 0 (·.home)
/-- FWD (R370): a forwarded request performed at its target, with the leaf's marks at its home (R305). -/
def execFwd (id : Nat) (s : State) : Out := event (fun s =>
  match req? s id with
  | some r =>
    match r.stage, r.pa with
    | .forwarded, some pa => travel s FlitKind.fwd id (fwdPacket s r (homeOf s r) pa) fun s =>
      let s := conclude s r ((performHome (deviceUse s r.who.tasid r.acc.addr.toNat (r.acc.kind != .load)) r.who r.acc r.seq pa).undo s)
      (match req? s id with | some q => putReq s { q with stage := .answered } | none => s)
    | _, _ => s
  | none => s) s
/-- FWDANS (R370): the answer reaches the home. -/
def execFwdans (id : Nat) (s : State) : Out := event (fun s =>
  match req? s id with
  | some r =>
    match r.stage, r.pa with
    | .answered, some pa => travel s FlitKind.fwdans id (answerPacket s r (homeOf s r) pa) fun s => putReq s { r with stage := .performed }
    | _, _ => s
  | none => s) s

/-- The answer of a request fills or uses its line, among the ways allocatable at that moment (R184). -/
def fillAnswered (s : State) (r : Req) : State :=
  match r.fill with
  | some (pa, home, leaf) => fillFrom s r.who r.acc pa home leaf
  | none => s
/-- RESP (R190): the response of a load or atomic goes back to its requester. -/
def execResp (id : Nat) (s : State) : Out := event (fun s =>
  match req? s id with
  | some r =>
    if r.stage == .performed && returns r && !r.acc.scratch then
      travel s FlitKind.resp id (respPacket s r (homeOf s r) true) fun s => fillAnswered (putReq s { r with stage := .returned }) r
    else s
  | none => s) s
/-- ACK (R213): the acknowledgement of a store or reduction goes back to its source. -/
def execAck (id : Nat) (s : State) : Out := event (fun s =>
  match req? s id with
  | some r =>
    if r.stage != .performed || returns r then s else if r.acc.scratch then dropReq s id else
    travel s FlitKind.ack id (respPacket s r (homeOf s r) false) fun s => fillAnswered (dropReq s id) r
  | none => s) s

/-- The value that fills a destination (R190). -/
def loaded (acc : Access) (v : Nat) : Nat :=
  if acc.kind == .rmw || acc.width ≥ 2 || !acc.sx then v / 2 ^ (8 * acc.skip)
  else sext (8 * acc.bytes) (match acc.dst with | .x _ => 64 | _ => 32) v

/-- A table or view of the control core is filled (R278), or its load is remembered as faulted (R275). -/
def fillTable (s : State) (k r v : Nat) (fault : Option LoadMark) : State :=
  let cl := clusterOf k; let e := engine s cl
  match fault with
  | some c => putEngine s cl { e with tabMark := fput e.tabMark r c }
  | none =>
    let e := { e with tabMark := fdel e.tabMark r }
    putEngine s cl (if r < 0x2C then { e with ct := fput e.ct (r - 0x28) v } else { e with cv := fput e.cv (r - 0x2C) v })

/-- LOAD_COMPLETION (R190, R195): a response fills its destination, marks it faulted, or fills and poisons it; a killed party's is
discarded (R198). -/
def execLoadCompletion (id : Nat) (s : State) : Out := event (fun s =>
  match req? s id with
  | some r =>
    if !returns r || !(r.stage == .returned || (r.acc.scratch && r.stage == .performed)) then s else
    let s := dropReq s id
    match party? s r.who.key r.who.uid with
    | none => s
    | some a =>
      if a.state == .exited then s else
      match r.acc.dst, r.fault with
      | .tab n, f => fillTable s r.who.key n r.result ((if r.poison then some .regPoison else f).map fun c => { code := c, acc := r.acc })
      | d, some c => putAgent s r.who.key (a.markDst d { code := c, acc := r.acc })
      | d, none =>
        let a := a.deliver d (loaded r.acc r.result)
        putAgent s r.who.key (if r.poison then a.poisonDst d else a)
  | none => s) s

/-- A register of a party as CAP.RDR reads it, by RCLS (R336, R338): none while it is empty; a faulted one reads 0. -/
def partyReg (a : Agent) (cls b : Nat) : Option (Nat × Bool) :=
  let one {w : Nat} (c : Cell w) : Option (Nat × Bool) := if c.mark.isSome then some (0, false) else if c.full then some (c.val.toNat, c.poison) else none
  match cls with
  | 0 => one (a.vcell b)
  | 1 => (match one (a.vcell b), one (a.vcell (b + 1)) with | some (x, p), some (y, q) => some (x + y * 2 ^ 32, p || q) | _, _ => none)
  | 2 => if a.pready b then some (if a.pval b then 1 else 0, b != 7 && a.ppoison.getLsbD b) else none
  | 3 => some (a.fl.toNat, false)
  | _ => one (a.xcell b)
/-- What a producer delivers: its value, or what it reads of another party when that can be read; a party that has gone reads 0. -/
def prodValue (s : State) (p : Prod) : Option (Nat × Bool) :=
  match p.src with
  | none => some (p.value, p.poison)
  | some (k, u, cls, b) =>
    match party? s k u with
    | some a => if a.state == .stepping then none else partyReg a cls b
    | none => some (0, false)

/-- PRODUCER_COMPLETION (R153): the destination is filled and FL written, whatever became of the thread short of its end. -/
def execProducerCompletion (id : Nat) (s : State) : Out := event (fun s =>
  match s.prods.find? (·.id == id) with
  | none => s
  | some p =>
    match prodValue s p with
    | none => s
    | some (v, bad) =>
      let s := { s with prods := s.prods.filter (·.id != id) }
      match party? s p.key p.uid with
      | some a =>
        if a.state == .exited then s else
        let b := a.deliver p.dst v
        putAgent s p.key { (if bad then b.poisonDst p.dst else b) with fl := a.fl ||| p.flags }
      | none => s) s

/-- A relaxed request of a party to a home that is not on the fabric yet and comes before a place in its program order (R375). -/
def relaxedBefore (s : State) (m : Marker) : Bool :=
  s.reqs.any fun r => r.who.uid == m.uid && r.seq < m.seq && (r.acc.rx || r.who.relaxed) && r.stage == .issued && homeOf s r == m.target &&
    (packetOf s (· ≤ 2) r.id).isNone
/-- A marker fence with one of its copies gone on: out to the target, or over a link. -/
def markerStep (s : State) (m : Marker) : State :=
  let put (s : State) (f : Marker → Marker) : State := { s with markers := s.markers.map fun x => if x.id == m.id then f x else x }
  let go (p : Packet) : Option State :=
    if p.path.length > 1 then forward s p
    else if mayLeave s p then some (put (takeOff s p m.id) fun x => { x with arrived := x.arrived + 1 }) else none
  match (s.fabric.filter fun p => p.kind == FlitKind.marker && p.mail.any (·.2 == m.id)).findSome? go with
  | some s => s
  | none =>
    match m.todo with
    | p :: t => if sourceStopped s (homePkg s m.target) true || relaxedBefore s m || !roomAt s p then s else put (send s p) fun x => { x with todo := t }
    | [] => s
/-- MARKER (R375): the copies of a marker fence, each after every relaxed flit that its source injected toward the target before it. -/
def execMarker (id : Nat) (s : State) : Out := event (fun s => match s.markers.find? (·.id == id) with | some m => markerStep s m | none => s) s
/-- MARKERACK (R375): once the last copy has arrived, the target acknowledges the fence, and with that it completes. -/
def execMarkerack (id : Nat) (s : State) : Out := event (fun s =>
  match s.markers.find? fun m => m.id == id && m.count ≤ m.arrived with
  | some m => travel s FlitKind.markerack id (markerackPacket s m) fun s => { s with markers := s.markers.filter (·.id != id) }
  | none => s) s

/-- INVAL (R317): the die L2 invalidates the line and its L1 copies, writes it back, and acknowledges. -/
def execInval (id : Nat) (s : State) : Out := event (fun s =>
  match s.invals.find? fun i => i.id == id && !i.acked with
  | some i => travel s FlitKind.inval id (invalPacket s i false) fun s =>
    { dropLines s (fun l => l.die == i.die && l.asid == i.asid && l.va == i.va) with
      invals := s.invals.map fun x => if x.id == id then { x with acked := true } else x }
  | none => s) s
/-- INVALACK (R317): the acknowledgement goes back to the home. -/
def execInvalack (id : Nat) (s : State) : Out := event (fun s =>
  match s.invals.find? fun i => i.id == id && i.acked with
  | some i => travel s FlitKind.invalack id (invalPacket s i true) fun s => { s with invals := s.invals.filter (·.id != id) }
  | none => s) s

/-! ### The instructions -/

/-- LD_S (R190): Compact 32-bit global load, a producer. -/
def execLdS (f : FormS) (s : State) : Out := issueS .ld f bodyLd s
/-- LD (R190): Global load in form L or X, plain or atomic, a producer. -/
def execLd (f : FormL) (s : State) : Out := issueL .ld f bodyLd s
/-- ST_S (R191): Compact 32-bit global store of the register that DST names. -/
def execStS (f : FormS) (s : State) : Out := issueS .st f bodySt s
/-- ST (R191): Global store in form L or X, plain or atomic. -/
def execSt (f : FormL) (s : State) : Out := issueL .st f bodySt s
/-- LDS_S (R190): Compact scratchpad load. -/
def execLdsS (f : FormS) (s : State) : Out := issueS .lds f bodyLds s
/-- LDS (R190): Scratchpad load in form L or X. -/
def execLds (f : FormL) (s : State) : Out := issueL .lds f bodyLds s
/-- STS_S (R191): Compact scratchpad store. -/
def execStsS (f : FormS) (s : State) : Out := issueS .sts f bodySts s
/-- STS (R191): Scratchpad store in form L or X. -/
def execSts (f : FormL) (s : State) : Out := issueL .sts f bodySts s
/-- LDL_S (R190): Compact thread-private load. -/
def execLdlS (f : FormS) (s : State) : Out := issueS .ldl f bodyLdl s
/-- LDL (R190): Thread-private load in form L or X. -/
def execLdl (f : FormL) (s : State) : Out := issueL .ldl f bodyLdl s
/-- STL_S (R191): Compact thread-private store. -/
def execStlS (f : FormS) (s : State) : Out := issueS .stl f bodyStl s
/-- STL (R191): Thread-private store in form L or X. -/
def execStl (f : FormL) (s : State) : Out := issueL .stl f bodyStl s
/-- ATOM (R193): Global atomic read-modify-write with return. -/
def execAtom (f : FormL) (s : State) : Out := issueL .atom f bodyAtom s
/-- ATOMS (R193): Scratchpad atomic read-modify-write with return. -/
def execAtoms (f : FormL) (s : State) : Out := issueL .atoms f bodyAtoms s
/-- RED (R193): Global atomic reduction without return. -/
def execRed (f : FormL) (s : State) : Out := issueL .red f bodyRed s
/-- FENCE (R215): Ends the region and orders the thread's accesses by order and scope. -/
def execFence (f : FormL) (s : State) : Out := issueL .fence f bodyFence s
/-- PREF (R194): Prefetches a line into L1 or L2. -/
def execPref (f : FormL) (s : State) : Out := issueL .pref f bodyPref s

end Sys2Proof.Machine
end

