-- ==== Sys2Proof/Machine/Collective.lean ====
section
/-!
DEFINITION. Sys2Proof/Machine/Collective.lean: the lane collectives and their rendezvous (R96 to R101, R117 to R123).
-/
namespace Sys2Proof.Machine

/-! ### Arriving -/

/-- The destination of a rendezvous instruction, a producer (R117). -/
def rdvDst (o : Op) (f : FormL) : Dst :=
  let d := f.dst.toNat
  match o with
  | .vote => if modBits f.mod 2 0 ≤ 2 then .p d else .v d 1
  | .shfl => .v d 1
  | .tred | .tscan => .v d (tyRegs (modTy f.mod))
  | _ => .none

/-- A participant waits at its rendezvous with its member mask and its operands, its destination empty (R98, R117); issuing one clears its
skip mark (R100). -/
def arrive (o : Op) (c : Ctx') (mask ra rb : Nat) : Go :=
  let part := partOf c.s c.a
  if o != .setpart && (mask / 2 ^ part != 0 || !bitN mask (laneOf c.k % part)) then
    .freeze c.s .partitionMismatch { x0 := BitVec.ofNat 32 mask }
  else .wait (c.upd fun a => { (a.openDst (rdvDst o c.f)) with inst := some (o, c.f, c.len), mask := mask, ra := ra, rb := rb, skips := [] }) .rendezvous

def bodySetpart (c : Ctx') : Go := arrive .setpart c 0xFFFFFFFF 0 (low 32 c.vb)
def bodyTsync (c : Ctx') : Go := arrive .tsync c (low 32 c.vb) 0 0
/-- VOTE and TRED with FLSRC read FL after the earlier FL-setting instructions (R118). -/
def afterFlags (fl : Bool) (c : Ctx') (g : Go) : Go := if fl && prodsOut c.s c.a.uid then .wait c.s .retry else g
def bodyVote (c : Ctx') : Go :=
  let fl := modBit c.mod 3
  afterFlags fl c (arrive .vote c (low 32 c.vb) (if fl then bitsN c.a.fl.toNat (modBits c.mod 7 5) (modBits c.mod 7 5) else c.va) 0)
def bodyShfl (c : Ctx') : Go := arrive .shfl c (low 32 c.vc) c.va (low 32 c.vb)
def bodyTred (c : Ctx') : Go :=
  let fl := modBit c.mod 7
  afterFlags fl c (arrive .tred c (low 32 c.vb) (if fl then c.a.fl.toNat else c.va) 0)
def bodyTscan (c : Ctx') : Go := arrive .tscan c (low 32 c.vb) c.va 0

/-! ### Completing (R98, R99) -/

/-- The first slot and the width of a participant's member set: its tile, or its static warp for SETPART. -/
def tileOf (s : State) (k : Nat) (a : Agent) : Nat × Nat :=
  match a.inst with
  | some (.setpart, _, _) => (k - laneOf k, 32)
  | _ => let p := partOf s a; (k - laneOf k % p, p)
/-- The named members of a participant, by tile-relative lane and key. -/
def named (s : State) (k : Nat) (a : Agent) : List (Nat × Nat) :=
  let (b, n) := tileOf s k a
  ((upFrom 0 n).filter fun i => bitN a.mask i).map fun i => (i, b + i)
def waitsRdv (a : Agent) : Bool := a.wait == .rendezvous && (a.state == .ready || a.state == .stepping)
def gone (s : State) (k : Nat) : Bool := match agent? s k with | none => true | some a => a.state == .exited
/-- A member has arrived at a PC (R98): it has gone, or it waits or holds a skip mark there and is not FROZEN or HELD; a STEPPING one counts as
WAITING while it waits, and as FROZEN while it does not (R91). -/
def arrivedAt (s : State) (pc : DWord) (k : Nat) : Bool :=
  match agent? s k with
  | none => true
  | some m => m.state == .exited || ((m.state == .ready || (m.state == .stepping && m.wait != .none)) && (m.skips.contains pc || (waitsRdv m && m.pc == pc)))
/-- The waiting participants of a static warp. -/
def waiters (s : State) (k : Nat) : List (Nat × Agent) := s.agents.filter fun (j, b) => j / 32 == k / 32 && !isTask j && waitsRdv b
/-- Every live named member waits at a rendezvous, at PCs that are not all equal (R99). -/
def mismatched (s : State) (k : Nat) (a : Agent) : Option (List Nat) :=
  let live := ((named s k a).map (·.2)).filter fun j => !gone s j
  if live.all (fun j => (agent? s j).any waitsRdv) && live.any (fun j => (agent? s j).any fun b => b.pc != a.pc) then some live else none
/-- The participants of one rendezvous: those that wait at one PC in one tile (R98; that other tiles are apart is log 59). -/
def peers (s : State) (k : Nat) (a : Agent) : List (Nat × Agent) :=
  (waiters s k).filter fun (j, b) => b.pc == a.pc && tileOf s j b == tileOf s k a
/-- Those of them with one member mask: they contribute to one result. -/
def partners (s : State) (k : Nat) (a : Agent) : List (Nat × Agent) := (peers s k a).filter fun (_, b) => b.mask == a.mask
/-- Every member that a participant of the rendezvous names has arrived. -/
def rdvReady (s : State) (k : Nat) (a : Agent) : Bool :=
  (peers s k a).all fun (j, b) => (named s j b).all fun (_, m) => arrivedAt s a.pc m

/-- Participants at one PC and tile whose masks share a bit and differ (R99). -/
def clashing (s : State) (k : Nat) (a : Agent) : List Nat :=
  let g := peers s k a
  (g.filter fun (_, b) => g.any fun (_, d) => d.mask != b.mask && d.mask &&& b.mask != 0).map (·.1)

/-- One folding step of TYPE t (R120). -/
def foldOp (t op rnd : Nat) (sat : Bool) (x y : Nat) : Nat × BitVec 5 :=
  let w := tyBits t; let f := tyFmt t; let sg := tySigned t
  if t ≥ 4 then
    match op with
    | 0 => finish f [f.decode x, f.decode y] false (addExact (f.decode x) (f.decode y) rnd) rnd
    | n => minmaxF f (n == 2) x y
  else
    (match op with
     | 0 => narrow w sg sat (asInt t x + asInt t y)
     | 1 => if asInt t x ≤ asInt t y then x else y
     | 2 => if asInt t x ≤ asInt t y then y else x
     | 3 => x &&& y
     | 4 => x ||| y
     | _ => x ^^^ y, 0)
/-- The identity of an operation (R120). -/
def identity (t op : Nat) : Nat :=
  let w := tyBits t; let f := tyFmt t
  match op with
  | 1 => if t ≥ 4 then f.inf false else ofS w (intMax w (tySigned t))
  | 2 => if t ≥ 4 then f.inf true else ofS w (intMin w (tySigned t))
  | 3 => 2 ^ w - 1
  | _ => 0
def foldAll (t op rnd : Nat) (sat : Bool) : List Nat → Nat × BitVec 5
  | [] => (identity t op, 0)
  | v :: vs => vs.foldl (fun (r, fl) x => let (r', fl') := foldOp t op rnd sat r x; (r', fl ||| fl')) (v, 0)

/-- The result that one participant receives, with its flags: none for TSYNC and SETPART. -/
def rdvResult (s : State) (k : Nat) (a : Agent) (o : Op) (f : FormL) (ps : List (Nat × Agent)) : Nat × BitVec 5 :=
  let m := f.mod
  let (b, n) := tileOf s k a
  let i := k - b
  let vals := ps.map fun (j, p) => (j - b, p.ra)
  let at_ (j : Nat) : Option Nat := (vals.find? (·.1 == j)).map (·.2)
  match o with
  | .vote =>
    let xs := (named s k a).map fun (j, _) => (j, (at_ j).getD 0 % 2)
    let ones := (xs.filter (·.2 == 1)).length
    (match modBits m 2 0 with
     | 0 => if ones == xs.length then 1 else 0
     | 1 => if ones > 0 then 1 else 0
     | 2 => if ones == 0 || ones == xs.length then 1 else 0
     | 3 => (xs.map fun (j, x) => x * 2 ^ j).foldl (· + ·) 0
     | _ => ones, 0)
  | .shfl =>
    let d := a.rb
    let src : Int := match modBits m 1 0 with | 0 => d | 1 => (i : Int) - d | 2 => (i : Int) + d | _ => (i ^^^ d : Nat)
    (if 0 ≤ src && src < n && bitN a.mask src.toNat then (at_ src.toNat).getD a.ra else a.ra, 0)
  | .tred => foldAll (modTy m) (modCode m) (modRnd m) (modBit m 9) (vals.map (·.2))
  | .tscan =>
    let pre := vals.filter fun (j, _) => j < i || (j == i && !modBit m 6)
    foldAll (modTy m) (modCode m) (modRnd m) (modBit m 9) (pre.map (·.2))
  | _ => (0, 0)

/-- A participant completes: its destination and FL, then the next instruction. -/
def finishRdv (s : State) (k : Nat) (o : Op) (f : FormL) (len : Nat) (r : Nat × BitVec 5) : State :=
  match agent? s k with
  | none => s
  | some a =>
    let b := a.deliver (rdvDst o f) r.1
    settle k a len (.next (putAgent s k { b with fl := b.fl ||| r.2, inst := none, wait := .none }))

/-- SETPART at completion (R122): the new width of the static warp, or a mismatch. -/
def setPart (s : State) (k : Nat) (ps : List (Nat × Agent)) : Option State :=
  match ps, agent? s k with
  | (_, p) :: _, some a =>
    if [2, 4, 8, 16, 32].contains p.rb && ps.all (fun (_, q) => q.rb == p.rb) then
      match group? s a.group with
      | some g => some (putGroup s a.group { g with part := fput g.part (a.lin / 32) p.rb })
      | none => some s
    else none
  | _, _ => some s

/-- A participant that freezes at its rendezvous has written nothing (R123): its destination is as it was. -/
def mismatchFreeze (s : State) (code : FCode) (k : Nat) : State :=
  match agent? s k with
  | some a =>
    let b := match a.inst with | some (o, f, _) => a.refillDst (rdvDst o f) | none => a
    freeze (putAgent s k { b with inst := none, stopLen := (a.inst.elim 8 (·.2.2)) }) k code { x0 := BitVec.ofNat 32 a.mask }
  | none => s

/-- What is due at a participant's rendezvous (R98, R99, R122). Where both conditions of R99 hold at once, RENDEZVOUS_MISMATCH is taken:
DESIGN CHOICE, log 58. -/
def rendezvous (k : Nat) (s : State) : State :=
  match agent? s k with
  | none => s
  | some a =>
    match waitsRdv a, a.inst with
    | true, some (o, f, len) =>
      match mismatched s k a with
      | some l => l.foldl (fun s j => mismatchFreeze s .rendezvousMismatch j) s
      | none =>
        let cl := clashing s k a
        if !cl.isEmpty then cl.foldl (fun s j => mismatchFreeze s .partitionMismatch j) s
        else if !rdvReady s k a then s
        else
          let ps := peers s k a
          let rs := ps.map fun (j, p) => (j, rdvResult s j p o f (partners s j p))
          let spent := (ps.flatMap fun (j, p) => named s j p).foldl
            (fun s (_, j) => modAgent s j fun m => { m with skips := m.skips.filter (· != a.pc) }) s
          match (if o == .setpart then setPart spent k ps else some spent) with
          | none => ps.foldl (fun s (j, _) => mismatchFreeze s .partitionMismatch j) s
          | some s => rs.foldl (fun s (j, r) => finishRdv s j o f len r) s
    | _, _ => s

/-- A participant's rendezvous has something due. -/
def rdvDue (s : State) (k : Nat) (a : Agent) : Bool :=
  waitsRdv a && ((mismatched s k a).isSome || !(clashing s k a).isEmpty || rdvReady s k a)

/-- RENDEZVOUS_COMPLETION (R98): every participant receives its result, or the mismatches of R99 freeze theirs. -/
def execRendezvousCompletion (k : Nat) (s : State) : Out := event (rendezvous k) s

/-! ### The instructions -/

/-- SETPART (R122): Rendezvous of the static warp that sets its partition width. -/
def execSetpart (f : FormL) (s : State) : Out := issueL .setpart f bodySetpart s
/-- VOTE (R118): Rendezvous vote over the members' predicate or FL bits. -/
def execVote (f : FormL) (s : State) : Out := issueL .vote f bodyVote s
/-- SHFL (R119): Rendezvous shuffle of register values between tile members. -/
def execShfl (f : FormL) (s : State) : Out := issueL .shfl f bodyShfl s
/-- TRED (R120): Rendezvous reduction over the contributing members in lane order. -/
def execTred (f : FormL) (s : State) : Out := issueL .tred f bodyTred s
/-- TSCAN (R120): Rendezvous prefix scan over the contributing members. -/
def execTscan (f : FormL) (s : State) : Out := issueL .tscan f bodyTscan s
/-- TSYNC (R121): Rendezvous with no other effect. -/
def execTsync (f : FormL) (s : State) : Out := issueL .tsync f bodyTsync s

end Sys2Proof.Machine
end

