-- ==== Sys2Proof/Machine/Barrier.lean ====
section
/-!
DEFINITION. Sys2Proof/Machine/Barrier.lean: the group barrier (R216 to R220) and memory barrier objects (R221 to R229).
-/
namespace Sys2Proof.Machine

/-! ### Shared -/

/-- Every earlier access of a party has been performed at GRP, CLU or DIE scope (R213). -/
def performedNear (s : State) (uid : Nat) : Bool := s.reqs.all fun r => r.who.uid != uid || performed r

/-- The oldest pending delivery comes before any effect of a QWAIT, TWAIT or BAR.* (R239). -/
def delivering (c : Ctx') (g : Go) : Go :=
  match c.a.pending with
  | [] => g
  | d :: t => .freeze (putAgent c.s c.k { c.a with pending := t }) d.code { qid := d.qid, entry := d.entry, x0 := d.x0, other := true }

/-! ### The group barrier -/

def groupAgents (s : State) (g : Nat) : List (Nat × Agent) := s.agents.filter fun (_, a) => a.kind == .thread && a.group == g

/-- The phase of a group completes (R217): every thread that has not exited is ARRIVED, and there is one. -/
def phaseDue (s : State) (g : Nat) : Bool :=
  let live := (groupAgents s g).filter fun (_, a) => a.state != .exited
  !live.isEmpty && live.all fun (_, a) => a.bar == .arrived

/-- Completes a due phase: every arrived thread becomes PASSED with what the phase's arrivals released, and those that wait go on. -/
def barPhase (s : State) (g : Nat) : State :=
  if !phaseDue s g then s else
  let clk := ((groupAgents s g).filter fun (_, a) => a.bar == .arrived).foldl (fun c (_, a) => cmax c a.barClk) []
  let waits := ((groupAgents s g).filter fun (_, a) => a.wait == .barrier).map (·.1)
  let s := { s with agents := s.agents.map fun (k, a) =>
    if a.kind == .thread && a.group == g && a.bar == .arrived then (k, { a with bar := .passed, barClk := clk }) else (k, a) }
  let s := match group? s g with | some x => putGroup s g { x with phases := x.phases + 1 } | none => s
  waits.foldl (fun s k => finishWait (modAgent s k fun a => { a with bar := .none }) k none clk) s

/-- An arrival at the group barrier: a release at GRP scope (R218). -/
def Agent.arrive (a : Agent) : Agent := let b := a.endRegion; { b with bar := .arrived, barClk := b.relClk }
/-- The wait half from PASSED: an acquire at GRP scope. -/
def Agent.pass (a : Agent) : Agent := { (a.acquire a.barClk) with bar := .none }

/-- A BAR.* issued by a dynamic warp: all its arrivals take effect, and then the phases of their groups are tested (R217). -/
def barPhases (s : State) (ks : List Nat) : State :=
  ks.foldl (fun s k => match agent? s k with | some a => if a.kind == .thread then barPhase s a.group else s | none => s) s
def issueBar (o : Op) (f : FormL) (body : Ctx' → Go) (s : State) : Out :=
  .next (barPhases (s.issuing.foldl (issueOne o f (lenOf f) body) s) s.issuing)

/-- The arrival of BAR.ARV and BAR.SYNC, with what follows it (R220). -/
def arriving (c : Ctx') (g : State → Go) : Go :=
  delivering c <|
    if c.a.bar == .arrived then .freeze c.s .barrierOverrun {}
    else if !performedNear c.s c.a.uid then .wait c.s .retry
    else g (c.upd Agent.arrive)

def bodyBarArv (c : Ctx') : Go := arriving c .next
def bodyBarSync (c : Ctx') : Go := arriving c fun s => .wait (modAgent s c.k fun a => { a with inst := some (.barSync, c.f, c.len) }) .barrier
def bodyBarWait (c : Ctx') : Go :=
  delivering c <|
    match c.a.bar with
    | .none => .next (c.upd Agent.endRegion)
    | .passed => .next (c.upd fun a => a.endRegion.pass)
    | .arrived => .wait (c.upd fun a => { a.endRegion with inst := some (.barWait, c.f, c.len) }) .barrier

/-! ### Memory barrier objects -/

/-- An MB* may be performed now: its party's earlier accesses have been performed at CLU scope (R225, R227), no fence holds it (R215), and no
lower lane of its dynamic warp waits to perform its own (R222). -/
def mbReady (c : Ctx') : Bool :=
  performedNear c.s c.a.uid &&
  !c.a.fences.any (fenceHolds c.s (c.s.reqs.filter (·.who.uid == c.a.uid)) c.a.uid c.a.seq false) &&
  (c.s.issuing.takeWhile (· != c.k)).all fun j => match agent? c.s j with | some b => !(b.pc == c.a.pc && b.wait == .retry) | none => true

/-- An MB* instruction: the object's checks, then its effect on the object, with the value written to DST. -/
def onObject (c : Ctx') (g : List Nat → MbObj → Go) : Go :=
  let off := low 32 c.va
  match mbLocs c.s c.a off with
  | .inl code => .freeze c.s code { addr := BitVec.ofNat 64 off }
  | .inr locs => g locs (mbOf (readLocs c.s.sram locs))
def Ctx'.obj (c : Ctx') : DWord := BitVec.ofNat 64 (low 32 c.va)
/-- An arrival or drop that the object refuses: OVR := 1 and the thread freezes. -/
def mbOverrun (c : Ctx') (locs : List Nat) (o : MbObj) : Go :=
  .freeze (mbPut (mbTouch c.s (whoOf c.k c.a) locs c.obj) locs { o with ovr := true }) .barrierOverrun { addr := c.obj }

def bodyMbinit (c : Ctx') : Go := onObject c fun locs o =>
  let n := low 32 c.vb
  if n > 65535 then .freeze c.s .barrierOverrun { addr := c.obj }
  else if !mbReady c then .wait c.s .retry
  else
    let s := mbPut (mbTouch c.s (whoOf c.k c.a) locs c.obj) locs { o with expected := n, arrived := 0, ovr := false, drop := false, pend := 0 }
    .next (endRegion s c.k)

def bodyMbarv (c : Ctx') : Go := onObject c fun locs o =>
  let n := low 32 c.vb
  if o.arrived + n > o.expected then mbOverrun c locs o
  else if !mbReady c then .wait c.s .retry
  else
    match mbArrive c.s (whoOf c.k c.a) locs c.obj n (low 32 c.vc) with
    | .inl s => .freeze s .barrierOverrun { addr := c.obj }
    | .inr (s, o) =>
      let s := endRegion s c.k
      -- a producer (R219): the phase that the arrival belongs to
      .next (if c.f.dst.toNat == 255 then s else
        produce s c.k ((agent? s c.k).getD c.a) (.v c.f.dst.toNat 1) o.phase 0 (poisonedWords c.s (wordsOfLocs locs)))

/-- MBTEST and MBWAIT read the phase; a true result acquires every phase that the object has completed (R223, R226). -/
def phasePassed (c : Ctx') (locs : List Nat) (o : MbObj) (r : Bool) : State :=
  let s := mbPut (mbTouch c.s (whoOf c.k c.a) locs c.obj) locs o
  let clk := objClock s (locs.headD 0)
  let bad := poisonedWords c.s (wordsOfLocs locs)
  modAgent s c.k fun a =>
    let a := (a.setP c.f.dst.toNat r).endRegion
    let a := if bad then a.poisonP c.f.dst.toNat else a
    if r then a.acquire clk else a
def bodyMbtest (c : Ctx') : Go := onObject c fun locs o =>
  if !mbReady c then .wait c.s .retry
  else .next (phasePassed c locs o (o.phase != low 4 c.vb))
def bodyMbwait (c : Ctx') : Go := onObject c fun locs o =>
  if !mbReady c then .wait c.s .retry
  else if o.phase != low 4 c.vb then .next (phasePassed c locs o true)
  else
    let s := mbPut (mbTouch c.s (whoOf c.k c.a) locs c.obj) locs o
    .wait (modAgent s c.k fun a => { a.endRegion with inst := some (.mbwait, c.f, c.len) }) (.object (locs.headD 0) (low 4 c.vb) (modBits c.mod 7 0))

def bodyMbdrop (c : Ctx') : Go := onObject c fun locs o =>
  let n := low 32 c.vb
  if o.expected < o.arrived + n then mbOverrun c locs o
  else if !mbReady c then .wait c.s .retry
  else
    let w := whoOf c.k c.a
    let s := mbRelease (mbTouch c.s w locs c.obj) (locs.headD 0)
      { uid := w.uid, place := w.place, scope := 2, clk := fput w.clk w.uid (w.region + 1) }
    .next (endRegion (mbSettle s locs { o with expected := o.expected - n, drop := o.drop || n != 0 }) c.k)

/-- MBWAIT_LIMIT_EXPIRY (R226): LIMIT × 1024 cycles have passed, and the wait completes with false. -/
def execMbwaitLimitExpiry (k : Nat) (s : State) : Out := event (fun s =>
  match agent? s k with
  | some a => (match a.wait with
    | .object _ _ limit => if limit != 0 && 1024 * limit ≤ a.waited then finishWait s k (some false) [] else s
    | _ => s)
  | none => s) s

/-! ### The instructions -/

/-- BAR_SYNC (R220): Arrives at the group barrier and waits for the phase. -/
def execBarSync (f : FormL) (s : State) : Out := issueBar .barSync f bodyBarSync s
/-- BAR_ARV (R220): Arrives at the group barrier, releasing at GRP scope. -/
def execBarArv (f : FormL) (s : State) : Out := issueBar .barArv f bodyBarArv s
/-- BAR_WAIT (R220): Waits for the group barrier phase and acquires. -/
def execBarWait (f : FormL) (s : State) : Out := issueL .barWait f bodyBarWait s
/-- MBINIT (R224): Initialises a memory barrier object's counts. -/
def execMbinit (f : FormL) (s : State) : Out := issueL .mbinit f bodyMbinit s
/-- MBARV (R225): Arrives at a memory barrier object with a count and byte total. -/
def execMbarv (f : FormL) (s : State) : Out := issueL .mbarv f bodyMbarv s
/-- MBWAIT (R226): Waits until an object's phase differs from p, or until LIMIT expires. -/
def execMbwait (f : FormL) (s : State) : Out := issueL .mbwait f bodyMbwait s
/-- MBTEST (R226): Tests whether an object's phase differs from p. -/
def execMbtest (f : FormL) (s : State) : Out := issueL .mbtest f bodyMbtest s
/-- MBDROP (R227): Lowers EXPECTED of a memory barrier object. -/
def execMbdrop (f : FormL) (s : State) : Out := issueL .mbdrop f bodyMbdrop s

end Sys2Proof.Machine
end

