-- ==== Sys2Proof/Machine/Queue.lean ====
section
/-!
DEFINITION. Sys2Proof/Machine/Queue.lean: queues (R231 to R239, R434), signals (R240), triggers (R241, R242), copy entries and boxes (R243 to
R246), and the queue instructions (R247 to R254).
-/
namespace Sys2Proof.Machine

/-! ### Records, rings and pushes (R233, R234) -/

def QState.num : QState → Nat
  | .disabled => 0 | .idle => 1 | .active => 2 | .faulted => 3 | .halted => 4 | .saved => 5

/-- The 64-byte record of a queue. -/
def Queue.image (q : Queue) : Nat :=
  q.ring.toNat + q.logn * 2 ^ 64 + q.qidf.getD q.qid * 2 ^ 72 + (if q.en then 2 ^ 78 else 0) + (if q.hoe then 2 ^ 79 else 0) + (if q.dbe then 2 ^ 80 else 0) +
  q.flags.toNat * 2 ^ 96 + q.fen.toNat * 2 ^ 104 + (if q.err then 2 ^ 112 else 0) + q.state.num * 2 ^ 113 + q.lastcode * 2 ^ 120 +
  q.pushed % 2 ^ 64 * 2 ^ 128 + q.doneN % 2 ^ 64 * 2 ^ 192 + q.errnum % 2 ^ 64 * 2 ^ 256 + q.bmap.toNat * 2 ^ 320

/-- Changes a queue and its record in the queue area. -/
def setQueue (s : State) (qk : Nat) (q : Queue) : State := deviceWrite (putQueue s qk q) q.asid q.recVa.toNat 64 q.image
def modQueue (s : State) (qk : Nat) (f : Queue → Queue) : State := match queue? s qk with | some q => setQueue s qk (f q) | none => s
/-- Changes a queue's head entry. -/
def modHead (s : State) (qk : Nat) (f : Head → Head) : State :=
  match queue? s qk with
  | some q => putQueue s qk { q with head := q.head.map f }
  | none => s

def Queue.cap (q : Queue) : Nat := 2 ^ q.logn
def Queue.slotVa (q : Queue) (n : Nat) : Nat := (q.ring.toNat + 64 * (n % q.cap)) % 2 ^ 64
def Queue.statusVa (q : Queue) (n : Nat) : Nat := (q.ring.toNat + 64 * q.cap + 4 * (n % q.cap)) % 2 ^ 64
def Queue.full (q : Queue) : Bool := q.cap ≤ q.pushed - q.doneN
/-- The kind of a queue (R231). -/
def Queue.kind (q : Queue) : Nat := q.qid / 8
def disabled (s : State) (qk : Nat) : Bool := match queue? s qk with | some q => q.state == .disabled | none => true
/-- The base die whose processor runs a queue (R232). -/
def queueHome (s : State) (q : Queue) : Nat := (classify s q.asid q.recVa.toNat).elim 0 (·.home)

/-- A queue with new entries: IDLE becomes ACTIVE (R236), in a SAVED queue for its return (R235). -/
def Queue.woken (q : Queue) : Queue :=
  { q with state := if q.state == .idle then .active else q.state, kept := if q.state == .saved && q.kept == .idle then .active else q.kept }
/-- A push: the entry, its status word, then PUSHED (R234). A TASK queue out of its slot keeps its pending entries itself. -/
def pushEntry (s : State) (qk img : Nat) (m : EntryMeta) : State :=
  match queue? s qk with
  | none => s
  | some q =>
    let q' := { q with ents := fput q.ents q.pushed m, pushed := q.pushed + 1 }.woken
    if q.kind == 4 && q.state == .saved then putQueue s qk { q' with out := fput q.out q.pushed (img, 0) }
    else setQueue (deviceWrite (deviceWrite s q.asid (q.slotVa q.pushed) 64 img) q.asid (q.statusVa q.pushed) 4 0) qk q'

def ctxState (s : State) (asid : Nat) : CState := (ctx? s asid).elim .free (·.state)
/-- The context's queues run (R349); a new entry starts only in RUNNING (R355). -/
def queuesRun (s : State) (asid : Nat) : Bool := ctxState s asid == .running || ctxState s asid == .cutting
/-- The units of a context issue: in RUNNING, and in CUTTING until the freeze wire has fallen (R349, R355). -/
def ctxIssues (s : State) (asid : Nat) : Bool :=
  match ctx? s asid with
  | some c => c.state == .running || (c.state == .cutting && !c.cut.any (·.ready))
  | none => false

/-! ### The head entry (R236, R237) -/

/-- The die of a MASH queue. -/
def Queue.die (q : Queue) : Nat := q.qid % 8
/-- Where the entries of a queue act from (R204). -/
def entryPlace (s : State) (q : Queue) : Place :=
  if q.kind == 3 then { die := some q.die } else { die := none, stack := queueHome s q }
def entryWho (s : State) (q : Queue) (img uid : Nat) (clk : Clock) : Who :=
  { uid := uid, region := 0, clk := clk, place := entryPlace s q, key := 0, asid := q.asid, tasid := q.asid, engine := true, pc := 0
    -- copies without ORD travel relaxed, and the entries of a mash, which have no ORD (R370)
    relaxed := q.kind == 3 || (q.kind == 1 && !bitN img 10) }
/-- What an entry has released at its end (R212). -/
def Who.ended (w : Who) : Clock := fput w.clk w.uid (w.region + 1)

def startable (s : State) (q : Queue) : Bool :=
  ctxState s q.asid == .running && q.en && q.state == .active && q.head.isNone && q.doneN < q.pushed

/-- The next entry becomes the head: its start acquires the previous entry's completion and its push (R205). -/
def startHead (s : State) (qk : Nat) (q : Queue) : Option (State × Head) :=
  match deviceFetch s q.asid (q.slotVa q.doneN) 64 with
  | none => none
  | some (img, s) =>
    let m := fgetD q.ents q.doneN { host := true }
    let (uid, s) := freshUid s
    let h : Head := { num := q.doneN, img := img, who := entryWho s q img uid (cmax q.clk m.clk), code := m.code }
    some (putQueue s qk { q with head := some h }, h)

/-- The head is finished with a code; an error that it already holds stays (R238, R389). -/
def finishHead (s : State) (qk code : Nat) : State :=
  modHead s qk fun h => { h with finished := true, code := if h.code == 0 then code else h.code }
def headCode (s : State) (qk code : Nat) : State := modHead s qk fun h => { h with code := if h.code == 0 then code else h.code }
def entMeta (q : Queue) (n : Nat) : EntryMeta := fgetD q.ents n { host := true }

/-! ### Signals (R240) -/

inductive SigRes where
  /-- added or logged; `true` says that it met a plain access of another engine (R207) -/
  | done (s : State) (race : Bool)
  | wait | misaligned | prot | poisoned
  | full (home : Nat)
  deriving DecidableEq, Repr

def addAccess (va val : Nat) : Access :=
  { kind := .rmw, scratch := false, addr := BitVec.ofNat 64 va, locs := [], bytes := 8, op := 0, data := val % 2 ^ 64, width := 3, order := 3,
    scope := 5, sig := true, pc := 0 }

/-- An addition to a signal by an engine or a queue processor: a release at SYS scope. -/
def addSignal (s : State) (w : Who) (va val : Nat) : SigRes :=
  if va % 8 != 0 then .misaligned else
  match locate s w.place w.tasid va .rmw 8 with
  | .prot => .prot
  | .poisoned _ => .poisoned
  | .wait => .wait
  | .absent h => (match logWrite s h w (addAccess va val) with | some s => .done s false | none => .full h)
  | .at_ pa home leaf s =>
    if paPkg pa ≥ 240 then .prot else
    if !crossNow s { w with relaxed := false } (addAccess va val) home then .wait else
    match performPhys (invalidateFor s pa none) w (addAccess va val) 0 pa home leaf with
    | .done s _ _ r => .done s r
    | _ => .wait

/-- The record of a queue entry (R327), at the queue's own base die. -/
def entryRec (s : State) (q : Queue) (num : Nat) (code : FCode) (addr x0 x1 : Nat) (t : Target) : Rec :=
  { code := code, kind := 2, addr := BitVec.ofNat 64 addr, party := BitVec.ofNat 32 (s.package * 2 ^ 21), qid := q.qid, entry := num,
    x0 := BitVec.ofNat 32 x0, x1 := BitVec.ofNat 32 x1, target := t, asid := q.asid }
/-- An entry stops: its queue goes FAULTED with a record of its own (R236, R245). -/
def stopEntry (s : State) (qk : Nat) (q : Queue) (num : Nat) (code : FCode) (addr x0 x1 : Nat) (t : Target) : State :=
  queueRec (modQueue s qk fun q => { q with state := .faulted }) (entryRec s q num code addr x0 x1 t)

/-! ### Completion (R238, R239) -/

/-- Adds to a residency token of a cluster set (R254). -/
def addToken (s : State) (ck tok : Nat) (clk : Clock) : State :=
  match cset? s ck with
  | none => s
  | some c =>
    if c.retired then s else
    let v := (fgetD c.toks tok 0 + 1) % 65536
    putCSet s ck { c with toks := fput c.toks tok v, adds := c.adds ++ [{ tok := tok, count := v, clk := clk }] }

/-- The cluster set that an entry's scratchpad endpoints belong to: that of the group that issued it, while the group is resident. -/
inductive Endpoint where
  | here (c : CSet) (key : Nat)
  | saved
  | lost
  deriving DecidableEq, Repr
def endpoint (s : State) (m : EntryMeta) : Endpoint :=
  match if m.gone then none else m.group.bind (group? s) with
  | none => .lost
  | some g =>
    if g.state == .saved then .saved
    else match cset? s g.cset with | some c => if c.placed then .here c g.cset else .saved | none => .lost
/-- The key of the cluster set of the group that issued an entry. -/
def entrySet (s : State) (m : EntryMeta) : Option Nat :=
  m.group.bind fun g => (kernel? s (g / 2 ^ 64)).map fun k => gkey (g / 2 ^ 64) (g % 2 ^ 64 / k.perSet)
/-- The cluster set of the group that issued an entry, whatever became of the group: its object and its token are there while the set is
(R228, R238, R254). -/
def entryCSet (s : State) (m : EntryMeta) : Option (Nat × CSet) := (entrySet s m).bind fun ck => (cset? s ck).map fun c => (ck, c)

/-- The signal that an entry adds 1 to at its completion (R158, R238, R245, R292, R297, R381): a LAUNCH's that was rejected or killed, whose
own retirement adds nothing (R162). Where an address of 0 names no signal, the rule of the kind says so. -/
def entrySignal (q : Queue) (h : Head) : Option Nat :=
  let img := h.img
  match q.kind with
  | 0 =>
    let v := bitsN img 447 384
    if ((1 ≤ h.code && h.code ≤ 6) || h.code == 0x25) && v != 0 && v % 8 == 0 then some v else none
  | 1 => if bitsN img 12 11 == 1 then some (bitsN img 127 64) else none
  | 2 =>
    let op := bitsN img 7 0
    if !bitN img (if op == 0x10 then 8 else 15) then none
    else if op == 0x10 then some (bitsN img 127 64)
    else if 1 ≤ op && op ≤ 7 then some (bitsN img 95 32) else none
  | 3 =>
    -- the entry image of a mash instruction (Machine/Mash.lean): its opcode, MOD and operand a
    let op := bitsN img 7 0
    (if op == 0x90 || op == 0x9F then some (bitsN img 127 64) else if bitN img 40 then some q.siga.toNat else none).filter (· != 0)
  | _ => none

/-- What an entry's completion action answers. -/
inductive Act where
  | done (s : State) (code : Nat)
  | wait
  | stop (addr : Nat)
  deriving DecidableEq, Repr

/-- What CPY and CPYT check of a completion operand, nothing checks in an image that a trigger pushes: there a token number of 64 or more
counts a token that nothing reads, and an object's offset is taken as it stands, or no decrement is made where it names no scratchpad: DESIGN
CHOICE, log 79. -/
def completionAction (s : State) (q : Queue) (h : Head) : Act :=
  let m := entMeta q h.num
  if m.marker.isSome then .done s h.code else
  let comp := if q.kind == 1 then bitsN h.img 12 11 else 0
  match entrySignal q h with
  | some va =>
    match addSignal s h.who va 1 with
    | .done s race => .done s (or race 0x22)
    | .wait => .wait
    | .misaligned => .done s h.code
    | .full _ => .stop va
    | _ => .done s (or true 0x21)
  | none =>
  if comp ≥ 2 && h.code != 0x24 then
    match entryCSet s m with
    | none => .done s h.code
    | some (ck, c) =>
      let n := bitsN h.img 287 256 * bitsN h.img 319 288
      if comp == 3 then .done (addToken s ck (bitsN h.img 127 64) h.who.ended) h.code
      -- the decrement is kept until the group is restored (R228)
      else if !c.placed then .done (modQueueAt s q { off := bitsN h.img 95 64, cset := ck, bytes := n, who := h.who }) h.code
      else
        match scratchLocs s c none (bitsN h.img 95 64) 16 false with
        | some l => let (s, race) := mbDecrement s h.who l n; .done s (or race 0x22)
        | none => .done s h.code
  else .done s h.code
where
  /-- An error that the entry already holds stays. -/
  or (bad : Bool) (code : Nat) : Nat := if bad && h.code == 0 then code else h.code
  modQueueAt (s : State) (q : Queue) (d : Decrement) : State :=
    { s with queues := s.queues.map fun (n, x) => (n, if x.asid == q.asid && x.qid == q.qid then { x with decs := x.decs ++ [d] } else x) }

/-- The status word, DONE, the error fields, the delivery to the issuer, and the queue's next state. -/
def retireEntry (s : State) (qk : Nat) (q : Queue) (h : Head) (code : Nat) : State :=
  let m := entMeta q h.num
  let s := deviceWrite s q.asid (q.statusVa h.num) 4 (code + (if h.wldrop then 256 else 0) + 2 ^ 31)
  let bad := code != 0; let d := q.doneN + 1
  let st := if !q.en then .disabled else if bad && q.hoe then .halted else if d < q.pushed then .active else .idle
  let s := setQueue s qk { q with
    head := none, doneN := d, ents := fdel q.ents h.num, clk := cmax q.clk h.who.ended, state := st
    err := q.err || bad, lastcode := if bad then code else q.lastcode, errnum := if bad && !q.err then h.num else q.errnum
    kdecl := if code == 0x30 || code == 0x31 then 0 else q.kdecl
    siga := if q.kind == 3 && bitsN h.img 7 0 == 0x9F && !m.marker.isSome then 0 else q.siga }
  -- a mash region is READY again (R288)
  let x := dieSt s q.die
  let s := if q.kind == 3 && x.mash.state == 3 && x.mash.owned && x.mash.owner == q.asid then putDie s q.die { x with mash := { x.mash with state := 2 } } else s
  if bad then deliverTo s m.issuer { code := .queueError, qid := q.qid, entry := h.num, x0 := BitVec.ofNat 32 code } else s

/-- Marker fences of an entry or node to the homes of its relaxed traffic (R375). -/
def markHomes (s : State) (w : Who) (homes : List Nat) : State := homes.foldl (fun s h => putMarker s w.uid 0 w.place h 3 5) s
/-- Marker fences of a party are out. -/
def marking (s : State) (uid : Nat) : Bool := s.markers.any (·.uid == uid)

/-- An entry that has finished its work completes, once the marker fences of its relaxed traffic have (R375). -/
def completeEntry (qk : Nat) (s : State) : State :=
  match queue? s qk with
  | none => s
  | some q =>
    match q.head with
    | none => s
    | some h =>
      if !h.finished || !queuesRun s q.asid || q.state == .faulted || marking s h.who.uid then s
      else if !h.homes.isEmpty then markHomes (modHead s qk fun h => { h with homes := [] }) h.who h.homes
      else
      match completionAction s q h with
      | .wait => s
      | .stop va => stopEntry s qk q h.num .sideLogFull va 1 0 (.entry qk h.num)
      | .done s code => (match queue? s qk with | some q => retireEntry s qk q h code | none => s)

/-- Sets engine flags of a queue; one that rises with its FEN bit set is delivered to the entry's issuer (R78, R239). -/
def raiseFlags (s : State) (qk : Nat) (issuer : Option (Nat × Nat)) (num : Nat) (fl : BitVec 5) : State :=
  match queue? s qk with
  | none => s
  | some q =>
    let up := fl &&& ~~~q.flags
    if up == 0 then s else
    let s := setQueue s qk { q with flags := q.flags ||| fl }
    if up &&& q.fen == 0 then s else deliverTo s issuer { code := .fpEngine, qid := q.qid, entry := num, x0 := (up &&& q.fen).setWidth 32 }

/-! ### Copy entries (R243, R244) -/

/-- The size of the box grid: columns and rows of boxes. -/
def copyGrid (img : Nat) : Nat × Nat :=
  let w := bitsN img 287 256
  if bitsN img 7 0 == 1 then (ceilDiv w 4096, 1)
  else (ceilDiv w (bitsN img 399 384), ceilDiv (bitsN img 319 288) (bitsN img 415 400))
def copyBoxes (img : Nat) : Nat := (copyGrid img).1 * (copyGrid img).2
/-- The last byte of an endpoint, from its first. -/
def copySpan (img stride : Nat) : Nat :=
  let w := bitsN img 287 256
  if bitsN img 7 0 == 1 then w else (bitsN img 319 288 - 1) * stride + w

/-- An entry that R244 calls MALFORMED. H of a CPY image that the host or a trigger pushes is not looked at: DESIGN CHOICE, log 78. -/
def copyMalformed (img : Nat) (host : Bool) : Bool :=
  let op := bitsN img 7 0; let w := bitsN img 287 256; let h := bitsN img 319 288
  let sstr := bitsN img 351 320; let dstr := bitsN img 383 352; let bw := bitsN img 399 384; let bh := bitsN img 415 400
  let sds := bitN img 8; let dds := bitN img 9
  let src := if sds then bitsN img 159 128 else bitsN img 191 128
  let dst := if dds then bitsN img 223 192 else bitsN img 255 192
  (op != 1 && op != 2) || (host && (sds || dds || bitsN img 12 11 ≥ 2)) ||
  (op == 1 && w > 2 ^ 24) ||
  (op == 2 && (w == 0 || h == 0 || bw == 0 || bh == 0 || bw * bh > 4096 || (h > 1 && (sstr < w || dstr < w)))) ||
  copyBoxes img > 4096 || (w != 0 && sds == dds && rangesMeet src (copySpan img sstr) dst (copySpan img dstr))

/-- The row pieces of a box: offsets into source and destination, and a length (R244). -/
def boxRows (img n : Nat) : List (Nat × Nat × Nat) :=
  let w := bitsN img 287 256
  if bitsN img 7 0 == 1 then [(4096 * n, 4096 * n, min 4096 (w - 4096 * n))]
  else
    let nbx := (copyGrid img).1; let bw := bitsN img 399 384; let bh := bitsN img 415 400
    let by_ := n / nbx; let bx := n % nbx
    (upFrom (by_ * bh) (min bh (bitsN img 319 288 - by_ * bh))).map fun r =>
      (r * bitsN img 351 320 + bx * bw, r * bitsN img 383 352 + bx * bw, min bw (w - bx * bw))

/-- A plain access of an engine to scratchpad. -/
def scratchEngine (kind : AccKind) (locs : List Nat) (data : Nat) : Access :=
  { kind := kind, scratch := true, addr := 0, locs := locs, bytes := locs.length, data := data, width := 0, pc := 0 }

/-- What an engine's move of bytes met. -/
inductive Move where
  | done (s : State) (data : List Byte) (poison race : Bool)
  /-- it must be tried again later -/
  | wait
  /-- an absent page, met by a write or a read -/
  | stop (addr : Nat) (write : Bool)
  | prot | poisoned | lost
  deriving DecidableEq, Repr

def ofBulk (b : Bulk) (write : Bool) : Move :=
  match b with
  | .done s d p r => .done s d p r
  | .absent va => .stop va write
  | .prot => .prot
  | .poisoned => .poisoned
  | .race _ => .wait
  | .wait => .wait

/-- Reads n bytes at an endpoint. -/
def readEnd (s : State) (w : Who) (e : Endpoint) (scratch : Bool) (addr n : Nat) : Move :=
  if n == 0 then .done s [] false false
  else if !scratch then ofBulk (readRange s w (addr % 2 ^ 64) n) false
  else
    match e with
    | .saved => .wait
    | .lost => .lost
    | .here c _ =>
      match scratchLocs s c none (addr % 2 ^ 32) n false with
      | none => .prot
      | some l =>
        match performScratch s w (scratchEngine .load l 0) 0 with
        | .done s v po r => .done s (bytesOf v n) po r
        | _ => .wait
/-- Writes bytes at an endpoint. Poisoned data poison the words of a scratchpad; of a range in memory, its caller poisons the lines. -/
def writeEnd (s : State) (w : Who) (e : Endpoint) (scratch : Bool) (addr : Nat) (data : List Byte) (bad : Bool) : Move :=
  if data.isEmpty then .done s [] false false
  else if !scratch then
    ofBulk (writeRange s w (addr % 2 ^ 64) data) true
  else
    match e with
    | .saved => .wait
    | .lost => .lost
    | .here c _ =>
      match scratchLocs s c none (addr % 2 ^ 32) data.length false with
      | none => .prot
      | some l =>
        match performScratch s w (scratchEngine .store l (ofBytes data)) 0 with
        | .done s _ _ r => .done (if bad then { s with poison := (wordsOfLocs l).foldl lput s.poison } else s) [] false r
        | _ => .wait

/-- A row in pieces that lie in one line of the source and in one of the destination. -/
def linePieces (src dst : Nat) : Nat → Nat → List (Nat × Nat × Nat)
  | 0, _ => []
  | fuel + 1, n =>
    if n == 0 then [] else
    let k := min n (min (128 - src % 128) (128 - dst % 128))
    (src, dst, k) :: linePieces (src + k) (dst + k) fuel (n - k)
/-- Moves one piece of a row. -/
def movePiece (s : State) (w : Who) (e : Endpoint) (img : Nat) (p : Nat × Nat × Nat) : Move :=
  match readEnd s w e (bitN img 8) p.1 p.2.2 with
  | .done s data po r =>
    match writeEnd s w e (bitN img 9) p.2.1 data po with
    | .done s _ _ r' => .done s [] po (r || r')
    | m => m
  | m => m
/-- The pieces of the rows of a box. -/
def rowsPieces (img : Nat) (rows : List (Nat × Nat × Nat)) : List (Nat × Nat × Nat) :=
  rows.flatMap fun (so, d, n) => linePieces (bitsN img 191 128 + so) (bitsN img 255 192 + d) (n / 64 + 3) n
/-- Moves the rows of a box, and names the lines in memory that take poisoned data (R238). -/
def moveRows (s : State) (w : Who) (e : Endpoint) (img : Nat) (rows : List (Nat × Nat × Nat)) : Move × List Nat :=
  (rowsPieces img rows).foldl (fun (m, bad) p =>
    match m with
    | .done s _ po r =>
      match movePiece s w e img p with
      | .done s _ po' r' => (.done s [] (po || po') (r || r'), if po' && !bitN img 9 then lput bad (lineOf p.2.1) else bad)
      | m => (m, bad)
    | m => (m, bad)) (.done s [] false false, [])
/-- The homes of ranges of addresses. -/
def homesOf (s : State) (asid : Nat) (ranges : List (Nat × Nat)) : List Nat :=
  (ranges.flatMap fun (va, n) => piecesOf (va % 2 ^ 64) n).foldl (fun l p => match classify s asid p.1 with | some ad => lput l ad.home | none => l) []
/-- What a box has left behind: the homes of its relaxed traffic, and poisoned lines; with the last box they are poisoned for good. -/
def boxHomes (s : State) (h : Head) (n : Nat) : List Nat :=
  if !h.who.relaxed then [] else homesOf s h.who.tasid ((boxRows h.img n).flatMap fun (so, d, n) =>
    (if bitN h.img 8 then [] else [(bitsN h.img 191 128 + so, n)]) ++ if bitN h.img 9 then [] else [(bitsN h.img 255 192 + d, n)])

/-- A box may run: its queue runs, the box is neither done nor stopped (R237, R245, R246). -/
def boxDue (s : State) (q : Queue) (h : Head) (n : Nat) : Bool :=
  queuesRun s q.asid && q.kind == 1 && !h.finished && !(entMeta q h.num).marker.isSome && n < copyBoxes h.img && !h.done.contains n &&
  !h.stopped.contains n && (q.state == .active || q.state == .faulted)

/-- The first box of a queue's head entry that waits for a copy engine; boxes of a saved group wait for its return instead (R245). -/
def nextBox (s : State) (q : Queue) : Option Nat :=
  q.head.bind fun h =>
    let m := entMeta q h.num
    if (bitN h.img 8 || bitN h.img 9) && endpoint s m == .saved then none else (upFrom 0 (copyBoxes h.img)).find? (boxDue s q h)
/-- The COPY queue whose box a free engine of a base die takes (R237): of those of the highest priority with a box waiting, the next in
turn after the one served last. -/
def copyPick (s : State) (st : Nat) : Option Nat :=
  let l := s.queues.filter fun (_, q) => q.kind == 1 && queueHome s q == st && (nextBox s q).isSome
  let p := l.foldl (fun m (_, q) => max m (q.qid % 8)) 0
  let l := (l.filter fun (_, q) => q.qid % 8 == p).map (·.1)
  match l.find? (fgetD (base s st).copyTurn p 0 < ·) with | some k => some k | none => l.head?
/-- A box is its queue's turn's. -/
def boxTurn (s : State) (qk n : Nat) : Bool :=
  match queue? s qk with | some q => copyPick s (queueHome s q) == some qk && nextBox s q == some n | none => false
/-- A copy engine has served a queue. -/
def served (s : State) (qk : Nat) : State :=
  match queue? s qk with
  | some q => let b := base s (queueHome s q); putBase s (queueHome s q) { b with copyTurn := fput b.copyTurn (q.qid % 8) qk }
  | none => s

def runBox (qk n : Nat) (s : State) : State :=
  match queue? s qk with
  | none => s
  | some q =>
    match q.head with
    | none => s
    | some h =>
      if !boxDue s q h n then s else
      let homes := (boxHomes s h n).foldl lput h.homes
      let (m, new) := moveRows s h.who (endpoint s (entMeta q h.num)) h.img (boxRows h.img n)
      let bad := new.foldl lput h.bad
      match m with
      | .done s _ po r =>
        let s := if po then headCode s qk 0x23 else s
        let s := if r then headCode s qk 0x22 else s
        let d := lput h.done n; let last := d.length == copyBoxes h.img
        let s := poisonLines s q.asid 0 (if last then bad else new)
        modHead s qk fun h => { h with done := d, homes := homes, bad := bad, finished := h.finished || last }
      | .wait => s
      | .stop va w => modHead (stopEntry s qk q h.num .pageFaultLoad va (if w then 1 else 0) n (.box qk n h.num)) qk
          fun h => { h with stopped := lput h.stopped n }
      | .prot => skipRest s qk 0x21
      | .poisoned => skipRest s qk 0x23
      | .lost => skipRest s qk 0x24
where
  /-- The remaining boxes are skipped and the records of the stopped ones dismissed. -/
  skipRest (s : State) (qk code : Nat) : State :=
    let mine (r : Rec) : Bool := match r.target with | .box q _ _ => q == qk | _ => false
    let s := updateCaps s mine fun c => { c with valid := false }
    let s := { s with ctxs := s.ctxs.map fun (a, c) => (a, { c with fq := c.fq.filter (!mine ·), parked := c.parked.filter (!mine ·) }) }
    finishHead (modQueue s qk fun q => { q with state := if q.state == .faulted then .active else q.state }) qk code

/-! ### Events of queues -/

/-- QUEUE_ENTRY_START (R237): the next entry of a LAUNCH, COPY, STACK or MASH queue starts; a COPY entry is checked (R244). -/
def execQueueEntryStart (qk : Nat) (s : State) : Out := event (fun s =>
  match queue? s qk with
  | none => s
  | some q =>
    if !startable s q || q.kind == 4 then s else
    match startHead s qk q with
    | none => s
    | some (s, h) =>
      if q.kind == 1 && !(entMeta q h.num).marker.isSome then
        if copyMalformed h.img (entMeta q h.num).host then finishHead s qk 0x20
        else if copyBoxes h.img == 0 then finishHead s qk 0 else s
      else s) s

/-- COPY_BOX (R237, R245): boxes are taken by priority and in turn. -/
def execCopyBox (qk n : Nat) (s : State) : Out := event (fun s =>
  let t := runBox qk n s
  if !boxTurn s qk n || t == s then s else served t qk) s
/-- ENTRY_COMPLETION (R238). -/
def execEntryCompletion (qk : Nat) (s : State) : Out := event (completeEntry qk) s

/-- A join marker at the head is due (R252). -/
def markerDue (s : State) (q : Queue) : Bool :=
  match q.head with
  | some h => !h.finished && queuesRun s q.asid && (match (entMeta q h.num).marker with
    | some (qb, n) => (match queue? s qb with | some b => n ≤ b.doneN | none => true)
    | none => false)
  | none => false
/-- JOIN_MARKER_COMPLETION (R252): the entries that follow acquire the joined queue's completions. -/
def execJoinMarkerCompletion (qk : Nat) (s : State) : Out := event (fun s =>
  match queue? s qk with
  | some q =>
    if !markerDue s q then s else
    let clk := match q.head.bind fun h => (entMeta q h.num).marker with
      | some (qb, _) => (match queue? s qb with | some b => b.clk | none => [])
      | none => []
    finishHead (modHead s qk fun h => { h with who := { h.who with clk := cmax h.who.clk clk } }) qk 0
  | none => s) s

/-- A queue's record as a context's queue area holds it, read when the queue comes into being: its kind and place are fixed (R434). A record
whose LOGN lies outside 4 to 16 makes no queue until it does not: DESIGN CHOICE, log 80. -/
def loadQueue (s : State) (asid qid : Nat) : Option (Queue × State) :=
  match ctx? s asid with
  | none => none
  | some c =>
    let va := (c.qarea + 64 * qid) % 2 ^ 64
    if qid ≥ 32 || !qidOk qid || (qid / 8 == 3 && !c.hasDie (qid % 8)) then none else
    match deviceFetch s asid va 64 with
    | none => none
    | some (r, s) =>
      if bitsN r 68 64 < 4 || bitsN r 68 64 > 16 then none else
      some ({ asid := asid, qid := qid, recVa := BitVec.ofNat 64 va, ring := BitVec.ofNat 64 (bitsN r 63 0), logn := bitsN r 68 64, en := bitN r 78
              qidf := if bitsN r 77 72 == qid then none else some (bitsN r 77 72), hoe := bitN r 79, fen := BitVec.ofNat 5 (bitsN r 108 104)
              bmap := BitVec.ofNat 64 (bitsN r 383 320), state := if bitN r 78 then .idle else .disabled }, s)

/-- QUEUE_ENABLE (R236): EN := 1; a queue whose record the host or firmware has written comes into being DISABLED. -/
def execQueueEnable (qk : Nat) (s : State) : Out := event (fun s =>
  match queue? s qk with
  | some q => if q.state == .disabled then setQueue s qk { q with en := true, state := if q.doneN < q.pushed then .active else .idle }
              else if q.state == .saved then s else setQueue s qk { q with en := true }
  | none =>
    match loadQueue s (qk / 0x20000) (qk % 0x20000) with
    | some (q, s) => setQueue s qk { q with en := true, state := .idle }
    | none => s) s
/-- QUEUE_DISABLE (R236): DISABLED at once, or when the entry in progress has completed. -/
def execQueueDisable (qk : Nat) (s : State) : Out := event (fun s =>
  modQueue s qk fun q => if q.state == .saved then q else { q with en := false, state := if q.head.isNone then .disabled else q.state }) s
/-- QUEUE_ERR_CLEAR (R236): ERR := 0, and a HALTED queue goes on. -/
def execQueueErrClear (qk : Nat) (s : State) : Out := event (fun s =>
  modQueue s qk fun q => { q with err := false, state := if q.state == .halted then (if q.doneN < q.pushed then .active else .idle) else q.state }) s

/-- DOORBELL_WRITE (R235): PUSHED advances, or the write is refused with DBE := 1, or it is ignored. -/
def execDoorbellWrite (master asid qid : Nat) (v : DWord) (s : State) : Out := event (fun s =>
  let off := 0x1000000 + 512 * asid + 8 * qid
  if !s.host.ready || refusedBy s master (255 * 2 ^ 48 + off) .store || (ctxState s asid == .free || ctxState s asid == .retired) then s else
  match queue? s (qkey asid qid) with
  | none => s
  | some q =>
    let p := q.pushed % 2 ^ 64
    if q.state == .disabled || v.toNat == p then s
    else if p < v.toNat && v.toNat ≤ q.doneN % 2 ^ 64 + q.cap then
      let s := (upFrom q.pushed (v.toNat - p)).foldl (fun s n => deviceWrite s q.asid (q.statusVa n) 4 0) s
      setQueue s (qkey asid qid) { q with
        ents := (upFrom q.pushed (v.toNat - p)).foldl (fun e n => fput e n { host := true }) q.ents
        pushed := q.pushed + (v.toNat - p) }.woken
    else setQueue s (qkey asid qid) { q with dbe := true }) s

/-! ### Triggers (R241, R242) -/

/-- A COPY entry as the device completes it at its push: the issuing cluster, and scratchpad offsets in window form (R243, R249). -/
def stampGroup (s : State) (cl : Nat) (g : Option Group) (img : Nat) : Nat :=
  let img := setBitsN (setBitsN img 420 416 (cl % 20)) 423 421 (cl / 20)
  match g.bind fun g => (kernel? s g.kernel).map fun k => (k, g.index % k.perSet) with
  | none => img
  | some (k, q) =>
    let win (x : Nat) : Nat := if x < 2 ^ 31 then (2 ^ 31 + q % 4 * 2 ^ 20 + q / 4 * k.scr + x) % 2 ^ 32 else x
    let img := if bitN img 8 then setBitsN img 159 128 (win (bitsN img 159 128)) else img
    let img := if bitN img 9 then setBitsN img 223 192 (win (bitsN img 223 192)) else img
    if bitsN img 12 11 == 2 then setBitsN img 95 64 (win (bitsN img 95 64)) else img
def stampCopy (s : State) (key : Nat) (a : Option Agent) (img : Nat) : Nat := stampGroup s (clusterOf key) (a.bind (ownGroup s)) img

/-- What an agent's push says of its issuer. -/
def metaOf (k : Nat) (a : Agent) (clk : Clock) : EntryMeta :=
  { issuer := some (k, a.uid), group := if a.kind == .thread then some a.group else none, clk := clk }

/-- Where a signal's releases stand: what an observer at SYS scope acquires. -/
def signalClock (s : State) (asid : Nat) (va : DWord) (p : Place) : Clock :=
  match devicePa s asid va.toNat with
  | some pa => (wordsAt pa 8).foldl (fun c x => cmax c (acquired (relLoc s x).head 5 p)) []
  | none => []

def putTrig (s : State) (t : Trig) : State := { s with trigs := s.trigs.map fun x => if x.id == t.id then t else x }
def dropTrig (s : State) (id : Nat) : State := { s with trigs := s.trigs.filter (·.id != id) }

/-- Pushes a fired trigger's entry, or leaves it waiting for room. -/
def pushTrig (s : State) (t : Trig) : State :=
  match queue? s t.q with
  | none => putTrig s { t with state := .room }
  | some q =>
    if q.full || q.state == .disabled then putTrig s { t with state := .room } else
    -- the issuer's cluster: its group's, wherever the issuer is now
    let g := if t.gone then none else t.group.bind (group? s)
    let cl := match g, t.issuer with | some g, _ => g.core / 4 | none, some (k, _) => clusterOf k | none, none => 0
    -- a COPY entry and a graph entry name the issuer's cluster (R243, R382)
    pushEntry (dropTrig s t.id) t.q
      (if q.kind == 1 then stampGroup s cl g t.img else if q.kind == 2 && bitsN t.img 7 0 == 0x10 then stampGroup s cl none t.img else t.img)
      { issuer := t.issuer, group := t.group, gone := t.gone, code := t.code, clk := t.clk }

def trigDue (s : State) (t : Trig) : Bool := t.state == .fired && queuesRun s t.asid
/-- A due trigger reads its image as one access of the new entry's party; an image that cannot be read stops it (R242). The entry of a
poisoned image completes with 0x23: DESIGN CHOICE, log 63. -/
def fireTrig (s : State) (t : Trig) : State :=
  let (uid, s) := freshUid s
  let place : Place := { die := none, stack := t.home }
  let clk := cmax t.clk (signalClock s t.tasid t.signal place)
  let w : Who := { uid := uid, region := 0, clk := clk, place := place, key := 0, asid := t.asid, tasid := t.tasid, engine := true, pc := 0 }
  let stop (code : FCode) (va : Nat) : State :=
    queueRec (putTrig s { t with state := .page, clk := clk })
      { code := code, kind := 3, addr := BitVec.ofNat 64 va, party := BitVec.ofNat 32 (s.package * 2 ^ 21), target := .trigger t.id, asid := t.asid }
  match readRange s w t.image.toNat 64 with
  | .done s d po r => pushTrig s { t with img := ofBytes d, code := if r then 0x22 else if po then 0x23 else 0, clk := cmax clk w.ended, state := .room }
  | .absent va => stop .pageFaultLoad va
  | .prot => stop .protection t.image.toNat
  | _ => s

/-- TRIGGER_FIRE (R241). -/
def execTriggerFire (id : Nat) (s : State) : Out := event (fun s =>
  match s.trigs.find? (·.id == id) with
  | some t => if trigDue s t then fireTrig s t else s
  | none => s) s
def roomDue (s : State) (t : Trig) : Bool :=
  t.state == .room && queuesRun s t.asid && (match queue? s t.q with | some q => !q.full && q.state != .disabled | none => false)
/-- TRIGGER_ENTRY_PUSH (R241): the entry is pushed once the target queue has room. -/
def execTriggerEntryPush (id : Nat) (s : State) : Out := event (fun s =>
  match s.trigs.find? (·.id == id) with
  | some t => if roomDue s t then pushTrig s t else s
  | none => s) s

/-- QWAIT_LIMIT_EXPIRY (R251): LIMIT × 1024 cycles have passed, and the wait completes with false. -/
def execQwaitLimitExpiry (k : Nat) (s : State) : Out := event (fun s =>
  match agent? s k with
  | some a => (match a.wait with
    | .signal _ _ limit => if limit != 0 && 1024 * limit ≤ a.waited then finishWait s k (some false) [] else s
    | _ => s)
  | none => s) s

/-! ### The instructions' bodies -/

/-- A release at SYS scope before an effect (R213): markers go out, everything earlier is performed, the region ends. So also at CAP.RES,
CAP.STEP and CAP.KILL, where the device ends the handler's own region (R202): DESIGN CHOICE, log 64. -/
def releasing (c : Ctx') (g : State → Agent → Go) : Go :=
  let s := sendMarkers c.s c.k
  if !allPerformed s c.a.uid then .wait s .retry
  else
    let a := ((agent? s c.k).getD c.a).endRegion
    g (putAgent s c.k a) a

/-- The key of an agent's cluster set. -/
def csetKey (s : State) (a : Agent) : Option Nat :=
  match a.kind with
  | .thread => (group? s a.group).map (·.cset)
  | .task => (queue? s a.queue).map (·.cset)
  | .handler => none
/-- The queue that an identifier names for the issuing party (R231). -/
def queueOf (s : State) (a : Agent) (qid : Nat) : Option Nat :=
  if qid / 8 == 4 then (csetKey s a).map taskQkey
  else if qid / 8 == 3 && !(ctx? s a.asid).any (·.hasDie (qid % 8)) then none
  else some (qkey a.asid qid)
def queueError (c : Ctx') : Go := .freeze c.s .queueError {}

/-- What LAUNCH, CPYT, TASKPUSH and GSUM read is read once, and kept while they wait (R163). -/
def readOnce (c : Ctx') (va n : Nat) : Go ⊕ (State × Nat) := match c.a.image with | some x => .inr (c.s, x) | none => readNow c va n
/-- Waits for room, then pushes (R234); a DISABLED queue refuses the push (R236). `img` is what the instruction has read, if it read. -/
def pushOr (c : Ctx') (s : State) (qk img : Nat) (m : EntryMeta) (read : Option Nat := none) : Go :=
  match queue? s qk with
  | some q =>
    if q.state == .disabled then queueError c
    else if q.full then .wait (if read.isSome then modAgent s c.k fun a => { a with image := read } else c.s) .retry
    else
      let s := pushEntry s qk img m
      .next (if read.isSome then modAgent s c.k fun a => { a with image := none } else s)
  | none => queueError c

/-- TRDY (R254). -/
def bodyTrdy (c : Ctx') : Go :=
  if low 32 c.vb ≥ 64 then queueError c
  else releasing c fun s a => .next (match csetKey s a with | some ck => addToken s ck (low 32 c.vb) a.relClk | none => s)

/-- The checks of a signal that an instruction names (R240), with the state after its home has been asked. A signal on a POISONED page
passes: DESIGN CHOICE, log 77. -/
inductive SigCheck where
  | ok (s : State)
  | absent
  | bad (code : FCode)
  deriving DecidableEq, Repr
def checkSignal (s : State) (k : Nat) (a : Agent) (va : Nat) : SigCheck :=
  if va % 8 != 0 then .bad .misaligned else
  match locate s (placeOf k a) a.tasid va .load with
  | .at_ pa _ leaf s => if paPkg pa ≥ 240 || !bitN leaf 12 then .bad .protection else .ok s
  | .absent _ => .absent
  | .poisoned _ => .ok s
  | .wait => .ok s
  | .prot => .bad .protection

/-- CPY and CPYT from their built entry on (R248). -/
def pushCopy (c : Ctx') (img : Nat) (read : Option Nat := none) : Go :=
  let stamped := stampCopy c.s c.k (some c.a) img
  let qk := qkey c.a.asid (8 + modBits c.mod 1 0)
  let comp := bitsN img 12 11
  let cmpv := bitsN stamped (if comp == 2 then 95 else 127) 64
  let fits (scratch : Bool) (off n : Nat) : Bool :=
    !scratch || n == 0 || (match csetOf c.s c.a with
      | some cs => off + n ≤ 2 ^ 32 && (off + n - 1) / 2 ^ 20 == off / 2 ^ 20 &&
          (scratchByte c.s cs (ownGroup c.s c.a) off).isSome && (scratchByte c.s cs (ownGroup c.s c.a) (off + n - 1)).isSome
      | none => false)
  if copyMalformed stamped false then queueError c
  else if !fits (bitN img 8) (bitsN img 159 128) (copySpan img (bitsN img 351 320)) then
    .freeze c.s .protection { addr := BitVec.ofNat 64 (bitsN img 159 128) }
  else if !fits (bitN img 9) (bitsN img 223 192) (copySpan img (bitsN img 383 352)) then
    .freeze c.s .protection { addr := BitVec.ofNat 64 (bitsN img 223 192) }
  else if comp == 2 && !fits true (bitsN img 95 64) 16 then .freeze c.s .protection { addr := BitVec.ofNat 64 (bitsN img 95 64) }
  else
    match (if comp == 1 then checkSignal c.s c.k c.a cmpv else .ok c.s) with
    | .bad code => .freeze c.s code { addr := BitVec.ofNat 64 cmpv }
    | _ =>
      if comp == 2 && cmpv % 16 != 0 then .freeze c.s .misaligned { addr := BitVec.ofNat 64 cmpv }
      else if comp == 3 && cmpv ≥ 64 then queueError c
      else if disabled c.s qk then queueError c
      else releasing { c with s := if read.isSome then modAgent c.s c.k fun a => { a with image := read } else c.s } fun s a =>
        pushOr { c with s := s } s qk stamped (metaOf c.k a a.relClk) read

/-- The completion operand (R247). -/
def Ctx'.compOp (c : Ctx') : Nat :=
  match modBits c.mod 3 2 with
  | 0 => 0
  | 1 => c.vd
  | _ => low 32 c.vd
def bodyCpy (c : Ctx') : Go :=
  let m := c.mod
  pushCopy c (1 + (if modBit m 4 then 2 ^ 8 else 0) + (if modBit m 5 then 2 ^ 9 else 0) + (if modBit m 6 then 2 ^ 10 else 0) + modBits m 3 2 * 2 ^ 11 +
    c.compOp * 2 ^ 64 + c.va * 2 ^ 128 + c.vb * 2 ^ 192 + low 32 c.vc * 2 ^ 256 + 2 ^ 288)
def bodyCpyt (c : Ctx') : Go :=
  if c.va % 64 != 0 then .freeze c.s .misaligned { addr := BitVec.ofNat 64 c.va }
  else
    match readOnce c c.va 64 with
    | .inl g => g
    | .inr (s, x) =>
      let e := setBitsN (setBitsN (setBitsN x 12 11 (modBits c.mod 3 2)) 10 10 (modBits c.mod 6 6)) 127 64 c.compOp
      pushCopy { c with s := s } e (some x)

/-- QSIG (R250). -/
def bodyQsig (c : Ctx') : Go :=
  match checkSignal c.s c.k c.a c.va with
  | .bad code => .freeze c.s code { addr := BitVec.ofNat 64 c.va }
  | _ =>
    -- the addition lies in the region that the QSIG ends
    let s := sendMarkers c.s c.k
    if !allPerformed s c.a.uid then .wait s .retry
    else .next (endRegion (issueReq s c.k ((agent? s c.k).getD c.a) { addAccess c.va c.vb with pc := c.a.pc }) c.k)

/-- QWAIT (R251). One whose signal has reached its threshold while it waited completes with true. -/
def bodyQwait (c : Ctx') : Go :=
  let va : DWord := BitVec.ofNat 64 c.va
  let reached (s : State) : State := modAgent s c.k fun a =>
    { (a.setP c.f.dst.toNat true).acquire (signalClock s c.a.tasid va (placeOf c.k c.a)) with inst := none }
  if c.a.inst.isSome then .next (reached c.s)
  else delivering c <|
    match checkSignal c.s c.k c.a c.va with
    | .bad code => .freeze c.s code { addr := va }
    | .absent => .freeze c.s .pageFaultLoad { addr := va }
    | .ok s =>
      if sigReached s c.a.tasid va c.vb then .next (reached (endRegion s c.k))
      else .wait (modAgent s c.k fun a => { a.endRegion with inst := some (.qwait, c.f, c.len) }) (.signal va (BitVec.ofNat 64 c.vb) (modBits c.mod 7 0))

/-- QFENCE (R252). -/
def bodyQfence (c : Ctx') : Go :=
  match queueOf c.s c.a (modBits c.mod 5 0), queueOf c.s c.a (modBits c.mod 11 6) with
  | some qa, some qb =>
    if disabled c.s qa then queueError c
    else
      let n := (queue? c.s qb).elim 0 (·.pushed)
      pushOr c c.s qa 0 { metaOf c.k c.a [] with marker := some (qb, if qa == qb then 0 else n) }
  | _, _ => queueError c

/-- TRIG (R253). -/
def bodyTrig (c : Ctx') : Go :=
  match queueOf c.s c.a (modBits c.mod 5 0), checkSignal c.s c.k c.a c.va with
  | _, .bad code => .freeze c.s code { addr := BitVec.ofNat 64 c.va }
  | none, _ => queueError c
  | some qk, check =>
    let home := (classify c.s c.a.tasid c.va).elim 0 (·.home)
    if c.vc % 64 != 0 then .freeze c.s .misaligned { addr := BitVec.ofNat 64 c.vc }
    else if (c.s.trigs.filter (·.home == home)).length ≥ 1024 then queueError c
    else
      let (id, s) := freshId (match check with | .ok s => s | _ => c.s)
      let t : Trig := { id := id, asid := c.a.asid, tasid := c.a.tasid, home := home, signal := BitVec.ofNat 64 c.va, thr := BitVec.ofNat 64 c.vb,
                        image := BitVec.ofNat 64 c.vc, q := qk, issuer := some (c.k, c.a.uid),
                        group := if c.a.kind == .thread then some c.a.group else none }
      .next (noteUpdates { s with trigs := s.trigs ++ [t] })

/-! ### The instructions -/

/-- TRDY (R254): Release, then adds 1 to a residency token. -/
def execTrdy (f : FormL) (s : State) : Out := issueL .trdy f bodyTrdy s
/-- CPY (R248): Releases and pushes a linear copy entry into a COPY queue. -/
def execCpy (f : FormL) (s : State) : Out := issueL .cpy f bodyCpy s
/-- CPYT (R248): Reads a tensor-copy descriptor, releases and pushes it into a COPY queue. -/
def execCpyt (f : FormL) (s : State) : Out := issueL .cpyt f bodyCpyt s
/-- QSIG (R250): Releases at SYS scope, then adds a value to a signal. -/
def execQsig (f : FormL) (s : State) : Out := issueL .qsig f bodyQsig s
/-- QWAIT (R251): Raises a pending delivery, or waits until a signal reaches a threshold. -/
def execQwait (f : FormL) (s : State) : Out := issueL .qwait f bodyQwait s
/-- QFENCE (R252): Pushes a join marker into queue QA that waits for queue QB. -/
def execQfence (f : FormL) (s : State) : Out := issueL .qfence f bodyQfence s
/-- TRIG (R253): Arms a trigger at a signal's home. -/
def execTrig (f : FormL) (s : State) : Out := issueL .trig f bodyTrig s

end Sys2Proof.Machine
end

