-- ==== Sys2Proof/Machine/Kernel.lean ====
section
/-!
DEFINITION. Sys2Proof/Machine/Kernel.lean: launches, admission and placement (R156 to R163, R172 to R174), the end of threads, groups and
kernels, saving and restoring groups, and work lists (R164 to R170).
-/
namespace Sys2Proof.Machine

/-! ### Admission (R158) -/

/-- Registers of a vector core that are not its handler warp's (R46). -/
def Ctx.freeRegs (c : Ctx) : Nat := Config.fileRegs - 32 * c.nh
/-- The most scratchpad of a core: 64 KiB stay L1 (R158). -/
def scratchMax : Nat := Config.sramBytes - 65536
/-- Groups of a cluster set on its fullest core (R172), and the range that the set reserves on each core. -/
def Kernel.perCore (k : Kernel) : Nat := ceilDiv k.perSet 4
def Kernel.range (k : Kernel) : Nat := k.perCore * k.scr

/-- n groups of the kernel fit one empty vector core. -/
def fitsCore (c : Ctx) (k : Kernel) (n : Nat) : Bool :=
  n * k.warps ≤ 63 && n * (k.size * k.nregs) ≤ c.freeRegs && n * k.scr ≤ scratchMax
/-- Whole cluster sets that fit one empty cluster. -/
def setsPerCluster (c : Ctx) (k : Kernel) : Nat := ((upFrom 1 63).filter fun n => fitsCore c k (n * k.perCore)).length
def setsPerDie (c : Ctx) (k : Kernel) : Nat := Config.numClusters * setsPerCluster c k

/-- The reason that a header is rejected with, 0 for none (R158). Code 6 counts the lists of this kernel alone: DESIGN CHOICE, log 61. -/
def launchReject (c : Ctx) (k : Kernel) : Nat :=
  let ends := k.gb < 1 || k.gb > k.nfld || k.cb < k.gb || k.cb > k.nfld || (k.db != 0 && (k.db < k.cb || k.db > k.nfld))
  if k.entry % 8 != 0 || k.cls == 3 || k.nfld == 0 || k.nfld == 7 || ends || (upFrom 0 k.nfld).any (k.ext · == 0) || k.prod 0 k.nfld > 2 ^ 64 ||
      (k.nwl != 0 && (k.wlcapl < 4 || k.wlcapl > 16)) || (k.signal != 0 && k.signal % 8 != 0) then 1
  else if k.size > 2016 || !fitsCore c k 1 then 2
  else if !fitsCore c k k.perCore then 3
  else if k.db != 0 && k.perDie > setsPerDie c k then 4
  else if k.cls == 0 && (k.sets > c.ntsq ||
      (diesOf c.diemask).length * (if k.db == 0 then setsPerDie c k else setsPerDie c k / k.perDie * k.perDie) < k.sets) then 5
  else if ceilDiv k.nwl (diesOf c.diemask).length * 2 ^ k.wlcapl > 65536 && k.nwl != 0 then 6
  else 0

/-- What a launch entry acquires: the fences before its LAUNCH whose scope contains every party of the kernel (R163). -/
def launchClock (c : Ctx) (rs : List Rel) : Clock :=
  (rs.filter fun r => r.scope ≥ 4 || (r.scope == 3 && r.place.die.any fun d => c.diemask == 2 ^ d)).foldl (fun m r => cmax m r.clk) []

/-- The entry at the head of a launch queue is admitted or rejected. -/
def launchHead (qk : Nat) (s : State) : State :=
  match queue? s qk with
  | none => s
  | some q =>
    match q.head, ctx? s q.asid with
    | some h, some c =>
      let m := entMeta q h.num
      if q.kind != 0 || h.finished || h.marked || m.marker.isSome || c.state != .running then s else
      let k : Kernel := { asid := q.asid, ident := c.nextK, hdr := h.img, q := qk, entryNo := h.num, clk := cmax h.who.clk (launchClock c m.lclk) }
      match launchReject c k with
      | 0 =>
        let s := putCtx s q.asid { c with nextK := if c.nextK == 0xFFFFFFFF then 1 else c.nextK + 1 }
        modHead (putKernel s (kkey q.asid c.nextK) k) qk fun h => { h with marked := true }
      | code => finishHead s qk code
    | _, _ => s

/-! ### Placement (R159, R172, R174, R434) -/

/-- The cluster-set key of a group index. -/
def cskey (kern n : Nat) : Nat := gkey kern n
def residents (s : State) (core : Nat) : List Group := (s.groups.map (·.2)).filter fun g => g.core == core && g.state != .saved
/-- The first run of W free static warps of a core. -/
def freeWarp (s : State) (core w : Nat) : Option Nat :=
  let busy := (residents s core).map fun g => (g.warp, (kernel? s g.kernel).elim 0 (·.warps))
  (upFrom 0 (64 - w)).find? fun w0 => !busy.any fun (b, n) => rangesMeet w0 w b n
def regsUsed (s : State) (core : Nat) : Nat :=
  ((residents s core).map fun g => (kernel? s g.kernel).elim 0 fun k => k.size * k.nregs).foldl (· + ·) 0

/-- The first free range of a cluster's scratchpad, the same on its four cores. -/
def freeRange (s : State) (cl size : Nat) : Option Nat :=
  let busy := (s.csets.map (·.2)).filter fun c => c.placed && c.cluster == cl
  if size == 0 then some 0 else
  ((upFrom 0 8).map (65536 * ·)).find? fun b => b + size ≤ scratchMax && !busy.any fun c => rangesMeet b size c.base c.size
/-- The lowest TASK-queue slot that no placed cluster set of the context holds (R434). -/
def freeSlot (s : State) (asid : Nat) (c : Ctx) : Option Nat :=
  let busy := ((s.csets.map (·.2)).filter fun x => x.placed && x.kernel / 2 ^ 32 == asid).map (·.slot)
  (upFrom 0 (min c.ntsq (busy.length + 1))).find? (!busy.contains ·)

/-- Clears the scratchpad slice [lo, lo + n) of a core: it reads 0 and no region covers it (R174). -/
def clearSlice (s : State) (lo n : Nat) : State :=
  let w (x : Nat) : Bool := (sramWord lo ≤ x && x < sramWord (lo + n)) || (objKey lo ≤ x && x < objKey (lo + n))
  { s with sram := s.sram.filter (fun (a, _) => !(lo ≤ a && a < lo + n)), poison := s.poison.filter (!w ·),
           tags := s.tags.filter (fun (x, _) => !w x), rels := s.rels.filter fun (x, _) => !w x }
/-- The slice of group index q of a cluster set on its core: core and first location. -/
def sliceAt (k : Kernel) (c : CSet) (q : Nat) : Nat × Nat :=
  let core := c.cluster * 4 + q % 4
  (core, sramLoc core (c.base + q / 4 * k.scr))

/-- The die set of a cluster set. -/
def Kernel.dieSet (k : Kernel) (set : Nat) : Nat := set / k.perDie
/-- The key of the task of a cluster's control core. -/
def taskKey (cl : Nat) : Nat := taskBase + cl
/-- A saved task belongs to a queue. -/
def taskSaved (c : Ctx) (qk : Nat) : Bool := c.saved.tasks.any fun (q, _) => q == qk
/-- A cluster set whose groups were all flushed starts anew: what was pushed in its earlier life has no object and no token there any more
(R238, R254). -/
def renewSet (s : State) (ck : Nat) : State :=
  { s with queues := s.queues.map fun (n, q) => (n, { q with
      ents := q.ents.map fun (i, m) => (i, if entrySet s m == some ck then { m with group := none } else m), decs := q.decs.filter (·.cset != ck) }) }
/-- A party as a save keeps it (R91, R359): in its state, but READY for HELD, with its wait, an object's by its place in its cluster set, which
begins at `lo`; its age 0 and its region ended. -/
def Agent.saved (a : Agent) (lo : Nat) : Agent :=
  { a.endRegion with
    state := if a.state == .held then .ready else a.state, age := 0, waited := 0, urgent := false, yielding := false
    wait := match a.wait with | .object l p n => .object (l - lo) p n | w => w }
/-- A party that returns (R359) waits again in its instruction, and a LIMIT counts from 0. What it waited for, if that was a register, room
or accesses of its own, is asked anew as the instruction issues. -/
def Agent.restored (a : Agent) (lo : Nat) : Agent :=
  match a.wait with
  | .object l p n => { a with waited := 0, wait := .object (lo + l) p n }
  | .retry => { a with waited := 0, wait := .none }
  | .own => { a with waited := 0, wait := .none, inst := none }
  | _ => { a with waited := 0 }

/-- A party has a new key: every reference to it follows. -/
def rekey (s : State) (uid key : Nat) : State :=
  let w (x : Who) : Who := if x.uid == uid then { x with key := key } else x
  let iss (i : Option (Nat × Nat)) : Option (Nat × Nat) := i.map fun (k, u) => if u == uid then (key, u) else (k, u)
  let rc (r : Rec) : Rec := match r.target with | .agent _ u => if u == uid then { r with target := .agent key u } else r | _ => r
  let ag (a : Agent) : Agent := { a with
    caps := a.caps.map (fun (n, c) => (n, { c with record := rc c.record })), record := a.record.map rc, lastC0 := a.lastC0.map rc }
  { s with
    agents := s.agents.map fun (k, a) => (k, ag a)
    queues := s.queues.map fun (k, q) => (k, { q with ents := q.ents.map fun (n, m) => (n, { m with issuer := iss m.issuer }) })
    trigs := s.trigs.map fun t => { t with issuer := iss t.issuer }
    ctxs := s.ctxs.map fun (k, c) => (k, { c with fq := c.fq.map rc, parked := c.parked.map rc, saved := { c.saved with
      handlers := c.saved.handlers.map fun (n, h) => (n, ag h) } })
    dies := s.dies.map fun (d, x) => (d, { x with level2 := x.level2.map rc })
    clusters := s.clusters.map fun (n, c) => (n, { c with eng := { c.eng with ops := c.eng.ops.map fun o => { o with who := w o.who } } })
    tags := s.tags.map fun (x, l) => (x, l.map fun t => if t.uid == uid then { t with key := key } else t)
    bases := s.bases.map fun (b, x) => (b, { x with logs := x.logs.map fun (n, l) => (n, l.map fun e => { e with who := w e.who }) })
    prods := s.prods.map fun p => { p with
      key := if p.uid == uid then key else p.key, src := p.src.map fun (k, u, x) => (if u == uid then key else k, u, x) }
    reqs := s.reqs.map fun r => { r with who := w r.who } }

/-- The saved task of a cluster set that is on a cluster again returns to its control core, with its energy debt, which is all of its entry's
ENERGY (R265): DESIGN CHOICE, log 82. -/
def returnTask (s : State) (ck : Nat) : State :=
  match cset? s ck, queue? s (taskQkey ck) with
  | some x, some q =>
    match (ctx? s q.asid).bind fun c => c.saved.tasks.find? (·.1 == taskQkey ck) with
    | none => s
    | some (qk, a, e, debt) =>
      let k := taskKey x.cluster; let cl := cluster s x.cluster
      let s := modCtx s q.asid fun c => { c with saved := { c.saved with tasks := c.saved.tasks.filter (·.1 != qk) } }
      rekey (putAgent (putCluster s x.cluster { cl with eng := e, remaining := cl.remaining - debt }) k (a.restored 0)) a.uid k
  | _, _ => s

/-- A cluster set takes a cluster: its scratchpad range and its TASK-queue slot; one with a saved task takes none whose control core is at
work. A set that a save took off its cluster brings its queue back; a
new one, and one whose groups were all flushed, gets a new record (R174, R434). -/
def placeCSet (s : State) (kern d cl : Nat) (k : Kernel) : Option State :=
  let ck := cskey kern d
  match ctx? s k.asid with
  | none => none
  | some c =>
    match freeRange s cl k.range, freeSlot s k.asid c with
    | some b, some slot =>
      let va := (c.qarea + 0x20000 + slot * c.tsz) % 2 ^ 64
      let qk := taskQkey ck
      let tasked := taskSaved c qk && (cset? s ck).isSome
      if tasked && (agent? s (taskKey cl)).isSome then none else
      let back := tasked || s.groups.any fun (_, g) => g.cset == ck && g.state == .saved
      let x := match cset? s ck with
        -- a flushed set's tokens start anew (R254)
        | some x => { x with cluster := cl, base := b, slot := slot, placed := true, toks := if back then x.toks else [], adds := if back then x.adds else [] }
        | none => { kernel := kern, index := d, cluster := cl, base := b, size := k.range, slot := slot, live := k.perSet }
      let s := dropL1 (putCSet (if back then s else renewSet s ck) ck x) cl b k.range
      let s := match kernel? s kern with
        | some y => if k.db == 0 then s else putKernel s kern { y with dieOf := fput y.dieOf (k.dieSet d) (cl / Config.numClusters) }
        | none => s
      some (returnTask (match (queue? s qk).filter fun _ => back with
        | some q =>
          -- the record and the pending entries go to the new slot
          let q' := { q with recVa := BitVec.ofNat 64 va, ring := BitVec.ofNat 64 (va + 4096), out := [], state := if q.state == .saved then q.kept else q.state }
          q.out.foldl (fun s (n, e, st) => deviceWrite (deviceWrite s q'.asid (q'.slotVa n) 64 e) q'.asid (q'.statusVa n) 4 st) (setQueue s qk q')
        | none => setQueue s qk { asid := k.asid, qid := 0x20, recVa := BitVec.ofNat 64 va, ring := BitVec.ofNat 64 (va + 4096), logn := c.tqlog, cset := ck }) ck)
    | _, _ => none

/-- Room for a group on its core: registers and static warps. -/
def coreRoom (s : State) (k : Kernel) (core : Nat) : Option Nat :=
  match ctx? s k.asid with
  | some c => if regsUsed s core + k.size * k.nregs ≤ c.freeRegs then freeWarp s core k.warps else none
  | none => none

/-- A thread at its start (R90). -/
def newThread (k : Kernel) (kern g lin uid : Nat) : Agent :=
  { kind := .thread, uid := uid, asid := k.asid, tasid := k.asid, kernel := kern, group := g, lin := lin, nregs := k.nregs,
    pc := BitVec.ofNat 64 k.entry, rstk := k.priv, clk := k.clk }
def newThreads (k : Kernel) (kern g base : Nat) (s : State) : Nat → Nat → State
  | _, 0 => s
  | i, n + 1 =>
    let (uid, s) := freshUid s
    newThreads k kern g base (putAgent s (base + i) (newThread k kern g i uid)) (i + 1) n

/-- Places group n of a kernel on a cluster; none when it does not fit there. -/
def placeOn (s : State) (kern n cl : Nat) (k : Kernel) : Option State :=
  let d := n / k.perSet; let ck := cskey kern d
  let placed := (cset? s ck).any (·.placed)
  if placed && !(cset? s ck).any (·.cluster == cl) then none else
  match (if placed then some s else placeCSet s kern d cl k) with
  | none => none
  | some s =>
    let q := n % k.perSet
    match cset? s ck, coreRoom s k (cl * 4 + q % 4) with
    | some c, some w =>
      let (core, lo) := sliceAt k c q
      let s := clearSlice s lo k.scr
      let s := putGroup s (gkey kern n) { kernel := kern, index := n, core := core, warp := w, cset := ck }
      some (newThreads { k with clk := cmax k.clk (fgetD k.backClk n []) } kern (gkey kern n) (core * 2048 + 32 * w) s 0 k.size)
    | _, _ => none

/-- The first answer of a list of tries. -/
def firstSome {α β : Type} (f : α → Option β) : List α → Option β
  | [] => none
  | x :: t => match f x with | some y => some y | none => firstSome f t

/-- The dies that may take groups of a context, from a starting die on: ON and in its mask (R159, R413). -/
def placeDies (s : State) (c : Ctx) (start : Nat) : List Nat :=
  let l := (diesOf c.diemask).filter fun d => (dieSt s d).pstate == 1
  l.rotateLeft start
def clustersOf (d : Nat) : List Nat := upFrom (d * Config.numClusters) Config.numClusters

/-- The die of a group's die set, once it has one (R159): that of a placed cluster set of it, or the one that a group of it has retired on. -/
def setDie (s : State) (kern n : Nat) (k : Kernel) : Option Nat :=
  if k.db == 0 then none else
  let e := k.dieSet (n / k.perSet); let size := k.perDie * k.perSet
  match (s.csets.map (·.2)).find? fun c => c.kernel == kern && c.placed && k.dieSet c.index == e with
  | some c => some (c.cluster / Config.numClusters)
  | none =>
    if (upFrom (e * size) size).any fun i => i < k.next && !k.back.contains i && (group? s (gkey kern i)).isNone then fget? k.dieOf e else none
/-- The dies that may take a group: its die set's, or those of the context. -/
def groupDies (s : State) (c : Ctx) (kern n start : Nat) (k : Kernel) : List Nat :=
  match setDie s kern n k with | some d => [d].filter fun d => (dieSt s d).pstate == 1 | none => placeDies s c start

/-- Places one group: in its cluster set's cluster, on its die set's die, else where it first fits. -/
def placeOne (s : State) (kern n start : Nat) (k : Kernel) (c : Ctx) : Option State :=
  let ck := cskey kern (n / k.perSet)
  match (cset? s ck).filter (·.placed) with
  | some x => placeOn s kern n x.cluster k
  | none =>
    -- a set with saved groups comes back whole first (R174)
    if s.groups.any fun (_, g) => g.cset == ck && g.state == .saved then none else
    firstSome (fun cl => placeOn s kern n cl k) ((groupDies s c kern n start k).flatMap clustersOf)
/-- Groups of one cluster set, all on one cluster. -/
def placeSet (s : State) (kern : Nat) (gs : List Nat) (k : Kernel) (cl : Nat) : Option State :=
  gs.foldl (fun o n => o.bind fun s => placeOn s kern n cl k) (some s)
/-- Groups of one block (a die set, or a cluster set) on one die, cluster set by cluster set. -/
def placeBlock (s : State) (kern : Nat) (gs : List Nat) (d : Nat) (k : Kernel) : Option State :=
  ((gs.map (· / k.perSet)).foldl lput []).foldl (fun o e => o.bind fun s =>
    let mine := gs.filter (· / k.perSet == e)
    match (cset? s (cskey kern e)).filter (·.placed) with
    | some x => placeSet s kern mine k x.cluster
    | none => firstSome (placeSet s kern mine k) (clustersOf d)) (some s)
/-- Every group of a CONCURRENT kernel that is not placed, in one step (R159): all of them, or those that a cut flushed. -/
def placeAll (s : State) (kern start : Nat) (gs : List Nat) (k : Kernel) (c : Ctx) : Option State :=
  let size := k.perDie * k.perSet
  ((gs.map (· / size)).foldl lput []).foldl (fun o b => o.bind fun s =>
    firstSome (fun d => placeBlock s kern (gs.filter (· / size == b)) d k) (groupDies s c kern (b * size) start k)) (some s)

/-- The group that is placed next: the lowest that is unplaced (R159). -/
def Kernel.nextGroup (k : Kernel) : Option Nat :=
  match k.back with
  | n :: _ => some n
  | [] => if k.next < k.groups then some k.next else none
def Kernel.took (k : Kernel) (n : Nat) : Kernel := if k.back.contains n then { k with back := ldel k.back n } else { k with next := n + 1 }
/-- PLACING and RUNNING (R161): PLACING while a group is unplaced or one that the distributor saved is out. -/
def kernelGroups (s : State) (kern : Nat) : List (Nat × Group) := s.groups.filter fun (_, g) => g.kernel == kern
def settleKernel (s : State) (kern : Nat) : State :=
  match kernel? s kern with
  | some k =>
    if k.state != .placing && k.state != .running then s else
    let out := k.nextGroup.isSome || (kernelGroups s kern).any fun (_, g) => g.state == .saved
    putKernel s kern { k with state := if out then .placing else .running }
  | none => s

def modKernel (s : State) (kern : Nat) (f : Kernel → Kernel) : State := match kernel? s kern with | some k => putKernel s kern (f k) | none => s
/-- Placement of a kernel's next group, or of the whole of a CONCURRENT kernel. -/
def placeNext (s : State) (kern start : Nat) : Option State :=
  match kernel? s kern with
  | none => none
  | some k =>
    match ctx? s k.asid, k.nextGroup with
    | some c, some n =>
      if c.state != .running || k.state != .placing then none
      else if k.cls == 0 then
        (placeAll s kern start (k.back ++ upFrom k.next (k.groups - k.next)) k c).map fun s => settleKernel (modKernel s kern fun k => { k with next := k.groups, back := [] }) kern
      else (placeOne s kern n start k c).map fun s => settleKernel (modKernel s kern (·.took n)) kern
    | _, _ => none

/-- LAUNCH_ENTRY_HEAD (R158). -/
def execLaunchEntryHead (qk : Nat) (s : State) : Out := event (launchHead qk) s
/-- GROUP_PLACEMENT (R159); `start` turns the order of the dies that the distributor tries. -/
def execGroupPlacement (kern start : Nat) (s : State) : Out := event (fun s => (placeNext s kern start).getD s) s

/-! ### Saving and restoring a cluster set (R160, R174, R249, R357 to R359) -/

/-- Where a cluster set's scratchpad begins on its cluster. -/
def CSet.start (c : CSet) : Nat := sramLoc (c.cluster * 4) c.base
/-- A group leaves its core: threads, scratchpad, and what was released there. -/
def saveGroup (s : State) (g : Nat) : State :=
  match group? s g with
  | none => s
  | some x =>
    match kernel? s x.kernel, cset? s x.cset with
    | some k, some c =>
      if x.state != .resident then s else
      let (_, lo) := sliceAt k c (x.index % k.perSet)
      let n := k.scr
      let mine := groupAgents s g
      let rels := s.rels.filterMap fun (a, r) =>
        if sramWord lo ≤ a && a < sramWord (lo + n) then some (2 * (a - sramWord lo), r)
        else if objKey lo ≤ a && a < objKey (lo + n) then some (2 * (a - objKey lo) + 1, r) else none
      let x := { x with
        state := .saved
        kept := mine.map fun (_, a) => (a.lin, a.saved c.start)
        keptMem := (s.sram.filter fun (a, _) => lo ≤ a && a < lo + n).map fun (a, b) => (a - lo, b)
        keptPoison := (s.poison.filter fun a => sramWord lo ≤ a && a < sramWord (lo + n)).map (· - sramWord lo)
        keptRels := rels.foldl (fun m (a, r) => fput m a r) [] }
      clearSlice { putGroup s g x with agents := s.agents.filter fun (_, a) => !(a.kind == .thread && a.group == g) } lo n
    | _, _ => s

/-- The entries of a cluster set's groups that name its scratchpad name its new cluster (R249). -/
def restampEntries (s : State) (ck cl : Nat) : State :=
  s.queues.foldl (fun s (qk, q) =>
    if q.kind != 1 then s else
    let new (img : Nat) : Nat := setBitsN (setBitsN img 420 416 (cl % Config.numClusters)) 423 421 (cl / Config.numClusters)
    (upFrom q.doneN (q.pushed - q.doneN)).foldl (fun s n =>
      match (entMeta q n).group.bind (group? s), deviceRead s q.asid (q.slotVa n) 64 with
      | some g, some img =>
        if g.cset == ck && (bitN img 8 || bitN img 9 || bitsN img 12 11 ≥ 2) then
          modHead (deviceWrite s q.asid (q.slotVa n) 64 (new img)) qk fun h => if h.num == n then { h with img := new h.img } else h
        else s
      | _, _ => s) s) s

/-- A saved group comes back to its cluster set's cluster; none when its core has no room. -/
def restoreGroup (s : State) (g : Nat) : Option State :=
  match group? s g with
  | none => none
  | some x =>
    match kernel? s x.kernel, cset? s x.cset with
    | some k, some c =>
      let q := x.index % k.perSet
      let (core, lo) := sliceAt k c q
      match coreRoom s k core with
      | none => none
      | some w =>
        let s := clearSlice s lo k.scr
        let s := { s with
          sram := x.keptMem.foldl (fun m (a, b) => Memory.set m (lo + a) b) s.sram
          poison := x.keptPoison.foldl (fun l a => lput l (sramWord lo + a)) s.poison
          rels := x.keptRels.foldl (fun m (a, r) => fput m (if a % 2 == 0 then sramWord lo + a / 2 else objKey lo + a / 2) r) s.rels }
        let s := putGroup s g { x with state := .resident, core := core, warp := w, kept := [], keptMem := [], keptPoison := [], keptRels := [] }
        some (x.kept.foldl (fun s (n, a) => rekey (putAgent s (core * 2048 + 32 * w + n) (a.restored c.start)) a.uid (core * 2048 + 32 * w + n)) s)
    | _, _ => none

/-- The byte decrements kept for a cluster set's objects (R228). -/
def applyDecs (s : State) (ck : Nat) : State :=
  s.queues.foldl (fun s (qk, q) =>
    let mine := q.decs.filter (·.cset == ck)
    if mine.isEmpty then s else
    let s := mine.foldl (fun s d =>
      match (cset? s ck).bind fun c => scratchLocs s c none d.off 16 false with
      | some l => (mbDecrement s d.who l d.bytes).1
      | none => s) s
    match queue? s qk with
    | some q => putQueue s qk { q with decs := q.decs.filter (·.cset != ck) }
    | none => s) s

/-- The groups of a cluster set. -/
def setGroups (s : State) (ck : Nat) : List (Nat × Group) := s.groups.filter fun (_, g) => g.cset == ck

/-- A whole saved cluster set comes back onto one cluster. -/
def restoreCSetOn (s : State) (ck cl : Nat) : Option State :=
  match cset? s ck with
  | none => none
  | some x =>
    match kernel? s x.kernel with
    | none => none
    | some k =>
      match placeCSet s x.kernel x.index cl k with
      | none => none
      | some s =>
        let gs := (setGroups s ck).filter fun (_, g) => g.state == .saved
        (gs.foldl (fun o (g, _) => o.bind (restoreGroup · g)) (some s)).map fun s => settleKernel (applyDecs (restampEntries s ck cl) ck) x.kernel
/-- The clusters that a saved cluster set may return to, in the order they are tried. -/
def restoreClusters (s : State) (ck start : Nat) : List Nat :=
  match cset? s ck with
  | none => []
  | some x =>
    match kernel? s x.kernel, (kernel? s x.kernel).bind fun k => ctx? s k.asid with
    | some k, some c =>
      if x.placed then [] else
      (groupDies s c x.kernel (x.index * k.perSet) start k).flatMap clustersOf
    | _, _ => []
/-- A saved cluster set returns to the first cluster that has room for the whole of it. -/
def restoreCSet (s : State) (ck start : Nat) : Option State := firstSome (restoreCSetOn s ck) (restoreClusters s ck start)

/-- A cluster set leaves its cluster; its TASK queue is SAVED, with what its slot holds of the pending entries. -/
def releaseCSet (s : State) (ck : Nat) : State :=
  match cset? s ck with
  | none => s
  | some x =>
    modQueue (putCSet s ck { x with placed := false }) (taskQkey ck) fun q =>
      { q with state := if q.state == .disabled then .disabled else .saved, kept := q.state
               out := (upFrom q.doneN (q.pushed - q.doneN)).foldl (fun m n =>
                 fput m n ((deviceRead s q.asid (q.slotVa n) 64).getD 0, (deviceRead s q.asid (q.statusVa n) 4).getD 0)) [] }

/-- The distributor may save a cluster set of a WEAK kernel: nothing of its threads is outstanding, no task runs (R160). -/
def weakSavable (s : State) (ck : Nat) : Bool :=
  match cset? s ck with
  | none => false
  | some x =>
    (kernel? s x.kernel).any (fun k => k.cls == 2 && ctxState s k.asid == .running) && x.placed &&
    (setGroups s ck).all (fun (_, g) => g.state == .resident) && (queue? s (taskQkey ck)).all (·.head.isNone) &&
    s.agents.all fun (_, a) => !(a.kind == .thread && (group? s a.group).any (·.cset == ck)) ||
      (allPerformed s a.uid && !s.appends.any (·.uid == a.uid) && !prodsOut s a.uid && !loadsOut s a.uid && a.state != .stepping && a.state != .frozen)

/-- WEAK_GROUP_SAVE (R160, R174): the group is saved, with the rest of its cluster set. -/
def execWeakGroupSave (g : Nat) (s : State) : Out := event (fun s =>
  match group? s g with
  | some x =>
    if !weakSavable s x.cset then s else
    settleKernel (releaseCSet ((setGroups s x.cset).foldl (fun s (g, _) => saveGroup s g) s) x.cset) x.kernel
  | none => s) s
/-- GROUP_RESTORE (R174): a saved group returns together with its cluster set. -/
def execGroupRestore (g start : Nat) (s : State) : Out := event (fun s =>
  match group? s g with
  | some x => if (kernel? s x.kernel).any (ctxState s ·.asid == .running) then (restoreCSet s x.cset start).getD s else s
  | none => s) s

/-! ### The end of threads, groups and kernels (R106, R161, R162, R173) -/

/-- A thread of a group has ended: its barrier phase, its group and its kernel follow. -/
def endThread (s : State) (k : Nat) : State :=
  match agent? s k with
  | none => s
  | some a =>
    let s := putAgent s k { a.endRegion with state := .exited, wait := .none, inst := none, pending := [], refused := [], sfault := none, record := none }
    let s := { s with lists := s.lists.map fun (n, l) => (n, { l with takers := l.takers.filter (· != a.uid) }) }
    let s := barPhase s a.group
    if (groupAgents s a.group).any fun (_, b) => b.state != .exited then s else
    match group? s a.group with
    | none => s
    | some g =>
      let s := putGroup s a.group { g with state := .retiring }
      match kernel? s g.kernel with
      | some x =>
        if x.state == .running && (kernelGroups s g.kernel).all (fun (_, y) => y.state == .retiring) then putKernel s g.kernel { x with state := .retiring } else s
      | none => s

/-- Every store, atomic and APPEND of a group's threads has been performed. -/
def groupSettled (s : State) (g : Nat) : Bool :=
  (groupAgents s g).all fun (_, a) => s.reqs.all (fun r => r.who.uid != a.uid || r.acc.kind == .load || performed r) && !s.appends.any fun p => p.uid == a.uid

/-- An unstarted TASK entry completes with 0x24 (R263). -/
def flushTask (s : State) (qk n : Nat) : State :=
  match queue? s qk with
  | none => s
  | some q =>
    if (entMeta q n).flushed then s else
    let s := deviceWrite s q.asid (q.statusVa n) 4 (0x24 + 2 ^ 31)
    let s := modQueue s qk fun q => { q with
      ents := fput q.ents n { entMeta q n with flushed := true }, err := true, lastcode := 0x24, errnum := if q.err then q.errnum else n }
    deliverTo s (entMeta q n).issuer { code := .queueError, qid := q.qid, entry := n, x0 := 0x24 }
/-- Flushed entries leave the queue in order, once nothing runs before them. -/
def skipFlushed (s : State) (qk : Nat) : Nat → State
  | 0 => s
  | n + 1 =>
    match queue? s qk with
    | some q =>
      if q.head.isNone && q.doneN < q.pushed && (entMeta q q.doneN).flushed then
        skipFlushed (setQueue s qk { q with ents := fdel q.ents q.doneN, doneN := q.doneN + 1, state := if q.doneN + 1 < q.pushed then q.state else .idle }) qk n
      else s
    | none => s

/-- A retired cluster set whose task, if any, is DONE: its queue and its range go. -/
def freeCSet (s : State) (ck : Nat) : State :=
  match cset? s ck, queue? s (taskQkey ck) with
  | some c, some q => if c.retired && q.head.isNone then { s with csets := fdel s.csets ck, queues := fdel s.queues (taskQkey ck) } else s
  | some c, none => if c.retired then { s with csets := fdel s.csets ck } else s
  | _, _ => s
/-- A HEAD task that has not been admitted. -/
def headWaits (q : Queue) : Bool := match q.head with | some h => !h.marked | none => false
/-- The last group of a cluster set has retired (R263). -/
def retireCSet (s : State) (ck : Nat) : State :=
  match cset? s ck with
  | none => s
  | some c =>
    let qk := taskQkey ck
    let s := putCSet s ck { c with retired := true }
    let s := match queue? s qk with
      | some q => if headWaits q then putQueue s qk { q with head := none } else s
      | none => s
    let s := match queue? s qk with
      | some q =>
        let first := match q.head with | some h => h.num + 1 | none => q.doneN
        let s := (upFrom first (q.pushed - first)).foldl (fun s n => flushTask s qk n) s
        let s := skipFlushed s qk (q.pushed - first)
        if q.head.isNone then s else
        -- the running task loses the scratchpad, which returns now: no k-step is in progress between events
        let mine (r : Req) : Bool := r.acc.scratch && !performed r && s.agents.any fun (_, a) => a.kind == .task && a.queue == qk && a.uid == r.who.uid
        let s := (s.reqs.filter mine).foldl (fun s r => conclude s r .prot) s
        putEngine (putCSet s ck { c with retired := true, size := 0 }) c.cluster { engine s c.cluster with barred := true }
      | none => s
    freeCSet s ck

/-- GROUP_RETIREMENT (R173): slots become EMPTY, registers and scratchpad return; the cluster set may go with its last group. -/
def execGroupRetirement (g : Nat) (s : State) : Out := event (fun s =>
  match group? s g with
  | none => s
  | some x =>
    if x.state != .retiring || !groupSettled s g then s else
    match kernel? s x.kernel with
    | none => s
    | some k =>
      let clk := (groupAgents s g).foldl (fun c (_, a) => cmax c a.relClk) []
      let s := modHead s k.q fun h => { h with who := { h.who with clk := cmax h.who.clk clk } }
      let s := { s with agents := s.agents.filter (fun (_, a) => !(a.kind == .thread && a.group == g)), groups := fdel s.groups g }
      let s := putKernel s x.kernel { k with gone := k.gone + 1 }
      match cset? s x.cset with
      | some c =>
        let s := putCSet s x.cset { c with live := c.live - 1 }
        if c.live ≤ 1 then retireCSet s x.cset else s
      | none => s) s

def listsOf (s : State) (kern : Nat) : List (Nat × WList) := s.lists.filter fun (n, _) => n / 4096 == kern
/-- KERNEL_RETIREMENT (R162): the kernel is RETIRED and its lists go, SIGNAL gets its 1, then the launch entry completes. Where the addition stops,
it is made again as the entry goes on; an entry that is killed meanwhile makes its own (R238, R347). -/
def execKernelRetirement (kern : Nat) (s : State) : Out := event (fun s =>
  match kernel? s kern with
  | none => s
  | some k =>
    if !(k.state == .retiring || k.state == .retired) || k.gone < k.groups || !queuesRun s k.asid then s else
    let gone (s : State) : State := { s with kernels := fdel s.kernels kern, lists := s.lists.filter fun (n, _) => n / 4096 != kern }
    match (queue? s k.q).bind fun q => (q.head.filter fun h => h.num == k.entryNo && !h.finished).map fun h => (q, h) with
    | none => gone s
    | some (q, h) =>
      if q.state == .faulted then s else
      let drop := (listsOf s kern).any fun (_, l) => !l.items.isEmpty
      let s := modHead (putKernel { gone s with kernels := s.kernels } kern { k with state := .retired }) k.q fun h => { h with wldrop := h.wldrop || drop }
      let fin (s : State) (code : Nat) : State := finishHead (gone s) k.q code
      if k.signal == 0 then fin s 0 else
      match addSignal s h.who k.signal 1 with
      | .done s race => fin s (if race then 0x22 else 0)
      | .wait => s
      | .full _ => stopEntry s k.q q h.num .sideLogFull k.signal 1 0 (.entry k.q h.num)
      | _ => fin s 0x21) s

/-- An ABORTED kernel: its groups are gone, their threads and tasks with them (R161, R173, R349). -/
def abortKernel (s : State) (kern : Nat) : State :=
  let mine (a : Agent) : Bool := a.kind == .thread && a.kernel == kern
  let s := updateCaps s (fun r => match r.target with | .agent k u => (party? s k u).any mine | _ => false) fun c => { c with valid := false }
  { s with
    agents := s.agents.filter fun (_, a) => !mine a && !(a.kind == .task && (queue? s a.queue).any fun q => q.cset / 2 ^ 64 == kern)
    groups := s.groups.filter fun (_, g) => g.kernel != kern
    queues := s.queues.filter fun (_, q) => !(q.kind == 4 && q.cset / 2 ^ 64 == kern)
    csets := s.csets.filter fun (_, c) => c.kernel != kern
    lists := s.lists.filter fun (n, _) => n / 4096 != kern
    appends := s.appends.filter (·.kernel != kern)
    kernels := match kernel? s kern with | some k => fput s.kernels kern { k with state := if k.state == .retired then k.state else .aborted } | none => s.kernels }

/-! ### Work lists (R164 to R169) -/

def wlist (s : State) (kern d : Nat) : WList := fgetD s.lists (lkey kern d) {}
def putList (s : State) (kern d : Nat) (l : WList) : State := { s with lists := fput s.lists (lkey kern d) l }
/-- What a WLTAKE delivers: an item, with what its APPEND released for a later acquire fence (R170), or none at quiescence. -/
def Agent.take (a : Agent) (f : FormL) (item : Option (DWord × List Rel)) : Agent :=
  let b := (a.putV f.dst.toNat 2 (item.elim 0 (·.1.toNat))).setP f.c.toNat item.isNone
  { b with acqP := (item.elim [] (·.2)).foldl addRel b.acqP }
/-- A waiting WLTAKE of a party completes, where it stands or in its saved group. -/
def finishTake (s : State) (uid : Nat) (item : Option (DWord × List Rel)) : State :=
  match agentOf s uid with
  | some (k, a) =>
    (match a.inst with
    | none => s
    | some (_, f, len) => settle k a len (.next (putAgent s k { (a.take f item) with inst := none, wait := .none })))
  | none =>
    -- in a saved group the instruction counts as issued there (R354)
    let s := { s with groups := s.groups.map fun (n, g) =>
      (n, if g.kept.any (fun (_, t) => t.uid == uid && t.inst.isSome) then { g with issued := min (2 ^ 32 * 256 - 1) (g.issued + 1) } else g) }
    (modSaved s uid fun a => match a.inst with
      | some (_, f, len) => { advance (a.take f item) a.pc (a.pc + BitVec.ofNat 64 len) with inst := none, wait := .none }
      | none => a).getD s

/-- APPEND_ARRIVAL (R164, R167): the item enters its list or serves the first waiting taker; a full list freezes the thread. -/
def execAppendArrival (id : Nat) (s : State) : Out := event (fun s =>
  match s.appends.find? (·.id == id) with
  | none => s
  | some p =>
    let s := { s with appends := s.appends.filter (·.id != id) }
    let done (s : State) : State :=
      match party? s p.key p.uid with
      | some a => if a.state != .exited && a.wait == .own then finishWait s p.key none [] else s
      | none => s
    let l := wlist s p.kernel p.list
    match l.takers with
    | t :: ts => done (finishTake (putList s p.kernel p.list { l with takers := ts }) t (some (p.item, p.rels)))
    | [] =>
      if (kernel? s p.kernel).any fun k => l.items.length < 2 ^ k.wlcapl then done (putList s p.kernel p.list { l with items := l.items ++ [(p.item, p.rels)] })
      else
        match party? s p.key p.uid with
        | some a => if a.state != .exited then freeze s p.key .queueError else s
        | none => s) s

/-- A kernel is quiescent (R169). A STEPPING thread that waits in its WLTAKE counts as WAITING there: DESIGN CHOICE, log 81. -/
def quietDue (s : State) (kern : Nat) (k : Kernel) : Bool :=
  let live := s.agents.filter fun (_, a) => a.kind == .thread && a.kernel == kern && a.state != .exited
  let takes (a : Agent) : Bool := match a.wait with | .take _ => a.state == .ready || a.state == .stepping | _ => false
  k.nwl != 0 && !k.quiet && k.state == .running && !live.isEmpty && live.all (fun (_, a) => takes a) &&
  (listsOf s kern).all (fun (_, l) => l.items.isEmpty) && !s.appends.any (·.kernel == kern)
/-- QUIESCENCE (R169): every waiting WLTAKE of the kernel completes with true. -/
def execQuiescence (kern : Nat) (s : State) : Out := event (fun s =>
  match kernel? s kern with
  | none => s
  | some k =>
    if !quietDue s kern k then s else
    let takers := (s.agents.filter fun (_, a) => a.kind == .thread && a.kernel == kern && (match a.wait with | .take _ => true | _ => false)).map (·.2.uid)
    let s := { putKernel s kern { k with quiet := true } with lists := s.lists.map fun (n, l) => (n, if n / 4096 == kern then { l with takers := [] } else l) }
    takers.foldl (fun s t => finishTake s t none) s) s

/-! ### The instructions' bodies -/

/-- LAUNCH (R163): the header is copied at issue; the push keeps the thread's release fences for the kernel's start. -/
def bodyLaunch (c : Ctx') : Go :=
  let qk := qkey c.a.asid (modBits c.mod 1 0)
  if c.va % 64 != 0 then .freeze c.s .misaligned { addr := BitVec.ofNat 64 c.va }
  else
    match readOnce c c.va 64 with
    | .inl g => g
    | .inr (s, h) => pushOr c s qk h { metaOf c.k c.a [] with lclk := c.a.relF } (some h)

/-- APPEND (R167): the thread waits until its item is in the list or its fault is raised. -/
def bodyAppend (c : Ctx') : Go :=
  let d := low 32 c.vb
  match kernel? c.s c.a.kernel with
  | none => queueError c
  | some k =>
    if d ≥ k.nwl || k.quiet then queueError c
    -- what its thread wrote before a release fence comes before the item (R170)
    else if c.a.fences.any fun f => f.order != 2 && fenceHolds c.s (c.s.reqs.filter (·.who.uid == c.a.uid)) c.a.uid c.a.seq false f then .wait c.s .retry
    else
      let (id, s) := freshId c.s
      .wait (modAgent { s with appends := s.appends ++ [{ id := id, key := c.k, uid := c.a.uid, kernel := c.a.kernel, list := d, item := BitVec.ofNat 64 c.va, rels := c.a.relF }] }
        c.k fun a => { a with inst := some (.append, c.f, c.len) }) .own

/-- WLTAKE (R168). -/
def bodyWltake (c : Ctx') : Go :=
  let d := low 32 c.vb
  match kernel? c.s c.a.kernel with
  | none => queueError c
  | some k =>
    if d ≥ k.nwl then queueError c
    else if k.quiet then .next (c.upd fun a => a.take c.f none)
    else
      let l := wlist c.s c.a.kernel d
      match l.items with
      | x :: t => .next (modAgent (putList c.s c.a.kernel d { l with items := t }) c.k fun a => a.take c.f (some x))
      | [] => .wait (modAgent (putList c.s c.a.kernel d { l with takers := l.takers ++ [c.a.uid] }) c.k fun a =>
          { ((a.emptyV c.f.dst.toNat 2).emptyP c.f.c.toNat) with inst := some (.wltake, c.f, c.len) }) (.take (lkey c.a.kernel d))

/-! ### The instructions -/

/-- APPEND (R167): Appends a 64-bit item to a work list. -/
def execAppend (f : FormL) (s : State) : Out := issueL .append f bodyAppend s
/-- WLTAKE (R168): Producer that takes an item from a work list, or reports quiescence. -/
def execWltake (f : FormL) (s : State) : Out := issueL .wltake f bodyWltake s
/-- LAUNCH (R163): Reads a launch header and pushes it into a launch queue. -/
def execLaunch (f : FormL) (s : State) : Out := issueL .launch f bodyLaunch s

end Sys2Proof.Machine
end

