-- ==== Sys2Proof/Machine/Tile.lean ====
section
/-!
DEFINITION. Sys2Proof/Machine/Tile.lean: tile tasks (R255 to R266, R285), tiles and views (R267 to R273), the matrix engine (R274 to R276) and
the instructions of the control core (R277 to R284).
-/
namespace Sys2Proof.Machine

/-! ### Task records (R255, R256) -/

def recCode (r : Nat) : Nat := bitsN r 63 0
def recFrame (r : Nat) : Nat := bitsN r 127 64
def recJoin (r : Nat) : Nat := bitsN r 191 128
def recCont (r : Nat) : Nat := bitsN r 255 192
def recEnergy (r : Nat) : Nat := bitsN r 463 448
def recPeak (r : Nat) : Nat := bitsN r 471 464
def recPri (r : Nat) : Nat := bitsN r 473 472
/-- A declared input tile: its window offset, bytes, token and threshold. -/
structure InTile where
  off : Nat
  len : Nat
  tok : Nat
  thr : Nat
  res : Nat
  deriving DecidableEq, Repr
def inTile (r i : Nat) : InTile :=
  let t := bitsN r (48 * i + 303) (48 * i + 256)
  { off := 2 ^ 31 + bitsN t 13 0 * 256, len := bitsN t 23 14 * 256, tok := bitsN t 29 24, thr := bitsN t 47 32, res := bitsN t 31 30 }
/-- The used slots. -/
def inTiles (r : Nat) : List InTile := ((upFrom 0 4).map (inTile r)).filter (·.len != 0)

/-- A byte range lies in a cluster set's window (R176). -/
def inWindow (s : State) (c : CSet) (off n : Nat) : Bool :=
  n == 0 || (off + n ≤ 2 ^ 32 && (off + n - 1) / 2 ^ 20 == off / 2 ^ 20 && (scratchByte s c none off).isSome && (scratchByte s c none (off + n - 1)).isSome)

/-- The fault of a task record, 0 for none (R257, R259). -/
def taskFault (s : State) (c : CSet) (r : Nat) : Nat :=
  if recCode r % 8 != 0 || recJoin r % 8 != 0 || recCont r % 64 != 0 || bitsN r 511 474 != 0 || (inTiles r).any (·.res != 0) then 0x40
  else if (inTiles r).any fun t => bitN t.off 19 || !inWindow s c t.off t.len then 0x41
  else 0

/-- Token t has reached a threshold (R256). -/
def reached (c : CSet) (t : InTile) : Bool := (fgetD c.toks t.tok 0 + 65536 - t.thr) % 65536 < 32768
/-- What an admission acquires from a token: every addition up to the one that reached the threshold in the current round (R262). -/
def tokClock (c : CSet) (t : InTile) : Clock :=
  let l := c.adds.filter (·.tok == t.tok)
  (l.take (l.length - (fgetD c.toks t.tok 0 + 65536 - t.thr) % 65536)).foldl (fun m a => cmax m a.clk) []

/-- A task that has ended on a cluster has an access that is not performed yet: no next entry begins before it is (R212). -/
def lateTask (s : State) (cl : Nat) : Bool :=
  s.reqs.any (fun r => r.who.key == taskBase + cl && (party? s r.who.key r.who.uid).isNone && r.stage != .returned && !(r.acc.scratch && performed r)) ||
  s.markers.any fun m => (agentOf s m.uid).isNone && !s.groups.any fun (_, g) => g.kept.any fun (_, a) => a.uid == m.uid
/-- TASK_HEAD (R259): an entry becomes the head of its TASK queue, and its record is checked. -/
def taskHead (qk : Nat) (s : State) : State :=
  match queue? s qk with
  | none => s
  | some q =>
    if q.kind != 4 || !startable s q || (cset? s q.cset).any (fun c => lateTask s c.cluster) then s
    else if (entMeta q q.doneN).flushed then skipFlushed s qk (q.pushed - q.doneN)
    else
      match startHead s qk q, cset? s q.cset with
      | some (s, h), some c =>
        if (entMeta q h.num).marker.isSome then s
        else if c.retired then finishHead s qk 0x24
        else (match taskFault s c h.img with | 0 => s | code => finishHead s qk code)
      | _, _ => s
def execTaskHead (qk : Nat) (s : State) : Out := event (taskHead qk) s

/-! ### Admission (R258, R260 to R262, R353) -/

/-- A head entry that waits for admission on a cluster, with its queue and cluster set. -/
def waiting (s : State) (cl : Nat) : List (Nat × Queue × Head × CSet) :=
  s.queues.filterMap fun (qk, q) =>
    match q.head, cset? s q.cset with
    | some h, some c =>
      if q.kind == 4 && c.placed && c.cluster == cl && !c.retired && !h.marked && !h.finished && !(entMeta q h.num).marker.isSome &&
          ctxState s q.asid == .running then some (qk, q, h, c) else none
    | _, _ => none

def admissible (s : State) (cl : Nat) (q : Queue) (h : Head) (c : CSet) : Bool :=
  let x := cluster s cl; let d := dieSt s (cl / Config.numClusters); let e := recEnergy h.img
  let charged := fgetD x.charged q.asid 0; let teq := (ctx? s q.asid).elim 0 (·.teq)
  (inTiles h.img).all (reached c) && (e ≤ x.remaining || (e > d.allow.toNat && x.admitted == 0)) && recPeak h.img ≤ d.amps.toNat &&
  (teq == 0 || charged + e ≤ teq || (e > teq && fgetD x.admittedBy q.asid 0 == 0))

/-- The head that the scheduler takes: the highest priority, and round robin by queue among equals. -/
def chosen (s : State) (cl : Nat) : Option (Nat × Queue × Head × CSet) :=
  let l := (waiting s cl).filter fun (_, q, h, c) => admissible s cl q h c
  let top := l.foldl (fun m (_, _, h, _) => max m (recPri h.img)) 0
  let l := l.filter fun (_, _, h, _) => recPri h.img == top
  match l.find? fun (qk, _) => (cluster s cl).turn < qk with
  | some x => some x
  | none => l.head?

/-- Starts a task on its cluster's control core (R261, R262), charged its declared energy (R260). -/
def startTask (s : State) (cl qk : Nat) (q : Queue) (h : Head) (c : CSet) : State :=
  let (uid, s) := freshUid s
  let x := cluster s cl; let e := recEnergy h.img
  let s := putCluster s cl { x with
    remaining := x.remaining - e, admitted := x.admitted + 1, charged := fput x.charged q.asid (fgetD x.charged q.asid 0 + e)
    admittedBy := fput x.admittedBy q.asid (fgetD x.admittedBy q.asid 0 + 1), turn := qk
    eng := { join := BitVec.ofNat 64 (recJoin h.img), cont := BitVec.ofNat 64 (recCont h.img), code := h.code } }
  let clk := (inTiles h.img).foldl (fun m t => cmax m (tokClock c t)) h.who.clk
  let a : Agent := { kind := .task, uid := uid, asid := q.asid, tasid := q.asid, kernel := c.kernel, nregs := 32, pc := BitVec.ofNat 64 (recCode h.img),
                     clk := clk, queue := qk, entryNo := h.num }
  modHead (putAgent s (taskKey cl) ((a.putX 1 (recFrame h.img)).putX 2 (q.slotVa h.num))) qk fun h => { h with marked := true }

/-- The cluster has a task to admit and no task runs there. -/
def admitDue (s : State) (cl : Nat) : Bool := (agent? s (taskKey cl)).isNone && (chosen s cl).isSome
/-- TASK_ADMISSION (R258, R260). -/
def execTaskAdmission (cl : Nat) (s : State) : Out := event (fun s =>
  if (agent? s (taskKey cl)).isSome then s else
  match chosen s cl with
  | some (qk, q, h, c) => startTask s cl qk q h c
  | none => s) s

/-- The end of a task: DONE with a code, and the control core is free (R257, R285). -/
def endTask (s : State) (k code : Nat) : State :=
  match agent? s k with
  | none => s
  | some a =>
    let cl := clusterOf k
    let s := sendMarkers s k
    let s := putEngine { s with agents := fdel s.agents k, prods := s.prods.filter (·.uid != a.uid) } cl
      { engine s cl with ops := [], want := none, join := 0, cont := 0, barred := false }
    match queue? s a.queue with
    | none => s
    | some q =>
      match q.head with
      | none => s
      | some h =>
        let s := retireEntry s a.queue q { h with who := { whoOf k a with engine := true } } code
        -- a retired cluster set goes with its last task (R263)
        match queue? s a.queue, cset? s q.cset with
        | some q, some c =>
          if !c.retired then s else
          freeCSet ((upFrom q.doneN (q.pushed - q.doneN)).foldl (fun s n => flushTask s a.queue n) s) q.cset
        | _, _ => s

/-! ### Operands of the matrix engine (R267 to R273) -/

/-- Fields of the format word (R269). -/
def fmA (f : Nat) : Nat := bitsN f 3 0
def fmB (f : Nat) : Nat := bitsN f 7 4
def isNf (fmt : Nat) : Bool := 4 ≤ fmt && fmt ≤ 6

/-- K per step of a row of R270 that allows an accumulator type (0 F32, 1 F64, 2 I32). -/
def kPerStep (a b acct : Nat) : Option Nat :=
  let f32 := acct == 0
  let both (p : Nat → Bool) : Bool := p a && p b
  if both (· == 0) then (if acct == 1 then some 8 else none)
  else if both (· == 1) then (if f32 then some 16 else none)
  else if both fun x => x == 2 || x == 3 then (if f32 then some 32 else none)
  else if both (· == 7) then (if f32 || acct == 2 then some 16 else none)
  else if both fun x => x == 4 || x == 5 || x == 8 || x == 9 then
    (if f32 || (acct == 2 && both fun x => x == 8 || x == 9) then some 64 else none)
  else if both fun x => x == 6 || x == 10 || x == 11 || x == 13 then
    (if f32 || (acct == 2 && both fun x => x == 10 || x == 11) then some 128 else none)
  else if both (· == 12) then (if f32 || acct == 2 then some 256 else none)
  else none

/-- How one operand's codes are read: format, descriptor, table and inverse curve. -/
structure Side where
  fmt : Nat
  nf  : Nf
  tab : Nat
  cmp : Bool
  deriving DecidableEq, Repr
def Engine.nfAt (e : Engine) (n : Nat) : BitVec 16 := fgetD e.nf n 0
def sideA (e : Engine) (f : Nat) : Side :=
  { fmt := fmA f, nf := nfOf (e.nfAt (bitsN f 10 8)), tab := fgetD e.ct (bitsN f 15 14) 0, cmp := bitN f 18 }
def sideB (e : Engine) (f : Nat) : Side :=
  { fmt := fmB f, nf := nfOf (e.nfAt (bitsN f 13 11)), tab := fgetD e.ct (bitsN f 17 16) 0, cmp := bitN f 19 }

/-- The value of a code (R271), with the flags of the inverse curve's rounding. -/
def Side.value (x : Side) (code : Nat) : Num × BitVec 5 :=
  let v := match x.fmt with
    | 0 => f64.decode code | 1 => f32.decode code | 2 => f16.decode code | 3 => bf16.decode code
    | 4 | 5 | 6 => x.nf.decode code
    | 13 => f16.decode (bitsN x.tab (16 * code + 15) (16 * code))
    | n => intNum (fmtWidth n) (fmtSigned n) code
  if x.cmp then (let (r, fl) := finish f32 [] false (curve x.tab true v) 0; (f32.decode r, fl)) else (v, 0)
def Side.int (x : Side) (code : Nat) : Int := if fmtSigned x.fmt then toS (fmtWidth x.fmt) code else code
/-- A value times its block scale (R69); none for an operand without scales. -/
def scaled (x : Num) (e : Nat) : Num := if e == 255 then .nan false else scaleNum x ((e : Int) - 127)

/-- A tile register: offset, stride for rows of n bytes (R267). -/
def tileOff (t : Nat) : Nat := bitsN t 31 0
def tileStr (t n : Nat) : Nat := if bitsN t 43 32 == 0 then n else bitsN t 43 32
/-- An operand with a scale vector (R268), and its scale words per row. -/
def hasScales (fmt acct : Nat) : Bool := acct == 0 && 4 ≤ fmt && fmt ≤ 13
def scaleWords (ktot : Nat) : Nat := ceilDiv (ceilDiv ktot 32) 4

/-- Fields of a view (R272). -/
structure View where
  base : Nat
  c : Nat
  w : Nat
  h : Nat
  nb : Nat
  kh : Nat
  kw : Nat
  sh : Nat
  sw : Nat
  ph : Nat
  pw : Nat
  dh : Nat
  dw : Nat
  oh : Nat
  ow : Nat
  deriving DecidableEq, Repr
def viewOf (v : Nat) : View :=
  let word (n : Nat) : Nat := bitsN v (32 * n + 31) (32 * n)
  let byte (n b : Nat) : Nat := bitsN (word n) (8 * b + 7) (8 * b)
  { base := word 0, c := word 1 % 65536, w := word 1 / 65536, h := word 2 % 65536, nb := word 2 / 65536, kh := byte 3 0, kw := byte 3 1,
    sh := byte 3 2, sw := byte 3 3, pw := byte 4 0, ph := byte 4 1, dh := byte 4 2, dw := byte 4 3, oh := word 5 % 65536, ow := word 5 / 65536 }
/-- Bytes of the activation tensor. -/
def View.bytes (x : View) (w : Nat) : Nat := x.nb * x.h * x.w * x.c * w / 8
/-- The stream element that row i, column k of a view reads, none for 0 (R273); k counts from the view's first column. -/
def View.element (x : View) (p k : Nat) : Option Nat :=
  let n := p / (x.oh * x.ow); let oy := p / x.ow % x.oh; let ox := p % x.ow
  let ky := k / (x.kw * x.c); let kx := k / x.c % x.kw; let c := k % x.c
  let y : Int := (oy * x.sh + ky * x.dh : Nat) - (x.ph : Int); let xx : Int := (ox * x.sw + kx * x.dw : Nat) - (x.pw : Int)
  if p ≥ x.nb * x.oh * x.ow || k ≥ x.kh * x.kw * x.c || y < 0 || y ≥ x.h || xx < 0 || xx ≥ x.w then none
  else some (((n * x.h + y.toNat) * x.w + xx.toNat) * x.c + c)

/-! ### Engine accesses to scratchpad -/

/-- What the engine has fetched: 32 rows of codes, each with its scale (127 where there is none). -/
structure Fetch where
  s      : State
  rows   : List (List (Nat × Nat)) := []
  poison : Bool := false
  race   : Bool := false
  deriving DecidableEq, Repr

/-- Reads the bytes at the given window offsets as one engine access; none of them exists in a window that has gone. -/
def engineRead (f : Fetch) (w : Who) (c : CSet) (offs : List Nat) : Fetch × Nat :=
  let locs := offs.filterMap (scratchByte f.s c none)
  if locs.isEmpty then (f, 0) else
  match performScratch f.s w (scratchEngine .load locs 0) 0 with
  | .done s v po r => ({ f with s := s, poison := f.poison || po, race := f.race || r }, v)
  | _ => (f, 0)

/-- Rows of a tile: k columns from column k0, of ktot in all (R267, R268). -/
def fetchTile (s : State) (w : Who) (c : CSet) (t fmt acct k0 k ktot : Nat) : Fetch :=
  let wd := fmtWidth fmt; let off := tileOff t; let str := tileStr t (ktot * wd / 8)
  let b0 := k0 / 32; let w0 := b0 / 4; let w1 := (k0 + k - 1) / 32 / 4
  (upFrom 0 32).foldl (fun f r =>
    let (f, v) := engineRead f w c (upFrom (off + r * str + k0 * wd / 8) (k * wd / 8))
    let (f, sc) := if hasScales fmt acct then engineRead f w c (upFrom (off + 32 * str + 4 * scaleWords ktot * r + 4 * w0) (4 * (w1 + 1 - w0))) else (f, 0)
    let row := (upFrom 0 k).map fun i =>
      let b := (k0 + i) / 32 - 4 * w0
      (bitsN v (wd * i + wd - 1) (wd * i), if hasScales fmt acct then bitsN sc (8 * b + 7) (8 * b) else 127)
    { f with rows := f.rows ++ [row] }) { s := s }

/-- Rows of a view step (R273); a column without an element reads nothing. Its code is 0 in a format whose 0 is not code 0, so the
column is marked by scale 256. -/
def fetchView (s : State) (w : Who) (c : CSet) (x : View) (fmt p0 k0 k : Nat) : Fetch :=
  let wd := fmtWidth fmt
  (upFrom 0 32).foldl (fun f i =>
    let els := (upFrom 0 k).map fun j => x.element (p0 + i) (k0 + j)
    let bytes := els.foldl (fun l e => match e with | some n => (upFrom (n * wd / 8) ((n * wd + wd - 1) / 8 + 1 - n * wd / 8)).foldl lput l | none => l) []
    let (f, v) := engineRead f w c (bytes.map (x.base + ·))
    let at_ (b : Nat) : Nat := let i := bytes.findIdx (· == b); bitsN v (8 * i + 7) (8 * i)
    let row := els.map fun e =>
      match e with
      | none => (0, 256)
      | some n =>
        let b := n * wd / 8
        let bits := ((upFrom 0 9).filter fun d => b + d ≤ (n * wd + wd - 1) / 8).foldl (fun m d => m + at_ (b + d) * 2 ^ (8 * d)) 0
        (bitsN bits (n * wd % 8 + wd - 1) (n * wd % 8), 127)
    { f with rows := f.rows ++ [row] }) { s := s }

/-- Rows of BYP from a column on; columns 32 and above read 0 (R279). -/
def fetchByp (s : State) (b : Byp) (k0 k : Nat) : Fetch :=
  { s := s, poison := b.poison
    rows := (upFrom 0 32).map fun i => (upFrom k0 k).map fun j => if j < 32 then (fgetD b.codes (32 * i + j) 0, 127) else (0, 256) }

/-! ### Accumulators -/

/-- n words of a rising map from key k on, 0 where nothing is listed. -/
def wordsFrom : FMap Word → Nat → Nat → List Word
  | _, _, 0 => []
  | [], k, n + 1 => 0 :: wordsFrom [] (k + 1) n
  | (j, v) :: t, k, n + 1 => if j == k then v :: wordsFrom t (k + 1) n else 0 :: wordsFrom ((j, v) :: t) (k + 1) n
/-- The 1,024 words of accumulator n. -/
def Engine.accWords (e : Engine) (n : Nat) : List Word := wordsFrom (e.acc.filter fun (k, _) => k / 1024 == n) (1024 * n) 1024
def Engine.putAcc (e : Engine) (n : Nat) (l : List Word) : Engine :=
  let new := ((upFrom (1024 * n) 1024).zip l).filter fun (_, v) => v != 0
  { e with acc := e.acc.filter (fun (k, _) => k / 1024 < n) ++ new ++ e.acc.filter fun (k, _) => n < k / 1024 }
/-- The elements of an accumulator, or of the pair n and n + 1 as F64 (R50). -/
def Engine.elements (e : Engine) (n : Nat) (pair : Bool) : List Nat :=
  let lo := (e.accWords n).map (·.toNat)
  if pair then (lo.zip (e.accWords (n + 1))).map fun (l, h) => l + h.toNat * 2 ^ 32 else lo
def Engine.putElements (e : Engine) (n : Nat) (pair : Bool) (l : List Nat) : Engine :=
  let e := e.putAcc n (l.map (BitVec.ofNat 32))
  if pair then e.putAcc (n + 1) (l.map fun x => BitVec.ofNat 32 (x / 2 ^ 32)) else e
def accNums (n : Nat) (pair : Bool) : List Nat := if pair then [n, n + 1] else [n]
def Engine.clearAcc (e : Engine) (n : Nat) (pair : Bool) : Engine :=
  { e.putElements n pair (List.replicate 1024 0) with accPoison := e.accPoison.filter fun x => !(accNums n pair).contains x }
def Engine.accBad (e : Engine) (n : Nat) (pair : Bool) : Bool := (accNums n pair).any e.accPoison.contains

/-! ### Sums (R75 to R77) -/

/-- R75: one fused multiply-add per k. -/
def sumFma (f : Fmt) (acc : Nat) (ps : List (Num × Num)) : Nat × BitVec 5 :=
  ps.foldl (fun (r : Nat × BitVec 5) (x : Num × Num) =>
    let c := f.decode r.1
    let (v, fl) := finish f [x.1, x.2, c] (mulBad x.1 x.2) (fmaExact x.1 x.2 c 0) 0
    (v, r.2 ||| fl)) (acc, 0)

/-- The exact sum of a rounding group's products (R76), NaN where it is invalid. -/
def groupSum (ps : List (Num × Num)) : Num :=
  let ms := ps.map fun (a, b) => if a.isNan || b.isNan || mulBad a b then Num.nan false else mulN a b
  if ms.any Num.isNan then .nan false
  else
    match ms.filter Num.isInf with
    | [] => (match ms with | [] => .fin false 0 0 | m :: t => t.foldl (fun x y => addN x y 0) m)
    | i :: t => if t.any (·.neg? != i.neg?) then .nan false else i
/-- R76: groups of g products, each summed exactly, rounded, and added with one more rounding. -/
def sumGroups (g : Nat) : Nat → Nat → List (Num × Num) → Nat × BitVec 5
  | 0, acc, _ => (acc, 0)
  | n + 1, acc, ps =>
    if ps.isEmpty then (acc, 0) else
    let x := groupSum (ps.take g)
    let (r, f1) := f32.ofNum x 0
    let c := f32.decode acc; let d := f32.decode r
    let (v, f2) := finish f32 [c, d] false (addExact c d 0) 0
    let (v, f3) := sumGroups g n v (ps.drop g)
    (v, (if x.isNan then fNV else f1) ||| f2 ||| f3)
/-- R77. -/
def sumInts (acc : Nat) (sat : Bool) (ps : List (Int × Int)) : Nat :=
  narrow 32 true sat (ps.foldl (fun t (a, b) => t + a * b) (toS 32 acc))

/-! ### The engine's operations (R274, R279, R281, R282) -/

def SeqRec.m (r : SeqRec) : BitVec 15 := r.mod
def SeqRec.isMul (r : SeqRec) : Bool := 0xC4 ≤ r.opc && r.opc ≤ 0xC7
/-- The A source of a multiplication: 0 tile, 1 view, 2 BYP (R279). -/
def aSource (opc : Nat) (m : BitVec 15) : Nat := match opc with | 0xC4 => 0 | 0xC5 => 1 | 0xC6 => 2 | _ => modBits m 5 4
def stepsOf (opc : Nat) (m : BitVec 15) : Nat := if opc == 0xC7 then modBits m 14 6 + 1 else 1
def SeqRec.steps (r : SeqRec) : Nat := if r.isMul then stepsOf r.opc r.m else 1
def SeqRec.pair (r : SeqRec) : Bool := if r.isMul then modBits r.m 1 0 == 1 else if r.opc == 0xC3 then modBit r.m 0 else modBit r.m 2
/-- The first element of a view that a step reads, row by row (R273). -/
def firstElement (x : View) (p0 k0 k : Nat) : Option Nat :=
  (upFrom 0 32).findSome? fun i => (upFrom 0 k).findSome? fun j => x.element (p0 + i) (k0 + j)
/-- The operation names a scratchpad tile (R263), from the offset that it would access first. -/
def SeqRec.scratch? (r : SeqRec) (e : Engine) (k : Nat) : Option Nat :=
  if r.isMul then
    let f := r.fmw.toNat
    let b := tileOff r.bop.toNat + r.next * k * fmtWidth (fmB f) / 8
    let x := viewOf (fgetD e.cv (r.af - 0x2C) 0)
    some (match aSource r.opc r.m with
    | 0 => tileOff r.aop.toNat + r.next * k * fmtWidth (fmA f) / 8
    | 1 => (firstElement x (32 * bitsN f 47 32) (bitsN f 63 48 * k + r.next * k) k).elim b fun n => x.base + n * fmtWidth (fmA f) / 8
    | _ => b)
  else if r.opc == 0xC8 && !modBit r.m 3 then some (tileOff r.aop.toNat) else none

/-- One k-step of a multiplication (R279). -/
def mulStep (s : State) (cl qk num : Nat) (issuer : Option (Nat × Nat)) (c : CSet) (r : SeqRec) (k : Nat) : State :=
  let e := engine s cl; let f := r.fmw.toNat; let acct := modBits r.m 1 0; let n := r.dst - 0x30; let pair := r.pair
  let a := sideA e f; let b := sideB e f; let ktot := k * r.steps; let k0 := r.next * k
  let fa := match aSource r.opc r.m with
    | 0 => fetchTile s r.who c r.aop.toNat a.fmt acct k0 k ktot
    | 1 => fetchView s r.who c (viewOf (fgetD e.cv (r.af - 0x2C) 0)) a.fmt (32 * bitsN f 47 32) (bitsN f 63 48 * k + k0) k
    | _ => fetchByp s (e.byp.getD { fmt := 0, desc := 0, codes := [] }) ((if r.opc == 0xC6 then modBits r.m 5 4 * k else 0) + k0) k
  let fb := fetchTile fa.s r.who c r.bop.toNat b.fmt acct k0 k ktot
  let fresh := modBit r.m 3 && r.next == 0
  let old := if fresh then List.replicate 1024 0 else e.elements n pair
  let poison := fa.poison || fb.poison || (!fresh && e.accBad n pair)
  let (new, fl) :=
    if acct == 2 then
      let ar := fa.rows.map (·.map fun (x, sc) => if sc == 256 then 0 else a.int x)
      let br := fb.rows.map (·.map fun (x, _) => b.int x)
      ((old.zip (ar.flatMap fun x => br.map fun y => (x, y))).map fun (o, x, y) => sumInts o (modBit r.m 2) (x.zip y), (0 : BitVec 5))
    else
      let dec (sd : Side) (rows : List (List (Nat × Nat))) : List (List (Num × BitVec 5)) :=
        rows.map (·.map fun (x, sc) => if sc == 256 then (.fin false 0 0, 0) else let (v, g) := sd.value x; (if hasScales sd.fmt acct then scaled v sc else v, g))
      let ar := dec a fa.rows; let br := dec b fb.rows
      let f0 := (ar ++ br).foldl (fun m r => r.foldl (fun m (_, g) => m ||| g) m) 0
      let ar := ar.map (·.map (·.1)); let br := br.map (·.map (·.1))
      let res := (old.zip (ar.flatMap fun x => br.map fun y => (x, y))).map fun (o, x, y) =>
        if a.fmt == 0 then sumFma f64 o (x.zip y) else if a.fmt == 1 then sumFma f32 o (x.zip y)
        else sumGroups (min 32 k) (k / min 32 k) o (x.zip y)
      (res.map (·.1), res.foldl (fun m x => m ||| x.2) f0)
  let e := engine fb.s cl
  let e := (e.putElements n pair new).note 0x22 (fa.race || fb.race)
  let bad := e.accPoison.filter fun x => !(accNums n pair).contains x
  let e := { e with
    accPoison := if poison then (accNums n pair).foldl lput bad else bad
    ops := if r.next + 1 < r.steps then { r with next := r.next + 1 } :: e.ops.drop 1 else e.ops.drop 1 }
  raiseFlags (putEngine fb.s cl e) qk issuer num fl

/-- The rows that a TDRN writes: each as its bytes, with the flags of its conversions (R281). -/
def drainRows (e : Engine) (r : SeqRec) : List (List Byte) × BitVec 5 :=
  let out := modBits r.m 1 0; let els := e.elements (r.af - 0x30) r.pair
  let conv (x : Nat) : Nat × BitVec 5 := if out == 0 then (x, 0) else (if out == 1 then f16 else bf16).ofNum (f32.decode x) 0
  let n := if r.pair then 8 else if out == 0 then 4 else 2
  let rows := (upFrom 0 (modBits r.m 8 4 + 1)).map fun i => ((els.drop (32 * i)).take 32).map conv
  (rows.map fun row => row.flatMap fun (v, _) => bytesOf v n, rows.foldl (fun m row => row.foldl (fun m x => m ||| x.2) m) 0)

/-- A home has refused an earlier write of a party, or one of this operation, since it was last resumed (R316). -/
def refusedAt (s : State) (k uid h seq : Nat) : Bool := (party? s k uid).any fun a => a.refused.any fun x => x.home == h && x.seq ≤ seq
/-- A drained piece at a home that cannot perform it: side-log entries of 16 bytes (R313), or refused writes of the task (R316). -/
def drainAside (s : State) (k h : Nat) (w : Who) (seq : Nat) (a : Access) (log : Bool) : State :=
  (upFrom 0 (ceilDiv a.bytes 16)).foldl (fun s i =>
    let n := min 16 (a.bytes - 16 * i)
    let x := { a with addr := BitVec.ofNat 64 (a.addr.toNat + 16 * i), bytes := n, data := a.data / 2 ^ (128 * i) % 2 ^ (8 * n) }
    match (if log && !refusedAt s k w.uid h seq then logWrite s h w x else none) with
    | some s => s
    | none => modAgent s k fun b => b.refuse { home := h, seq := seq, acc := x }) s
/-- What a drain to global memory leaves: the state, and the race of its writes; none when it must be tried again. -/
def drainGlobal (s : State) (k : Nat) (r : SeqRec) (bad : Bool) (va : Nat) (data : List Byte) : Option (State × Bool) :=
  (piecesOf va data.length).foldl (fun (acc : Option (State × Bool)) (p : Nat × Nat) => acc.bind fun (s, race) =>
    let bytes := (data.drop (p.1 - va)).take p.2
    let acc : Access := { plainStore p.1 p.2 (ofBytes bytes) r.pc with eng := true, bad := bad }
    let fault (c : FCode) : Option (State × Bool) := some (storeFault s k r.who.uid r.who.asid c r.pc (BitVec.ofNat 64 p.1) r.who.entry r.who.kernel, race)
    match locate s r.who.place r.who.tasid p.1 .store p.2 with
    | .wait => none
    | .prot => fault .protection
    | .poisoned _ => fault .protection
    | .absent h => some (drainAside s k h r.who r.seq acc true, race)
    | .at_ pa home leaf s' =>
      if refusedAt s k r.who.uid home r.seq then some (drainAside s k home r.who r.seq acc false, race) else
      if !crossNow s r.who acc home then none else
      match performPhys (invalidateFor s' pa r.who.place.die) r.who acc 0 pa home leaf with
      | .done s _ _ rc => some (s, race || rc)
      | _ => none) (some (s, false))

/-- A whole TDRN (R281). -/
def drain (s : State) (cl k qk num : Nat) (issuer : Option (Nat × Nat)) (c? : Option CSet) (r : SeqRec) : State :=
  let e := engine s cl; let n := r.af - 0x30
  let (rows, fl) := drainRows e r; let bad := e.accBad n r.pair
  let len := (rows.headD []).length
  let done (s : State) (race : Bool) : State :=
    let e := engine s cl
    let e := (if modBit r.m 9 then e.clearAcc n r.pair else e).note 0x23 bad |>.note 0x22 race
    raiseFlags (putEngine s cl { e with ops := e.ops.drop 1 }) qk issuer num fl
  if modBit r.m 3 then
    match drainGlobal s k r bad r.aop.toNat rows.flatten with
    | some (s, race) => done s race
    | none => s
  else
    match c? with
    | none => s
    | some c =>
      let str := tileStr r.aop.toNat len
      let (s, race) := ((upFrom 0 rows.length).zip rows).foldl (fun (st : State × Bool) (x : Nat × List Byte) =>
        let locs := (upFrom (tileOff r.aop.toNat + x.1 * str) len).filterMap (scratchByte st.1 c none)
        match performScratch st.1 r.who (scratchEngine .store locs (ofBytes x.2)) 0 with
        | .done s _ _ rc => (if bad then { s with poison := (wordsOfLocs locs).foldl lput s.poison } else s, st.2 || rc)
        | _ => st) (s, false)
      done s race

/-- A whole TDRNB (R282). -/
def drainByp (s : State) (cl qk num : Nat) (issuer : Option (Nat × Nat)) (r : SeqRec) : State :=
  let e := engine s cl; let f := r.fmw.toNat; let n := r.af - 0x30; let fmt := fmA f
  let d := e.nfAt (bitsN f 10 8); let nf := nfOf d
  let res := (e.elements n r.pair).map fun x =>
    let v := if r.pair then f64.decode x else if modBit r.m 3 then intNum 32 true x else f32.decode x
    match fmt with
    | 0 => f64.ofNum v 0 | 1 => f32.ofNum v 0 | 2 => f16.ofNum v 0 | 3 => bf16.ofNum v 0
    | 4 | 5 | 6 => nf.ofNum v 0
    | m => roundInt (fmtWidth m) (fmtSigned m) v 0
  let b : Byp := { fmt := fmt, desc := d, poison := e.accBad n r.pair, codes := ((upFrom 0 1024).zip (res.map (·.1))).filter fun (_, v) => v != 0 }
  raiseFlags (putEngine s cl { e with byp := some b, ops := e.ops.drop 1 }) qk issuer num (res.foldl (fun m x => m ||| x.2) 0)

/-- K per step of an operation. -/
def SeqRec.k (r : SeqRec) : Nat := (kPerStep (fmA r.fmw.toNat) (fmB r.fmw.toNat) (modBits r.m 1 0)).getD 1

/-- The task's earlier accesses to the bytes of an operation have been performed (R266), so have its acquiring atomics (R210), and no
fence holds it (R215): its reads are loads, and a TDRN's writes stores. -/
def opReady (s : State) (r : SeqRec) : Bool :=
  let earlier := s.reqs.filter fun q => q.who.uid == r.who.uid && q.seq < r.seq
  !earlier.any (fun q => !performed q && (q.acc.order == 2 || q.acc.order ≥ 4 || opTouches s r q)) &&
  !r.fences.any (fenceHolds s earlier r.who.uid r.seq (r.opc != 0xC8))

/-- The engine may go on with its first operation, while its context's units issue (R349, R355). -/
def kstepDue (s : State) (cl : Nat) : Bool :=
  match (engine s cl).ops, agent? s (taskKey cl) with
  | r :: _, some a => r.who.uid == a.uid && ctxIssues s a.asid && opReady s r
  | _, _ => false

/-- The engine's next k-step, or the whole of an operation that has none (R274); after the retirement of its cluster set an
operation that names scratchpad accesses nothing more (R263). -/
def engineStep (s : State) (cl : Nat) : State :=
  if !kstepDue s cl then s else
  let e := engine s cl
  match e.ops, agent? s (taskKey cl) with
  | r :: _, some a =>
    let k := taskKey cl; let issuer := some (k, a.uid)
    match (if e.barred then r.scratch? e r.k else none) with
    | some off => storeFault (putEngine s cl { e with ops := e.ops.drop 1 }) k a.uid a.asid .protection r.pc (BitVec.ofNat 64 off) a.entryNo (a.kernel % 2 ^ 32)
    | none =>
      if r.opc == 0xC3 then putEngine s cl { e.clearAcc (r.dst - 0x30) r.pair with ops := e.ops.drop 1 }
      else if r.opc == 0xC8 then drain s cl k a.queue a.entryNo issuer (csetOf s a) r
      else if r.opc == 0xC9 then drainByp s cl a.queue a.entryNo issuer r
      else (match csetOf s a with | some c => mulStep s cl a.queue a.entryNo issuer c r r.k | none => s)
  | _, _ => s
/-- MATRIX_K_STEP (R279). -/
def execMatrixKStep (cl : Nat) (s : State) : Out := event (engineStep · cl) s

/-- The engine has room for the operation that its task waits to issue (R280), while its context's units issue. -/
def acceptDue (s : State) (cl : Nat) : Bool :=
  let e := engine s cl; e.want.isSome && e.ops.length < 16 && (agent? s (taskKey cl)).any fun a => ctxIssues s a.asid
/-- MATRIX_OPERATION_ACCEPT (R280). -/
def execMatrixOperationAccept (cl : Nat) (s : State) : Out := event (fun s =>
  let e := engine s cl
  match e.want with
  | some r => if acceptDue s cl then finishWait (putEngine s cl { e with want := none, ops := e.ops ++ [r] }) (taskKey cl) none [] else s
  | none => s) s

/-! ### Issue of matrix operations (R275, R280) -/

/-- The NF, CT and CV registers that an operation names, by field value (R33). -/
def SeqRec.names (r : SeqRec) : List Nat :=
  let f := r.fmw.toNat
  let nf (fmt n : Nat) : List Nat := if isNf fmt then [0x20 + n] else []
  let ct (fmt n : Nat) (cmp : Bool) : List Nat := if fmt == 13 || cmp then [0x28 + n] else []
  if r.isMul then
    nf (fmA f) (bitsN f 10 8) ++ nf (fmB f) (bitsN f 13 11) ++ ct (fmA f) (bitsN f 15 14) (bitN f 18) ++ ct (fmB f) (bitsN f 17 16) (bitN f 19) ++
    if aSource r.opc r.m == 1 then [r.af] else []
  else if r.opc == 0xC9 then [0x20 + bitsN f 10 8] else []
/-- An incomplete operation names a register (R275). -/
def namedInEngine (e : Engine) (n : Nat) : Bool := e.ops.any (·.names.contains n) || e.want.any (·.names.contains n)
/-- A TCT or TCFG load to a register is outstanding. -/
def tabLoading (s : State) (uid n : Nat) : Bool := s.reqs.any fun r => r.who.uid == uid && r.acc.dst == .tab n

/-- BYP's tag as an operation finds it: that of the last TDRNB issued before it (R280). -/
def bypTag (e : Engine) : Option (Nat × BitVec 16) :=
  match (e.ops.filter (·.opc == 0xC9)).getLast? with
  | some r => some (fmA r.fmw.toNat, e.nfAt (bitsN r.fmw.toNat 10 8))
  | none => e.byp.map fun b => (b.fmt, b.desc)

/-- What R280 finds: the first check that fails, or the byte ranges that the operation names. -/
def checkTile (t n : Nat) : Option Nat :=
  if tileOff t % 16 != 0 || (bitsN t 43 32 != 0 && (bitsN t 43 32 % 16 != 0 || bitsN t 43 32 < n)) then some (tileOff t) else none
/-- The bytes of a tile and of its scale vector. -/
def tileExt (t n fmt acct ktot : Nat) : List (Nat × Nat) :=
  let str := tileStr t n
  (tileOff t, 31 * str + n) :: if hasScales fmt acct then [(tileOff t + 32 * str, 128 * scaleWords ktot)] else []

/-- A table or view of the control core that an operation cannot use yet, or that its load left faulted (R275). -/
def tabAsk (s : State) (e : Engine) (uid : Nat) (ns : List Nat) : RegAsk :=
  if ns.any (tabLoading s uid) then .wait
  else match ns.findSome? (fget? e.tabMark) with | some m => markInfo m | none => .ok

/-- Lets a checked operation into the engine, or makes the task wait for room. -/
def enterEngine (c : Ctx') (r : SeqRec) : Go :=
  let cl := clusterOf c.k; let e := engine c.s cl
  let s := c.upd fun a => { a with seq := a.seq + 1 }
  if e.ops.length < 16 then .next (putEngine s cl { e with ops := e.ops ++ [r] })
  else .wait (modAgent (putEngine s cl { e with want := some r }) c.k fun a => { a with inst := some (.mma, c.f, c.len) }) .engine

/-- The record of an operation at its issue. -/
def seqRec (c : Ctx') (opc : Nat) (aop bop fmw : Nat) (ext : List (Bool × Nat × Nat)) : SeqRec :=
  { opc := opc, dst := c.f.dst.toNat, af := c.f.a.toNat, mod := c.f.mod, aop := BitVec.ofNat 64 aop, bop := BitVec.ofNat 64 bop,
    fmw := BitVec.ofNat 64 fmw, pc := c.a.pc, who := { whoOf c.k c.a with engine := true }, seq := c.a.seq, ext := ext,
    fences := c.a.fences }

/-- The window checks of R280: every range lies in the task's cluster window. -/
def inTaskWindow (c : Ctx') (l : List (Nat × Nat)) : Option Nat :=
  (l.find? fun (off, n) => !(csetOf c.s c.a).any fun x => inWindow c.s x off n).map (·.1)

/-- MMA, MMAC, MMAB and TMAC (R279, R280): a is the value of an X operand, where there is one. -/
def issueMul (c : Ctx') (opc a : Nat) : Go :=
  let e := engine c.s (clusterOf c.k); let m := c.mod; let f := c.vc; let acct := modBits m 1 0
  let src := aSource opc m; let steps := stepsOf opc m; let r := seqRec c opc a c.vb f []
  match tabAsk c.s e c.a.uid r.names with
  | .wait => .wait c.s .retry
  | .fault code i => .freeze c.s code i
  | .ok =>
    let fa := fmA f; let fb := fmB f; let A := sideA e f; let B := sideB e f
    let bad (x : Side) : Bool := (isNf x.fmt && !x.nf.valid x.fmt) || (x.cmp && (acct != 0 || !(4 ≤ x.fmt && x.fmt ≤ 12)))
    match kPerStep fa fb acct with
    | none => .freeze c.s .illegalOpcode {}
    | some k =>
      let v := viewOf (fgetD e.cv (c.f.a.toNat - 0x2C) 0); let ktot := k * steps
      let bq := if opc == 0xC6 then modBits m 5 4 else 0
      let badA := match src with
        | 1 => [v.c, v.w, v.h, v.nb, v.kh, v.kw, v.oh, v.ow].contains 0 || v.c * fmtWidth fa % 8 != 0
        | 2 => (match bypTag e with | some (t, d) => t != fa || (isNf fa && d != e.nfAt (bitsN f 10 8)) | none => true) || bq * k ≥ 32 ||
               (if k < 32 then steps * k > 32 else steps != 1)
        | _ => false
      if bad A || bad B || badA then .freeze c.s .illegalOpcode {}
      else
        let la := ktot * fmtWidth fa / 8; let lb := ktot * fmtWidth fb / 8
        let misA := match src with | 0 => checkTile a la | 1 => if v.base % 16 != 0 then some v.base else none | _ => none
        match misA, checkTile c.vb lb with
        | some t, _ => .freeze c.s .misaligned { addr := BitVec.ofNat 64 t }
        | none, some t => .freeze c.s .misaligned { addr := BitVec.ofNat 64 t }
        | none, none =>
          let ext := (match src with | 0 => tileExt a la fa acct ktot | 1 => [(v.base, v.bytes (fmtWidth fa))] | _ => []) ++ tileExt c.vb lb fb acct ktot
          match inTaskWindow c ext with
          | some off => .freeze c.s .protection { addr := BitVec.ofNat 64 off }
          | none => enterEngine c { r with ext := ext.map fun (o, n) => (false, o, n) }

def bodyMma (c : Ctx') : Go := issueMul c 0xC4 c.va
def bodyMmac (c : Ctx') : Go := issueMul c 0xC5 0
def bodyMmab (c : Ctx') : Go := issueMul c 0xC6 0
def bodyTmac (c : Ctx') : Go := issueMul c 0xC7 (if modBits c.mod 5 4 == 0 then c.va else 0)
def bodyTzero (c : Ctx') : Go := enterEngine c (seqRec c 0xC3 0 0 0 [])

/-- TDRN (R281). -/
def bodyTdrn (c : Ctx') : Go :=
  let m := c.mod; let glb := modBit m 3
  let len := 32 * (if modBit m 2 then 8 else if modBits m 1 0 == 0 then 4 else 2); let rows := modBits m 8 4 + 1
  let str := bitsN c.vb 43 32
  if glb then
    if c.vb % 16 != 0 then .freeze c.s .misaligned { addr := BitVec.ofNat 64 c.vb }
    else enterEngine c (seqRec c 0xC8 c.vb 0 0 [(true, c.vb, len * rows)])
  else if tileOff c.vb % 16 != 0 || (str != 0 && (str % 16 != 0 || str < (if modBit m 2 then 256 else 128))) then
    .freeze c.s .misaligned { addr := BitVec.ofNat 64 (tileOff c.vb) }
  else
    let n := (rows - 1) * tileStr c.vb len + len
    match inTaskWindow c [(tileOff c.vb, n)] with
    | some off => .freeze c.s .protection { addr := BitVec.ofNat 64 off }
    | none => enterEngine c (seqRec c 0xC8 c.vb 0 0 [(false, tileOff c.vb, n)])

/-- TDRNB (R282). -/
def bodyTdrnb (c : Ctx') : Go :=
  let e := engine c.s (clusterOf c.k); let fmt := fmA c.vc; let pair := modBit c.mod 2; let r := seqRec c 0xC9 0 0 c.vc []
  match tabAsk c.s e c.a.uid r.names with
  | .wait => .wait c.s .retry
  | .fault code i => .freeze c.s code i
  | .ok =>
    if fmt ≥ 13 || (fmt == 0) != pair || (isNf fmt && !(nfOf (e.nfAt (bitsN c.vc 10 8))).valid fmt) then .freeze c.s .illegalOpcode {}
    else enterEngine c r

/-! ### The control core's other instructions (R278, R283, R285) -/

/-- TFMT (R278). -/
def bodyTfmt (c : Ctx') : Go :=
  let cl := clusterOf c.k; let e := engine c.s cl
  if namedInEngine e c.f.dst.toNat then .wait c.s .retry
  else .next (putEngine c.s cl { e with nf := fput e.nf (c.f.dst.toNat - 0x20) (BitVec.ofNat 16 c.vb), tabMark := fdel e.tabMark c.f.dst.toNat })

/-- TCT and TCFG (R275, R278): one plain scratchpad load of n bytes. -/
def tableLoad (c : Ctx') (n : Nat) : Go :=
  let d := c.f.dst.toNat; let addr : FInfo := { addr := BitVec.ofNat 64 c.ea32 }
  if c.ea32 % 16 != 0 then .freeze c.s .misaligned addr
  else
    match (csetOf c.s c.a).bind fun cs => scratchLocs c.s cs none c.ea32 n false with
    | none => .freeze c.s .protection addr
    | some l =>
      if namedInEngine (engine c.s (clusterOf c.k)) d || tabLoading c.s c.a.uid d then .wait c.s .retry
      else .next (issueReq c.s c.k c.a
        { kind := .load, scratch := true, addr := addr.addr, locs := l, bytes := n, width := 2, dst := .tab d, pc := c.a.pc })
def bodyTct (c : Ctx') : Go := tableLoad c 128
def bodyTcfg (c : Ctx') : Go := tableLoad c 64

/-- Every issued matrix operation and table load of the task has completed. -/
def engineDone (s : State) (a : Agent) : Bool :=
  (opsOf s a.uid).isEmpty && !s.reqs.any fun r => r.who.uid == a.uid && (match r.acc.dst with | .tab _ => true | _ => false)
/-- The common part of TWAIT and ENDT (R283): the oldest pending delivery comes before any effect; then the region ends, and the task waits for
its operations. A task that already waits there has done the first part. -/
def taskWait (c : Ctx') (o : Op) (g : State → Go) : Go :=
  let go (s : State) : Go := if engineDone s c.a then g s else .wait s .retry
  if c.a.inst.isSome then go c.s
  else delivering c (go (modAgent c.s c.k fun a => { a.endRegion with inst := some (o, c.f, c.len) }))
/-- TWAIT (R283). -/
def bodyTwait (c : Ctx') : Go := taskWait c .twait fun s => .next (modAgent s c.k fun a => { a with inst := none })
/-- TFLG (R283). -/
def bodyTflg (c : Ctx') : Go :=
  if !engineDone c.s c.a then .wait c.s .retry else
  match queue? c.s c.a.queue with
  | none => .next c.s
  | some q =>
    let s := setQueue c.s c.a.queue { q with flags := q.flags &&& ~~~(BitVec.ofNat 5 (modBits c.mod 4 0)) }
    .next (modAgent s c.k fun a => a.putX c.f.dst.toNat q.flags.toNat)

/-- The continuation that the last join of a task reads and pushes (R285), with the task's code; none while its page makes it wait. -/
def readCont (s : State) (qk cont : Nat) (q : Queue) (clk : Clock) : Option (State × Nat) :=
  let (uid, s) := freshUid s
  let place : Place := { die := none, stack := queueHome s q }
  let w : Who := { uid := uid, region := 0, clk := clk, place := place, key := 0, asid := q.asid, tasid := q.asid, engine := true, pc := 0 }
  match readRange s w cont 64 with
  | .done s d po r =>
    some (modQueue s qk fun q => { q with conts := q.conts ++ [(ofBytes d, cmax clk w.ended, if r then 0x22 else if po then 0x23 else 0)] }, 0)
  | .absent va =>
    -- handled as an absent trigger image (R242)
    let (id, s) := freshId s
    let t : Trig := { id := id, asid := q.asid, tasid := q.asid, home := queueHome s q, signal := 0, thr := 0, image := BitVec.ofNat 64 cont, q := qk,
                      issuer := none, state := .page, clk := clk }
    some (queueRec { s with trigs := s.trigs ++ [t] }
      { code := .pageFaultLoad, kind := 3, addr := BitVec.ofNat 64 va, party := BitVec.ofNat 32 (s.package * 2 ^ 21), target := .trigger id, asid := q.asid }, 0)
  | .wait => none
  | _ => some (s, 0x44)

/-- ENDT (R285). -/
def bodyEndt (c : Ctx') : Go :=
  taskWait c .endt fun s =>
    let cl := clusterOf c.k
    releasing { c with s := s } fun s a =>
      let e := engine s cl; let join := e.join.toNat
      if join == 0 then .ended (endTask s c.k e.code)
      else if join % 8 != 0 then .freeze s .misaligned { addr := e.join }
      else
        match locate s (placeOf c.k a) a.tasid join .rmw 8 with
        | .wait => .wait s .retry
        | .absent _ => .freeze s .pageFaultLoad { addr := e.join }
        | .prot => .freeze s .protection { addr := e.join }
        | .poisoned _ => .freeze s .protection { addr := e.join }
        | .at_ pa home leaf s' =>
          if paPkg pa ≥ 240 then .freeze s .protection { addr := e.join }
          else
            let old := readPhys s' pa 8
            let acc : Access := { kind := .rmw, scratch := false, addr := e.join, locs := [], bytes := 8, op := 0, width := 3, order := 4, scope := 5,
                                  data := if old == 0 then 0 else 2 ^ 64 - 1, pc := a.pc }
            if !crossNow s (whoOf c.k a) acc home then .wait s .retry else
            match performPhys (invalidateFor s' pa none) (whoOf c.k a) acc a.seq pa home leaf with
            | .done s1 _ _ _ =>
              if old == 0 then .ended (endTask s1 c.k 0x43)
              else if old == 1 && e.cont != 0 then
                match queue? s1 a.queue with
                | some q =>
                  (match readCont s1 a.queue e.cont.toNat q (signalClock s1 a.tasid e.join { die := none, stack := queueHome s1 q }) with
                  | some (s2, code) => .ended (endTask s2 c.k (if code == 0 then e.code else code))
                  -- the atomic, too, waits for the page of the continuation
                  | none => .wait s .retry)
                | none => .ended (endTask s1 c.k e.code)
              else .ended (endTask s1 c.k e.code)
            | _ => .wait s .retry

def contDue (s : State) (q : Queue) : Bool := !q.conts.isEmpty && !q.full && q.state != .saved && queuesRun s q.asid
/-- CONTINUATION_PUSH (R285): the queue processor pushes a continuation once the TASK queue has room. -/
def execContinuationPush (qk : Nat) (s : State) : Out := event (fun s =>
  match queue? s qk with
  | some q =>
    match q.conts with
    | (img, clk, code) :: t => if contDue s q then pushEntry (putQueue s qk { q with conts := t }) qk img { code := code, clk := clk } else s
    | [] => s
  | none => s) s

/-- TASKPUSH (R284): from a thread or from a task, into the TASK queue of its cluster set. -/
def bodyTaskpush (c : Ctx') : Go :=
  if c.ea % 64 != 0 then .freeze c.s .misaligned { addr := BitVec.ofNat 64 c.ea }
  else
    match readOnce c c.ea 64, csetKey c.s c.a with
    | .inl g, _ => g
    | .inr (s, r), some ck => pushOr c s (taskQkey ck) r (metaOf c.k c.a []) (some r)
    | _, none => queueError c

/-! ### The instructions -/

/-- TASKPUSH (R284): Reads a task record and pushes it into the cluster set's TASK queue. -/
def execTaskpush (f : FormL) (s : State) : Out := issueL .taskpush f bodyTaskpush s
/-- TFMT (R278): Writes an NF descriptor register. -/
def execTfmt (f : FormL) (s : State) : Out := issueL .tfmt f bodyTfmt s
/-- TCT (R278): Loads a 128-byte compand or codebook table from scratchpad. -/
def execTct (f : FormL) (s : State) : Out := issueL .tct f bodyTct s
/-- TCFG (R278): Loads a 64-byte convolution view from scratchpad. -/
def execTcfg (f : FormL) (s : State) : Out := issueL .tcfg f bodyTcfg s
/-- TZERO (R278): Zeroes an accumulator or a pair and clears its poison. -/
def execTzero (f : FormL) (s : State) : Out := issueL .tzero f bodyTzero s
/-- MMA (R279): Issues a one-step matrix multiply from A and B tiles. -/
def execMma (f : FormL) (s : State) : Out := issueL .mma f bodyMma s
/-- MMAC (R279): Issues a one-step matrix multiply with A from a convolution view. -/
def execMmac (f : FormL) (s : State) : Out := issueL .mmac f bodyMmac s
/-- MMAB (R279): Issues a one-step matrix multiply with A from BYP. -/
def execMmab (f : FormL) (s : State) : Out := issueL .mmab f bodyMmab s
/-- TMAC (R279): Issues a multi-step matrix multiply-accumulate. -/
def execTmac (f : FormL) (s : State) : Out := issueL .tmac f bodyTmac s
/-- TDRN (R281): Drains accumulator rows to scratchpad or global memory. -/
def execTdrn (f : FormL) (s : State) : Out := issueL .tdrn f bodyTdrn s
/-- TDRNB (R282): Converts an accumulator into the BYP tile. -/
def execTdrnb (f : FormL) (s : State) : Out := issueL .tdrnb f bodyTdrnb s
/-- TWAIT (R283): Raises a pending delivery, ends the region and waits for the task's operations. -/
def execTwait (f : FormL) (s : State) : Out := issueL .twait f bodyTwait s
/-- TFLG (R283): Reads and clears the task queue's engine flags. -/
def execTflg (f : FormL) (s : State) : Out := issueL .tflg f bodyTflg s
/-- ENDT (R285): Ends the task: waits, releases, decrements JOIN and may push a continuation. -/
def execEndt (f : FormL) (s : State) : Out := issueL .endt f bodyEndt s

end Sys2Proof.Machine
end

