-- ==== Sys2Proof/Machine/Mash.lean ====
section
/-!
DEFINITION. Sys2Proof/Machine/Mash.lean: the mash region of a die L2 (R286 to R301): its fields as rows of bits, its entries, its states, and
the instructions that push them. A row is a number whose bit L is lane L's bit, so an operation moves through the rows a bit at a time.
-/
namespace Sys2Proof.Machine

/-! ### Rows (R287) -/

/-- Every lane of the region. -/
def Mash.lanes (m : Mash) : Nat := m.ways * Config.wayLanes
def allLanes (n : Nat) : Nat := 2 ^ n - 1
def Mash.row (m : Mash) (r : Nat) : Nat := fgetD m.rows r 0
/-- A field's rows, least significant first. -/
def Mash.field (m : Mash) (b w : Nat) : List Nat := (upFrom b w).map m.row
/-- Writes rows from b on in the lanes of a mask. -/
def Mash.putRows (m : Mash) (b act : Nat) (rows : List Nat) : Mash :=
  ((upFrom 0 rows.length).zip rows).foldl (fun m (i, x) =>
    let v := (m.row (b + i) ^^^ (m.row (b + i) &&& act)) ||| (x &&& act)
    { m with rows := if v == 0 then fdel m.rows (b + i) else fput m.rows (b + i) v }) m

/-- n rows of an element: its own, then copies of its sign row, or zeros when it is unsigned. -/
def extend (u : Bool) (n : Nat) (x : List Nat) : List Nat :=
  let top := if u then 0 else x.getLastD 0
  (x ++ List.replicate (n - x.length) top).take n
/-- The sum of two elements of the same width, row by row, with a carry. -/
def addRows : List Nat → List Nat → Nat → List Nat
  | x :: xs, y :: ys, c => (x ^^^ y ^^^ c) :: addRows xs ys ((x &&& y) ||| (c &&& (x ^^^ y)))
  | _, _, _ => []
def notRows (all : Nat) (x : List Nat) : List Nat := x.map (all ^^^ ·)
def subRows (all : Nat) (x y : List Nat) : List Nat := addRows x (notRows all y) all
/-- The product, to the width of x: shifted copies of x, added where y has a bit. -/
def mulRows (x y : List Nat) : List Nat :=
  let n := x.length
  (((upFrom 0 n).zip y).foldl (fun acc (i, b) =>
    addRows acc ((List.replicate i 0 ++ x.map (· &&& b)).take n) 0) (List.replicate n 0))
/-- A constant in every lane. -/
def constRows (all n x : Nat) : List Nat := (upFrom 0 n).map fun i => if bitN x i then all else 0

/-- Put: an exact two's-complement element wrapped to w rows, or clamped to the field's range (R295). -/
def fitRows (all w : Nat) (u sat : Bool) (x : List Nat) : List Nat :=
  let x := extend false (max x.length (w + 1)) x
  let keep := x.take w
  if !sat then keep else
  let neg := x.getLastD 0
  -- the lanes whose value lies outside the range
  let high := x.drop (if u then w else w - 1)
  let out := if u then high.foldl (· ||| ·) 0 else high.foldl (fun m r => m ||| (r ^^^ neg)) 0
  ((upFrom 0 w).zip keep).map fun (i, r) =>
    let lim := if u then all ^^^ neg else if i == w - 1 then neg else all ^^^ neg
    (r ^^^ (r &&& out)) ||| (lim &&& out)

/-! ### The region an entry acts on -/

/-- Fields of the entry image of a mash instruction: opcode [7:0], DST [15:8], a [23:16], b [31:24], MOD [46:32], c [55:48], the value of
a [127:64] and of b [191:128]. -/
structure MashEnt where
  op : Nat
  d  : Nat
  a  : Nat
  b  : Nat
  c  : Nat
  m  : BitVec 15
  ea : Nat
  n  : Nat
  deriving DecidableEq, Repr
def mashEnt (img : Nat) : MashEnt :=
  { op := bitsN img 7 0, d := bitsN img 15 8, a := bitsN img 23 16, b := bitsN img 31 24, c := bitsN img 55 48,
    m := BitVec.ofNat 15 (bitsN img 46 32), ea := bitsN img 127 64, n := bitsN img 191 128 }
def MashEnt.image (e : MashEnt) : Nat :=
  e.op + e.d * 2 ^ 8 + e.a * 2 ^ 16 + e.b * 2 ^ 24 + e.m.toNat * 2 ^ 32 + e.c * 2 ^ 48 + e.ea * 2 ^ 64 + e.n * 2 ^ 128
def MashEnt.w (e : MashEnt) : Nat := modBits e.m 5 0 + 1
def MashEnt.mn (e : MashEnt) : Bool := modBit e.m 7
def MashEnt.sat (e : MashEnt) : Bool := modBit e.m 9
def MashEnt.u (e : MashEnt) : Bool := modBit e.m 10
def MashEnt.eb (e : MashEnt) : Nat := 2 ^ modBits e.m 12 11

/-- Row c, inverted with MN. -/
def MashEnt.maskRow (e : MashEnt) (m : Mash) : Nat := if e.mn then allLanes m.lanes ^^^ m.row e.c else m.row e.c
/-- The lanes that act (R287). -/
def MashEnt.acts (e : MashEnt) (m : Mash) : Nat := if modBit e.m 6 then e.maskRow m else allLanes m.lanes

/-- The row operations (R295): every source is read before any row is written. -/
def rowOp (e : MashEnt) (m : Mash) : Mash :=
  let all := allLanes m.lanes; let w := e.w; let act := e.acts m
  let a := m.field e.a w; let b := m.field e.b w
  let put (x : List Nat) : Mash := m.putRows e.d act (fitRows all w e.u e.sat x)
  -- exact operands: n rows, of which the last is a sign
  let ex (n : Nat) (x : List Nat) : List Nat := extend e.u n x
  match e.op with
  | 0x93 => put (addRows (ex (w + 2) a) (ex (w + 2) b) 0)
  | 0x94 => put (subRows all (ex (w + 2) a) (ex (w + 2) b))
  | 0x95 =>
    let p := mulRows (ex (2 * w + 2) a) (ex (2 * w + 2) b)
    if modBit e.m 11 then m.putRows e.d act (p.take (2 * w)) else put p
  | 0x96 =>
    let k := if e.u then e.n % 2 ^ 32 else sext 32 (w + 34) e.n
    put (mulRows (ex (w + 34) a) (constRows all (w + 34) k))
  | 0x97 =>
    let t := modBits e.m 14 11
    m.putRows e.d act ((a.zip b).map fun (x, y) =>
      (if bitN t 0 then (all ^^^ x) &&& (all ^^^ y) else 0) ||| (if bitN t 1 then (all ^^^ x) &&& y else 0) |||
      (if bitN t 2 then x &&& (all ^^^ y) else 0) ||| (if bitN t 3 then x &&& y else 0))
  | 0x98 =>
    let lt := (subRows all (ex (w + 2) a) (ex (w + 2) b)).getLastD 0
    let ne := (a.zip b).foldl (fun r (x, y) => r ||| (x ^^^ y)) 0
    let r := match modBits e.m 13 11 with
      | 0 => all ^^^ ne | 1 => ne | 2 => lt | 3 => lt ||| (all ^^^ ne) | 4 => all ^^^ (lt ||| (all ^^^ ne)) | _ => all ^^^ lt
    m.putRows e.d act [r]
  | 0x99 =>
    let sel := e.maskRow m
    m.putRows e.d all ((a.zip b).map fun (x, y) => (x &&& sel) ||| (y &&& (all ^^^ sel)))
  | 0x9A => put (constRows all 65 (if e.u then e.n % 2 ^ 32 else sext 32 65 e.n))
  | 0x9B => put (ex (e.b + 2) (m.field e.a (e.b + 1)))
  | _ => put (ex (w + 1) (a.drop e.b ++ if e.b < w || e.u then [] else [a.getLastD 0]))

/-! ### Memory and lanes (R296) -/

/-- The lanes of a row below a bound, in ascending order, segment by segment. -/
def lanesBelow (row n : Nat) : List Nat :=
  (upFrom 0 (ceilDiv n 8192)).flatMap fun g =>
    let part := row / 2 ^ (8192 * g) % 2 ^ min 8192 (n - 8192 * g)
    if part == 0 then [] else ((upFrom 0 (min 8192 (n - 8192 * g))).filter part.testBit).map (8192 * g + ·)
/-- Runs of consecutive lanes of one segment: first and length. -/
def runsOf (l : List Nat) : List (Nat × Nat) :=
  l.foldr (fun x acc => match acc with
    | (y, n) :: t => if y == x + 1 && y % 8192 != 0 then (x, n + 1) :: t else (x, 1) :: (y, n) :: t
    | [] => [(x, 1)]) []
/-- A lane's element. -/
def laneVal (rows : List Nat) (u : Bool) (i : Nat) : Int :=
  let v : Nat := ((upFrom 0 rows.length).zip rows).foldl (fun v (b, r) => if r.testBit i then v + 2 ^ b else v) 0
  if u then v else toS rows.length v
/-- Rows that hold the elements of the listed lanes. -/
def rowsOfLanes (w : Nat) (l : List (Nat × Nat)) : List Nat :=
  (upFrom 0 w).map fun b => l.foldl (fun r (i, x) => if x.testBit b then r + 2 ^ i else r) 0

/-- What a transfer met: its state and whether it moved poisoned data or met another engine, or why it did not run. -/
inductive Xfer where
  | done (s : State) (m : Mash) (poison race : Bool)
  | wait
  | stop (va : Nat) (write : Bool)
  | prot | poisoned
  deriving DecidableEq, Repr

def segOf (lane : Nat) : Nat := lane / 8192
/-- Writes runs of bytes; those from a poisoned segment are written as poisoned data (R299). -/
def writeRuns (s : State) (w : Who) (m : Mash) (l : List (Nat × List Byte × Bool)) : Xfer :=
  l.foldl (fun x (va, data, bad) =>
    match x with
    | .done s m po r =>
      match writeRange s w va data with
      | .done s _ _ r' => .done (if bad then poisonRange s w.tasid va data.length else s) m (po || bad) (r || r')
      | .absent va => .stop va true
      | .prot => .prot
      | .poisoned => .poisoned
      | _ => .wait
    | x => x) (.done s m false false)

/-- MS.LDT (R296). -/
def loadLanes (s : State) (w : Who) (e : MashEnt) (m : Mash) : Xfer :=
  let lanes := lanesBelow (e.acts m) e.n; let eb := e.eb
  let res := (runsOf lanes).foldl (fun (acc : Xfer × List (Nat × Nat) × List Nat) (i0, n) =>
    match acc with
    | (.done s m po r, l, bad) =>
      match readRange s w ((e.ea + eb * i0) % 2 ^ 64) (eb * n) with
      | .done s d po' r' =>
        let v := ofBytes d
        (.done s m (po || po') (r || r'), l ++ (upFrom 0 n).map (fun j => (i0 + j, bitsN v (8 * eb * j + 8 * eb - 1) (8 * eb * j))),
         if po' then lput bad (segOf i0) else bad)
      | .absent va => (.stop va false, l, bad)
      | .prot => (.prot, l, bad)
      | .poisoned => (.poisoned, l, bad)
      | _ => (.wait, l, bad)
    | acc => acc) (.done s m false false, [], [])
  match res with
  | (.done s m po r, l, bad) =>
    let act := lanes.foldl (fun x i => x + 2 ^ i) 0
    let rows := extend e.u (max (8 * eb) e.w + 1) (rowsOfLanes (8 * eb) l)
    .done s { m.putRows e.d act (fitRows (allLanes m.lanes) e.w e.u e.sat rows) with poison := bad.foldl lput m.poison } po r
  | (x, _, _) => x

/-- MS.STT (R296). -/
def storeLanes (s : State) (w : Who) (e : MashEnt) (m : Mash) : Xfer :=
  let eb := e.eb; let rows := m.field e.d e.w
  writeRuns s w m ((runsOf (lanesBelow (e.acts m) e.n)).map fun (i0, n) =>
    ((e.ea + eb * i0) % 2 ^ 64,
     (upFrom i0 n).flatMap fun i => bytesOf (narrow (8 * eb) (!e.u) e.sat (laneVal rows e.u i)) eb,
     m.poison.contains (segOf i0)))

/-- The sum over the acting lanes of a segment. -/
def segSum (rows : List Nat) (u : Bool) (act g : Nat) : Int :=
  let part (x : Nat) : Nat := x / 2 ^ (8192 * g) % 2 ^ 8192
  let count (x : Nat) : Nat := if x == 0 then 0 else ((upFrom 0 8192).filter x.testBit).length
  let w := rows.length
  ((upFrom 0 w).zip rows).foldl (fun (t : Int) (b, r) =>
    let v : Int := (count (part r &&& part act) * 2 ^ b : Nat); if !u && b == w - 1 then t - v else t + v) 0
/-- MS.RSUM (R296). -/
def sumLanes (s : State) (w : Who) (e : MashEnt) (m : Mash) : Xfer :=
  let rows := m.field e.d e.w; let segs := upFrom 0 (64 * m.ways)
  let sums := segs.map (segSum rows e.u (e.acts m))
  if modBit e.m 11 then writeRuns s w m [(e.ea, bytesOf (ofS 64 (sums.foldl (· + ·) 0)) 8, !m.poison.isEmpty)]
  else writeRuns s w m ((segs.zip sums).map fun (g, x) => ((e.ea + 8 * g) % 2 ^ 64, bytesOf (ofS 64 x) 8, m.poison.contains g))
/-- MS.CMPT (R296): the count comes from every segment, an index from its lane's (R299). -/
def compactLanes (s : State) (w : Who) (e : MashEnt) (m : Mash) : Xfer :=
  let l := lanesBelow (e.maskRow m) m.lanes
  writeRuns s w m ((e.ea, bytesOf l.length 4, !m.poison.isEmpty) ::
    ((upFrom 0 e.n).zip l).map fun (j, i) => ((e.ea + 4 + 4 * j) % 2 ^ 64, bytesOf i 4, m.poison.contains (segOf i)))

/-- The ranges of memory that a transfer entry moves. -/
def MashEnt.ranges (e : MashEnt) (m : Mash) : List (Nat × Nat) :=
  match e.op with
  | 0x9D => [(e.ea, if modBit e.m 11 then 8 else 512 * m.ways)]
  | 0x9E => [(e.ea, 4 + 4 * min e.n (lanesBelow (e.maskRow m) m.lanes).length)]
  | 0x91 | 0x92 => (runsOf (lanesBelow (e.acts m) e.n)).map fun (i0, n) => ((e.ea + e.eb * i0) % 2 ^ 64, e.eb * n)
  | _ => []

/-! ### Entries (R288, R293, R297) -/

/-- The head entry of a MASH queue that has not begun, with what it holds. -/
def mashHead (s : State) (qk : Nat) : Option (Queue × Head × MashEnt) :=
  match queue? s qk with
  | some q =>
    match q.head with
    | some h =>
      if q.kind == 3 && !h.finished && !h.marked && (entMeta q h.num).marker.isNone && queuesRun s q.asid && q.state == .active then
        some (q, h, mashEnt h.img) else none
    | none => none
  | none => none
def putMash (s : State) (d : Nat) (m : Mash) : State := putDie s d { dieSt s d with mash := m }

/-- CARVE_ENTRY (R297). -/
def carveStart (qk : Nat) (s : State) : State :=
  match mashHead s qk with
  | some (q, _, e) =>
    if e.op != 0x90 then s else
    let s := putQueue s qk { q with siga := BitVec.ofNat 64 e.ea }
    let m := (dieSt s q.die).mash
    let quota := (ctx? s q.asid).elim 0 (·.mashq)
    if m.owned && m.owner != q.asid then finishHead s qk 0x30
    else if e.n > quota || m.state != 0 then finishHead s qk 0x31
    else
      let s := putMash s q.die { m with owner := q.asid, owned := true, ways := e.n, state := if e.n > 0 then 1 else 0 }
      if e.n > 0 then modHead s qk fun h => { h with marked := true } else finishHead s qk 0
  | none => s
def execCarveEntry (qk : Nat) (s : State) : Out := event (carveStart qk) s

/-- The queue of a die whose CARVE or MS.REL entry is in progress. -/
def markedMash (s : State) (d op : Nat) : Option Nat :=
  (s.queues.find? fun (_, q) => q.kind == 3 && q.die == d &&
    (match q.head with | some h => h.marked && !h.finished && bitsN h.img 7 0 == op | none => false)).map (·.1)
/-- CARVING_COMPLETE (R289): the chosen ways are emptied and zeroed, and the region is READY; one whose CARVE entry has gone with a context in
ERROR is NONE (R288). -/
def execCarvingComplete (d : Nat) (s : State) : Out := event (fun s =>
  let m := (dieSt s d).mash
  if m.state != 1 then s else
  let s := dropLines s fun l => l.die == d && l.way ≥ 16 - m.ways
  match markedMash s d 0x90 with
  | some qk => finishHead (putMash s d { m with state := 2, rows := [], poison := [] }) qk 0
  | none => putMash s d {}) s

/-- An operation entry runs: on a region of its context with K ≥ 1, which is BUSY until the entry completes (R288, R293, R299). -/
def runMash (qk lo hi : Nat) (s : State) (f : State → Who → MashEnt → Mash → Xfer) : State :=
  match mashHead s qk with
  | some (q, h, e) =>
    if e.op < lo || hi < e.op then s else
    let m := (dieSt s q.die).mash
    if !m.owned || m.owner != q.asid || m.ways == 0 || (m.state != 2 && m.state != 3) then finishHead s qk 0x32
    else
      let ranges := e.ranges m
      match f (putMash s q.die { m with state := 3 }) h.who e { m with state := 3 } with
      | .done s m po r =>
        let s := modHead (putMash s q.die m) qk fun h => { h with homes := (homesOf s q.asid ranges).foldl lput h.homes }
        let s := if po || !m.poison.isEmpty then headCode s qk 0x23 else s
        finishHead s qk (if r then 0x22 else 0)
      | .wait => s
      | .stop va wr => stopEntry (putMash s q.die { m with state := 3 }) qk q h.num .pageFaultLoad va (if wr then 1 else 0) 0 (.entry qk h.num)
      | .prot => finishHead s qk 0x21
      | .poisoned => finishHead s qk 0x23
  | none => s

/-- MASH_OPERATION_ENTRY (R295). -/
def execMashOperationEntry (qk : Nat) (s : State) : Out := event (fun s =>
  runMash qk 0x93 0x9C s fun s _ e m => .done s (rowOp e m) false false) s
/-- MASH_TRANSFER_ENTRY (R296). -/
def execMashTransferEntry (qk : Nat) (s : State) : Out := event (fun s =>
  let f (s : State) (w : Who) (e : MashEnt) (m : Mash) : Xfer :=
    match e.op with
    | 0x91 => loadLanes s w e m
    | 0x92 => storeLanes s w e m
    | 0x9D => sumLanes s w e m
    | _ => compactLanes s w e m
  runMash qk 0x9D 0x9E (runMash qk 0x91 0x92 s f) f) s

/-- MS_REL_ENTRY (R297): the owner's region gives its ways back, with 0x23 if it is poisoned (R299); any other changes nothing. -/
def execMsRelEntry (qk : Nat) (s : State) : Out := event (fun s =>
  match mashHead s qk with
  | some (q, _, e) =>
    if e.op != 0x9F then s else
    let m := (dieSt s q.die).mash
    if m.owned && m.owner == q.asid then
      let s := if m.poison.isEmpty then s else headCode s qk 0x23
      let s := putMash s q.die { m with owner := 0, owned := false, ways := 0, rows := [], poison := [], state := if m.ways > 0 then 4 else 0 }
      if m.ways > 0 then modHead s qk fun h => { h with marked := true } else finishHead s qk 0
    else finishHead s qk 0
  | none => s) s
/-- RELEASING_COMPLETE (R288). -/
def execReleasingComplete (d : Nat) (s : State) : Out := event (fun s =>
  let m := (dieSt s d).mash
  if m.state != 4 then s else
  let s := putMash s d { m with state := 0 }
  match markedMash s d 0x9F with
  | some qk => finishHead s qk 0
  | none => s) s

/-! ### Acceptance (R291, R299) -/

/-- The die's mash unit checks a mash instruction and pushes its entry. `fields` are the bases and widths of its fields, `align` what
its address pair must be a multiple of. -/
def accept (c : Ctx') (op align : Nat) (fields : List (Nat × Nat)) (n : Nat) (kdecl : Option Nat) : Go :=
  let qk := mashKey c.a.asid (dieOf c.k); let kd := (queue? c.s qk).elim 0 (·.kdecl)
  let lanes := op == 0x91 || op == 0x92
  if fields.any (fun (b, w) => b + w > 256) || (op != 0x90 && op != 0x9F && kd == 0) || (lanes && n > kd * Config.wayLanes) ||
      (op == 0x90 && (n > 12 || kd != 0)) then .freeze c.s .mashRange {}
  else if c.va % align != 0 then .freeze c.s .misaligned { addr := BitVec.ofNat 64 c.va }
  else
  -- the signal pair of CARVE and MS.REL; 0 names none (R240, R297)
  match (if (op == 0x90 || op == 0x9F) && c.va != 0 then checkSignal c.s c.k c.a c.va else .ok c.s) with
  | .bad code => .freeze c.s code { addr := BitVec.ofNat 64 c.va }
  | _ =>
  if disabled c.s qk then queueError c
  else
    let e : MashEnt := { op := op, d := c.f.dst.toNat, a := c.f.a.toNat, b := bNum c.f, c := c.f.c.toNat, m := c.mod,
                         ea := if [0x90, 0x91, 0x92, 0x9D, 0x9E, 0x9F].contains op then c.va else 0, n := n }
    match queue? c.s qk, kdecl with
    | some q, some k => if q.full then .wait c.s .retry else .next (modQueue (pushEntry c.s qk e.image (metaOf c.k c.a [])) qk fun q => { q with kdecl := k })
    | _, _ => pushOr c c.s qk e.image (metaOf c.k c.a [])

def Ctx'.fw (c : Ctx') : Nat := modBits c.mod 5 0 + 1
def Ctx'.rowD (c : Ctx') : Nat × Nat := (c.f.dst.toNat, c.fw)
def Ctx'.rowA (c : Ctx') : Nat × Nat := (c.f.a.toNat, c.fw)
def Ctx'.rowB (c : Ctx') : Nat × Nat := (bNum c.f, c.fw)

def bodyCarve (c : Ctx') : Go := accept c 0x90 8 [] (low 32 c.vb) (some (low 32 c.vb))
def bodyMsRel (c : Ctx') : Go := accept c 0x9F 8 [] 0 (some 0)
def bodyMsLdt (c : Ctx') : Go := accept c 0x91 (2 ^ modBits c.mod 12 11) [c.rowD] (low 32 c.vb) none
def bodyMsStt (c : Ctx') : Go := accept c 0x92 (2 ^ modBits c.mod 12 11) [c.rowD] (low 32 c.vb) none
def bodyMsAdd (c : Ctx') : Go := accept c 0x93 1 [c.rowD, c.rowA, c.rowB] 0 none
def bodyMsSub (c : Ctx') : Go := accept c 0x94 1 [c.rowD, c.rowA, c.rowB] 0 none
def bodyMsMul (c : Ctx') : Go := accept c 0x95 1 [(c.f.dst.toNat, if modBit c.mod 11 then 2 * c.fw else c.fw), c.rowA, c.rowB] 0 none
def bodyMsMulc (c : Ctx') : Go := accept c 0x96 1 [c.rowD, c.rowA] (low 32 c.vb) none
def bodyMsLog (c : Ctx') : Go := accept c 0x97 1 [c.rowD, c.rowA, c.rowB] 0 none
def bodyMsCmp (c : Ctx') : Go := accept c 0x98 1 [c.rowA, c.rowB] 0 none
def bodyMsSel (c : Ctx') : Go := accept c 0x99 1 [c.rowD, c.rowA, c.rowB] 0 none
def bodyMsSet (c : Ctx') : Go := accept c 0x9A 1 [c.rowD] (low 32 c.vb) none
def bodyMsCpy (c : Ctx') : Go := accept c 0x9B 1 [c.rowD, (c.f.a.toNat, bNum c.f + 1)] 0 none
def bodyMsShr (c : Ctx') : Go := accept c 0x9C 1 [c.rowD, c.rowA] 0 none
def bodyMsRsum (c : Ctx') : Go := accept c 0x9D 8 [c.rowD] 0 none
def bodyMsCmpt (c : Ctx') : Go := accept c 0x9E 4 [] (low 32 c.vb) none

/-! ### The instructions -/

/-- CARVE (R297): Declares k ways at acceptance and pushes a CARVE entry into the die's MASH queue. -/
def execCarve (f : FormL) (s : State) : Out := issueL .carve f bodyCarve s
/-- MS_LDT (R296): Pushes a transpose-in entry from memory to lanes. -/
def execMsLdt (f : FormL) (s : State) : Out := issueL .msLdt f bodyMsLdt s
/-- MS_STT (R296): Pushes a transpose-out entry from lanes to memory. -/
def execMsStt (f : FormL) (s : State) : Out := issueL .msStt f bodyMsStt s
/-- MS_ADD (R295): Pushes a bit-serial add entry. -/
def execMsAdd (f : FormL) (s : State) : Out := issueL .msAdd f bodyMsAdd s
/-- MS_SUB (R295): Pushes a bit-serial subtract entry. -/
def execMsSub (f : FormL) (s : State) : Out := issueL .msSub f bodyMsSub s
/-- MS_MUL (R295): Pushes a bit-serial multiply entry. -/
def execMsMul (f : FormL) (s : State) : Out := issueL .msMul f bodyMsMul s
/-- MS_MULC (R295): Pushes a multiply-by-constant entry. -/
def execMsMulc (f : FormL) (s : State) : Out := issueL .msMulc f bodyMsMulc s
/-- MS_LOG (R295): Pushes a bitwise LUT logic entry. -/
def execMsLog (f : FormL) (s : State) : Out := issueL .msLog f bodyMsLog s
/-- MS_CMP (R295): Pushes a compare entry that writes a mask row. -/
def execMsCmp (f : FormL) (s : State) : Out := issueL .msCmp f bodyMsCmp s
/-- MS_SEL (R295): Pushes a select entry. -/
def execMsSel (f : FormL) (s : State) : Out := issueL .msSel f bodyMsSel s
/-- MS_SET (R295): Pushes an entry that sets a field to a constant. -/
def execMsSet (f : FormL) (s : State) : Out := issueL .msSet f bodyMsSet s
/-- MS_CPY (R295): Pushes a field copy entry with width change. -/
def execMsCpy (f : FormL) (s : State) : Out := issueL .msCpy f bodyMsCpy s
/-- MS_SHR (R295): Pushes a field shift-right entry. -/
def execMsShr (f : FormL) (s : State) : Out := issueL .msShr f bodyMsShr s
/-- MS_RSUM (R296): Pushes a per-segment or whole-region sum entry. -/
def execMsRsum (f : FormL) (s : State) : Out := issueL .msRsum f bodyMsRsum s
/-- MS_CMPT (R296): Pushes a compaction entry that writes the count and indices of selected lanes. -/
def execMsCmpt (f : FormL) (s : State) : Out := issueL .msCmpt f bodyMsCmpt s
/-- MS_REL (R297): Clears KDECL and pushes a release entry for the mash region. -/
def execMsRel (f : FormL) (s : State) : Out := issueL .msRel f bodyMsRel s

end Sys2Proof.Machine
end

