-- ==== Sys2Proof/Machine/Page.lean ====
section
/-!
DEFINITION. Sys2Proof/Machine/Page.lean: invalidation with the replay of side logs (R309, R315, R317, R318, R323), and page migration
(R319 to R321, R324).
-/
namespace Sys2Proof.Machine

/-! ### Ranges of a home (R323) -/

/-- An address of a context lies in a range of offsets of a home's class. -/
def inRange (s : State) (asid : Nat) (va set lo size : Nat) : Bool :=
  match classify s asid va with
  | some x => x.set == set && lo ≤ x.off && x.off < lo + size
  | none => false
/-- The homes of an address: its own, or every member of its stripe set. -/
def pageHomes (s : State) (asid : Nat) (ad : Addr) : List Nat :=
  if ad.set == 0 then [ad.home] else
  match ctx? s asid with
  | some c =>
    let d := (fgetD c.stripes (ad.set - 1) 0).toNat
    (upFrom 0 (2 ^ (bitsN d 117 116 + 1))).foldl (fun l h => lput l (bitsN d (4 * h + 3) (4 * h))) []
  | none => [ad.home]

/-- A PGINV or PGMIG in progress at a home keeps new holds off a range (R318), while its handler thread lives. -/
def closed (s : State) (home asid set lo size : Nat) : Bool :=
  (base s home).closings.any fun c => c.asid == asid && c.set == set && rangesMeet c.base c.size lo size && (agentOf s c.uid).isSome
def putClosing (s : State) (home : Nat) (c : Closing) : State :=
  putBase s home { base s home with closings := (base s home).closings.filter (·.uid != c.uid) ++ [c] }
def dropClosings (s : State) (uid : Nat) : State :=
  { s with bases := s.bases.map fun (h, b) => (h, { b with closings := b.closings.filter (·.uid != uid) }) }
def held (s : State) (home asid set lo size : Nat) : Bool :=
  (base s home).holds.any fun h => h.asid == asid && h.set == set && rangesMeet h.base h.size lo size

/-! ### Replay (R315) -/

/-- The size of the page of an address, when the leaf that its home's walk finds is PRESENT. -/
def presentNow (s : State) (asid : Nat) (ad : Addr) : Option Nat :=
  match walk s asid ad with | .leaf e _ size => if bitsN e 61 60 == 0 then some size else none | _ => none
/-- One logged write, performed as a write of its party. -/
def replay (s : State) (e : LogEntry) : State :=
  let w := e.who; let va := e.acc.addr.toNat
  -- the additions of queues and engines have no party that could freeze; a task's TDRN has (R266)
  let fault (s : State) (c : FCode) : State := if w.engine && !e.acc.eng then s else storeFault s w.key w.uid w.asid c e.acc.pc e.acc.addr w.entry w.kernel
  match locate s w.place w.tasid va e.acc.need e.acc.bytes with
  | .at_ pa home leaf s' =>
    if e.acc.sig && paPkg pa ≥ 240 then fault s .protection
    else
      match (performPhys (invalidateFor s' pa none) w e.acc 0 pa home leaf).undo s with
      | .done s _ _ r =>
        let s := publish s (wordsAt pa e.acc.bytes) e.rels (e.acc.kind == .rmw)
        if r && e.acc.eng then noteTask s w.key w.uid 0x22 else s
      | .race s => fault s .race
      | _ => s
  | .prot => fault s .protection
  | .poisoned _ => fault s .protection
  | _ => s
/-- The log entries of the PRESENT pages that a range meets leave the log and are performed in its order. -/
def replayRange (s : State) (home asid set lo size : Nat) : State :=
  let due (e : LogEntry) : Bool :=
    match classify s asid e.acc.addr.toNat with
    | some ad => ad.set == set && (presentNow s asid ad).any fun n => rangesMeet (ad.off / n * n) n lo size
    | none => false
  let l := sideLog s home asid
  let s := putBase s home { base s home with logs :=
    let rest := l.filter (!due ·); if rest.isEmpty then fdel (base s home).logs asid else fput (base s home).logs asid rest }
  (l.filter due).foldl replay s

/-! ### PGINV (R323) -/

/-- Bytes of a SIZE code. -/
def pgSize (n : Nat) : Nat := match n with | 0 => 2 ^ 16 | 1 => 2 ^ 21 | 2 => 2 ^ 26 | _ => 2 ^ 32

/-- The part of a PGINV at one home before it waits: its translations of the range are dropped, once, and the invalidations of the
range's lines go out as R371 lets them. -/
def pginvHome (s : State) (uid home : Nat) : State :=
  match (base s home).closings.find? (·.uid == uid) with
  | none => s
  | some x =>
    let mine (l : Line) : Bool := l.home == home && l.asid == x.asid
    let tlb := (base s home).tlb.filter fun t => !(t.asid == x.asid && t.set == x.set && rangesMeet t.base t.size x.base x.size)
    let todo := if x.sent then x.todo else
      (s.lines.filter fun l => mine l && inRange s x.asid l.va x.set x.base x.size).map fun l => (l.die, l.va)
    let s := if x.sent then s else putBase s home { base s home with tlb := tlb }
    let s := sendInvals s home (s.lines.filter fun l => mine l && todo.contains (l.die, l.va))
    let left (p : Nat × Nat) : Bool :=
      s.lines.any (fun l => mine l && l.die == p.1 && l.va == p.2) && !s.invals.any fun i => i.die == p.1 && i.asid == x.asid && i.va == p.2
    putClosing s home { x with sent := true, todo := todo.filter left }

/-- A handler waits until every home of the range has done its part. -/
def bodyPginv (c : Ctx') : Go :=
  let asid := c.a.asid; let size := pgSize (modBits c.mod 1 0)
  match classify c.s asid c.va with
  | none => .freeze c.s .protection { addr := BitVec.ofNat 64 c.va }
  | some ad =>
    let lo := ad.off / size * size; let homes := pageHomes c.s asid ad
    let mine (s : State) (h : Nat) : List Closing := (base s h).closings.filter (·.uid == c.a.uid)
    let begun := homes.any fun h => !(mine c.s h).isEmpty
    let s := if begun then c.s else sendMarkers c.s c.k
    if !begun && !allPerformed s c.a.uid then .wait s .retry
    else
      let s := if begun then s else homes.foldl (fun s h => putClosing s h { uid := c.a.uid, asid := asid, set := ad.set, base := lo, size := size }) s
      if homes.any fun h => (base s h).migs.any fun m => ad.set == 0 && !m.switched && m.asid == asid && rangesMeet m.base m.size lo size then .wait s .retry
      else
        let s := homes.foldl (fun s h => pginvHome s c.a.uid h) s
        if homes.any (fun h => (mine s h).any fun x => !x.todo.isEmpty) || s.invals.any fun i => i.asid == asid && inRange s asid i.va ad.set lo size then
          .wait s .retry
        else if homes.any fun h => held s h asid ad.set lo size then .wait s .retry
        else .next (dropClosings (homes.foldl (fun s h => replayRange s h asid ad.set lo size) s) c.a.uid)

/-! ### PGMIG (R324) -/

/-- Changes a leaf in memory and in the home's TLB. -/
def setLeaf (s : State) (home at_ : Nat) (f : Nat → Nat) : State :=
  putBase { s with mem := writeN s.mem at_ (f (readN s.mem at_ 8)) 8 } home
    { base s home with tlb := (base s home).tlb.map fun t => if t.at_ == at_ then { t with leaf := f t.leaf } else t }

def bodyPgmig (c : Ctx') : Go :=
  let asid := c.a.asid; let prot (va : Nat) : Go := .freeze c.s .protection { addr := BitVec.ofNat 64 va }
  match checkSignal c.s c.k c.a c.vc with
  | .bad code => .freeze c.s code { addr := BitVec.ofNat 64 c.vc }
  | _ =>
    match classify c.s asid c.va with
    | none => prot c.va
    | some ad =>
      match findLeaf c.s asid ad with
      | .leaf e at_ size =>
        let lo := ad.off / size * size
        if ad.set != 0 || bitsN e 61 60 != 0 || size > 2 ^ 21 || logged c.s asid ad lo size || !leafOk c.s ad.home e size then prot c.va
        else if c.vb % size != 0 then .freeze c.s .misaligned { addr := BitVec.ofNat 64 c.vb }
        else if !mappable c.vb size then prot c.vb
        else
          let s := sendMarkers c.s c.k
          if !allPerformed s c.a.uid then .wait s .retry
          else
            let s := putClosing s ad.home { uid := c.a.uid, asid := asid, set := 0, base := lo, size := size }
            if (base s ad.home).migs.length ≥ 4 || held s ad.home asid 0 lo size then .wait s .retry
            else
              let m : Mig := { asid := asid, tasid := c.a.tasid, base := lo, size := size, old := leafPa e, new := c.vb, leafAt := at_,
                               signal := BitVec.ofNat 64 c.vc, clk := c.a.relClk }
              let s := setLeaf s ad.home at_ fun e => setBitsN e 61 60 2
              let s := putBase s ad.home { base s ad.home with migs := (base s ad.home).migs ++ [m] }
              .next (dropClosings s c.a.uid)
      | _ => prot c.va

/-! ### The copy (R320, R321) -/

def mig? (s : State) (home n : Nat) : Option Mig := ((base s home).migs.drop n).head?
def putMig (s : State) (home n : Nat) (m : Mig) : State :=
  let l := (base s home).migs
  putBase s home { base s home with migs := l.take n ++ [m] ++ l.drop (n + 1) }

/-- A map keyed by words whose 32 words of one line move to another line. -/
def moveWords {α : Type} (m : FMap α) (old new : Nat) : FMap α :=
  let kept := m.filter fun (w, _) => !(wordOf new ≤ w && w < wordOf new + 32) && !(wordOf old ≤ w && w < wordOf old + 32)
  (m.filter fun (w, _) => wordOf old ≤ w && w < wordOf old + 32).foldl (fun k (w, x) => fput k (w - wordOf old + wordOf new) x) kept
/-- One 128-byte line moves, with what the model knows of its words; die-L2 copies stay valid. -/
def moveLine (s : State) (old new : Nat) : State :=
  let p := s.poison.map fun w => (w, ())
  { s with
    mem := writeN s.mem new (readN s.mem old 128) 128
    tags := moveWords s.tags old new, rels := moveWords s.rels old new, poison := (moveWords p old new).map (·.1)
    lines := s.lines.map fun l => if l.pa == old then { l with pa := new, dirty := false } else l }

/-- A request is under way to a line, or its answer to the die that will hold the line: the copy waits for it. -/
def lineBusy (s : State) (pa : Nat) : Bool :=
  s.reqs.any fun r => (r.stage == .forwarded || r.stage == .answered || r.stage == .performed) && r.fill.any fun (p, _, _) => lineOf p == pa
/-- MIGRATION_LINE_COPY (R320): the next line in ascending order, unless a remap has stopped its source (R364). -/
def execMigrationLineCopy (home n : Nat) (s : State) : Out := event (fun s =>
  match mig? s home n with
  | some m => if 128 * m.copied ≥ m.size || sourceStopped s s.package false || lineBusy s (m.old + 128 * m.copied) then s else
      putMig (moveLine s (m.old + 128 * m.copied) (m.new + 128 * m.copied)) home n { m with copied := m.copied + 1 }
  | none => s) s

/-- What adds a migration's 1 to its signal. -/
def migWho (s : State) (home : Nat) (m : Mig) : State × Who :=
  let (uid, s) := freshUid s
  (s, { uid := uid, region := 0, clk := m.clk, place := { die := none, stack := home }, key := 0, asid := m.asid, tasid := m.tasid, engine := true, pc := 0 })
/-- MIGRATION_SWITCH (R321, R324): the new leaf is written; then the signal gets its 1, at once or as soon as its home lets it, or it stays
latched while the context's queues do not run (R349). -/
def execMigrationSwitch (home n : Nat) (s : State) : Out := event (fun s =>
  match mig? s home n with
  | some m =>
    if 128 * m.copied < m.size then s else
    let s1 := if m.switched then s else
      putMig (setLeaf s home m.leafAt fun e => setBitsN (setBitsN e 61 60 0) 55 16 (m.new / 65536)) home n { m with switched := true }
    let (s', w) := migWho (putBase s1 home { base s1 home with migs := (base s1 home).migs.take n ++ (base s1 home).migs.drop (n + 1) }) home m
    if !queuesRun s' m.asid then modCtx s' m.asid fun c => { c with latched := c.latched ++ [{ who := w, va := m.signal }] }
    else
      match addSignal s' w m.signal.toNat 1 with
      | .done s _ => s
      | .full _ => s1
      | .wait => s1
      | _ => s'
  | none => s) s

/-! ### The instructions -/

/-- PGINV (R323): Invalidates translations and lines of a page range at its homes and replays side logs. -/
def execPginv (f : FormL) (s : State) : Out := issueL .pginv f bodyPginv s
/-- PGMIG (R324): Starts migration of a present page to a new physical address. -/
def execPgmig (f : FormL) (s : State) : Out := issueL .pgmig f bodyPgmig s

end Sys2Proof.Machine
end

