-- ==== Sys2Proof/Machine/Frozen.lean ====
section
/-!
DEFINITION. Sys2Proof/Machine/Frozen.lean: the frozen queue (R329), handler threads (R330 to R334), the capability instructions (R335 to
R348), resumption (R311, R343), EXIT (R106), and the entry of a context into ERROR (R349).
-/
namespace Sys2Proof.Machine

/-! ### States of a context (R349, R409) -/

/-- A context enters a state: NTRANS counts it, and SAVED, HALTED and ERROR send a message. -/
def setState (s : State) (asid : Nat) (st : CState) : State :=
  let s := modCtx s asid fun c => { c with state := st, ntrans := c.ntrans + 1 }
  if st == .saved || st == .halted || st == .error then { s with msi := s.msi ++ [.context asid st] } else s

/-- A request of CTXREQ for a context, if one is in progress, completes with a result (R408). -/
def endRequest (s : State) (asid result : Nat) : State :=
  if s.host.busy && s.host.reqAsid.toNat == asid then { s with host := { s.host with busy := false, result := BitVec.ofNat 8 result } } else s

/-- A context enters ERROR: its kernels are ABORTED, its mash regions NONE, and nothing of it issues. -/
def contextError (s : State) (asid cause : Nat) : State :=
  let kerns := (s.kernels.filter fun (_, k) => k.asid == asid).map (·.1)
  let s := kerns.foldl abortKernel s
  let cls := (s.agents.filter fun (_, a) => a.kind == .task && a.asid == asid).map fun (k, _) => clusterOf k
  let s := cls.foldl (fun s cl => putEngine s cl {}) { s with agents := s.agents.filter fun (_, a) => a.asid != asid }
  let s := dropMail s fun kind id => kind == FlitKind.chunk && s.beats.any fun b => b.id == id && b.asid == asid
  let s := { s with
    -- a region that is being carved is NONE once its lines have gone, its entry with the queue's head (R288, R289)
    dies := s.dies.map fun (d, x) => (d, { x with mash := (if x.mash.owned && x.mash.owner == asid && x.mash.state != 1 then {} else x.mash), level2 := x.level2.filter (·.asid != asid) })
    queues := s.queues.map fun (n, q) => (n, if q.asid == asid then { q with head := none } else q)
    beats := s.beats.filter (·.asid != asid)
    bases := s.bases.map fun (b, x) => (b, { x with holds := x.holds.filter (·.asid != asid), posts := x.posts.filter (·.asid != asid) }) }
  endRequest (setState (modCtx s asid fun c => { c with cause := cause, cut := none }) asid .error) asid 1

/-! ### Records of a context's parties -/

/-- Invalidates every capability on a target (R332). -/
def invalidate (s : State) (t : Target) : State := updateCaps s (fun r => r.target == t) fun c => { c with valid := false }

/-- A context's records move: not while it is halted, saved, or cut from HALTED (R360, R361). -/
def Ctx.recordsMove (c : Ctx) : Bool := c.state != .halted && c.state != .saved && !c.cut.any (·.fromHalt)
/-- FROZEN_RECORD_ADMIT (R329): the oldest waiting record enters the frozen queue once there is room. -/
def admitRecDue (c : Ctx) : Bool := c.recordsMove && !c.parked.isEmpty && c.fq.length < 2 ^ c.fqlog
def execFrozenRecordAdmit (asid : Nat) (s : State) : Out := event (fun s =>
  modCtx s asid fun c =>
    match c.parked with
    | r :: t => if admitRecDue c then { c with fq := c.fq ++ [r], parked := t } else c
    | [] => c) s

/-! ### Resumption (R311, R316, R343) -/

/-- The loads that a party's marked registers keep, in ascending register order: a pair or quad whose registers all keep one load issues
it once, and one of which a handler has written some registers loads the rest; an atomic is performed whole and delivers the rest. -/
def keptLoads (a : Agent) : List (Dst × Access) :=
  let vs := a.v.filterMap fun (n, c) => match c.mark with
    | some m => if m.code == .pageFaultLoad then some (n, m.acc) else none
    | none => none
  let xs := a.x.filterMap fun (n, c) => match c.mark with
    | some m => if m.code == .pageFaultLoad then some (Dst.x n, m.acc) else none
    | none => none
  vs.filterMap (fun (n, acc) =>
    match acc.dst with
    | .v r w =>
      let d := 4 * (n - r)
      if (vregs r w).all fun i => vs.any fun (j, x) => j == i && x == acc then (if n == r then some (acc.dst, acc) else none)
      else if acc.kind != .load then some (.v n 1, { acc with dst := .v n 1, skip := acc.skip + d })
      else
        some (.v n 1, { acc with addr := acc.addr + BitVec.ofNat 64 d, locs := (acc.locs.drop d).take 4, bytes := 4, width := 2, dst := .v n 1 })
    | d => some (d, acc)) ++ xs

/-- Issues an access of a party again. -/
def reissue (s : State) (k : Nat) (acc : Access) : State :=
  match agent? s k with
  | none => s
  | some a =>
    let a := if acc.rx then (match classify s a.tasid acc.addr.toNat with | some ad => { a with relaxed := lput a.relaxed ad.home } | none => a) else a
    issueReq s k (a.emptyDst acc.dst) acc

/-- A frozen party goes on, READY or STEPPING, with what its handler released. -/
def resumeParty (s : State) (k : Nat) (st : TState) (clk : Clock) : State :=
  match agent? s k with
  | none => s
  | some a =>
    let done := (a.record.map (·.done)).getD false
    let b := { a.endRegion.acquire clk with state := st, wait := .none, inst := none, record := if st == .stepping then a.record else none, refused := [] }
    let b := if done then advance b a.pc (a.pc + BitVec.ofNat 64 a.stopLen) else b
    let s := (keptLoads a).foldl (fun s (d, acc) => reissue s k { acc with dst := d }) (putAgent s k b)
    a.refused.foldl (fun s x => reissue s k x.acc) s

/-! ### The end of a handler and EXIT (R106, R334, R346) -/

/-- What a record names is still stopped there. -/
def stillStopped (s : State) (t : Target) : Bool :=
  match t with
  | .agent k u => (party? s k u).any fun a => a.state == .frozen
  | .entry q num => (queue? s q).any fun x => x.state == .faulted && x.head.any (·.num == num)
  | .box q n num => (queue? s q).any fun x => x.head.any fun h => h.num == num && h.stopped.contains n
  | .chunk q n num => (queue? s q).any fun x => x.head.any fun h => h.num == num && h.run.any fun g => g.stopped.contains n
  | .trigger id => s.trigs.any fun t => t.id == id && t.state == .page
  | .ended _ => true

/-- CAP.REL of one capability (R346): the record returns to the head of the frozen queue, of which a last one that finds no room waits
(R329); a stepping party's is queued when it refreezes. -/
def releaseCap (s : State) (k n : Nat) : State :=
  match (agent? s k).bind fun a => fget? a.caps n with
  | none => s
  | some c =>
    let s := modAgent s k fun a => { a with caps := fdel a.caps n }
    if c.valid && stillStopped s c.record.target then
      modCtx s c.record.asid fun x =>
        let l := c.record :: x.fq
        { x with fq := l.take (2 ^ x.fqlog), parked := l.drop (2 ^ x.fqlog) ++ x.parked }
    else s
/-- A handler thread has ended: its capabilities are released and its slot is EMPTY. -/
def endHandler (s : State) (k : Nat) : State :=
  match agent? s k with
  | none => s
  | some a =>
    let s := (a.caps.reverse.map (·.1)).foldl (fun s n => releaseCap s k n) s
    { s with agents := fdel s.agents k, prods := s.prods.filter (·.uid != a.uid) }

/-- A party's outstanding producers, loads and atomics with return (R106). -/
def producing (s : State) (uid : Nat) : Bool := prodsOut s uid || loadsOut s uid
/-- EXIT (R106), on every kind of party. -/
def bodyExit (c : Ctx') : Go :=
  if producing c.s c.a.uid then .wait c.s .retry else
  match c.a.kind with
  | .thread => .ended (endThread (invalidate c.s (.agent c.k c.a.uid)) c.k)
  | .handler => .ended (endHandler c.s c.k)
  | .task =>
    if !engineDone c.s c.a then .wait c.s .retry
    else .ended (endTask (invalidate c.s (.agent c.k c.a.uid)) c.k (engine c.s (clusterOf c.k)).code)

/-! ### Handler threads (R330) -/

/-- Handler threads of a context that have not yet executed a CAP.NEXT. -/
def newHandlers (s : State) (asid : Nat) : Nat := (s.agents.filter fun (_, a) => a.kind == .handler && a.asid == asid && !a.nexted).length

/-- The cores in the order of R330, for a record. -/
def handlerCores (c : Ctx) (r : Rec) : List Nat :=
  let p := r.party.toNat
  let die := if r.kind ≤ 1 then bitsN p 20 18 else (diesOf c.diemask).headD 0
  let cl := die * Config.numClusters + if r.kind ≤ 1 then bitsN p 17 13 else 0
  let own := cl * 4 + if r.kind ≤ 1 then bitsN p 12 11 else 0
  let cores (l : List Nat) : List Nat := l.flatMap fun cl => upFrom (cl * 4) 4
  own :: (cores [cl]).filter (· != own) ++ cores ((clustersOf die).filter (· != cl)) ++ cores (((diesOf c.diemask).filter (· != die)).flatMap clustersOf)
/-- The first free pool slot of some cores: static warp 63 of a core of a die that is ON (R413). -/
def freePool (s : State) (cores : List Nat) : Option Nat :=
  firstSome (fun core => (upFrom (core * 2048 + 2016) 32).find? fun k => (agent? s k).isNone) (cores.filter fun core => (dieSt s (core / 80)).pstate == 1)
def poolSlot (s : State) (c : Ctx) (r : Rec) : Option Nat := freePool s (handlerCores c r)

/-- The next record that has no handler on its way. -/
def unserved (s : State) (asid : Nat) (c : Ctx) : Option Rec := (c.fq.drop (newHandlers s asid)).head?
def handlerDue (s : State) (asid : Nat) : Bool :=
  match ctx? s asid with
  | some c => c.state == .running && c.hentry != 0 && (match unserved s asid c with | some r => (poolSlot s c r).isSome | none => false)
  | none => false
/-- HANDLER_START (R330, R331). -/
def startHandler (asid : Nat) (s : State) : State :=
  match ctx? s asid with
  | none => s
  | some c =>
    if c.state != .running || c.hentry == 0 then s else
    match (unserved s asid c).bind (poolSlot s c) with
    | none => s
    | some k =>
      let (uid, s) := freshUid s
      putAgent s k { kind := .handler, uid := uid, asid := asid, tasid := c.hasid, nregs := c.nh, pc := BitVec.ofNat 64 c.hentry }
def execHandlerStart (asid : Nat) (s : State) : Out := event (startHandler asid) s

/-! ### Level 2 (R334, R355) -/

/-- HANDLER_BUDGET (R333): a handler that holds a spent capability freezes, and its record goes to level 2. -/
def execHandlerBudget (k : Nat) (s : State) : Out := event (fun s =>
  match agent? s k with
  | some a =>
    match a.caps.find? fun (_, c) => c.valid && c.budget == 0 with
    | some (n, _) => if a.kind == .handler && a.state != .frozen then freeze s k .handlerBudget { x0 := BitVec.ofNat 32 n } else s
    | none => s
  | none => s) s

/-- LEVEL2_HANDLING (R334): the die's firmware takes its oldest level-2 record. -/
def level2 (die : Nat) (faulted : Bool) (s : State) : State :=
  match (dieSt s die).level2.find? fun r => (ctx? s r.asid).all (·.recordsMove) with
  | none => s
  | some r =>
    let s := putDie s die { dieSt s die with level2 := (dieSt s die).level2.erase r }
    if faulted then contextError s r.asid 1 else
    match r.target with
    | .agent k u =>
      (match party? s k u with
       | some a =>
         if a.state != .frozen then s
         else if r.code == .handlerBudget && ctxState s r.asid != .cutting then
           modAgent (resumeParty s k .ready []) k fun a => { a with caps := a.caps.map fun (n, c) => (n, { c with budget := 65536 }) }
         else endHandler s k
       | none => s)
    | _ => s
def execLevel2Handling (die : Nat) (faulted : Bool) (s : State) : Out := event (level2 die faulted) s

/-! ### Capability instructions (R332 to R347) -/

def Ctx'.capNo (c : Ctx') : Nat := c.f.a.toNat
def capInvalid (c : Ctx') (n : Nat) : Go := .freeze c.s .capInvalid { x0 := BitVec.ofNat 32 n }
/-- A valid capability of field a. -/
def withCap (c : Ctx') (g : Cap → Go) : Go :=
  match fget? c.a.caps c.capNo with
  | some x => if x.valid then g x else capInvalid c c.capNo
  | none => capInvalid c c.capNo
/-- The frozen thread or task that a capability names; while it is stepping the instruction waits (R342). -/
def withParty (c : Ctx') (x : Cap) (g : Nat → Agent → Go) : Go :=
  match x.record.target with
  | .agent k u =>
    match party? c.s k u with
    | some a => if a.state == .stepping then .wait c.s .retry else g k a
    | none => capInvalid c c.capNo
  | _ => capInvalid c c.capNo

/-- RCLS fits the party and the register lies in its file (R336): none when it does, else the code. -/
def badReg (r : Rec) (nregs cls b : Nat) : Option FCode :=
  if (r.kind == 0 && cls == 4) || (r.kind == 1 && cls != 4) || r.kind > 1 then some .capInvalid
  else
    let ok := match cls with
      | 0 => b == 255 || b < nregs
      | 1 => b % 2 == 0 && b + 1 < nregs
      | 2 => b ≤ 7
      | 3 => b == 0
      | _ => b < 32
    if ok then none else some .regRange

/-- CAP.NEXT (R337). -/
def bodyCapNext (c : Ctx') : Go :=
  let n := c.f.dst.toNat
  let old := (fget? c.a.caps n).any (·.valid)
  let s := releaseCap c.s c.k n
  -- it ends as by EXIT: after its producers, and after what waits to freeze it (R106, R196, R316)
  let ends : Go :=
    if producing c.s c.a.uid then .wait c.s .retry else
    match dueFreeze c.a .exit c.mod with
    | some (code, i) => .freeze (c.upd fun a => { a with sfault := if code == .sideLogFull then a.sfault else none }) code i
    | none => .ended (endHandler s c.k)
  match ctx? s c.a.asid with
  | none => ends
  | some x =>
    match x.state, x.fq with
    | .cutting, _ => ends
    | _, [] => ends
    | _, r :: t =>
      let s := putCtx s c.a.asid { x with fq := t }
      -- the instruction is charged to the capabilities held at its issue, of which a fresh one is none
      .next (modAgent s c.k fun a => { a.acquire r.clk with
        caps := fput a.caps n { record := r, budget := 65536 + (if old then 1 else 0), valid := true }, nexted := true
        lastC0 := if n == 0 then some r else a.lastC0 })

/-- CAP.RDR (R338): a producer that fills once the party's register is full or faulted. -/
def bodyCapRdr (c : Ctx') : Go := withCap c fun x =>
  match x.record.target with
  | .agent k u =>
    match party? c.s k u with
    | none => capInvalid c c.capNo
    | some p =>
      let cls := modScope c.mod; let b := bNum c.f
      if p.state == .stepping then .wait c.s .retry else
      match badReg x.record p.nregs cls b with
      | some code => .freeze c.s code { x0 := if code == .capInvalid then BitVec.ofNat 32 c.capNo else 0 }
      | none =>
        let d := Dst.v c.f.dst.toNat (if cls == 1 || cls == 4 then 2 else 1)
        let (id, s) := freshId c.s
        let s := putAgent s c.k (c.a.emptyDst d)
        .next { s with prods := s.prods ++ [{ id := id, key := c.k, uid := c.a.uid, dst := d, value := 0, flags := 0, src := some (k, u, cls, b) }] }
  | _ => capInvalid c c.capNo

/-- CAP.WRR (R339). -/
def bodyCapWrr (c : Ctx') : Go := withCap c fun x => withParty c x fun k p =>
  let cls := modScope c.mod; let b := bNum c.f
  match badReg x.record p.nregs cls b with
  | some code => .freeze c.s code { x0 := if code == .capInvalid then BitVec.ofNat 32 c.capNo else 0 }
  | none =>
    match partyReg p cls b with
    | none => .wait c.s .retry
    | some _ =>
      .next (modAgent c.s k fun a => match cls with
        | 0 => a.setV b { val := BitVec.ofNat 32 c.vc }
        | 1 => (a.setV b { val := BitVec.ofNat 32 c.vc }).setV (b + 1) { val := BitVec.ofNat 32 (c.vc / 2 ^ 32) }
        | 2 => a.setP b (bitN c.vc 0)
        | 3 => { a with fl := BitVec.ofNat 5 c.vc }
        | _ => a.putX b c.vc)

/-- Item 16: the status of what a record names (R340). -/
def statusItem (s : State) (r : Rec) : Nat :=
  match r.kind, r.target with
  | 0, .agent k u =>
    (match party? s k u with
     | some a =>
       (match a.state with | .stepping => 1 | .exited => 2 | _ => 0) + (match a.bar with | .none => 0 | .arrived => 4 | .passed => 8) +
       partOf s a % 32 * 16 + (a.nregs - 1) * 512 + (if a.pending.isEmpty then 0 else 2 ^ 17) + (if a.refused.isEmpty then 0 else 2 ^ 18)
     | none => 2)
  | 1, .agent k u =>
    (match party? s k u with
     | some a => (if a.state == .stepping then 1 else 0) + 31 * 512 + (if a.pending.isEmpty then 0 else 2 ^ 17) + (if a.refused.isEmpty then 0 else 2 ^ 18)
     | none => 2 + 31 * 512)
  | 4, _ => 2
  | _, t => if stillStopped s t then 0 else 2
/-- The state of a party's register (R340, REG = 1). -/
def regState (a : Agent) (cls b : Nat) : Nat :=
  let of_ {w : Nat} (cs : List (Cell w)) : Nat :=
    (if cs.all (·.full) then 1 else 0) + (if cs.any (·.mark.isSome) then 2 else 0) + (if cs.any (·.poison) then 4 else 0) +
    (match cs.findSome? (·.mark) with | some m => m.code.num * 256 | none => 0)
  match cls with
  | 0 => of_ [a.vcell b]
  | 1 => of_ [a.vcell b, a.vcell (b + 1)]
  | 2 => (if a.pready b then 1 else 0) + (if b != 7 && a.ppoison.getLsbD b then 4 else 0)
  | 3 => 1
  | _ => of_ [a.xcell b]

/-- CAP.RDS (R340). -/
def bodyCapRds (c : Ctx') : Go :=
  match fget? c.a.caps c.capNo with
  | none => capInvalid c c.capNo
  | some x =>
    let item := modBits c.mod 4 0; let put (v : Nat) : Go := .next (c.upd fun a => a.putV c.f.dst.toNat 1 (low 32 v))
    if modBit c.mod 5 then
      match x.record.target with
      | .agent k u =>
        match party? c.s k u with
        | some a =>
          (match badReg x.record a.nregs (modScope c.mod) (bNum c.f) with
           | some code => .freeze c.s code { x0 := if code == .capInvalid then BitVec.ofNat 32 c.capNo else 0 }
           | none => put (regState a (modScope c.mod) (bNum c.f)))
        | none => put 1
      | _ => capInvalid c c.capNo
    else if item == 16 then put (statusItem c.s x.record)
    else if !x.valid then capInvalid c c.capNo
    else if item < 16 then put (recWord x.record item).toNat
    else if item == 17 then put x.budget
    else
      match x.record.target with
      | .agent k u => put ((party? c.s k u).elim 0 fun a => if x.record.kind == 0 then a.rstk else 0)
      | _ => put 0

/-- CAP.SETPC (R341): within the party's block it stands there; elsewhere no block is known to it. -/
def bodyCapSetpc (c : Ctx') : Go := withCap c fun x => withParty c x fun k _ =>
  if x.record.kind > 1 then capInvalid c c.capNo
  else if c.vb % 4 != 0 then .freeze c.s .misaligned { addr := BitVec.ofNat 64 c.vb }
  else
    let v := BitVec.ofNat 64 c.vb
    let s := modAgent c.s k fun a => { a with
      pc := v, entry := .inside, record := a.record.map fun r => { r with done := false }
      blk := a.blk.filter fun b => b.head.toNat + 8 ≤ c.vb && c.vb < b.stop.toNat }
    .next (updateCaps s (fun r => r.target == x.record.target) fun y => { y with record := { y.record with done := false } })

/-- The queue of a stopped entry or box goes on. -/
def resumeTarget (s : State) (t : Target) : State :=
  match t with
  | .entry q _ => modQueue s q fun x => { x with state := if x.state == .faulted then .active else x.state }
  | .box q n _ =>
    let s := modHead s q fun h => { h with stopped := ldel h.stopped n }
    modQueue s q fun x => { x with state := if x.state == .faulted && x.head.all (·.stopped.isEmpty) then .active else x.state }
  | .chunk q n _ =>
    let s := modHead s q fun h => { h with run := h.run.map fun g => { g with stopped := ldel g.stopped n } }
    modQueue s q fun x => { x with state := if x.state == .faulted && x.head.all (fun h => h.run.all (·.stopped.isEmpty)) then .active else x.state }
  | .trigger id => { s with trigs := s.trigs.map fun t => if t.id == id && t.state == .page then { t with state := .fired } else t }
  | _ => s

/-- CAP.RES (R343, R347). -/
def bodyCapRes (c : Ctx') : Go := withCap c fun x =>
  let go (g : State → Agent → State) : Go := releasing c fun s a => .next (g (invalidate s x.record.target) a)
  match x.record.target with
  | .agent _ _ => withParty c x fun k _ => go fun s a => resumeParty s k .ready a.relClk
  | t => go fun s _ => resumeTarget s t

/-- CAP.STEP (R342). -/
def bodyCapStep (c : Ctx') : Go := withCap c fun x => withParty c x fun k _ =>
  if x.record.kind > 1 then capInvalid c c.capNo
  else releasing c fun s a => .next (resumeParty s k .stepping a.relClk)

/-- A killed entry completes with 0x25, and the records of its other stopped parts are dismissed (R347). -/
def killEntry (s : State) (q num : Nat) : State :=
  let mine (r : Rec) : Bool := match r.target with
    | .entry p n => p == q && n == num
    | .box p _ n => p == q && n == num
    | .chunk p _ n => p == q && n == num
    | _ => false
  let s := updateCaps s mine fun c => { c with valid := false }
  let s := { s with
    ctxs := s.ctxs.map fun (a, c) => (a, { c with fq := c.fq.filter (!mine ·), parked := c.parked.filter (!mine ·) })
    bases := s.bases.map fun (b, x) => (b, { x with holds := x.holds.filter (·.q != q), posts := x.posts.filter (·.q != q) }) }
  let s := modQueue s q fun x => { x with state := if x.state == .faulted then .active else x.state }
  modHead s q fun h => { h with finished := true, code := 0x25, stopped := [], run := none }

/-- CAP.KILL (R344, R347, R264). -/
def bodyCapKill (c : Ctx') : Go := withCap c fun x =>
  let go (g : State → Clock → State) : Go := releasing c fun s a => .next (g (invalidate s x.record.target) a.relClk)
  match x.record.target with
  | .agent k u =>
    if (party? c.s k u).isNone then capInvalid c c.capNo
    -- the end of the party follows the kill (R205)
    else go fun s clk => let s := modAgent s k (·.acquire clk); if isTask k then endTask s k 0x42 else endThread s k
  | .entry q n => go fun s _ => killEntry s q n
  | .box q _ n => go fun s _ => killEntry s q n
  | .chunk q _ n => go fun s _ => killEntry s q n
  | .trigger id => go fun s _ => dropTrig s id
  | .ended _ => go fun s _ => s

/-- CAP.REL (R346). -/
def bodyCapRel (c : Ctx') : Go := withCap c fun _ => .next (releaseCap c.s c.k c.capNo)

/-- CAP.ARV (R345). -/
def bodyCapArv (c : Ctx') : Go := withCap c fun x => withParty c x fun k p =>
  if x.record.kind != 0 then capInvalid c c.capNo
  else if !performedNear c.s p.uid then .wait c.s .retry
  else
    let d := c.f.dst.toNat
    if !modBit c.mod 0 then
      if p.bar == .arrived then .next (c.upd fun a => a.setP d false)
      else .next (barPhase (modAgent (c.upd fun a => a.setP d true) k Agent.arrive) p.group)
    else
      let off := low 32 c.vb; let addr : DWord := BitVec.ofNat 64 off
      match mbLocs c.s p off with
      | .inl code => .freeze c.s code { addr := addr }
      | .inr locs =>
        match mbArrive c.s (whoOf k p) locs addr 1 0 with
        | .inl s => .next (modAgent s c.k fun a => a.setP d false)
        | .inr (s, _) => .next (modAgent (modAgent s k Agent.endRegion) c.k fun a => a.setP d true)

/-! ### The instructions -/

/-- EXIT_S (R106): Compact EXIT: waits for producers, ends the region and makes the thread EXITED. -/
def execExitS (f : FormS) (s : State) : Out := issueS .exit f bodyExit s
/-- EXIT (R106): EXIT in form L; on the control core it ends the task. -/
def execExit (f : FormL) (s : State) : Out := issueL .exit f bodyExit s
/-- CAP_RDR (R338): Reads a frozen party's register into a handler register. -/
def execCapRdr (f : FormL) (s : State) : Out := issueL .capRdr f bodyCapRdr s
/-- CAP_WRR (R339): Writes a frozen party's register. -/
def execCapWrr (f : FormL) (s : State) : Out := issueL .capWrr f bodyCapWrr s
/-- CAP_RDS (R340): Reads a record word, the party status or a register state. -/
def execCapRds (f : FormL) (s : State) : Out := issueL .capRds f bodyCapRds s
/-- CAP_SETPC (R341): Sets the frozen party's resumption point. -/
def execCapSetpc (f : FormL) (s : State) : Out := issueL .capSetpc f bodyCapSetpc s
/-- CAP_RES (R343): Releases, invalidates the capability and resumes the party, reissuing faulted loads and refused writes. -/
def execCapRes (f : FormL) (s : State) : Out := issueL .capRes f bodyCapRes s
/-- CAP_KILL (R344): Kills the party named by the capability. -/
def execCapKill (f : FormL) (s : State) : Out := issueL .capKill f bodyCapKill s
/-- CAP_STEP (R342): Makes the party issue one instruction alone and then refreeze. -/
def execCapStep (f : FormL) (s : State) : Out := issueL .capStep f bodyCapStep s
/-- CAP_ARV (R345): Arrives at a barrier or object on behalf of the frozen party. -/
def execCapArv (f : FormL) (s : State) : Out := issueL .capArv f bodyCapArv s
/-- CAP_REL (R346): Empties a capability register and returns the record to the frozen queue. -/
def execCapRel (f : FormL) (s : State) : Out := issueL .capRel f bodyCapRel s
/-- CAP_NEXT (R337): Takes the oldest frozen record into a capability register, or ends the handler. -/
def execCapNext (f : FormL) (s : State) : Out := issueL .capNext f bodyCapNext s

end Sys2Proof.Machine
end

