-- ==== Sys2Proof/Machine/Stack.lean ====
section
/-!
DEFINITION. Sys2Proof/Machine/Stack.lean: the stack engines: graphs and runs (R381 to R389), chunks and their holds (R390), the operations
(R384, R391 to R393), communicators and landing (R394 to R396), and the engines' arbitration (R397).
-/
namespace Sys2Proof.Machine

/-! ### Nodes (R384, R385) -/

def nOp (n : Nat) : Nat := bitsN n 7 0
def nDt (n : Nat) : Nat := bitsN n 9 8
def nStk (n : Nat) : Nat := bitsN n 13 10
def nLen (n : Nat) : Nat := bitsN n 112 96
def nBags (n : Nat) : Nat := bitsN n 479 448
/-- The graph counters of a node, by 64 × stack + number. -/
def nIn (n : Nat) : Nat := 64 * nStk n + bitsN n 21 16
def nOut (n : Nat) : Nat := 64 * bitsN n 51 48 + bitsN n 29 24

/-- The element size that LEN is counted in (R385): DT names it, and it is 0, F32, in COPY, SEND and RECV. -/
def elemSize (n : Nat) : Nat :=
  match nOp n, nDt n with
  | 2, 3 => 128
  | 5, _ => 128
  | _, 1 => 2
  | _, _ => 4
/-- What R385 says of a node alone. -/
def nodeMalformed (n : Nat) : Bool :=
  bitN n 23 || bitN n 31 || bitsN n 115 113 != 0 || bitsN n 127 124 != 0 || bitsN n 511 496 != 0 ||
  nOp n == 0 || nOp n > 7 || nDt n > (match nOp n with | 2 => 3 | 3 => 2 | 4 => 2 | _ => 0) ||
  nLen n == 0 || nLen n > 65536 || nLen n % elemSize n != 0 || (nOp n == 4 && (nBags n == 0 || nBags n * nLen n > 65536))
/-- What R385 says of a node of a graph. -/
def graphNodeBad (npkg smask n : Nat) : Bool :=
  nodeMalformed n || bitN n 15 || !bitN smask (nStk n) || (bitN n 30 && !bitN smask (bitsN n 51 48)) || bitsN n 63 56 ≥ npkg
/-- What R385 says of a run entry and of its graph's header; `hdr` is its 64 bytes. -/
def headerBad (hdr : Nat) : Bool :=
  bitsN hdr 12 0 == 0 || bitsN hdr 12 0 > 4096 || bitsN hdr 31 16 == 0 || bitsN hdr 15 13 != 0 || hdr / 2 ^ 32 != 0
def runEntryBad (img : Nat) : Bool :=
  bitsN img 31 10 != 0 || bitsN img 63 32 != 0 || bitsN img 415 256 != 0 || bitsN img 511 424 != 0 ||
  bitsN img 191 128 % 64 != 0 || bitsN img 255 192 % 8 != 0

/-! ### Communicators (R394) -/

/-- A communicator's descriptor as its queue area holds it; communicator 0 is always valid. -/
def commDesc (s : State) (asid comm : Nat) : Nat :=
  if comm == 0 then 1 else
  match ctx? s asid with
  | some c => (deviceRead s asid ((c.qarea + 0x10000 + 16 * comm) % 2 ^ 64) 16).getD 0
  | none => 0
/-- The engine has read a communicator's descriptor (R305). -/
def useComm (s : State) (asid comm : Nat) : State :=
  if comm == 0 then s else (ctx? s asid).elim s fun c => deviceUse s asid ((c.qarea + 0x10000 + 16 * comm) % 2 ^ 64) false
def commValid (s : State) (asid comm : Nat) : Bool := bitN (commDesc s asid comm) 0
/-- The spill area of a communicator on a stack: its address and size. -/
def spillArea (s : State) (asid comm st : Nat) : Nat × Nat :=
  let d := commDesc s asid comm
  let n := 1024 * bitsN d 63 32
  (bitsN d 127 64 + st * n, if comm == 0 then 0 else n)

/-! ### The graph store and the start of a run (R386, R387) -/

/-- A run of that graph is in progress. -/
def graphBusy (s : State) (g : Stored) : Bool :=
  s.queues.any fun (_, q) => q.asid == g.asid && q.head.any fun h => h.run.any fun r => !r.single && r.image == g.image
/-- Graphs are evicted, least recently used first, until n more nodes fit. -/
def makeRoom (s : State) (l : List Stored) (n : Nat) : Nat → Option (List Stored)
  | 0 => none
  | fuel + 1 =>
    if (l.map (·.nodes.length)).foldl (· + ·) 0 + n ≤ 1024 then some l else
    match (l.filter (!graphBusy s ·)).foldl (fun m g => match m with | none => some g | some x => some (if g.used < x.used then g else x)) none with
    | some g => makeRoom s (l.erase g) n fuel
    | none => none
/-- One engine's share of a graph goes into its store. -/
def storeGraph (s : State) (st asid : Nat) (image : DWord) (hdr : Nat) (nodes : FMap Nat) (stamp : Nat) : Option State :=
  let b := base s st
  let l := b.store.filter fun g => !(g.asid == asid && g.image == image)
  (makeRoom s l nodes.length (l.length + 1)).map fun l => putBase s st { b with store := l ++ [{ asid := asid, image := image, hdr := hdr, nodes := nodes, used := stamp }] }
/-- The graph that an engine holds loaded. -/
def heldGraph (s : State) (st asid : Nat) (image : DWord) : Option Stored := (base s st).store.find? fun g => g.asid == asid && g.image == image

/-- Groups of 64 bytes, as numbers. -/
def blocks64 : Nat → List Byte → List Nat
  | 0, _ => []
  | n + 1, d => ofBytes (d.take 64) :: blocks64 n (d.drop 64)
def numbered (l : List Nat) : FMap Nat := (upFrom 0 l.length).zip l

/-- The head entry of a STACK queue. -/
def stackHead (s : State) (qk : Nat) : Option (Queue × Head) :=
  match queue? s qk with
  | some q => if q.kind == 2 then (match q.head with | some h => if h.finished || (entMeta q h.num).marker.isSome then none else some (q, h) | none => none) else none
  | none => none

/-- The engines' own nodes: from their stores, or out of the image just read. A node number that shares loaded at different times both hold
is the higher stack's: DESIGN CHOICE, log 85. -/
def gather (s : State) (stks : List Nat) (asid : Nat) (image : DWord) (reload : Bool) (read : FMap Nat) : FMap Nat :=
  stks.foldl (fun m st =>
    match if reload then none else heldGraph s st asid image with
    | some g => g.nodes.foldl (fun m (n, x) => fput m n x) m
    | none => (read.filter fun (_, x) => nStk x == st).foldl (fun m (n, x) => fput m n x) m) []
/-- Every engine that does not hold its share loads it; none while one waits for room. -/
def loadAll (s : State) (stks : List Nat) (asid : Nat) (image : DWord) (reload : Bool) (hdr : Nat) (read : FMap Nat) : Option State :=
  let (stamp, s) := freshId s
  stks.foldl (fun o st => o.bind fun s =>
    match if reload then none else heldGraph s st asid image with
    | some g => some (putBase s st { base s st with store := (base s st).store.map fun x => if x.asid == asid && x.image == image then { g with used := stamp } else x })
    | none => storeGraph s st asid image hdr (read.filter fun (_, x) => nStk x == st) stamp) (some s)

/-- A run entry or node entry starts: checked, loaded, its counters 0. -/
def startRun (qk : Nat) (s : State) : State :=
  match stackHead s qk with
  | none => s
  | some (q, h) =>
    if h.run.isSome || ctxState s q.asid != .running || q.state != .active then s else
    let img := h.img
    if bitsN img 7 0 != 0x10 then
      if 1 ≤ nOp img && nOp img ≤ 5 && !bitN img 22 && !bitN img 30 && !nodeMalformed img then
        modHead s qk fun h => { h with run := some { nodes := [(0, img)], clk := h.who.clk, single := true } }
      else finishHead s qk 0x50
    else if runEntryBad img then finishHead s qk 0x50
    else
      let image := bitsN img 191 128
      let read (s : State) (va n : Nat) (g : State → List Byte → State) : State :=
        match readRange s h.who va n with
        | .done s d po r => let s := if r then headCode s qk 0x22 else s; if po then finishHead s qk 0x23 else g s d
        | .absent va => stopEntry s qk q h.num .pageFaultLoad va 0 0 (.entry qk h.num)
        | .prot => finishHead s qk 0x21
        | .poisoned => finishHead s qk 0x23
        | _ => s
      read s image 64 fun s hdr =>
        let im : DWord := BitVec.ofNat 64 image; let reload := bitN img 9
        -- what an engine holds of the graph is used as it was read, its header too (R386)
        let held := if reload then none else firstSome (fun st => heldGraph s st q.asid im) (upFrom 0 16)
        let hdr := (held.map (·.hdr)).getD (ofBytes hdr)
        if headerBad hdr then finishHead s qk 0x50
        else
          let stks := (upFrom 0 16).filter (bitN (bitsN hdr 31 16))
          let need := stks.filter fun st => reload || (heldGraph s st q.asid im).isNone
          let go (s : State) (nodes : FMap Nat) : State :=
            let new := if held.isNone then nodes else nodes.filter fun (_, n) => need.contains (nStk n)
            if new.any fun (_, n) => graphNodeBad ((ctx? s q.asid).elim 0 (·.npkg)) (bitsN hdr 31 16) n then finishHead s qk 0x50
            else if need.any fun st => (new.filter fun (_, n) => nStk n == st).length > 1024 then finishHead s qk 0x50
            else if new.any fun (_, n) => !commValid s q.asid (bitsN n 87 80) then finishHead s qk 0x51
            else
              let s := new.foldl (fun s (_, n) => useComm s q.asid (bitsN n 87 80)) s
              match loadAll s stks q.asid im reload hdr new with
              | none => s
              | some s' =>
                let mine := gather s stks q.asid im reload new
                read s' (bitsN img 255 192) 128 fun s t =>
                  let bases := (upFrom 0 16).map fun i => (i, BitVec.ofNat 64 (bitsN (ofBytes t) (64 * i + 63) (64 * i)))
                  modHead s qk fun h => { h with run := some { image := im, nodes := mine, clk := h.who.clk, bases := bases } }
          if need.isEmpty then go s []
          else read s ((image + 64) % 2 ^ 64) (64 * bitsN hdr 12 0) fun s d => go s (numbered (blocks64 (bitsN hdr 12 0) d))

/-! ### Runs in progress -/

structure Running where
  q : Queue
  h : Head
  g : GRun
  deriving DecidableEq, Repr
def running? (s : State) (qk : Nat) : Option Running := (stackHead s qk).bind fun (q, h) => h.run.map fun g => { q := q, h := h, g := g }
def modRun (s : State) (qk : Nat) (f : GRun → GRun) : State := modHead s qk fun h => { h with run := h.run.map f }

/-- A node has not ended and is not stopped. -/
def GRun.open_ (g : GRun) (n : Nat) : Bool := (fget? g.ran n).isNone && !g.done.contains n && !g.stopped.contains n
/-- Its counter has reached its threshold (R387). -/
def GRun.met (g : GRun) (img : Nat) : Bool := g.single || !bitN img 22 || bitsN img 47 32 ≤ fgetD g.counts (nIn img) 0
/-- What a node's start acquires: the run's start and the increments counted toward its threshold (R388). -/
def GRun.startClk (g : GRun) (img : Nat) : Clock :=
  if g.single || !bitN img 22 then g.clk
  else (upFrom 0 (bitsN img 47 32)).foldl (fun c i => match fget? g.cclk (8192 * nIn img + i) with | some x => cmax c x | none => c) g.clk
/-- An operand's address: S, D, X, Y by 0 to 3; a node entry takes every base as 0. -/
def GRun.addr (g : GRun) (img z : Nat) : Nat :=
  let slot := match z with | 0 => bitsN img 91 88 | 1 => bitsN img 95 92 | 2 => bitsN img 119 116 | _ => bitsN img 123 120
  ((if g.single then 0 else (fgetD g.bases slot 0).toNat) + bitsN img (64 * z + 191) (64 * z + 128)) % 2 ^ 64
def GRun.comm (g : GRun) (img : Nat) : Nat := if g.single then 0 else bitsN img 87 80
/-- A new party for a node on its engine (R388). -/
def nodeWho (s : State) (r : Running) (img : Nat) (more : Clock) : State × Who :=
  let (uid, s) := freshUid s
  (s, { uid := uid, region := 0, clk := cmax (r.g.startClk img) more, place := { die := none, stack := nStk img }, key := 0, asid := r.q.asid,
        tasid := r.q.asid, engine := true, pc := 0, relaxed := !bitN img 14 })

/-! ### Chunks (R390) -/

/-- What a chunk's accesses met. -/
inductive Chunk where
  /-- it ran, with its code, its flags, and the homes of its relaxed traffic -/
  | done (s : State) (code : Nat) (fl : BitVec 5) (homes : List Nat)
  | wait
  | stop (va : Nat) (write : Bool)
  | fail (code : Nat)
  deriving DecidableEq, Repr

/-- A PGINV or a PGMIG keeps new holds off a page (R318). -/
def holdWaits (s : State) (asid va : Nat) : Bool :=
  match classify s asid va with
  | none => false
  | some ad =>
    closed s ad.home asid ad.set ad.off 1 || (base s ad.home).migs.any fun m => ad.set == 0 && !m.switched && m.asid == asid && m.base ≤ ad.off && ad.off < m.base + m.size
def anyHoldWaits (s : State) (asid va n : Nat) : Bool := (piecesOf va n).any fun p => holdWaits s asid p.1

/-- The offsets of a range's poisoned bytes: all of a POISONED page (R310). -/
def badBytes (s : State) (asid va n : Nat) : List Nat :=
  (piecesOf va n).flatMap fun (v, k) =>
    match deviceLoc s asid v with
    | .at_ pa _ _ _ => ((upFrom 0 k).filter fun i => s.poison.contains (wordOf (pa + i))).map ((v + 2 ^ 64 - va) % 2 ^ 64 + ·)
    | .poisoned _ => (upFrom 0 k).map ((v + 2 ^ 64 - va) % 2 ^ 64 + ·)
    | _ => []
/-- The homes that a chunk's traffic goes to relaxed, in a range. -/
def relaxedHomes (s : State) (w : Who) (va n : Nat) : List Nat := if w.relaxed then homesOf s w.tasid [(va, n)] else []
def Chunk.also (c : Chunk) (l : List Nat) : Chunk := match c with | .done s code fl homes => .done s code fl (l.foldl lput homes) | c => c

/-- A chunk reads a range: its bytes, and the offsets of poisoned ones. -/
def chunkRead (s : State) (w : Who) (va n : Nat) (g : State → List Byte → List Nat → Bool → Chunk) : Chunk :=
  if anyHoldWaits s w.tasid va n then .wait else
  match readRange s w va n with
  | .done s d po r => (g s d (if po then badBytes s w.tasid va n else []) r).also (relaxedHomes s w va n)
  | .absent va => .stop va false
  | .prot => .fail 0x21
  | .poisoned => .fail 0x23
  | _ => .wait
/-- A chunk writes a range. -/
def chunkWrite (s : State) (w : Who) (va : Nat) (d : List Byte) (g : State → Bool → Chunk) : Chunk :=
  if anyHoldWaits s w.tasid va d.length then .wait else
  match writeRange s w va d with
  | .done s _ _ r => (g s r).also (relaxedHomes s w va d.length)
  | .absent va => .stop va true
  | .prot => .fail 0x21
  | .poisoned => .fail 0x23
  | _ => .wait
/-- The code of a chunk that ran: a race between engines comes first in the order of its accesses, then poison. -/
def chunkCode (race : Bool) (bad : List Nat) : Nat := if race then 0x22 else if !bad.isEmpty then 0x23 else 0

/-! ### The operations -/

/-- Elements of w bytes. -/
def elems (w : Nat) : Nat → List Byte → List Nat
  | 0, _ => []
  | n + 1, d => ofBytes (d.take w) :: elems w n (d.drop w)
def unelems (w : Nat) (l : List Nat) : List Byte := l.flatMap fun x => bytesOf x w

/-- DT as a TYPE of R51: F32, BF16, I32. -/
def dtTy (dt : Nat) : Nat := match dt with | 1 => 6 | 2 => 0 | _ => 4
/-- An element of D and one of S, added or compared (R384). -/
def combine (op dt d x : Nat) : Nat × BitVec 5 :=
  match op, dt with
  | 2, 2 => ((d + x) % 2 ^ 32, 0)
  | 2, _ => let f := tyFmt (dtTy dt); finish f [f.decode d, f.decode x] false (addExact (f.decode d) (f.decode x) 0) 0
  | _, 2 => (if toS 32 d < toS 32 x then x else d, 0)
  | _, _ => minmaxF (tyFmt (dtTy dt)) true d x
def combineAll (op dt : Nat) (ds xs : List Nat) : List Nat × BitVec 5 :=
  (ds.zip xs).foldr (fun (d, x) (l, fl) => let (r, f) := combine op dt d x; (r :: l, fl ||| f)) ([], 0)

/-- Bytes of the C4 layout of n blocks (R392): exponents, and where the stream begins. -/
def c4Stream (n : Nat) : Nat := 16 * ceilDiv n 16
def c4Bytes (n : Nat) : Nat := c4Stream n + 16 * n
/-- An element of a C4 block: its byte and its 4-bit code. -/
def c4Value (b q : Nat) : Num :=
  if b == 0 then .fin false 0 0
  else if b == 255 then .nan false
  else let v := toS 4 q; .fin (v < 0) v.natAbs ((b : Int) - 129)
/-- The elements of a C4 layout, in F32 terms. -/
def c4Decode (n : Nat) (d : List Byte) : List Num :=
  let exps := d.take n; let qs := ofBytes (d.drop (c4Stream n))
  (exps.zip (upFrom 0 n)).flatMap fun (b, j) => (upFrom (32 * j) 32).map fun i => c4Value b.toNat (bitsN qs (4 * i + 3) (4 * i))
/-- One block of CMP4 (R391): the exponent byte, the codes, the residuals, and the flags. -/
def cmp4Block (vs rs : List Nat) : Nat × List Nat × List Nat × BitVec 5 :=
  let add (v r : Nat) : Nat × BitVec 5 := finish f32 [f32.decode v, f32.decode r] false (addExact (f32.decode v) (f32.decode r) 0) 0
  let sums := (vs.zip rs).map fun (v, r) => add v r
  let fl := sums.foldl (fun f x => f ||| x.2) 0
  let v' := sums.map (·.1); let ns := v'.map f32.decode
  if ns.any fun x => x.isNan || x.isInf then (0xFF, v'.map fun _ => 0, v'.map fun _ => 0, fl ||| fNV)
  else
    let mags := ns.filterMap fun x => match x with | .fin _ m e => if m == 0 then none else some ({ m := m, e := e } : Mag).log2 | _ => none
    match mags with
    | [] => (0, v'.map fun _ => 0, v', fl)
    | x :: t =>
      let e := t.foldl max (max x (-126))
      let q (x : Num) : Int := match x with
        | .fin n m ex => let k : Int := min 7 (roundMag n { m := m, e := ex } (e - 2) 0).1; if n then -k else k
        | _ => 0
      let res := ns.map fun x =>
        let k := q x
        -- minus q × 2^(e−2), with the sign that 0 − has
        let y : Num := .fin (decide (0 ≤ k)) k.natAbs (e - 2)
        finish f32 [x] false (addExact x y 0) 0
      ((e + 127).toNat, ns.map (fun x => ofS 4 (q x)), res.map (·.1), res.foldl (fun f x => f ||| x.2) fl)
/-- The blocks of a CMP4 node: exponent bytes, codes, residuals, flags. -/
def cmp4All : Nat → List Nat → List Nat → List Nat × List Nat × List Nat × BitVec 5
  | 0, _, _ => ([], [], [], 0)
  | n + 1, vs, rs =>
    let (b, q, r, f) := cmp4Block (vs.take 32) (rs.take 32)
    let (bs, qs, rr, fl) := cmp4All n (vs.drop 32) (rs.drop 32)
    (b :: bs, q ++ qs, r ++ rr, f ||| fl)
/-- 4-bit codes as bytes (R62). -/
def nibbles : List Nat → List Byte
  | a :: b :: t => BitVec.ofNat 8 (a % 16 + b % 16 * 16) :: nibbles t
  | [a] => [BitVec.ofNat 8 (a % 16)]
  | [] => []

def chunkCopy (s : State) (w : Who) (g : GRun) (img : Nat) : Chunk :=
  chunkRead s w (g.addr img 0) (nLen img) fun s d bad r => chunkWrite s w (g.addr img 1) d fun s r' =>
    .done (poisonLines s w.tasid (g.addr img 1) bad) (chunkCode (r || r') bad) 0 []

/-- RADD and RMAX. -/
def chunkReduce (s : State) (w : Who) (g : GRun) (img : Nat) : Chunk :=
  let n := nLen img; let c4 := nOp img == 2 && nDt img == 3
  let sz := if nDt img == 1 then 2 else 4
  chunkRead s w (g.addr img 0) (if c4 then c4Bytes (n / 128) else n) fun s x bx r =>
  chunkRead s w (g.addr img 1) n fun s d bd r' =>
    let ds := elems sz (n / sz) d
    let (out, fl) :=
      if c4 then
        (ds.zip (c4Decode (n / 128) x)).foldr (fun (a, y) (l, fl) =>
          let (v, f) := finish f32 [f32.decode a, y] false (addExact (f32.decode a) y 0) 0; (v :: l, fl ||| f)) ([], 0)
      else combineAll (nOp img) (nDt img) ds (elems sz (n / sz) x)
    let bx := if c4 then bx.flatMap fun o =>
        let k := n / 128
        if o < k then upFrom (128 * o) 128 else if o < c4Stream k then [] else upFrom ((o - c4Stream k) / 16 * 128) 128
      else bx
    chunkWrite s w (g.addr img 1) (unelems sz out) fun s r'' =>
      .done (poisonLines s w.tasid (g.addr img 1) (bx ++ bd)) (chunkCode (r || r' || r'') (bx ++ bd)) fl []

def chunkCmp4 (s : State) (w : Who) (g : GRun) (img : Nat) : Chunk :=
  let n := nLen img; let k := n / 128; let d := g.addr img 1
  chunkRead s w (g.addr img 0) n fun s v bv r =>
  chunkRead s w (g.addr img 2) n fun s x bx r' =>
    let (bs, qs, res, fl) := cmp4All k (elems 4 (n / 4) v) (elems 4 (n / 4) x)
    let bad := (bv ++ bx).foldl (fun l o => lput l (o / 128)) []
    chunkWrite s w (g.addr img 2) (unelems 4 res) fun s r2 =>
    chunkWrite s w d (bs.map (BitVec.ofNat 8)) fun s r3 =>
    chunkWrite s w ((d + c4Stream k) % 2 ^ 64) (nibbles qs) fun s r4 =>
      let s := poisonLines s w.tasid (g.addr img 2) (bad.flatMap fun j => upFrom (128 * j) 128)
      .done (poisonLines s w.tasid d (bad ++ bad.flatMap fun j => upFrom (c4Stream k + 16 * j) 16)) (chunkCode (r || r' || r2 || r3 || r4) bad) fl []

/-- A bag as its offsets give it: its first index number and how many, whether they fall, and whether a poisoned word gave them. -/
structure Bag where
  lo   : Nat
  n    : Nat
  neg  : Bool
  lost : Bool
  deriving DecidableEq, Repr
def bagsOf (n : Nat) (offs badOffs : List Nat) : List Bag := (upFrom 0 n).map fun i =>
  let lo := offs.getD i 0; let hi := offs.getD (i + 1) 0
  let lost := badOffs.any fun o => o / 4 == i || o / 4 == i + 1
  { lo := lo, n := if lost then 0 else hi - lo, neg := hi < lo, lost := lost }
/-- The indices of the bags, with those read from poisoned words, before any row is read (R390). -/
def bagLists (w : Who) (g : GRun) (img : Nat) (fin : State → List (Bag × List (Nat × Bool)) → Bool → Chunk) :
    State → List (Bag × List (Nat × Bool)) → Bool → List Bag → Chunk
  | s, out, race, [] => fin s out race
  | s, out, race, b :: t =>
    chunkRead s w ((g.addr img 2 + 4 * b.lo) % 2 ^ 64) (4 * b.n) fun s d bad r =>
      bagLists w g img fin s (out ++ [(b, (elems 4 b.n d).zip ((upFrom 0 b.n).map fun i => bad.any (· / 4 == i)))]) (race || r) t
/-- The rows of one bag added up. -/
def bagRows (w : Who) (g : GRun) (img : Nat) (fin : State → List Nat → BitVec 5 → Bool → Bool → Chunk) :
    State → List Nat → BitVec 5 → Bool → Bool → List (Nat × Bool) → Chunk
  | s, acc, fl, bad, race, [] => fin s acc fl bad race
  | s, acc, fl, bad, race, (ix, b) :: t =>
    chunkRead s w ((g.addr img 0 + ix * bitsN img 415 384) % 2 ^ 64) (nLen img) fun s row b' r =>
      let dt := nDt img; let sz := if dt == 1 then 2 else 4
      let xs := (elems sz (nLen img / sz) row).map fun x => if dt == 1 then x * 65536 else x
      let (acc', f) := combineAll 2 (if dt == 2 then 2 else 0) acc xs
      bagRows w g img fin s acc' (fl ||| f) (bad || b || !b'.isEmpty) (race || r) t
/-- The bags of a GSUM: their rows of bytes, and which are poisoned. -/
def bags (w : Who) (g : GRun) (img : Nat) (fin : State → List (List Byte × Bool) → Nat → BitVec 5 → Bool → Chunk) :
    State → List (List Byte × Bool) → Nat → BitVec 5 → Bool → List (Bag × List (Nat × Bool)) → Chunk
  | s, out, code, fl, race, [] => fin s out code fl race
  | s, out, code, fl, race, (b, ixs) :: t =>
    let sz := if nDt img == 1 then 2 else 4
    bagRows w g img (fun s acc f bad r =>
      let rounded := if nDt img == 1 then acc.map fun x => bf16.ofNum (f32.decode x) 0 else acc.map fun x => (x, 0)
      bags w g img fin s (out ++ [(unelems sz (rounded.map (·.1)), bad)]) (if code == 0 && b.neg then 0x52 else code)
        (rounded.foldl (fun f x => f ||| x.2) (fl ||| f)) (race || r) t) s (List.replicate (nLen img / sz) 0) 0 b.lost false ixs
/-- The rows are written one after the other; the lines of the poisoned ones are poisoned at the end. -/
def writeBags (w : Who) (stride : Nat) (code : Nat) (fl : BitVec 5) : State → Nat → Bool → List (Nat × Nat) → List (List Byte × Bool) → Chunk
  | s, _, race, bad, [] =>
    .done (bad.foldl (fun s (va, n) => poisonLines s w.tasid va (upFrom 0 n)) s) (if code != 0 then code else chunkCode race (bad.map (·.1))) fl []
  | s, va, race, bad, (row, b) :: t =>
    chunkWrite s w va row fun s r => writeBags w stride code fl s ((va + stride) % 2 ^ 64) (race || r) (if b then bad ++ [(va, row.length)] else bad) t
def chunkGsum (s : State) (w : Who) (g : GRun) (img : Nat) : Chunk :=
  chunkRead s w (g.addr img 3) (4 * (nBags img + 1)) fun s o bad r =>
    bagLists w g img (fun s l race =>
      bags w g img (fun s rows code fl race => writeBags w (bitsN img 447 416) code fl s (g.addr img 1) race [] rows) s [] 0 0 race l)
      s [] r (bagsOf (nBags img) (elems 4 (nBags img + 1) o) bad)

/-! ### Landing (R395, R396) -/

structure MatchKey where
  asid : Nat
  comm : Nat
  tag  : Nat
  chunk : Nat
  deriving DecidableEq, Repr
def keyOf (r : Running) (img : Nat) : MatchKey := { asid := r.q.asid, comm := r.g.comm img, tag := bitsN img 79 64, chunk := bitsN img 495 480 }
def Post.key (p : Post) : MatchKey := { asid := p.asid, comm := p.comm, tag := p.tag, chunk := p.chunk }
def Spilled.key (p : Spilled) : MatchKey := { asid := p.asid, comm := p.comm, tag := p.tag, chunk := p.chunk }
def Beat.key (p : Beat) : MatchKey := { asid := p.asid, comm := p.comm, tag := p.tag, chunk := p.chunk }
def postsOf (s : State) (st : Nat) (k : MatchKey) : List Post := (base s st).posts.filter (·.key == k)
def spillsOf (s : State) (st : Nat) (k : MatchKey) : List Spilled := (base s st).spills.filter (·.key == k)

/-- A SEND that holds a grant and has not been sent: its queue and node, and the spill room that is reserved for it. -/
structure Granted where
  q    : Nat
  node : Nat
  key  : MatchKey
  room : Option Nat
  len  : Nat
  deriving DecidableEq, Repr
/-- The granted SENDs to a stack of this package, in all runs in progress. -/
def grantedTo (s : State) (st : Nat) : List Granted :=
  s.queues.flatMap fun (qk, _) =>
    match running? s qk with
    | none => []
    | some r => r.g.granted.filterMap fun n => (fget? r.g.nodes n).bind fun img =>
        if bitsN img 55 52 == st && bitsN img 63 56 == s.package then
          some { q := qk, node := n, key := keyOf r img, room := fget? r.g.spillGrant n, len := nLen img }
        else none
/-- The chunks on their way to a stack of this package. -/
def inbound (s : State) (st : Nat) : List Beat := s.beats.filter fun b => b.pkg == s.package && b.stack == st
/-- What was promised a posted RECV of a key and has not landed: SENDs, and chunks on their way. -/
def owedSends (s : State) (st : Nat) (k : MatchKey) : List Granted := (grantedTo s st).filter fun x => x.key == k && x.room.isNone
def owedBeats (s : State) (st : Nat) (k : MatchKey) : List Beat := (inbound s st).filter fun b => b.key == k && b.room.isNone
def owed (s : State) (st : Nat) (k : MatchKey) : Nat := (owedSends s st k).length + (owedBeats s st k).length
def spillNeed (len : Nat) : Nat := 64 + 64 * ceilDiv len 64
/-- The spilled arrivals of a communicator on a stack, oldest first. -/
def spillList (s : State) (asid comm st : Nat) : List Spilled := (base s st).spills.filter fun x => x.asid == asid && x.comm == comm
/-- The bytes of a communicator's spill area on a stack that are in use or reserved. -/
def spillUsed (s : State) (asid comm st : Nat) : Nat :=
  (((spillList s asid comm st).map fun x => spillNeed x.len) ++
   (((inbound s st).filter fun b => b.asid == asid && b.comm == comm).filterMap (·.room)) ++
   ((grantedTo s st).filterMap fun x => if x.key.asid == asid && x.key.comm == comm then x.room else none)).foldl (· + ·) 0
/-- The room that a chunk of len bytes reserves, if that much is free. -/
def spillRoom (s : State) (asid comm st len : Nat) : Option Nat :=
  let need := spillNeed len
  if spillUsed s asid comm st + need ≤ (spillArea s asid comm st).2 then some need else none
/-- What a chunk of a key and a length is granted (R395): `some none` for a posted RECV, or the room that is reserved for it. -/
def landingGrant (s : State) (st : Nat) (k : MatchKey) (len : Nat) : Option (Option Nat) :=
  if (spillsOf s st k).length + owed s st k < (postsOf s st k).length then some none else (spillRoom s k.asid k.comm st len).map some

/-- A SEND whose inputs are met and that holds no grant: its run and its node. -/
def grantDue (s : State) (qk n : Nat) : Option (Running × Nat) :=
  match running? s qk with
  | none => none
  | some r =>
    match fget? r.g.nodes n with
    | none => none
    | some img =>
      if nOp img == 6 && r.g.open_ n && r.g.met img && !r.g.granted.contains n && ctxState s r.q.asid == .running then some (r, img) else none
/-- A SEND takes a grant, and the room that is reserved with it. -/
def takeGrant (s : State) (qk n : Nat) (room : Option Nat) : State := modRun s qk fun g =>
  { g with granted := lput g.granted n, spillGrant := match room with | some x => fput g.spillGrant n x | none => fdel g.spillGrant n }
/-- LANDING_GRANT (R395) inside the package: for a posted RECV, or with spill room reserved; none while there is neither. -/
def grant (s : State) (qk n : Nat) : Option State :=
  (grantDue s qk n).bind fun (r, img) =>
    if bitsN img 63 56 != s.package then none else
    let k := keyOf r img
    (landingGrant s (bitsN img 55 52) k (nLen img)).map fun room => takeGrant (useComm s k.asid k.comm) qk n room
/-- The grant of an engine of another package, which only that engine can give. -/
def outsideGrant (s : State) (qk n : Nat) : Option State :=
  (grantDue s qk n).bind fun (_, img) => if bitsN img 63 56 == s.package then none else some (takeGrant s qk n none)

/-- A node has ended with a code: its release waits for its completion, and its holds and posting are gone. -/
def endNode (s : State) (qk n : Nat) (w : Who) (code : Nat) (fl : BitVec 5) (homes : List Nat) : State :=
  let s := { s with bases := s.bases.map fun (b, x) => (b, { x with
    holds := x.holds.filter fun h => !(h.q == qk && h.node == n), posts := x.posts.filter fun p => !(p.q == qk && p.node == n) }) }
  let s := modRun s qk fun g => { g with
    ran := fput g.ran n { clk := w.ended, uid := w.uid, homes := homes }, granted := ldel g.granted n, spillGrant := fdel g.spillGrant n }
  let s := if code == 0 then s else headCode s qk code
  match queue? s qk with
  | some q => if fl == 0 then s else (match q.head with | some h => raiseFlags s qk (entMeta q h.num).issuer h.num fl | none => s)
  | none => s

/-- A posted RECV's write goes through its holds (R318); a restored one translates anew. -/
def heldAt (s : State) (qk n asid va : Nat) : Option (Nat × Nat × Nat) :=
  match classify s asid va with
  | none => none
  | some ad =>
    ((base s ad.home).holds.find? fun h => h.q == qk && h.node == n && h.asid == asid && h.set == ad.set && h.base ≤ ad.off && ad.off < h.base + h.size).map
      fun h => (leafPa h.leaf + (ad.off - h.base), ad.home, h.leaf)
/-- Data lands in a posted RECV's destination; none when it must wait. -/
def landWrite (s : State) (w : Who) (qk n : Nat) : List (Nat × Nat) → List Byte → Bool → Option (State × Bool)
  | [], _, race => some (s, race)
  | (va, k) :: t, d, race =>
    let at_ := match heldAt s qk n w.tasid va with
      | some x => some (x, s)
      | none => (match locate s w.place w.tasid va .store k with | .at_ pa home leaf s => some ((pa, home, leaf), s) | _ => none)
    match at_ with
    | none => none
    | some ((pa, home, leaf), s) =>
      if !crossNow s w (plainStore va k 0 0) home then none else
      match performPhys (invalidateFor s pa none) w (plainStore va k (ofBytes (d.take k)) 0) 0 pa home leaf with
      | .done s _ _ r => landWrite s w qk n t (d.drop k) (race || r)
      | _ => none
/-- A match of LEN bytes lands in a RECV (R389, R395). -/
def landIn (s : State) (qk n : Nat) (data : List Byte) (bad : List Nat) (clk : Clock) : Option State :=
  (running? s qk).bind fun r => (fget? r.g.nodes n).bind fun img =>
    let (s, w) := nodeWho s r img clk
    let va := r.g.addr img 1; let d := data.take (nLen img)
    (landWrite s w qk n (piecesOf va d.length) d false).map fun (s, race) =>
      let bad := bad.filter (· < nLen img)
      let code := if data.length != nLen img then 0x53 else chunkCode race bad
      endNode (poisonLines s w.tasid va bad) qk n w code 0 (relaxedHomes s w va d.length)

/-- The header of a spilled arrival with its NEXT (R396). -/
def spillHeader (p : Spilled) (next : Nat) : Nat := p.tag + p.comm * 2 ^ 16 + p.chunk * 2 ^ 32 + p.len * 2 ^ 64 + next * 2 ^ 128
/-- The engine writes and reads a spill area. -/
def spillWrite (s : State) (asid va : Nat) (d : List Byte) : State :=
  ((piecesOf va d.length).foldl (fun (s, d) (p : Nat × Nat) => (deviceWrite s asid p.1 p.2 (ofBytes (d.take p.2)), d.drop p.2)) (s, d)).1
def spillRead (s : State) (p : Spilled) : Option (State × List Byte) :=
  (piecesOf ((p.addr.toNat + 64) % 2 ^ 64) p.len).foldl (fun o (va, k) => o.bind fun (s, d) => (deviceFetch s p.asid va k).map fun (x, s) => (s, d ++ bytesOf x k)) (some (s, []))
/-- The entries of a spill list are written anew from an address on, one after the other. -/
def spillAll (s : State) (at_ : Nat) : List (Spilled × List Byte) → State × List Spilled
  | [] => (s, [])
  | (p, d) :: t =>
    let next := at_ + spillNeed p.len
    let s := spillWrite (spillWrite s p.asid (at_ % 2 ^ 64) (bytesOf (spillHeader p (if t.isEmpty then 0 else next % 2 ^ 64)) 64)) p.asid ((at_ + 64) % 2 ^ 64) d
    let (s, l) := spillAll s next t
    (s, { p with addr := BitVec.ofNat 64 at_ } :: l)
/-- Where a spilled arrival goes: into the first hole that holds it, or behind the others once they have moved together at the start of the
area; none while they cannot be read. The place is DESIGN CHOICE, log 84. -/
def spillPlace (s : State) (asid comm st need : Nat) : Option (State × Nat) :=
  let (lo, size) := spillArea s asid comm st; let l := spillList s asid comm st
  let used := l.map fun x => (x.addr.toNat, spillNeed x.len)
  match (lo :: used.map fun (a, n) => a + n).find? fun a => lo ≤ a && a + need ≤ lo + size && !used.any fun (b, n) => rangesMeet a need b n with
  | some a => some (s, a)
  | none =>
    (l.foldl (fun o p => o.bind fun (s, ds) => (spillRead s p).map fun (s, d) => (s, ds ++ [(p, d)])) (some (s, []))).map fun (s, ds) =>
      let (s, l') := spillAll s lo ds; let b := base s st
      (putBase s st { b with spills := b.spills.filter (fun x => !(x.asid == asid && x.comm == comm)) ++ l' }, lo + (used.map (·.2)).foldl (· + ·) 0)
/-- A chunk joins its communicator's spill list: header, data, and the NEXT of the entry before it. -/
def spill (s : State) (b : Beat) : Option State :=
  (spillPlace s b.asid b.comm b.stack (spillNeed b.data.length)).map fun (s, a) =>
    let p : Spilled := { asid := b.asid, comm := b.comm, tag := b.tag, chunk := b.chunk, len := b.data.length, addr := BitVec.ofNat 64 a, bad := b.bad, clk := b.clk }
    let last := (spillList s b.asid b.comm b.stack).getLast?
    let s := spillWrite (spillWrite s b.asid (a % 2 ^ 64) (bytesOf (spillHeader p 0) 64)) b.asid ((a + 64) % 2 ^ 64) b.data
    let s := match last with | some l => deviceWrite s b.asid ((l.addr.toNat + 16) % 2 ^ 64) 8 a | none => s
    putBase s b.stack { base s b.stack with spills := (base s b.stack).spills ++ [p] }
/-- An entry leaves its spill list: the NEXT of the one before it names the one after it. -/
def unspill (s : State) (st : Nat) (p : Spilled) : State :=
  let l := spillList s p.asid p.comm st
  let next := match (l.dropWhile (· != p)).drop 1 with | x :: _ => x.addr.toNat | [] => 0
  let s := match (l.takeWhile (· != p)).getLast? with | some x => deviceWrite s p.asid ((x.addr.toNat + 16) % 2 ^ 64) 8 next | none => s
  putBase s st { base s st with spills := (base s st).spills.erase p }

/-- Spill room of n bytes goes over to a chunk of a key that was promised a posted RECV: to one that it is enough for; else a SEND that has
not been sent loses its grant; none where all that were promised one are on their way and need more: DESIGN CHOICE, log 84. -/
def passRoom (s : State) (st : Nat) (k : MatchKey) (n : Nat) : Option State :=
  match (owedSends s st k).find? fun x => spillNeed x.len ≤ n, (owedBeats s st k).find? fun b => spillNeed b.data.length ≤ n, owedSends s st k with
  | some x, _, _ => some (takeGrant s x.q x.node (some n))
  | none, some b, _ => some { s with beats := s.beats.map fun x => if x.id == b.id then { x with room := some n } else x }
  | none, none, x :: _ => some (modRun s x.q fun g => { g with granted := ldel g.granted x.node })
  | none, none, [] => none
/-- A chunk that has arrived lands in a posted RECV, or spills into its reserved room (R395); none when it must wait. One with reserved room
that takes a RECV promised to another passes its room on. -/
def land (s : State) (b : Beat) : Option State :=
  let taken := (spillsOf s b.stack b.key).length; let ps := postsOf s b.stack b.key
  let s' := { s with beats := s.beats.filter (·.id != b.id) }
  match (ps.drop taken).head?, b.room with
  | some p, none => landIn s' p.q p.node b.data b.bad b.clk
  | some p, some n =>
    (if ps.length - taken ≤ owed s b.stack b.key then passRoom s' b.stack b.key n else some s').bind fun s => landIn s p.q p.node b.data b.bad b.clk
  | none, some _ => spill s' b
  | none, none => if (spillRoom s' b.asid b.comm b.stack b.data.length).isSome then spill s' b else none

/-- The oldest spilled match of a RECV that is the first posted of its key. -/
def spilledFor (s : State) (st qk n : Nat) (k : MatchKey) : Option Spilled :=
  match (postsOf s st k).head? with
  | some p => if p.q == qk && p.node == n then (spillsOf s st k).head? else none
  | none => none
/-- It is copied into D and its room is free. -/
def fromSpill (s : State) (qk n st : Nat) (p : Spilled) : Option State :=
  (spillRead s p).bind fun (s, data) => landIn (unspill s st p) qk n data p.bad p.clk

/-- A RECV whose inputs are met is posted, with holds on its destination; none when it waits or is posted. -/
def postHolds (s : State) (w : Who) (qk n : Nat) : List (Nat × Nat) → Chunk
  | [] => .done s 0 0 []
  | (va, _) :: t =>
    if holdWaits s w.tasid va then .wait else
    match locate s w.place w.tasid va .store with
    | .wait => .wait
    | .absent _ => .stop va true
    | .prot => .fail 0x21
    | .poisoned _ => .fail 0x23
    | .at_ _ home leaf s =>
      match (classify s w.tasid va).bind fun ad => tlbFind (base s home) w.tasid ad with
      | none => .wait
      | some x =>
        let h : Hold := { q := qk, node := n, asid := w.tasid, set := x.set, base := x.base, size := x.size, leaf := leaf }
        postHolds (if (base s home).holds.contains h then s else putBase s home { base s home with holds := (base s home).holds ++ [h] }) w qk n t

/-! ### The engines' choice (R397) -/

structure Candidate where
  q : Nat
  n : Nat
  high : Bool
  prio : Nat
  deriving DecidableEq, Repr

/-- A node that its engine may run: its inputs are met; a SEND holds its grant; a RECV has a spilled match. -/
def chunkReady (s : State) (qk n : Nat) (r : Running) (img : Nat) : Bool :=
  r.g.open_ n && r.g.met img && ctxState s r.q.asid == .running && (r.q.state == .active || r.q.state == .faulted) &&
  (match nOp img with | 6 => r.g.granted.contains n | 7 => (spilledFor s (nStk img) qk n (keyOf r img)).isSome | _ => true)
def candidates (s : State) (st : Nat) : List Candidate :=
  s.queues.flatMap fun (qk, _) =>
    match running? s qk with
    | none => []
    | some r => (r.g.nodes.filter fun (n, img) => nStk img == st && chunkReady s qk n r img).map fun (n, img) =>
        { q := qk, n := n, high := bitN (commDesc s r.q.asid (r.g.comm img)) 1, prio := r.q.qid % 8 }
/-- Candidate a goes before candidate b. -/
def Candidate.before (turn : Nat) (lowFirst : Bool) (a b : Candidate) : Bool :=
  if a.high != b.high then a.high != lowFirst
  else if a.prio != b.prio then b.prio < a.prio
  else if a.q != b.q then
    let wrap (q : Nat) : Bool := q ≤ turn
    if wrap a.q != wrap b.q then !wrap a.q else a.q < b.q
  else a.n < b.n
def insertBy {α : Type} (lt : α → α → Bool) (x : α) : List α → List α
  | [] => [x]
  | y :: t => if lt x y then x :: y :: t else y :: insertBy lt x t
def sortBy {α : Type} (lt : α → α → Bool) (l : List α) : List α := l.foldl (fun m x => insertBy lt x m) []

/-- One chunk, performed whole; none when it must wait. -/
def runChunk (s : State) (qk n : Nat) : Option State :=
  (running? s qk).bind fun r => (fget? r.g.nodes n).bind fun img =>
    if nOp img == 7 then (spilledFor s (nStk img) qk n (keyOf r img)).bind fun p => fromSpill s qk n (nStk img) p else
    let (s1, w) := nodeWho s r img []
    let res := match nOp img with
      | 1 => chunkCopy s1 w r.g img
      | 2 => chunkReduce s1 w r.g img
      | 3 => chunkReduce s1 w r.g img
      | 4 => chunkGsum s1 w r.g img
      | 5 => chunkCmp4 s1 w r.g img
      | _ =>
        chunkRead s1 w (r.g.addr img 0) (nLen img) fun s d bad race =>
          let (id, s) := freshId s; let k := keyOf r img; let pkg := bitsN img 63 56; let dst := bitsN img 55 52
          let s := useComm s k.asid k.comm
          let todo := (beatPackets s (nStk img) pkg dst (bitsN (commDesc s k.asid k.comm) 3 2) id d).filter (!·.path.isEmpty)
          .done { s with beats := s.beats ++ [{ id := id, asid := k.asid, pkg := pkg, stack := dst, comm := k.comm, tag := k.tag, chunk := k.chunk, data := d,
                                                bad := bad, room := fget? r.g.spillGrant n, clk := w.clk, todo := todo }] } (chunkCode race bad) 0 []
    finishChunk s s1 qk n r w res
where
  /-- A stopped chunk leaves no trace but its record; a failed one completes with its code (R390). -/
  finishChunk (s s1 : State) (qk n : Nat) (r : Running) (w : Who) (res : Chunk) : Option State :=
    match res with
    | .done s code fl homes => some (endNode s qk n w code fl homes)
    | .wait => none
    | .stop va wr => some (modRun (stopEntry s qk r.q r.h.num .pageFaultLoad va (if wr then 1 else 0) n (.chunk qk n r.h.num)) qk fun g => { g with stopped := lput g.stopped n })
    | .fail code => some (endNode s1 qk n w code 0 [])
/-- The chunk that an engine runs next, with what it leaves. -/
def enginePick (s : State) (st : Nat) : Option (Candidate × State) :=
  let b := base s st; let cs := candidates s st
  firstSome (fun c => (runChunk s c.q c.n).map fun t => (c, t)) (sortBy (Candidate.before b.turn (b.highRun ≥ 16)) cs)
/-- Runs a node of an operation when its engine picks it. -/
def runNode (op qk n : Nat) (s : State) : State :=
  match (running? s qk).bind fun r => fget? r.g.nodes n with
  | none => s
  | some img =>
    if nOp img != op then s else
    match enginePick s (nStk img) with
    | none => s
    | some (c, t) =>
      if c.q != qk || c.n != n then s else
      let b := base t (nStk img)
      putBase t (nStk img) { b with turn := qk, highRun := if c.high then b.highRun + 1 else 0 }

/-- A RECV that is ready and not posted is posted; its failures end it as a chunk's do. -/
def postRecv (s : State) (qk n : Nat) : Option State :=
  (running? s qk).bind fun r => (fget? r.g.nodes n).bind fun img =>
    let st := nStk img
    if nOp img != 7 || !r.g.open_ n || !r.g.met img || ctxState s r.q.asid != .running || !(r.q.state == .active || r.q.state == .faulted) ||
        (base s st).posts.any fun p => p.q == qk && p.node == n then none else
    let (s1, w) := nodeWho s r img []
    match postHolds s w qk n (piecesOf (r.g.addr img 1) (nLen img)) with
    | .done s _ _ _ =>
      let k := keyOf r img
      some (putBase s st { base s st with posts := (base s st).posts ++ [{ q := qk, node := n, num := r.h.num, asid := k.asid, comm := k.comm, tag := k.tag, chunk := k.chunk }] })
    | res => runChunk.finishChunk s s1 qk n r w res

/-! ### Completion (R387 to R389) -/

/-- A node that has ended completes, once the marker fences of its relaxed traffic have (R375, R388). -/
def completeNode (qk n : Nat) (s : State) : State :=
  match running? s qk with
  | none => s
  | some r =>
    match fget? r.g.ran n, fget? r.g.nodes n with
    | some e, some img =>
      if !queuesRun s r.q.asid || marking s e.uid then s
      else if !e.homes.isEmpty then
        e.homes.foldl (fun s h => putMarker s e.uid 0 { die := none, stack := nStk img } h 3 5) (modRun s qk fun g => { g with ran := fput g.ran n { e with homes := [] } })
      else
        let out := !r.g.single && bitN img 30
        let c := fgetD r.g.counts (nOut img) 0
        modHead s qk fun h => { h with
          who := { h.who with clk := cmax h.who.clk e.clk }
          run := h.run.map fun g => { g with
            ran := fdel g.ran n, done := lput g.done n
            counts := if out then fput g.counts (nOut img) (c + 1) else g.counts
            cclk := if out then fput g.cclk (8192 * nOut img + c) e.clk else g.cclk } }
    | _, _ => s
def runDone (s : State) (qk : Nat) : Bool := (running? s qk).any fun r => r.g.done.length == r.g.nodes.length && queuesRun s r.q.asid

/-! ### Events -/

/-- RUN_ENTRY_START (R381, R385, R386). -/
def execRunEntryStart (qk : Nat) (s : State) : Out := event (startRun qk) s
/-- NODE_COPY (R384). -/
def execNodeCopy (qk n : Nat) (s : State) : Out := event (runNode 1 qk n) s
/-- NODE_RADD (R384, R392). -/
def execNodeRadd (qk n : Nat) (s : State) : Out := event (runNode 2 qk n) s
/-- NODE_RMAX (R384). -/
def execNodeRmax (qk n : Nat) (s : State) : Out := event (runNode 3 qk n) s
/-- NODE_GSUM (R393). -/
def execNodeGsum (qk n : Nat) (s : State) : Out := event (runNode 4 qk n) s
/-- NODE_CMP4 (R391). -/
def execNodeCmp4 (qk n : Nat) (s : State) : Out := event (runNode 5 qk n) s
/-- NODE_SEND (R395). -/
def execNodeSend (qk n : Nat) (s : State) : Out := event (runNode 6 qk n) s
/-- NODE_RECV (R395): posted when its inputs are met, or its oldest spilled match is copied. -/
def execNodeRecv (qk n : Nat) (s : State) : Out := event (fun s => match postRecv s qk n with | some s => s | none => runNode 7 qk n s) s
/-- LANDING_GRANT (R395): by the receiving engine, or from another package, which asks nothing of this one's state. -/
def execLandingGrant (qk n : Nat) (s : State) : Out := event (fun s => ((grant s qk n).or (outsideGrant s qk n)).getD s) s

/-- A chunk's beats go on over the links, and are injected in order; when the last has arrived, the chunk lands, or leaves the package. -/
def chunkStep (s : State) (b : Beat) : State :=
  let out := s.fabric.filter fun p => p.kind == FlitKind.chunk && p.mail.any (·.2 == b.id)
  let go (p : Packet) : Option State :=
    if p.path.length > 1 then forward s p else if mayLeave s p then some (takeOff s p b.id) else none
  match out.findSome? go with
  | some s => s
  | none =>
    match b.todo with
    | p :: t =>
      if sourceStopped s b.pkg true || !roomAt s p then s
      else { send s p with beats := s.beats.map fun x => if x.id == b.id then { x with todo := t } else x }
    | [] => if !out.isEmpty then s else if b.pkg != s.package then { s with beats := s.beats.filter (·.id != b.id) } else (land s b).getD s
/-- A chunk of another package's SEND, which has its landing grant, arrives (R395); one that this package cannot grant was never sent. -/
def chunkArrives (s : State) (x : Arrival) : State :=
  let (id, s) := freshId s
  let b : Beat := { id := id, asid := x.asid, pkg := s.package, stack := x.stack, comm := x.comm, tag := x.tag, chunk := x.chunk, data := x.data, clk := [] }
  if x.data.isEmpty || x.data.length > 65536 || x.stack ≥ 16 then s else
  match landingGrant s x.stack b.key x.data.length with
  | none => s
  | some room =>
    let s := { useComm s x.asid x.comm with beats := s.beats ++ [{ b with room := room }] }
    (land s { b with room := room }).getD s
/-- CHUNK (R371, R395, R396): a chunk's beats travel, and it lands or spills. -/
def execChunk (id : Nat) (s : State) (outside : Option Arrival := none) : Out := event (fun s =>
  match outside with
  | some x => chunkArrives s x
  | none => (match s.beats.find? (·.id == id) with | some b => chunkStep s b | none => s)) s
/-- NODE_COMPLETION (R387, R388). -/
def execNodeCompletion (qk n : Nat) (s : State) : Out := event (completeNode qk n) s
/-- RUN_COMPLETION (R387, R388): the entry completes, with its signal addition. -/
def execRunCompletion (qk : Nat) (s : State) : Out := event (fun s => if runDone s qk then completeEntry qk (finishHead s qk 0) else s) s

/-! ### The instructions' bodies -/

/-- CGRUN and GSUM from their signal check on (R400); `read` is what a GSUM has read, which it keeps while it waits. -/
def pushStack (c : Ctx') (sig : Bool) (img : Nat) (read : Option Nat := none) : Go :=
  let qk := qkey c.a.asid (0x10 + modBits c.mod 1 0)
  let c := if read.isSome then { c with s := modAgent c.s c.k fun a => { a with image := read } } else c
  let go : Go := if disabled c.s qk then queueError c else releasing c fun s a => pushOr { c with s := s } s qk img (metaOf c.k a a.relClk) read
  if !sig then go else
  match checkSignal c.s c.k c.a c.vd with
  | .bad code => .freeze c.s code { addr := BitVec.ofNat 64 c.vd }
  | _ => go

/-- CGRUN (R400). -/
def bodyCgrun (c : Ctx') : Go :=
  let sig := modBit c.mod 2
  if c.va % 64 != 0 then .freeze c.s .misaligned { addr := BitVec.ofNat 64 c.va }
  else if c.vb % 8 != 0 then .freeze c.s .misaligned { addr := BitVec.ofNat 64 c.vb }
  else pushStack c sig (0x10 + (if sig then 2 ^ 8 + c.vd * 2 ^ 64 else 0) + (if modBit c.mod 3 then 2 ^ 9 else 0) + c.va * 2 ^ 128 + c.vb * 2 ^ 192 +
    clusterOf c.k % 20 * 2 ^ 416 + dieOf c.k * 2 ^ 421)

/-- GSUM (R401). -/
def bodyGsum (c : Ctx') : Go :=
  let sig := modBit c.mod 2
  if c.ea % 64 != 0 then .freeze c.s .misaligned { addr := BitVec.ofNat 64 c.ea }
  else
    match readOnce c c.ea 64 with
    | .inl g => g
    | .inr (s, e) =>
      if nOp e != 4 || bitN e 22 || bitN e 30 || nodeMalformed e then queueError { c with s := s }
      else pushStack { c with s := s } sig (setBitsN (setBitsN e 15 15 (if sig then 1 else 0)) 95 32 (if sig then c.vd else 0)) (some e)

/-! ### The instructions -/
/-- CGRUN (R400): Releases and pushes a graph run entry into a STACK queue. -/
def execCgrun (f : FormL) (s : State) : Out := issueL .cgrun f bodyCgrun s
/-- GSUM (R401): Reads a GSUM node image, releases and pushes a node entry into a STACK queue. -/
def execGsum (f : FormL) (s : State) : Out := issueL .gsum f bodyGsum s

end Sys2Proof.Machine
end

