-- ==== Sys2Proof/Machine/Link.lean ====
section
/-!
DEFINITION. Sys2Proof/Machine/Link.lean: the life of links and lanes (R365 to R373), mast remap (R362 to R364) and routing tables (R377 to
R379). What the links join and what crosses them is in Machine/Fabric.lean.
-/
namespace Sys2Proof.Machine

def putLink (s : State) (n : Nat) (l : Link) : State := { s with links := fput s.links n l }
def LState.serves (l : LState) : Bool := l == .up || l == .degraded

/-! ### The error log (R416) -/

/-- The base die that logs an error of a unit, the unit's number (R367), and its address or lane. Of the two base dies that a mast link
joins it is the lower-numbered, and of a compute die's four the one on its port 0; a whole mast is logged
at ST0: the model's own, log 10. -/
def unitLog (u : EccUnit) : Nat × Nat × Nat :=
  match u with
  | .hbm pa => (stackOf pa.toNat % 16, stackOf pa.toNat % 16, pa.toNat)
  | .vreg k n => ((attach (dieOf k)).headD 0, 0x20 + clusterOf k, n)
  | .xreg k n => ((attach (dieOf k)).headD 0, 0x20 + clusterOf k, n)
  | .preg k n => ((attach (dieOf k)).headD 0, 0x20 + clusterOf k, n)
  | .creg cl n => ((attach (cl / Config.numClusters)).headD 0, 0x20 + cl, n)
  | .acc cl n => ((attach (cl / Config.numClusters)).headD 0, 0x20 + cl, n)
  | .sram core off => ((attach (core / 80)).headD 0, 0x20 + core / 4, off)
  | .mash d g => ((attach d).headD 0, 0x10 + d, g)
  | .l2 d va => ((attach d).headD 0, 0x10 + d, va.toNat)
  | .saved asid => (0, 0, asid)
  | .firmware => (0, 0, 0)
  | .link n => ((linkEnds n).headD 0, (linkEnds n).headD 0, n)
  | .mast m => (0, 0, m)
  | .die d => ((attach d).headD 0, 0x10 + d, 0)
/-- The physical address of a base die's error ring: the start of its reserved area (R20, R416). -/
def errRing (s : State) (st : Nat) : Nat := (s.package * 16 + st) * 2 ^ 44 + mappableEnd
/-- A 32-byte record written to memory, which clears the poison of its bytes. -/
def putRecord (s : State) (pa r : Nat) : State := unpoison { s with mem := writeN s.mem pa r 32 } pa 32
/-- A record enters a base die's error ring: unit, kind (0 corrected, 1 poisoned, 2 spared, 3 retired), address and ST0's cycle count; ERR is
set and the host gets a message (R416). -/
def logError (s : State) (u : EccUnit) (kind : Nat) : State :=
  let (st, unit, addr) := unitLog u
  let b := base s st; let pa := errRing s st + 32 * (b.errCount % 256)
  let r := unit + kind * 2 ^ 32 + addr % 2 ^ 64 * 2 ^ 64 + s.cycle % 2 ^ 64 * 2 ^ 128
  let s := putBase s st { b with errCount := b.errCount + 1 }
  { putRecord s pa r with host := { s.host with err := true }, msi := s.msi ++ [.errlog st] }

/-! ### Masts and routes -/

/-- The remap register for a set of masts in service (R363): PMm is the first alive among m, m + 1, m + 2, m + 3 modulo 4. -/
def remapOf (alive : Nat) : Nat :=
  let pm (m : Nat) : Nat := (((upFrom m 4).map (· % 4)).find? (bitN alive)).getD m
  pm 0 + pm 1 * 4 + pm 2 * 16 + pm 3 * 64 + alive % 16 * 256
def aliveNow (s : State) : Nat := bitsN (base s 0).remap.toNat 11 8
/-- A package where no mast but the given one is in service. -/
def lastMast (s : State) (m : Nat) : Bool := setBitsN (aliveNow s) m m 0 == 0
/-- No link of a mast is out of service. -/
def mastWhole (s : State) (m : Nat) : Bool :=
  s.links.all fun (n, l) => linkKind n != some (.mast m) || !(l.state == .fenced || l.state == .retired || l.state == .training)

/-- A route names an off-package port, and the ports that are out of service. -/
def routePort (r : Nat) : Nat := 320 + 4 * bitsN r 3 0 + bitsN r 5 4
def portOut (s : State) (n : Nat) : Bool := (fget? s.links n).any fun l => l.state == .fenced || l.state == .retired || l.state == .training
/-- A routing entry with the routes of ports out of service not VALID (R373, R379). -/
def maskRoutes (s : State) (e : Nat) : Nat :=
  (upFrom 0 4).foldl (fun x i =>
    let r := bitsN e (16 * i + 15) (16 * i)
    x + (if bitN r 15 && portOut s (routePort r) then r - 2 ^ 15 else r) * 2 ^ (16 * i)) 0
/-- A routing entry as firmware last wrote it, also where its change still drains. -/
def routesWanted (s : State) (st pkg : Nat) (full : DWord) : DWord :=
  ((s.changes ++ s.agenda).filterMap fun e => match e with
    | .routeChange b p r => if b == st && p == pkg then some r else none
    | _ => none).getLast?.getD full
/-- The route changes that follow when a port leaves or returns: each entry that names it, as firmware wrote it. -/
def routeEvents (s : State) (st p : Nat) : List Event :=
  s.bases.flatMap fun (b, x) => (x.fullRoutes.map fun (pkg, e) => (pkg, routesWanted s b pkg e)).filterMap fun (pkg, e) =>
    if (upFrom 0 4).any fun i => (let r := bitsN e.toNat (16 * i + 15) (16 * i); bitN r 15 && routePort r == portLink st p) then some (Event.routeChange b pkg e) else none

/-- What follows when a link has left service, or returns to it (R364, R373, R379). -/
def serviceEvents (s : State) (n : Nat) (up : Bool) : List Event :=
  match linkKind n with
  | some (.mast m) => if up == bitN (aliveNow s) m then [] else if up && !mastWhole s m then [] else [.mastRemap m up]
  | some (.port st p) => routeEvents s st p
  | none => []
/-- The place on another mast of a link of a mast; a port stays itself. -/
def onMast (m n : Nat) : Nat := if n < 192 then 48 * m + n % 48 else if n < 320 then n / 4 * 4 + m else n
/-- The rest of a packet's way to another package by a new route: from the base die where it stands, or that its attach link leads to. -/
def rerouted (s : State) (r : Nat) (p : Packet) : Packet :=
  let (x, port) := routeEnd r
  let lm := match p.mail with | (f, _) :: _ => f.lmast.toNat | [] => 0
  let way (e : Nat) : List Nat := meshPath (pmOf (base s e).remap lm) e x ++ [portLink x port]
  match p.path with
  | l :: t =>
    if 192 ≤ l && l < 320 then { p with path := l :: way ((linkEnds l).headD 0) }
    else { p with path := way (((linkEnds l).find? fun e => !(t.headD l != l && (linkEnds (t.headD l)).contains e)).getD 0) }
  | [] => p
/-- A link's bundles that carry lane faults of their own (R11). -/
def bundles (n : Nat) : Nat := if 192 ≤ n && n < 320 then 2 else 1
/-- The lane faults of a link are covered: by 2 spare data lanes and 1 spare control lane of each bundle; an off-package port goes on with
half its lanes after its first (R372). -/
def lanesCovered (n : Nat) (l : FMap Lanes) : Bool :=
  match linkKind n with
  | some (.port _ _) => (l.map fun (_, x) => x.data + x.ctl).foldl (· + ·) 0 ≤ 1
  | _ => l.all fun (_, x) => x.data ≤ 2 && x.ctl ≤ 1
/-- A link whose training has ended with lane faults (R373): UP with none, DEGRADED where they are covered. -/
def trainedLink (n : Nat) (faults : List (Nat × Nat)) : Link :=
  let lanes : FMap Lanes := ((upFrom 0 (bundles n)).zip faults).filterMap fun (b, d, c) => if d + c == 0 then none else some (b, { data := d, ctl := c })
  { state := if lanes.isEmpty then .up else if lanesCovered n lanes then .degraded else .fenced, lanes := lanes }
/-- Every remap register as firmware writes it for the masts in service (R363). -/
def remapAll (s : State) (alive : Nat) : State :=
  let w : Word := BitVec.ofNat 32 (remapOf alive)
  { s with
    bases := (upFrom 0 Config.numStacks).foldl (fun b n => fput b n { fgetD b n {} with remap := w }) s.bases
    dies := (upFrom 0 Config.numDies).foldl (fun b n => fput b n { fgetD b n {} with remap := w }) s.dies }
/-- The drain of a change is over: it is done, and the sources resume unless another change stops them. -/
def popChange (s : State) : State := { s with changes := s.changes.tail }
/-- A change stops the sources until the fabric has drained (R364, R379). -/
def startChange (s : State) (e : Event) : State := { s with changes := s.changes ++ [e] }

def fence (s : State) (n : Nat) : State :=
  let s := putLink s n { link s n with state := .fenced, replay := 0 }
  { s with agenda := s.agenda ++ serviceEvents s n false }

/-- One more lane of a link has failed (R372, R373): a spare takes its place, or a port goes on with half its lanes, or the link is FENCED. -/
def loseLane (s : State) (n b : Nat) (control : Bool) : State :=
  let l := link s n; let x := fgetD l.lanes b {}
  let lanes := fput l.lanes b (if control then { x with ctl := x.ctl + 1 } else { x with data := x.data + 1 })
  let s := putLink s n { l with lanes := lanes, state := .degraded }
  if !lanesCovered n lanes then fence s n else if n < 320 then logError s (.link n) 2 else s
/-- A FENCED link's fault is lasting: it is RETIRED (R373). -/
def retireLink (s : State) (n : Nat) : State := logError (putLink s n { link s n with state := .retired }) (.link n) 3

/-! ### Events -/

/-- CRC_REPLAY (R369): the flits in the link's replay buffer are sent again, all in order; 16 failures in a row fence the link. -/
def execCrcReplay (n fails : Nat) (s : State) : Out := event (fun s =>
  let l := link s n
  if !l.state.serves || (replayBuffer s n).isEmpty then s else if fails ≥ 16 then fence s n else putLink s n { l with replay := fails }) s
/-- LINK_TRAINING (R373). -/
def execLinkTraining (n : Nat) (s : State) : Out := event (fun s =>
  if (linkKind n).isSome && (link s n).state == .down then putLink s n { link s n with state := .training } else s) s
/-- LINK_TRAINED (R373). -/
def execLinkTrained (n : Nat) (r : TrainResult) (s : State) : Out := event (fun s =>
  if (link s n).state != .training then s else
  match r with
  | .failed => fence s n
  | .up => back (putLink s n { state := .up })
  | .degraded faults =>
    let l := trainedLink n faults
    let s := putLink s n l
    if l.state == .fenced then fence s n else back s) s
where
  back (s : State) : State := { s with agenda := s.agenda ++ serviceEvents s n true }
/-- LANE_FAULT (R372, R373). -/
def execLaneFault (n : Nat) (control : Bool) (s : State) (b : Nat := 0) : Out := event (fun s =>
  if (link s n).state.serves && b < bundles n then loseLane s n b control else s) s
/-- LINK_SELF_TEST (R373). -/
def execLinkSelfTest (n : Nat) (lasting : Bool) (s : State) : Out := event (fun s =>
  if (link s n).state != .fenced then s else if lasting then retireLink s n else putLink s n { link s n with state := .training }) s
/-- A remap after its drain. A mast whose link is UP or DEGRADED again by then returns by the same steps; one that is out again stays
out. -/
def remapNow (m : Nat) (inService : Bool) (s : State) : State :=
  let s := popChange s
  if bitN (aliveNow s) m == inService || (inService && !mastWhole s m) then s else
  if !inService && lastMast s m then { s with agenda := s.agenda ++ [.packageFatal] } else
  let s := remapAll s (setBitsN (aliveNow s) m m (if inService then 1 else 0))
  if !inService && mastWhole s m then { s with agenda := s.agenda ++ [.mastRemap m true] } else s
/-- MAST_REMAP (R363, R364): the sources stop, and what the failed mast's replay buffers hold is injected again on the mast that the new
mapping gives; once the fabric has drained, every remap register is rewritten. With no mast left the package is FATAL. -/
def execMastRemap (m : Nat) (inService : Bool) (s : State) : Out := event (fun s =>
  let e := Event.mastRemap m inService
  if m ≥ 4 then s
  else if s.changes.head? == some e then if changeReady s e then remapNow m inService s else s
  else if s.changes.contains e || bitN (aliveNow s) m == inService || (inService && !mastWhole s m) then s
  else if inService then startChange s e
  else if lastMast s m then { s with agenda := s.agenda ++ [.packageFatal] }
  else
    let m2 := bitsN (remapOf (setBitsN (aliveNow s) m m 0)) (2 * m + 1) (2 * m)
    startChange (reinject s (fun l => linkKind l == some (.mast m) && portOut s l) fun p =>
      { p with path := p.path.map fun l => if linkKind l == some (.mast m) then onMast m2 l else l }) e) s

/-- A base die's entry for a package: as firmware writes it, and in force. -/
def routeNow (st pkg : Nat) (routes : DWord) (s : State) : State :=
  putBase s st { base s st with fullRoutes := fput (base s st).fullRoutes pkg routes
                                routes := fput (base s st).routes pkg (BitVec.ofNat 64 (maskRoutes s routes.toNat)) }
/-- A write of an entry needs no drain: it leaves the primary route, and every other valid route stays in service (R379). -/
def routeQuiet (s : State) (st pkg : Nat) (routes : DWord) : Bool :=
  let old := (fgetD (base s st).routes pkg 0).toNat
  let new := maskRoutes s routes.toNat
  bitsN old 15 0 == bitsN new 15 0 && (upFrom 0 4).all fun i => !bitN old (16 * i + 15) || bitN new (16 * i + 15)
/-- ROUTE_CHANGE (R377, R379): the sources stop sending on VC 0 to the package, and what the replay buffers of a port out of service hold
is injected again on the new primary route; once those flits have drained, the entry is rewritten. -/
def execRouteChange (st pkg : Nat) (routes : DWord) (s : State) : Out := event (fun s =>
  let e := Event.routeChange st pkg routes
  if st ≥ Config.numStacks || pkg ≥ 240 || pkg == s.package then s
  else if s.changes.head? == some e then if changeReady s e then routeNow st pkg routes (popChange s) else s
  else if s.changes.contains e then s
  else if routeQuiet s st pkg routes then routeNow st pkg routes s
  else
    let r := bitsN (maskRoutes s routes.toNat) 15 0
    let mine (p : Packet) : Bool := p.mail.any fun (f, _) => f.dpkg.toNat == pkg
    startChange (reinject s (fun l => 320 ≤ l && portOut s l) fun p => if mine p && bitN r 15 then rerouted s r p else p) e) s
/-- DISCARDED_FLIT (R367): a flit that passes its CRC and names a reserved KIND or unit, or a VC that its KIND has not, is discarded, and its
link goes FENCED. -/
def execDiscardedFlit (n : Nat) (s : State) (b : BitVec 256 := 0) : Out := event (fun s =>
  if (link s n).state.serves && !(Flit.ofBits b).ok then fence s n else s) s
/-- FW (R367): a firmware message reaches a base die's firmware. -/
def execFw (st : Nat) (msg : DWord) (s : State) : Out := event (fun s => putBase s st { base s st with fw := (base s st).fw ++ [msg] }) s

end Sys2Proof.Machine
end

