-- ==== Sys2Proof/Machine/Context.lean ====
section
/-!
DEFINITION. Sys2Proof/Machine/Context.lean: contexts: build, start, halt, resume, retirement (R349 to R353, R408, R409), the cut (R354 to
R356, R360, R361), the save area (R357, R358) and the restore (R359).
-/
namespace Sys2Proof.Machine

/-- A request of CTXREQ is taken up (R408): none is before READY, after FATAL, or while another is in progress (R417, R418). -/
def request (op : Nat) (f : Nat → State → State) (asid : Nat) (s : State) : State :=
  if !s.host.ready || s.host.fatal || s.host.busy || asid ≥ 4096 then s
  else f asid { s with host := { s.host with reqAsid := BitVec.ofNat 12 asid, reqOp := BitVec.ofNat 3 op } }
/-- The end of a CTXREQ request (R408). -/
def reply (s : State) (result : Nat) : State := { s with host := { s.host with busy := false, result := BitVec.ofNat 8 result } }

/-! ### Build (R350 to R352) -/

def homeOwn (s : State) (st : Nat) : Nat := s.package * 16 + st
/-- A physical range in mappable HBM of this package. -/
def ownHbm (s : State) (pa n : Nat) : Bool := mappable pa n && paPkg pa == s.package
/-- A pair of the root table that fails R352. -/
def rootsBad (s : State) (st h r : Nat) : Bool :=
  !(ownHbm s h 8192 && stackOf h == homeOwn s st && h % 8192 == 0 && ownHbm s r 1024 && stackOf r == homeOwn s st && r % 1024 == 0)
def rootPairs (s : State) (c : Ctx) : List (Nat × Nat × Nat) :=
  let t := readN s.mem c.rootsPa 256
  (upFrom 0 16).map fun st => (st, bitsN t (128 * st + 63) (128 * st), bitsN t (128 * st + 127) (128 * st + 64))
/-- A built context or a later one, but for RETIRED. -/
def savedState (st : CState) : Bool := st != .free && st != .retired
/-- The descriptor fails R351. -/
def descBad (s : State) (asid : Nat) (c : Ctx) : Bool :=
  let d := c.desc; let m := (diesOf c.diemask).length
  asid == 0 || bitsN d 11 0 != asid || c.hasid == 0 || !(c.hasid == asid || savedState (ctxState s c.hasid)) ||
  c.diemask == 0 || (diesOf c.diemask).any (fun n => (dieSt s n).pstate == 3) || c.npkg == 0 || c.npkg > 240 ||
  c.fqlog < 4 || c.fqlog > 16 || c.tqlog < 4 || c.tqlog > 16 || c.mashq > 12 ||
  s.host.ctxdesc.toNat % 128 != 0 || c.qarea % 4096 != 0 || c.privb % 65536 != 0 || c.stripe % 2048 != 0 || c.rootsPa % 256 != 0 || c.savePa % 4096 != 0 ||
  bitsN d 15 13 != 0 || bitN d 63 || bitsN d 79 74 != 0 || d / 2 ^ 592 != 0 ||
  !ownHbm s c.savePa c.savesz || !ownHbm s c.rootsPa 256 || (rootPairs s c).any (fun (st, h, r) => rootsBad s st h r) || c.ntsq == 0 ||
  c.savesz < m * (96 * 2 ^ 20 + 16 * 2 ^ 20 * c.mashq) + 2 ^ 20

/-- What firmware writes into the access tables for a context at its build (R410): log 25. -/
def accessEntries (asid : Nat) (c : Ctx) : List Denial :=
  (Config.accessTable asid c.desc).map fun (m, lo, hi, p) =>
    { asid := some asid, master := m, lo := lo, hi := hi, r := bitN p 0, w := bitN p 1, x := bitN p 2, a := bitN p 3 }
/-- CTXREQ build: BUILT, then RUNNABLE with its roots and stripe sets written to every base die, or ERROR. The base dies take their copies
of the stripe-set table (R18) once, here; a descriptor that cannot be read counts as VALID = 0: DESIGN CHOICE, log 66. -/
def build (asid : Nat) (s : State) : State :=
  match ctx? s asid with
  | some _ => reply s 1
  | none =>
    let c : Ctx := { desc := readPhys s s.host.ctxdesc.toNat 128 }
    let s := setState (putCtx { s with ctxGone := fdel s.ctxGone asid } asid c) asid .built
    if descBad s asid c then reply (contextError s asid 4) 2
    else
      let s := (rootPairs s c).foldl (fun s (st, h, r) => putBase s st { base s st with roots := fput (base s st).roots asid (h, r) }) s
      let s := modCtx s asid fun c => { c with stripes := (upFrom 0 128).filterMap fun n =>
        (deviceRead s asid ((c.stripe + 16 * n) % 2 ^ 64) 16).bind fun v => if v == 0 then none else some (n, BitVec.ofNat 128 v) }
      reply (setState { s with denied := s.denied ++ accessEntries asid c } asid .runnable) 0
def contextBuild : Nat → State → State := request 1 build

/-! ### Start and restore (R359) -/

/-- A die is free of other contexts' groups and tasks. -/
def dieFree (s : State) (asid d : Nat) : Bool :=
  s.groups.all (fun (_, g) => g.state == .saved || g.core / 80 != d || (kernel? s g.kernel).all (·.asid == asid)) &&
  s.agents.all fun (k, a) => a.asid == asid || dieOf k != d
/-- The dies of a saved context can carve its regions again (R300). -/
def mashFree (s : State) (c : Ctx) : Bool := c.saved.mash.all fun (d, _) => (dieSt s d).mash.state == 0 && !(dieSt s d).mash.owned
def canStart (s : State) (asid : Nat) (c : Ctx) : Bool := (diesOf c.diemask).all (dieFree s asid) && mashFree s c

/-- The queues that the queue area gives a context when it first runs. -/
def loadQueues (s : State) (asid : Nat) : State :=
  (upFrom 0 32).foldl (fun s qid =>
    if (queue? s (qkey asid qid)).isSome then s else match loadQueue s asid qid with | some (q, s) => setQueue s (qkey asid qid) q | none => s) s

/-- The key under which a handler thread returns: its own slot, or another of the pools of the dies that are ON. -/
def handlerSlot (s : State) (c : Ctx) (k : Nat) : Option Nat :=
  if c.hasDie (dieOf k) && (dieSt s (dieOf k)).pstate == 1 && (agent? s k).isNone then some k
  else freePool s (((diesOf c.diemask).flatMap clustersOf).flatMap fun cl => upFrom (4 * cl) 4)
/-- A saved cluster set returns where it stood if it can, else where it first fits, two with saved tasks never to one cluster (R265). One that
fits nowhere yet stays saved, with its task, for a later GROUP_RESTORE. -/
def restoreSet (s : State) (ck : Nat) : State :=
  match cset? s ck with
  | none => s
  | some x => let l := restoreClusters s ck 0; (firstSome (restoreCSetOn s ck) (l.filter (· == x.cluster) ++ l.filter (· != x.cluster))).getD s
/-- A latched signal addition of a migration goes to its signal's home (R324, R359). -/
def sendLatched (s : State) (a : SigAdd) : State :=
  let (id, s) := freshId s
  { s with reqs := s.reqs ++ [{ id := id, seq := 0, who := a.who, acc := addAccess a.va.toNat 1 }] }
def sendAllLatched (s : State) (asid : Nat) : State :=
  ((ctx? s asid).elim [] (·.latched)).foldl sendLatched (modCtx s asid fun c => { c with latched := [] })

/-- The restore of a saved context, in the order of R359. -/
def restoreContext (s : State) (asid : Nat) (c : Ctx) : State :=
  let s := s.queues.foldl (fun s (qk, q) =>
    if q.asid == asid && q.state == .saved && (q.kind != 4 || (cset? s q.cset).all (·.placed)) then setQueue s qk { q with state := q.kept } else s) s
  let s := c.saved.mash.foldl (fun s (d, m) =>
    putDie (dropLines s fun l => l.die == d && 16 - m.ways ≤ l.way) d { dieSt s d with mash := m }) s
  let tasked (ck : Nat) : Bool := c.saved.tasks.any fun (qk, _) => qk == taskQkey ck
  let sets := (s.csets.filter fun (ck, x) => (kernel? s x.kernel).any (·.asid == asid) && !x.placed &&
    (s.groups.any (fun (_, g) => g.cset == ck && g.state == .saved) || tasked ck)).map (·.1)
  -- a retired set whose task goes on has kept its place
  let s := (s.csets.filter fun (ck, x) => x.placed && tasked ck).foldl (fun s (ck, _) => returnTask s ck) s
  let s := (sets.filter tasked ++ sets.filter (!tasked ·)).foldl restoreSet s
  let s := sendAllLatched s asid
  let s := (((ctx? s asid).elim [] (·.saved.handlers)).map (·.1)).foldl (fun s k =>
    match (ctx? s asid).bind (fget? ·.saved.handlers k), handlerSlot s c k with
    | some a, some j => rekey (putAgent (modCtx s asid fun c => { c with saved := { c.saved with handlers := fdel c.saved.handlers k } }) j (a.restored 0)) a.uid j
    | _, _ => s) s
  (s.kernels.filter fun (_, k) => k.asid == asid).foldl (fun s (kern, _) => settleKernel s kern) (modCtx s asid fun c => { c with saved := { c.saved with mash := [] } })

/-! ### The choice and the start of a cut (R354, R360, R361) -/

def frozenIn (s : State) (g : Nat) : Bool := (groupAgents s g).any fun (_, a) => a.state == .frozen || a.state == .stepping
/-- The choice for one group. -/
def choiceFor (s : State) (k : Kernel) (gk : Nat) (g : Group) : Choice :=
  let p := g.issued / 256
  if frozenIn s gk then .save
  else if k.est != 0 && p < k.est && k.est - p ≤ 256 then .drain
  else if k.idem && p ≤ 64 then .flush
  else .save
def residentOf (s : State) (asid : Nat) : List (Nat × Group) := s.groups.filter fun (_, g) => g.state == .resident && (kernel? s g.kernel).any (·.asid == asid)
/-- Every resident group's choice; the groups of a CONCURRENT kernel follow its group 0. -/
def choices (s : State) (asid : Nat) : FMap Choice :=
  (residentOf s asid).filterMap fun (gk, g) => (kernel? s g.kernel).map fun k =>
    let lead := if k.cls == 0 then (group? s (gkey g.kernel 0)).map fun x => (gkey g.kernel 0, x) else none
    let (lk, lg) := lead.getD (gk, g)
    (gk, choiceFor s k lk lg)
/-- The sources close, and the context is CUTTING; from HALTED nothing of it issues any more, and it is saved as it stands (R361). -/
def beginCut (s : State) (asid : Nat) (sliced : Bool) : State :=
  match ctx? s asid with
  | none => s
  | some c =>
    let halted := c.state == .halted
    let ch := if halted then (residentOf s asid).map fun (g, _) => (g, Choice.save) else choices s asid
    setState (modCtx s asid fun c => { c with sliced := sliced, cut := some { choices := ch, fromHalt := halted, ready := halted } }) asid .cutting
def cuttable (s : State) (asid : Nat) : Bool := ctxState s asid == .running || ctxState s asid == .halted
def preempt (asid : Nat) (s : State) : State :=
  if cuttable s asid then { beginCut s asid false with host := { s.host with busy := true, reqAsid := BitVec.ofNat 12 asid, reqOp := 3 } } else reply s 1
def contextPreempt : Nat → State → State := request 3 preempt
def tsliceExpiry (asid : Nat) (s : State) : State :=
  if cuttable s asid && !s.host.fatal && (ctx? s asid).any (·.tslice != 0) then beginCut s asid true else s
def halt (asid : Nat) (s : State) : State :=
  if ctxState s asid == .running || ctxState s asid == .cutting then reply (setState s asid .halted) 0 else reply s 1
def contextHalt : Nat → State → State := request 4 halt
/-- A context that runs again sends what a migration has latched (R324). -/
def resume (asid : Nat) (s : State) : State :=
  match ctx? s asid with
  | some c => if c.state == .halted then reply (sendAllLatched (setState s asid (if c.cut.isSome then .cutting else .running)) asid) 0 else reply s 1
  | none => reply s 1
def contextResume : Nat → State → State := request 5 resume
/-- DRAIN_TIMEOUT (R354): 100 µs after the cut began. -/
def drainTimeout (asid : Nat) (s : State) : State :=
  modCtx s asid fun c => { c with cut := c.cut.map fun x => { x with choices := x.choices.map fun (g, ch) => (g, if ch == .drain then Choice.save else ch) } }
/-- HANDLER_CUT_TIMEOUT (R355): handlers that hold a capability 2 ms after the cut began freeze with HANDLER_BUDGET. -/
def handlerCutTimeout (asid : Nat) (s : State) : State :=
  if ctxState s asid != .cutting || (ctx? s asid).all (fun c => c.cut.all (·.fromHalt)) then s else
  (s.agents.filter fun (_, a) => a.kind == .handler && a.asid == asid && a.state != .frozen).foldl (fun s (k, a) =>
    match a.caps.find? fun (_, c) => c.valid with
    | some (n, _) => freeze s k .handlerBudget { x0 := BitVec.ofNat 32 n }
    | none => s) s

/-! ### The steps of a cut (R355, R356) -/

/-- Steps 1 to 3 are not finished: handlers, draining or retiring groups, a mash entry in progress, of which a join marker is none (it
moves no bytes, and waits after the restore as before). -/
def cutWaits (s : State) (asid : Nat) (x : Cut) : Bool :=
  (!x.fromHalt && (s.agents.any (fun (_, a) => a.kind == .handler && a.asid == asid) || s.dies.any fun (_, d) => d.level2.any (·.asid == asid))) ||
  s.groups.any (fun (gk, g) => (kernel? s g.kernel).any (·.asid == asid) &&
    (g.state == .retiring || (g.state == .resident && fgetD x.choices gk .save == .drain && !frozenIn s gk))) ||
  s.queues.any fun (_, q) => q.asid == asid && q.kind == 3 && q.state == .active && q.head.any fun h =>
    (entMeta q h.num).marker.isNone && (!h.finished || q.state != .faulted)

def run (f : State → Out) (s : State) : State := match f s with | .next t => t | _ => s
/-- One round of settling: producers of a context, its APPENDs, and whatever is on the fabric go on. -/
def settleRound (asid : Nat) (s : State) : State :=
  let s := s.prods.foldl (fun s p => if (party? s p.key p.uid).any (·.asid == asid) then run (execProducerCompletion p.id) s else s) s
  let s := (s.reqs.map (·.id)).foldl (fun s id =>
    [execRead, execWrite, execAtomic, execSignalAddition, execFwd, execFwdans, execResp, execAck, execLoadCompletion].foldl (fun s f => run (f id) s) s) s
  let s := s.markers.foldl (fun s m => run (execMarkerack m.id) (run (execMarker m.id) s)) s
  let s := s.invals.foldl (fun s i => run (execInvalack i.id) (run (execInval i.id) s)) s
  let s := s.beats.foldl (fun s b => run (execChunk b.id) s) s
  s.appends.foldl (fun s p => if (kernel? s p.kernel).any (·.asid == asid) then run (execAppendArrival p.id) s else s) s
def settled (s : State) (asid : Nat) : Bool :=
  s.prods.all (fun p => !(party? s p.key p.uid).any (·.asid == asid) || (prodValue s p).isNone) && s.reqs.all (·.who.asid != asid) &&
  s.markers.all (fun m => s.agents.all fun (_, a) => a.uid != m.uid || a.asid != asid) && s.beats.all (·.asid != asid) &&
  s.appends.all fun p => (kernel? s p.kernel).all (·.asid != asid)
def settle5 (asid : Nat) : Nat → State → State
  | 0, s => s
  | n + 1, s => if settled s asid then s else settle5 asid n (settleRound asid s)

/-- The safe-point entry of a kernel at an instruction (R155): its live mask and live predicates. What cannot be read of a side table at the
cut reads as 0, so that it has no safe point there: DESIGN CHOICE, log 83. -/
def safePoint (s : State) (k : Kernel) (pc : DWord) : Option (Nat × Nat) :=
  if k.side == 0 then none else
  let rd (va n : Nat) : Nat := (deviceRead s k.asid (va % 2 ^ 64) n).getD 0
  let hdr := rd k.side 16; let nsp := bitsN hdr 31 0; let nm := bitsN hdr 63 32
  ((upFrom 0 nsp).find? fun i => (k.entry + bitsN (rd (k.side + 16 + 8 * i) 8) 31 0) % 2 ^ 64 == pc.toNat).bind fun i =>
    let e := rd (k.side + 16 + 8 * i) 8; let m := bitsN e 47 32
    if m < nm then some (rd (k.side + 16 + 8 * nsp + 32 * m) 32, bitsN e 55 48) else none
/-- A thread as a cut at a safe point keeps it (R358): dead registers and predicates come back as 0 and full. -/
def Agent.atSafePoint (a : Agent) (mask preds : Nat) : Agent :=
  { a with
    v := a.v.filter fun (n, c) => bitN mask n || c.mark.isSome || c.poison
    preds := a.preds &&& BitVec.ofNat 7 preds, pfull := a.pfull ||| ~~~(BitVec.ofNat 7 preds) }
def discardDead (s : State) (g : Nat) : State :=
  match (group? s g).bind fun x => kernel? s x.kernel with
  | none => s
  | some k => (groupAgents s g).foldl (fun s (j, a) => match safePoint s k a.pc with | some (m, p) => putAgent s j (a.atSafePoint m p) | none => s) s

/-- A FLUSH group is discarded and becomes UNPLACED (R173, R174); its threads' earlier accesses come before those of its new ones. Its
takers wait no more, and the scratchpad that its entries and triggers name is lost (R245). -/
def flushGroup (s : State) (gk : Nat) : State :=
  match group? s gk with
  | none => s
  | some g =>
    match kernel? s g.kernel with
    | none => s
    | some k =>
      let clk := (groupAgents s gk).foldl (fun c (_, a) => cmax c a.relClk) []
      let uids := (groupAgents s gk).map (·.2.uid)
      let s := { s with
        agents := s.agents.filter (fun (_, a) => !(a.kind == .thread && a.group == gk)), groups := fdel s.groups gk
        lists := s.lists.map fun (n, l) => (n, { l with takers := l.takers.filter (!uids.contains ·) })
        queues := s.queues.map fun (n, q) => (n, { q with ents := q.ents.map fun (i, m) => (i, if m.group == some gk then { m with gone := true } else m) })
        trigs := s.trigs.map fun t => if t.group == some gk then { t with gone := true } else t }
      let k := { k with backClk := fput k.backClk g.index clk }
      let all := k.cls == 0 && k.gone == 0 && (kernelGroups s g.kernel).isEmpty
      putKernel s g.kernel { k with state := .placing, next := if all then 0 else k.next, back := if all then [] else lput k.back g.index }

/-! ### The save area (R357, R358) -/

/-- A run of bytes to write: offset, length, value. -/
abbrev Piece := Nat × Nat × Nat
def pack (w : Nat) (l : List Nat) : Nat := l.foldr (fun x m => x % 2 ^ w + m * 2 ^ w) 0
def bitmap (l : List Nat) : Nat := l.foldl (fun m n => m + 2 ^ n) 0
def align4k (x : Nat) : Nat := 4096 * ceilDiv x 4096
/-- A thread record (R358). -/
def threadRecord (s : State) (a : Agent) : Nat × Nat :=
  let st := match a.state with | .frozen => 2 | .exited => 3 | .stepping => 4 | _ => if a.wait == .none then 0 else 1
  let bar := match a.bar with | .none => 0 | .arrived => 1 | .passed => 2
  let sp := a.kind == .thread && ((kernel? s a.kernel).bind fun k => safePoint s k a.pc).isSome
  let w0 := st + bar * 8 + partOf s a % 32 * 32 + (if sp then 1024 else 0) + if a.refused.isEmpty then 0 else 2048
  let w7 := a.fl.toNat + a.preds.toNat * 2 ^ 8 + a.pfull.toNat * 2 ^ 16
  let hdr := w0 + a.lin * 2 ^ 32 + a.pc.toNat * 2 ^ 64 + a.reconv.toNat * 2 ^ 128 + a.rstk % 2 ^ 32 * 2 ^ 192 + w7 * 2 ^ 224
  let cells := (upFrom 0 a.nregs).map fun n => (n, a.vcell n)
  let regs := pack 32 (cells.map fun (_, c) => c.val.toNat)
  let maps := pack 256 [bitmap ((cells.filter fun (_, c) => c.full).map (·.1)), bitmap ((cells.filter fun (_, c) => c.mark.isSome).map (·.1)),
                        bitmap ((cells.filter fun (_, c) => c.poison).map (·.1))]
  -- a faulted register's number and its kept load (R311): where each field stands is the model's own, log 11
  let kept := cells.filterMap fun (n, c) => c.mark.map fun m =>
    n + m.acc.width * 2 ^ 8 + (if m.acc.sx then 2 ^ 11 else 0) + m.acc.order * 2 ^ 12 + m.acc.scope * 2 ^ 16 + (if m.acc.rx then 2 ^ 20 else 0) +
    (if m.acc.kind == .rmw then 2 ^ 21 else 0) + m.acc.op * 2 ^ 24 + m.code.num * 2 ^ 32 + m.acc.addr.toNat * 2 ^ 64
  (160 + 4 * a.nregs + 16 * kept.length, hdr + regs * 2 ^ 512 + (maps + pack 128 kept * 2 ^ 768) * 2 ^ (512 + 32 * a.nregs))
/-- A task record (R357): 45,056 bytes. -/
def taskRecord (a : Agent) (e : Engine) (debt : Nat) : Nat :=
  let seqRec (o : SeqRec) : Nat :=
    o.opc + o.dst * 2 ^ 8 + o.af * 2 ^ 16 + 2 ^ 24 + o.mod.toNat * 2 ^ 32 + o.next * 2 ^ 64 + o.aop.toNat * 2 ^ 128 + o.bop.toNat * 2 ^ 192 + o.fmw.toNat * 2 ^ 256
  let byp := match e.byp with
    | none => 0
    | some b => b.fmt + b.desc.toNat * 2 ^ 32 + 2 ^ 128 * (b.codes.foldl (fun m (i, c) => m + c % 2 ^ 64 * 2 ^ (fmtWidth b.fmt * i)) 0)
  pack 64 ((upFrom 0 32).map fun n => (a.xcell n).val.toNat) + 2 ^ 2048 * (pack 64 (e.rstk.map (·.toNat)) + 2 ^ 1024 * (
    pack 16 ((upFrom 0 8).map fun n => (e.nfAt n).toNat) + 2 ^ 128 * (pack 1024 ((upFrom 0 4).map fun n => fgetD e.ct n 0) + 2 ^ 4096 * (
    pack 512 ((upFrom 0 4).map fun n => fgetD e.cv n 0) + 2 ^ 2048 * (pack 32 ((upFrom 0 8).flatMap fun n => (e.accWords n).map (·.toNat)) + 2 ^ 262144 * (
    byp + 2 ^ 65664 * (pack 512 (e.ops.map seqRec) + 2 ^ 8192 * debt)))))))
def recordBytes (r : Rec) : Nat := pack 32 ((upFrom 0 16).map fun i => (recWord r i).toNat)
/-- Pieces laid one after the other from an offset. -/
def layPieces (at_ : Nat) : List (Nat × Nat) → List Piece × Nat
  | [] => ([], at_)
  | (n, v) :: t => let (l, e) := layPieces (at_ + n) t; ((at_, n, v) :: l, e)
/-- The bytes of one value after another: width in bytes and value. -/
def laidOut (l : List (Nat × Nat)) : Nat := (l.foldr (fun (w, v) (m : Nat) => v % 2 ^ (8 * w) + m * 2 ^ (8 * w)) 0)
def KState.num : KState → Nat
  | .queued => 0 | .placing => 1 | .running => 2 | .retiring => 3 | .retired => 4 | .rejected => 5 | .aborted => 6
/-- A kernel's 256 bytes in section 2: its header, state, identifier, placement cursor, retired groups, and how many lists follow. -/
def kernelRecord (s : State) (kn : Nat) (k : Kernel) : Nat :=
  laidOut [(64, k.hdr), (4, k.state.num), (4, k.ident), (8, k.next), (8, k.gone), (8, k.back.length), (4, (listsOf s kn).length), (4, if k.quiet then 1 else 0)]
/-- Where a waiting taker is found in the save area: its group's index and its linear index. -/
def takerWord (s : State) (uid : Nat) : Nat :=
  ((s.groups.flatMap fun (_, g) => g.kept.filterMap fun (lin, a) => if a.uid == uid then some (g.index * 2 ^ 16 + lin) else none).head?).getD 0
/-- A work list in section 2 (R165): its number and how many items and takers follow, the items in order, and the takers in order. -/
def listPieces (s : State) (n : Nat) (l : WList) : List (Nat × Nat) :=
  (8, n % 4096 + l.items.length * 2 ^ 16 + l.takers.length * 2 ^ 40) :: (l.items.map fun x => (8, x.1.toNat)) ++ l.takers.map fun u => (8, takerWord s u)
/-- The pending deliveries of a queue's entries (R239), kept by the saved threads, tasks and handlers. -/
def deliveriesOf (s : State) (qk : Nat) (q : Queue) : List Delivery :=
  let c := ctx? s q.asid
  let kept := s.groups.flatMap (fun (_, g) => g.kept.map (·.2)) ++ c.elim [] (fun c => (c.saved.tasks.map fun (_, a, _) => a) ++ c.saved.handlers.map (·.2))
  kept.flatMap fun a => if a.asid == q.asid then a.pending.filter fun d => qk == qkey q.asid d.qid else []
/-- A latched trigger in section 3 (R242): all that its firing needs. -/
def trigRecord (t : Trig) : Nat :=
  laidOut [(8, t.signal.toNat), (8, t.thr.toNat), (8, t.image.toNat), (64, t.img), (2, t.tasid), (1, t.home % 256), (1, t.q % 256),
           (1, match t.state with | .armed => 0 | .fired => 1 | .page => 2 | .room => 3), (1, t.code), (1, if t.gone then 1 else 0), (1, if t.group.isSome then 1 else 0),
           (16, t.group.getD 0), (8, t.issuer.elim 0 (·.2)), (8, t.issuer.elim 0 (·.1))]
/-- A run in progress in section 3 (R398): its counters and the RECVs that are posted; its done bits take the place of the box bitmap. -/
def runItems (s : State) (qk : Nat) (g : GRun) : List (Nat × Nat) :=
  ((g.counts.map fun (n, c) => (8, n + c * 2 ^ 32)) ++
   (s.bases.flatMap fun (st, b) => (b.posts.filter (·.q == qk)).map fun p => (8, p.node + st * 2 ^ 16 + 2 ^ 63)))
/-- A queue's 1024 bytes in section 3, or more where its items need it: its record, the box bitmap, and its latched triggers, pending
decrements and pending deliveries. -/
def queueRecord (s : State) (qk : Nat) (q : Queue) : Nat × Nat :=
  let ts := s.trigs.filter fun t => t.q == qk && t.state != .armed
  let ds := deliveriesOf s qk q
  let g := q.head.bind (·.run)
  let map := match q.head with | none => [] | some h => (match h.run with | some g => g.done | none => h.done)
  let items := (ts.map fun t => (128, trigRecord t)) ++
    (q.decs.map fun (d : Decrement) => (32, laidOut [(8, d.off), (8, d.bytes), (16, d.cset)])) ++
    (ds.map fun (d : Delivery) => (16, laidOut [(1, d.code.num), (1, d.qid), (6, d.entry), (4, d.x0.toNat)])) ++ g.elim [] (runItems s qk)
  let size := 592 + (items.map (·.1)).foldl (· + ·) 0
  (max 1024 size, laidOut ([(64, q.image), (512, if q.kind == 1 || q.kind == 2 then bitmap map else 0), (4, ts.length), (4, q.decs.length), (4, ds.length),
    (4, g.elim 0 fun g => (runItems s qk g).length)] ++ items))
/-- A group's header of 256 bytes in section 4. -/
def groupHeader (s : State) (g : Group) (k : Kernel) : Nat :=
  laidOut ([(8, k.ident), (8, g.index), (8, g.index % k.perSet), (8, g.issued / 256), (8, k.size), (8, k.nregs), (8, k.scr / 65536), (8, g.phases)] ++
    (upFrom 0 64).map fun t => (2, (cset? s g.cset).elim 0 fun c => fgetD c.toks t 0))
/-- A refused write that is kept (R316): its address, data, and its width, operation, order and scope. -/
def writeRecord (a : Access) : Nat := laidOut [(8, a.addr.toNat), (16, a.data), (1, a.bytes), (1, a.op), (1, a.order), (1, a.scope), (4, if a.rx then 1 else 0)]
/-- A capability of a saved handler (R361): its record and its budget. -/
def capRecord (n : Nat) (c : Cap) : Nat := laidOut [(64, recordBytes c.record), (4, c.budget), (1, n), (3, if c.valid then 1 else 0)]
/-- The header (R357): state, the number of pieces of each section, their offsets, K of each die, and the descriptor. -/
def saveHeader (c : Ctx) (counts offsets : List Nat) : Nat :=
  laidOut ((8, CState.saved.num) :: counts.map (8, ·) ++ offsets.map (8, ·) ++
    ((upFrom 0 8).map fun d => (1, (c.saved.mash.find? (·.1 == d)).elim 0 (·.2.ways))) ++ [(16, 0), (128, c.desc)])
/-- The sections of the save area of a saved context, and where they end. Where the items stand within the sections, as far as R357 and R358
do not say, is the model's own: DESIGN CHOICE, log 11. -/
def saveImage (s : State) (asid : Nat) (c : Ctx) : List Piece × Nat :=
  let ks := s.kernels.filter fun (_, k) => k.asid == asid
  let gs := s.groups.filter fun (_, g) => g.state == .saved && (kernel? s g.kernel).any (·.asid == asid)
  let sec2 := ks.flatMap fun (kn, k) => (256, kernelRecord s kn k) :: (listsOf s kn).flatMap fun (n, l) => listPieces s n l
  let sec3 := (s.queues.filter fun (_, q) => q.asid == asid).map fun (qk, q) => queueRecord s qk q
  let sec4 := gs.flatMap fun (_, g) => match kernel? s g.kernel with
    | some k => (256, groupHeader s g k) :: (k.scr, readN g.keptMem 0 k.scr) :: g.kept.map fun (_, a) => threadRecord s a
    | none => []
  let sec5 := c.saved.tasks.map fun (_, a, e, d) => (45056, taskRecord a e d)
  let sec6 := c.saved.mash.flatMap fun (_, m) => (upFrom 0 (64 * m.ways)).flatMap fun g => (upFrom 0 256).map fun r =>
    (1024, fgetD m.rows r 0 / 2 ^ (8192 * g) % 2 ^ 8192)
  let refused := gs.flatMap (fun (_, g) => g.kept.flatMap fun (_, a) => a.refused) ++
    c.saved.tasks.flatMap (fun (_, a, _) => a.refused) ++ c.saved.handlers.flatMap (fun (_, a) => a.refused)
  let sec7 := (c.fq ++ c.parked).map (fun r => (64, recordBytes r)) ++ refused.map (fun x => (32, writeRecord x.acc)) ++
    c.saved.handlers.flatMap fun (_, a) => threadRecord s a :: a.caps.map fun (n, x) => (72, capRecord n x)
  let secs := [sec2, sec3, sec4, sec5, sec6, sec7]
  let (ps, offs, e) := secs.foldl (fun (l, o, at_) sec => let (p, e) := layPieces (align4k at_) sec; (l ++ p, o ++ [align4k at_], e)) (([] : List Piece), ([] : List Nat), 4096)
  ((0, 4096, saveHeader c (secs.map (·.length)) offs) :: ps, e)
/-- An access table refuses the device part of a range of a save area. -/
def areaRefused (s : State) (pa n : Nat) (store : Bool) : Bool :=
  s.denied.any fun d => d.master == pa / 2 ^ 44 % 16 && d.lo < pa + n && pa ≤ d.hi && if store then d.w else d.r

/-- Writes the save area; none when it does not fit or its target refuses the access (R349). -/
def writeSave (s : State) (asid : Nat) (c : Ctx) : Option State :=
  let (ps, e) := saveImage s asid c
  if e > c.savesz || ps.any (fun (o, n, _) => areaRefused s (c.savePa + o) n true) then none
  else some (ps.foldl (fun s (o, n, v) => unpoison { s with mem := writeN s.mem (c.savePa + o) v n } (c.savePa + o) n) s)

/-- An uncorrectable error has struck the save area (R349). -/
def saveBad (s : State) (c : Ctx) : Bool := s.poison.any fun w => c.savePa ≤ 4 * w && 4 * w < c.savePa + c.savesz

/-- A start that finds its dies free: RUNNING, restored first when it was SAVED. -/
def runContext (s : State) (asid : Nat) (c : Ctx) : State :=
  if c.state == .saved then
    if saveBad s c then contextError s asid 2
    else if (saveImage s asid c).1.any fun (o, n, _) => areaRefused s (c.savePa + o) n false then contextError s asid 3
    else reply (setState (restoreContext s asid c) asid .running) 0
  else reply (setState (loadQueues s asid) asid .running) 0
/-- A die of a context's DIEMASK is RETIRED (R415). -/
def dieRetired (s : State) (c : Ctx) : Bool := (diesOf c.diemask).any fun d => (dieSt s d).pstate == 3
/-- CTXREQ start: at once, refused, or with BUSY = 1 until the dies are free. -/
def start (asid : Nat) (s : State) : State :=
  match ctx? s asid with
  | none => reply s 1
  | some c =>
    if c.state != .runnable && c.state != .saved then reply s 1
    else if dieRetired s c then reply s 3
    else if canStart s asid c then runContext s asid c
    else { s with host := { s.host with busy := true, reqAsid := BitVec.ofNat 12 asid, reqOp := 2 } }
def contextStart : Nat → State → State := request 2 start
/-- The start that waits, once its dies are free, or one of them is RETIRED (R415). -/
def startWaiting (s : State) (asid : Nat) : Option Ctx :=
  if s.host.busy && s.host.reqOp == 2 && s.host.reqAsid.toNat == asid && !s.host.fatal then
    (ctx? s asid).filter fun c => (c.state == .runnable || c.state == .saved) && (dieRetired s c || canStart s asid c)
  else none
def contextStartWhenFree (asid : Nat) (s : State) : State :=
  match startWaiting s asid with
  | some c => if dieRetired s c then reply s 3 else runContext s asid c
  | none => s

/-- Steps 6 and 7: scan and release. The energy debt of a saved task is all of its entry's ENERGY: DESIGN CHOICE, log 82. -/
def scanContext (s : State) (asid : Nat) (x : Cut) : State :=
  let gs := (residentOf s asid).map (·.1)
  let s : State := gs.foldl (fun s g => match fgetD x.choices g .save with | .flush => flushGroup s g | _ => saveGroup (discardDead s g) g) s
  let tasks := s.agents.filterMap fun (k, a) =>
    if a.kind == .task && a.asid == asid then
      let debt := ((queue? s a.queue).bind (·.head)).elim 0 fun h => recEnergy h.img
      -- one that waits for room in the engine issues its operation again
      let b := a.saved 0
      some (a.queue, if a.wait == .engine then { b with wait := .none, inst := none } else b, { engine s (clusterOf k) with want := none }, debt)
    else none
  let cls := (s.agents.filter fun (_, a) => a.kind == .task && a.asid == asid).map fun (k, _) => clusterOf k
  let handlers := (s.agents.filter fun (_, a) => a.kind == .handler && a.asid == asid).map fun (k, a) => (k, a.saved 0)
  let mash := s.dies.filterMap fun (d, y) => if y.mash.owned && y.mash.owner == asid then some (d, y.mash) else none
  let s : State := (cls.foldl (fun s cl => putEngine s cl {}) { s with agents := s.agents.filter fun (_, a) => a.asid != asid })
  let s : State := { s with dies := s.dies.map fun (d, y) => (d, if y.mash.owned && y.mash.owner == asid then { y with mash := {} } else y) }
  -- the sets that hold scratchpad leave their clusters; a retired set whose task goes on keeps its place
  let s : State := s.csets.foldl (fun s (ck, y) => if y.placed && !y.retired && (kernel? s y.kernel).any (·.asid == asid) then releaseCSet s ck else s) s
  let s : State := s.queues.foldl (fun s (qk, q) =>
    if q.asid != asid || q.state == .saved || q.state == .disabled then s else
    let s : State := if q.kind == 1 && q.head.isSome then deviceWrite s asid q.bmap.toNat 512 (bitmap (q.head.elim [] (·.done))) else s
    -- the region of an entry in progress ends here as every party's does (R202)
    setQueue s qk { q with state := .saved, kept := q.state, head := q.head.map fun h => { h with who := { h.who with region := h.who.region + 1 } } }) s
  let s : State := modCtx s asid fun c => { c with
    cut := none, saved := { tasks := tasks ++ c.saved.tasks, handlers := handlers ++ c.saved.handlers, mash := mash } }
  match ctx? s asid with
  | none => s
  | some c =>
    match writeSave s asid c with
    | none => contextError s asid 3
    | some s => endRequest (setState s asid .saved) asid 0

/-- A flit on the fabric is a context's. -/
def mailOf (s : State) (asid : Nat) (f : Flit) (id : Nat) : Bool :=
  if f.kind.toNat == FlitKind.chunk then s.beats.any fun b => b.id == id && b.asid == asid
  else if f.kind.toNat == FlitKind.marker || f.kind.toNat == FlitKind.markerack then
    s.markers.any fun m => m.id == id && (s.agents.any (fun (_, a) => a.uid == m.uid && a.asid == asid) || s.queues.any fun (_, q) => q.asid == asid && q.head.any fun h =>
      h.who.uid == m.uid || h.run.any fun g => g.ran.any fun (_, e) => e.uid == m.uid)
  else f.asid.toNat == asid
def ctxPackets (s : State) (asid : Nat) : List Packet := s.fabric.filter fun p => p.mail.any fun (f, id) => mailOf s asid f id
/-- The cut is by drain-forward (R356): over several packages, or with traffic of the context on off-package links. -/
def forwards (s : State) (asid : Nat) : Bool := (ctx? s asid).any (fun c => c.npkg > 1) || (ctxPackets s asid).any fun p => p.path.any (320 ≤ ·)
/-- No flit or request of the context is under way, so that the counters of its channels are full (R356, R371). -/
def forwardReady (s : State) (asid : Nat) : Bool :=
  (ctxPackets s asid).isEmpty && s.reqs.all (fun r => r.who.asid != asid || r.stage == .performed || r.stage == .returned) && s.beats.all (·.asid != asid)
/-- The freeze wire has fallen: no unit of the context issues. -/
def setReady (s : State) (asid : Nat) : State := modCtx s asid fun c => { c with cut := c.cut.map fun x => { x with ready := true } }
def cutDue (s : State) (asid : Nat) : Option Cut :=
  match ctx? s asid with
  | some c => if c.state == .cutting then c.cut.filter fun x => !cutWaits s asid x else none
  | none => none
/-- CONTEXT_CUT (R355): the freeze wire, settling, and once every party is settled (and, over several packages, every package has reported),
scan and release. -/
def contextCut (asid : Nat) (s : State) : State :=
  match cutDue s asid with
  | none => s
  | some x =>
    let s := setReady s asid
    if forwards s asid && !x.forwarded then s
    else
      let s := settle5 asid (80 + 16 * (s.reqs.length + s.appends.length + s.markers.length + s.beats.length)) s
      if settled s asid then scanContext s asid x else s
/-- DRAIN_FORWARD (R356): the counters of the context's channels are full here and every package has sent its completion marker. -/
def drainForward (asid : Nat) (s : State) : State :=
  match cutDue s asid with
  | none => s
  | some _ =>
    if !forwardReady s asid then setReady s asid
    else modCtx (setReady s asid) asid fun c => { c with cut := c.cut.map fun x => { x with forwarded := true } }

/-! ### Retirement (R349) -/

/-- CTXREQ retire: nothing of the context is left to run. -/
def retire (asid : Nat) (s : State) : State :=
  match ctx? s asid with
  | none => reply s 1
  | some c =>
    if !(c.state == .built || c.state == .runnable || c.state == .saved || c.state == .error) then reply s 1 else
    let mine (kern : Nat) : Bool := kern / 2 ^ 32 == asid
    let s := dropMail s fun kind id => if kind == FlitKind.chunk then s.beats.any fun b => b.id == id && b.asid == asid
      else kind != FlitKind.marker && kind != FlitKind.markerack && s.reqs.any fun r => r.id == id && r.who.asid == asid
    let s := { s with
      denied := s.denied.filter (·.asid != some asid)
      agents := s.agents.filter fun (_, a) => a.asid != asid
      groups := s.groups.filter fun (_, g) => !mine g.kernel
      csets := s.csets.filter fun (_, x) => !mine x.kernel
      lists := s.lists.filter fun (n, _) => !mine (n / 4096)
      queues := s.queues.filter fun (_, q) => q.asid != asid
      trigs := s.trigs.filter (·.asid != asid)
      beats := s.beats.filter (·.asid != asid)
      appends := s.appends.filter (!mine ·.kernel)
      reqs := s.reqs.filter (·.who.asid != asid)
      kernels := s.kernels.filter fun (_, k) => k.asid != asid
      bases := s.bases.map fun (b, x) => (b, { x with
        store := x.store.filter (·.asid != asid), spills := x.spills.filter (·.asid != asid), posts := x.posts.filter (·.asid != asid)
        holds := x.holds.filter (·.asid != asid) }) }
    reply (setState (modCtx s asid fun c => { c with fq := [], parked := [], cut := none, saved := {}, latched := [] }) asid .retired) 0
def contextRetire : Nat → State → State := request 6 retire
/-- A page migration of the context is still in progress. -/
def freeDue (s : State) (asid : Nat) : Bool := ctxState s asid == .retired && s.bases.all fun (_, b) => b.migs.all (·.asid != asid)
/-- CONTEXT_FREE: every base die drops the ASID's TLB entries, side logs and roots, and no die L2 keeps a line of it. -/
def contextFree (asid : Nat) (s : State) : State :=
  if !freeDue s asid then s else
  { s with
    -- CTXSTAT keeps SLICED, CAUSE and NTRANS until the next build (R409)
    ctxGone := fput s.ctxGone asid (ctxstat (setState s asid .free) asid), ctxs := fdel s.ctxs asid, lines := s.lines.filter (·.asid != asid)
    bases := s.bases.map fun (b, x) => (b, { x with tlb := x.tlb.filter (·.asid != asid), logs := fdel x.logs asid, roots := fdel x.roots asid }) }

/-! ### Events -/

/-- CONTEXT_BUILD (R351). -/
def execContextBuild (asid : Nat) (s : State) : Out := event (contextBuild asid) s
/-- CONTEXT_START (R359, R408). -/
def execContextStart (asid : Nat) (s : State) : Out := event (contextStart asid) s
/-- CONTEXT_START_WHEN_FREE (R408). -/
def execContextStartWhenFree (asid : Nat) (s : State) : Out := event (contextStartWhenFree asid) s
/-- CONTEXT_PREEMPT (R349, R408). -/
def execContextPreempt (asid : Nat) (s : State) : Out := event (contextPreempt asid) s
/-- CONTEXT_HALT (R349, R360). -/
def execContextHalt (asid : Nat) (s : State) : Out := event (contextHalt asid) s
/-- CONTEXT_RESUME (R349). -/
def execContextResume (asid : Nat) (s : State) : Out := event (contextResume asid) s
/-- CONTEXT_RETIRE (R349). -/
def execContextRetire (asid : Nat) (s : State) : Out := event (contextRetire asid) s
/-- CONTEXT_FREE (R349). -/
def execContextFree (asid : Nat) (s : State) : Out := event (contextFree asid) s
/-- TSLICE_EXPIRY (R349, R360). -/
def execTsliceExpiry (asid : Nat) (s : State) : Out := event (tsliceExpiry asid) s
/-- CONTEXT_CUT (R355). -/
def execContextCut (asid : Nat) (s : State) : Out := event (contextCut asid) s
/-- DRAIN_TIMEOUT (R354). -/
def execDrainTimeout (asid : Nat) (s : State) : Out := event (drainTimeout asid) s
/-- HANDLER_CUT_TIMEOUT (R355). -/
def execHandlerCutTimeout (asid : Nat) (s : State) : Out := event (handlerCutTimeout asid) s
/-- DRAIN_FORWARD (R356). -/
def execDrainForward (asid : Nat) (s : State) : Out := event (drainForward asid) s

end Sys2Proof.Machine
end

