-- ==== Sys2Proof/Machine/Shake.lean ====
section
/-!
DEFINITION. Sys2Proof/Machine/Shake.lean: SHAKE256, with which R411 measures firmware and context descriptors. The spec names it only: the
function is that of FIPS 202, PRESUMED, log 6.
-/
namespace Sys2Proof.Machine

/-- The 25 lanes of the Keccak state; lane (x, y) is at 5 y + x. -/
abbrev Lanes25 := List (BitVec 64)
def lane (a : Lanes25) (x y : Nat) : BitVec 64 := a.getD (5 * (y % 5) + x % 5) 0
def lanes (f : Nat → Nat → BitVec 64) : Lanes25 := (List.range 25).map fun i => f (i % 5) (i / 5)

/-- The rotation offsets of ρ, by lane. -/
def rhoOffsets : List Nat := [0, 1, 62, 28, 27, 36, 44, 6, 55, 20, 3, 10, 43, 25, 39, 41, 45, 15, 21, 8, 18, 2, 61, 56, 14]
/-- One step of the linear feedback register behind the constants of ι. -/
def rcStep (r : Nat) : Nat := let t := r * 2; if t ≥ 256 then t % 256 ^^^ 0x71 else t
/-- Bits 2^j − 1 of a round's constant, from the register on: the constant, and the register after it. -/
def roundBits : List Nat → Nat → Nat → Nat × Nat
  | [], r, c => (c, r)
  | j :: t, r, c => roundBits t (rcStep r) (if r % 2 == 1 then c + 2 ^ (2 ^ j - 1) else c)
/-- One round: θ, ρ and π, χ, ι. -/
def keccakRound (rc : Nat) (a : Lanes25) : Lanes25 :=
  let c (x : Nat) : BitVec 64 := (List.range 5).foldl (fun m y => m ^^^ lane a x y) 0
  let cs := (List.range 5).map c
  let d (x : Nat) : BitVec 64 := cs.getD ((x + 4) % 5) 0 ^^^ (cs.getD ((x + 1) % 5) 0).rotateLeft 1
  let a := lanes fun x y => lane a x y ^^^ d x
  let b := lanes fun x y => let x' := (x + 3 * y) % 5; (lane a x' x).rotateLeft (rhoOffsets.getD (5 * x + x') 0)
  let a := lanes fun x y => lane b x y ^^^ (~~~(lane b (x + 1) y) &&& lane b (x + 2) y)
  lanes fun x y => if x == 0 && y == 0 then lane a 0 0 ^^^ BitVec.ofNat 64 rc else lane a x y
/-- Keccak-f[1600], its rounds counted down. -/
def keccakF : Nat → Nat → Lanes25 → Lanes25
  | 0, _, a => a
  | n + 1, r, a => let (c, r) := roundBits [0, 1, 2, 3, 4, 5, 6] r 0; keccakF n r (keccakRound c a)

/-- The rate of SHAKE256 in bytes. -/
def shakeRate : Nat := 136
/-- Bytes as a number, first byte lowest. -/
def bytesNat (l : List (BitVec 8)) : Nat := l.foldr (fun b m => b.toNat + 256 * m) 0
/-- A block of the rate goes into the state. -/
def absorb (a : Lanes25) (block : Nat) : Lanes25 :=
  keccakF 24 1 (lanes fun x y => if 5 * y + x < 17 then lane a x y ^^^ BitVec.ofNat 64 (block / 2 ^ (64 * (5 * y + x))) else lane a x y)
/-- The whole blocks of a message, and the last one with the suffix 1111 and the padding 10*1. -/
def absorbAll : Nat → List (BitVec 8) → Lanes25 → Lanes25
  | 0, _, a => a
  | n + 1, d, a =>
    if d.length < shakeRate then absorb a ((bytesNat d + 0x1F * 2 ^ (8 * d.length)) ^^^ 2 ^ (8 * shakeRate - 1))
    else absorbAll n (d.drop shakeRate) (absorb a (bytesNat (d.take shakeRate)))
/-- The first 64 bytes of SHAKE256 of a message, the first byte lowest. -/
def shake256 (d : List (BitVec 8)) : BitVec 512 :=
  let a := absorbAll (d.length / shakeRate + 1) d (List.replicate 25 0)
  BitVec.ofNat 512 ((List.range 8).foldr (fun i m => (a.getD i 0).toNat + 2 ^ 64 * m) 0)

end Sys2Proof.Machine
end

