-- ==== Sys2Proof/Machine/Host.lean ====
section
/-!
DEFINITION. Sys2Proof/Machine/Host.lean: the host and the health of the part: MMIO writes (R406 to R409, R412), power and operating points
(R412 to R414), errors and self-tests (R14, R415, R416), host and CXL accesses (R211, R405), quotes (R411), bring-up and FATAL (R417,
R418).
-/
namespace Sys2Proof.Machine

/-! ### Power (R412 to R414) -/

/-- A and I of an operating point (R412). -/
def pointDefaults (p : BitVec 2) : Nat × Nat := if p == 0 then (90000, 16) else if p == 2 then (185000, 30) else (150000, 26)
def resident (s : State) (d : Nat) : Bool :=
  s.groups.any (fun (_, g) => g.state != .saved && g.core / 80 == d) || s.agents.any fun (k, _) => dieOf k == d
/-- A die owns a list of a live kernel whose context is not saved (R164, R165). -/
def ownsList (s : State) (d : Nat) : Bool :=
  s.kernels.any fun (_, k) =>
    k.state != .retired && k.state != .aborted && k.state != .rejected && ctxState s k.asid != .saved &&
    (match ctx? s k.asid with
     | some c => let ds := diesOf c.diemask; ((upFrom 0 (min k.nwl ds.length)).any fun i => ds[i]? == some d)
     | none => false)
/-- The host's requests and doorbells are taken up: after READY and before FATAL (R417, R418). -/
def open_ (s : State) : Bool := s.host.ready && !s.host.fatal
/-- DIE_POWER_OFF (R14, R413): refused, or the L2 is written back and the die is OFF. A change of its point still waits for its interval. -/
def diePowerOff (d : Nat) (s : State) : State :=
  if !open_ s then s else
  let x := dieSt s d
  let refuse (r : Nat) : State := putDie s d { x with req := 0, result := BitVec.ofNat 8 r }
  if x.pstate == 3 then refuse 0
  else if resident s d then refuse 1
  else if x.mash.state != 0 || x.mash.owned then refuse 2
  else if ownsList s d then refuse 3
  else putDie (dropLines s fun l => l.die == d) d { x with req := 0, result := 0, pstate := 0 }
/-- DIE_POWER_ON (R413): the die's cores and counters are reset; a retired die refuses (R415). -/
def diePowerOn (d : Nat) (s : State) : State :=
  if !open_ s then s else
  let x := dieSt s d
  if x.pstate == 3 then putDie s d { x with req := 1, result := 1 }
  else if x.pstate != 0 then putDie s d { x with req := 1, result := 0 }
  else
    let s := (clustersOf d).foldl (fun s cl => putCluster s cl { remaining := x.allow.toNat }) s
    let s := { s with clocks := s.clocks.filter fun (core, _) => core / 80 != d }
    putDie s d { x with req := 1, result := 0, pstate := 1 }
/-- OPERATING_POINT_REQUEST (R413): a change is due at the next interval; the point that the die has already is no change. -/
def operatingPointRequest (d : Nat) (p : BitVec 2) (s : State) : State :=
  let x := dieSt s d
  if p == 3 || !open_ s then s else putDie s d { x with oppt := p, want := if p == x.point then none else some p, result := 0 }
/-- OPERATING_POINT_SWITCH (R412, R413): the point changes with the defaults of A and I. -/
def operatingPointSwitch (d : Nat) (s : State) : State :=
  let x := dieSt s d
  match x.want with
  | none => s
  | some p =>
    let (a, i) := pointDefaults p
    let s := putDie s d { x with point := p, want := none, allow := BitVec.ofNat 24 a, amps := BitVec.ofNat 8 i }
    (clustersOf d).foldl (fun s cl => let y := cluster s cl; if y.admitted == 0 then putCluster s cl { y with remaining := a } else s) s
/-- CONTROL_INTERVAL_START (R260, R412, R413): every cluster's remaining energy is A again, and point changes that wait are due. -/
def controlIntervalStart (s : State) : State :=
  let s := (upFrom 0 (Config.numDies * Config.numClusters)).foldl (fun s cl =>
    putCluster s cl { cluster s cl with remaining := (dieSt s (cl / Config.numClusters)).allow.toNat, admitted := 0, charged := [], admittedBy := [] }) s
  { s with agenda := ((s.dies.filter fun (_, x) => x.want.isSome).map fun (d, _) => Event.operatingPointSwitch d) ++ s.agenda }

/-! ### Register writes (R406) -/

/-- A 32-bit half of a 64-bit register written: `o` is 0 or 4. -/
def putHalf (old v : Nat) (o : Nat) : Nat := if o == 0 then setBitsN old 31 0 v else setBitsN old 63 32 v
/-- A write to CTXREQ (R408): a request with OP 1 to 6; OP 0 and 7 do nothing. -/
def ctxRequest (s : State) (asid op : Nat) : State :=
  match op with
  | 1 => contextBuild asid s
  | 2 => contextStart asid s
  | 3 => contextPreempt asid s
  | 4 => contextHalt asid s
  | 5 => contextResume asid s
  | 6 => contextRetire asid s
  | _ => request op (fun _ s => s) asid s
/-- A write to DIEPWR (R413). -/
def diePower (s : State) (d v : Nat) : State :=
  let s := operatingPointRequest d (BitVec.ofNat 2 (bitsN v 3 2)) s
  match bitsN v 1 0 with | 0 => diePowerOff d s | 1 => diePowerOn d s | _ => s
/-- One aligned 32-bit write to a register that only keeps what is written, at the register's own access rules. -/
def writeReg32 (s : State) (st o v : Nat) : State :=
  let host := st == 0 || st == 15
  let x (port : Nat) : State := let d := dieOnPort st port; putDie s d { dieSt s d with allow := BitVec.ofNat 24 v, amps := BitVec.ofNat 8 (v / 2 ^ 24) }
  if o == 0 then (if host && bitN v 16 then { s with host := { s.host with err := false } } else s)
  else if o == 8 || o == 12 then
    (if host then { s with host := { s.host with ctxdesc := BitVec.ofNat 64 (putHalf s.host.ctxdesc.toNat v (o - 8)) } } else s)
  else if o == 16 then
    (if host then ctxRequest s (v % 4096) (bitsN v 14 12) else s)
  else if o == 0x100 then diePower s (dieOnPort st 0) v
  else if o == 0x108 then diePower s (dieOnPort st 1) v
  else if o == 0x104 then x 0
  else if o == 0x10C then x 1
  else if o == 0x200 then
    let b := base s st; let f := v % 65536
    putBase s st { b with actwin := BitVec.ofNat 16 v, actNow := if b.actNow == b.actwin.toNat then f else max f b.actNow }
  else if host && 0x400000 ≤ o && o < 0x408000 && o % 8 == 0 && bitN v 4 then
    let a := (o - 0x400000) / 8
    modCtx { s with ctxGone := s.ctxGone.map fun (n, x) => (n, if n == a && bitN x 4 then x - 16 else x) } a fun c => { c with sliced := false }
  else s
/-- A write to a doorbell (R234, R235). A 32-bit write gives one half of the new PUSHED, whose other half stays: DESIGN CHOICE, log 86. -/
def doorbell (s : State) (master o n v : Nat) : State :=
  let asid := (o - 0x1000000) / 512; let qid := o % 512 / 8
  let v := if n == 8 then v else putHalf (((queue? s (qkey asid qid)).elim 0 (·.pushed)) % 2 ^ 64) v (o % 8)
  run (execDoorbellWrite master asid qid (BitVec.ofNat 64 v)) s
/-- MMIO_REGISTER_WRITE (R406): aligned writes of 4 or 8 bytes; others are discarded, and one that the window's access table refuses its
master is aborted (R410). -/
def mmioRegisterWrite (master off n v : Nat) (s : State) : State :=
  let st := bitsN off 47 44; let o := off % 2 ^ 44
  if s.host.fatal || !((n == 4 || n == 8) && o % n == 0) || refusedBy s master (255 * 2 ^ 48 + off % 2 ^ 48) .store then s
  else if 0x1000000 ≤ o && o < 0x1200000 then doorbell s master o n (v % 2 ^ (8 * n))
  else
    let s := writeReg32 s st o (v % 2 ^ 32)
    if n == 8 then writeReg32 s st (o + 4) (v / 2 ^ 32 % 2 ^ 32) else s

/-! ### Errors and health (R14, R415, R416) -/

/-- What an uncorrectable error does to its data. -/
def poisonUnit (s : State) (u : EccUnit) : State :=
  match u with
  | .hbm pa => poisonPhys s pa.toNat
  | .vreg k n => modAgent s k fun a => if n < a.nregs then a.setV n { a.vcell n with poison := true } else a
  | .xreg k n => modAgent s k fun a => if isTask k then a.setX n { a.xcell n with poison := true } else a
  | .preg k n => modAgent s k fun a => if a.kind != .task && n < 7 then a.poisonP n else a
  -- BYP has no table mark: its poison is its tile's (R276)
  | .creg cl 0x38 => putEngine s cl { engine s cl with byp := (engine s cl).byp.map fun b => { b with poison := true } }
  | .creg cl n => putEngine s cl { engine s cl with tabMark := fput (engine s cl).tabMark n { code := .regPoison, acc := addAccess 0 0 } }
  | .acc cl n => if n < 8 then putEngine s cl { engine s cl with accPoison := lput (engine s cl).accPoison n } else s
  | .sram core off => { s with poison := lput s.poison (sramWord (sramLoc core off)) }
  | .mash d g => let x := dieSt s d; if x.mash.state == 0 then s else putDie s d { x with mash := { x.mash with poison := lput x.mash.poison g } }
  | .l2 d va => (s.lines.filter fun l => l.die == d && l.va == lineOf va.toNat).foldl (fun s l =>
      poisonPageOf { s with poison := (wordsAt l.pa 128).foldl lput s.poison } l.asid l.va) s
  | .saved asid => if ctxState s asid == .saved then contextError s asid 2 else s
  | .firmware => { s with agenda := s.agenda ++ [.packageFatal] }
  | .link _ => s
  | .mast _ => s
  | .die _ => s
/-- ECC_ERROR (R415). -/
def eccError (u : EccUnit) (correctable : Bool) (s : State) : State :=
  if correctable then logError s u 0 else logError (poisonUnit s u) u 1
/-- Every link of a mast is RETIRED, and the mast leaves service. -/
def retireMast (s : State) (m : Nat) : State :=
  let l := (upFrom 0 384).filter fun n => linkKind n == some (.mast m)
  let s := { s with links := l.foldl (fun x n => fput x n { fgetD x n {} with state := .retired }) s.links }
  { s with agenda := s.agenda ++ if bitN (aliveNow s) m then [.mastRemap m false] else [] }
/-- HEALTH_SELF_TEST (R415): a FENCED link whose fault was transient trains again (R373); a lasting fault is spared, or its unit is retired.
What a retired unit other than a die, a link or a mast does is not said: only its record is made. -/
def healthSelfTest (u : EccUnit) (lasting spared : Bool) (s : State) : State :=
  match u, lasting, spared with
  | .link n, false, _ => run (execLinkSelfTest n false) s
  | _, false, _ => s
  | .link n, true, true => if (link s n).state.serves then loseLane s n 0 false else logError s u 2
  | .link n, true, false => run (execLinkSelfTest n true) (if (link s n).state.serves then fence s n else s)
  | _, true, true => logError s u 2
  | .die d, true, false => logError (putDie (dropLines s fun l => l.die == d) d { dieSt s d with pstate := 3 }) u 3
  | .mast m, true, false => logError (if m < 4 then retireMast s m else s) u 3
  | _, true, false => logError s u 3
/-- DIE_FAILURE (R14): what the die held modified is poisoned at its home, and the die issues nothing more. -/
def dieFailure (d : Nat) (s : State) : State :=
  let held := s.lines.filter fun l => l.die == d && l.dirty
  let s := { s with poison := held.foldl (fun p l => (wordsAt l.pa 128).foldl lput p) s.poison }
  let s := held.foldl (fun s l => poisonPageOf s l.asid l.va) s
  putDie (dropLines s fun l => l.die == d) d { dieSt s d with pstate := 0 }

/-! ### Host and CXL accesses (R211, R405) -/

/-- A write that enters from outside: unchecked, part of the words' modification order, coherent with the die L2s. -/
def outsideWrite (s : State) (pa : Nat) (data : List Byte) : State :=
  let n := data.length
  if n == 0 then s else
  let s := unpoison { s with mem := writeN s.mem pa (ofBytes data) n } pa n
  let s := (upFrom (pa / 128) ((pa + n - 1) / 128 + 1 - pa / 128)).foldl (fun s l => invalidateFor s (128 * l) none) s
  publish s (wordsAt pa n) [] false
/-- What the host writes into a queue's record acts as on the queue window (R232, R233): read-write fields are taken, W1C fields are
cleared where a 1 is written, and read-only fields keep their values. `w` is the record as the write left it, `written` its written bytes. -/
def recordWrite (s : State) (qk : Nat) (w written : Nat) : State :=
  match queue? s qk with
  | none => s
  | some q =>
    let new (hi lo : Nat) : Nat := bitsN w hi lo
    let one (hi lo : Nat) : Nat := if bitN written (lo / 8) then bitsN w hi lo else 0
    let q' := { q with
      ring := BitVec.ofNat 64 (new 63 0), logn := new 68 64, qidf := if new 77 72 == q.qidf.getD q.qid then q.qidf else some (new 77 72)
      hoe := new 79 79 == 1, fen := BitVec.ofNat 5 (new 108 104), bmap := BitVec.ofNat 64 (new 383 320)
      dbe := q.dbe && one 80 80 == 0, flags := q.flags &&& ~~~(BitVec.ofNat 5 (one 100 96)) }
    let s := setQueue s qk q'
    let s := if new 78 78 == 1 && !q.en then run (execQueueEnable qk) s else if new 78 78 == 0 && q.en then run (execQueueDisable qk) s else s
    if one 112 112 == 1 then run (execQueueErrClear qk) s else s
/-- What a record keeps of a host's write where no queue stands behind it: its RW fields, RING, LOGN, QID, EN, HOE, FEN and BMAP (R233). -/
def recordKept (r : Nat) : Nat :=
  bitsN r 63 0 + bitsN r 68 64 * 2 ^ 64 + bitsN r 79 72 * 2 ^ 72 + bitsN r 108 104 * 2 ^ 104 + bitsN r 383 320 * 2 ^ 320
/-- The records of the contexts' queue areas that no queue stands behind: context, identifier, physical address. -/
def bareRecords (s : State) : List (Nat × Nat × Nat) :=
  (s.ctxs.filter fun (_, c) => savedState c.state).flatMap fun (asid, c) =>
    ((upFrom 0 32).filter fun qid => (queue? s (qkey asid qid)).isNone).filterMap fun qid => (devicePa s asid ((c.qarea + 64 * qid) % 2 ^ 64)).map fun pa => (asid, qid, pa)
/-- The host has written into such a record: only its RW fields take the write, and the record of a queue that the context does not have
reads 0 (R434); EN := 1 brings the queue into being, once its context has run (R236). -/
def bareWrite (s : State) (asid qid pa : Nat) : State :=
  match ctx? s asid with
  | none => s
  | some c =>
    let mine := qidOk qid && (qid / 8 != 3 || c.hasDie (qid % 8))
    let r := if mine then recordKept (readN s.mem pa 64) else 0
    let s := { s with mem := writeN s.mem pa r 64 }
    if bitN r 78 && c.state != .built && c.state != .runnable && c.state != .error then run (execQueueEnable (qkey asid qid)) s else s
/-- HOST_HBM_ACCESS (R211, R410): performed at the HBM as an unchecked access; one that an access table refuses, or that
reaches beyond the memory that contexts can map, is aborted (R20). -/
def hostAccess (master pa n : Nat) (data : Option (List Byte)) (s : State) : State :=
  if s.host.fatal || paPkg pa != s.package || pa % 2 ^ 44 + n > mappableEnd || refusedBy s master pa (if data.isSome then .store else .load) then s
  else
    match data with
    | none => s
    | some d =>
      let d := d.take n
      let meets (r : Nat) : Bool := rangesMeet r 64 pa d.length
      let recs := s.queues.filterMap fun (qk, q) => (devicePa s q.asid q.recVa.toNat).bind fun r => if meets r then some (qk, r) else none
      let bare := (bareRecords s).filter fun (_, _, r) => meets r
      let s := outsideWrite s pa d
      let s := recs.foldl (fun s (qk, r) => recordWrite s qk (readN s.mem r 64) (bitmap ((upFrom 0 64).filter fun i => pa ≤ r + i && r + i < pa + d.length))) s
      bare.foldl (fun s (asid, qid, r) => bareWrite s asid qid r) s

/-! ### Quotes, bring-up and stopping (R411, R417, R418) -/

/-- ATTESTATION_QUOTE (R411): the nonce and the measurements, signed. -/
def attestationQuote (nonce : BitVec 256) (s : State) : State :=
  if !s.host.ready then s else
  let fw := shake256 Config.firmware
  let cs := (s.ctxs.filter fun (_, c) => savedState c.state).map fun (a, c) => (a, shake256 (bytesOf c.desc 128))
  let image := pack 512 (nonce.toNat :: fw.toNat :: cs.map fun (a, m) => m.toNat + a)
  { s with quotes := s.quotes ++ [{ nonce := nonce, firmware := fw, contexts := cs, sig := Config.signature image }] }

/-- PACKAGE_RESET (R417): from reset through calibration, memory initialisation and firmware verification to ready, or failed there. Memory
outside the package's HBM is not the package's to initialise; of the access tables, what firmware wrote for contexts goes with them. -/
def packageReset (f : BringUp) (s : State) : State :=
  let up : FMap Link := (upFrom 0 384).map fun n => (n, { state := .up })
  let clean := { State.reset with
    package := s.package, denied := s.denied.filter (·.asid.isNone), mem := s.mem.filter fun (a, _) => paPkg a != s.package }
  let failed (t : State) (code : Byte) : State := { t with host := { stage := 5, fwerr := code } }
  match f with
  | .calibrationFailed => failed { clean with mem := s.mem } 3
  | .memoryFailed => failed { clean with links := up, mem := s.mem } 4
  | .imageUnreadable => failed { clean with links := up } 2
  | .signatureInvalid => failed { clean with links := up } 1
  | .ok degraded =>
    degraded.foldl (fun s (n, faults) =>
      if (linkKind n).isNone then s else
      let l := trainedLink n faults
      let s := putLink s n l
      if l.state == .fenced then fence s n else s)
    { clean with
      links := up, host := { stage := 4, ready := true }
      dies := (upFrom 0 Config.numDies).map fun d => (d, { pstate := 1 }) }
/-- PACKAGE_FATAL (R418); an image that has failed at a later load says so (R411). -/
def packageFatal (image : Bool) (s : State) : State :=
  let h := { s.host with fatal := true, ready := false }
  let s := { s with host := if image then { h with stage := 5, fwerr := 1 } else h }
  (s.ctxs.filter fun (_, c) => c.state == .running || c.state == .cutting).foldl (fun s (a, _) => contextError s a 5) s

/-! ### Events -/

/-- MMIO_REGISTER_WRITE (R406). -/
def execMmioRegisterWrite (off : BitVec 48) (n : Nat) (v : DWord) (s : State) (master : Nat := 0x100) : Out :=
  event (mmioRegisterWrite master off.toNat n v.toNat) s
/-- DIE_POWER_OFF (R413). -/
def execDiePowerOff (d : Nat) (s : State) : Out := event (diePowerOff d) s
/-- DIE_POWER_ON (R413). -/
def execDiePowerOn (d : Nat) (s : State) : Out := event (diePowerOn d) s
/-- OPERATING_POINT_REQUEST (R413). -/
def execOperatingPointRequest (d : Nat) (p : BitVec 2) (s : State) : Out := event (operatingPointRequest d p) s
/-- OPERATING_POINT_SWITCH (R412). -/
def execOperatingPointSwitch (d : Nat) (s : State) : Out := event (operatingPointSwitch d) s
/-- CONTROL_INTERVAL_START (R260). -/
def execControlIntervalStart (s : State) : Out := event controlIntervalStart s
/-- ACTIVATION_WINDOW_ADJUST (R414): longer while the stack draws more than 35 W, back to its floor after. -/
def execActivationWindowAdjust (st : Nat) (above : Bool) (s : State) : Out := event (fun s =>
  let b := base s st; putBase s st { b with actNow := if above then b.actNow + 1 else b.actwin.toNat }) s
/-- ECC_ERROR (R415). -/
def execEccError (u : EccUnit) (correctable : Bool) (s : State) : Out := event (eccError u correctable) s
/-- HEALTH_SELF_TEST (R415). -/
def execHealthSelfTest (u : EccUnit) (lasting spared : Bool) (s : State) : Out := event (healthSelfTest u lasting spared) s
/-- DIE_FAILURE (R14). -/
def execDieFailure (d : Nat) (s : State) : Out := event (dieFailure d) s
/-- HOST_WRITE_INVALIDATE (R405): a write of the host or of a CXL device to host memory, HDM or GFAM invalidates the die-L2 copies before it
completes. -/
def execHostWriteInvalidate (pa : BitVec 56) (data : List Byte) (s : State) : Out := event (fun s =>
  if 240 ≤ paPkg pa.toNat && paPkg pa.toNat ≤ 242 && !s.host.fatal then outsideWrite s pa.toNat data else s) s
/-- BACK_INVALIDATE (R405): the die-L2 copies of an HDM line are written back and dropped. -/
def execBackInvalidate (pa : BitVec 56) (s : State) : Out := event (fun s =>
  if paPkg pa.toNat == 241 then invalidateFor s (lineOf pa.toNat) none else s) s
/-- ATTESTATION_QUOTE (R411). -/
def execAttestationQuote (nonce : BitVec 256) (s : State) : Out := event (attestationQuote nonce) s
/-- PACKAGE_RESET (R417). -/
def execPackageReset (f : BringUp) (s : State) : Out := event (packageReset f) s
/-- PACKAGE_FATAL (R418). -/
def execPackageFatal (s : State) (image : Bool := false) : Out := event (packageFatal image) s
/-- HOST_HBM_ACCESS (R211). -/
def execHostHbmAccess (master : Nat) (pa : BitVec 56) (n : Nat) (data : Option (List Byte)) (s : State) : Out := event (hostAccess master pa.toNat n data) s

end Sys2Proof.Machine
end

