-- ==== Sys2Proof/Machine/Picker.lean ====
section
/-!
DEFINITION. Sys2Proof/Machine/Picker.lean: what comes next: the events that are due, the picker of each issue port (R91 to R95, R107), and the
fetch of a dynamic warp's instruction. Which of several due events comes first is timing: this is the model's schedule (log 1).
-/
namespace Sys2Proof.Machine

/-! ### Thread events -/

/-- THREAD_URGENT (R94): a READY thread whose age has reached 1024. -/
def execThreadUrgent (k : Nat) (s : State) : Out := event (fun s =>
  modAgent s k fun a => if a.state == .ready && a.wait == .none && 1024 ≤ a.age then { a with urgent := true } else a) s
/-- HOLD_TIMEOUT (R95): a thread that has been HELD for 256 cycles becomes READY. -/
def execHoldTimeout (k : Nat) (s : State) : Out := event (fun s =>
  modAgent s k fun a => if a.state == .held && 256 ≤ a.waited then { a with state := .ready, waited := 0 } else a) s
/-- YIELD_EXPIRY (R107): after the 32 cycles that follow its YIELD a thread yields no more. `yielded` counts the YIELD's own cycle too. -/
def execYieldExpiry (k : Nat) (s : State) : Out := event (fun s =>
  modAgent s k fun a => if a.yielding && 33 ≤ a.yielded then { a with yielding := false, yielded := 0 } else a) s

/-- An event means what its row of the opcode table means. -/
def runEvent (e : Event) (s : State) : Out :=
  match e with
  | .threadUrgent k => execThreadUrgent k s
  | .holdTimeout k => execHoldTimeout k s
  | .yieldExpiry k => execYieldExpiry k s
  | .producerCompletion id => execProducerCompletion id s
  | .loadCompletion id => execLoadCompletion id s
  | .rendezvousCompletion k => execRendezvousCompletion k s
  | .mbwaitLimitExpiry k => execMbwaitLimitExpiry k s
  | .qwaitLimitExpiry k => execQwaitLimitExpiry k s
  | .launchEntryHead q => execLaunchEntryHead q s
  | .groupPlacement kern start => execGroupPlacement kern start s
  | .weakGroupSave g => execWeakGroupSave g s
  | .groupRestore g start => execGroupRestore g start s
  | .groupRetirement g => execGroupRetirement g s
  | .kernelRetirement kern => execKernelRetirement kern s
  | .appendArrival id => execAppendArrival id s
  | .quiescence kern => execQuiescence kern s
  | .queueEntryStart q => execQueueEntryStart q s
  | .copyBox q n => execCopyBox q n s
  | .entryCompletion q => execEntryCompletion q s
  | .signalAddition id => execSignalAddition id s
  | .triggerFire id => execTriggerFire id s
  | .triggerEntryPush id => execTriggerEntryPush id s
  | .joinMarkerCompletion q => execJoinMarkerCompletion q s
  | .taskHead q => execTaskHead q s
  | .taskAdmission cl => execTaskAdmission cl s
  | .matrixOperationAccept cl => execMatrixOperationAccept cl s
  | .matrixKStep cl => execMatrixKStep cl s
  | .continuationPush q => execContinuationPush q s
  | .carveEntry q => execCarveEntry q s
  | .carvingComplete die => execCarvingComplete die s
  | .mashOperationEntry q => execMashOperationEntry q s
  | .mashTransferEntry q => execMashTransferEntry q s
  | .msRelEntry q => execMsRelEntry q s
  | .releasingComplete die => execReleasingComplete die s
  | .read id => execRead id s
  | .write id => execWrite id s
  | .atomic id => execAtomic id s
  | .resp id => execResp id s
  | .ack id => execAck id s
  | .marker id => execMarker id s
  | .markerack id => execMarkerack id s
  | .inval id => execInval id s
  | .invalack id => execInvalack id s
  | .fwd id => execFwd id s
  | .fwdans id => execFwdans id s
  | .chunk id outside => execChunk id s outside
  | .fw st msg => execFw st msg s
  | .migrationLineCopy st n => execMigrationLineCopy st n s
  | .migrationSwitch st n => execMigrationSwitch st n s
  | .runEntryStart q => execRunEntryStart q s
  | .nodeCopy q n => execNodeCopy q n s
  | .nodeRadd q n => execNodeRadd q n s
  | .nodeRmax q n => execNodeRmax q n s
  | .nodeGsum q n => execNodeGsum q n s
  | .nodeCmp4 q n => execNodeCmp4 q n s
  | .nodeSend q n => execNodeSend q n s
  | .nodeRecv q n => execNodeRecv q n s
  | .landingGrant q n => execLandingGrant q n s
  | .nodeCompletion q n => execNodeCompletion q n s
  | .runCompletion q => execRunCompletion q s
  | .crcReplay link fails => execCrcReplay link fails s
  | .linkTraining link => execLinkTraining link s
  | .linkTrained link r => execLinkTrained link r s
  | .laneFault link control bundle => execLaneFault link control s bundle
  | .linkSelfTest link lasting => execLinkSelfTest link lasting s
  | .mastRemap mast inService => execMastRemap mast inService s
  | .routeChange st pkg routes => execRouteChange st pkg routes s
  | .frozenRecordAdmit asid => execFrozenRecordAdmit asid s
  | .handlerStart asid => execHandlerStart asid s
  | .handlerBudget k => execHandlerBudget k s
  | .level2Handling die faulted => execLevel2Handling die faulted s
  | .contextBuild asid => execContextBuild asid s
  | .contextStart asid => execContextStart asid s
  | .contextStartWhenFree asid => execContextStartWhenFree asid s
  | .contextPreempt asid => execContextPreempt asid s
  | .contextHalt asid => execContextHalt asid s
  | .contextResume asid => execContextResume asid s
  | .contextRetire asid => execContextRetire asid s
  | .contextFree asid => execContextFree asid s
  | .tsliceExpiry asid => execTsliceExpiry asid s
  | .contextCut asid => execContextCut asid s
  | .drainTimeout asid => execDrainTimeout asid s
  | .handlerCutTimeout asid => execHandlerCutTimeout asid s
  | .drainForward asid => execDrainForward asid s
  | .doorbellWrite master asid q v => execDoorbellWrite master asid q v s
  | .queueEnable q => execQueueEnable q s
  | .queueDisable q => execQueueDisable q s
  | .queueErrClear q => execQueueErrClear q s
  | .diePowerOff die => execDiePowerOff die s
  | .diePowerOn die => execDiePowerOn die s
  | .operatingPointRequest die p => execOperatingPointRequest die p s
  | .operatingPointSwitch die => execOperatingPointSwitch die s
  | .mmioRegisterWrite off bytes v master => execMmioRegisterWrite off bytes v s master
  | .controlIntervalStart => execControlIntervalStart s
  | .activationWindowAdjust st above => execActivationWindowAdjust st above s
  | .eccError unit correctable => execEccError unit correctable s
  | .healthSelfTest unit lasting spared => execHealthSelfTest unit lasting spared s
  | .dieFailure die => execDieFailure die s
  | .hostWriteInvalidate pa data => execHostWriteInvalidate pa data s
  | .backInvalidate pa => execBackInvalidate pa s
  | .attestationQuote nonce => execAttestationQuote nonce s
  | .packageReset failure => execPackageReset failure s
  | .packageFatal image => execPackageFatal s image
  | .discardedFlit link flit => execDiscardedFlit link s flit
  | .hostHbmAccess master pa bytes data => execHostHbmAccess master pa bytes data s

/-! ### The events that are due -/

def whenB (b : Bool) (e : Event) : List Event := if b then [e] else []

/-- The next event of a request (R190, R193, R310, R370). -/
def reqEvents (s : State) (r : Req) : List Event :=
  let perform : List Event :=
    whenB (mayPerform s r || (packetOf s (· ≤ 2) r.id).isSome) (match r.acc.kind with | .load => .read r.id | .store => .write r.id | .rmw => if r.acc.sig then .signalAddition r.id else .atomic r.id)
  match r.stage with
  | .issued => perform
  | .arrived => perform
  | .forwarded => [.fwd r.id]
  | .answered => [.fwdans r.id]
  | .performed => [if !returns r then .ack r.id else if r.acc.scratch then .loadCompletion r.id else .resp r.id]
  | .returned => [.loadCompletion r.id]
def fabricEvents (s : State) : List Event :=
  ((s.prods.filter fun p => (prodValue s p).isSome).map fun p => .producerCompletion p.id) ++ s.reqs.flatMap (reqEvents s) ++
  (s.invals.map fun i => if i.acked then .invalack i.id else .inval i.id) ++
  (s.markers.map fun m => if m.arrived < m.count then .marker m.id else .markerack m.id) ++
  (match s.changes with | e :: _ => whenB (changeReady s e) e | [] => [])

/-- The cycles after which a bounded wait or a hold ends (R95, R226, R251). -/
def limitOf (a : Agent) : Option Nat :=
  match a.wait with
  | .object _ _ n => if n == 0 then none else some (1024 * n)
  | .signal _ _ n => if n == 0 then none else some (1024 * n)
  | _ => if a.state == .held then some 256 else none
def expiry (k : Nat) (a : Agent) : Event :=
  match a.wait with
  | .object _ _ _ => .mbwaitLimitExpiry k
  | .signal _ _ _ => .qwaitLimitExpiry k
  | _ => .holdTimeout k
/-- Parties: a due rendezvous, the end of a yield, urgency. -/
def agentEvents (s : State) : List Event := s.agents.flatMap fun (k, a) =>
  if !ctxIssues s a.asid then [] else
  whenB (rdvDue s k a) (.rendezvousCompletion k) ++
  whenB (a.yielding && 33 ≤ a.yielded) (.yieldExpiry k) ++
  whenB (!a.urgent && 1024 ≤ a.age && a.state == .ready && a.wait == .none) (.threadUrgent k)
/-- Bounded waits whose time is up: last, since what completes in the same cycle is met first (R226, R251). -/
def expiryEvents (s : State) : List Event := s.agents.flatMap fun (k, a) =>
  whenB (ctxIssues s a.asid && (limitOf a).any (· ≤ a.waited)) (expiry k a)

/-- The nodes of a run (R381 to R397). -/
def nodeEvent (s : State) (qk n : Nat) : Option Event :=
  ((running? s qk).bind fun r => fget? r.g.nodes n).bind fun img =>
    match nOp img with
    | 1 => some (.nodeCopy qk n) | 2 => some (.nodeRadd qk n) | 3 => some (.nodeRmax qk n) | 4 => some (.nodeGsum qk n)
    | 5 => some (.nodeCmp4 qk n) | 6 => some (.nodeSend qk n) | 7 => some (.nodeRecv qk n) | _ => none
def stackEvents (s : State) (qk : Nat) : List Event :=
  match stackHead s qk with
  | none => []
  | some (_, h) =>
    match h.run with
    | none => [.runEntryStart qk]
    | some g =>
      (g.ran.map fun (n, _) => Event.nodeCompletion qk n) ++ whenB (runDone s qk) (.runCompletion qk) ++
      g.nodes.flatMap fun (n, img) =>
        whenB (nOp img == 7 && (postRecv s qk n).isSome) (.nodeRecv qk n) ++ whenB (nOp img == 6 && (grant s qk n).isSome) (.landingGrant qk n)
def mashEvents (s : State) (qk : Nat) : List Event :=
  match mashHead s qk with
  | none => []
  | some (_, _, e) =>
    [if e.op == 0x90 then .carveEntry qk else if e.op == 0x9F then .msRelEntry qk
     else if e.op == 0x91 || e.op == 0x92 || e.op == 0x9D || e.op == 0x9E then .mashTransferEntry qk else .mashOperationEntry qk]
/-- Queues and their heads (R237, R238, R252, R259). -/
def queueEvents (s : State) : List Event := s.queues.flatMap fun (qk, q) =>
  whenB (startable s q) (if q.kind == 4 then .taskHead qk else .queueEntryStart qk) ++ whenB (contDue s q) (.continuationPush qk) ++
  match q.head with
  | none => []
  | some h =>
    if h.finished then [.entryCompletion qk]
    else if (entMeta q h.num).marker.isSome then whenB (markerDue s q) (.joinMarkerCompletion qk)
    else match q.kind with
      | 0 => whenB (!h.marked) (.launchEntryHead qk)
      | 1 => (match nextBox s q with | some n => whenB (boxTurn s qk n) (.copyBox qk n) | none => [])
      | 2 => stackEvents s qk
      | 3 => mashEvents s qk
      | _ => []

/-- Kernels, groups, lists and triggers (R159 to R174, R241, R242). -/
def kernelEvents (s : State) : List Event :=
  (s.appends.map fun a => .appendArrival a.id) ++
  (s.trigs.flatMap fun t => whenB (trigDue s t) (.triggerFire t.id) ++ whenB (roomDue s t) (.triggerEntryPush t.id)) ++
  (s.groups.flatMap fun (g, x) => match x.state with
    | .retiring => whenB (groupSettled s g) (.groupRetirement g) | .saved => [.groupRestore g 0] | .resident => []) ++
  s.kernels.flatMap fun (n, k) =>
    whenB (quietDue s n k) (.quiescence n) ++
    match k.state with | .retiring | .retired => [.kernelRetirement n] | .placing | .running => [.groupPlacement n 0] | _ => []

/-- Tasks and the matrix engines (R258, R274, R280). -/
def taskEvents (s : State) : List Event := (upFrom 0 (if s.queues.isEmpty then 0 else Config.numDies * Config.numClusters)).flatMap fun cl =>
  whenB (admitDue s cl) (.taskAdmission cl) ++ whenB (acceptDue s cl) (.matrixOperationAccept cl) ++ whenB (kstepDue s cl) (.matrixKStep cl)

/-- The engines' choices, the beats under way, migrations and mash regions (R288, R289, R320, R321, R395, R397). -/
def dieEvents (s : State) : List Event :=
  (if s.queues.isEmpty then [] else (upFrom 0 Config.numStacks).filterMap fun st => (enginePick s st).bind fun (c, _) => nodeEvent s c.q c.n) ++
  (s.beats.map fun b => .chunk b.id) ++
  (s.bases.flatMap fun (b, x) => ((upFrom 0 x.migs.length).zip x.migs).map fun (n, m) =>
    if 128 * m.copied < m.size then .migrationLineCopy b n else .migrationSwitch b n) ++
  s.dies.flatMap fun (d, x) =>
    whenB (x.mash.state == 1) (.carvingComplete d) ++ whenB (x.mash.state == 4) (.releasingComplete d) ++
    whenB (x.level2.any fun r => (ctx? s r.asid).all (·.recordsMove)) (.level2Handling d false)

/-- Contexts (R329, R330, R349, R355, R408). -/
def contextEvents (s : State) : List Event := s.ctxs.flatMap fun (a, c) =>
  whenB (admitRecDue c) (.frozenRecordAdmit a) ++ whenB (handlerDue s a) (.handlerStart a) ++ whenB (startWaiting s a).isSome (.contextStartWhenFree a) ++
  whenB (freeDue s a) (.contextFree a) ++
  match cutDue s a with
  | some x => if forwards s a && !x.forwarded then [.contextCut a, .drainForward a] else [.contextCut a]
  | none => []

/-- An event that changes something: what it leaves, apart from the counters of fresh numbers, is not what an idle event leaves. -/
def tryEvent (s : State) (e : Event) : Option Out :=
  match runEvent e s with
  | .next t => if { t with nextId := s.nextId, nextUid := s.nextUid, free := s.free } == wakeRetry (noteUpdates s) then none else some (.next t)
  | o => some o

/-- The first due event that changes something. -/
def nextEvent (s : State) : Option Out :=
  let go (l : State → List Event) : Option Out := firstSome (tryEvent s) (l s)
  firstSome go [fabricEvents, agentEvents, queueEvents, kernelEvents, taskEvents, dieEvents, contextEvents, expiryEvents]

/-! ### Inputs (R360) -/

/-- An input that waits for a later one of the same cycle: what ends a context's slice is acted on after a debug halt of it (R360). The
faults of a cycle are taken as it issues, before its inputs. -/
def actsLast (e : Event) (t : List Event) : Bool :=
  match e with
  | .tsliceExpiry n => t.contains (.contextHalt n)
  | .contextPreempt n => t.contains (.contextHalt n)
  | _ => false
/-- The input that is taken first, and those that are left. -/
def firstInput : Event → List Event → Event × List Event
  | e, [] => (e, [])
  | e, x :: t => if actsLast e (x :: t) then let (y, r) := firstInput x t; (y, e :: r) else (e, x :: t)

/-! ### The picker (R92 to R95, R107) -/

/-- The issue port of a party: port p of vector core n is 2n + p (R88); each control core is a port of its own. -/
def portOf (k : Nat) : Nat :=
  if isTask k then 2 * (Config.numDies * Config.numClusters * Config.numVcores) + (k - taskBase) else 2 * coreOf k + warpOf k % 2

/-- A party may issue: READY or STEPPING, its context's units issue, its die is ON. -/
def mayIssue (s : State) (k : Nat) (a : Agent) : Bool :=
  (a.state == .ready || a.state == .stepping) && a.wait == .none && ctxIssues s a.asid && (dieSt s (dieOf k)).pstate == 1

/-- HELD threads without an outstanding sibling are READY again (R95). -/
def releaseHeld (s : State) : State :=
  if !s.agents.any (fun (_, a) => a.state == .held) then s else
  { s with agents := s.agents.map fun (k, a) => (k, if a.state == .held && !hasSibling s k a.pc then { a with state := .ready, waited := 0 } else a) }
/-- Parties that stand at a header enter its block (R35 to R37, R95); of one that could not be read whole the rest is checked as soon as it
can be. -/
def enterBlocks (s : State) : State :=
  let s := (s.agents.filter fun (k, a) => mayIssue s k a && a.entry != .inside).foldl (fun s (k, _) => enterBlock s k) s
  (s.agents.filter fun (k, a) => mayIssue s k a && a.entry == .inside && a.blk.any (·.part)).foldl (fun s (k, _) => recheckBlock s k) s

/-- The words at a party's PC. -/
def fetchAt (s : State) (k : Nat) (a : Agent) : FetchedAll := fetchInstr s (placeOf k a) a.tasid a.pc.toNat
/-- A party whose next instruction's words have been fetched (R92). -/
def pickable (s : State) (k : Nat) (a : Agent) : Bool :=
  mayIssue s k a && a.entry == .inside && (match fetchAt s k a with | .wait => false | _ => true)

/-- Threads that issue together: the PC, whether handlers, and the address space. -/
def sameWarp (a b : Agent) : Bool := a.pc == b.pc && (a.kind == .handler) == (b.kind == .handler) && a.tasid == b.tasid
/-- The older of two threads, the earlier of equals. -/
def older (x y : Nat × Agent) : Nat × Agent := if x.2.age < y.2.age then y else x
def oldest : List (Nat × Agent) → Option (Nat × Agent)
  | [] => none
  | x :: t => some (t.foldl older x)
/-- The distinct lanes of a thread's PC and kind. -/
def laneCount (l : List (Nat × Agent)) (a : Agent) : Nat := ((l.filter fun (_, b) => sameWarp a b).foldl (fun m (k, _) => lput m (laneOf k)) []).length
/-- A thread whose PC and kind the picker prefers to another's: more lanes, then the lower PC, then not a handler (R93 step 2). -/
def preferred (l : List (Nat × Agent)) (x y : Nat × Agent) : Nat × Agent :=
  let n := laneCount l x.2; let m := laneCount l y.2
  if m != n then (if n < m then y else x)
  else if y.2.pc != x.2.pc then (if y.2.pc.toNat < x.2.pc.toNat then y else x)
  else if x.2.kind == .handler && y.2.kind != .handler then y else x
/-- The thread that gives the warp its PC and kind. -/
def leader (l : List (Nat × Agent)) : Option (Nat × Agent) :=
  match oldest (l.filter (·.2.urgent)), l with
  | some x, _ => some x
  | none, [] => none
  | none, x :: t => some (t.foldl (preferred l) x)
/-- The dynamic warp of a port (R93): a stepping party alone (R342), and before any other, urgent ones too: DESIGN CHOICE, log 67; else the
leader's threads, the oldest of each lane. -/
def formWarp (l : List (Nat × Agent)) : List (Nat × Agent) :=
  match l.find? (·.2.state == .stepping) with
  | some x => [x]
  | none =>
    let l := match l.filter (!·.2.yielding) with | [] => l | m => m
    match leader l with
    | none => []
    | some (_, a) =>
      let same := l.filter fun (_, b) => sameWarp a b
      (upFrom 0 32).filterMap fun lane => oldest (same.filter fun (k, _) => laneOf k == lane)

/-- The next port with something to issue, round robin, and its dynamic warp. -/
def pick (s : State) : Option (Nat × List (Nat × Agent)) :=
  let l := s.agents.filter fun (k, a) => pickable s k a
  let ports := l.map fun (k, _) => portOf k
  let low (ps : List Nat) : Option Nat := match ps with | [] => none | p :: t => some (t.foldl min p)
  let port := match low (ports.filter (s.lastPort < ·)) with | some p => some p | none => low ports
  port.map fun p => (p, formWarp (l.filter fun (k, _) => portOf k == p))

/-- Every party of the warp freezes at its fetch. -/
def freezeAll (s : State) (ks : List Nat) (code : FCode) (addr : DWord) : State := ks.foldl (fun s k => freeze s k code { addr := addr }) s

/-- What an issue leaves: the other READY threads of the port age (R94), waits with a bound count, and parties that wait to try again do
so when the warp did more than wait. One issue is one cycle; a control interval is 16384 of them (log 1). -/
def afterIssue (port : Nat) (ks : List Nat) (s : State) : State :=
  let moved := ks.any fun k => match agent? s k with | some a => a.wait != .retry | none => true
  let tick (k : Nat) (a : Agent) : Agent :=
    let mine := ks.contains k
    { a with
      age := if !mine && portOf k == port && a.state == .ready && a.wait == .none then a.age + 1 else a.age
      waited := if (limitOf a).isSome then a.waited + 1 else 0
      yielded := if a.yielding then a.yielded + 1 else 0
      wait := if moved && !mine && a.wait == .retry then .none else a.wait }
  let s := noteUpdates { s with issuing := [], lastPort := port, cycle := s.cycle + 1, agents := s.agents.map fun (k, a) => (k, tick k a) }
  if s.cycle % 16384 == 0 then { s with agenda := s.agenda ++ [.controlIntervalStart] } else s

/-- With nothing to issue, the cycles until a bounded wait, a hold or a yield ends, or the next control interval starts for what waits for
it; none when nothing waits for time. -/
def idleCycles (s : State) : Option Nat :=
  let left := (s.agents.filter fun (_, a) => ctxIssues s a.asid).flatMap fun (_, a) =>
    ((limitOf a).map (· - a.waited)).toList ++ if a.yielding then [33 - a.yielded] else []
  let interval := if s.dies.any (fun (_, x) => x.want.isSome) || s.queues.any fun (_, q) => q.kind == 4 && headWaits q then [16384 - s.cycle % 16384] else []
  match left ++ interval with | [] => none | n :: t => some (t.foldl min n)
/-- Cycles pass with nothing issued. -/
def passTime (n : Nat) (s : State) : State :=
  let tick (a : Agent) : Agent := { a with waited := if (limitOf a).isSome then a.waited + n else 0, yielded := if a.yielding then a.yielded + n else 0 }
  let t := { s with cycle := s.cycle + n, agents := s.agents.map fun (k, a) => (k, tick a) }
  if s.cycle / 16384 != t.cycle / 16384 then { t with agenda := t.agenda ++ [.controlIntervalStart] } else t

end Sys2Proof.Machine
end

