-- ==== Sys2Proof/Machine/Dispatch.lean ====
section
/-!
DEFINITION. Sys2Proof/Machine/Dispatch.lean: the meaning of every row of the opcode table, one arm each.
-/
namespace Sys2Proof.Machine

def exec (i : Instr) (s : State) : Host.Outcome State Fault Refusal :=
  match i with
  | .nopS f => Sys2Proof.Machine.execNopS f s
  | .nop f => Sys2Proof.Machine.execNop f s
  | .movS f => Sys2Proof.Machine.execMovS f s
  | .mov f => Sys2Proof.Machine.execMov f s
  | .movi f => Sys2Proof.Machine.execMovi f s
  | .sel f => Sys2Proof.Machine.execSel f s
  | .iaddS f => Sys2Proof.Machine.execIaddS f s
  | .iadd f => Sys2Proof.Machine.execIadd f s
  | .isubS f => Sys2Proof.Machine.execIsubS f s
  | .isub f => Sys2Proof.Machine.execIsub f s
  | .iaddc f => Sys2Proof.Machine.execIaddc f s
  | .inegS f => Sys2Proof.Machine.execInegS f s
  | .ineg f => Sys2Proof.Machine.execIneg f s
  | .imulS f => Sys2Proof.Machine.execImulS f s
  | .imul f => Sys2Proof.Machine.execImul f s
  | .imulhS f => Sys2Proof.Machine.execImulhS f s
  | .imulh f => Sys2Proof.Machine.execImulh f s
  | .imadS f => Sys2Proof.Machine.execImadS f s
  | .imad f => Sys2Proof.Machine.execImad f s
  | .imadw f => Sys2Proof.Machine.execImadw f s
  | .idiv f => Sys2Proof.Machine.execIdiv f s
  | .irem f => Sys2Proof.Machine.execIrem f s
  | .iminS f => Sys2Proof.Machine.execIminS f s
  | .imin f => Sys2Proof.Machine.execImin f s
  | .imaxS f => Sys2Proof.Machine.execImaxS f s
  | .imax f => Sys2Proof.Machine.execImax f s
  | .iabsS f => Sys2Proof.Machine.execIabsS f s
  | .iabs f => Sys2Proof.Machine.execIabs f s
  | .andS f => Sys2Proof.Machine.execAndS f s
  | .and f => Sys2Proof.Machine.execAnd f s
  | .orS f => Sys2Proof.Machine.execOrS f s
  | .or f => Sys2Proof.Machine.execOr f s
  | .xorS f => Sys2Proof.Machine.execXorS f s
  | .xor f => Sys2Proof.Machine.execXor f s
  | .notS f => Sys2Proof.Machine.execNotS f s
  | .not f => Sys2Proof.Machine.execNot f s
  | .andnS f => Sys2Proof.Machine.execAndnS f s
  | .andn f => Sys2Proof.Machine.execAndn f s
  | .shlS f => Sys2Proof.Machine.execShlS f s
  | .shl f => Sys2Proof.Machine.execShl f s
  | .shrS f => Sys2Proof.Machine.execShrS f s
  | .shr f => Sys2Proof.Machine.execShr f s
  | .sarS f => Sys2Proof.Machine.execSarS f s
  | .sar f => Sys2Proof.Machine.execSar f s
  | .rotS f => Sys2Proof.Machine.execRotS f s
  | .rot f => Sys2Proof.Machine.execRot f s
  | .shfS f => Sys2Proof.Machine.execShfS f s
  | .shf f => Sys2Proof.Machine.execShf f s
  | .popcS f => Sys2Proof.Machine.execPopcS f s
  | .popc f => Sys2Proof.Machine.execPopc f s
  | .clzS f => Sys2Proof.Machine.execClzS f s
  | .clz f => Sys2Proof.Machine.execClz f s
  | .ctzS f => Sys2Proof.Machine.execCtzS f s
  | .ctz f => Sys2Proof.Machine.execCtz f s
  | .brevS f => Sys2Proof.Machine.execBrevS f s
  | .brev f => Sys2Proof.Machine.execBrev f s
  | .bfe f => Sys2Proof.Machine.execBfe f s
  | .bfi f => Sys2Proof.Machine.execBfi f s
  | .prmt f => Sys2Proof.Machine.execPrmt f s
  | .lea f => Sys2Proof.Machine.execLea f s
  | .iset f => Sys2Proof.Machine.execIset f s
  | .idp4 f => Sys2Proof.Machine.execIdp4 f s
  | .faddS f => Sys2Proof.Machine.execFaddS f s
  | .fadd f => Sys2Proof.Machine.execFadd f s
  | .fsubS f => Sys2Proof.Machine.execFsubS f s
  | .fsub f => Sys2Proof.Machine.execFsub f s
  | .fmulS f => Sys2Proof.Machine.execFmulS f s
  | .fmul f => Sys2Proof.Machine.execFmul f s
  | .ffmaS f => Sys2Proof.Machine.execFfmaS f s
  | .ffma f => Sys2Proof.Machine.execFfma f s
  | .fminS f => Sys2Proof.Machine.execFminS f s
  | .fmin f => Sys2Proof.Machine.execFmin f s
  | .fmaxS f => Sys2Proof.Machine.execFmaxS f s
  | .fmax f => Sys2Proof.Machine.execFmax f s
  | .fset f => Sys2Proof.Machine.execFset f s
  | .fclass f => Sys2Proof.Machine.execFclass f s
  | .frnd f => Sys2Proof.Machine.execFrnd f s
  | .fscl f => Sys2Proof.Machine.execFscl f s
  | .daddS f => Sys2Proof.Machine.execDaddS f s
  | .dadd f => Sys2Proof.Machine.execDadd f s
  | .dmulS f => Sys2Proof.Machine.execDmulS f s
  | .dmul f => Sys2Proof.Machine.execDmul f s
  | .dfmaS f => Sys2Proof.Machine.execDfmaS f s
  | .dfma f => Sys2Proof.Machine.execDfma f s
  | .dset f => Sys2Proof.Machine.execDset f s
  | .hfma2S f => Sys2Proof.Machine.execHfma2S f s
  | .hfma2 f => Sys2Proof.Machine.execHfma2 f s
  | .hadd2S f => Sys2Proof.Machine.execHadd2S f s
  | .hadd2 f => Sys2Proof.Machine.execHadd2 f s
  | .hmul2S f => Sys2Proof.Machine.execHmul2S f s
  | .hmul2 f => Sys2Proof.Machine.execHmul2 f s
  | .fcvt f => Sys2Proof.Machine.execFcvt f s
  | .f2i f => Sys2Proof.Machine.execF2i f s
  | .i2f f => Sys2Proof.Machine.execI2f f s
  | .qnt f => Sys2Proof.Machine.execQnt f s
  | .dqnt f => Sys2Proof.Machine.execDqnt f s
  | .pack f => Sys2Proof.Machine.execPack f s
  | .unpk f => Sys2Proof.Machine.execUnpk f s
  | .rcp f => Sys2Proof.Machine.execRcp f s
  | .rsq f => Sys2Proof.Machine.execRsq f s
  | .sqrt f => Sys2Proof.Machine.execSqrt f s
  | .ex2 f => Sys2Proof.Machine.execEx2 f s
  | .lg2 f => Sys2Proof.Machine.execLg2 f s
  | .sin f => Sys2Proof.Machine.execSin f s
  | .cos f => Sys2Proof.Machine.execCos f s
  | .tanh f => Sys2Proof.Machine.execTanh f s
  | .fdivS f => Sys2Proof.Machine.execFdivS f s
  | .fdiv f => Sys2Proof.Machine.execFdiv f s
  | .ddiv f => Sys2Proof.Machine.execDdiv f s
  | .dsqrt f => Sys2Proof.Machine.execDsqrt f s
  | .plog f => Sys2Proof.Machine.execPlog f s
  | .pmov f => Sys2Proof.Machine.execPmov f s
  | .flrd f => Sys2Proof.Machine.execFlrd f s
  | .flclr f => Sys2Proof.Machine.execFlclr f s
  | .movs f => Sys2Proof.Machine.execMovs f s
  | .clk f => Sys2Proof.Machine.execClk f s
  | .wid f => Sys2Proof.Machine.execWid f s
  | .setpart f => Sys2Proof.Machine.execSetpart f s
  | .vote f => Sys2Proof.Machine.execVote f s
  | .shfl f => Sys2Proof.Machine.execShfl f s
  | .tred f => Sys2Proof.Machine.execTred f s
  | .tscan f => Sys2Proof.Machine.execTscan f s
  | .tsync f => Sys2Proof.Machine.execTsync f s
  | .bra f => Sys2Proof.Machine.execBra f s
  | .brc f => Sys2Proof.Machine.execBrc f s
  | .jmp f => Sys2Proof.Machine.execJmp f s
  | .call f => Sys2Proof.Machine.execCall f s
  | .calli f => Sys2Proof.Machine.execCalli f s
  | .retS f => Sys2Proof.Machine.execRetS f s
  | .ret f => Sys2Proof.Machine.execRet f s
  | .exitS f => Sys2Proof.Machine.execExitS f s
  | .exit f => Sys2Proof.Machine.execExit f s
  | .yieldS f => Sys2Proof.Machine.execYieldS f s
  | .yield f => Sys2Proof.Machine.execYield f s
  | .trap f => Sys2Proof.Machine.execTrap f s
  | .bkpt f => Sys2Proof.Machine.execBkpt f s
  | .ldS f => Sys2Proof.Machine.execLdS f s
  | .ld f => Sys2Proof.Machine.execLd f s
  | .stS f => Sys2Proof.Machine.execStS f s
  | .st f => Sys2Proof.Machine.execSt f s
  | .ldsS f => Sys2Proof.Machine.execLdsS f s
  | .lds f => Sys2Proof.Machine.execLds f s
  | .stsS f => Sys2Proof.Machine.execStsS f s
  | .sts f => Sys2Proof.Machine.execSts f s
  | .ldlS f => Sys2Proof.Machine.execLdlS f s
  | .ldl f => Sys2Proof.Machine.execLdl f s
  | .stlS f => Sys2Proof.Machine.execStlS f s
  | .stl f => Sys2Proof.Machine.execStl f s
  | .atom f => Sys2Proof.Machine.execAtom f s
  | .atoms f => Sys2Proof.Machine.execAtoms f s
  | .red f => Sys2Proof.Machine.execRed f s
  | .fence f => Sys2Proof.Machine.execFence f s
  | .pref f => Sys2Proof.Machine.execPref f s
  | .append f => Sys2Proof.Machine.execAppend f s
  | .wltake f => Sys2Proof.Machine.execWltake f s
  | .launch f => Sys2Proof.Machine.execLaunch f s
  | .trdy f => Sys2Proof.Machine.execTrdy f s
  | .cpy f => Sys2Proof.Machine.execCpy f s
  | .cpyt f => Sys2Proof.Machine.execCpyt f s
  | .gsum f => Sys2Proof.Machine.execGsum f s
  | .qsig f => Sys2Proof.Machine.execQsig f s
  | .qwait f => Sys2Proof.Machine.execQwait f s
  | .qfence f => Sys2Proof.Machine.execQfence f s
  | .trig f => Sys2Proof.Machine.execTrig f s
  | .taskpush f => Sys2Proof.Machine.execTaskpush f s
  | .cgrun f => Sys2Proof.Machine.execCgrun f s
  | .carve f => Sys2Proof.Machine.execCarve f s
  | .msLdt f => Sys2Proof.Machine.execMsLdt f s
  | .msStt f => Sys2Proof.Machine.execMsStt f s
  | .msAdd f => Sys2Proof.Machine.execMsAdd f s
  | .msSub f => Sys2Proof.Machine.execMsSub f s
  | .msMul f => Sys2Proof.Machine.execMsMul f s
  | .msMulc f => Sys2Proof.Machine.execMsMulc f s
  | .msLog f => Sys2Proof.Machine.execMsLog f s
  | .msCmp f => Sys2Proof.Machine.execMsCmp f s
  | .msSel f => Sys2Proof.Machine.execMsSel f s
  | .msSet f => Sys2Proof.Machine.execMsSet f s
  | .msCpy f => Sys2Proof.Machine.execMsCpy f s
  | .msShr f => Sys2Proof.Machine.execMsShr f s
  | .msRsum f => Sys2Proof.Machine.execMsRsum f s
  | .msCmpt f => Sys2Proof.Machine.execMsCmpt f s
  | .msRel f => Sys2Proof.Machine.execMsRel f s
  | .barSync f => Sys2Proof.Machine.execBarSync f s
  | .barArv f => Sys2Proof.Machine.execBarArv f s
  | .barWait f => Sys2Proof.Machine.execBarWait f s
  | .mbinit f => Sys2Proof.Machine.execMbinit f s
  | .mbarv f => Sys2Proof.Machine.execMbarv f s
  | .mbwait f => Sys2Proof.Machine.execMbwait f s
  | .mbtest f => Sys2Proof.Machine.execMbtest f s
  | .mbdrop f => Sys2Proof.Machine.execMbdrop f s
  | .capRdr f => Sys2Proof.Machine.execCapRdr f s
  | .capWrr f => Sys2Proof.Machine.execCapWrr f s
  | .capRds f => Sys2Proof.Machine.execCapRds f s
  | .capSetpc f => Sys2Proof.Machine.execCapSetpc f s
  | .capRes f => Sys2Proof.Machine.execCapRes f s
  | .capKill f => Sys2Proof.Machine.execCapKill f s
  | .capStep f => Sys2Proof.Machine.execCapStep f s
  | .capArv f => Sys2Proof.Machine.execCapArv f s
  | .capRel f => Sys2Proof.Machine.execCapRel f s
  | .capNext f => Sys2Proof.Machine.execCapNext f s
  | .pginv f => Sys2Proof.Machine.execPginv f s
  | .pgmig f => Sys2Proof.Machine.execPgmig f s
  | .tfmt f => Sys2Proof.Machine.execTfmt f s
  | .tct f => Sys2Proof.Machine.execTct f s
  | .tcfg f => Sys2Proof.Machine.execTcfg f s
  | .tzero f => Sys2Proof.Machine.execTzero f s
  | .mma f => Sys2Proof.Machine.execMma f s
  | .mmac f => Sys2Proof.Machine.execMmac f s
  | .mmab f => Sys2Proof.Machine.execMmab f s
  | .tmac f => Sys2Proof.Machine.execTmac f s
  | .tdrn f => Sys2Proof.Machine.execTdrn f s
  | .tdrnb f => Sys2Proof.Machine.execTdrnb f s
  | .twait f => Sys2Proof.Machine.execTwait f s
  | .tflg f => Sys2Proof.Machine.execTflg f s
  | .endt f => Sys2Proof.Machine.execEndt f s
  | .threadUrgent k => Sys2Proof.Machine.execThreadUrgent k s
  | .holdTimeout k => Sys2Proof.Machine.execHoldTimeout k s
  | .yieldExpiry k => Sys2Proof.Machine.execYieldExpiry k s
  | .producerCompletion id => Sys2Proof.Machine.execProducerCompletion id s
  | .loadCompletion id => Sys2Proof.Machine.execLoadCompletion id s
  | .rendezvousCompletion k => Sys2Proof.Machine.execRendezvousCompletion k s
  | .mbwaitLimitExpiry k => Sys2Proof.Machine.execMbwaitLimitExpiry k s
  | .qwaitLimitExpiry k => Sys2Proof.Machine.execQwaitLimitExpiry k s
  | .launchEntryHead q => Sys2Proof.Machine.execLaunchEntryHead q s
  | .groupPlacement kern start => Sys2Proof.Machine.execGroupPlacement kern start s
  | .weakGroupSave g => Sys2Proof.Machine.execWeakGroupSave g s
  | .groupRestore g start => Sys2Proof.Machine.execGroupRestore g start s
  | .groupRetirement g => Sys2Proof.Machine.execGroupRetirement g s
  | .kernelRetirement kern => Sys2Proof.Machine.execKernelRetirement kern s
  | .appendArrival id => Sys2Proof.Machine.execAppendArrival id s
  | .quiescence kern => Sys2Proof.Machine.execQuiescence kern s
  | .queueEntryStart q => Sys2Proof.Machine.execQueueEntryStart q s
  | .copyBox q n => Sys2Proof.Machine.execCopyBox q n s
  | .entryCompletion q => Sys2Proof.Machine.execEntryCompletion q s
  | .signalAddition id => Sys2Proof.Machine.execSignalAddition id s
  | .triggerFire id => Sys2Proof.Machine.execTriggerFire id s
  | .triggerEntryPush id => Sys2Proof.Machine.execTriggerEntryPush id s
  | .joinMarkerCompletion q => Sys2Proof.Machine.execJoinMarkerCompletion q s
  | .taskHead q => Sys2Proof.Machine.execTaskHead q s
  | .taskAdmission cl => Sys2Proof.Machine.execTaskAdmission cl s
  | .matrixOperationAccept cl => Sys2Proof.Machine.execMatrixOperationAccept cl s
  | .matrixKStep cl => Sys2Proof.Machine.execMatrixKStep cl s
  | .continuationPush q => Sys2Proof.Machine.execContinuationPush q s
  | .carveEntry q => Sys2Proof.Machine.execCarveEntry q s
  | .carvingComplete die => Sys2Proof.Machine.execCarvingComplete die s
  | .mashOperationEntry q => Sys2Proof.Machine.execMashOperationEntry q s
  | .mashTransferEntry q => Sys2Proof.Machine.execMashTransferEntry q s
  | .msRelEntry q => Sys2Proof.Machine.execMsRelEntry q s
  | .releasingComplete die => Sys2Proof.Machine.execReleasingComplete die s
  | .read id => Sys2Proof.Machine.execRead id s
  | .write id => Sys2Proof.Machine.execWrite id s
  | .atomic id => Sys2Proof.Machine.execAtomic id s
  | .resp id => Sys2Proof.Machine.execResp id s
  | .ack id => Sys2Proof.Machine.execAck id s
  | .marker id => Sys2Proof.Machine.execMarker id s
  | .markerack id => Sys2Proof.Machine.execMarkerack id s
  | .inval id => Sys2Proof.Machine.execInval id s
  | .invalack id => Sys2Proof.Machine.execInvalack id s
  | .fwd id => Sys2Proof.Machine.execFwd id s
  | .fwdans id => Sys2Proof.Machine.execFwdans id s
  | .chunk id outside => Sys2Proof.Machine.execChunk id s outside
  | .fw st msg => Sys2Proof.Machine.execFw st msg s
  | .migrationLineCopy st n => Sys2Proof.Machine.execMigrationLineCopy st n s
  | .migrationSwitch st n => Sys2Proof.Machine.execMigrationSwitch st n s
  | .runEntryStart q => Sys2Proof.Machine.execRunEntryStart q s
  | .nodeCopy q n => Sys2Proof.Machine.execNodeCopy q n s
  | .nodeRadd q n => Sys2Proof.Machine.execNodeRadd q n s
  | .nodeRmax q n => Sys2Proof.Machine.execNodeRmax q n s
  | .nodeGsum q n => Sys2Proof.Machine.execNodeGsum q n s
  | .nodeCmp4 q n => Sys2Proof.Machine.execNodeCmp4 q n s
  | .nodeSend q n => Sys2Proof.Machine.execNodeSend q n s
  | .nodeRecv q n => Sys2Proof.Machine.execNodeRecv q n s
  | .landingGrant q n => Sys2Proof.Machine.execLandingGrant q n s
  | .nodeCompletion q n => Sys2Proof.Machine.execNodeCompletion q n s
  | .runCompletion q => Sys2Proof.Machine.execRunCompletion q s
  | .crcReplay link fails => Sys2Proof.Machine.execCrcReplay link fails s
  | .linkTraining link => Sys2Proof.Machine.execLinkTraining link s
  | .linkTrained link r => Sys2Proof.Machine.execLinkTrained link r s
  | .laneFault link control bundle => Sys2Proof.Machine.execLaneFault link control s bundle
  | .linkSelfTest link lasting => Sys2Proof.Machine.execLinkSelfTest link lasting s
  | .mastRemap mast inService => Sys2Proof.Machine.execMastRemap mast inService s
  | .routeChange st pkg routes => Sys2Proof.Machine.execRouteChange st pkg routes s
  | .frozenRecordAdmit asid => Sys2Proof.Machine.execFrozenRecordAdmit asid s
  | .handlerStart asid => Sys2Proof.Machine.execHandlerStart asid s
  | .handlerBudget k => Sys2Proof.Machine.execHandlerBudget k s
  | .level2Handling die faulted => Sys2Proof.Machine.execLevel2Handling die faulted s
  | .contextBuild asid => Sys2Proof.Machine.execContextBuild asid s
  | .contextStart asid => Sys2Proof.Machine.execContextStart asid s
  | .contextStartWhenFree asid => Sys2Proof.Machine.execContextStartWhenFree asid s
  | .contextPreempt asid => Sys2Proof.Machine.execContextPreempt asid s
  | .contextHalt asid => Sys2Proof.Machine.execContextHalt asid s
  | .contextResume asid => Sys2Proof.Machine.execContextResume asid s
  | .contextRetire asid => Sys2Proof.Machine.execContextRetire asid s
  | .contextFree asid => Sys2Proof.Machine.execContextFree asid s
  | .tsliceExpiry asid => Sys2Proof.Machine.execTsliceExpiry asid s
  | .contextCut asid => Sys2Proof.Machine.execContextCut asid s
  | .drainTimeout asid => Sys2Proof.Machine.execDrainTimeout asid s
  | .handlerCutTimeout asid => Sys2Proof.Machine.execHandlerCutTimeout asid s
  | .drainForward asid => Sys2Proof.Machine.execDrainForward asid s
  | .doorbellWrite master asid q v => Sys2Proof.Machine.execDoorbellWrite master asid q v s
  | .queueEnable q => Sys2Proof.Machine.execQueueEnable q s
  | .queueDisable q => Sys2Proof.Machine.execQueueDisable q s
  | .queueErrClear q => Sys2Proof.Machine.execQueueErrClear q s
  | .diePowerOff die => Sys2Proof.Machine.execDiePowerOff die s
  | .diePowerOn die => Sys2Proof.Machine.execDiePowerOn die s
  | .operatingPointRequest die p => Sys2Proof.Machine.execOperatingPointRequest die p s
  | .operatingPointSwitch die => Sys2Proof.Machine.execOperatingPointSwitch die s
  | .mmioRegisterWrite off bytes v master => Sys2Proof.Machine.execMmioRegisterWrite off bytes v s master
  | .controlIntervalStart => Sys2Proof.Machine.execControlIntervalStart s
  | .activationWindowAdjust st above => Sys2Proof.Machine.execActivationWindowAdjust st above s
  | .eccError unit correctable => Sys2Proof.Machine.execEccError unit correctable s
  | .healthSelfTest unit lasting spared => Sys2Proof.Machine.execHealthSelfTest unit lasting spared s
  | .dieFailure die => Sys2Proof.Machine.execDieFailure die s
  | .hostWriteInvalidate pa data => Sys2Proof.Machine.execHostWriteInvalidate pa data s
  | .backInvalidate pa => Sys2Proof.Machine.execBackInvalidate pa s
  | .attestationQuote nonce => Sys2Proof.Machine.execAttestationQuote nonce s
  | .packageReset failure => Sys2Proof.Machine.execPackageReset failure s
  | .packageFatal image => Sys2Proof.Machine.execPackageFatal s image
  | .discardedFlit link flit => Sys2Proof.Machine.execDiscardedFlit link s flit
  | .hostHbmAccess master pa bytes data => Sys2Proof.Machine.execHostHbmAccess master pa bytes data s

end Sys2Proof.Machine
end

