-- ==== Sys2Proof/Machine/Step.lean ====
section
/-!
DEFINITION. Sys2Proof/Machine/Step.lean: one step: the agenda's first event (R360), else a due event, else one dynamic warp's instruction, else the
passing of time (log 1); and the placing of one instruction where the next step fetches it (log 12).
-/
namespace Sys2Proof.Machine

/-- The core whose decoder reads a party's words. -/
def coreOfAgent (a : Agent) : Core := if a.kind == .task then .control else .vector

/-- A dynamic warp issues the instruction at its PC (R92, R93): fetched, decoded and executed for each of its parties. -/
def issueWarp (port : Nat) (w : List (Nat × Agent)) (s : State) : Out :=
  match w with
  | [] => .next s
  | (k, a) :: t =>
    let ks := k :: t.map (·.1)
    match fetchAt s k a with
    | .wait => .next s
    | .absent v => .next (afterIssue port ks (freezeAll s ks .pageFaultFetch (BitVec.ofNat 64 v)))
    | .prot v => .next (afterIssue port ks (freezeAll s ks .protection (BitVec.ofNat 64 v)))
    | .words ws s =>
      match decode (coreOfAgent a) ws with
      | .ok i _ =>
        match exec i { s with issuing := ks } with
        | .next u => .next (afterIssue port ks u)
        | o => o
      | _ => .next (afterIssue port ks (freezeAll s ks .illegalOpcode 0))

/-- What a step does when no event is due: a warp issues, or time passes. -/
def issueNext (s : State) : Out :=
  let s' := enterBlocks (releaseHeld (boundaryMarkers s))
  match pick s' with
  | some (p, w) => issueWarp p w s'
  | none => if s' == s then .next (match idleCycles s with | some n => passTime n s | none => s) else .next s'

/-- One step of the part. -/
def step (s : State) : Host.Outcome State Fault Refusal :=
  match s.agenda with
  | e :: t => let (e, t) := firstInput e t; runEvent e { s with agenda := t }
  | [] =>
    if s.host.fatal then .fault .packageStopped
    else if s.host.stage == 0 then runEvent (.packageReset (.ok [])) s
    else
      match nextEvent s with
      | some o => o
      | none => issueNext s

/-! ### Placing an instruction -/

/-- Where `withFetchWord` puts its block: virtual address, and the 4 GiB page that maps it. -/
def testVa : Nat := 0x1000
def testPage : Nat := 0x100000000
def testTable : Nat := 0x20000
/-- Context 1: this package alone, die 0, everything else at its least. -/
def testCtx : Ctx :=
  { desc := 1 + 0x01 * 2 ^ 16 + 1 * 2 ^ 24 + 1 * 2 ^ 32 + 31 * 2 ^ 44 + 4 * 2 ^ 49 + 12 * 2 ^ 54 + 4 * 2 ^ 58 + 0x40000000 * 2 ^ 192 + 2 ^ 576, state := .running }
/-- The party that issues: a thread, a handler thread for a handler's instruction, or a task for one of the control core alone. -/
def testParty (ws : List Word) : Nat × Agent :=
  let a : Agent := { kind := .thread, uid := 1, asid := 1, tasid := 1, nregs := 256, pc := BitVec.ofNat 64 testVa, rstk := 1024 }
  match decode .vector ws with
  | .ok i _ => if (i.op?).any isHandlerOnly then (2016, { a with kind := .handler }) else (0, a)
  | _ => match decode .control ws with | .ok _ _ => (taskBase, { a with kind := .task, nregs := 32 }) | _ => (0, a)

/-- `s` with an instruction in a block of its own, at which one party of a running context stands, and nothing else to do. -/
def State.withFetchWord (s : State) (nbits w : Nat) : State :=
  let ws := tableWords nbits w; let len := lengthOf (ws.headD 0)
  let pa := testPage + testVa
  let mem := writeN s.mem pa (0xC0000000 + len * 2 ^ 20 + 2 + 2 ^ 64 * w) (8 + 4 * len)
  let mem := writeN mem testTable (2 ^ 63 + (testTable + 0x1000)) 8
  let mem := writeN mem (testTable + 0x1000) (2 ^ 63 + 2 ^ 62 + testPage + 0xF980) 8
  { s with
    agenda := [], issuing := [], mem := mem, agents := [testParty ws], fabric := [], denied := [], reqs := [], prods := [], markers := [], invals := [], kernels := [], groups := []
    appends := [], queues := [], trigs := [], beats := [], changes := [], ctxs := [(1, testCtx)], dies := [(0, { pstate := 1 })]
    bases := [(0, { roots := [(1, (testTable, testTable + 0x2000))] })], host := { s.host with ready := true, fatal := false, stage := 4 } }

end Sys2Proof.Machine
end

