-- ==== Sys2Proof/Safety.lean ====
section
/-!
DEFINITION. Sys2Proof/Safety.lean: what counts as a safe run, and the terms that the statements use: when a party's instruction passes every
check of R43, where it then stands, what registers it wrote, and what of the part it left alone.
-/
namespace Sys2Proof.Machine

/-- One step leads from a state to the next. -/
def Steps (s t : State) : Prop := step s = .next t
/-- A state from which the part goes on. -/
def Safe (s : State) : Prop := ∃ t, Steps s t

/-- The canonical form of both memories, and of the scratchpad that saved groups keep. -/
def MemoryOk (s : State) : Prop := Memory.wf s.mem = true ∧ Memory.wf s.sram = true

/-! ### When an instruction passes its checks -/

/-- The checks of R43 for operation `o` with fields `f`, issued by party `k` alone, which stands as `a`: where it may run, register
ranges, a full and unpoisoned guard that is true, no freeze due, sources and destination ready, budgets not spent. -/
structure Clear (o : Op) (f : FormL) (s : State) (k : Nat) (a : Agent) : Prop where
  alone : s.issuing = [k]
  here  : agent? s k = some a
  legal : illegalHere s a o f.mod = false
  range : a.kind = .task ∨ (beyond a.nregs (o.shape .vector f.mod).a f.a.toNat = false ∧
            (f.b.isLit = true ∨ beyond a.nregs (o.shape .vector f.mod).b (bNum f) = false) ∧
            beyond a.nregs (o.shape .vector f.mod).c f.c.toNat = false ∧ beyond a.nregs (o.shape .vector f.mod).d f.dst.toNat = false)
  full  : a.pready f.g.toNat = true
  clean : f.g.toNat = 7 ∨ a.ppoison.getLsbD f.g.toNat = false
  guard : a.pval f.g.toNat = !f.gn
  due   : dueFreeze a o f.mod = none
  regs  : askAll a (o.shape (coreOfAgent a) f.mod) o f = .ok
  budget : a.caps.find? (fun (_, c) => c.valid && c.budget == 0) = none

/-- What the instruction's own execution sees: its party, its fields and the values of its operands. -/
def ctxOf (o : Op) (f : FormL) (len : Nat) (s : State) (k : Nat) (a : Agent) : Ctx' :=
  let sh := o.shape (coreOfAgent a) f.mod
  { s := s, k := k, a := a, f := f, len := len, va := a.value sh.a f.a.toNat,
    vb := match f.b with | .lit w => literal sh.lit w.toNat | .reg n _ => a.value sh.b n.toNat
    vc := a.value sh.c f.c.toNat, vd := a.value sh.d f.dst.toNat }
/-- Form S: the same operation with the defaults of R29, one word long. -/
def ctxOfS (o : Op) (f : FormS) (s : State) (k : Nat) (a : Agent) : Ctx' := ctxOf o (f.expand (issuingCore s) o) 4 s k a
def ClearS (o : Op) (f : FormS) (s : State) (k : Nat) (a : Agent) : Prop := Clear o (f.expand (issuingCore s) o) s k a

/-! ### What an instruction leaves -/

/-- The components of a state. -/
inductive Part where
  | sched | ids | free | clusters | clocks | mem | sram | poison | tags | rels | lines | invals | fabric | reqs | prods | markers | kernels | groups
  | csets | lists | appends | queues | trigs | beats | ctxs | gone | bases | dies | links | host | tables | msi | quotes
  deriving DecidableEq, Repr

/-- A group but for its progress count, and a context but for its frozen queue: issuing an instruction counts in the one, and a party that
was stepping may enter the other (R342, R354). -/
def Group.fixed (g : Group) : Group := { g with issued := 0 }
def Ctx.fixed (c : Ctx) : Ctx := { c with fq := [], parked := [] }

/-- One component is the same in two states. -/
def Same (s u : State) : Part → Prop
  | .sched => u.agenda = s.agenda ∧ u.issuing = s.issuing ∧ u.lastPort = s.lastPort ∧ u.cycle = s.cycle ∧ u.package = s.package
  | .ids => u.nextId = s.nextId ∧ u.nextUid = s.nextUid
  | .free => u.free = s.free
  | .clusters => u.clusters = s.clusters
  | .clocks => u.clocks = s.clocks
  | .mem => u.mem = s.mem
  | .sram => u.sram = s.sram
  | .poison => u.poison = s.poison
  | .tags => u.tags = s.tags
  | .rels => u.rels = s.rels
  | .lines => u.lines = s.lines ∧ u.plru = s.plru
  | .invals => u.invals = s.invals
  | .fabric => u.fabric = s.fabric
  | .reqs => u.reqs = s.reqs
  | .prods => u.prods = s.prods
  | .markers => u.markers = s.markers
  | .kernels => u.kernels = s.kernels
  | .groups => ∀ g, (group? u g).map Group.fixed = (group? s g).map Group.fixed
  | .csets => u.csets = s.csets
  | .lists => u.lists = s.lists
  | .appends => u.appends = s.appends
  | .queues => u.queues = s.queues
  | .trigs => u.trigs = s.trigs
  | .beats => u.beats = s.beats
  | .ctxs => ∀ n, (ctx? u n).map Ctx.fixed = (ctx? s n).map Ctx.fixed
  | .gone => u.ctxGone = s.ctxGone
  | .bases => u.bases = s.bases
  | .dies => u.dies = s.dies
  | .links => u.links = s.links ∧ u.changes = s.changes
  | .host => u.host = s.host
  | .tables => u.denied = s.denied
  | .msi => u.msi = s.msi
  | .quotes => u.quotes = s.quotes
/-- Only the components listed may differ. -/
def Only (l : List Part) (s u : State) : Prop := ∀ p, p ∉ l → Same s u p

/-- Everything of a party but where it stands, whether it waits and for how long, its region's number, how far its accesses have been performed, its
capabilities with the record that MOVS shows of C0, and its frozen record with the length of the instruction that it froze at. -/
def Agent.core (a : Agent) : Agent :=
  { a with state := .ready, wait := .none, pc := 0, entry := .inside, age := 0, waited := 0, urgent := false, region := 0, record := none, caps := [],
           lastC0 := none, stopLen := 8, top := 0 }
/-- The parties that are not listed keep what they hold, and stand where they stood. -/
def Others (ks : List Nat) (s u : State) : Prop :=
  ∀ j, j ∉ ks → (agent? u j).map (fun a => (a.core, a.pc)) = (agent? s j).map (fun a => (a.core, a.pc))

/-- Party `k`, which stood as `a` at an instruction of `len` bytes, now stands as `b` at the next one (R36), waiting for nothing. -/
structure Passed (len : Nat) (a : Agent) (u : State) (k : Nat) (b : Agent) : Prop where
  here : agent? u k = some b
  pc   : b.pc = (advance a a.pc (a.pc + BitVec.ofNat 64 len)).pc
  wait : b.wait = .none

/-- An instruction completes for its party: it stands at the next instruction, only the listed components changed, no other party did, and
`P` holds of the state and of the party after it. -/
def Moves (c : Ctx') (out : Out) (l : List Part) (P : State → Agent → Prop) : Prop :=
  ∃ u b, out = .next u ∧ Passed c.len c.a u c.k b ∧ Only l c.s u ∧ Others [c.k] c.s u ∧ P u b
/-- An event happens, or an instruction has an effect that is more than its party's. -/
def Happens (out : Out) (P : State → Prop) : Prop := ∃ u, out = .next u ∧ P u

/-- Form L or X of an instruction completes for every clear party that meets `H`. -/
def Does (i : FormL → Instr) (o : Op) (H : Ctx' → Prop) (l : List Part) (P : Ctx' → State → Agent → Prop) : Prop :=
  ∀ f s k a, Clear o f s k a → let c := ctxOf o f (lenOf f) s k a; H c → Moves c (exec (i f) s) l (P c)
/-- Form S of an instruction does. -/
def DoesS (i : FormS → Instr) (o : Op) (H : Ctx' → Prop) (l : List Part) (P : Ctx' → State → Agent → Prop) : Prop :=
  ∀ f s k a, ClearS o f s k a → let c := ctxOfS o f s k a; H c → Moves c (exec (i f) s) l (P c)

/-! ### Registers after an instruction -/

/-- Vector registers after a write of `n` registers from `r`, low word first; V255 keeps reading 0 (R45). -/
def WroteV (a b : Agent) (r n x : Nat) : Prop :=
  ∀ m, b.vcell m = if r ≠ 255 ∧ r ≤ m ∧ m < r + n ∧ m < 255 then { val := BitVec.ofNat 32 (x / 2 ^ (32 * (m - r))) } else a.vcell m
/-- X registers after a write of register `r`; X0 keeps reading 0 (R50). -/
def WroteX (a b : Agent) (r x : Nat) : Prop :=
  ∀ m, b.xcell m = if m = r ∧ r ≠ 0 ∧ r < 32 then { val := BitVec.ofNat 64 x } else a.xcell m
/-- Predicates after a write of predicate `r`, which is full and clean then; a write to P7 is discarded (R42, R111). -/
def WroteP (a b : Agent) (r : Nat) (x : Bool) : Prop :=
  ∀ m, b.pval m = (if m = r ∧ r < 7 then x else a.pval m) ∧ b.pready m = (if m = r ∧ r < 7 then true else a.pready m) ∧
    b.ppoison.getLsbD m = (if m = r ∧ r < 7 then false else a.ppoison.getLsbD m)
/-- The registers named are emptied, for a producer or a load (R39). -/
def EmptiedV (a b : Agent) (r n : Nat) : Prop :=
  ∀ m, b.vcell m = if r ≠ 255 ∧ r ≤ m ∧ m < r + n ∧ m < 255 then { a.vcell m with full := false, mark := none, poison := false } else a.vcell m
def EmptiedX (a b : Agent) (r : Nat) : Prop :=
  ∀ m, b.xcell m = if m = r ∧ r ≠ 0 ∧ r < 32 then { a.xcell m with full := false, mark := none, poison := false } else a.xcell m
def SameV (a b : Agent) : Prop := ∀ m, b.vcell m = a.vcell m
def SameX (a b : Agent) : Prop := ∀ m, b.xcell m = a.xcell m
def SameP (a b : Agent) : Prop := b.preds = a.preds ∧ b.pfull = a.pfull ∧ b.ppoison = a.ppoison
/-- The predicate named is emptied, for a producer. -/
def EmptiedP (a b : Agent) (r : Nat) : Prop :=
  ∀ m, b.pval m = a.pval m ∧ b.pready m = (if m = r ∧ r < 7 then false else a.pready m) ∧
    b.ppoison.getLsbD m = (if m = r ∧ r < 7 then false else a.ppoison.getLsbD m)
/-- What a party holds beside its registers, predicates and flags is the same. -/
def SameRest (a b : Agent) : Prop :=
  { b.core with v := [], x := [], preds := 0, pfull := 0, ppoison := 0, fl := 0 } = { a.core with v := [], x := [], preds := 0, pfull := 0, ppoison := 0, fl := 0 }

/-- A result of integer TYPE `t` in DST: registers on a vector core; on the control core one X register, a 32-bit result sign-extended for
the signed TYPEs and zero-extended otherwise (R50, R124). -/
def WroteTy (a b : Agent) (d t x : Nat) : Prop :=
  if a.kind = .task then
    WroteX a b d (if tyBits t = 64 then x else if tySigned t then sext 32 64 x else x % 2 ^ 32) ∧ SameV a b
  else WroteV a b d (tyRegs t) x ∧ SameX a b
/-- A delivery target has been written, or emptied. -/
def WroteD (a b : Agent) (d : Dst) (x : Nat) : Prop :=
  match d with
  | .v r n => WroteV a b r n x ∧ SameX a b ∧ SameP a b
  | .x r => WroteX a b r x ∧ SameV a b ∧ SameP a b
  | .p r => WroteP a b r (x % 2 == 1) ∧ SameV a b ∧ SameX a b
  | _ => SameV a b ∧ SameX a b ∧ SameP a b
def EmptiedD (a b : Agent) (d : Dst) : Prop :=
  match d with
  | .v r n => EmptiedV a b r n ∧ SameX a b ∧ SameP a b
  | .x r => EmptiedX a b r ∧ SameV a b ∧ SameP a b
  | .p r => EmptiedP a b r ∧ SameV a b ∧ SameX a b
  | _ => SameV a b ∧ SameX a b ∧ SameP a b

/-- An instruction writes a result of TYPE `t` and value `x` to its destination, ORs flags into FL, and leaves everything else. -/
def Writes (i : FormL → Instr) (o : Op) (t x : Ctx' → Nat) (fl : Ctx' → BitVec 5) : Prop :=
  Does i o (fun _ => True) [] fun c _ b => WroteTy c.a b c.f.dst.toNat (t c) (x c) ∧ SameP c.a b ∧ b.fl = c.a.fl ||| fl c ∧ SameRest c.a b
def WritesS (i : FormS → Instr) (o : Op) (t x : Ctx' → Nat) (fl : Ctx' → BitVec 5) : Prop :=
  DoesS i o (fun _ => True) [] fun c _ b => WroteTy c.a b c.f.dst.toNat (t c) (x c) ∧ SameP c.a b ∧ b.fl = c.a.fl ||| fl c ∧ SameRest c.a b
/-- A predicate result, in the same way. -/
def Decides (i : FormL → Instr) (o : Op) (r : Ctx' → Bool) (fl : Ctx' → BitVec 5) : Prop :=
  Does i o (fun _ => True) [] fun c _ b => WroteP c.a b c.f.dst.toNat (r c) ∧ SameV c.a b ∧ SameX c.a b ∧ b.fl = c.a.fl ||| fl c ∧ SameRest c.a b

/-- An arithmetic producer: its destination is emptied, and a completion with its value and flags is in flight (R39, R153). -/
def Made (c : Ctx') (u : State) (b : Agent) (d : Dst) (x : Nat) (fl : BitVec 5) : Prop :=
  u.prods = c.s.prods ++ [{ id := c.s.nextId, key := c.k, uid := c.a.uid, dst := d, value := x, flags := fl }] ∧
  EmptiedD c.a b d ∧ b.fl = c.a.fl ∧ SameRest c.a b
def Produces (i : FormL → Instr) (o : Op) (d : Ctx' → Dst) (x : Ctx' → Nat) (fl : Ctx' → BitVec 5) : Prop :=
  Does i o (fun _ => True) [.ids, .prods] fun c u b => Made c u b (d c) (x c) (fl c)

/-- A floating-point result: the registers of TYPE `t`, the flags ORed into FL, and everything else as it was. -/
def Floats (i : FormL → Instr) (o : Op) (t : Ctx' → Nat) (r : Ctx' → Nat × BitVec 5) : Prop :=
  Does i o (fun _ => True) [] fun c _ b => WroteV c.a b c.f.dst.toNat (tyRegs (t c)) (r c).1 ∧ SameX c.a b ∧ SameP c.a b ∧
    b.fl = c.a.fl ||| (r c).2 ∧ SameRest c.a b
def FloatsS (i : FormS → Instr) (o : Op) (t : Ctx' → Nat) (r : Ctx' → Nat × BitVec 5) : Prop :=
  DoesS i o (fun _ => True) [] fun c _ b => WroteV c.a b c.f.dst.toNat (tyRegs (t c)) (r c).1 ∧ SameX c.a b ∧ SameP c.a b ∧
    b.fl = c.a.fl ||| (r c).2 ∧ SameRest c.a b
def ProducesS (i : FormS → Instr) (o : Op) (d : Ctx' → Dst) (x : Ctx' → Nat) (fl : Ctx' → BitVec 5) : Prop :=
  DoesS i o (fun _ => True) [.ids, .prods] fun c u b => Made c u b (d c) (x c) (fl c)
/-- An integer result under TYPE `t`: its w-bit pattern, clamped to the type's range first when SAT is set (R125). -/
def fitted (t : Nat) (sat : Bool) (z : Int) : Nat :=
  let w := tyBits t
  let lo : Int := if tySigned t then -(2 ^ (w - 1) : Nat) else 0
  let hi : Int := if tySigned t then (2 ^ (w - 1) : Nat) - 1 else (2 ^ w : Nat) - 1
  ((if sat then max lo (min hi z) else z) % (2 ^ w : Nat)).toNat

/-! ### Waiting, transferring, being guarded off, asking memory -/

/-- The instruction does not complete: its party waits as `w` says and holds what it held; nothing else changes. -/
def Waits (c : Ctx') (out : Out) (w : Wait) : Prop := out = .next (putAgent c.s c.k { c.a with wait := w, age := 0, urgent := false })
/-- The instruction freezes its party where it stands, with the length of the instruction kept for what resumes it (R43, R108). -/
def Faults (c : Ctx') (out : Out) (code : FCode) (i : FInfo) : Prop :=
  out = .next (freeze (putAgent c.s c.k { c.a with stopLen := c.len }) c.k code i)
/-- The instruction transfers its party to `t` (R35); beside what `P` says only the listed components change. -/
def Goes (c : Ctx') (out : Out) (l : List Part) (t : DWord) (P : State → Agent → Prop) : Prop :=
  ∃ u b, out = .next u ∧ agent? u c.k = some b ∧ b.pc = t ∧ b.entry = .jump c.a.pc ∧ b.wait = .none ∧ Only l c.s u ∧ Others [c.k] c.s u ∧ P u b
/-- A transfer to `t` lands, in a state whose memory and translations are those of `u`: the target is aligned, and a fetch finds a header there,
having marked the leaf and filled the home's TLB (R305, R308), or finds no readable word, which is met at the target. -/
def Lands (s : State) (p : Place) (asid t : Nat) (u : State) : Prop :=
  t % 8 = 0 ∧ ((u = s ∧ ∀ w v, fetchWord s p asid t ≠ .word w v) ∨ ∃ w, fetchWord s p asid t = .word w u ∧ isHeader w = true)
/-- The checks of R43 up to a full and unpoisoned guard that is false. -/
structure GuardedOff (o : Op) (f : FormL) (s : State) (k : Nat) (a : Agent) : Prop where
  alone : s.issuing = [k]
  here  : agent? s k = some a
  legal : illegalHere s a o f.mod = false
  range : a.kind = .task ∨ (beyond a.nregs (o.shape .vector f.mod).a f.a.toNat = false ∧
            (f.b.isLit = true ∨ beyond a.nregs (o.shape .vector f.mod).b (bNum f) = false) ∧
            beyond a.nregs (o.shape .vector f.mod).c f.c.toNat = false ∧ beyond a.nregs (o.shape .vector f.mod).d f.dst.toNat = false)
  full  : a.pready f.g.toNat = true
  clean : f.g.toNat = 7 ∨ a.ppoison.getLsbD f.g.toNat = false
  guard : a.pval f.g.toNat = f.gn
/-- A party's registers, predicates, flags and the rest of what it holds are the same. -/
def Kept (a b : Agent) : Prop := b.core = a.core
/-- What a party holds beside its registers, predicates, flags, sequence number and relaxed accesses. -/
def Agent.bare (a : Agent) : Agent := { a.core with v := [], x := [], preds := 0, pfull := 0, ppoison := 0, fl := 0, seq := 0, relaxed := [] }
/-- One request has entered, with the party's sequence number and an access of which `q` holds; the registers it is to fill are emptied. -/
def Requested (c : Ctx') (u : State) (b : Agent) (d : Dst) (q : Access → Prop) : Prop :=
  ∃ r, u.reqs = c.s.reqs ++ [r] ∧ r.seq = c.a.seq ∧ r.who = whoOf c.k c.a ∧ r.stage = .issued ∧ q r.acc ∧
    EmptiedD c.a b d ∧ b.fl = c.a.fl ∧ b.seq = c.a.seq + 1 ∧ b.bare = c.a.bare
/-- Nothing of the party's is outstanding: no relaxed access waits for a fence, and every request has been performed at SYS scope (R213). -/
def Settled (c : Ctx') : Prop := c.a.relaxed = [] ∧ allPerformed c.s c.a.uid = true

/-! ### What a matrix operation needs (R266, R270, R271, R276, R278) -/

/-- A tile operand is aligned, and so is its row stride, which spans the row; with no stride the rows follow one another. -/
def TileOk (t n : Nat) : Prop := tileOff t % 16 = 0 ∧ (bitsN t 43 32 = 0 ∨ (bitsN t 43 32 % 16 = 0 ∧ n ≤ bitsN t 43 32))
/-- Ranges of scratchpad lie in the task's window. -/
def Ctx'.inWindow (c : Ctx') (l : List (Nat × Nat)) : Prop :=
  ∀ x ∈ l, ∃ cs, csetOf c.s c.a = some cs ∧ Machine.inWindow c.s cs x.1 x.2 = true
/-- The descriptors, tables and views that an operation names are loaded and not faulted. -/
def Ctx'.tabsReady (c : Ctx') (opc a : Nat) : Prop :=
  tabAsk c.s (engine c.s (clusterOf c.k)) c.a.uid (seqRec c opc a c.vb c.vc []).names = .ok
/-- A multiply with tile operand `a` may enter the engine, naming the ranges `ext`: tables, a row of R270 for its formats, descriptors, tiles, a
view or BYP where it has one, and the window. -/
def Ctx'.multiplies (c : Ctx') (opc a : Nat) (ext : List (Bool × Nat × Nat)) : Prop :=
  let e := engine c.s (clusterOf c.k); let f := c.vc; let m := c.f.mod; let n := stepsOf opc m; let acct := modBits m 1 0
  let v := viewOf (fgetD e.cv (c.f.a.toNat - 0x2C) 0)
  let first := if opc = 0xC6 then modBits m 5 4 else 0
  ∃ k, kPerStep (fmA f) (fmB f) acct = some k ∧
    let bytes (fmt : Nat) : Nat := k * n * fmtWidth fmt / 8
    let ranges := (match aSource opc m with
      | 0 => tileExt a (bytes (fmA f)) (fmA f) acct (k * n) | 1 => [(v.base, v.bytes (fmtWidth (fmA f)))] | _ => []) ++
      tileExt c.vb (bytes (fmB f)) (fmB f) acct (k * n)
    c.tabsReady opc a ∧
    (∀ x ∈ [sideA e f, sideB e f], (isNf x.fmt = true → x.nf.valid x.fmt = true) ∧ (x.cmp = true → acct = 0 ∧ 4 ≤ x.fmt ∧ x.fmt ≤ 12)) ∧
    TileOk c.vb (bytes (fmB f)) ∧
    (match aSource opc m with
      | 0 => TileOk a (bytes (fmA f))
      | 1 => v.base % 16 = 0 ∧ 0 ∉ [v.c, v.w, v.h, v.nb, v.kh, v.kw, v.oh, v.ow] ∧ v.c * fmtWidth (fmA f) % 8 = 0
      | 2 => (∃ d, bypTag e = some (fmA f, d) ∧ (isNf (fmA f) = true → d = e.nfAt (bitsN f 10 8))) ∧ first * k < 32 ∧
          (if k < 32 then n * k ≤ 32 else n = 1)
      | _ => True) ∧
    c.inWindow ranges ∧ ext = ranges.map fun x => (false, x.1, x.2)

/-! ### Memory after an instruction -/

/-- Every byte of memory, or of scratchpad, outside the places named reads as before, where memory was in its canonical form. -/
def MemBut (s u : State) (p : Nat → Prop) : Prop := MemoryOk s → ∀ a, ¬ p a → Memory.get u.mem a = Memory.get s.mem a
def SramBut (s u : State) (p : Nat → Prop) : Prop := MemoryOk s → ∀ a, ¬ p a → Memory.get u.sram a = Memory.get s.sram a
/-- The bytes of a device write at a virtual address, as the state translates it, and those of the leaf entry that it marks as used (R305). -/
def deviceBytes (s : State) (asid va n : Nat) (a : Nat) : Prop :=
  (∃ pa, devicePa s asid va = some pa ∧ pa ≤ a ∧ a < pa + n) ∨
  ∃ ad e ea size, classify s asid va = some ad ∧ findLeaf s asid ad = .leaf e ea size ∧ ea ≤ a ∧ a < ea + 8

/-- A TASK queue stands in a slot, where its ring is (R434). -/
def Queue.inPlace (q : Queue) : Prop := q.kind = 4 → q.state ≠ .saved
/-- One entry has been pushed (R234, R236): the device writes its image and a status word of 0 in the ring's next slot, then the record with
PUSHED, and ACTIVE for an IDLE queue; memory elsewhere is the same. -/
def Pushed (s u : State) (qk img : Nat) (m : EntryMeta) (q : Queue) : Prop :=
  let q' := { q with ents := fput q.ents q.pushed m, pushed := q.pushed + 1 }.woken
  let s1 := deviceWrite s q.asid (q.slotVa q.pushed) 64 img
  let s2 := deviceWrite s1 q.asid (q.statusVa q.pushed) 4 0
  queue? u qk = some q' ∧ (∀ j, j ≠ qk → queue? u j = queue? s j) ∧ u.mem = (deviceWrite s2 q.asid q.recVa.toNat 64 q'.image).mem ∧
  MemBut s u fun a => deviceBytes s q.asid (q.slotVa q.pushed) 64 a ∨ deviceBytes s1 q.asid (q.statusVa q.pushed) 4 a ∨
    deviceBytes s2 q.asid q.recVa.toNat 64 a
/-- The region tag stores have room for an access on these words, or hold them already: no region ends early (R202). -/
def TagsFit (s : State) (ws : List Nat) : Prop :=
  ∀ w ∈ ws, (fget? s.tags w).isSome = true ∨ (s.tags.filter fun t => tagStore t.1 == tagStore w).length + ws.length ≤ tagCap
/-- An event happens, and what has changed lets waiting parties look again (R241, R251): the state that it leads to is `t`. -/
def Enters (out : Out) (t : State) : Prop := out = .next (wakeRetry (noteUpdates t))
/-- A message of a kind reaches its goal: it crosses no link, or it is on the last one of its path, nothing is before it there, and its flit
leaves the fabric (R371, R374). -/
def Delivered (s : State) (kind id : Nat) (msg : Packet) (v : State) : Prop :=
  (packetOf s (· == kind) id = none ∧ msg.path = [] ∧ v = s) ∨
  ∃ p, packetOf s (· == kind) id = some p ∧ p.path.length ≤ 1 ∧ mayLeave s p = true ∧ v = takeOff s p id
/-- A message of a kind that has not reached its goal is sent once its first link has room, and then crosses link after link. -/
def Crosses (s : State) (kind id : Nat) (msg : Packet) (out : Out) : Prop :=
  (packetOf s (· == kind) id = none → msg.path ≠ [] → Enters out (if roomAt s msg then send s msg else s)) ∧
  ∀ p, packetOf s (· == kind) id = some p → 1 < p.path.length → Enters out ((forward s p).getD s)

end Sys2Proof.Machine
end

