-- ==== Sys2Proof/Certificates/Slice0/Obligations.lean ====
section
/-!
DEFINITION. Sys2Proof/Certificates/Slice0/Obligations.lean: the statements for the provers, from the numbered rules of the spec.
-/

open Sys2Proof Sys2Proof.Machine

/-! ### Decoding and encoding -/

/-- Words written out from R26 to R28 and the opcode maps decode to what they stand for: NOP_S, @!P2 IADD.I64 V6, V4, V2, MOVI V3 with its
literal, FFMA.F32, TZERO ACC2; a header and a reserved opcode are no instruction. -/
def Obligations.WordsDecode : Prop :=
  decodeTableWord 32 0x00000007 = some (.nopS { dst := 0, a := 0, b := 0, ba := false, bb := false, g := 7 }) ∧
  decodeTableWord 64 0x0200200041018114 =
    some (.iadd { dst := 6, a := 4, g := 2, gn := true, ba := false, b := .reg 2 false, c := 0, bc := false, mod := 0x2000 }) ∧
  decodeTableWord 96 0xDEADBEEF000000008080C038 =
    some (.movi { dst := 3, a := 0, g := 7, gn := false, ba := false, b := .lit 0xDEADBEEF, c := 0, bc := false, mod := 0 }) ∧
  decodeTableWord 64 0x010240004CC0C038 =
    some (.ffma { dst := 3, a := 0, g := 7, gn := false, ba := false, b := .reg 1 false, c := 2, bc := false, mod := 0x4000 }) ∧
  decodeTableWord 64 0x70CC8038 =
    some (.tzero { dst := 0x32, a := 0, g := 7, gn := false, ba := false, b := .reg 0 false, c := 0, bc := false, mod := 0 }) ∧
  decode .vector [0xC0000000#32, 0] = .header ∧ decode .vector [0x49400038#32, 0] = .illegal

/-- Every well-formed instruction of either core decodes from its own words, whatever follows them.
What decodes is well formed, and its words are the ones decoded: each word has one meaning. -/
def Obligations.DecodeEncode : Prop :=
  (∀ (core : Core) (i : Instr) (rest : List Word), i.wellFormed core = true → decode core (encode i ++ rest) = .ok i (encode i).length) ∧
  (∀ (core : Core) (ws : List Word) (i : Instr) (n : Nat), decode core ws = .ok i n → i.wellFormed core = true ∧ encode i = ws.take n)

/-! ### Stepping -/

/-- A step with nothing due runs the instruction at the PC of the warp it picks: with its agenda empty, bring-up over, no event due and a
warp chosen, a step is `exec` of the instruction whose words stand at the first party's PC, for the warp's parties, followed by the
passing of one issue. Before the pick, the markers that ended regions still owe are sent (R202), and parties enter their blocks.
A party whose words decode to nothing takes ILLEGAL_OPCODE; words on an absent or forbidden page fault as fetches do. -/
def Obligations.StepRunsDecoded : Prop :=
  (∀ (s : State) (port k : Nat) (a : Agent) (t : List (Nat × Agent)) (ws : List Word) (u : State) (i : Instr) (n : Nat),
    s.agenda = [] → s.host.fatal = false → s.host.stage ≠ 0 → nextEvent s = none →
    let s' := enterBlocks (releaseHeld (boundaryMarkers s))
    pick s' = some (port, (k, a) :: t) → fetchAt s' k a = .words ws u → decode (coreOfAgent a) ws = .ok i n →
    let ks := k :: t.map (·.1)
    step s = match exec i { u with issuing := ks } with
      | .next v => .next (afterIssue port ks v)
      | .fault f => .fault f
      | .refused r => .refused r) ∧
  (∀ (s : State) (port k : Nat) (a : Agent) (t : List (Nat × Agent)),
    s.agenda = [] → s.host.fatal = false → s.host.stage ≠ 0 → nextEvent s = none →
    let s' := enterBlocks (releaseHeld (boundaryMarkers s))
    let ks := k :: t.map (·.1)
    pick s' = some (port, (k, a) :: t) →
      (∀ ws u, fetchAt s' k a = .words ws u → (∀ i n, decode (coreOfAgent a) ws ≠ .ok i n) →
        step s = .next (afterIssue port ks (freezeAll u ks .illegalOpcode 0))) ∧
      (∀ va, fetchAt s' k a = .absent va → step s = .next (afterIssue port ks (freezeAll s' ks .pageFaultFetch (BitVec.ofNat 64 va)))) ∧
      (∀ va, fetchAt s' k a = .prot va → step s = .next (afterIssue port ks (freezeAll s' ks .protection (BitVec.ofNat 64 va)))))

/-- A step never refuses, and it faults only where the package has stopped: FATAL with nothing left on the agenda (R418). -/
def Obligations.StepGoesOn : Prop :=
  ∀ s : State, (∃ t, step s = .next t) ∨ (step s = .fault .packageStopped ∧ s.host.fatal = true ∧ s.agenda = [])

/-- What reset leaves: STAGE 0, READY, FATAL and FWERR 0, every context FREE, no thread, task or request, no poison, no denial; every die in its
reset power registers, every link DOWN, every mash region free, and every byte of memory and scratchpad 0. Memory, the links' numbers and the
empty access tables are the model's choices (logs 8, 10, 25). -/
def Obligations.ResetState : Prop :=
  let s := State.reset
  (s.host.stage = 0 ∧ s.host.ready = false ∧ s.host.fatal = false ∧ s.host.fwerr = 0 ∧ s.host.busy = false) ∧
  (∀ n, ctx? s n = none) ∧ (∀ k, agent? s k = none) ∧ s.reqs = [] ∧ s.fabric = [] ∧ s.prods = [] ∧ s.poison = [] ∧ s.denied = [] ∧ s.msi = [] ∧
  (∀ d, (dieSt s d).req = 1 ∧ (dieSt s d).oppt = 1 ∧ (dieSt s d).pstate = 0 ∧ (dieSt s d).result = 0 ∧ (dieSt s d).mash.state = 0) ∧
  (∀ n, (link s n).state = .down) ∧ (∀ b, (base s b).routes = [] ∧ (base s b).tlb = []) ∧
  (∀ a, Memory.get s.mem a = 0 ∧ Memory.get s.sram a = 0) ∧ MemoryOk s

/-! ### Integer instructions -/

/-- The exact integer results of R128, R129 and R138, wrapped or clamped under TYPE and SAT (R125): IADD, ISUB, INEG, IMUL, IMULH, IMAD, IMIN,
IMAX, IABS in forms S, L and X, and IDP4. -/
def Obligations.IntegerArithmetic : Prop :=
  let ty (c : Ctx') : Nat := modTy c.f.mod
  let a (c : Ctx') : Int := asInt (ty c) c.va
  let b (c : Ctx') : Int := asInt (ty c) c.vb
  let d (c : Ctx') : Int := asInt (ty c) c.vc
  let out (z : Ctx' → Int) (c : Ctx') : Nat := fitted (ty c) (modBit c.f.mod 9) (z c)
  let byte (sg : Bool) (x i : Nat) : Int := let v := x / 2 ^ (8 * i) % 256; if sg && 128 ≤ v then (v : Int) - 256 else v
  let none (_ : Ctx') : BitVec 5 := 0
  let both (i : FormL → Instr) (j : FormS → Instr) (o : Op) (z : Ctx' → Int) : Prop := Writes i o ty (out z) none ∧ WritesS j o ty (out z) none
  both .iadd .iaddS .iadd (fun c => a c + b c) ∧ both .isub .isubS .isub (fun c => a c - b c) ∧ both .ineg .inegS .ineg (fun c => - a c) ∧
  both .imul .imulS .imul (fun c => a c * b c) ∧ both .imulh .imulhS .imulh (fun c => a c * b c / 2 ^ tyBits (ty c)) ∧
  both .imad .imadS .imad (fun c => a c * b c + d c) ∧ both .imin .iminS .imin (fun c => min (a c) (b c)) ∧
  both .imax .imaxS .imax (fun c => max (a c) (b c)) ∧ both .iabs .iabsS .iabs (fun c => |a c|) ∧
  Writes .idp4 .idp4 ty (out fun c => d c + (byte (modBit c.f.mod 0) c.va 0 * byte (modBit c.f.mod 1) c.vb 0 +
    byte (modBit c.f.mod 0) c.va 1 * byte (modBit c.f.mod 1) c.vb 1 + byte (modBit c.f.mod 0) c.va 2 * byte (modBit c.f.mod 1) c.vb 2 +
    byte (modBit c.f.mod 0) c.va 3 * byte (modBit c.f.mod 1) c.vb 3)) none

/-- The bitwise operations of R128 on w-bit patterns: AND, OR, XOR, NOT, ANDN in forms S, L and X.
The counts of R128, written to one 32-bit register or one X register whatever the TYPE (R127): set bits, leading zeros, trailing zeros; and
BREV, whose bit i is bit w − 1 − i. In forms S and L. -/
def Obligations.BitwiseOperations : Prop :=
  (let ty (c : Ctx') : Nat := modTy c.f.mod
  let w (c : Ctx') : Nat := tyBits (ty c)
  let none (_ : Ctx') : BitVec 5 := 0
  let both (i : FormL → Instr) (j : FormS → Instr) (o : Op) (z : Ctx' → Nat) : Prop := Writes i o ty z none ∧ WritesS j o ty z none
  both .and .andS .and (fun c => (BitVec.ofNat (w c) c.va &&& BitVec.ofNat (w c) c.vb).toNat) ∧
  both .or .orS .or (fun c => (BitVec.ofNat (w c) c.va ||| BitVec.ofNat (w c) c.vb).toNat) ∧
  both .xor .xorS .xor (fun c => (BitVec.ofNat (w c) c.va ^^^ BitVec.ofNat (w c) c.vb).toNat) ∧
  both .not .notS .not (fun c => (~~~ BitVec.ofNat (w c) c.va).toNat) ∧
  both .andn .andnS .andn (fun c => (BitVec.ofNat (w c) c.va &&& ~~~ BitVec.ofNat (w c) c.vb).toNat)) ∧
  (let ty (c : Ctx') : Nat := modTy c.f.mod
  let w (c : Ctx') : Nat := tyBits (ty c)
  let n32 (_ : Ctx') : Nat := 1
  let none (_ : Ctx') : BitVec 5 := 0
  let set (c : Ctx') (i : Nat) : Bool := c.va.testBit i
  Writes .popc .popc n32 (fun c => ((List.range (w c)).filter (set c)).length) none ∧
  WritesS .popcS .popc n32 (fun c => ((List.range (w c)).filter (set c)).length) none ∧
  Writes .clz .clz n32 (fun c => ((List.range (w c)).takeWhile fun i => !set c (w c - 1 - i)).length) none ∧
  WritesS .clzS .clz n32 (fun c => ((List.range (w c)).takeWhile fun i => !set c (w c - 1 - i)).length) none ∧
  Writes .ctz .ctz n32 (fun c => ((List.range (w c)).takeWhile fun i => !set c i).length) none ∧
  WritesS .ctzS .ctz n32 (fun c => ((List.range (w c)).takeWhile fun i => !set c i).length) none ∧
  Writes .brev .brev ty (fun c => (BitVec.ofNat (w c) c.va).reverse.toNat) none ∧
  WritesS .brevS .brev ty (fun c => (BitVec.ofNat (w c) c.va).reverse.toNat) none)

/-- Shifts and rotates (R132) and the funnel shift (R133), with the 32-bit count n of operand b: a count of w or more gives 0, SAR fills with
the sign, ROT turns by n mod w, SHF takes the low w bits of c:a shifted by n mod 2w. In forms S, L and X. -/
def Obligations.Shifts : Prop :=
  let ty (c : Ctx') : Nat := modTy c.f.mod
  let w (c : Ctx') : Nat := tyBits (ty c)
  let n (c : Ctx') : Nat := c.vb % 2 ^ 32
  let a (c : Ctx') : BitVec (w c) := BitVec.ofNat (w c) c.va
  let none (_ : Ctx') : BitVec 5 := 0
  let both (i : FormL → Instr) (j : FormS → Instr) (o : Op) (z : Ctx' → Nat) : Prop := Writes i o ty z none ∧ WritesS j o ty z none
  both .shl .shlS .shl (fun c => (a c <<< n c).toNat) ∧ both .shr .shrS .shr (fun c => (a c >>> n c).toNat) ∧
  both .sar .sarS .sar (fun c => ((a c).sshiftRight (n c)).toNat) ∧ both .rot .rotS .rot (fun c => ((a c).rotateLeft (n c)).toNat) ∧
  both .shf .shfS .shf (fun c => ((BitVec.ofNat (w c) c.vc ++ a c) >>> (n c % (2 * w c))).toNat % 2 ^ w c)

/-- Bit fields, bytes and addresses (R134 to R136). -/
def Obligations.FieldsAndAddresses : Prop :=
  let ty (c : Ctx') : Nat := modTy c.f.mod
  let w (c : Ctx') : Nat := tyBits (ty c)
  let pos (c : Ctx') : Nat := c.vb % 256
  let len (c : Ctx') : Nat := c.vb / 256 % 256
  let none (_ : Ctx') : BitVec 5 := 0
  let byte (c : Ctx') (i : Nat) : Nat :=
    let sel := c.vb / 16 ^ i % 16
    let v := (c.vc % 2 ^ w c * 2 ^ 32 + c.va % 2 ^ w c) / 256 ^ (sel % 8) % 256
    if sel < 8 then v else if v < 128 then 0 else 255
  -- BFE: LEN bits from POS of a, sign- or zero-extended, where bits above a are its sign or 0
  Writes .bfe .bfe ty (fun c => if len c = 0 then 0 else
    let l := min (len c) (w c)
    let v := (asInt (ty c) c.va / (2 ^ pos c : Nat) % (2 ^ l : Nat)).toNat
    if tySigned (ty c) && v.testBit (l - 1) then v + (2 ^ w c - 2 ^ l) else v) none ∧
  -- BFI: bit i of the result is a's bit i − POS inside the field, c's bit elsewhere
  Writes .bfi .bfi ty (fun c => (BitVec.ofFnLE fun i : Fin (w c) =>
    if pos c ≤ i.val ∧ i.val < pos c + len c then c.va.testBit (i.val - pos c) else c.vc.testBit i.val).toNat) none ∧
  Writes .prmt .prmt ty (fun c => byte c 0 + byte c 1 * 256 + byte c 2 * 256 ^ 2 + byte c 3 * 256 ^ 3) none ∧
  Writes .lea .lea (fun _ => 3) (fun c =>
    let i : Int := if tySigned (ty c) then toS 32 c.vb else (c.vb % 2 ^ 32 : Nat)
    ((c.va + i * (2 ^ modBits c.f.mod 2 0 : Nat)) % (2 ^ 64 : Nat)).toNat) none

/-- The moves of R139: MOV copies a, MOVI the literal, SEL chooses by predicate c; NOP does nothing at all. -/
def Obligations.MoveInstructions : Prop :=
  let ty (c : Ctx') : Nat := modTy c.f.mod
  let w (c : Ctx') : Nat := tyBits (ty c)
  let none (_ : Ctx') : BitVec 5 := 0
  Does .nop .nop (fun _ => True) [] (fun c _ b => b.core = c.a.core) ∧ DoesS .nopS .nop (fun _ => True) [] (fun c _ b => b.core = c.a.core) ∧
  Writes .mov .mov ty (fun c => c.va % 2 ^ w c) none ∧ WritesS .movS .mov ty (fun c => c.va % 2 ^ w c) none ∧
  Writes .movi .movi ty (fun c => c.vb % 2 ^ w c) none ∧ Writes .sel .sel ty (fun c => (if c.vc = 1 then c.va else c.vb) % 2 ^ w c) none

/-- IADDC (R129): the sum with the carry-in of predicate c, and the carry out of w bits in the predicate that MOD[2:0] names, once both the
destination and that predicate may be written. IMADW (R130): the 64-bit sum of a 32 × 32-bit product and a 64-bit addend, in a register pair. ISET
(R137): the relation that CODE names, between a and b as integers of TYPE, in a predicate on a vector core and as 0 or 1 in an X register on the
control core. -/
def Obligations.CarriesAndCompares : Prop :=
  (let ty (c : Ctx') : Nat := modTy c.f.mod
  let w (c : Ctx') : Nat := tyBits (ty c)
  let p (c : Ctx') : Nat := modBits c.f.mod 2 0
  let sum (c : Ctx') : Nat := c.va % 2 ^ w c + c.vb % 2 ^ w c + c.vc
  Does .iaddc .iaddc (fun c => c.a.pready (p c) = true) [] fun c _ b =>
    WroteTy c.a b c.f.dst.toNat (ty c) (sum c % 2 ^ w c) ∧ WroteP c.a b (p c) (decide (2 ^ w c ≤ sum c)) ∧ b.fl = c.a.fl ∧ SameRest c.a b) ∧
  (Does .imadw .imadw (fun _ => True) [] fun c _ b =>
    let ty := modTy c.f.mod
    let z : Int := asInt ty c.va * asInt ty c.vb + (if tySigned ty then toS 64 c.vc else (c.vc % 2 ^ 64 : Nat))
    WroteV c.a b c.f.dst.toNat 2 (fitted (if tySigned ty then 2 else 3) (modBit c.f.mod 9) z) ∧ SameX c.a b ∧ SameP c.a b ∧ b.fl = c.a.fl ∧
      SameRest c.a b) ∧
  (Does .iset .iset (fun _ => True) [] fun c _ b =>
    let a := asInt (modTy c.f.mod) c.va
    let d := asInt (modTy c.f.mod) c.vb
    let r : Bool := match modCode c.f.mod with
      | 0 => a = d | 1 => a ≠ d | 2 => a < d | 3 => a ≤ d | 4 => a > d | _ => a ≥ d
    (if c.a.kind = .task then WroteX c.a b c.f.dst.toNat (if r then 1 else 0) ∧ SameP c.a b else WroteP c.a b c.f.dst.toNat r ∧ SameX c.a b) ∧
      SameV c.a b ∧ b.fl = c.a.fl ∧ SameRest c.a b)

/-- IDIV and IREM (R131) are producers: the quotient rounds toward zero and is all ones for a divisor of 0; the remainder has the sign of the
dividend, and is the dividend for a divisor of 0. On the control core a 32-bit signed result is delivered sign-extended. -/
def Obligations.IntegerDivision : Prop :=
  let ty (c : Ctx') : Nat := modTy c.f.mod
  let w (c : Ctx') : Nat := tyBits (ty c)
  let a (c : Ctx') : Int := asInt (ty c) c.va
  let b (c : Ctx') : Int := asInt (ty c) c.vb
  let dst (c : Ctx') : Dst := if c.a.kind = .task then .x c.f.dst.toNat else .v c.f.dst.toNat (tyRegs (ty c))
  let out (z : Ctx' → Nat) (c : Ctx') : Nat := if c.a.kind = .task ∧ ty c = 0 then sext 32 64 (z c) else z c
  let none (_ : Ctx') : BitVec 5 := 0
  Produces .idiv .idiv dst (out fun c => if b c = 0 then 2 ^ w c - 1 else fitted (ty c) (modBit c.f.mod 9) ((a c).tdiv (b c))) none ∧
  Produces .irem .irem dst (out fun c => fitted (ty c) false (if b c = 0 then a c else (a c).tmod (b c))) none

/-! ### Floating-point instructions -/

/-- The sums, products and fused multiply-adds of R141 and R142: one exact result of the modified operands, rounded once, with SAT after
rounding and the flags ORed into FL. FADD, FSUB, FMUL, FFMA, DADD, DMUL and DFMA in forms S, L and X.
The packed operations (R148): each half of the register by itself, as its scalar operation, with the OR of both halves' flags. -/
def Obligations.FloatArithmetic : Prop :=
  (let ty (c : Ctx') : Nat := modTy c.f.mod
  let f (c : Ctx') : Fmt := tyFmt (ty c)
  let m (c : Ctx') (n : Nat) : Bool := modBit c.f.mod n
  let a (c : Ctx') : Machine.Num := (f c).decode (signBits (f c) (m c 6) (m c 8) c.va)
  let b (c : Ctx') : Machine.Num := (f c).decode (signBits (f c) (m c 5) (m c 7) c.vb)
  let d (c : Ctx') : Machine.Num := (f c).decode (signBits (f c) false (m c 0) c.vc)
  let sat (c : Ctx') (r : Nat × BitVec 5) : Nat × BitVec 5 := if m c 9 then (satF (f c) r.1, r.2) else r
  let sum (c : Ctx') : Nat × BitVec 5 := sat c (finish (f c) [a c, b c] false (addExact (a c) (b c) (modRnd c.f.mod)) (modRnd c.f.mod))
  let diff (c : Ctx') : Nat × BitVec 5 := sat c (finish (f c) [a c, b c] false (addExact (a c) (b c).flip (modRnd c.f.mod)) (modRnd c.f.mod))
  let prod (c : Ctx') : Nat × BitVec 5 := sat c (finish (f c) [a c, b c] false (mulExact (a c) (b c)) (modRnd c.f.mod))
  let fma (c : Ctx') : Nat × BitVec 5 :=
    sat c (finish (f c) [a c, b c, d c] (mulBad (a c) (b c)) (fmaExact (a c) (b c) (d c) (modRnd c.f.mod)) (modRnd c.f.mod))
  let both (i : FormL → Instr) (j : FormS → Instr) (o : Op) (r : Ctx' → Nat × BitVec 5) : Prop := Floats i o ty r ∧ FloatsS j o ty r
  both .fadd .faddS .fadd sum ∧ both .fsub .fsubS .fsub diff ∧ both .fmul .fmulS .fmul prod ∧ both .ffma .ffmaS .ffma fma ∧
  both .dadd .daddS .dadd sum ∧ both .dmul .dmulS .dmul prod ∧ both .dfma .dfmaS .dfma fma) ∧
  (let f (c : Ctx') : Fmt := tyFmt (modTy c.f.mod)
  let m (c : Ctx') (n : Nat) : Bool := modBit c.f.mod n
  let half (x i : Nat) : Nat := x / 65536 ^ i % 65536
  let a (c : Ctx') (i : Nat) : Machine.Num := (f c).decode (signBits (f c) (m c 6) (m c 8) (half c.va i))
  let b (c : Ctx') (i : Nat) : Machine.Num := (f c).decode (signBits (f c) (m c 5) (m c 7) (half c.vb i))
  let d (c : Ctx') (i : Nat) : Machine.Num := (f c).decode (signBits (f c) false (m c 0) (half c.vc i))
  let sat (c : Ctx') (r : Nat × BitVec 5) : Nat × BitVec 5 := if m c 9 then (satF (f c) r.1, r.2) else r
  let sum (c : Ctx') (i : Nat) : Nat × BitVec 5 := sat c (finish (f c) [a c i, b c i] false (addExact (a c i) (b c i) (modRnd c.f.mod)) (modRnd c.f.mod))
  let prod (c : Ctx') (i : Nat) : Nat × BitVec 5 := sat c (finish (f c) [a c i, b c i] false (mulExact (a c i) (b c i)) (modRnd c.f.mod))
  let fma (c : Ctx') (i : Nat) : Nat × BitVec 5 :=
    sat c (finish (f c) [a c i, b c i, d c i] (mulBad (a c i) (b c i)) (fmaExact (a c i) (b c i) (d c i) (modRnd c.f.mod)) (modRnd c.f.mod))
  let pair (r : Ctx' → Nat → Nat × BitVec 5) (c : Ctx') : Nat × BitVec 5 := ((r c 0).1 + (r c 1).1 * 65536, (r c 0).2 ||| (r c 1).2)
  let both (i : FormL → Instr) (j : FormS → Instr) (o : Op) (r : Ctx' → Nat → Nat × BitVec 5) : Prop :=
    Floats i o (fun _ => 4) (pair r) ∧ FloatsS j o (fun _ => 4) (pair r)
  both .hfma2 .hfma2S .hfma2 fma ∧ both .hadd2 .hadd2S .hadd2 sum ∧ both .hmul2 .hmul2S .hmul2 prod)

/-- Minimum, maximum, compare, class, rounding to an integer and scaling (R143 to R147). -/
def Obligations.FloatSelection : Prop :=
  let ty (c : Ctx') : Nat := modTy c.f.mod
  let f (c : Ctx') : Fmt := tyFmt (ty c)
  let m (c : Ctx') (n : Nat) : Bool := modBit c.f.mod n
  let xa (c : Ctx') : Nat := signBits (f c) (m c 6) (m c 8) c.va
  let xb (c : Ctx') : Nat := signBits (f c) (m c 5) (m c 7) c.vb
  let a (c : Ctx') : Machine.Num := (f c).decode (xa c)
  let b (c : Ctx') : Machine.Num := (f c).decode (xb c)
  let cmp (c : Ctx') : Bool := cmpN (modCode c.f.mod) (a c) (b c)
  let fl (c : Ctx') : BitVec 5 := cmpFlags (modCode c.f.mod) (a c) (b c)
  let e (c : Ctx') : Int := max (-5000) (min 5000 (toS 32 c.vb))
  let scaled (c : Ctx') : Nat × BitVec 5 := finish (f c) [a c] false (exactOf (scaleNum (a c) (e c))) (modRnd c.f.mod)
  (Floats .fmin .fmin ty (fun c => minmaxF (f c) false (xa c) (xb c)) ∧ FloatsS .fminS .fmin ty (fun c => minmaxF (f c) false (xa c) (xb c))) ∧
  (Floats .fmax .fmax ty (fun c => minmaxF (f c) true (xa c) (xb c)) ∧ FloatsS .fmaxS .fmax ty (fun c => minmaxF (f c) true (xa c) (xb c))) ∧
  Decides .fset .fset cmp fl ∧ Decides .dset .dset cmp fl ∧
  Writes .fclass .fclass (fun _ => 1) (fun c => classOf (f c) (c.va % 2 ^ (f c).width)) (fun _ => 0) ∧
  Floats .frnd .frnd ty (fun c => frnd (f c) (a c) (modRnd c.f.mod)) ∧
  Floats .fscl .fscl ty (fun c => if m c 9 then (satF (f c) (scaled c).1, (scaled c).2) else scaled c)

/-- The producers of R149 to R153: quotients and square roots correctly rounded, and the SFU family, each an arithmetic producer whose
destination is emptied at issue. Inexact results of RCP, RSQ, EX2, LG2, SIN, COS and TANH contain the free values of log 5. -/
def Obligations.FloatProducers : Prop :=
  let ty (c : Ctx') : Nat := modTy c.f.mod
  let f (c : Ctx') : Fmt := tyFmt (ty c)
  let m (c : Ctx') (n : Nat) : Bool := modBit c.f.mod n
  let a (c : Ctx') (f : Fmt) : Machine.Num := f.decode (signBits f (m c 6) (m c 8) c.va)
  let b (c : Ctx') (f : Fmt) : Machine.Num := f.decode (signBits f (m c 5) (m c 7) c.vb)
  let dest (t : Ctx' → Nat) (c : Ctx') : Dst := .v c.f.dst.toNat (tyRegs (t c))
  let single (_ : Ctx') : Nat := 4
  let double (_ : Ctx') : Nat := 7
  let quot (c : Ctx') : Nat × BitVec 5 := finish (f c) [a c (f c), b c (f c)] false (divExact (a c (f c)) (b c (f c))) (modRnd c.f.mod)
  let root (c : Ctx') (f : Fmt) : Nat × BitVec 5 := finish f [a c f] false (sqrtExact (a c f)) (modRnd c.f.mod)
  let special (code : Nat) (c : Ctx') : Nat × BitVec 5 := sfuOp code (modRnd c.f.mod) (BitVec.ofNat 32 (signBits f32 (m c 6) (m c 8) c.va))
  let sfu (i : FormL → Instr) (o : Op) (code : Nat) : Prop := Produces i o (dest single) (fun c => (special code c).1) (fun c => (special code c).2)
  Produces .fdiv .fdiv (dest ty) (fun c => (quot c).1) (fun c => (quot c).2) ∧
  ProducesS .fdivS .fdiv (dest ty) (fun c => (quot c).1) (fun c => (quot c).2) ∧
  Produces .ddiv .ddiv (dest ty) (fun c => (quot c).1) (fun c => (quot c).2) ∧
  Produces .dsqrt .dsqrt (dest double) (fun c => (root c f64).1) (fun c => (root c f64).2) ∧
  Produces .sqrt .sqrt (dest single) (fun c => (special 2 c).1) (fun c => (special 2 c).2) ∧
  sfu .rcp .rcp 0 ∧ sfu .rsq .rsq 1 ∧ sfu .ex2 .ex2 3 ∧ sfu .lg2 .lg2 4 ∧ sfu .sin .sin 5 ∧ sfu .cos .cos 6 ∧ sfu .tanh .tanh 7

/-- The conversions of R81 to R83, between formats and to and from integers, and the fields of R86.
QNT and DQNT (R84, R85) with a legal format word, once their compand table, where they name one, has been read: the scaled and companded value
rounded once to a code, and the code's value expanded, scaled and rounded. A format word that is not legal raises ILLEGAL_OPCODE. -/
def Obligations.Conversions : Prop :=
  (let ty (c : Ctx') : Nat := modTy c.f.mod
  let f (c : Ctx') : Fmt := tyFmt (ty c)
  let src (c : Ctx') : Nat := modCode c.f.mod % 8
  let a (c : Ctx') : Machine.Num := (tyFmt (src c)).decode (signBits (tyFmt (src c)) (modBit c.f.mod 6) (modBit c.f.mod 8) c.va)
  let w (c : Ctx') : Nat := match modBits c.f.mod 2 0 with | 0 => 2 | 1 => 4 | 2 => 6 | 3 => 8 | _ => 16
  let j (c : Ctx') : Nat := c.vb % 2 ^ 32
  let field (c : Ctx') : Nat := if 32 / w c ≤ j c then 0 else c.va / 2 ^ (w c * j c) % 2 ^ w c
  let none (_ : Ctx') : BitVec 5 := 0
  Floats .fcvt .fcvt ty (fun c => (f c).ofNum (a c) (modRnd c.f.mod)) ∧
  Floats .f2i .f2i ty (fun c => roundInt (tyBits (ty c)) (tySigned (ty c)) (a c) (modRnd c.f.mod)) ∧
  Floats .i2f .i2f ty (fun c => (f c).ofNum (intNum (tyBits (src c)) (tySigned (src c)) c.va) (modRnd c.f.mod)) ∧
  Writes .pack .pack (fun _ => 1) (fun c => if 32 / w c ≤ j c then c.vc else
    c.vc - c.vc / 2 ^ (w c * j c) % 2 ^ w c * 2 ^ (w c * j c) + c.va % 2 ^ w c * 2 ^ (w c * j c)) none ∧
  Writes .unpk .unpk (fun _ => 1) (fun c =>
    if modBit c.f.mod 3 && 2 ^ (w c - 1) ≤ field c then field c + 2 ^ 32 - 2 ^ w c else field c) none) ∧
  (let f (c : Ctx') : Fmt := tyFmt (modTy c.f.mod)
  let fmt (c : Ctx') : Nat := bitsN c.vb 19 16
  let nf (c : Ctx') : Nf := nfOf (BitVec.ofNat 16 c.vb)
  let rnd (c : Ctx') : Nat := modRnd c.f.mod
  let clamped (c : Ctx') (v : Int) (nx : Bool) : Nat × BitVec 5 :=
    let w := fmtWidth (fmt c); let sg := fmtSigned (fmt c)
    if v < intMin w sg then (ofS w (intMin w sg), fNV) else if intMax w sg < v then (ofS w (intMax w sg), fNV) else (ofS w v, if nx then fNX else 0)
  let coded (c : Ctx') (tab : Nat) : Nat × BitVec 5 :=
    let x := (f c).decode (signBits (f c) (modBit c.f.mod 6) (modBit c.f.mod 8) c.va)
    let sc := scaleByte c.s c
    let u : Machine.Num := if sc = 255 then .nan false else scaleNum x (127 - (sc : Int))
    let u : Exact := if bitN c.vb 20 then curve tab false u else exactOf u
    let r := if fmt c ≤ 6 then
        (match u with | .bad _ => (nf c).ofNum (.nan false) (rnd c) | .inf n _ => (nf c).ofNum (.inf n) (rnd c) | .mag n m => (nf c).round n m (rnd c))
      else
        (match u with
        | .bad _ => roundInt (fmtWidth (fmt c)) (fmtSigned (fmt c)) (.nan false) (rnd c)
        | .inf n _ => roundInt (fmtWidth (fmt c)) (fmtSigned (fmt c)) (.inf n) (rnd c)
        | .mag n m => let k := roundMag n m 0 (rnd c); clamped c (if n then -(k.1 : Int) else k.1) k.2)
    (r.1, r.2 ||| if x.isSig then fNV else 0)
  let decoded (c : Ctx') (tab : Nat) : Nat × BitVec 5 :=
    let w := if fmt c ≤ 6 then (nf c).width else fmtWidth (fmt c)
    let v : Machine.Num := if fmt c ≤ 6 then (nf c).decode (c.va % 2 ^ w) else intNum w (fmtSigned (fmt c)) (c.va % 2 ^ w)
    let e : Machine.Num × BitVec 5 := if bitN c.vb 20 then
        (match curve tab true v with
        | .bad _ => (.nan false, 0) | .inf n _ => (.inf n, 0) | .mag n m => (f32.decode (f32.round n m 0).1, (f32.round n m 0).2))
      else (v, 0)
    let sc := scaleByte c.s c
    let r := if sc = 255 ∨ e.1.isNan = true then ((f c).nan, 0) else (f c).ofNum (scaleNum e.1 ((sc : Int) - 127)) (rnd c)
    (r.1, e.2 ||| r.2)
  let does (i : FormL → Instr) (o : Op) (r : Ctx' → Nat → Nat × BitVec 5) : Prop := ∀ f s k a, Clear o f s k a →
    let c := ctxOf o f (lenOf f) s k a
    (formatOk c.vb = false → Faults c (exec (i f) s) .illegalOpcode {}) ∧
    (formatOk c.vb = true → ∀ u tab n, tableOf c c.vb = .inr (u, tab) → agent? u k = some { a with top := n } →
      Moves { c with s := u, a := { a with top := n } } (exec (i f) s) [] fun _ b => WroteV a b f.dst.toNat 1 (r { c with s := u } tab).1 ∧ SameX a b ∧
        SameP a b ∧ b.fl = a.fl ||| (r { c with s := u } tab).2 ∧ SameRest a b)
  does .qnt .qnt coded ∧ does .dqnt .dqnt decoded)

/-! ### Predicates, FL and special registers -/

/-- PLOG (R111): the LUT bit that a, b and c choose, in predicate DST. -/
def Obligations.PredicateLogic : Prop :=
  Decides .plog .plog (fun c => (modBits c.f.mod 7 0).testBit (4 * c.va + 2 * c.vb + c.vc)) (fun _ => 0)

/-- PMOV (R112): with DIR 0 the predicates as one number, with DIR 1 the masked predicates from a register; both wait for what they touch, and a
poisoned predicate that is read raises REG_POISON (R42). -/
def Obligations.PredicateMoves : Prop :=
  let dir (c : Ctx') : Bool := modBit c.f.mod 0
  let masked (c : Ctx') (n : Nat) : Bool := n < 7 && modBit c.f.mod (n + 1)
  let one (c : Ctx') (n : Nat) : Nat := if c.a.pval n then 2 ^ n else 0
  Does .pmov .pmov (fun c => dir c = false ∧ (∀ n < 7, c.a.pready n = true) ∧ c.a.ppoison = 0) [] (fun c _ b =>
    WroteTy c.a b c.f.dst.toNat 1 (one c 0 + one c 1 + one c 2 + one c 3 + one c 4 + one c 5 + one c 6 + 128) ∧ SameP c.a b ∧ b.fl = c.a.fl ∧
      SameRest c.a b) ∧
  Does .pmov .pmov (fun c => dir c = true ∧ ∀ n, masked c n = true → c.a.pready n = true) [] (fun c _ b =>
    (∀ n, b.pval n = (if masked c n then c.va.testBit n else c.a.pval n) ∧ b.pready n = c.a.pready n ∧
      b.ppoison.getLsbD n = (!masked c n && c.a.ppoison.getLsbD n)) ∧ SameV c.a b ∧ SameX c.a b ∧ b.fl = c.a.fl ∧ SameRest c.a b) ∧
  (∀ f s k a, Clear .pmov f s k a → let c := ctxOf .pmov f (lenOf f) s k a
    dir c = false → (∀ n < 7, c.a.pready n = true) → c.a.ppoison ≠ 0 → Faults c (exec (.pmov f) s) .regPoison {}) ∧
  (∀ f s k a, Clear .pmov f s k a → let c := ctxOf .pmov f (lenOf f) s k a
    (∃ n < 7, (dir c = false ∨ masked c n = true) ∧ c.a.pready n = false) → Waits c (exec (.pmov f) s) .retry)

/-- FLRD and FLCLR (R113): both wait for earlier instructions that set flags, in the model while any producer of the thread is in flight, which
sets flags or not (log 49); then FLRD writes FL, and FLCLR clears the masked flags. -/
def Obligations.FlagInstructions : Prop :=
  let busy (c : Ctx') : Prop := ∃ p ∈ c.s.prods, p.uid = c.a.uid
  Does .flrd .flrd (fun c => ¬ busy c) [] (fun c _ b =>
    WroteTy c.a b c.f.dst.toNat 1 c.a.fl.toNat ∧ SameP c.a b ∧ b.fl = c.a.fl ∧ SameRest c.a b) ∧
  Does .flclr .flclr (fun c => ¬ busy c) [] (fun c _ b =>
    b.fl = c.a.fl &&& ~~~ BitVec.ofNat 5 (modBits c.f.mod 4 0) ∧ SameV c.a b ∧ SameX c.a b ∧ SameP c.a b ∧ SameRest c.a b) ∧
  (∀ f s k a, Clear .flrd f s k a → let c := ctxOf .flrd f (lenOf f) s k a
    busy c → Waits c (exec (.flrd f) s) .retry) ∧
  (∀ f s k a, Clear .flclr f s k a → let c := ctxOf .flclr f (lenOf f) s k a
    busy c → Waits c (exec (.flclr f) s) .retry)

/-- MOVS (R48, R114) writes the special register that INDEX names; among them LANE, SLOT, VCORE, CLUSTER, DIE and PACKAGE say where the thread
stands. CLK (R115) is a producer: it delivers the core's cycle counter to a register pair. How far the counter has advanced is a free value (log
4). -/
def Obligations.SpecialRegisters : Prop :=
  (Writes .movs .movs (fun _ => 1) (fun c => sreg c.s c.k c.a (modBits c.f.mod 7 0) % 2 ^ 32) (fun _ => 0) ∧
  ∀ (s : State) (die cl vc slot : Nat) (a : Agent), cl < 20 → vc < 4 → slot < 2048 → die < 8 →
    let k := ((die * 20 + cl) * 4 + vc) * 2048 + slot
    sreg s k a 0 = slot % 32 ∧ sreg s k a 1 = slot ∧ sreg s k a 2 = slot / 32 ∧ sreg s k a 6 = vc ∧ sreg s k a 7 = cl ∧ sreg s k a 8 = die ∧
    sreg s k a 9 = s.package ∧ sreg s k a 0xB = a.asid) ∧
  (∀ f s k a, Clear .clk f s k a → Moves (ctxOf .clk f (lenOf f) s k a) (exec (.clk f) s) [.clocks, .free, .ids, .prods] fun u b =>
    let now : DWord := fgetD s.clocks (coreOf k) 0 + BitVec.ofNat 64 (Config.cycles s.free)
    fgetD u.clocks (coreOf k) 0 = now ∧ u.free = s.free + 1 ∧ u.nextId = s.nextId + 1 ∧
    u.prods = s.prods ++ [{ id := s.nextId, key := k, uid := a.uid, dst := .v f.dst.toNat 2, value := now.toNat, flags := 0 }] ∧
    EmptiedD a b (.v f.dst.toNat 2) ∧ b.fl = a.fl ∧ SameRest a b)

/-- WID (R116): the index of a work-identifier field, or its extent; a field that the header does not declare has index 0 and extent 1. -/
def Obligations.WorkIdentifier : Prop :=
  Does .wid .wid (fun c => c.a.kind = .thread ∧ (kernel? c.s c.a.kernel).isSome ∧ (group? c.s c.a.group).isSome) [] fun c _ b =>
    ∀ kn g, kernel? c.s c.a.kernel = some kn → group? c.s c.a.group = some g →
      let n := modBits c.f.mod 2 0
      let ext (m : Nat) : Nat := if m < kn.nfld then bitsN kn.hdr (32 * m + 159) (32 * m + 128) else 1
      let below : Nat := ((List.range n).map ext).prod
      let number : Nat := c.a.lin + g.index * ((List.range kn.gb).map fun m => bitsN kn.hdr (32 * m + 159) (32 * m + 128)).prod
      WroteTy c.a b c.f.dst.toNat 1 (if modBit c.f.mod 3 then ext n else if n < kn.nfld then number / below % ext n else 0) ∧
      SameP c.a b ∧ b.fl = c.a.fl ∧ SameRest c.a b

/-! ### Guards, faults and control flow -/

/-- An instruction whose guard is false only moves on (R43): no register, flag, memory or other party changes. Rendezvous, which leave a skip mark
(R100), and CLK, whose counter is timing, stand apart. -/
def Obligations.FalseGuard : Prop :=
  (∀ (i : Instr) (o : Op) (f : FormL) (s : State) (k : Nat) (a : Agent), i.op? = some o → i.formL? = some f → isRendezvous o = false → o ≠ .clk →
    GuardedOff o f s k a → Moves (ctxOf o f (lenOf f) s k a) (exec i s) [] fun _ b => b.core = a.core) ∧
  (∀ (i : Instr) (o : Op) (f : FormS) (s : State) (k : Nat) (a : Agent), i.op? = some o → i.formS? = some f → isRendezvous o = false → o ≠ .clk →
    GuardedOff o (f.expand (issuingCore s) o) s k a → Moves (ctxOfS o f s k a) (exec i s) [] fun _ b => b.core = a.core)

/-- A transfer whose guard is false is no transfer (R109): the pending reconvergence address and the return stack do not change. -/
def Obligations.FalseTransfer : Prop :=
  (∀ (f : FormL) (s : State) (k : Nat) (a : Agent) (o : Op) (i : Instr),
    (o, i) ∈ [(Op.bra, Instr.bra f), (.brc, .brc f), (.jmp, .jmp f), (.call, .call f), (.calli, .calli f), (.ret, .ret f)] → GuardedOff o f s k a →
    Moves (ctxOf o f (lenOf f) s k a) (exec i s) [] fun u b =>
      b.reconv = a.reconv ∧ b.rstk = a.rstk ∧ ∀ cl, (engine u cl).rstk = (engine s cl).rstk) ∧
  (∀ (f : FormS) (s : State) (k : Nat) (a : Agent), GuardedOff .ret (f.expand (issuingCore s) .ret) s k a →
    Moves (ctxOfS .ret f s k a) (exec (.retS f) s) [] fun u b => b.reconv = a.reconv ∧ b.rstk = a.rstk ∧ ∀ cl, (engine u cl).rstk = (engine s cl).rstk)

/-- Taking a fault (R326 to R328): the party stands FROZEN at its PC with everything it holds, its region has ended, and its record, with the code,
FPC, OPC, ADDR and PARTY of the fault, is queued: in its context's frozen queue while that has room, at the party while it has not, and
for a handler thread in its die's level-2 queue. No other party, and nothing else, changes. -/
def Obligations.TakingAFault : Prop :=
  ∀ (s : State) (k : Nat) (a : Agent) (code : FCode) (i : FInfo), agent? s k = some a → a.state ≠ .stepping →
    let r := mkRec s k a code i
    let u := freeze s k code i
    (∃ b, agent? u k = some b ∧ b.state = .frozen ∧ b.record = some r ∧ b.pc = a.pc ∧ b.wait = .none ∧ b.region = a.region + 1 ∧
      b.core = { a.core with inst := none, image := none }) ∧
    Others [k] s u ∧
    (r.code = code ∧ r.fpc = a.pc ∧ r.opc = i.opc.getD a.pc ∧ (r.origv = true ↔ r.opc ≠ a.pc) ∧ r.addr = i.addr ∧ r.party = partyWord s k ∧
      r.done = i.done ∧ (r.lvl2 = true ↔ a.kind = .handler) ∧ r.target = .agent k a.uid ∧ r.asid = a.asid) ∧
    (a.kind ≠ .handler → Only [.ctxs] s u ∧ (∀ j, j ≠ a.asid → ctx? u j = ctx? s j) ∧ ∀ c, ctx? s a.asid = some c →
      ctx? u a.asid = some (if c.fq.length < 2 ^ c.fqlog ∧ c.parked = [] then { c with fq := c.fq ++ [r] } else { c with parked := c.parked ++ [r] })) ∧
    (a.kind = .handler → Only [.dies] s u ∧ (∀ d, d ≠ dieOf k → dieSt u d = dieSt s d) ∧
      dieSt u (dieOf k) = { dieSt s (dieOf k) with level2 := (dieSt s (dieOf k)).level2 ++ [r] })

/-- BRA, BRC and JMP (R35, R103, R104): a transfer to an aligned address that holds a header, or that no fetch reaches yet, moves the party there
and changes nothing else but what the fetch of the target marks (R305); an unaligned target, or a readable word that is no header, raises
ILLEGAL_TARGET at the transferring instruction; BRC whose compare is false falls through. -/
def Obligations.Branches : Prop :=
  let goes (i : FormL → Instr) (o : Op) (H : Ctx' → Prop) (t : Ctx' → Nat) : Prop :=
    ∀ f s k a, Clear o f s k a → let c := ctxOf o f (lenOf f) s k a; H c →
      (∀ u, Lands s (placeOf k a) a.tasid (t c) u → Goes c (exec (i f) s) [.mem, .bases] (BitVec.ofNat 64 (t c)) fun v b =>
        v.mem = u.mem ∧ v.bases = u.bases ∧ b.core = a.core) ∧
      (t c % 8 ≠ 0 → Faults c (exec (i f) s) .illegalTarget {}) ∧
      (t c % 8 = 0 → ∀ w u, fetchWord s (placeOf k a) a.tasid (t c) = .word w u → isHeader w = false →
        Faults { c with s := deviceUse s a.tasid (t c) false } (exec (i f) s) .illegalTarget {})
  let relative (c : Ctx') : Nat := (c.a.pc.toNat + c.vb) % 2 ^ 64
  let taken (c : Ctx') : Prop :=
    let x := asInt (modTy c.f.mod) c.va
    match modCode c.f.mod with | 0 => x = 0 | 1 => x ≠ 0 | 2 => x < 0 | 3 => x ≤ 0 | 4 => 0 < x | _ => 0 ≤ x
  goes .bra .bra (fun _ => True) relative ∧ goes .brc .brc taken relative ∧ goes .jmp .jmp (fun _ => True) (fun c => c.va % 2 ^ 64) ∧
  Does .brc .brc (fun c => ¬ taken c) [] (fun c _ b => b.core = c.a.core)

/-- CALL and CALLI (R105): a thread with fewer than 8 writes in flight pushes the return address, the first aligned one after the instruction,
with a store to its private space, and waits with 8 (R316); the control core pushes it on its return stack. Without room STACK_OVERFLOW is
raised and nothing else happens. That the control core pushes the same aligned address is the model's choice (log 56). -/
def Obligations.Calls : Prop :=
  let goes (i : FormL → Instr) (o : Op) (t : Ctx' → Nat) : Prop :=
    ∀ f s k a, Clear o f s k a → let c := ctxOf o f (lenOf f) s k a
      let back := (a.pc.toNat + lenOf f + 7) / 8 * 8 % 2 ^ 64
      (a.kind = .thread → 8 ≤ a.rstk → writesOut s a.uid < 8 → ∀ v, Lands s (placeOf k a) a.tasid (t c) v →
        Goes c (exec (i f) s) [.ids, .reqs, .mem, .bases] (BitVec.ofNat 64 (t c)) fun u b =>
        u.mem = v.mem ∧ u.bases = v.bases ∧ b.core = { a.core with rstk := a.rstk - 8, seq := a.seq + 1 } ∧
        ∃ r, u.reqs = s.reqs ++ [r] ∧ r.seq = a.seq ∧ r.who = whoOf k a ∧ r.stage = .issued ∧ r.acc.kind = .store ∧ r.acc.scratch = false ∧
          r.acc.addr = BitVec.ofNat 64 (privVa s k a (a.rstk - 8)) ∧ r.acc.bytes = 8 ∧ r.acc.data = back) ∧
      (a.kind = .thread → 8 ≤ a.rstk → 8 ≤ writesOut s a.uid → Waits c (exec (i f) s) .retry) ∧
      (a.kind = .task → (engine s (clusterOf k)).rstk.length < 16 → ∀ v, Lands s (placeOf k a) a.tasid (t c) v →
        Goes c (exec (i f) s) [.clusters, .mem, .bases] (BitVec.ofNat 64 (t c)) fun u b => u.mem = v.mem ∧ u.bases = v.bases ∧ b.core = a.core ∧
          engine u (clusterOf k) = { engine s (clusterOf k) with rstk := BitVec.ofNat 64 back :: (engine s (clusterOf k)).rstk } ∧
          ∀ j, j ≠ clusterOf k → cluster u j = cluster s j) ∧
      ((a.kind = .thread ∧ a.rstk < 8) ∨ (a.kind = .task ∧ 16 ≤ (engine s (clusterOf k)).rstk.length) ∨ a.kind = .handler →
        Faults c (exec (i f) s) .stackOverflow {})
  goes .call .call (fun c => (c.a.pc.toNat + c.vb) % 2 ^ 64) ∧ goes .calli .calli (fun c => c.va % 2 ^ 64)

/-- RET in forms S and L (R105, R433): a thread pops the address that its private space holds at the return-stack pointer, read once its earlier
accesses have been performed; the control core pops its return stack. An empty stack raises STACK_OVERFLOW. -/
def Obligations.Returns : Prop :=
  let goes (c : Ctx') (out : Out) : Prop :=
    let lands (u : State) (t : Nat) (v : State) : Prop := Lands u (placeOf c.k c.a) c.a.tasid t v
    (c.a.kind = .thread → c.a.rstk < privSize c.s c.a → ∀ u ra, readNow c (privVa c.s c.k c.a c.a.rstk) 8 = .inr (u, ra) →
      ∀ n, agent? u c.k = some { c.a with top := n } → ∀ w, lands u (ra % 2 ^ 64) w →
      ∃ v b, out = .next v ∧ v.mem = w.mem ∧ v.bases = w.bases ∧ agent? v c.k = some b ∧ b.pc = BitVec.ofNat 64 ra ∧ b.entry = .jump c.a.pc ∧ b.wait = .none ∧
        b.core = { c.a.core with rstk := c.a.rstk + 8 } ∧ Only [.mem, .bases] u v ∧ Others [c.k] u v) ∧
    (c.a.kind = .task → ∀ r t, (engine c.s (clusterOf c.k)).rstk = r :: t → ∀ w, lands c.s r.toNat w →
      Goes c out [.clusters, .mem, .bases] r fun u b => u.mem = w.mem ∧ u.bases = w.bases ∧ b.core = c.a.core ∧ engine u (clusterOf c.k) = { engine c.s (clusterOf c.k) with rstk := t } ∧
        ∀ j, j ≠ clusterOf c.k → cluster u j = cluster c.s j) ∧
    ((c.a.kind = .thread ∧ privSize c.s c.a ≤ c.a.rstk) ∨ (c.a.kind = .task ∧ (engine c.s (clusterOf c.k)).rstk = []) ∨ c.a.kind = .handler →
      Faults c out .stackOverflow {})
  (∀ f s k a, Clear .ret f s k a → goes (ctxOf .ret f (lenOf f) s k a) (exec (.ret f) s)) ∧
  (∀ f s k a, ClearS .ret f s k a → goes (ctxOfS .ret f s k a) (exec (.retS f) s))

/-- YIELD (R107), in forms S and L, completes: the thread yields from now on, its age is 0 and it is not urgent.
TRAP and BKPT (R108) complete as the party freezes, with SOFTWARE_TRAP and the trap number, or with BREAKPOINT where its context enables
breakpoints: its record has DONE and names the instruction's own address, where the party stands with what it held. BKPT completes
with no effect where breakpoints are not enabled. -/
def Obligations.YieldsAndTraps : Prop :=
  let yields (c : Ctx') (_ : State) (b : Agent) : Prop := b.core = { c.a.core with yielding := true, yielded := 0 } ∧ b.age = 0 ∧ b.urgent = false
  let traps (c : Ctx') (out : Out) (code : FCode) (x0 : Word) : Prop :=
    ∃ u b r, out = .next u ∧ agent? u c.k = some b ∧ b.state = .frozen ∧ b.pc = c.a.pc ∧ b.core = { c.a.core with inst := none, image := none } ∧
      b.record = some r ∧ r.code = code ∧ r.done = true ∧ r.fpc = c.a.pc ∧ r.opc = c.a.pc ∧ r.x0 = x0 ∧ r.target = .agent c.k c.a.uid ∧
      Only [.ctxs, .dies] c.s u ∧ Others [c.k] c.s u
  let enabled (c : Ctx') : Prop := ∃ x, ctx? c.s c.a.asid = some x ∧ x.brk = true
  Does .yield .yield (fun _ => True) [] yields ∧ DoesS .yieldS .yield (fun _ => True) [] yields ∧
  (∀ f s k a, Clear .trap f s k a → let c := ctxOf .trap f (lenOf f) s k a
    traps c (exec (.trap f) s) .softwareTrap (BitVec.ofNat 32 c.vb)) ∧
  (∀ f s k a, Clear .bkpt f s k a → let c := ctxOf .bkpt f (lenOf f) s k a
    enabled c → traps c (exec (.bkpt f) s) .breakpoint 0) ∧
  Does .bkpt .bkpt (fun c => ¬ enabled c) [] (fun c _ b => b.core = c.a.core)

/-! ### Lane collectives -/

/-- Arriving at a rendezvous (R97, R98, R100, R117): a participant whose mask names it, within its tile, waits there with its mask and operands, its
destination empty and its skip mark cleared; a mask that does not raises PARTITION_MISMATCH with the mask. -/
def Obligations.RendezvousArrival : Prop :=
  let arrives (i : FormL → Instr) (o : Op) (H : Ctx' → Prop) (dst : Ctx' → Dst) (mask ra rb : Ctx' → Nat) : Prop :=
    ∀ f s k a, Clear o f s k a → let c := ctxOf o f (lenOf f) s k a; H c →
      let lane := laneOf k % partOf s a
      let mine := mask c < 2 ^ partOf s a ∧ (mask c).testBit lane = true
      (o = .setpart ∨ mine → exec (i f) s = .next (putAgent s k { (a.openDst (dst c)) with
        inst := some (o, f, lenOf f), mask := mask c, ra := ra c, rb := rb c, skips := [], wait := .rendezvous, age := 0, urgent := false })) ∧
      (o ≠ .setpart ∧ ¬ mine → Faults c (exec (i f) s) .partitionMismatch { x0 := BitVec.ofNat 32 (mask c) })
  let quiet (n : Nat) (c : Ctx') : Prop := modBit c.f.mod n = true → ∀ p ∈ c.s.prods, p.uid ≠ c.a.uid
  let word (x : Ctx' → Nat) (c : Ctx') : Nat := x c % 2 ^ 32
  let zero (_ : Ctx') : Nat := 0
  let none (_ : Ctx') : Dst := .none
  let one (c : Ctx') : Dst := .v c.f.dst.toNat 1
  let typed (c : Ctx') : Dst := .v c.f.dst.toNat (tyRegs (modTy c.f.mod))
  arrives .vote .vote (quiet 3) (fun c => if modBits c.f.mod 2 0 ≤ 2 then .p c.f.dst.toNat else one c) (word Ctx'.vb)
    (fun c => if modBit c.f.mod 3 then (if c.a.fl.toNat.testBit (modBits c.f.mod 7 5) then 1 else 0) else c.va) zero ∧
  arrives .shfl .shfl (fun _ => True) one (word Ctx'.vc) Ctx'.va (word Ctx'.vb) ∧
  arrives .tred .tred (quiet 7) typed (word Ctx'.vb) (fun c => if modBit c.f.mod 7 then c.a.fl.toNat else c.va) zero ∧
  arrives .tscan .tscan (fun _ => True) typed (word Ctx'.vb) Ctx'.va zero ∧
  arrives .tsync .tsync (fun _ => True) none (word Ctx'.vb) zero zero ∧
  arrives .setpart .setpart (fun _ => True) none (fun _ => 0xFFFFFFFF) zero (word Ctx'.vb)

/-- A rendezvous completes (R98, R118 to R122). A participant alone in its static warp, waiting where its mask names only live members that have
arrived, receives the result of a set of one: VOTE its own value, SHFL and TRED its own register, TSCAN that or the identity, TSYNC
nothing; SETPART sets the width of its static warp. It then stands at the next instruction. -/
def Obligations.RendezvousAlone : Prop :=
  let ends (o : Op) (Q : FormL → Agent → State → Agent → Prop) : Prop :=
    ∀ (s : State) (k : Nat) (a : Agent) (f : FormL) (len : Nat), s.agents.filter (fun p => p.1 / 32 == k / 32) = [(k, a)] → k < taskBase →
      agent? s k = some a → a.inst = some (o, f, len) →
      a.wait = .rendezvous → a.state = .ready → a.kind = .thread → partOf s a ∈ [2, 4, 8, 16, 32] →
      (if o = .setpart then a.mask = 0xFFFFFFFF ∧ a.rb ∈ [2, 4, 8, 16, 32] else a.mask = 2 ^ (laneOf k % partOf s a)) →
      ∃ u b, exec (.rendezvousCompletion k) s = .next u ∧ Passed len a u k b ∧
        Only (if o = .setpart then [.groups, .trigs] else [.trigs]) s u ∧ Others [k] s u ∧ b.inst = none ∧ Q f a u b
  let f32 (c : FormL) : Nat := tyRegs (modTy c.mod)
  ends .tsync (fun _ a _ b => b.core = { a.core with inst := none, skips := a.skips.filter (· != a.pc) }) ∧
  ends .setpart (fun _ a u b => b.core = { a.core with inst := none, skips := a.skips.filter (· != a.pc) } ∧
    ∀ g, group? u a.group = some g → fgetD g.part (a.lin / 32) 32 = a.rb) ∧
  ends .shfl (fun f a _ b => WroteV a b f.dst.toNat 1 a.ra ∧ SameX a b ∧ SameP a b ∧ b.fl = a.fl) ∧
  ends .tred (fun f a _ b => WroteV a b f.dst.toNat (f32 f) a.ra ∧ SameX a b ∧ SameP a b ∧ b.fl = a.fl) ∧
  ends .tscan (fun f a _ b => WroteV a b f.dst.toNat (f32 f) (if modBit f.mod 6 then identity (modTy f.mod) (modCode f.mod) else a.ra) ∧
    SameX a b ∧ SameP a b ∧ b.fl = a.fl) ∧
  ends .vote (fun f a _ b =>
    let x := a.ra % 2
    (match modBits f.mod 2 0 with
      | 0 => WroteP a b f.dst.toNat (x == 1) ∧ SameV a b
      | 1 => WroteP a b f.dst.toNat (x == 1) ∧ SameV a b
      | 2 => WroteP a b f.dst.toNat true ∧ SameV a b
      | 3 => WroteV a b f.dst.toNat 1 (x * a.mask) ∧ SameP a b
      | _ => WroteV a b f.dst.toNat 1 x ∧ SameP a b) ∧ SameX a b ∧ b.fl = a.fl)

/-- TSYNC (R121) completes when its rendezvous completes, for every participant, and has no other effect: once every member that a participant
there names has arrived, each participant stands at the next instruction with all that it held, and the named members' skip marks at that PC
are consumed (R100). Every other party stands where it stood with all that it held. That the participants of one rendezvous are those of one
tile is the model's reading (log 59). -/
def Obligations.WarpSync : Prop :=
  ∀ (s : State) (k : Nat) (a : Agent) (f : FormL) (len : Nat), agent? s k = some a → a.inst = some (.tsync, f, len) →
    a.wait = .rendezvous → (a.state = .ready ∨ a.state = .stepping) → mismatched s k a = none → clashing s k a = [] →
    (∀ j m, (j, m) ∈ peers s k a → ∀ n ∈ named s j m, arrivedAt s a.pc n.2 = true) → ((peers s k a).map (·.1)).Nodup →
    let spent (j : Nat) : Bool := (peers s k a).any fun p => (named s p.1 p.2).any fun n => n.2 == j
    let left (j : Nat) (m : Agent) : Agent := { m.core with skips := if spent j then m.skips.filter (· != a.pc) else m.skips }
    Happens (exec (.rendezvousCompletion k) s) fun u => Only [.trigs] s u ∧
      (∀ j m, (j, m) ∈ peers s k a → agent? s j = some m → ∃ b, Passed len m u j b ∧ b.core = { left j m with inst := none }) ∧
      ∀ j, j ∉ (peers s k a).map (·.1) → (agent? u j).map (fun b => (b.core, b.pc)) = (agent? s j).map fun m => (left j m, m.pc)

/-! ### Memory instructions -/

/-- Loads and atomics with return are producers (R187 to R190, R193): on an aligned address of a space the party may name, with a destination that
keeps its value, the request enters with the party's next sequence number, the destination is emptied, and memory is untouched until the
request is performed. LD, LDS and LDL in forms S, L and X; ATOM and ATOMS. -/
def Obligations.Loads : Prop :=
  let global (c : Ctx') (n : Nat) : Prop := c.ea % n = 0
  let scratch (c : Ctx') (n : Nat) (diag : Bool) (l : List Nat) : Prop :=
    c.ea32 % n = 0 ∧ ∃ cs, csetOf c.s c.a = some cs ∧ scratchLocs c.s cs (ownGroup c.s c.a) c.ea32 n diag = some l
  let private_ (c : Ctx') (n : Nat) : Prop := c.a.kind = .thread ∧ c.ea32 % n = 0 ∧ c.ea32 + n ≤ privSize c.s c.a
  let n (c : Ctx') : Nat := 2 ^ modBits c.f.mod 14 12
  let kept (c : Ctx') : Prop := if c.a.kind = .task then c.f.dst ≠ 0 else c.f.dst ≠ 255
  let dest (c : Ctx') : Dst := if c.a.kind = .task then .x c.f.dst.toNat else .v c.f.dst.toNat (widRegs (modBits c.f.mod 14 12))
  let load (c : Ctx') (addr : Nat) (scr : Bool) (l : List Nat) (q : Access) : Prop :=
    q.kind = .load ∧ q.scratch = scr ∧ q.addr = BitVec.ofNat 64 addr ∧ q.locs = l ∧ q.bytes = n c ∧ q.width = modBits c.f.mod 14 12 ∧
    q.sx = modBit c.f.mod 11 ∧ q.order = modOrder c.f.mod ∧ q.scope = modScope c.f.mod ∧ q.dst = dest c ∧ q.pc = c.a.pc
  let atomic (c : Ctx') (addr : Nat) (scr : Bool) (l : List Nat) (q : Access) : Prop :=
    q.kind = .rmw ∧ q.scratch = scr ∧ q.addr = BitVec.ofNat 64 addr ∧ q.locs = l ∧ q.bytes = n c ∧ q.op = modCode c.f.mod ∧
    q.cmp = c.vc % 2 ^ (8 * n c) ∧ q.data = (if modCode c.f.mod = 7 then c.vc / 2 ^ (8 * n c) else c.vc) % 2 ^ (8 * n c) ∧
    q.order = modOrder c.f.mod ∧ q.scope = modScope c.f.mod ∧ q.dst = dest c ∧ q.pc = c.a.pc
  let parts : List Part := [.ids, .reqs, .markers]
  let diag (c : Ctx') : Bool := modBit c.f.mod 2
  Does .ld .ld (fun c => global c (n c) ∧ kept c) parts (fun c u b => Requested c u b (dest c) (load c c.ea false [])) ∧
  DoesS .ldS .ld (fun c => global c (n c) ∧ kept c) parts (fun c u b => Requested c u b (dest c) (load c c.ea false [])) ∧
  (∀ l, Does .lds .lds (fun c => scratch c (n c) (diag c) l ∧ kept c) parts (fun c u b => Requested c u b (dest c) (load c c.ea32 true l))) ∧
  (∀ l, DoesS .ldsS .lds (fun c => scratch c (n c) (diag c) l ∧ kept c) parts (fun c u b => Requested c u b (dest c) (load c c.ea32 true l))) ∧
  Does .ldl .ldl (fun c => private_ c (n c) ∧ kept c) parts
    (fun c u b => Requested c u b (dest c) (load c (privVa c.s c.k c.a c.ea32) false [])) ∧
  DoesS .ldlS .ldl (fun c => private_ c (n c) ∧ kept c) parts
    (fun c u b => Requested c u b (dest c) (load c (privVa c.s c.k c.a c.ea32) false [])) ∧
  Does .atom .atom (fun c => global c (n c) ∧ kept c) parts (fun c u b => Requested c u b (dest c) (atomic c c.ea false [])) ∧
  (∀ l, Does .atoms .atoms (fun c => scratch c (n c) false l ∧ kept c) parts (fun c u b => Requested c u b (dest c) (atomic c c.ea32 true l)))

/-- Stores and RED (R191, R193): on an aligned address of a space the party may name, and with fewer than 8 of its writes in flight (R316), the
request with the bytes of operand c (in form S, of the register that DST names) enters; no register and no memory changes until it is
performed. ST, STS and STL in forms S, L and X. -/
def Obligations.Stores : Prop :=
  let n (c : Ctx') : Nat := 2 ^ modBits c.f.mod 14 12
  let room (c : Ctx') : Prop := writesOut c.s c.a.uid < 8
  let scratch (c : Ctx') (l : List Nat) : Prop := c.ea32 % n c = 0 ∧ ∃ cs, csetOf c.s c.a = some cs ∧
    scratchLocs c.s cs (ownGroup c.s c.a) c.ea32 (n c) (modBit c.f.mod 2) = some l
  let private_ (c : Ctx') : Prop := c.a.kind = .thread ∧ c.ea32 % n c = 0 ∧ c.ea32 + n c ≤ privSize c.s c.a
  let store (c : Ctx') (addr : Nat) (scr : Bool) (l : List Nat) (q : Access) : Prop :=
    q.kind = .store ∧ q.scratch = scr ∧ q.addr = BitVec.ofNat 64 addr ∧ q.locs = l ∧ q.bytes = n c ∧ q.data = c.vc % 2 ^ (8 * n c) ∧
    q.order = modOrder c.f.mod ∧ q.scope = modScope c.f.mod ∧ q.dst = .none ∧ q.pc = c.a.pc
  let reduce (c : Ctx') (addr : Nat) (q : Access) : Prop :=
    q.kind = .rmw ∧ q.scratch = false ∧ q.addr = BitVec.ofNat 64 addr ∧ q.locs = [] ∧ q.bytes = n c ∧ q.op = modCode c.f.mod ∧
    (modCode c.f.mod ≠ 7 → q.data = c.vc % 2 ^ (8 * n c)) ∧ q.order = modOrder c.f.mod ∧ q.scope = modScope c.f.mod ∧ q.dst = .none ∧ q.pc = c.a.pc
  let parts : List Part := [.ids, .reqs, .markers]
  Does .st .st (fun c => c.ea % n c = 0 ∧ room c) parts (fun c u b => Requested c u b .none (store c c.ea false [])) ∧
  DoesS .stS .st (fun c => c.ea % n c = 0 ∧ room c) parts (fun c u b => Requested c u b .none (store c c.ea false [])) ∧
  (∀ l, Does .sts .sts (fun c => scratch c l ∧ room c) parts (fun c u b => Requested c u b .none (store c c.ea32 true l))) ∧
  (∀ l, DoesS .stsS .sts (fun c => scratch c l ∧ room c) parts (fun c u b => Requested c u b .none (store c c.ea32 true l))) ∧
  Does .stl .stl (fun c => private_ c ∧ room c) parts (fun c u b => Requested c u b .none (store c (privVa c.s c.k c.a c.ea32) false [])) ∧
  DoesS .stlS .stl (fun c => private_ c ∧ room c) parts (fun c u b => Requested c u b .none (store c (privVa c.s c.k c.a c.ea32) false [])) ∧
  Does .red .red (fun c => c.ea % n c = 0 ∧ room c) parts (fun c u b => Requested c u b .none (reduce c c.ea))

/-- Where memory instructions fault (R188, R189, R331): a misaligned address raises MISALIGNED with the address; a scratchpad byte that does not
exist, and any scratchpad address of a handler, PROTECTION; a private access past its end, or by a party without a private space,
STACK_OVERFLOW. That an address both misaligned and out of range raises MISALIGNED is the model's choice (log 76). -/
def Obligations.AccessFaults : Prop :=
  let n (c : Ctx') : Nat := 2 ^ modBits c.f.mod 14 12
  let faults (i : FormL → Instr) (o : Op) (H : Ctx' → Prop) (code : FCode) (addr : Ctx' → Nat) : Prop :=
    ∀ f s k a, Clear o f s k a → let c := ctxOf o f (lenOf f) s k a
      H c → Faults c (exec (i f) s) code { addr := BitVec.ofNat 64 (addr c) }
  let odd (c : Ctx') : Prop := c.ea % n c ≠ 0
  let odd32 (c : Ctx') : Prop := c.ea32 % n c ≠ 0 ∧ c.a.kind ≠ .handler
  let lost (c : Ctx') (diag : Bool) : Prop := c.a.kind = .handler ∨ (c.ea32 % n c = 0 ∧
    ∀ cs, csetOf c.s c.a = some cs → scratchLocs c.s cs (ownGroup c.s c.a) c.ea32 (n c) diag = none)
  let past (c : Ctx') : Prop := c.a.kind = .handler ∨ (c.ea32 % n c = 0 ∧ (c.a.kind ≠ .thread ∨ privSize c.s c.a < c.ea32 + n c))
  faults .ld .ld odd .misaligned Ctx'.ea ∧ faults .st .st odd .misaligned Ctx'.ea ∧ faults .atom .atom odd .misaligned Ctx'.ea ∧
  faults .red .red odd .misaligned Ctx'.ea ∧ faults .lds .lds odd32 .misaligned Ctx'.ea32 ∧ faults .sts .sts odd32 .misaligned Ctx'.ea32 ∧
  faults .atoms .atoms odd32 .misaligned Ctx'.ea32 ∧ faults .lds .lds (fun c => lost c (modBit c.f.mod 2)) .protection Ctx'.ea32 ∧
  faults .sts .sts (fun c => lost c (modBit c.f.mod 2)) .protection Ctx'.ea32 ∧ faults .atoms .atoms (fun c => lost c false) .protection Ctx'.ea32 ∧
  faults .ldl .ldl odd32 .misaligned Ctx'.ea32 ∧ faults .stl .stl odd32 .misaligned Ctx'.ea32 ∧
  faults .ldl .ldl past .stackOverflow Ctx'.ea32 ∧ faults .stl .stl past .stackOverflow Ctx'.ea32

/-- FENCE (R215) ends the party's region and holds later accesses behind the earlier ones. PREF (R194) completes, at once where it does nothing,
else once its line may cross the fabric (R362): it fills a line and may set the leaf's access mark and the home's TLB (R305, R308). Neither
changes a register; FENCE changes no byte. -/
def Obligations.FencesAndPrefetches : Prop :=
  Does .fence .fence (fun _ => True) [.ids, .markers] (fun c _ b => SameV c.a b ∧ SameX c.a b ∧ SameP c.a b ∧ b.fl = c.a.fl ∧ c.a.region < b.region ∧
    ∃ x ∈ b.fences, x.seq = c.a.seq ∧ x.order = modOrder c.f.mod ∧ x.scope = modScope c.f.mod) ∧
  (let found (c : Ctx') (pa home leaf : Nat) (v : State) : Prop := locate c.s (placeOf c.k c.a) c.a.tasid c.ea .load = .at_ pa home leaf v
  let fills (pa leaf : Nat) : Prop := paPkg pa ≠ 255 ∧ bitsN leaf 10 9 ≠ 2
  let crosses (c : Ctx') (home : Nat) : Bool := crossNow c.s (whoOf c.k c.a) (plainLoad (lineOf c.ea) 128 c.a.pc) home
  Does .pref .pref (fun c => ∀ pa home leaf v, found c pa home leaf v → fills pa leaf → crosses c home = true) [.mem, .bases, .lines, .free] (fun c u b =>
    b.core = c.a.core ∧ ((u.mem = c.s.mem ∧ u.bases = c.s.bases) ∨ ∃ pa home leaf v, found c pa home leaf v ∧ u.mem = v.mem ∧ u.bases = v.bases)) ∧
  ∀ f s k a, Clear .pref f s k a → let c := ctxOf .pref f (lenOf f) s k a
    ∀ pa home leaf v, found c pa home leaf v → fills pa leaf → crosses c home = false → Waits c (exec (.pref f) s) .retry)

/-- Translation of an access leaves everything as it was, but for the home's TLB and, in the leaf entry that the home's TLB or walk finds for the
address, the bits ACC and DRT (R305, R308): the leaf then permits the access and has ACC set, and for a write DRT. -/
def Obligations.TranslationFrame : Prop :=
  ∀ (s : State) (p : Place) (asid va : Nat) (need : Need) (n pa home leaf : Nat) (u : State), locate s p asid va need n = .at_ pa home leaf u →
    Only [.mem, .bases] s u ∧ u.agents = s.agents ∧ (∀ h, h ≠ home → base u h = base s h) ∧ { base u home with tlb := [] } = { base s home with tlb := [] } ∧
    (∃ ad e ea size, classify s asid va = some ad ∧ ad.home = home ∧ findLeaf s asid ad = .leaf e ea size ∧ (MemBut s u fun a => ea ≤ a ∧ a < ea + 8) ∧
      (MemoryOk s → ∀ i, i ≠ 7 → i ≠ 8 → bitN (readN u.mem ea 8) i = bitN (readN s.mem ea 8) i)) ∧
    permits leaf need = true ∧ bitN leaf 8 = true ∧
    ((need = .store ∨ need = .rmw) → bitN leaf 7 = true)

/-- A request performed on HBM at its home's translated address (R175, R190, R191, R193): a load gives the bytes there and changes none; a store
puts its data there, an atomic its new value of the old bytes, which it gives; every byte outside the ones named reads as before.
The same of a scratchpad access at its core, on the listed places. -/
def Obligations.AccessPerformed : Prop :=
  (∀ (s : State) (w : Who) (q : Access) (seq pa home leaf : Nat) (u : State) (v : Nat) (po r : Bool),
    performPhys s w q seq pa home leaf = .done u v po r → paPkg pa < 240 → MemoryOk s →
    MemBut s u (fun a => q.kind ≠ .load ∧ pa ≤ a ∧ a < pa + q.bytes) ∧ u.sram = s.sram ∧
    (q.kind = .load → v = readN s.mem pa q.bytes) ∧
    (q.kind = .store → readN u.mem pa q.bytes = q.data % 256 ^ q.bytes) ∧
    (q.kind = .rmw → v = readN s.mem pa q.bytes ∧
      readN u.mem pa q.bytes = atomicNew q.op (8 * q.bytes) (readN s.mem pa q.bytes) q.data q.cmp % 256 ^ q.bytes)) ∧
  (∀ (s : State) (w : Who) (q : Access) (seq : Nat) (u : State) (v : Nat) (po r : Bool),
    performScratch s w q seq = .done u v po r → q.locs.Nodup → MemoryOk s →
    SramBut s u (fun a => q.kind ≠ .load ∧ a ∈ q.locs) ∧ u.mem = s.mem ∧
    (q.kind = .load → v = readLocs s.sram q.locs) ∧
    (q.kind = .store → readLocs u.sram q.locs = q.data % 256 ^ q.locs.length) ∧
    (q.kind = .rmw → v = readLocs s.sram q.locs ∧
      readLocs u.sram q.locs = atomicNew q.op (8 * q.bytes) (readLocs s.sram q.locs) q.data q.cmp % 256 ^ q.locs.length))

/-- READ, WRITE, ATOMIC and SIGNAL_ADDITION (R190, R191, R193, R240, R310) complete for a request that may be performed: a scratchpad access at
its core; any other at its home, where it waits already, or which its flit reaches over the last link of its path, or which no link divides from
its source. What it names stands at that home itself, no other die's copy of the line is to be invalidated, and no earlier write of its party has
been refused there. Memory, scratchpad, region tags, poison and the agenda are what performing the access leaves, and the request stands performed
with the value it gave. At an absent page a load or an atomic with return stands performed with PAGE_FAULT_LOAD, and a write has entered the
home's side log. On its way to its home a request is sent, with room on its first link and its sources not stopped, and crosses link after link
(R362, R364, R371). Requests under way (R190, R213, R317, R370, R375): a message is sent, crosses its links and is delivered. RESP returns a
performed load or atomic, ACK takes a performed store away; both change lines of the die L2 and nothing else. MARKER sends one copy of a marker,
after the relaxed requests before it, takes it over a link, or counts its arrival; MARKERACK takes off the marker whose copies have all arrived;
INVAL drops a die's line and acknowledges, INVALACK ends that. FWD performs a forwarded request where its data lie, with the leaf's marks, and
FWDANS brings its answer home. -/
def Obligations.RequestsPerformed : Prop :=
  (let after (r : Req) (u : State) (v : Nat) (po : Bool) (t : State) : Prop :=
    t.mem = u.mem ∧ t.sram = u.sram ∧ t.tags = u.tags ∧ t.poison = u.poison ∧ t.agenda = u.agenda ∧
    ∃ q, req? t r.id = some q ∧ q.stage = .performed ∧ q.result = v ∧ q.poison = (po && returns r) ∧ q.acc = r.acc ∧ q.fault = r.fault
  let onWay (s : State) (id : Nat) : Option Packet := packetOf s (· ≤ 2) id
  let due (s : State) (r : Req) (ad : Addr) : Prop :=
    onWay s r.id = none ∧ r.stage = .issued ∧ mayPerform s r = true ∧ sourceStopped s ad.pkg (r.acc.rx || r.who.relaxed) = false ∧
    routeOk s r.who.place ad.home = true
  let there (s : State) (r : Req) (ad : Addr) : Prop :=
    (∃ p, onWay s r.id = some p ∧ (p.here = true ∨ (p.path.length ≤ 1 ∧ mayLeave s p = true))) ∨ (onWay s r.id = none ∧ r.stage = .arrived) ∨
    (due s r ad ∧ ∃ p, inject s r.who r.acc r.id ad.home = some p ∧ p.path = [])
  let performs (e : Nat → Instr) (kind : AccKind) (sig : Bool) : Prop :=
    ∀ (s : State) (id : Nat) (r : Req), req? s id = some r → r.acc.kind = kind → r.acc.sig = sig → (r.stage = .issued ∨ r.stage = .arrived) →
      (r.acc.scratch = true → mayPerform s r = true → ∀ u v po x, performScratch s r.who r.acc r.seq = .done u v po x →
        Happens (exec (e id) s) (after r u v po)) ∧
      (r.acc.scratch = false → ∀ ad, classify s r.who.tasid r.acc.addr.toNat = some ad →
        let at_ := locate s r.who.place r.who.tasid r.acc.addr.toNat r.acc.need r.acc.bytes
        (there s r ad →
          (∀ pa h leaf u v po x w, at_ = .at_ pa h leaf u → (sig = true → paPkg pa < 240) → servedAt s ad.home pa = true → mustInvalidate s r pa = [] →
            returns r = true ∨ alreadyRefused s r ad.home = false → performHome u r.who r.acc r.seq pa = .done w v po x →
            Happens (exec (e id) s) (after r w v po)) ∧
          (∀ h, at_ = .absent h → returns r = true →
            Happens (exec (e id) s) fun t => t.mem = s.mem ∧ ∃ q, req? t id = some q ∧ q.stage = .performed ∧ q.fault = some .pageFaultLoad) ∧
          (∀ h u, at_ = .absent h → returns r = false → alreadyRefused s r ad.home = false → logWrite s ad.home r.who r.acc = some u →
            Happens (exec (e id) s) fun t => t.mem = s.mem ∧ t.bases = u.bases ∧ ∃ q, req? t id = some q ∧ q.stage = .performed)) ∧
        (∀ p, due s r ad → inject s r.who r.acc id ad.home = some p → p.path ≠ [] → Enters (exec (e id) s) (send s p)) ∧
        (∀ p, onWay s id = some p → p.here = false → 1 < p.path.length → Enters (exec (e id) s) ((forward s p).getD s)))
  performs .read .load false ∧ performs .write .store false ∧ performs .atomic .rmw false ∧ performs .signalAddition .rmw true) ∧
  ((∀ s id r, req? s id = some r → r.stage = .performed → returns r = true → r.acc.scratch = false →
    let msg := respPacket s r (homeOf s r) true
    Crosses s FlitKind.resp id msg (exec (.resp id) s) ∧
    ∀ v, Delivered s FlitKind.resp id msg v → Happens (exec (.resp id) s) fun u => Only [.reqs, .lines, .free, .fabric, .trigs] s u ∧ Others [] s u ∧
      u.fabric = v.fabric ∧ u.reqs = s.reqs.map fun q => if q.id = id then { r with stage := .returned } else q) ∧
  (∀ s id r, req? s id = some r → r.stage = .performed → returns r = false → r.acc.scratch = true →
    Enters (exec (.ack id) s) { s with reqs := s.reqs.filter (·.id != id) }) ∧
  (∀ s id r, req? s id = some r → r.stage = .performed → returns r = false → r.acc.scratch = false →
    let msg := respPacket s r (homeOf s r) false
    Crosses s FlitKind.ack id msg (exec (.ack id) s) ∧
    ∀ v, Delivered s FlitKind.ack id msg v → Happens (exec (.ack id) s) fun u => Only [.reqs, .lines, .free, .fabric, .trigs] s u ∧ Others [] s u ∧
      u.fabric = v.fabric ∧ u.reqs = s.reqs.filter (·.id != id)) ∧
  (∀ s id m, s.markers.find? (·.id == id) = some m →
    let out := exec (.marker id) s
    let copies := s.fabric.filter fun p => p.kind == FlitKind.marker && p.mail.any (·.2 == id)
    (∀ p t, copies = p :: t → p.path.length ≤ 1 → mayLeave s p = true → Enters out { takeOff s p id with
      markers := s.markers.map fun x => if x.id = id then { x with arrived := x.arrived + 1 } else x }) ∧
    (∀ p t u, copies = p :: t → 1 < p.path.length → forward s p = some u → Enters out u) ∧
    (∀ p t, copies = [] → m.todo = p :: t → sourceStopped s (homePkg s m.target) true = false → relaxedBefore s m = false → roomAt s p = true →
      Enters out { send s p with markers := s.markers.map fun x => if x.id = id then { x with todo := t } else x })) ∧
  (∀ s id m, (s.markers.find? fun m => m.id == id && m.count ≤ m.arrived) = some m →
    let msg := markerackPacket s m
    Crosses s FlitKind.markerack id msg (exec (.markerack id) s) ∧
    ∀ v, Delivered s FlitKind.markerack id msg v → Enters (exec (.markerack id) s) { v with markers := s.markers.filter (·.id != id) }) ∧
  (∀ s id i, (s.invals.find? fun i => i.id == id && !i.acked) = some i →
    let msg := invalPacket s i false
    Crosses s FlitKind.inval id msg (exec (.inval id) s) ∧
    ∀ v, Delivered s FlitKind.inval id msg v → Happens (exec (.inval id) s) fun u => Only [.lines, .invals, .fabric, .trigs] s u ∧ Others [] s u ∧
      u.fabric = v.fabric ∧ (∀ l, l ∈ u.lines ↔ l ∈ s.lines ∧ ¬ (l.die = i.die ∧ l.asid = i.asid ∧ l.va = i.va)) ∧
      u.invals = s.invals.map fun x => if x.id = id then { x with acked := true } else x) ∧
  (∀ s id i, (s.invals.find? fun i => i.id == id && i.acked) = some i →
    let msg := invalPacket s i true
    Crosses s FlitKind.invalack id msg (exec (.invalack id) s) ∧
    ∀ v, Delivered s FlitKind.invalack id msg v → Enters (exec (.invalack id) s) { v with invals := s.invals.filter (·.id != id) }) ∧
  (∀ s id r pa, req? s id = some r → r.stage = .forwarded → r.pa = some pa →
    let msg := fwdPacket s r (homeOf s r) pa
    Crosses s FlitKind.fwd id msg (exec (.fwd id) s) ∧
    ∀ v t x po y, Delivered s FlitKind.fwd id msg v →
      performHome (deviceUse v r.who.tasid r.acc.addr.toNat (r.acc.kind != .load)) r.who r.acc r.seq pa = .done t x po y →
      Happens (exec (.fwd id) s) fun u => u.mem = t.mem ∧ u.poison = t.poison ∧ u.tags = t.tags ∧ u.fabric = v.fabric ∧
        ∃ q, req? u id = some q ∧ q.stage = .answered ∧ q.result = x ∧ q.poison = (po && returns r) ∧ q.acc = r.acc) ∧
  (∀ s id r pa, req? s id = some r → r.stage = .answered → r.pa = some pa →
    let msg := answerPacket s r (homeOf s r) pa
    Crosses s FlitKind.fwdans id msg (exec (.fwdans id) s) ∧
    ∀ v, Delivered s FlitKind.fwdans id msg v → Happens (exec (.fwdans id) s) fun u => Only [.reqs, .fabric, .trigs] s u ∧ Others [] s u ∧
      u.fabric = v.fabric ∧ ∃ q, req? u id = some q ∧ q.stage = .performed ∧ q.result = r.result ∧ q.poison = r.poison ∧ q.fault = r.fault ∧ q.acc = r.acc))

/-! ### Barriers -/

/-- The group barrier (R216 to R220) for a party with no pending delivery whose earlier accesses have been performed. BAR_ARV and BAR_SYNC of a
thread that is not ARRIVED arrive, with a release of its regions; while another live thread of its group has not arrived BAR_ARV goes on and
BAR_SYNC waits; the group's only live thread passes at once. BAR_WAIT goes on unless ARRIVED, when it waits. A second arrival while another live
thread is still to come raises BARRIER_OVERRUN. Memory barrier objects (R215, R221 to R227), on an object at an offset that exists, with the
party's earlier accesses performed and no fence holding it, no conflict on the object's words, room for their region tags and nobody waiting at
it. MBINIT sets EXPECTED and clears the counts. MBARV counts its arrivals and bytes at once, and completes the phase when all have come; with a
register other than V255 it is a producer of the phase that it found (R219). MBTEST and MBWAIT compare the phase of an object that is not
poisoned; MBDROP lowers EXPECTED. Only the object's sixteen bytes of scratchpad change. -/
def Obligations.Barriers : Prop :=
  (let near (c : Ctx') : Prop := c.a.pending = [] ∧ performedNear c.s c.a.uid = true
  let open_ (c : Ctx') : Prop := near c ∧ c.a.kind = .thread ∧ c.a.bar ≠ .arrived
  let behind (c : Ctx') : Prop := ∃ j b, j ≠ c.k ∧ (j, b) ∈ c.s.agents ∧ b.kind = .thread ∧ b.group = c.a.group ∧ b.state ≠ .exited ∧ b.bar ≠ .arrived
  let only (c : Ctx') : Prop := c.a.state ≠ .exited ∧ c.a.wait = .none ∧ c.s.agents.filter (fun p => p.2.kind == .thread && p.2.group == c.a.group) = [(c.k, c.a)]
  let same (c : Ctx') (b : Agent) : Prop := SameV c.a b ∧ SameX c.a b ∧ SameP c.a b ∧ b.fl = c.a.fl
  let clk (c : Ctx') : Clock := fput c.a.clk c.a.uid (c.a.region + 1)
  let waiting (c : Ctx') (o : Op) (a : Agent) : Out :=
    .next (putAgent c.s c.k { a with inst := some (o, c.f, c.len), wait := .barrier, age := 0, urgent := false })
  Does .barArv .barArv (fun c => open_ c ∧ behind c) [] (fun c _ b => b.bar = .arrived ∧ b.barClk = clk c ∧ same c b) ∧
  Does .barArv .barArv (fun c => open_ c ∧ only c) [.groups] (fun c u b => b.bar = .passed ∧ same c b ∧
    ∀ g, group? c.s c.a.group = some g → ∃ h, group? u c.a.group = some h ∧ h.phases = g.phases + 1) ∧
  Does .barSync .barSync (fun c => open_ c ∧ only c) [.groups] (fun c u b => b.bar = .none ∧ same c b ∧
    ∀ g, group? c.s c.a.group = some g → ∃ h, group? u c.a.group = some h ∧ h.phases = g.phases + 1) ∧
  (∀ f s k a, Clear .barSync f s k a → let c := ctxOf .barSync f (lenOf f) s k a
    open_ c → behind c → exec (.barSync f) s = waiting c .barSync { a with region := a.region + 1, bar := .arrived, barClk := clk c }) ∧
  Does .barWait .barWait (fun c => c.a.pending = [] ∧ c.a.bar ≠ .arrived) [] (fun c _ b => b.bar = .none ∧ same c b ∧ c.a.region < b.region) ∧
  (∀ f s k a, Clear .barWait f s k a → let c := ctxOf .barWait f (lenOf f) s k a
    a.pending = [] → a.bar = .arrived → exec (.barWait f) s = waiting c .barWait { a with region := a.region + 1 }) ∧
  (∀ f s k a, Clear .barSync f s k a → let c := ctxOf .barSync f (lenOf f) s k a
    a.pending = [] → a.bar = .arrived → behind c → Faults c (exec (.barSync f) s) .barrierOverrun {}) ∧
  (∀ f s k a, Clear .barArv f s k a → let c := ctxOf .barArv f (lenOf f) s k a
    a.pending = [] → a.bar = .arrived → behind c → Faults c (exec (.barArv f) s) .barrierOverrun {})) ∧
  (let free (s : State) (w : Who) (l : List Nat) : Prop := MemoryOk s ∧ l.Nodup ∧ l.length = 16 ∧ TagsFit s (wordsOfLocs l) ∧
    hits s w true true (wordsOfLocs l) = [] ∧ ∀ j a, (j, a) ∈ s.agents → ∀ p n, a.wait ≠ .object (l.headD 0) p n
  let at_ (c : Ctx') (l : List Nat) : Prop := free c.s (whoOf c.k c.a) l ∧ mbLocs c.s c.a (c.va % 2 ^ 32) = .inr l ∧ mbReady c = true
  let clean (c : Ctx') (l : List Nat) : Prop := poisonedWords c.s (wordsOfLocs l) = false
  let obj (s : State) (l : List Nat) : MbObj := mbOf (readLocs s.sram l)
  let n (c : Ctx') : Nat := c.vb % 2 ^ 32
  let settled (o : MbObj) : MbObj :=
    if o.arrived = o.expected ∧ o.pend = 0 then { o with phase := (o.phase + 1) % 16, arrived := 0, drop := false } else o
  let parts : List Part := [.sram, .tags, .rels]
  let changed (c : Ctx') (u : State) (l : List Nat) (o : MbObj) : Prop := obj u l = o ∧ SramBut c.s u (· ∈ l)
  let bare (c : Ctx') (b : Agent) : Prop := SameX c.a b ∧ b.fl = c.a.fl ∧ c.a.region < b.region
  ∀ l : List Nat,
    Does .mbinit .mbinit (fun c => at_ c l ∧ n c ≤ 65535) parts (fun c u b =>
      changed c u l { obj c.s l with expected := n c, arrived := 0, ovr := false, drop := false, pend := 0 } ∧ SameV c.a b ∧ SameP c.a b ∧ bare c b) ∧
    Does .mbarv .mbarv (fun c => at_ c l ∧ c.f.dst = 255 ∧ (obj c.s l).arrived + n c ≤ (obj c.s l).expected) parts (fun c u b =>
      let o := obj c.s l
      changed c u l (settled { o with arrived := o.arrived + n c, pend := (o.pend + c.vc % 2 ^ 32) % 2 ^ 64 }) ∧ SameV c.a b ∧ SameP c.a b ∧ bare c b) ∧
    Does .mbarv .mbarv (fun c => at_ c l ∧ c.f.dst ≠ 255 ∧ (obj c.s l).arrived + n c ≤ (obj c.s l).expected) [.sram, .tags, .rels, .ids, .prods]
      (fun c u b =>
      let o := obj c.s l
      changed c u l (settled { o with arrived := o.arrived + n c, pend := (o.pend + c.vc % 2 ^ 32) % 2 ^ 64 }) ∧
      u.prods = c.s.prods ++ [{ id := c.s.nextId, key := c.k, uid := c.a.uid, dst := .v c.f.dst.toNat 1, value := o.phase, flags := 0,
                                poison := poisonedWords c.s (wordsOfLocs l) }] ∧ EmptiedV c.a b c.f.dst.toNat 1 ∧ SameP c.a b ∧ bare c b) ∧
    Does .mbtest .mbtest (fun c => at_ c l ∧ clean c l) parts (fun c u b =>
      changed c u l (obj c.s l) ∧ WroteP c.a b c.f.dst.toNat (decide ((obj c.s l).phase ≠ c.vb % 16)) ∧ SameV c.a b ∧ bare c b) ∧
    Does .mbwait .mbwait (fun c => at_ c l ∧ clean c l ∧ (obj c.s l).phase ≠ c.vb % 16) parts (fun c u b =>
      changed c u l (obj c.s l) ∧ WroteP c.a b c.f.dst.toNat true ∧ SameV c.a b ∧ bare c b) ∧
    Does .mbdrop .mbdrop (fun c => at_ c l ∧ (obj c.s l).arrived + n c ≤ (obj c.s l).expected) parts (fun c u b =>
      let o := obj c.s l
      changed c u l (settled { o with expected := o.expected - n c, drop := o.drop || decide (n c ≠ 0) }) ∧ SameV c.a b ∧ SameP c.a b ∧ bare c b))

/-! ### Queues, signals and triggers -/

/-- CPY and CPYT (R243, R247 to R249), for a party with nothing outstanding: the entry, linear from the operands or the descriptor that CPYT reads
or has read, completed by the device, is pushed to the COPY queue that MOD names, with the release of the party's region. -/
def Obligations.CopyInstructions : Prop :=
  let pushes (c : Ctx') (out : Out) (img : Nat) (read : Bool) : Prop :=
    let fits (scr : Bool) (off n : Nat) : Prop := scr = false ∨ n = 0 ∨ ∃ cs, csetOf c.s c.a = some cs ∧ off + n ≤ 2 ^ 32 ∧
      (off + n - 1) / 2 ^ 20 = off / 2 ^ 20 ∧ (scratchByte c.s cs (ownGroup c.s c.a) off).isSome ∧
      (scratchByte c.s cs (ownGroup c.s c.a) (off + n - 1)).isSome
    let entry := stampCopy c.s c.k (some c.a) img
    let qk := qkey c.a.asid (8 + modBits c.f.mod 1 0)
    let comp := bitsN img 12 11
    copyMalformed entry false = false → fits (bitN img 8) (bitsN img 159 128) (copySpan img (bitsN img 351 320)) →
    fits (bitN img 9) (bitsN img 223 192) (copySpan img (bitsN img 383 352)) → (comp = 2 → fits true (bitsN img 95 64) 16) →
    (comp = 1 → ∀ e, checkSignal c.s c.k c.a (bitsN entry 127 64) ≠ .bad e) → (comp = 2 → bitsN entry 95 64 % 16 = 0) → (comp = 3 → bitsN entry 127 64 < 64) →
    Settled c → ∀ q, queue? c.s qk = some q → q.state ≠ .disabled → q.inPlace → q.full = false →
      Moves c out [.mem, .bases, .queues, .lines, .poison] fun u b =>
        Pushed c.s u qk entry { issuer := some (c.k, c.a.uid), group := if c.a.kind = .thread then some c.a.group else none,
                                clk := fput c.a.clk c.a.uid (c.a.region + 1) } q ∧
        b.core = (if read then { c.a.core with image := none } else c.a.core) ∧ c.a.region < b.region
  let comp (c : Ctx') : Nat := match modBits c.f.mod 3 2 with | 0 => 0 | 1 => c.vd | _ => c.vd % 2 ^ 32
  let flag (m : BitVec 15) (n : Nat) : Nat := if modBit m n then 1 else 0
  (∀ f s k a, Clear .cpy f s k a → let c := ctxOf .cpy f (lenOf f) s k a
    pushes c (exec (.cpy f) s) (1 + flag f.mod 4 * 2 ^ 8 + flag f.mod 5 * 2 ^ 9 + flag f.mod 6 * 2 ^ 10 + modBits f.mod 3 2 * 2 ^ 11 +
      comp c * 2 ^ 64 + c.va * 2 ^ 128 + c.vb * 2 ^ 192 + c.vc % 2 ^ 32 * 2 ^ 256 + 2 ^ 288) false) ∧
  (∀ f s k a, Clear .cpyt f s k a → let c := ctxOf .cpyt f (lenOf f) s k a
    c.va % 64 = 0 → ∀ u e n, readOnce c c.va 64 = .inr (u, e) → agent? u k = some { a with top := n } →
      pushes { c with s := u, a := { a with top := n } } (exec (.cpyt f) s)
        (setBitsN (setBitsN (setBitsN e 12 11 (modBits f.mod 3 2)) 10 10 (modBits f.mod 6 6)) 127 64 (comp c)) true)

/-- Signals (R240, R250, R251): QSIG of a party with nothing outstanding ends its region and sends the addition of b to the signal a as a release
at SYS scope. QWAIT completes with true when the signal has reached b, having marked its page as used (R305), else it waits for it; one that was
woken completes with true. A misaligned signal raises MISALIGNED, one that nothing may count in PROTECTION. The oldest pending delivery comes
before any effect of a QWAIT (R239): the party freezes with its code, queue, entry and status, and the delivery is gone. -/
def Obligations.Signals : Prop :=
  (let at_ (c : Ctx') : DWord := BitVec.ofNat 64 c.va
  Does .qsig .qsig (fun c => Settled c ∧ ∀ e, checkSignal c.s c.k c.a c.va ≠ .bad e) [.ids, .reqs] (fun c u b =>
    Requested c u b .none (fun q => q = { addAccess c.va c.vb with pc := c.a.pc }) ∧ c.a.region < b.region) ∧
  Does .qwait .qwait (fun c => c.a.inst = none ∧ c.a.pending = [] ∧ ∃ e, checkSignal c.s c.k c.a c.va = .ok e ∧ sigReached e c.a.tasid (at_ c) c.vb = true)
    [.mem, .bases] (fun c u b => (∀ e, checkSignal c.s c.k c.a c.va = .ok e → u.mem = e.mem ∧ u.bases = e.bases) ∧
    WroteP c.a b c.f.dst.toNat true ∧ SameV c.a b ∧ SameX c.a b ∧ b.fl = c.a.fl ∧ c.a.region < b.region) ∧
  Does .qwait .qwait (fun c => c.a.inst.isSome = true) [] (fun c _ b =>
    WroteP c.a b c.f.dst.toNat true ∧ SameV c.a b ∧ SameX c.a b ∧ b.fl = c.a.fl ∧ b.inst = none) ∧
  (∀ f s k a, Clear .qwait f s k a → let c := ctxOf .qwait f (lenOf f) s k a
    a.inst = none → a.pending = [] → ∀ e, checkSignal s k a c.va = .ok e → sigReached e a.tasid (at_ c) c.vb = false →
    exec (.qwait f) s = .next (putAgent e k { a with
      region := a.region + 1, inst := some (.qwait, f, lenOf f), wait := .signal (at_ c) (BitVec.ofNat 64 c.vb) (modBits f.mod 7 0), age := 0,
      urgent := false })) ∧
  (∀ f s k a, Clear .qsig f s k a → let c := ctxOf .qsig f (lenOf f) s k a
    ∀ e, checkSignal s k a c.va = .bad e → Faults c (exec (.qsig f) s) e { addr := at_ c }) ∧
  (∀ s k a va, va % 8 ≠ 0 → checkSignal s k a va = .bad .misaligned)) ∧
  (∀ f s k a d t, Clear .qwait f s k a → a.inst = none → a.pending = d :: t →
    Faults { ctxOf .qwait f (lenOf f) s k a with a := { a with pending := t } } (exec (.qwait f) s) d.code
      { qid := d.qid, entry := d.entry, x0 := d.x0, other := true })

/-- QFENCE (R252) pushes a join marker to QA that waits for what has been pushed to QB; TRIG (R253) arms a trigger at its signal's home, due at once
when the signal has reached its threshold; TRDY (R254) counts in a residency token after a release. -/
def Obligations.FencesTriggersTokens : Prop :=
  (∀ qa qb q, Does .qfence .qfence (fun c => queueOf c.s c.a (modBits c.f.mod 5 0) = some qa ∧ queueOf c.s c.a (modBits c.f.mod 11 6) = some qb ∧
      queue? c.s qa = some q ∧ q.state ≠ .disabled ∧ q.inPlace ∧ q.full = false) [.mem, .bases, .queues, .lines, .poison] fun c u b =>
    let n := match queue? c.s qb with | some x => x.pushed | none => 0
    Pushed c.s u qa 0 { issuer := some (c.k, c.a.uid), group := if c.a.kind = .thread then some c.a.group else none,
                        marker := some (qb, if qa = qb then 0 else n) } q ∧ b.core = c.a.core) ∧
  (∀ qk ad, Does .trig .trig (fun c => queueOf c.s c.a (modBits c.f.mod 5 0) = some qk ∧ (∀ e, checkSignal c.s c.k c.a c.va ≠ .bad e) ∧
      classify c.s c.a.tasid c.va = some ad ∧ c.vc % 64 = 0 ∧ (c.s.trigs.filter fun t => t.home == ad.home).length < 1024)
      [.ids, .trigs, .mem, .bases] fun c u b => b.core = c.a.core ∧ u.trigs.length = c.s.trigs.length + 1 ∧
    (match checkSignal c.s c.k c.a c.va with | .ok e => u.mem = e.mem ∧ u.bases = e.bases | _ => u.mem = c.s.mem ∧ u.bases = c.s.bases) ∧
    ∃ t ∈ u.trigs, t.id = c.s.nextId ∧ t.asid = c.a.asid ∧ t.home = ad.home ∧ t.signal = BitVec.ofNat 64 c.va ∧ t.thr = BitVec.ofNat 64 c.vb ∧
      t.image = BitVec.ofNat 64 c.vc ∧ t.q = qk ∧ t.issuer = some (c.k, c.a.uid) ∧ t.group = (if c.a.kind = .thread then some c.a.group else none) ∧
      t.state = if sigReached u c.a.tasid t.signal t.thr.toNat = true then .fired else .armed) ∧
  (∀ ck cs, Does .trdy .trdy (fun c => c.vb % 2 ^ 32 < 64 ∧ Settled c ∧ csetKey c.s c.a = some ck ∧ cset? c.s ck = some cs ∧ cs.retired = false)
      [.csets] fun c u b =>
    let n := c.vb % 2 ^ 32
    let v := (fgetD cs.toks n 0 + 1) % 65536
    cset? u ck = some { cs with toks := fput cs.toks n v,
                                adds := cs.adds ++ [{ tok := n, count := v, clk := fput c.a.clk c.a.uid (c.a.region + 1) }] } ∧
    (∀ j, j ≠ ck → cset? u j = cset? c.s j) ∧ Kept c.a b ∧ c.a.region < b.region)

/-! ### Kernels and work lists -/

/-- LAUNCH (R163) completes: the 64-byte header at a, read at issue, is pushed to the launch queue that MOD names, with the releases of the
thread's fences for the kernel's start. With a full queue it waits with the header that it has read. A misaligned header raises MISALIGNED, a
disabled queue QUEUE_ERROR. APPEND (R164, R167, R170) completes at its APPEND_ARRIVAL: once what the thread wrote before a release fence has been
performed, it waits with its item in flight, and the arrival puts the item at the end of the list, or with a taker waiting completes the first
one's WLTAKE with it, and lets the thread go on; a full list raises QUEUE_ERROR in the thread instead. A list number that the kernel does not
have, or a quiescent kernel, raises QUEUE_ERROR at once. WLTAKE (R168 to R170) completes with the list's first item and false, and with what its
APPEND released for a later acquire fence, or with 0 and true once the kernel is quiescent; with neither it waits, its destinations empty, at the
end of the list's takers. -/
def Obligations.KernelWork : Prop :=
  (∀ f s k a, Clear .launch f s k a →
    let c := ctxOf .launch f (lenOf f) s k a
    let qk := qkey a.asid (modBits f.mod 1 0)
    (c.va % 64 ≠ 0 → Faults c (exec (.launch f) s) .misaligned { addr := BitVec.ofNat 64 c.va }) ∧
    (c.va % 64 = 0 → ∀ u h n, readOnce c c.va 64 = .inr (u, h) → agent? u k = some { a with top := n } →
      (disabled u qk = true → Faults c (exec (.launch f) s) .queueError {}) ∧
      (∀ q, queue? u qk = some q → q.state ≠ .disabled → q.full = true → 
        Waits { c with s := u, a := { a with top := n, image := some h } } (exec (.launch f) s) .retry) ∧
      (∀ q, queue? u qk = some q → q.state ≠ .disabled → q.inPlace → q.full = false →
        Moves { c with s := u, a := { a with top := n } } (exec (.launch f) s) [.mem, .bases, .queues, .lines, .poison] fun v b =>
          Pushed u v qk h { issuer := some (k, a.uid), group := if a.kind = .thread then some a.group else none, lclk := a.relF } q ∧
          b.core = { a.core with image := none }))) ∧
  (∀ f s k a, Clear .append f s k a → a.state = .ready →
    let c := ctxOf .append f (lenOf f) s k a
    let d := c.vb % 2 ^ 32
    let item : DWord := BitVec.ofNat 64 c.va
    let l := wlist s a.kernel d
    let held (x : Fence) : Prop := x.order ≠ 2 ∧ fenceHolds s (s.reqs.filter (·.who.uid == a.uid)) a.uid a.seq false x = true
    (∀ kn, kernel? s a.kernel = some kn → d < kn.nwl → kn.quiet = false → (∃ x ∈ a.fences, held x) → Waits c (exec (.append f) s) .retry) ∧
    (∀ kn, kernel? s a.kernel = some kn → d < kn.nwl → kn.quiet = false → (∀ x ∈ a.fences, ¬ held x) → (∀ p ∈ s.appends, p.id ≠ s.nextId) →
      ∃ t, exec (.append f) s = .next t ∧
      (l.takers = [] → l.items.length < 2 ^ kn.wlcapl →
        ∃ u b, exec (.appendArrival s.nextId) t = .next u ∧ Passed (lenOf f) a u k b ∧ Only [.ids, .lists, .trigs] s u ∧ Others [k] s u ∧
          b.core = { a.core with inst := none } ∧ wlist u a.kernel d = { l with items := l.items ++ [(item, a.relF)] }) ∧
      (∀ x ts j m o g len, l.takers = x :: ts → x ≠ a.uid → agentOf s x = some (j, m) → j ≠ k → m.state = .ready → m.inst = some (o, g, len) →
        ∃ u b e, exec (.appendArrival s.nextId) t = .next u ∧ Passed (lenOf f) a u k b ∧ Passed len m u j e ∧ Only [.ids, .lists, .trigs] s u ∧
          Others [k, j] s u ∧ b.core = { a.core with inst := none } ∧ wlist u a.kernel d = { l with takers := ts } ∧
          WroteV m e g.dst.toNat 2 item.toNat ∧ WroteP m e g.c.toNat false ∧ SameX m e ∧ e.fl = m.fl ∧ e.inst = none) ∧
      (l.takers = [] → 2 ^ kn.wlcapl ≤ l.items.length →
        ∃ u b r, exec (.appendArrival s.nextId) t = .next u ∧ agent? u k = some b ∧ b.state = .frozen ∧ b.pc = a.pc ∧ b.record = some r ∧
          r.code = .queueError ∧ wlist u a.kernel d = l)) ∧
    ((∀ kn, kernel? s a.kernel = some kn → kn.nwl ≤ d ∨ kn.quiet = true) → Faults c (exec (.append f) s) .queueError {})) ∧
  (let d (c : Ctx') : Nat := c.vb % 2 ^ 32
  let given (c : Ctx') (b : Agent) (x : Nat) (p : Bool) (rs : List Rel) : Prop :=
    WroteV c.a b c.f.dst.toNat 2 x ∧ WroteP c.a b c.f.c.toNat p ∧ SameX c.a b ∧ b.fl = c.a.fl ∧ b.acqP = rs.foldl addRel c.a.acqP ∧
      SameRest { c.a with acqP := b.acqP } b
  (∀ kn x t, Does .wltake .wltake (fun c => kernel? c.s c.a.kernel = some kn ∧ d c < kn.nwl ∧ kn.quiet = false ∧
      (wlist c.s c.a.kernel (d c)).items = x :: t) [.lists] fun c u b =>
    given c b x.1.toNat false x.2 ∧ wlist u c.a.kernel (d c) = { wlist c.s c.a.kernel (d c) with items := t }) ∧
  (∀ kn, Does .wltake .wltake (fun c => kernel? c.s c.a.kernel = some kn ∧ d c < kn.nwl ∧ kn.quiet = true) [] fun c _ b => given c b 0 true []) ∧
  (∀ f s k a, Clear .wltake f s k a → let c := ctxOf .wltake f (lenOf f) s k a
    ∀ kn, kernel? s a.kernel = some kn → d c < kn.nwl → kn.quiet = false → (wlist s a.kernel (d c)).items = [] →
      Happens (exec (.wltake f) s) fun u =>
        wlist u a.kernel (d c) = { wlist s a.kernel (d c) with takers := (wlist s a.kernel (d c)).takers ++ [a.uid] } ∧ Only [.lists] s u ∧
        Others [k] s u ∧ ∃ b, agent? u k = some b ∧ b.wait = .take (lkey a.kernel (d c)) ∧ b.pc = a.pc ∧ b.inst = some (.wltake, f, lenOf f) ∧
          EmptiedV a b f.dst.toNat 2 ∧ EmptiedP a b f.c.toNat))

/-! ### The mash region -/

/-- The mash instructions (R291, R295 to R297, R299): the die's mash unit checks the fields against its 256 rows, the lanes against the declared
ways, and the address, and pushes the entry to the die's MASH queue. CARVE and MS_REL, whose signal may be none and is checked else (R240), also
declare the context's ways. Where an entry holds its fields is the model's own (log 34), and so is that WIDE widens D alone of MS_MUL's fields
(log 33). -/
def Obligations.MashInstructions : Prop :=
  let key (c : Ctx') : Nat := mashKey c.a.asid (dieOf c.k)
  let w (c : Ctx') : Nat := modBits c.f.mod 5 0 + 1
  let rd (c : Ctx') : Nat × Nat := (c.f.dst.toNat, w c)
  let ra (c : Ctx') : Nat × Nat := (c.f.a.toNat, w c)
  let rb (c : Ctx') : Nat × Nat := (bNum c.f, w c)
  let word (c : Ctx') : Nat := c.vb % 2 ^ 32
  let none (_ : Ctx') : Nat := 0
  let entry (c : Ctx') (op ea n : Nat) : Nat :=
    op + c.f.dst.toNat * 2 ^ 8 + c.f.a.toNat * 2 ^ 16 + bNum c.f * 2 ^ 24 + c.f.mod.toNat * 2 ^ 32 + c.f.c.toNat * 2 ^ 48 + ea * 2 ^ 64 + n * 2 ^ 128
  let party (c : Ctx') : EntryMeta := { issuer := some (c.k, c.a.uid), group := if c.a.kind = .thread then some c.a.group else Option.none }
  let fit (l : List (Nat × Nat)) : Prop := ∀ x ∈ l, x.1 + x.2 ≤ 256
  let ready (c : Ctx') (q : Queue) : Prop := queue? c.s (key c) = some q ∧ q.state ≠ .disabled ∧ q.inPlace ∧ q.full = false
  let parts : List Part := [.mem, .bases, .queues, .lines, .poison]
  -- an operation on rows, or a transfer of lanes
  let accepted (i : FormL → Instr) (o : Op) (op : Nat) (align : Ctx' → Nat) (addr : Bool) (fields : Ctx' → List (Nat × Nat)) (n bound : Ctx' → Nat) : Prop :=
    (∀ q, Does i o (fun c => ready c q ∧ q.kdecl ≠ 0 ∧ fit (fields c) ∧ bound c ≤ q.kdecl * Config.wayLanes ∧ c.va % align c = 0) parts fun c u b =>
      Pushed c.s u (key c) (entry c op (if addr then c.va else 0) (n c)) (party c) q ∧ b.core = c.a.core) ∧
    (∀ f s k a, Clear o f s k a → let c := ctxOf o f (lenOf f) s k a
      (¬ fit (fields c) ∨ ∀ q, queue? s (key c) = some q → q.kdecl = 0) → Faults c (exec (i f) s) .mashRange {})
  let row (i : FormL → Instr) (o : Op) (op : Nat) (fields : Ctx' → List (Nat × Nat)) (n : Ctx' → Nat) : Prop := accepted i o op (fun _ => 1) false fields n none
  -- CARVE and MS_REL: the pushed queue, with its declaration
  let declares (i : FormL → Instr) (o : Op) (op : Nat) (n : Ctx' → Nat) (H : Ctx' → Queue → Prop) : Prop :=
    ∀ q, Does i o (fun c => ready c q ∧ H c q ∧ c.va % 8 = 0 ∧ (c.va ≠ 0 → ∀ e, checkSignal c.s c.k c.a c.va ≠ .bad e)) parts fun c u b => b.core = c.a.core ∧
      ∃ v, Pushed c.s v (key c) (entry c op c.va (n c)) (party c) q ∧
        queue? u (key c) = (queue? v (key c)).map (fun q => { q with kdecl := n c }) ∧ (∀ j, j ≠ key c → queue? u j = queue? v j) ∧
        MemBut v u (deviceBytes v q.asid q.recVa.toNat 64)
  row .msAdd .msAdd 0x93 (fun c => [rd c, ra c, rb c]) none ∧ row .msSub .msSub 0x94 (fun c => [rd c, ra c, rb c]) none ∧
  row .msMul .msMul 0x95 (fun c => [(c.f.dst.toNat, if modBit c.f.mod 11 then 2 * w c else w c), ra c, rb c]) none ∧
  row .msMulc .msMulc 0x96 (fun c => [rd c, ra c]) word ∧ row .msLog .msLog 0x97 (fun c => [rd c, ra c, rb c]) none ∧
  row .msCmp .msCmp 0x98 (fun c => [ra c, rb c]) none ∧ row .msSel .msSel 0x99 (fun c => [rd c, ra c, rb c]) none ∧
  row .msSet .msSet 0x9A (fun c => [rd c]) word ∧ row .msCpy .msCpy 0x9B (fun c => [rd c, (c.f.a.toNat, bNum c.f + 1)]) none ∧
  row .msShr .msShr 0x9C (fun c => [rd c, ra c]) none ∧ accepted .msRsum .msRsum 0x9D (fun _ => 8) true (fun c => [rd c]) none none ∧
  accepted .msCmpt .msCmpt 0x9E (fun _ => 4) true (fun _ => []) word none ∧
  accepted .msLdt .msLdt 0x91 (fun c => 2 ^ modBits c.f.mod 12 11) true (fun c => [rd c]) word word ∧
  accepted .msStt .msStt 0x92 (fun c => 2 ^ modBits c.f.mod 12 11) true (fun c => [rd c]) word word ∧
  declares .carve .carve 0x90 word (fun c q => word c ≤ 12 ∧ q.kdecl = 0) ∧ declares .msRel .msRel 0x9F none (fun _ _ => True)

/-! ### Tile tasks -/

/-- The matrix operations (R275, R278 to R282) of a task on its control core, with room in the engine (R280): an operation whose tables are
loaded, whose formats have a row in R270, whose descriptors, view or BYP it may use, and whose tiles are aligned and lie in the task's
window, enters the engine behind the earlier ones, with its operands as issued; the accumulators change only in its k-steps. A pair of
formats without a row raises ILLEGAL_OPCODE, a misaligned tile MISALIGNED with its offset. -/
def Obligations.MatrixOperations : Prop :=
  let eng (c : Ctx') : Engine := engine c.s (clusterOf c.k)
  let enters (i : FormL → Instr) (o : Op) (opc : Nat) (aop bop fmw : Ctx' → Nat) (H : Ctx' → List (Bool × Nat × Nat) → Prop) : Prop :=
    ∀ ext, Does i o (fun c => c.a.kind = .task ∧ (eng c).ops.length < 16 ∧ H c ext) [.clusters] fun c u b =>
      engine u (clusterOf c.k) = { eng c with ops := (eng c).ops ++ [{
        opc := opc, dst := c.f.dst.toNat, af := c.f.a.toNat, mod := c.f.mod, aop := BitVec.ofNat 64 (aop c), bop := BitVec.ofNat 64 (bop c),
        fmw := BitVec.ofNat 64 (fmw c), pc := c.a.pc, who := { whoOf c.k c.a with engine := true }, seq := c.a.seq, ext := ext,
        fences := c.a.fences }] } ∧
      (∀ j, j ≠ clusterOf c.k → cluster u j = cluster c.s j) ∧ b.core = { c.a.core with seq := c.a.seq + 1 }
  let tile := TileOk
  let inside := Ctx'.inWindow
  let tabs (opc : Nat) (a : Ctx' → Nat) (c : Ctx') : Prop := c.tabsReady opc (a c)
  let multiplies (opc : Nat) (a : Ctx' → Nat) (c : Ctx') (ext : List (Bool × Nat × Nat)) : Prop := c.multiplies opc (a c) ext
  let va : Ctx' → Nat := Ctx'.va
  let zero (_ : Ctx') : Nat := 0
  let tmacA (c : Ctx') : Nat := if modBits c.f.mod 5 4 = 0 then c.va else 0
  let len (c : Ctx') : Nat := 32 * (if modBit c.f.mod 2 then 8 else if modBits c.f.mod 1 0 = 0 then 4 else 2)
  let rows (c : Ctx') : Nat := modBits c.f.mod 8 4 + 1
  enters .tzero .tzero 0xC3 zero zero zero (fun _ ext => ext = []) ∧
  enters .mma .mma 0xC4 va Ctx'.vb Ctx'.vc (multiplies 0xC4 va) ∧ enters .mmac .mmac 0xC5 zero Ctx'.vb Ctx'.vc (multiplies 0xC5 zero) ∧
  enters .mmab .mmab 0xC6 zero Ctx'.vb Ctx'.vc (multiplies 0xC6 zero) ∧ enters .tmac .tmac 0xC7 tmacA Ctx'.vb Ctx'.vc (multiplies 0xC7 tmacA) ∧
  enters .tdrn .tdrn 0xC8 Ctx'.vb zero zero (fun c ext => modBit c.f.mod 3 = true ∧ c.vb % 16 = 0 ∧ ext = [(true, c.vb, len c * rows c)]) ∧
  enters .tdrn .tdrn 0xC8 Ctx'.vb zero zero (fun c ext =>
    let n := (rows c - 1) * tileStr c.vb (len c) + len c
    modBit c.f.mod 3 = false ∧ tile c.vb (if modBit c.f.mod 2 then 256 else 128) ∧ inside c [(tileOff c.vb, n)] ∧ ext = [(false, tileOff c.vb, n)]) ∧
  enters .tdrnb .tdrnb 0xC9 zero zero Ctx'.vc (fun c ext => tabs 0xC9 zero c ∧ fmA c.vc < 13 ∧ (fmA c.vc = 0 ↔ modBit c.f.mod 2 = true) ∧
    (isNf (fmA c.vc) = true → (nfOf ((eng c).nfAt (bitsN c.vc 10 8))).valid (fmA c.vc) = true) ∧ ext = []) ∧
  (∀ f s k a, Clear .mma f s k a → let c := ctxOf .mma f (lenOf f) s k a
    tabs 0xC4 va c → kPerStep (fmA c.vc) (fmB c.vc) (modBits f.mod 1 0) = none → Faults c (exec (.mma f) s) .illegalOpcode {}) ∧
  (∀ f s k a, Clear .tdrn f s k a → let c := ctxOf .tdrn f (lenOf f) s k a
    modBit f.mod 3 = false → tileOff c.vb % 16 ≠ 0 → Faults c (exec (.tdrn f) s) .misaligned { addr := BitVec.ofNat 64 (tileOff c.vb) })

/-- The other instructions of the control core (R275, R278, R283 to R285). TFMT writes a descriptor that no operation in the engine names, and
waits while one does; TCT and TCFG send one scratchpad load of 128 or 64 bytes to a table; TWAIT raises the oldest pending delivery before any
effect, ends the region, and waits until every operation and table load is done; TFLG reads its queue's flags and clears the masked ones; ENDT of
a task with nothing outstanding releases and ends it, having decremented JOIN; TASKPUSH pushes the record that it reads to the cluster set's TASK
queue, and a disabled queue raises QUEUE_ERROR. EXIT in forms S and L (R106) waits while a producer, load or atomic with return is outstanding.
Then a thread is EXITED, with its group RETIRING when it was the last; a handler's slot is EMPTY; on the control core the task ends. -/
def Obligations.TaskInstructions : Prop :=
  (let eng (c : Ctx') : Engine := engine c.s (clusterOf c.k)
  let named (c : Ctx') : Bool := namedInEngine (eng c) c.f.dst.toNat
  let table (n : Nat) (l : List Nat) (c : Ctx') : Prop := c.a.kind = .task ∧ c.ea32 % 16 = 0 ∧ (∃ cs, csetOf c.s c.a = some cs ∧
    scratchLocs c.s cs none c.ea32 n false = some l) ∧ named c = false ∧ tabLoading c.s c.a.uid c.f.dst.toNat = false
  let load (n : Nat) (l : List Nat) (c : Ctx') (q : Access) : Prop :=
    q.kind = .load ∧ q.scratch = true ∧ q.addr = BitVec.ofNat 64 c.ea32 ∧ q.locs = l ∧ q.bytes = n ∧ q.dst = .tab c.f.dst.toNat ∧ q.pc = c.a.pc
  let parts : List Part := [.ids, .reqs, .markers]
  let ends (c : Ctx') (out : Out) (s : State) (code : Nat) : Prop :=
    out = .next (endTask s c.k code) ∧ agent? (endTask s c.k code) c.k = none ∧ (engine (endTask s c.k code) (clusterOf c.k)).ops = []
  Does .tfmt .tfmt (fun c => c.a.kind = .task ∧ named c = false) [.clusters] (fun c u b =>
    engine u (clusterOf c.k) = { eng c with nf := fput (eng c).nf (c.f.dst.toNat - 0x20) (BitVec.ofNat 16 c.vb), tabMark := fdel (eng c).tabMark c.f.dst.toNat } ∧
    (∀ j, j ≠ clusterOf c.k → cluster u j = cluster c.s j) ∧ Kept c.a b) ∧
  (∀ f s k a, Clear .tfmt f s k a → let c := ctxOf .tfmt f (lenOf f) s k a
    named c = true → Waits c (exec (.tfmt f) s) .retry) ∧
  (∀ l, Does .tct .tct (table 128 l) parts (fun c u b => Requested c u b (.tab c.f.dst.toNat) (load 128 l c))) ∧
  (∀ l, Does .tcfg .tcfg (table 64 l) parts (fun c u b => Requested c u b (.tab c.f.dst.toNat) (load 64 l c))) ∧
  Does .twait .twait (fun c => (c.a.inst = none → c.a.pending = []) ∧ engineDone c.s c.a = true) [] (fun c _ b =>
    b.core = { c.a.core with inst := none } ∧ (c.a.inst = none → c.a.region < b.region)) ∧
  (∀ f s k a, Clear .twait f s k a → engineDone s a = false →
    (a.inst = none → a.pending = [] → exec (.twait f) s =
      .next (putAgent s k { a with region := a.region + 1, inst := some (.twait, f, lenOf f), wait := .retry, age := 0, urgent := false })) ∧
    (a.inst.isSome = true → Waits (ctxOf .twait f (lenOf f) s k a) (exec (.twait f) s) .retry)) ∧
  (∀ f s k a d t, Clear .twait f s k a → a.inst = none → a.pending = d :: t →
    Faults { ctxOf .twait f (lenOf f) s k a with a := { a with pending := t } } (exec (.twait f) s) d.code
      { qid := d.qid, entry := d.entry, x0 := d.x0, other := true }) ∧
  (∀ q, Does .tflg .tflg (fun c => c.a.kind = .task ∧ engineDone c.s c.a = true ∧ queue? c.s c.a.queue = some q) [.mem, .bases, .queues, .lines, .poison]
    (fun c u b => queue? u c.a.queue = some { q with flags := q.flags &&& ~~~ BitVec.ofNat 5 (modBits c.f.mod 4 0) } ∧
      (∀ j, j ≠ c.a.queue → queue? u j = queue? c.s j) ∧ MemBut c.s u (deviceBytes c.s q.asid q.recVa.toNat 64) ∧
      WroteX c.a b c.f.dst.toNat q.flags.toNat ∧ SameV c.a b ∧ SameP c.a b ∧ b.fl = c.a.fl ∧ SameRest c.a b)) ∧
  (∀ f s k a, Clear .endt f s k a → a.kind = .task →
    let c := ctxOf .endt f (lenOf f) s k a
    let e := eng c
    let a' := if a.inst.isSome then { a with region := a.region + 1 } else { a with region := a.region + 2, inst := some (.endt, f, lenOf f) }
    let s' := putAgent s k a'
    let decrement : Access := { kind := .rmw, scratch := false, addr := e.join, locs := [], bytes := 8, op := 0, data := 2 ^ 64 - 1, width := 3,
                                order := 4, scope := 5, pc := a.pc }
    (a.inst = none → a.pending = []) → engineDone s a = true → Settled c →
      (e.join = 0 → ends c (exec (.endt f) s) s' e.code) ∧
      (e.join.toNat % 8 ≠ 0 → Faults { c with a := a' } (exec (.endt f) s) .misaligned { addr := e.join }) ∧
      (∀ pa home leaf t, e.join ≠ 0 → e.join.toNat % 8 = 0 → locate s' (placeOf k a') a'.tasid e.join.toNat .rmw 8 = .at_ pa home leaf t →
        paPkg pa < 240 → crossNow s' (whoOf k a') decrement home = true →
        let old := readPhys t pa 8
        old ≠ 0 → (old ≠ 1 ∨ e.cont = 0) → ∀ u v po r,
          performPhys (invalidateFor t pa none) (whoOf k a') decrement a'.seq pa home leaf = .done u v po r →
          exec (.endt f) s = .next (endTask u k e.code))) ∧
  (∀ f s k a, Clear .taskpush f s k a → let c := ctxOf .taskpush f (lenOf f) s k a
    (c.ea % 64 ≠ 0 → Faults c (exec (.taskpush f) s) .misaligned { addr := BitVec.ofNat 64 c.ea }) ∧
    (c.ea % 64 = 0 → ∀ ck u r n, csetKey s a = some ck → readOnce c c.ea 64 = .inr (u, r) → agent? u k = some { a with top := n } →
      (disabled u (taskQkey ck) = true → Faults c (exec (.taskpush f) s) .queueError {}) ∧
      ∀ q, queue? u (taskQkey ck) = some q → q.state ≠ .disabled → q.inPlace → q.full = false →
        Moves { c with s := u, a := { a with top := n } } (exec (.taskpush f) s) [.mem, .bases, .queues, .lines, .poison] fun v b =>
          Pushed u v (taskQkey ck) r { issuer := some (k, a.uid), group := if a.kind = .thread then some a.group else none } q ∧
          b.core = { a.core with image := none }))) ∧
  (let goes (c : Ctx') (out : Out) : Prop :=
    let busy : Prop := (∃ p ∈ c.s.prods, p.uid = c.a.uid) ∨ ∃ r ∈ c.s.reqs, r.who.uid = c.a.uid ∧ (r.acc.kind = .load ∨ (r.acc.kind = .rmw ∧ r.acc.dst ≠ .none))
    (busy → Waits c out .retry) ∧
    (¬ busy → c.a.kind = .thread → (c.s.agents.map (·.1)).Nodup → ∃ u b, out = .next u ∧ agent? u c.k = some b ∧ b.state = .exited ∧ b.wait = .none ∧
      SameV c.a b ∧ SameX c.a b ∧ SameP c.a b ∧ Only [.groups, .lists, .kernels] c.s u ∧
      ∀ g, group? c.s c.a.group = some g → ∃ h, group? u c.a.group = some h ∧
        (h.state = .retiring ∨ h.state = g.state) ∧
        ((∀ j b, (j, b) ∈ c.s.agents → b.kind = .thread → b.group = c.a.group → b.state = .exited ∨ j = c.k) → h.state = .retiring)) ∧
    (¬ busy → c.a.kind = .handler → ∃ u, out = .next u ∧ agent? u c.k = none) ∧
    (¬ busy → c.a.kind = .task → engineDone c.s c.a = true → ∃ u, out = .next u ∧ agent? u c.k = none ∧ (engine u (clusterOf c.k)).ops = [])
  (∀ f s k a, Clear .exit f s k a → goes (ctxOf .exit f (lenOf f) s k a) (exec (.exit f) s)) ∧
  (∀ f s k a, ClearS .exit f s k a → goes (ctxOfS .exit f s k a) (exec (.exitS f) s)))

/-! ### Stack engines, pages and capabilities -/

/-- CGRUN and GSUM (R400, R401) of a party with nothing outstanding: the run entry that names the graph at a and the base table at b, or the node
entry that GSUM reads or has read, goes to the STACK queue that MOD names, with the release of the party's region. A misaligned graph raises
MISALIGNED. -/
def Obligations.StackInstructions : Prop :=
  let pushes (c : Ctx') (out : Out) (img : Nat) (read : Bool) : Prop :=
    let qk := qkey c.a.asid (0x10 + modBits c.f.mod 1 0)
    (modBit c.f.mod 2 = true → ∀ e, checkSignal c.s c.k c.a c.vd ≠ .bad e) → Settled c →
      ∀ q, queue? c.s qk = some q → q.state ≠ .disabled → q.inPlace → q.full = false →
        Moves c out [.mem, .bases, .queues, .lines, .poison] fun u b =>
          Pushed c.s u qk img { issuer := some (c.k, c.a.uid), group := if c.a.kind = .thread then some c.a.group else none,
                                clk := fput c.a.clk c.a.uid (c.a.region + 1) } q ∧
          b.core = (if read then { c.a.core with image := none } else c.a.core) ∧ c.a.region < b.region
  let sig (m : BitVec 15) : Bool := modBit m 2
  (∀ f s k a, Clear .cgrun f s k a → let c := ctxOf .cgrun f (lenOf f) s k a
    (c.va % 64 ≠ 0 → Faults c (exec (.cgrun f) s) .misaligned { addr := BitVec.ofNat 64 c.va }) ∧
    (c.va % 64 = 0 → c.vb % 8 = 0 → pushes c (exec (.cgrun f) s) (0x10 + (if sig f.mod then 2 ^ 8 + c.vd * 2 ^ 64 else 0) +
      (if modBit f.mod 3 then 2 ^ 9 else 0) + c.va * 2 ^ 128 + c.vb * 2 ^ 192 + clusterOf k % 20 * 2 ^ 416 + dieOf k * 2 ^ 421) false)) ∧
  (∀ f s k a, Clear .gsum f s k a → let c := ctxOf .gsum f (lenOf f) s k a
    c.ea % 64 = 0 → ∀ u e n, readOnce c c.ea 64 = .inr (u, e) → agent? u k = some { a with top := n } →
      nOp e = 4 → bitN e 22 = false → bitN e 30 = false → nodeMalformed e = false →
        pushes { c with s := u, a := { a with top := n } } (exec (.gsum f) s)
          (setBitsN (setBitsN e 15 15 (if sig f.mod then 1 else 0)) 95 32 (if sig f.mod then c.vd else 0)) true)

/-- PGINV and PGMIG (R318, R323, R324) in a handler with nothing outstanding, on a page of one home that no migration, line, hold, log entry or
other closing keeps busy. PGINV leaves no translation of the range at the home; PGMIG makes the leaf MIGRATING and starts the copy. -/
def Obligations.PageInstructions : Prop :=
  let lo (ad : Addr) (n : Nat) : Nat := ad.off / n * n
  Does .pginv .pginv (fun c => Settled c ∧ ∃ ad, classify c.s c.a.asid c.va = some ad ∧ ad.set = 0 ∧
      (∀ h, (base c.s h).closings.all (·.uid != c.a.uid) = true) ∧ (base c.s ad.home).migs = [] ∧ (base c.s ad.home).holds = [] ∧
      (base c.s ad.home).logs = [] ∧ c.s.lines = [] ∧ c.s.invals = []) [.bases] (fun c u b => Kept c.a b ∧
    ∀ ad, classify c.s c.a.asid c.va = some ad →
      let n := 2 ^ [16, 21, 26, 32].getD (modBits c.f.mod 1 0) 32
      (∀ t ∈ (base u ad.home).tlb, ¬ (t.asid = c.a.asid ∧ t.set = ad.set ∧ rangesMeet t.base t.size (lo ad n) n = true)) ∧
      (∀ t ∈ (base u ad.home).tlb, t ∈ (base c.s ad.home).tlb)) ∧
  Does .pgmig .pgmig (fun c => Settled c ∧ (∀ e, checkSignal c.s c.k c.a c.vc ≠ .bad e) ∧ ∃ ad e at_ size, classify c.s c.a.asid c.va = some ad ∧
      ad.set = 0 ∧ tlbFind (base c.s ad.home) c.a.asid ad = none ∧ walk c.s c.a.asid ad = .leaf e at_ size ∧ bitsN e 61 60 = 0 ∧ size ≤ 2 ^ 21 ∧
      leafOk c.s ad.home e size = true ∧ c.vb % size = 0 ∧ mappable c.vb size = true ∧
      (base c.s ad.home).migs = [] ∧ (base c.s ad.home).holds = [] ∧ (base c.s ad.home).logs = []) [.mem, .bases] (fun c u b => Kept c.a b ∧
    ∀ ad e at_ size, classify c.s c.a.asid c.va = some ad → walk c.s c.a.asid ad = .leaf e at_ size →
      MemBut c.s u (fun x => at_ ≤ x ∧ x < at_ + 8) ∧ u.mem = writeN c.s.mem at_ (setBitsN (readN c.s.mem at_ 8) 61 60 2) 8 ∧
      ∃ m, (base u ad.home).migs = [m] ∧ m.asid = c.a.asid ∧ m.base = lo ad size ∧ m.size = size ∧ m.old = leafPa e ∧ m.new = c.vb ∧
        m.signal = BitVec.ofNat 64 c.vc)

/-- The capability instructions (R332 to R346) of a handler that is READY, with a valid capability on a frozen thread or task. CAP.NEXT takes the
oldest record, or ends the handler once nothing of it is outstanding; CAP.RDR is a producer of the party's register, CAP.WRR writes it; CAP.RDS
reads the record; CAP.SETPC moves the party; CAP.RES and CAP.STEP let it go on, CAP.KILL ends it; CAP.REL gives the record back to the front of
its frozen queue; CAP.ARV arrives for it. -/
def Obligations.Capabilities : Prop :=
  let n (c : Ctx') : Nat := c.f.a.toNat
  let on (c : Ctx') (x : Cap) (j : Nat) (p : Agent) : Prop := c.a.kind = .handler ∧ c.a.state = .ready ∧ fget? c.a.caps (n c) = some x ∧ x.valid = true ∧
    x.record.target = .agent j p.uid ∧ agent? c.s j = some p ∧ j ≠ c.k ∧ p.state = .frozen
  let cls (c : Ctx') : Nat := modScope c.f.mod
  let reg (c : Ctx') (x : Cap) (p : Agent) : Prop := badReg x.record p.nregs (cls c) (bNum c.f) = none
  -- an instruction that also changes the party
  let both (i : FormL → Instr) (o : Op) (H : Ctx' → Cap → Nat → Agent → Prop) (P : Ctx' → Cap → Agent → Agent → Agent → Prop) : Prop :=
    ∀ f s k a, Clear o f s k a → let c := ctxOf o f (lenOf f) s k a
      ∀ x j p, on c x j p → H c x j p → ∃ u b q, exec (i f) s = .next u ∧ Passed (lenOf f) a u k b ∧ Only [] s u ∧ Others [k, j] s u ∧
        agent? u j = some q ∧ P c x p b q
  Does .capNext .capNext (fun c => c.a.kind = .handler ∧ c.a.state = .ready ∧ (∀ y ∈ c.a.caps, y.1 ≠ c.f.dst.toNat) ∧
      ∃ x r t, ctx? c.s c.a.asid = some x ∧ x.state ≠ .cutting ∧ x.fq = r :: t) [] (fun c u b => ∀ x r t, ctx? c.s c.a.asid = some x → x.fq = r :: t →
    ctx? u c.a.asid = some { x with fq := t } ∧ fget? b.caps c.f.dst.toNat = some { record := r, budget := 65536, valid := true } ∧
    SameV c.a b ∧ SameP c.a b ∧ b.fl = c.a.fl) ∧
  (∀ f s k a, Clear .capNext f s k a → producing s a.uid = false → a.refused = [] → a.sfault = none → (∃ x, ctx? s a.asid = some x ∧ (x.fq = [] ∨ x.state = .cutting)) →
    ∃ u, exec (.capNext f) s = .next u ∧ agent? u k = none) ∧
  (∀ x j p, Does .capRdr .capRdr (fun c => on c x j p ∧ reg c x p) [.ids, .prods] fun c u b =>
    let d := Dst.v c.f.dst.toNat (if cls c = 1 ∨ cls c = 4 then 2 else 1)
    u.prods = c.s.prods ++ [{ id := c.s.nextId, key := c.k, uid := c.a.uid, dst := d, value := 0, flags := 0, src := some (j, p.uid, cls c, bNum c.f) }] ∧
    EmptiedD c.a b d ∧ SameP c.a b ∧ b.fl = c.a.fl ∧ SameRest c.a b) ∧
  both .capWrr .capWrr (fun c x _ p => reg c x p ∧ (partyReg p (cls c) (bNum c.f)).isSome = true) (fun c _ p b q => Kept c.a b ∧
    match cls c with
    | 0 => WroteV p q (bNum c.f) 1 c.vc ∧ SameX p q ∧ SameP p q ∧ q.fl = p.fl ∧ SameRest p q
    | 1 => WroteV p q (bNum c.f) 2 c.vc ∧ SameX p q ∧ SameP p q ∧ q.fl = p.fl ∧ SameRest p q
    | 2 => WroteP p q (bNum c.f) (c.vc.testBit 0) ∧ SameV p q ∧ SameX p q ∧ q.fl = p.fl ∧ SameRest p q
    | 3 => q.fl = BitVec.ofNat 5 c.vc ∧ SameV p q ∧ SameX p q ∧ SameP p q ∧ SameRest p q
    | _ => WroteX p q (bNum c.f) c.vc ∧ SameV p q ∧ SameP p q ∧ q.fl = p.fl ∧ SameRest p q) ∧
  (∀ x j p, Does .capRds .capRds (fun c => on c x j p ∧ (modBit c.f.mod 5 = true → reg c x p)) [] fun c _ b =>
    let item := modBits c.f.mod 4 0
    WroteV c.a b c.f.dst.toNat 1 ((if modBit c.f.mod 5 then regState p (cls c) (bNum c.f)
      else if item < 16 then (recWord x.record item).toNat
      else match item with | 16 => statusItem c.s x.record | 17 => x.budget | _ => if x.record.kind = 0 then p.rstk else 0) % 2 ^ 32) ∧
    SameX c.a b ∧ SameP c.a b ∧ b.fl = c.a.fl ∧ SameRest c.a b) ∧
  both .capSetpc .capSetpc (fun c x _ _ => x.record.kind ≤ 1 ∧ c.vb % 4 = 0) (fun c _ p b q => Kept c.a b ∧
    q.pc = BitVec.ofNat 64 c.vb ∧ q.state = .frozen ∧ q.core = { p.core with blk := q.blk }) ∧
  both .capRes .capRes (fun c _ _ p => Settled c ∧ keptLoads p = [] ∧ p.refused = []) (fun c _ p b q => Kept c.a b ∧
    (∀ y, fget? b.caps (n c) = some y → y.valid = false) ∧ q.state = .ready ∧ q.wait = .none ∧ q.record = none ∧
    (∀ r, p.record = some r → r.done = false → q.pc = p.pc) ∧ SameV p q ∧ SameX p q ∧ SameP p q ∧ q.fl = p.fl) ∧
  both .capStep .capStep (fun c x _ p => x.record.kind ≤ 1 ∧ Settled c ∧ keptLoads p = [] ∧ p.refused = []) (fun c x p b q => Kept c.a b ∧
    (∃ y, fget? b.caps (n c) = some y ∧ y.valid = true ∧ y.record = x.record) ∧ q.state = .stepping ∧ q.wait = .none ∧ q.record = p.record ∧
    (∀ r, p.record = some r → r.done = false → q.pc = p.pc) ∧ SameV p q ∧ SameX p q ∧ SameP p q ∧ q.fl = p.fl) ∧
  (∀ f s k a, Clear .capKill f s k a → let c := ctxOf .capKill f (lenOf f) s k a
    ∀ x j p, on c x j p → Settled c → ∃ u b, exec (.capKill f) s = .next u ∧ Passed (lenOf f) a u k b ∧
      (∀ y, fget? b.caps (n c) = some y → y.valid = false) ∧
      if isTask j then agent? u j = none else ∃ q, agent? u j = some q ∧ q.state = .exited) ∧
  (∀ x j p, Does .capRel .capRel (fun c => on c x j p) [] fun c u b => Kept c.a b ∧ fget? b.caps (n c) = none ∧
    ∀ y, ctx? c.s x.record.asid = some y →
      let q := x.record :: y.fq
      ctx? u x.record.asid = some { y with fq := q.take (2 ^ y.fqlog), parked := q.drop (2 ^ y.fqlog) ++ y.parked }) ∧
  (∀ x j p, Does .capArv .capArv (fun c => on c x j p ∧ x.record.kind = 0 ∧ performedNear c.s p.uid = true ∧ modBit c.f.mod 0 = false ∧ p.bar = .arrived) []
    fun c _ b => WroteP c.a b c.f.dst.toNat false ∧ SameV c.a b ∧ SameX c.a b ∧ b.fl = c.a.fl ∧ SameRest c.a b) ∧
  (∀ f s k a, Clear .capArv f s k a → let c := ctxOf .capArv f (lenOf f) s k a
    ∀ x j p, on c x j p → x.record.kind = 0 → performedNear s p.uid = true → modBit f.mod 0 = false → p.bar ≠ .arrived → p.kind = .thread →
      (∃ i d, (i, d) ∈ s.agents ∧ i ≠ j ∧ d.kind = .thread ∧ d.group = p.group ∧ d.state ≠ .exited ∧ d.bar ≠ .arrived) →
      ∃ u b q, exec (.capArv f) s = .next u ∧ Passed (lenOf f) a u k b ∧ WroteP a b f.dst.toNat true ∧ agent? u j = some q ∧ q.bar = .arrived ∧
        Only [] s u ∧ Others [k, j] s u)

/-! ### Events -/

/-- Events of a party (R94, R95, R107, R153, R190, R195, R226, R251, R280). A thread of age 1,024 becomes urgent; one HELD for 256 cycles becomes
READY; a yield ends after the 32 cycles that follow its own; a producer delivers its value, poisoned if what it computed from was, and its flags;
an answered load or atomic fills its destination, and with vector registers as its destination poisons them or leaves them faulted; a wait that
has reached its limit of 1,024 cycles a unit completes with false; the engine takes the operation that its task waited to issue. -/
def Obligations.PartyEvents : Prop :=
  (∀ s k a, agent? s k = some a → a.state = .ready → a.wait = .none → 1024 ≤ a.age →
    Enters (exec (.threadUrgent k) s) (putAgent s k { a with urgent := true })) ∧
  (∀ s k a, agent? s k = some a → a.state = .held → 256 ≤ a.waited →
    Enters (exec (.holdTimeout k) s) (putAgent s k { a with state := .ready, waited := 0 })) ∧
  (∀ s k a, agent? s k = some a → a.yielding = true → 33 ≤ a.yielded →
    Enters (exec (.yieldExpiry k) s) (putAgent s k { a with yielding := false, yielded := 0 })) ∧
  (∀ s id p a, s.prods.find? (·.id == id) = some p → p.src = none → agent? s p.key = some a → a.uid = p.uid → a.state ≠ .exited →
    Happens (exec (.producerCompletion id) s) fun u => u.prods = s.prods.filter (·.id != id) ∧ Only [.prods, .trigs] s u ∧ Others [p.key] s u ∧
      ∃ b, agent? u p.key = some b ∧ b.fl = a.fl ||| p.flags ∧ SameRest a b ∧ (p.poison = false → WroteD a b p.dst p.value) ∧
        ∀ n m, p.poison = true → p.dst = .v n m → SameX a b ∧ SameP a b ∧ ∀ i, b.vcell i =
          if n ≠ 255 ∧ n ≤ i ∧ i < n + m ∧ i < 255 then { val := BitVec.ofNat 32 (p.value / 2 ^ (32 * (i - n))), poison := true } else a.vcell i) ∧
  (∀ s id r a, req? s id = some r → (r.stage = .returned ∨ (r.acc.scratch = true ∧ r.stage = .performed)) → returns r = true →
      (∀ n, r.acc.dst ≠ .tab n) → agent? s r.who.key = some a → a.uid = r.who.uid → a.state ≠ .exited →
    Happens (exec (.loadCompletion id) s) fun u => u.reqs = s.reqs.filter (·.id != id) ∧ Only [.reqs, .trigs] s u ∧ Others [r.who.key] s u ∧
      ∃ b, agent? u r.who.key = some b ∧ b.fl = a.fl ∧ SameRest a b ∧
        (r.fault = none → r.poison = false → WroteD a b r.acc.dst (loaded r.acc r.result)) ∧
        (∀ code n m, r.fault = some code → r.acc.dst = .v n m → SameX a b ∧ SameP a b ∧ ∀ i, b.vcell i =
          if n ≠ 255 ∧ n ≤ i ∧ i < n + m ∧ i < 255 then { a.vcell i with full := false, mark := some { code := code, acc := r.acc } } else a.vcell i) ∧
        (∀ n m, r.fault = none → r.poison = true → r.acc.dst = .v n m → SameX a b ∧ SameP a b ∧ ∀ i, b.vcell i =
          if n ≠ 255 ∧ n ≤ i ∧ i < n + m ∧ i < 255 then { val := BitVec.ofNat 32 (loaded r.acc r.result / 2 ^ (32 * (i - n))), poison := true }
          else a.vcell i)) ∧
  (∀ s k a o f len l p limit, agent? s k = some a → a.inst = some (o, f, len) → a.wait = .object l p limit → limit ≠ 0 → 1024 * limit ≤ a.waited →
    Happens (exec (.mbwaitLimitExpiry k) s) fun u => Only [.trigs] s u ∧ Others [k] s u ∧ ∃ b, Passed len a u k b ∧ b.inst = none ∧
      WroteP a b f.dst.toNat false ∧ SameV a b ∧ SameX a b ∧ b.fl = a.fl) ∧
  (∀ s k a o f len va thr limit, agent? s k = some a → a.inst = some (o, f, len) → a.wait = .signal va thr limit → limit ≠ 0 → 1024 * limit ≤ a.waited →
    Happens (exec (.qwaitLimitExpiry k) s) fun u => Only [.trigs] s u ∧ Others [k] s u ∧ ∃ b, Passed len a u k b ∧ b.inst = none ∧
      WroteP a b f.dst.toNat false ∧ SameV a b ∧ SameX a b ∧ b.fl = a.fl) ∧
  (∀ s cl a o f len r, agent? s (taskKey cl) = some a → a.inst = some (o, f, len) → (engine s cl).want = some r → (engine s cl).ops.length < 16 →
      ctxIssues s a.asid = true →
    Happens (exec (.matrixOperationAccept cl) s) fun u => Only [.clusters, .trigs] s u ∧ Others [taskKey cl] s u ∧
      engine u cl = { engine s cl with want := none, ops := (engine s cl).ops ++ [r] } ∧
      ∃ b, Passed len a u (taskKey cl) b ∧ b.core = { a.core with inst := none, clk := b.clk })

/-- Events of kernels and groups (R158 to R162, R169, R172 to R174). A launch entry at its queue's head is admitted as a new kernel or finished
with its reject code; the next group of a kernel, or every group still unplaced of a CONCURRENT one, is placed where the distributor finds room; a
WEAK group is saved, and with it its whole cluster set, which is the model's reading (log 40), and a saved one is restored; a group whose threads
have ended retires; a kernel whose groups have all retired leaves with its lists, its signal gets its 1, and its entry is finished; at quiescence
a kernel's one waiting take completes with true. -/
def Obligations.KernelEvents : Prop :=
  (∀ s q x h c, queue? s q = some x → x.head = some h → ctx? s x.asid = some c → x.kind = 0 → h.finished = false → h.marked = false →
      (entMeta x h.num).marker = none → c.state = .running →
    let k : Kernel := { asid := x.asid, ident := c.nextK, hdr := h.img, q := q, entryNo := h.num,
                        clk := cmax h.who.clk (launchClock c (entMeta x h.num).lclk) }
    (launchReject c k = 0 → Enters (exec (.launchEntryHead q) s)
      { s with ctxs := fput s.ctxs x.asid { c with nextK := if c.nextK = 0xFFFFFFFF then 1 else c.nextK + 1 }
               kernels := fput s.kernels (kkey x.asid c.nextK) k
               queues := fput s.queues q { x with head := some { h with marked := true } } }) ∧
    (launchReject c k ≠ 0 → Enters (exec (.launchEntryHead q) s) (finishHead s q (launchReject c k)))) ∧
  (∀ s kern start k c n t, kernel? s kern = some k → ctx? s k.asid = some c → k.nextGroup = some n → c.state = .running → k.state = .placing →
      k.cls ≠ 0 → placeOne s kern n start k c = some t →
    Enters (exec (.groupPlacement kern start) s) (settleKernel (modKernel t kern (·.took n)) kern)) ∧
  (∀ s kern start k c t, kernel? s kern = some k → ctx? s k.asid = some c → k.nextGroup.isSome = true → c.state = .running → k.state = .placing →
      k.cls = 0 → placeAll s kern start (k.back ++ upFrom k.next (k.groups - k.next)) k c = some t →
    Enters (exec (.groupPlacement kern start) s) (settleKernel (modKernel t kern fun k => { k with next := k.groups, back := [] }) kern)) ∧
  (∀ s g x, group? s g = some x → weakSavable s x.cset = true → Enters (exec (.weakGroupSave g) s)
    (settleKernel (releaseCSet ((setGroups s x.cset).foldl (fun s p => saveGroup s p.1) s) x.cset) x.kernel)) ∧
  (∀ s g start x k t, group? s g = some x → kernel? s x.kernel = some k → ctxState s k.asid = .running → restoreCSet s x.cset start = some t →
    Enters (exec (.groupRestore g start) s) t) ∧
  (∀ s g x k c, group? s g = some x → x.state = .retiring → groupSettled s g = true → kernel? s x.kernel = some k → cset? s x.cset = some c → 1 < c.live →
    Happens (exec (.groupRetirement g) s) fun u => group? u g = none ∧ kernel? u x.kernel = some { k with gone := k.gone + 1 } ∧
      cset? u x.cset = some { c with live := c.live - 1 } ∧ (∀ j a, (j, a) ∈ u.agents → ¬ (a.kind = .thread ∧ a.group = g)) ∧
      Only [.kernels, .groups, .csets, .queues, .trigs] s u) ∧
  (∀ s kern k q h, kernel? s kern = some k → queue? s k.q = some q → q.head = some h → h.num = k.entryNo → h.finished = false →
      (k.state = .retiring ∨ k.state = .retired) → k.groups ≤ k.gone → queuesRun s k.asid = true → q.state ≠ .faulted →
    (k.signal = 0 → Happens (exec (.kernelRetirement kern) s) fun u => kernel? u kern = none ∧ (∀ n l, (n, l) ∈ u.lists → n / 4096 ≠ kern) ∧
      Only [.kernels, .lists, .queues, .trigs] s u ∧ Others [] s u ∧
      ∃ p, queue? u k.q = some p ∧ ∃ j, p.head = some j ∧ j.finished = true ∧ j.code = h.code ∧
        (j.wldrop = true ↔ h.wldrop = true ∨ ∃ n l, (n, l) ∈ s.lists ∧ n / 4096 = kern ∧ l.items ≠ [])) ∧
    (let lists := s.lists.filter fun x => x.1 / 4096 != kern
    let s1 := modHead (putKernel { s with lists := lists } kern { k with state := .retired }) k.q
      fun x => { x with wldrop := x.wldrop || (listsOf s kern).any fun y => !y.2.items.isEmpty }
    ∀ t race, k.signal ≠ 0 → addSignal s1 h.who k.signal 1 = .done t race → Enters (exec (.kernelRetirement kern) s)
      (finishHead { t with kernels := fdel t.kernels kern, lists := t.lists.filter fun x => x.1 / 4096 != kern } k.q (if race then 0x22 else 0)))) ∧
  (∀ s kern kn k a f len, kernel? s kern = some kn → quietDue s kern kn = true → agent? s k = some a → a.kind = .thread → a.kernel = kern →
      a.state = .ready → (∃ l, a.wait = .take l) → a.inst = some (.wltake, f, len) → agentOf s a.uid = some (k, a) →
      s.agents.filter (fun p => p.2.kind == .thread && p.2.kernel == kern && (match p.2.wait with | .take _ => true | _ => false)) = [(k, a)] →
    Happens (exec (.quiescence kern) s) fun u => kernel? u kern = some { kn with quiet := true } ∧
      ∃ b, Passed len a u k b ∧ WroteV a b f.dst.toNat 2 0 ∧ WroteP a b f.c.toNat true)

/-- Events of queues (R234 to R238, R241, R245, R252, R375). The next entry starts as the head, a malformed copy finished with 0x20; a box of the
copy whose turn it is moves its rows, and poisons the destination lines that take poisoned data; a finished entry sends the marker fences of its
relaxed traffic, and completes with its action's code once they have; a due trigger reads its image, and its entry is pushed when there is room,
stamped with its issuer's cluster where it is a COPY or a run entry; a join marker finishes when the joined queue is far enough; the doorbell
advances PUSHED or sets DBE; a queue is enabled, or comes into being from its record, is disabled, and has its error cleared. -/
def Obligations.QueueEvents : Prop :=
  (∀ s qk q t h, queue? s qk = some q → startable s q = true → q.kind ≠ 4 → startHead s qk q = some (t, h) →
    (q.kind ≠ 1 ∨ (entMeta q h.num).marker ≠ none → Enters (exec (.queueEntryStart qk) s) t) ∧
    (q.kind = 1 → (entMeta q h.num).marker = none → Enters (exec (.queueEntryStart qk) s)
      (if copyMalformed h.img (entMeta q h.num).host then finishHead t qk 0x20 else if copyBoxes h.img = 0 then finishHead t qk 0 else t)) ∧
    h.num = q.doneN ∧ deviceRead s q.asid (q.slotVa q.doneN) 64 = some h.img ∧ t.queues = fput s.queues qk { q with head := some h }) ∧
  (∀ s qk n q h t d new (x y : Bool), queue? s qk = some q → q.head = some h → boxTurn s qk n = true →
      moveRows s h.who (endpoint s (entMeta q h.num)) h.img (boxRows h.img n) = (.done t d x y, new) → queue? t qk = some q →
    let done := lput h.done n
    let bad := new.foldl lput h.bad
    let v := poisonLines t q.asid 0 (if done.length = copyBoxes h.img then bad else new)
    Happens (exec (.copyBox qk n) s) fun u => u.mem = v.mem ∧ u.sram = t.sram ∧ u.poison = v.poison ∧ ∃ p j, queue? u qk = some p ∧ p.head = some j ∧
      j.done = done ∧ j.bad = bad ∧ (j.finished = true ↔ done.length = copyBoxes h.img) ∧
      j.code = if h.code ≠ 0 then h.code else if x then 0x23 else if y then 0x22 else 0) ∧
  (∀ s qk q h, queue? s qk = some q → q.head = some h → h.finished = true → queuesRun s q.asid = true → q.state ≠ .faulted → marking s h.who.uid = false →
    (h.homes ≠ [] → Enters (exec (.entryCompletion qk) s) (markHomes (modHead s qk fun h => { h with homes := [] }) h.who h.homes)) ∧
    (∀ t p code, h.homes = [] → completionAction s q h = .done t code → queue? t qk = some p →
      Enters (exec (.entryCompletion qk) s) (retireEntry t qk p h code))) ∧
  (∀ s id t, s.trigs.find? (·.id == id) = some t → t.state = .fired → queuesRun s t.asid = true → Enters (exec (.triggerFire id) s) (fireTrig s t)) ∧
  (∀ s id t q, s.trigs.find? (·.id == id) = some t → t.state = .room → queuesRun s t.asid = true → queue? s t.q = some q → q.full = false →
      q.state ≠ .disabled →
    let g := if t.gone then none else t.group.bind (group? s)
    let cl := match g, t.issuer with | some g, _ => g.core / 4 | none, some (k, _) => clusterOf k | none, none => 0
    let img := if q.kind = 1 then stampGroup s cl g t.img else if q.kind = 2 ∧ bitsN t.img 7 0 = 0x10 then stampGroup s cl none t.img else t.img
    Enters (exec (.triggerEntryPush id) s) (pushEntry { s with trigs := s.trigs.filter (·.id != id) } t.q img
      { issuer := t.issuer, group := t.group, gone := t.gone, code := t.code, clk := t.clk })) ∧
  (∀ s qk q h qb n, queue? s qk = some q → q.head = some h → h.finished = false → queuesRun s q.asid = true →
      (entMeta q h.num).marker = some (qb, n) → (∀ b, queue? s qb = some b → n ≤ b.doneN) →
    Happens (exec (.joinMarkerCompletion qk) s) fun u => Only [.queues, .trigs] s u ∧ Others [] s u ∧
      ∃ p j, queue? u qk = some p ∧ p.head = some j ∧ j.finished = true ∧ j.code = h.code ∧ j.num = h.num) ∧
  (∀ s master asid qid v q, s.host.ready = true → refusedBy s master (255 * 2 ^ 48 + (0x1000000 + 512 * asid + 8 * qid)) .store = false →
      ctxState s asid ≠ .free → ctxState s asid ≠ .retired → queue? s (qkey asid qid) = some q → q.state ≠ .disabled → v.toNat ≠ q.pushed % 2 ^ 64 →
    Happens (exec (.doorbellWrite master asid qid v) s) fun u => ∃ p, queue? u (qkey asid qid) = some p ∧
      (if q.pushed % 2 ^ 64 < v.toNat ∧ v.toNat ≤ q.doneN % 2 ^ 64 + q.cap then
        p.pushed = q.pushed + (v.toNat - q.pushed % 2 ^ 64) ∧ p.dbe = q.dbe ∧ p.state = (if q.state = .idle then .active else q.state) ∧
        p.kept = (if q.state = .saved ∧ q.kept = .idle then .active else q.kept)
      else p = { q with dbe := true })) ∧
  (∀ s qk q, queue? s qk = some q → q.state = .disabled → Enters (exec (.queueEnable qk) s)
    (setQueue s qk { q with en := true, state := if q.doneN < q.pushed then .active else .idle })) ∧
  (∀ s qk q t, queue? s qk = none → loadQueue s (qk / 0x20000) (qk % 0x20000) = some (q, t) →
    Enters (exec (.queueEnable qk) s) (setQueue t qk { q with en := true, state := .idle })) ∧
  (∀ s qk q, queue? s qk = some q → q.state ≠ .saved → Enters (exec (.queueDisable qk) s)
    (setQueue s qk { q with en := false, state := if q.head = none then .disabled else q.state })) ∧
  (∀ s qk q, queue? s qk = some q → Enters (exec (.queueErrClear qk) s) (setQueue s qk { q with
    err := false, state := if q.state = .halted then (if q.doneN < q.pushed then .active else .idle) else q.state }))

/-- Events of tile tasks (R257 to R263, R274 to R282, R285). Once the cluster's last task has nothing outstanding, the next record becomes its
queue's head and is checked, or completes with 0x24 when its cluster set has retired; the chosen task starts on its cluster's control core at
CODE, with X1 and X2 set; the engine's oldest operation makes its next k-step, clears or drains; a continuation is pushed when there is room. -/
def Obligations.TaskEvents : Prop :=
  (∀ s qk q t h c, queue? s qk = some q → q.kind = 4 → startable s q = true → (entMeta q q.doneN).flushed = false → startHead s qk q = some (t, h) →
      cset? t q.cset = some c → (entMeta q h.num).marker = none → cset? s q.cset = some c → lateTask s c.cluster = false →
    Enters (exec (.taskHead qk) s)
      (if c.retired then finishHead t qk 0x24 else if taskFault t c h.img = 0 then t else finishHead t qk (taskFault t c h.img))) ∧
  (∀ s cl qk q h c, agent? s (taskKey cl) = none → chosen s cl = some (qk, q, h, c) → queue? s qk = some q → q.head = some h →
    Happens (exec (.taskAdmission cl) s) fun u => Only [.ids, .clusters, .queues, .trigs] s u ∧ Others [taskKey cl] s u ∧
      queue? u qk = some { q with head := some { h with marked := true } } ∧
      (engine u cl).join = BitVec.ofNat 64 (recJoin h.img) ∧ (engine u cl).cont = BitVec.ofNat 64 (recCont h.img) ∧
      (cluster u cl).remaining = (cluster s cl).remaining - recEnergy h.img ∧
      ∃ a, agent? u (taskKey cl) = some a ∧ a.kind = .task ∧ a.pc = BitVec.ofNat 64 (recCode h.img) ∧ a.queue = qk ∧ a.entryNo = h.num ∧
        (a.xcell 1).val = BitVec.ofNat 64 (recFrame h.img) ∧ (a.xcell 2).val = BitVec.ofNat 64 (q.slotVa h.num)) ∧
  (∀ s cl a r t, agent? s (taskKey cl) = some a → (engine s cl).ops = r :: t → kstepDue s cl = true → (engine s cl).barred = false →
    (r.opc = 0xC3 → Enters (exec (.matrixKStep cl) s) (putEngine s cl { (engine s cl).clearAcc (r.dst - 0x30) r.pair with ops := t })) ∧
    (r.opc = 0xC8 → Enters (exec (.matrixKStep cl) s) (drain s cl (taskKey cl) a.queue a.entryNo (some (taskKey cl, a.uid)) (csetOf s a) r)) ∧
    (r.opc = 0xC9 → Enters (exec (.matrixKStep cl) s) (drainByp s cl a.queue a.entryNo (some (taskKey cl, a.uid)) r)) ∧
    (∀ c, r.isMul = true → csetOf s a = some c →
      Enters (exec (.matrixKStep cl) s) (mulStep s cl a.queue a.entryNo (some (taskKey cl, a.uid)) c r r.k))) ∧
  (∀ s qk q img clk code t, queue? s qk = some q → q.conts = (img, clk, code) :: t → q.full = false → q.state ≠ .saved → queuesRun s q.asid = true →
    Enters (exec (.continuationPush qk) s) (pushEntry { s with queues := fput s.queues qk { q with conts := t } } qk img { code := code, clk := clk }))

/-- Events of the mash region (R287 to R289, R293 to R299). A CARVE entry within quota starts carving, which completes when its ways are
emptied, with READY and the entry finished, or with NONE where the entry has gone with a context in ERROR (R288); a row operation or transfer
entry runs on the context's own region, and is finished with 0x23 when it met poison, a transfer's markers owed to the homes of its ranges
(R375); an owner's MS.REL entry gives the ways back, and the region is NONE when they have gone. -/
def Obligations.MashEvents : Prop :=
  let at_ (s : State) (qk : Nat) (q : Queue) (h : Head) (e : MashEnt) : Prop := mashHead s qk = some (q, h, e) ∧ queue? s qk = some q ∧ q.head = some h
  let m (s : State) (d : Nat) : Mash := (dieSt s d).mash
  let dies (s : State) (d : Nat) (m : Mash) : FMap Die := fput s.dies d { dieSt s d with mash := m }
  let mine (s : State) (q : Queue) : Prop := (m s q.die).owned = true ∧ (m s q.die).owner = q.asid
  (∀ s qk q h e, at_ s qk q h e → e.op = 0x90 → (mine s q ∨ (m s q.die).owned = false) → (m s q.die).state = 0 →
      e.n ≤ ((ctx? s q.asid).elim 0 (·.mashq)) → 0 < e.n →
    Enters (exec (.carveEntry qk) s) { s with
      queues := fput s.queues qk { q with siga := BitVec.ofNat 64 e.ea, head := some { h with marked := true } }
      dies := dies s q.die { m s q.die with owner := q.asid, owned := true, ways := e.n, state := 1 } }) ∧
  (∀ s d, (m s d).state = 1 → markedMash s d 0x90 = none →
    Happens (exec (.carvingComplete d) s) fun u => m u d = {} ∧ (∀ j, j ≠ d → m u j = m s j) ∧ ∀ l ∈ u.lines, ¬ (l.die = d ∧ 16 - (m s d).ways ≤ l.way)) ∧
  (∀ s d qk q h, (m s d).state = 1 → markedMash s d 0x90 = some qk → queue? s qk = some q → q.head = some h →
    Happens (exec (.carvingComplete d) s) fun u => m u d = { m s d with state := 2, rows := [], poison := [] } ∧
    (∀ j, j ≠ d → m u j = m s j) ∧ (∀ l ∈ u.lines, ¬ (l.die = d ∧ 16 - (m s d).ways ≤ l.way)) ∧ ∃ p j, queue? u qk = some p ∧ p.head = some j ∧ j.finished = true) ∧
  (∀ s qk q h e, at_ s qk q h e → 0x93 ≤ e.op → e.op ≤ 0x9C → mine s q → (m s q.die).ways ≠ 0 → ((m s q.die).state = 2 ∨ (m s q.die).state = 3) →
    Happens (exec (.mashOperationEntry qk) s) fun u => m u q.die = rowOp e { m s q.die with state := 3 } ∧ (∀ j, j ≠ q.die → m u j = m s j) ∧
      Only [.dies, .queues, .trigs] s u ∧ Others [] s u ∧ ∃ p j, queue? u qk = some p ∧ p.head = some j ∧ j.finished = true ∧
        j.code = if h.code ≠ 0 then h.code else if (m s q.die).poison = [] then 0 else 0x23) ∧
  (∀ s qk q h e t y po x, at_ s qk q h e → e.op ∈ [0x91, 0x92, 0x9D, 0x9E] → mine s q → (m s q.die).ways ≠ 0 →
      ((m s q.die).state = 2 ∨ (m s q.die).state = 3) →
      (match e.op with | 0x91 => loadLanes | 0x92 => storeLanes | 0x9D => sumLanes | _ => compactLanes)
        { s with dies := dies s q.die { m s q.die with state := 3 } } h.who e { m s q.die with state := 3 } = .done t y po x →
      queue? t qk = some q →
    Happens (exec (.mashTransferEntry qk) s) fun u => u.mem = t.mem ∧ m u q.die = y ∧
      ∃ p j, queue? u qk = some p ∧ p.head = some j ∧ j.finished = true ∧ j.homes = (homesOf t q.asid (e.ranges (m s q.die))).foldl lput h.homes ∧
        j.code = if h.code ≠ 0 then h.code else if po = true ∨ y.poison ≠ [] then 0x23 else if x then 0x22 else 0) ∧
  (∀ s qk q h e, at_ s qk q h e → e.op = 0x9F → mine s q → 0 < (m s q.die).ways →
    Enters (exec (.msRelEntry qk) s) { s with
      queues := fput s.queues qk { q with head := some { h with
        marked := true, code := if (m s q.die).poison ≠ [] ∧ h.code = 0 then 0x23 else h.code } }
      dies := dies s q.die { m s q.die with owner := 0, owned := false, ways := 0, rows := [], poison := [], state := 4 } }) ∧
  (∀ s d, (m s d).state = 4 → Happens (exec (.releasingComplete d) s) fun u => m u d = { m s d with state := 0 } ∧ (∀ j, j ≠ d → m u j = m s j) ∧
    Only [.dies, .queues, .trigs] s u ∧ Others [] s u)

/-- Events of stack-engine runs (R381 to R397). A node entry starts as a run of one node, or is finished with 0x50; the node that its engine picks
runs its chunk; a RECV is posted; a SEND is granted room, in this package or by the engine of another (R395); a chunk's beats are injected in
order while there is room (R368, R371), and with none left to send or on a link it lands or waits at the receiver, or has left the package; a
chunk that another package sends is granted as a SEND of this one is, and lands; a node that has ended sends the marker fences of its relaxed
traffic (R375), then completes and counts in its OUT counter; with every node done the entry is finished and completes. Where a chunk spills is
log 84. -/
def Obligations.StackEvents : Prop :=
  let picked (e : Nat → Nat → Instr) (op : Nat) : Prop := ∀ s qk n r img c t, running? s qk = some r → fget? r.g.nodes n = some img → nOp img = op →
    (op = 7 → postRecv s qk n = none) →
    enginePick s (nStk img) = some (c, t) → c.q = qk → c.n = n → let b := base t (nStk img)
    Enters (exec (e qk n) s) { t with bases := fput t.bases (nStk img) { b with turn := qk, highRun := if c.high then b.highRun + 1 else 0 } }
  (∀ s qk q h, stackHead s qk = some (q, h) → h.run = none → ctxState s q.asid = .running → q.state = .active → bitsN h.img 7 0 ≠ 0x10 →
    Enters (exec (.runEntryStart qk) s) (if 1 ≤ nOp h.img ∧ nOp h.img ≤ 5 ∧ bitN h.img 22 = false ∧ bitN h.img 30 = false ∧ nodeMalformed h.img = false then
      modHead s qk fun h => { h with run := some { nodes := [(0, h.img)], clk := h.who.clk, single := true } } else finishHead s qk 0x50)) ∧
  picked .nodeCopy 1 ∧ picked .nodeRadd 2 ∧ picked .nodeRmax 3 ∧ picked .nodeGsum 4 ∧ picked .nodeCmp4 5 ∧ picked .nodeSend 6 ∧ picked .nodeRecv 7 ∧
  (∀ s qk n t, postRecv s qk n = some t → Enters (exec (.nodeRecv qk n) s) t) ∧
  (∀ s qk n t, grant s qk n = some t → Enters (exec (.landingGrant qk n) s) t) ∧
  (∀ s qk n t, grant s qk n = none → outsideGrant s qk n = some t → Enters (exec (.landingGrant qk n) s) t) ∧
  (∀ s id b, s.beats.find? (·.id == id) = some b → (∀ p ∈ s.fabric, p.kind = FlitKind.chunk → ∀ x ∈ p.mail, x.2 ≠ id) →
    (∀ p t, b.todo = p :: t → Enters (exec (.chunk id) s) (if sourceStopped s b.pkg true = true ∨ roomAt s p = false then s else
      { send s p with beats := s.beats.map fun x => if x.id == id then { x with todo := t } else x })) ∧
    (b.todo = [] → b.pkg ≠ s.package → Enters (exec (.chunk id) s) { s with beats := s.beats.filter (·.id != id) }) ∧
    (b.todo = [] → b.pkg = s.package → Enters (exec (.chunk id) s) ((land s b).getD s))) ∧
  (∀ s id x room, 0 < x.data.length → x.data.length ≤ 65536 → x.stack < 16 → let s1 : State := { s with nextId := s.nextId + 1 }
      landingGrant s1 x.stack { asid := x.asid, comm := x.comm, tag := x.tag, chunk := x.chunk } x.data.length = some room →
    let b : Beat := { id := s.nextId, asid := x.asid, pkg := s.package, stack := x.stack, comm := x.comm, tag := x.tag, chunk := x.chunk, data := x.data,
                      room := room, clk := [] }
    let v := useComm s1 x.asid x.comm
    let t := { v with beats := s.beats ++ [b] }
    Enters (exec (.chunk id (some x)) s) ((land t b).getD t)) ∧
  (∀ s qk n r e img, running? s qk = some r → fget? r.g.ran n = some e → fget? r.g.nodes n = some img → queuesRun s r.q.asid = true → marking s e.uid = false →
    (e.homes ≠ [] → Enters (exec (.nodeCompletion qk n) s) (e.homes.foldl (fun s h => putMarker s e.uid 0 { die := none, stack := nStk img } h 3 5)
      (modRun s qk fun g => { g with ran := fput g.ran n { e with homes := [] } }))) ∧
    (e.homes = [] → Happens (exec (.nodeCompletion qk n) s) fun u => Only [.queues, .trigs] s u ∧ Others [] s u ∧ ∃ x, running? u qk = some x ∧
      x.g.done = lput r.g.done n ∧ x.g.nodes = r.g.nodes ∧
      fgetD x.g.counts (nOut img) 0 = fgetD r.g.counts (nOut img) 0 + if r.g.single = false ∧ bitN img 30 = true then 1 else 0)) ∧
  (∀ s qk, runDone s qk = true → Enters (exec (.runCompletion qk) s) (completeEntry qk (finishHead s qk 0)))

/-- Events of pages and frozen parties (R320, R321, R324, R329 to R334). A migration's next line moves when no request is under way to it and no
remap has stopped its source (R364); a migration whose lines have all moved switches its leaf, and its signal's 1 is added, or latched where the
context's queues do not run; a parked record enters the frozen queue; a handler thread starts at the handler entry in a free pool slot; a handler
with a spent capability freezes; at level 2 a fault of the firmware's own puts the record's context into ERROR, and the firmware resumes a handler
frozen with HANDLER_BUDGET, its budgets renewed, unless its context is CUTTING, and kills any other. -/
def Obligations.PageAndFrozenEvents : Prop :=
  (∀ s home n m, mig? s home n = some m → 128 * m.copied < m.size → sourceStopped s s.package false = false →
      lineBusy s (m.old + 128 * m.copied) = false → Happens (exec (.migrationLineCopy home n) s) fun u =>
    u.mem = writeN s.mem (m.new + 128 * m.copied) (readN s.mem (m.old + 128 * m.copied) 128) 128 ∧
    mig? u home n = some { m with copied := m.copied + 1 } ∧ Others [] s u) ∧
  (∀ s home n m c, mig? s home n = some m → m.size ≤ 128 * m.copied → ctx? s m.asid = some c → queuesRun s m.asid = false →
    Happens (exec (.migrationSwitch home n) s) fun u =>
      u.mem = (if m.switched then s.mem else
        writeN s.mem m.leafAt (setBitsN (setBitsN (readN s.mem m.leafAt 8) 61 60 0) 55 16 (m.new / 65536)) 8) ∧
      (base u home).migs = (base s home).migs.take n ++ (base s home).migs.drop (n + 1) ∧ Others [] s u ∧
      ∃ w, ctx? u m.asid = some { c with latched := c.latched ++ [{ who := w, va := m.signal }] }) ∧
  (∀ s home n m t r, mig? s home n = some m → m.size ≤ 128 * m.copied → queuesRun s m.asid = true →
    let s1 := if m.switched then s else
      putMig (setLeaf s home m.leafAt fun e => setBitsN (setBitsN e 61 60 0) 55 16 (m.new / 65536)) home n { m with switched := true }
    let x := migWho (putBase s1 home { base s1 home with migs := (base s1 home).migs.take n ++ (base s1 home).migs.drop (n + 1) }) home m
    addSignal x.1 x.2 m.signal.toNat 1 = .done t r → Enters (exec (.migrationSwitch home n) s) t) ∧
  (∀ s asid c r t, ctx? s asid = some c → c.recordsMove = true → c.parked = r :: t → c.fq.length < 2 ^ c.fqlog →
    Enters (exec (.frozenRecordAdmit asid) s) { s with ctxs := fput s.ctxs asid { c with fq := c.fq ++ [r], parked := t } }) ∧
  (∀ s asid c k, ctx? s asid = some c → c.state = .running → c.hentry ≠ 0 → (unserved s asid c).bind (poolSlot s c) = some k →
    Happens (exec (.handlerStart asid) s) fun u => Only [.ids, .trigs] s u ∧ Others [k] s u ∧ ∃ a, agent? u k = some a ∧ a.kind = .handler ∧
      a.asid = asid ∧ a.tasid = c.hasid ∧ a.nregs = c.nh ∧ a.pc = BitVec.ofNat 64 c.hentry ∧ a.state = .ready ∧ a.uid = s.nextUid) ∧
  (∀ s k a n c, agent? s k = some a → a.kind = .handler → a.state ≠ .frozen → a.caps.find? (fun p => p.2.valid && p.2.budget == 0) = some (n, c) →
    Enters (exec (.handlerBudget k) s) (freeze s k .handlerBudget { x0 := BitVec.ofNat 32 n })) ∧
  (∀ s d r, (dieSt s d).level2.find? (fun r => (ctx? s r.asid).all (·.recordsMove)) = some r →
    Enters (exec (.level2Handling d true) s)
      (contextError { s with dies := fput s.dies d { dieSt s d with level2 := (dieSt s d).level2.erase r } } r.asid 1)) ∧
  (∀ s d r j p, (dieSt s d).level2.find? (fun r => (ctx? s r.asid).all (·.recordsMove)) = some r → r.target = .agent j p.uid → agent? s j = some p →
      p.state = .frozen →
    let t := { s with dies := fput s.dies d { dieSt s d with level2 := (dieSt s d).level2.erase r } }
    Enters (exec (.level2Handling d false) s)
      (if r.code = .handlerBudget ∧ ctxState s r.asid ≠ .cutting then
        modAgent (resumeParty t j .ready []) j fun a => { a with caps := a.caps.map fun x => (x.1, { x.2 with budget := 65536 }) }
      else endHandler t j))

/-- Events of contexts (R349 to R361, R408, R415, R417, R418). A request that arrives before READY, after FATAL or while another is in progress
does nothing; one in a state for which R349 has no row answers 1. A build of a legal descriptor leaves RUNNABLE with its roots and its access
tables (log 25), an illegal one ERROR with cause 4, each with two transitions counted (log 18); the stripe sets are read then (log 66). A start
answers 3 with a die RETIRED, waits until its dies are free, and leaves RUNNING, a SAVED context restored first, unless its save area was struck
or is refused; halt, resume, pre-empt, the end of a time slice, retire and free change the state as R349's table says and answer the request, a
HALTED context cut as it stands; the timeouts of a cut, and its last step, do as R354 to R356 say; of a debug halt and what ends the slice in one
cycle the halt is taken first (R360), in the order of the model's agenda (log 1). -/
def Obligations.ContextEvents : Prop :=
  let answered (s : State) (r : Nat) : State := { s with host := { s.host with busy := false, result := BitVec.ofNat 8 r } }
  let taken (s : State) (n : Nat) : Prop := s.host.ready = true ∧ s.host.fatal = false ∧ s.host.busy = false ∧ n < 4096
  let asked (s : State) (n op : Nat) : State := { s with host := { s.host with reqAsid := BitVec.ofNat 12 n, reqOp := BitVec.ofNat 3 op } }
  let retiredDie (s : State) (c : Ctx) : Prop := ∃ d ∈ diesOf c.diemask, (dieSt s d).pstate = 3
  let runs (s : State) (n : Nat) : State := answered (setState (loadQueues s n) n .running) 0
  -- a start from SAVED, once its dies are free
  let returns (out : Out) (s : State) (n : Nat) (c : Ctx) : Prop :=
    let refused : Prop := ∃ p ∈ (saveImage s n c).1, areaRefused s (c.savePa + p.1) p.2.1 false = true
    (saveBad s c = true → Enters out (contextError s n 2)) ∧ (saveBad s c = false → refused → Enters out (contextError s n 3)) ∧
    (saveBad s c = false → ¬ refused → Enters out (answered (setState (restoreContext s n c) n .running) 0))
  let halted (s : State) (n : Nat) : Cut := { choices := (residentOf s n).map fun x => (x.1, Choice.save), fromHalt := true, ready := true }
  (∀ s n e, ¬ taken s n → e ∈ [Instr.contextBuild n, .contextStart n, .contextPreempt n, .contextHalt n, .contextResume n, .contextRetire n] →
    Enters (exec e s) s) ∧
  (∀ s n, taken s n → let st := ctxState s n
    (st ≠ .runnable → st ≠ .saved → Enters (exec (.contextStart n) s) (answered (asked s n 2) 1)) ∧
    (st ≠ .running → st ≠ .halted → Enters (exec (.contextPreempt n) s) (answered (asked s n 3) 1)) ∧
    (st ≠ .running → st ≠ .cutting → Enters (exec (.contextHalt n) s) (answered (asked s n 4) 1)) ∧
    (st ≠ .halted → Enters (exec (.contextResume n) s) (answered (asked s n 5) 1)) ∧
    (st ∉ [CState.built, .runnable, .saved, .error] → Enters (exec (.contextRetire n) s) (answered (asked s n 6) 1))) ∧
  (∀ s n, taken s n → ctx? s n = none → descBad s n { desc := readPhys s s.host.ctxdesc.toNat 128 } = true →
    Happens (exec (.contextBuild n) s) fun u => u.host.result = 2 ∧ u.host.busy = false ∧ ctxState u n = .error ∧ u.denied = s.denied ∧
      ∃ c, ctx? u n = some c ∧ c.cause = 4 ∧ c.ntrans = 2) ∧
  (∀ s n, taken s n → ctx? s n = none → let c : Ctx := { desc := readPhys s s.host.ctxdesc.toNat 128 }
    descBad s n c = false → Happens (exec (.contextBuild n) s) fun u => u.host.result = 0 ∧ u.host.busy = false ∧ ctxState u n = .runnable ∧
      u.denied = s.denied ++ accessEntries n c ∧ (∀ d, ctx? u n = some d → d.desc = c.desc ∧ d.ntrans = 2) ∧ u.mem = s.mem ∧ Others [] s u ∧
      ∀ st h r, (st, h, r) ∈ rootPairs s c → fget? (base u st).roots n = some (h, r)) ∧
  (∀ s n c, taken s n → ctx? s n = some c → Enters (exec (.contextBuild n) s) (answered (asked s n 1) 1)) ∧
  (∀ s n c, taken s n → ctx? s n = some c → (c.state = .runnable ∨ c.state = .saved) → let t := asked s n 2
    (retiredDie s c → Enters (exec (.contextStart n) s) (answered t 3)) ∧
    (¬ retiredDie s c → canStart s n c = true → c.state = .runnable → Enters (exec (.contextStart n) s) (runs t n)) ∧
    (¬ retiredDie s c → canStart s n c = true → c.state = .saved → returns (exec (.contextStart n) s) t n c) ∧
    (¬ retiredDie s c → canStart s n c = false → Enters (exec (.contextStart n) s) { t with host := { t.host with busy := true } })) ∧
  (∀ s n c, startWaiting s n = some c → (retiredDie s c → Enters (exec (.contextStartWhenFree n) s) (answered s 3)) ∧
    (¬ retiredDie s c → c.state = .runnable → Enters (exec (.contextStartWhenFree n) s) (runs s n)) ∧
    (¬ retiredDie s c → c.state = .saved → returns (exec (.contextStartWhenFree n) s) s n c)) ∧
  (∀ s n c, taken s n → ctx? s n = some c → (c.state = .running ∨ c.state = .cutting) →
    Enters (exec (.contextHalt n) s) (answered (setState (asked s n 4) n .halted) 0)) ∧
  (∀ s n c, taken s n → ctx? s n = some c → c.state = .halted → Enters (exec (.contextResume n) s)
    (answered (sendAllLatched (setState (asked s n 5) n (if c.cut.isSome then .cutting else .running)) n) 0)) ∧
  (∀ s n c, taken s n → ctx? s n = some c → (c.state = .running ∨ c.state = .halted) → Happens (exec (.contextPreempt n) s) fun u =>
    u.host.busy = true ∧ u.host.reqOp = 3 ∧ u.host.reqAsid = BitVec.ofNat 12 n ∧ Others [] s u ∧
    ∃ d, ctx? u n = some d ∧ d.state = .cutting ∧ d.ntrans = c.ntrans + 1 ∧ d.sliced = false ∧
      d.cut = some (if c.state = .halted then halted s n else { choices := choices s n, fromHalt := false })) ∧
  (∀ s n c, s.host.fatal = false → ctx? s n = some c → (c.state = .running ∨ c.state = .halted) → c.tslice ≠ 0 →
    Happens (exec (.tsliceExpiry n) s) fun u => u.host = s.host ∧ Others [] s u ∧ ∃ d, ctx? u n = some d ∧ d.state = .cutting ∧ d.sliced = true ∧
      d.cut = some (if c.state = .halted then halted s n else { choices := choices s n, fromHalt := false })) ∧
  (∀ s n c, taken s n → ctx? s n = some c → (c.state = .built ∨ c.state = .runnable ∨ c.state = .saved ∨ c.state = .error) →
    Happens (exec (.contextRetire n) s) fun u => ctxState u n = .retired ∧ u.host.result = 0 ∧ (∀ j a, (j, a) ∈ u.agents → a.asid ≠ n) ∧
      (∀ j q, (j, q) ∈ u.queues → q.asid ≠ n) ∧ (∀ j k, (j, k) ∈ u.kernels → k.asid ≠ n) ∧ (∀ r ∈ u.reqs, r.who.asid ≠ n) ∧
      (∀ d ∈ u.denied, d.asid ≠ some n) ∧ u.mem = s.mem) ∧
  (∀ s n, freeDue s n = true → Happens (exec (.contextFree n) s) fun u => ctx? u n = none ∧ ctxstat u n = ctxstat (setState s n .free) n ∧
    (∀ l ∈ u.lines, l.asid ≠ n) ∧
    (∀ b x, (b, x) ∈ u.bases → (∀ t ∈ x.tlb, t.asid ≠ n) ∧ fget? x.roots n = none ∧ fget? x.logs n = none) ∧ u.mem = s.mem) ∧
  (∀ s n c x, ctx? s n = some c → c.cut = some x → Enters (exec (.drainTimeout n) s) { s with
    ctxs := fput s.ctxs n { c with cut := some { x with choices := x.choices.map fun p => (p.1, if p.2 = .drain then Choice.save else p.2) } } }) ∧
  (∀ s n c x k a i y, ctx? s n = some c → c.state = .cutting → c.cut = some x → x.fromHalt = false →
      s.agents.filter (fun p => p.2.kind == .handler && p.2.asid == n && p.2.state != .frozen) = [(k, a)] →
      a.caps.find? (fun p => p.2.valid) = some (i, y) →
    Enters (exec (.handlerCutTimeout n) s) (freeze s k .handlerBudget { x0 := BitVec.ofNat 32 i })) ∧
  (∀ s n c x, ctx? s n = some c → c.state = .cutting → c.cut = some x → cutWaits s n x = false →
      (forwards (setReady s n) n = false ∨ x.forwarded = true) → settled (setReady s n) n = true → Enters (exec (.contextCut n) s) (scanContext (setReady s n) n x)) ∧
  (∀ s n c x, ctx? s n = some c → c.state = .cutting → c.cut = some x → cutWaits s n x = false → forwardReady s n = true →
    Enters (exec (.drainForward n) s) { s with ctxs := fput s.ctxs n { c with cut := some { x with ready := true, forwarded := true } } }) ∧
  (∀ s n e, e ∈ [Event.tsliceExpiry n, .contextPreempt n] → s.agenda = [e, .contextHalt n] → step s = exec (.contextHalt n) { s with agenda := [e] })

/-- Events of links, masts and routes (R363, R364, R367, R369, R372, R373, R377, R379, R416), on a link that serves where it is one. While its
replay buffer holds flits sixteen failures in a row fence it, fewer are counted; a lane fault that the spare lanes of its bundle cover leaves it
DEGRADED, logged as spared, another fences it; training, its result and a fenced link's self-test change its state as R373 says, a lasting fault
logged; when a mast leaves, the sources stop, and once the fabric has drained every remap register is rewritten, as also when it returns; a change
of an entry's routes stops the sources to its package likewise before the entry is rewritten, and one that needs no drain is written at once; a
discarded flit fences its link, a flit that is none does not; a firmware message reaches its firmware. Which number a link has, and which base die
logs it, is log 10. -/
def Obligations.LinkEvents : Prop :=
  let put (s : State) (n : Nat) (l : Link) : State := { s with links := fput s.links n l }
  let fenced (s : State) (n : Nat) (l : Link) : State := { put s n { l with state := .fenced, replay := 0 } with
    agenda := s.agenda ++ serviceEvents (put s n { l with state := .fenced, replay := 0 }) n false }
  let serves (s : State) (n : Nat) : Prop := (link s n).state = .up ∨ (link s n).state = .degraded
  (∀ s n k, serves s n → Enters (exec (.crcReplay n k) s)
    (if replayBuffer s n = [] then s else if 16 ≤ k then fenced s n (link s n) else put s n { link s n with replay := k })) ∧
  (∀ s n, n < 384 → (link s n).state = .down → Enters (exec (.linkTraining n) s) (put s n { link s n with state := .training })) ∧
  (∀ s n, (link s n).state = .training → let back (t : State) : State := { t with agenda := t.agenda ++ serviceEvents t n true }
    Enters (exec (.linkTrained n .failed) s) (fenced s n (link s n)) ∧
    Enters (exec (.linkTrained n .up) s) (back (put s n { state := .up })) ∧
    ∀ faults, let l := trainedLink n faults
      Enters (exec (.linkTrained n (.degraded faults)) s) (if l.state = .fenced then fenced (put s n l) n l else back (put s n l))) ∧
  (∀ n d c, n < 192 ∨ (320 ≤ n ∧ n < 384) → (trainedLink n [(d, c)]).state =
    if d + c = 0 then .up else if (if n < 192 then d ≤ 2 ∧ c ≤ 1 else d + c ≤ 1) then .degraded else .fenced) ∧
  (∀ s n b control, serves s n → n < 384 → b < bundles n → let x := fgetD (link s n).lanes b {}
    let lanes := fput (link s n).lanes b (if control then { x with ctl := x.ctl + 1 } else { x with data := x.data + 1 })
    let covered : Prop := if n < 320 then ∀ y ∈ lanes, y.2.data ≤ 2 ∧ y.2.ctl ≤ 1 else (lanes.map fun y => y.2.data + y.2.ctl).foldl (· + ·) 0 ≤ 1
    let t := put s n { link s n with lanes := lanes, state := .degraded }
    (covered → Enters (exec (.laneFault n control b) s) (if n < 320 then logError t (.link n) 2 else t)) ∧
    (¬ covered → Happens (exec (.laneFault n control b) s) fun u => (link u n).state = .fenced ∧ ∀ j, j ≠ n → link u j = link s j)) ∧
  (∀ s n, (link s n).state = .fenced →
    Enters (exec (.linkSelfTest n true) s) (logError (put s n { link s n with state := .retired }) (.link n) 3) ∧
    Enters (exec (.linkSelfTest n false) s) (put s n { link s n with state := .training })) ∧
  (∀ s m, m < 4 → s.changes.contains (.mastRemap m false) = false → bitN (aliveNow s) m = true → setBitsN (aliveNow s) m m 0 ≠ 0 →
    Happens (exec (.mastRemap m false) s) fun u => u.changes = s.changes ++ [.mastRemap m false] ∧ (∀ pkg rx, sourceStopped u pkg rx = true) ∧
      u.bases = s.bases ∧ u.dies = s.dies ∧ u.mem = s.mem ∧ Others [] s u) ∧
  (∀ s m up, m < 4 → s.changes.head? = some (.mastRemap m up) → drained s none = true → bitN (aliveNow s) m ≠ up → (up = true → mastWhole s m = true) →
      (up = false → setBitsN (aliveNow s) m m 0 ≠ 0) → let alive := setBitsN (aliveNow s) m m (if up then 1 else 0)
    Happens (exec (.mastRemap m up) s) fun u => u.changes = s.changes.tail ∧ (∀ b, b < 16 → (base u b).remap = BitVec.ofNat 32 (remapOf alive)) ∧
      (∀ d, d < 8 → (dieSt u d).remap = BitVec.ofNat 32 (remapOf alive)) ∧ u.mem = s.mem ∧ Others [] s u) ∧
  (∀ s st pkg r, st < 16 → pkg < 240 → pkg ≠ s.package → let b := base s st
    let entry (s : State) : State := { s with bases := fput s.bases st { b with
      fullRoutes := fput b.fullRoutes pkg r, routes := fput b.routes pkg (BitVec.ofNat 64 (maskRoutes s r.toNat)) } }
    (s.changes.contains (.routeChange st pkg r) = false → routeQuiet s st pkg r = true → Enters (exec (.routeChange st pkg r) s) (entry s)) ∧
    (s.changes.contains (.routeChange st pkg r) = false → routeQuiet s st pkg r = false → Happens (exec (.routeChange st pkg r) s) fun u =>
      u.changes = s.changes ++ [.routeChange st pkg r] ∧ sourceStopped u pkg false = true ∧ u.bases = s.bases ∧ u.mem = s.mem ∧ Others [] s u) ∧
    (s.changes.head? = some (.routeChange st pkg r) → drained s (some pkg) = true →
      Enters (exec (.routeChange st pkg r) s) (entry { s with changes := s.changes.tail }))) ∧
  (∀ s n b, serves s n → Enters (exec (.discardedFlit n b) s) (if (Flit.ofBits b).ok = true then s else fenced s n (link s n))) ∧
  (∀ s st msg, Enters (exec (.fw st msg) s) { s with bases := fput s.bases st { base s st with fw := (base s st).fw ++ [msg] } })

/-- Events of power (R412 to R414), of health (R14, R415, R416) and of the host (R211, R405 to R411, R417, R418), each from every state that meets
what its clause says, and nothing more. After READY and before FATAL a die powers off, or refuses with RESULT 1, 2 or 3; one powers on with its
clusters and clocks reset, or refuses because it is retired (RESULT and STATE there are log 23); an operating point is asked for, and is in force
with its A and I after its switch; a control interval renews every cluster's energy; an activation window grows or returns to its floor. An ECC
error is logged in the ring in memory of the unit's base die (log 10), and an uncorrectable one poisons its HBM or scratchpad word or its vector
register; a self-test finds nothing, spares, or retires a die, a link or a mast; a failed die is off (log 23), and what it held modified is
poisoned. A write from outside to host memory, HDM or GFAM changes it and drops the die-L2 copies of its lines; a back-invalidation drops those of
its line; a quote holds the nonce and the SHAKE256 measurements of the firmware and of every live context; register writes take effect as R406
says, requests of CTXREQ and DIEPWR as their events do, and none of another width or that the access table refuses; a package reset ends ready,
with its links trained (log 26), or failed with its code; a FATAL package puts its RUNNING and CUTTING contexts into ERROR (log 24); an access to
HBM from outside writes its bytes, or is aborted. -/
def Obligations.HostEvents : Prop :=
  let die (s : State) (d : Nat) (x : Die) : State := { s with dies := fput s.dies d x }
  let up (s : State) : Prop := s.host.ready = true ∧ s.host.fatal = false
  let refuses (s : State) (d r : Nat) : Prop := Enters (exec (.diePowerOff d) s) (die s d { dieSt s d with req := 0, result := BitVec.ofNat 8 r })
  let point (s : State) (d : Nat) (p : BitVec 2) : State :=
    if p = 3 then s else die s d { dieSt s d with oppt := p, want := if p = (dieSt s d).point then none else some p, result := 0 }
  -- the next record of the ring of the base die that logs a unit
  let ring (s : State) (x : EccUnit) : Nat := errRing s (unitLog x).1 + 32 * ((base s (unitLog x).1).errCount % 256)
  let record (s : State) (x : EccUnit) (kind : Nat) : Nat :=
    (unitLog x).2.1 + kind * 2 ^ 32 + (unitLog x).2.2 % 2 ^ 64 * 2 ^ 64 + s.cycle % 2 ^ 64 * 2 ^ 128
  let inRing (s : State) (x : EccUnit) (w : Nat) : Prop := ring s x ≤ 4 * w ∧ 4 * w + 4 ≤ ring s x + 32
  let logged (s u : State) (x : EccUnit) : Prop :=
    u.host.err = true ∧ .errlog (unitLog x).1 ∈ u.msi ∧ (base u (unitLog x).1).errCount = (base s (unitLog x).1).errCount + 1
  (∀ s d p e, ¬ up s → e ∈ [Instr.diePowerOff d, .diePowerOn d, .operatingPointRequest d p] → Enters (exec e s) s) ∧
  (∀ s d, up s → ((dieSt s d).pstate = 3 → refuses s d 0) ∧ ((dieSt s d).pstate ≠ 3 → (resident s d = true → refuses s d 1) ∧ (resident s d = false →
    ((dieSt s d).mash.state ≠ 0 ∨ (dieSt s d).mash.owned = true → refuses s d 2) ∧
    ((dieSt s d).mash.state = 0 → (dieSt s d).mash.owned = false → (ownsList s d = true → refuses s d 3) ∧ (ownsList s d = false →
      Happens (exec (.diePowerOff d) s) fun u => dieSt u d = { dieSt s d with req := 0, result := 0, pstate := 0 } ∧
        (∀ l ∈ u.lines, l.die ≠ d) ∧ u.mem = s.mem ∧ Others [] s u))))) ∧
  (∀ s d, up s → ((dieSt s d).pstate = 3 → Enters (exec (.diePowerOn d) s) (die s d { dieSt s d with req := 1, result := 1 })) ∧
    ((dieSt s d).pstate ≠ 3 → (dieSt s d).pstate ≠ 0 → Enters (exec (.diePowerOn d) s) (die s d { dieSt s d with req := 1, result := 0 })) ∧
    ((dieSt s d).pstate = 0 → Happens (exec (.diePowerOn d) s) fun u => dieSt u d = { dieSt s d with req := 1, result := 0, pstate := 1 } ∧
      (∀ core, core / 80 = d → fgetD u.clocks core 0 = 0) ∧ (∀ cl, cl / 20 = d → cluster u cl = { remaining := (dieSt s d).allow.toNat }) ∧
      Others [] s u ∧ u.mem = s.mem)) ∧
  (∀ s d p, up s → Enters (exec (.operatingPointRequest d p) s) (point s d p)) ∧
  (∀ s d p, (dieSt s d).want = some p →
    let a := if p = 0 then 90000 else if p = 2 then 185000 else 150000
    Happens (exec (.operatingPointSwitch d) s) fun u => Others [] s u ∧
      dieSt u d = { dieSt s d with point := p, want := none, allow := BitVec.ofNat 24 a, amps := (if p = 0 then 16 else if p = 2 then 30 else 26) } ∧
      ∀ cl, cl / 20 = d → (cluster u cl).remaining = if (cluster s cl).admitted = 0 then a else (cluster s cl).remaining) ∧
  (∀ s, Happens (exec .controlIntervalStart s) fun u => Others [] s u ∧ u.mem = s.mem ∧
    u.agenda = ((s.dies.filter fun x => x.2.want.isSome).map fun x => Event.operatingPointSwitch x.1) ++ s.agenda ∧ ∀ cl, cl < 160 →
    (cluster u cl).remaining = (dieSt s (cl / 20)).allow.toNat ∧ (cluster u cl).admitted = 0 ∧ (cluster u cl).eng = (cluster s cl).eng) ∧
  (∀ s st above, Enters (exec (.activationWindowAdjust st above) s) { s with
    bases := fput s.bases st { base s st with actNow := if above then (base s st).actNow + 1 else (base s st).actwin.toNat } }) ∧
  (∀ s x c, Happens (exec (.eccError x c) s) fun u => logged s u x ∧
    (MemoryOk s → readN u.mem (ring s x) 32 = record s x (if c then 0 else 1) % 2 ^ 256) ∧
    (c = true → Others [] s u ∧ u.mem = writeN s.mem (ring s x) (record s x 0) 32 ∧ ∀ w, ¬ inRing s x w → (w ∈ u.poison ↔ w ∈ s.poison))) ∧
  (∀ s pa, let x := EccUnit.hbm pa
    Happens (exec (.eccError x false) s) fun u => Others [] s u ∧ ∀ w, ¬ inRing s x w → (w ∈ u.poison ↔ w = wordOf pa.toNat ∨ w ∈ s.poison)) ∧
  (∀ s core off, let x := EccUnit.sram core off
    Happens (exec (.eccError x false) s) fun u => ∀ w, ¬ inRing s x w → (w ∈ u.poison ↔ w = sramWord (sramLoc core off) ∨ w ∈ s.poison)) ∧
  (∀ s k n a, agent? s k = some a → n < a.nregs → n < 255 → Happens (exec (.eccError (.vreg k n) false) s) fun u => ∃ b, agent? u k = some b ∧
    (b.vcell n).poison = true ∧ (b.vcell n).val = (a.vcell n).val ∧ ∀ m, m ≠ n → b.vcell m = a.vcell m) ∧
  (∀ s x spared, (∀ n, x ≠ .link n) → Enters (exec (.healthSelfTest x false spared) s) s) ∧
  (∀ s n spared, (link s n).state = .fenced → Happens (exec (.healthSelfTest (.link n) false spared) s) fun u =>
    (link u n).state = .training ∧ ∀ j, j ≠ n → link u j = link s j) ∧
  (∀ s x, (∀ n, x ≠ .link n) → Happens (exec (.healthSelfTest x true true) s) fun u => logged s u x ∧ Others [] s u ∧
    u.mem = writeN s.mem (ring s x) (record s x 2) 32 ∧ u.dies = s.dies ∧ u.links = s.links) ∧
  (∀ s n, n < 320 → (link s n).state = .up → (link s n).lanes = [] → Happens (exec (.healthSelfTest (.link n) true true) s) fun u =>
    logged s u (.link n) ∧ (link u n).state = .degraded ∧ (link u n).lanes = [(0, { data := 1 })] ∧ u.mem = writeN s.mem (ring s (.link n)) (record s (.link n) 2) 32) ∧
  (∀ s d, Happens (exec (.healthSelfTest (.die d) true false) s) fun u => logged s u (.die d) ∧ (dieSt u d).pstate = 3 ∧ ∀ l ∈ u.lines, l.die ≠ d) ∧
  (∀ s n, (link s n).state ∈ [LState.up, .degraded, .fenced] → Happens (exec (.healthSelfTest (.link n) true false) s) fun u =>
    logged s u (.link n) ∧ (link u n).state = .retired) ∧
  (∀ s m, m < 4 → Happens (exec (.healthSelfTest (.mast m) true false) s) fun u => logged s u (.mast m) ∧
    (∀ n, linkKind n = some (.mast m) → (link u n).state = .retired) ∧ (bitN (aliveNow s) m = true → Event.mastRemap m false ∈ u.agenda)) ∧
  (∀ s d, Happens (exec (.dieFailure d) s) fun u => (dieSt u d).pstate = 0 ∧ (∀ l ∈ u.lines, l.die ≠ d) ∧ (∀ w ∈ s.poison, w ∈ u.poison) ∧
    ∀ l ∈ s.lines, l.die = d → l.dirty = true → ∀ w ∈ wordsAt l.pa 128, w ∈ u.poison) ∧
  (∀ s pa data, 240 ≤ paPkg pa.toNat → paPkg pa.toNat ≤ 242 → s.host.fatal = false → Happens (exec (.hostWriteInvalidate pa data) s) fun u =>
    u.mem = writeN s.mem pa.toNat (ofBytes data) data.length ∧ Others [] s u ∧
    ∀ l ∈ u.lines, ∀ i, i < data.length → l.pa ≠ lineOf (pa.toNat + i)) ∧
  (∀ s pa, paPkg pa.toNat = 241 → Happens (exec (.backInvalidate pa) s) fun u => u.mem = s.mem ∧ Others [] s u ∧ ∀ l ∈ u.lines, l.pa ≠ lineOf pa.toNat) ∧
  (∀ s n, s.host.ready = true → Happens (exec (.attestationQuote n) s) fun u => Only [.quotes, .trigs] s u ∧ Others [] s u ∧
    ∃ q, u.quotes = s.quotes ++ [q] ∧ q.nonce = n ∧ q.firmware = shake256 Config.firmware ∧
      ∀ a m, (a, m) ∈ q.contexts ↔ ∃ c, (a, c) ∈ s.ctxs ∧ c.state ≠ .free ∧ c.state ≠ .retired ∧ m = shake256 (bytesOf c.desc 128)) ∧
  (∀ s master off n v, s.host.fatal = true ∨ (n ≠ 4 ∧ n ≠ 8) ∨ off.toNat % 2 ^ 44 % n ≠ 0 ∨ refusedBy s master (255 * 2 ^ 48 + off.toNat) .store = true →
    Enters (exec (.mmioRegisterWrite off n v master) s) s) ∧
  (∀ s master off v, s.host.fatal = false → refusedBy s master (255 * 2 ^ 48 + off.toNat) .store = false →
    let st := bitsN off.toNat 47 44; let o := off.toNat % 2 ^ 44; let w := v.toNat % 2 ^ 32; let b := base s st
    let write : Out := exec (.mmioRegisterWrite off 4 v master) s
    (st = 0 ∨ st = 15 →
      (o = 0 → Enters write (if bitN w 16 then { s with host := { s.host with err := false } } else s)) ∧
      (o = 0x10 → let a := w % 4096; let op := w / 4096 % 8
        (op ≠ 0 → op ≠ 7 → write = exec (match op with
          | 1 => .contextBuild a | 2 => .contextStart a | 3 => .contextPreempt a | 4 => .contextHalt a | 5 => .contextResume a | _ => .contextRetire a) s) ∧
        (op = 0 ∨ op = 7 → Enters write (if s.host.ready = true ∧ s.host.busy = false then
          { s with host := { s.host with reqAsid := BitVec.ofNat 12 a, reqOp := BitVec.ofNat 3 op } } else s)))) ∧
    (o = 0x100 ∨ o = 0x108 → up s → let d := dieOnPort st (if o = 0x100 then 0 else 1); let t := point s d (BitVec.ofNat 2 (w / 4))
      (w % 4 = 0 → write = exec (.diePowerOff d) t) ∧ (w % 4 = 1 → write = exec (.diePowerOn d) t) ∧ (2 ≤ w % 4 → Enters write t)) ∧
    (o = 0x104 ∨ o = 0x10C → let d := dieOnPort st (if o = 0x104 then 0 else 1)
      Enters write (die s d { dieSt s d with allow := BitVec.ofNat 24 w, amps := BitVec.ofNat 8 (w / 2 ^ 24) })) ∧
    (o = 0x200 → Enters write { s with bases := fput s.bases st { b with
      actwin := BitVec.ofNat 16 w, actNow := if b.actNow = b.actwin.toNat then w % 65536 else max (w % 65536) b.actNow } })) ∧
  (∀ s master off v, s.host.fatal = false → refusedBy s master (255 * 2 ^ 48 + off.toNat) .store = false →
      (bitsN off.toNat 47 44 = 0 ∨ bitsN off.toNat 47 44 = 15) → off.toNat % 2 ^ 44 = 8 →
    Happens (exec (.mmioRegisterWrite off 8 v master) s) fun u => u.host = { s.host with ctxdesc := v } ∧ Others [] s u ∧ u.mem = s.mem) ∧
  (∀ s ds, Happens (exec (.packageReset (.ok ds)) s) fun u => u.host.stage = 4 ∧ u.host.ready = true ∧ u.host.fatal = false ∧ u.agents = [] ∧ u.ctxs = [] ∧
    (∀ n, n < 384 → (∀ x ∈ ds, x.1 ≠ n) → (link u n).state = .up) ∧
    (∀ n faults, ds = [(n, faults)] → n < 384 → (link u n).state = (trainedLink n faults).state) ∧ (∀ d, d < 8 → (dieSt u d).pstate = 1) ∧
    (MemoryOk s → ∀ a, Memory.get u.mem a = if paPkg a = s.package then 0 else Memory.get s.mem a)) ∧
  (∀ s r, (∀ ds, r ≠ .ok ds) → Happens (exec (.packageReset r) s) fun u => u.host.stage = 5 ∧ u.host.ready = false ∧ u.agents = [] ∧ u.ctxs = [] ∧
    u.host.fwerr = (match r with | .signatureInvalid => 1 | .imageUnreadable => 2 | .calibrationFailed => 3 | _ => 4)) ∧
  (∀ s image, Happens (exec (.packageFatal image) s) fun u => u.host.fatal = true ∧ u.host.ready = false ∧
    u.host.stage = (if image then 5 else s.host.stage) ∧ u.host.fwerr = (if image then 1 else s.host.fwerr) ∧
    ∀ n c, ctx? s n = some c → (n, c) ∈ s.ctxs → (c.state = .running ∨ c.state = .cutting) → ctxState u n = .error) ∧
  (∀ s master pa n, Enters (exec (.hostHbmAccess master pa n none) s) s) ∧
  (∀ s master pa n d, s.host.fatal = true ∨ paPkg pa.toNat ≠ s.package ∨ mappableEnd < pa.toNat % 2 ^ 44 + n ∨ refusedBy s master pa.toNat .store = true →
    Enters (exec (.hostHbmAccess master pa n (some d)) s) s) ∧
  (∀ s master pa n d, s.host.fatal = false → paPkg pa.toNat = s.package → pa.toNat % 2 ^ 44 + n ≤ mappableEnd →
      refusedBy s master pa.toNat .store = false →
      (∀ qk q r, (qk, q) ∈ s.queues → devicePa s q.asid q.recVa.toNat = some r → rangesMeet r 64 pa.toNat (d.take n).length = false) →
      (∀ x ∈ bareRecords s, rangesMeet x.2.2 64 pa.toNat (d.take n).length = false) →
    Happens (exec (.hostHbmAccess master pa n (some d)) s) fun u =>
      u.mem = writeN s.mem pa.toNat (ofBytes (d.take n)) (d.take n).length ∧ Others [] s u)

/-! ### An invariant -/

/-- Every step keeps both memories in their canonical form: addresses rising, no byte listed that an unlisted address reads as.
The form, and that an unwritten byte reads 0, are the model's own (log 8). -/
def Obligations.MemoryFormKept : Prop :=
  ∀ s t : State, MemoryOk s → step s = .next t → MemoryOk t
end

