-- ==== Sys2Proof/Laws/Memory.lean ====
section
/-!
SUPPORT. Sys2Proof/Laws/Memory.lean: the canonical form of memory is kept by every memory operation, and reading after writing.
-/
namespace Sys2Proof.Machine

/-- Every listed address lies above a bound. -/
def Memory.above (n : Nat) (m : Memory) : Prop := ∀ c ∈ m, n < c.1

theorem Memory.wf_cons {a : Nat} {v : Byte} {t : Memory} : Memory.wf ((a, v) :: t) = true ↔ v ≠ 0 ∧ Memory.above a t ∧ Memory.wf t = true := by
  induction t generalizing a v with
  | nil => simp [Memory.wf, Memory.above]
  | cons h t ih =>
    obtain ⟨b, y⟩ := h
    have hw : Memory.wf ((a, v) :: (b, y) :: t) = (v != 0 && decide (a < b) && Memory.wf ((b, y) :: t)) := rfl
    rw [hw]
    simp only [Bool.and_eq_true, bne_iff_ne, ne_eq, decide_eq_true_eq, Memory.above, List.mem_cons, forall_eq_or_imp]
    constructor
    · rintro ⟨⟨h1, h2⟩, h3⟩
      refine ⟨h1, ⟨h2, fun c hc => ?_⟩, h3⟩
      have := (ih.mp h3).2.1 c hc
      exact lt_trans h2 this
    · rintro ⟨h1, ⟨h2, _⟩, h3⟩
      exact ⟨⟨h1, h2⟩, h3⟩

theorem Memory.get_above {n : Nat} {m : Memory} (h : Memory.above n m) {j : Nat} (hj : j ≤ n) : Memory.get m j = 0 := by
  cases m with
  | nil => rfl
  | cons hd t =>
    obtain ⟨k, v⟩ := hd
    have hk : n < k := h (k, v) (by simp)
    simp only [Memory.get, beq_iff_eq]
    rw [if_neg (by omega), if_pos (by omega)]

theorem Memory.set_above {n : Nat} {m : Memory} (h : Memory.above n m) {j : Nat} (hj : n < j) (x : Byte) : Memory.above n (Memory.set m j x) := by
  induction m with
  | nil => unfold Memory.set; split <;> simp [Memory.above, hj]
  | cons hd t ih =>
    obtain ⟨k, v⟩ := hd
    have hk : n < k := h (k, v) (by simp)
    have ht : Memory.above n t := fun c hc => h c (by simp [hc])
    unfold Memory.set
    split
    · split
      · exact h
      · intro c hc
        rcases List.mem_cons.mp hc with rfl | hc
        · exact hj
        · exact h c hc
    · split
      · split
        · exact ht
        · intro c hc
          rcases List.mem_cons.mp hc with rfl | hc
          · exact hj
          · exact ht c hc
      · intro c hc
        rcases List.mem_cons.mp hc with rfl | hc
        · exact hk
        · exact ih ht c hc

/-- Setting a byte keeps the canonical form. -/
theorem Memory.wf_set {m : Memory} (h : Memory.wf m = true) (j : Nat) (x : Byte) : Memory.wf (Memory.set m j x) = true := by
  induction m with
  | nil =>
    unfold Memory.set
    split
    · rfl
    · simp_all [Memory.wf]
  | cons hd t ih =>
    obtain ⟨k, v⟩ := hd
    obtain ⟨hv, ha, ht⟩ := Memory.wf_cons.mp h
    unfold Memory.set
    split
    · split
      · exact h
      · rename_i hjk hx
        refine Memory.wf_cons.mpr ⟨by simpa using hx, fun c hc => ?_, h⟩
        rcases List.mem_cons.mp hc with rfl | hc
        · exact hjk
        · exact lt_trans hjk (ha c hc)
    · split
      · split
        · exact ht
        · rename_i _ hjk hx
          have : j = k := by simpa using hjk
          subst this
          exact Memory.wf_cons.mpr ⟨by simpa using hx, ha, ht⟩
      · rename_i h1 h2
        have hlt : k < j := by
          have : ¬ j = k := by simpa using h2
          omega
        exact Memory.wf_cons.mpr ⟨hv, Memory.set_above ha hlt x, ih ht⟩

theorem Memory.wf_writeN {m : Memory} (h : Memory.wf m = true) (a v n : Nat) : Memory.wf (writeN m a v n) = true := by
  induction n generalizing m a v with
  | zero => exact h
  | succ n ih => exact ih (Memory.wf_set h _ _) _ _

theorem Memory.wf_writeLocs {m : Memory} (h : Memory.wf m = true) (l : List Nat) (v : Nat) : Memory.wf (writeLocs m l v) = true := by
  induction l generalizing m v with
  | nil => exact h
  | cons a t ih => exact ih (Memory.wf_set h _ _) _

theorem Memory.wf_filter {m : Memory} (h : Memory.wf m = true) (p : Host.Cell → Bool) : Memory.wf (List.filter p m) = true := by
  induction m with
  | nil => rfl
  | cons hd t ih =>
    obtain ⟨k, v⟩ := hd
    obtain ⟨hv, ha, ht⟩ := Memory.wf_cons.mp h
    simp only [List.filter_cons]
    split
    · exact Memory.wf_cons.mpr ⟨hv, fun c hc => ha c (List.mem_of_mem_filter hc), ih ht⟩
    · exact ih ht

theorem Memory.wf_foldSet {α : Type} {m : Memory} (h : Memory.wf m = true) (l : List α) (at_ : α → Nat) (byte : α → Byte) :
    Memory.wf (l.foldl (fun m x => Memory.set m (at_ x) (byte x)) m) = true := by
  induction l generalizing m with
  | nil => exact h
  | cons a t ih => exact ih (Memory.wf_set h _ _)

/-- Reading a byte after setting it, and every other byte. -/
theorem Memory.get_set {m : Memory} (h : Memory.wf m = true) (j i : Nat) (x : Byte) :
    Memory.get (Memory.set m j x) i = if i = j then x else Memory.get m i := by
  induction m with
  | nil =>
    unfold Memory.set
    split
    · rename_i hx
      have : x = 0 := by simpa using hx
      subst this; simp [Memory.get]
    · simp only [Memory.get, beq_iff_eq]
      by_cases hi : i = j
      · simp [hi]
      · have : ¬ j = i := fun e => hi e.symm
        simp [hi, this]
  | cons hd t ih =>
    obtain ⟨k, v⟩ := hd
    obtain ⟨hv, ha, ht⟩ := Memory.wf_cons.mp h
    unfold Memory.set
    split
    · rename_i hjk
      split
      · rename_i hx
        have hx : x = 0 := by simpa using hx
        subst hx
        by_cases hi : i = j
        · subst hi; simp only [Memory.get, beq_iff_eq, if_true]
          rw [if_neg (by omega), if_pos hjk]
        · simp [hi]
      · simp only [Memory.get, beq_iff_eq]
        by_cases hi : i = j
        · simp [hi]
        · rw [if_neg (fun e => hi e.symm), if_neg hi]
          by_cases hij : i < j
          · rw [if_pos hij, if_neg (by omega), if_pos (by omega)]
          · rw [if_neg hij]
    · split
      · rename_i _ hjk
        have hjk : j = k := by simpa using hjk
        subst hjk
        split
        · rename_i hx
          have hx : x = 0 := by simpa using hx
          subst hx
          by_cases hi : i = j
          · subst hi; simp [Memory.get_above ha (le_refl _)]
          · rw [if_neg hi]
            simp only [Memory.get, beq_iff_eq]
            rw [if_neg (fun e => hi e.symm)]
            split
            · exact Memory.get_above ha (by omega)
            · rfl
        · simp only [Memory.get, beq_iff_eq]
          by_cases hi : i = j
          · simp [hi]
          · have hji : ¬ j = i := fun e => hi e.symm
            simp only [hi, hji, if_false]
      · rename_i h1 h2
        have h2 : ¬ j = k := by simpa using h2
        simp only [Memory.get, beq_iff_eq]
        by_cases hk : k = i
        · rw [if_pos hk, if_neg (by omega), if_pos hk]
        · rw [if_neg hk]
          by_cases hik : i < k
          · rw [if_pos hik, if_neg (by omega), if_neg hk, if_pos hik]
          · rw [if_neg hik, if_neg hk, if_neg hik, ih ht]

/-- Bytes outside a written range read as before. -/
theorem Memory.get_writeN_ne {m : Memory} (h : Memory.wf m = true) {a v n i : Nat} (hi : i < a ∨ a + n ≤ i) :
    Memory.get (writeN m a v n) i = Memory.get m i := by
  induction n generalizing m a v with
  | zero => rfl
  | succ n ih =>
    simp only [writeN]
    rw [ih (Memory.wf_set h _ _) (by omega), Memory.get_set h, if_neg (by omega)]

/-- A written range reads back the low bytes that were written. -/
theorem readN_writeN {m : Memory} (h : Memory.wf m = true) (a v n : Nat) : readN (writeN m a v n) a n = v % 2 ^ (8 * n) := by
  induction n generalizing m a v with
  | zero => simp [readN, Nat.mod_one]
  | succ n ih =>
    simp only [readN, writeN]
    rw [Memory.get_writeN_ne (Memory.wf_set h _ _) (by omega), Memory.get_set h, if_pos rfl, ih (Memory.wf_set h _ _)]
    rw [BitVec.toNat_ofNat, show 8 * (n + 1) = 8 + 8 * n by omega, pow_add, Nat.mod_mul]; rfl

end Sys2Proof.Machine
end

