-- ==== Sys2Proof/Laws/FormBase.lean ====
section
/-!
SUPPORT. Sys2Proof/Laws/FormBase.lean: the canonical form of memory is kept by the operations over state, memory and registers, by an access at its home, and by issuing an instruction.
-/
namespace Sys2Proof.Machine

/-! A lemma `<name>_ok` says of the definition `<name>` that it keeps `MemoryOk`; of a result that carries no state it says nothing. -/

theorem MemoryOk.upd {s : State} (h : MemoryOk s) {agenda issuing lastPort nextId nextUid free package cycle agents clusters clocks poison tags rels lines plru invals
    fabric reqs prods markers kernels groups csets lists appends queues trigs beats ctxs ctxGone bases dies links changes host denied msi quotes} :
    MemoryOk (State.mk agenda issuing lastPort nextId nextUid free package cycle agents clusters clocks s.mem s.sram poison tags rels lines plru invals
      fabric reqs prods markers kernels groups csets lists appends queues trigs beats ctxs ctxGone bases dies links changes host denied msi quotes) := h

theorem MemoryOk.foldl {α : Type} {f : State → α → State} (hf : ∀ s x, MemoryOk s → MemoryOk (f s x)) :
    ∀ (l : List α) {s : State}, MemoryOk s → MemoryOk (l.foldl f s)
  | [], _, h => h
  | x :: l, _, h => MemoryOk.foldl hf l (hf _ x h)

/-- The state that an outcome of an instruction leaves has its memories in canonical form. -/
def Go.Ok : Go → Prop
  | .next s => MemoryOk s | .jump s _ => MemoryOk s | .wait s _ => MemoryOk s | .freeze s _ _ => MemoryOk s | .ended s => MemoryOk s
/-- The same of an access performed. -/
def Res.Ok : Res → Prop | .race s => MemoryOk s | .done s _ _ _ => MemoryOk s | _ => True
/-- The same of an access to a range. -/
def Bulk.Ok : Bulk → Prop | .done s _ _ _ => MemoryOk s | _ => True
/-- The same of a chunk of a stack engine. -/
def Chunk.Ok : Chunk → Prop | .done s _ _ _ => MemoryOk s | _ => True
/-- The same of a translation. -/
def Loc.Ok : Loc → Prop | .at_ _ _ _ s => MemoryOk s | _ => True
/-- The same of an early outcome or a state to go on with. -/
def Sum.Ok {α : Type} : Go ⊕ (State × α) → Prop | .inl g => g.Ok | .inr (s, _) => MemoryOk s

/-! ### Sys2Proof/Machine/Ops.lean -/

theorem putAgent_ok (s : State) (k : Nat) (a : Agent) (h : MemoryOk s) : MemoryOk (putAgent s k a) := by
  unfold putAgent
  grind [MemoryOk.upd, MemoryOk.foldl]
theorem modAgent_ok (s : State) (k : Nat) (f : Agent → Agent) (h : MemoryOk s) : MemoryOk (modAgent s k f) := by
  unfold modAgent
  grind [MemoryOk.upd, MemoryOk.foldl, putAgent_ok]
theorem putCluster_ok (s : State) (c : Nat) (x : Cluster) (h : MemoryOk s) : MemoryOk (putCluster s c x) := by
  unfold putCluster
  grind [MemoryOk.upd, MemoryOk.foldl]
theorem putEngine_ok (s : State) (c : Nat) (e : Engine) (h : MemoryOk s) : MemoryOk (putEngine s c e) := by
  unfold putEngine
  grind [MemoryOk.upd, MemoryOk.foldl, putCluster_ok]
theorem putBase_ok (s : State) (b : Nat) (x : Base) (h : MemoryOk s) : MemoryOk (putBase s b x) := by
  unfold putBase
  grind [MemoryOk.upd, MemoryOk.foldl]
theorem putDie_ok (s : State) (d : Nat) (x : Die) (h : MemoryOk s) : MemoryOk (putDie s d x) := by
  unfold putDie
  grind [MemoryOk.upd, MemoryOk.foldl]
theorem putCtx_ok (s : State) (a : Nat) (c : Ctx) (h : MemoryOk s) : MemoryOk (putCtx s a c) := by
  unfold putCtx
  grind [MemoryOk.upd, MemoryOk.foldl]
theorem modCtx_ok (s : State) (a : Nat) (f : Ctx → Ctx) (h : MemoryOk s) : MemoryOk (modCtx s a f) := by
  unfold modCtx
  grind [MemoryOk.upd, MemoryOk.foldl, putCtx_ok]
theorem putGroup_ok (s : State) (g : Nat) (x : Group) (h : MemoryOk s) : MemoryOk (putGroup s g x) := by
  unfold putGroup
  grind [MemoryOk.upd, MemoryOk.foldl]
theorem putKernel_ok (s : State) (k : Nat) (x : Kernel) (h : MemoryOk s) : MemoryOk (putKernel s k x) := by
  unfold putKernel
  grind [MemoryOk.upd, MemoryOk.foldl]
theorem putCSet_ok (s : State) (c : Nat) (x : CSet) (h : MemoryOk s) : MemoryOk (putCSet s c x) := by
  unfold putCSet
  grind [MemoryOk.upd, MemoryOk.foldl]
theorem putQueue_ok (s : State) (q : Nat) (x : Queue) (h : MemoryOk s) : MemoryOk (putQueue s q x) := by
  unfold putQueue
  grind [MemoryOk.upd, MemoryOk.foldl]
theorem endRegion_ok (s : State) (k : Nat) (h : MemoryOk s) : MemoryOk (endRegion s k) := by
  unfold endRegion
  grind [MemoryOk.upd, MemoryOk.foldl, modAgent_ok]
theorem acquire_ok (s : State) (k : Nat) (c : Clock) (h : MemoryOk s) : MemoryOk (acquire s k c) := by
  unfold acquire
  grind [MemoryOk.upd, MemoryOk.foldl, modAgent_ok]
theorem queueRec_ok (s : State) (r : Rec) (h : MemoryOk s) : MemoryOk (queueRec s r) := by
  unfold queueRec
  grind [MemoryOk.upd, MemoryOk.foldl, modCtx_ok]
theorem updateCaps_ok (s : State) (p : Rec → Bool) (f : Cap → Cap) (h : MemoryOk s) : MemoryOk (updateCaps s p f) := by
  unfold updateCaps
  grind [MemoryOk.upd, MemoryOk.foldl]
theorem freeze_ok (s : State) (k : Nat) (code : FCode) (i : FInfo) (h : MemoryOk s) : MemoryOk (freeze s k code i) := by
  unfold freeze
  grind [MemoryOk.upd, MemoryOk.foldl, putAgent_ok, putDie_ok, endRegion_ok, queueRec_ok, updateCaps_ok]
theorem modSaved_ok (s : State) (uid : Nat) (f : Agent → Agent) (h : MemoryOk s) : ∀ t, modSaved s uid f = some t → MemoryOk t := by
  intro t e
  unfold modSaved at e
  grind [MemoryOk.upd, MemoryOk.foldl]
theorem storeFault_ok (s : State) (key uid asid : Nat) (code : FCode) (pc addr : DWord) (entry kernel : Nat) (h : MemoryOk s) :
    MemoryOk (storeFault s key uid asid code pc addr entry kernel) := by
  unfold storeFault
  have d : MemoryOk (storeFault.dead s key asid code pc addr entry kernel) := queueRec_ok _ _ h
  split
  · split
    · exact d
    · exact putAgent_ok _ _ _ h
  · split
    · rename_i e; exact modSaved_ok _ _ _ h _ e
    · exact d
theorem freezeAt_ok (s : State) (k : Nat) (code : FCode) (addr : DWord) (h : MemoryOk s) : MemoryOk (freezeAt s k code addr) := by
  unfold freezeAt
  grind [MemoryOk.upd, MemoryOk.foldl, freeze_ok]
theorem freshId_ok (s : State) (h : MemoryOk s) : MemoryOk (freshId s).2 := by
  unfold freshId
  grind [MemoryOk.upd, MemoryOk.foldl]
theorem freshUid_ok (s : State) (h : MemoryOk s) : MemoryOk (freshUid s).2 := by
  unfold freshUid
  grind [MemoryOk.upd, MemoryOk.foldl]
theorem deliverTo_ok (s : State) (issuer : Option (Nat × Nat)) (d : Delivery) (h : MemoryOk s) : MemoryOk (deliverTo s issuer d) := by
  unfold deliverTo
  split
  · exact h
  · split
    · grind [putAgent_ok]
    · rename_i k uid _ _
      cases e : modSaved s uid fun t => { t with pending := t.pending ++ [d] } with
      | none => simpa [e] using h
      | some t => simpa [e] using modSaved_ok _ _ _ h _ e

/-! ### Sys2Proof/Machine/Home.lean -/

theorem useLeaf_ok (s : State) (asid : Nat) (ad : Addr) (e ea size : Nat) (write : Bool) (h : MemoryOk s) : MemoryOk (useLeaf s asid ad e ea size write).2 := by
  unfold useLeaf
  refine putBase_ok _ _ _ ?_
  exact iteInduction (motive := MemoryOk) (fun _ => h) fun _ => ⟨Memory.wf_writeN h.1 _ _ _, h.2⟩
theorem locate_ok (s : State) (p : Place) (asid va : Nat) (need : Need) (n : Nat) (h : MemoryOk s) : Loc.Ok (locate s p asid va need n) := by
  unfold locate
  split
  · trivial
  · refine iteInduction (fun _ => trivial) fun _ => ?_
    split
    · trivial
    · exact iteInduction (fun _ => trivial) fun _ => trivial
    · refine iteInduction (fun _ => trivial) fun _ => ?_
      iterate 4 (refine iteInduction (fun _ => trivial) fun _ => ?_)
      exact useLeaf_ok _ _ _ _ _ _ _ h
theorem deviceUse_ok (s : State) (asid : Nat) (va : Nat) (write : Bool) (h : MemoryOk s) : MemoryOk (deviceUse s asid va write) := by
  unfold deviceUse
  grind [MemoryOk.upd, MemoryOk.foldl, useLeaf_ok]
theorem unpoison_ok (s : State) (pa : Nat) (n : Nat) (h : MemoryOk s) : MemoryOk (unpoison s pa n) := by
  unfold unpoison
  grind [MemoryOk.upd, MemoryOk.foldl]
theorem writePhys_ok (s : State) (p : Place) (pa v n : Nat) (h : MemoryOk s) : MemoryOk (writePhys s p pa v n) := by
  unfold writePhys
  split
  · exact h
  · exact unpoison_ok _ _ _ ⟨Memory.wf_writeN h.1 _ _ _, h.2⟩
theorem noteOrder_ok (s : State) (w : Who) (h : MemoryOk s) : MemoryOk (noteOrder s w) := by
  unfold noteOrder
  grind [MemoryOk.upd, MemoryOk.foldl, putAgent_ok]
theorem boundary_ok (s : State) (uid : Nat) (h : MemoryOk s) : MemoryOk (boundary s uid) := by
  unfold boundary
  grind [MemoryOk.upd, MemoryOk.foldl, endRegion_ok]
theorem tagRoom_ok (s : State) (word : Nat) (h : MemoryOk s) : MemoryOk (tagRoom s word) := by
  unfold tagRoom
  grind [MemoryOk.upd, MemoryOk.foldl, boundary_ok]
theorem addTag_ok (s : State) (word : Nat) (t : Tag) (clean : Bool) (h : MemoryOk s) : MemoryOk (addTag s word t clean) := by
  unfold addTag
  grind [MemoryOk.upd, MemoryOk.foldl, tagRoom_ok]
theorem judge_ok (s : State) (w : Who) (write : Bool) (atomic : Bool) (ws : List Nat) (addr : DWord) (h : MemoryOk s) : ∀ t b, judge s w write atomic ws addr = some (t, b) → MemoryOk t := by
  intro t b e
  unfold judge at e
  grind [MemoryOk.upd, MemoryOk.foldl, storeFault_ok, noteOrder_ok, addTag_ok]
theorem acquireFrom_ok (s : State) (uid : Nat) (r : Nat) (c : Clock) (h : MemoryOk s) : MemoryOk (acquireFrom s uid r c) := by
  unfold acquireFrom
  grind [MemoryOk.upd, MemoryOk.foldl]
theorem observe_ok (s : State) (w : Who) (ws : List Nat) (order : Nat) (scope : Nat) (seq : Nat) (h : MemoryOk s) : MemoryOk (observe s w ws order scope seq) := by
  unfold observe
  grind [MemoryOk.upd, MemoryOk.foldl, modAgent_ok, acquireFrom_ok]
theorem publish_ok (s : State) (ws : List Nat) (rels : List Rel) (rmw : Bool) (h : MemoryOk s) : MemoryOk (publish s ws rels rmw) := by
  unfold publish
  grind [MemoryOk.upd, MemoryOk.foldl]
theorem dropLines_ok (s : State) (p : Line → Bool) (h : MemoryOk s) : MemoryOk (dropLines s p) := by
  unfold dropLines
  grind [MemoryOk.upd, MemoryOk.foldl]
theorem l1Fill_ok (s : State) (core : Nat) (here : Line → Bool) (h : MemoryOk s) : MemoryOk (l1Fill s core here) := by
  unfold l1Fill
  grind [MemoryOk.upd, MemoryOk.foldl]
theorem dropL1_ok (s : State) (cl : Nat) (base : Nat) (size : Nat) (h : MemoryOk s) : MemoryOk (dropL1 s cl base size) := by
  unfold dropL1
  grind [MemoryOk.upd, MemoryOk.foldl]
theorem writeBack_ok (s : State) (p : Place) (pa : Nat) (h : MemoryOk s) : MemoryOk (writeBack s p pa) := by
  unfold writeBack
  grind [MemoryOk.upd, MemoryOk.foldl]
theorem useLine_ok (s : State) (p : Place) (asid : Nat) (va : Nat) (pa : Nat) (home : Nat) (leaf : Nat) (hint : Nat) (write : Bool) (h : MemoryOk s) : MemoryOk (useLine s p asid va pa home leaf hint write) := by
  unfold useLine
  grind [MemoryOk.upd, MemoryOk.foldl, dropLines_ok, l1Fill_ok]
theorem Res.undo_ok (s : State) (r : Res) (h : MemoryOk s) (hr : Res.Ok r) : Res.Ok (r.undo s) := by
  cases r <;> first | exact h | exact hr
theorem performOn_ok (s : State) (w : Who) (a : Access) (seq : Nat) (ws : List Nat) (checked : Bool) (old : Nat) (put : State → Nat → State) (h : MemoryOk s) (h1 : ∀ s n, MemoryOk s → MemoryOk (put s n)) : Res.Ok (performOn s w a seq ws checked old put) := by
  unfold performOn
  grind [MemoryOk.upd, MemoryOk.foldl, Res.Ok, judge_ok, observe_ok, publish_ok]
theorem performHome_ok (s : State) (w : Who) (a : Access) (seq : Nat) (pa : Nat) (h : MemoryOk s) : Res.Ok (performHome s w a seq pa) := by
  unfold performHome
  grind [MemoryOk.upd, MemoryOk.foldl, Res.Ok, writePhys_ok, writeBack_ok, performOn_ok]
theorem fillFrom_ok (s : State) (w : Who) (a : Access) (pa : Nat) (home : Nat) (leaf : Nat) (h : MemoryOk s) : MemoryOk (fillFrom s w a pa home leaf) := by
  unfold fillFrom
  grind [MemoryOk.upd, MemoryOk.foldl, useLine_ok]
theorem performPhys_ok (s : State) (w : Who) (a : Access) (seq : Nat) (pa : Nat) (home : Nat) (leaf : Nat) (h : MemoryOk s) : Res.Ok (performPhys s w a seq pa home leaf) := by
  unfold performPhys
  grind [MemoryOk.upd, MemoryOk.foldl, Res.Ok, performHome_ok, fillFrom_ok]
theorem performGlobal_ok (s : State) (w : Who) (a : Access) (seq : Nat) (h : MemoryOk s) : Res.Ok (performGlobal s w a seq) := by
  unfold performGlobal
  have l := locate_ok s w.place w.tasid a.addr.toNat a.need a.bytes h
  split
  all_goals first | trivial | (rename_i e; rw [e] at l; exact Res.undo_ok _ _ h (performPhys_ok _ _ _ _ _ _ _ l))
theorem performScratch_ok (s : State) (w : Who) (a : Access) (seq : Nat) (h : MemoryOk s) : Res.Ok (performScratch s w a seq) := by
  unfold performScratch
  exact performOn_ok _ _ _ _ _ _ _ _ h fun s n h => ⟨h.1, Memory.wf_writeLocs h.2 _ _⟩
theorem logWrite_ok (s : State) (h : Nat) (w : Who) (a : Access) (hs : MemoryOk s) : ∀ t, logWrite s h w a = some t → MemoryOk t := by
  intro t e
  unfold logWrite at e
  grind [putBase_ok]
theorem invalidateFor_ok (s : State) (pa : Nat) (but : Option Nat) (h : MemoryOk s) : MemoryOk (invalidateFor s pa but) := by
  unfold invalidateFor
  grind [MemoryOk.upd, MemoryOk.foldl, dropLines_ok]
theorem deviceLog_ok (s : State) (asid home va n v : Nat) (h : MemoryOk s) : MemoryOk (deviceLog s asid home va n v) := by
  unfold deviceLog
  generalize pieces va 16 (n / 16 + 2) n = l
  induction l generalizing s v with
  | nil => exact h
  | cons p l ih => exact ih _ _ (putBase_ok _ _ _ h)
theorem deviceWrite_ok (s : State) (asid va n v : Nat) (h : MemoryOk s) : MemoryOk (deviceWrite s asid va n v) := by
  unfold deviceWrite
  split
  · split
    · exact h
    · have u := deviceUse_ok s asid va true h
      exact invalidateFor_ok _ _ _ (unpoison_ok _ _ _ ⟨Memory.wf_writeN u.1 _ _ _, u.2⟩)
  · exact deviceLog_ok _ _ _ _ _ _ h
  · exact h
theorem deviceFetch_ok (s : State) (asid va n : Nat) (h : MemoryOk s) : ∀ x t, deviceFetch s asid va n = some (x, t) → MemoryOk t := by
  intro x t e
  unfold deviceFetch at e
  obtain ⟨_, _, e⟩ := Option.map_eq_some_iff.mp e
  cases e; exact deviceUse_ok _ _ _ _ h

/-! ### Sys2Proof/Machine/Fabric.lean -/

theorem send_ok (s : State) (q : Packet) (h : MemoryOk s) : MemoryOk (send s q) := by
  unfold send
  grind [MemoryOk.upd, MemoryOk.foldl]
theorem forward_ok (s : State) (p : Packet) (h : MemoryOk s) : ∀ t, forward s p = some t → MemoryOk t := by
  intro t e
  unfold forward at e
  split at e
  · split at e
    · obtain ⟨_, _, rfl⟩ := Option.map_eq_some_iff.mp e
      exact h
    · cases e
  · cases e
theorem forwardD_ok (s : State) (p : Packet) (h : MemoryOk s) : MemoryOk ((forward s p).getD s) := by
  cases e : forward s p with
  | none => exact h
  | some t => exact forward_ok _ _ h _ e
theorem takeOff_ok (s : State) (p : Packet) (id : Nat) (h : MemoryOk s) : MemoryOk (takeOff s p id) := by
  unfold takeOff
  grind [MemoryOk.upd, MemoryOk.foldl]
theorem keepHere_ok (s : State) (p : Packet) (id : Nat) (h : MemoryOk s) : MemoryOk (keepHere s p id) := by
  unfold keepHere
  grind [MemoryOk.upd, MemoryOk.foldl]
theorem dropMail_ok (s : State) (gone : Nat → Nat → Bool) (h : MemoryOk s) : MemoryOk (dropMail s gone) := by
  unfold dropMail
  grind [MemoryOk.upd, MemoryOk.foldl]
theorem nearer_ok (s : State) (p : Packet) (id : Nat) (f : State → State) (h : MemoryOk s) (hf : ∀ s, MemoryOk s → MemoryOk (f s)) :
    MemoryOk (nearer s p id f) := by
  unfold nearer
  exact iteInduction (fun _ => iteInduction (fun _ => hf _ (takeOff_ok _ _ _ h)) fun _ => h) fun _ => forwardD_ok _ _ h
theorem travel_ok (s : State) (kind : Nat) (id : Nat) (msg : Packet) (f : State → State) (h : MemoryOk s) (h1 : ∀ s, MemoryOk s → MemoryOk (f s)) : MemoryOk (travel s kind id msg f) := by
  unfold travel
  grind [MemoryOk.upd, MemoryOk.foldl, send_ok, nearer_ok]
theorem reinject_ok (s : State) (out : Nat → Bool) (dest : Packet → Packet) (h : MemoryOk s) : MemoryOk (reinject s out dest) := by
  unfold reinject
  grind [MemoryOk.upd, MemoryOk.foldl]
theorem Bulk.foldl_ok {α : Type} {f : Bulk → α → Bulk} (hf : ∀ b x, Bulk.Ok b → Bulk.Ok (f b x)) : ∀ (l : List α) {b : Bulk}, Bulk.Ok b → Bulk.Ok (l.foldl f b)
  | [], _, h => h
  | x :: l, _, h => Bulk.foldl_ok hf l (hf _ x h)
theorem rangeCheck_ok (s : State) (w : Who) (need : Need) : ∀ l b, rangeCheck s w need l = some b → Bulk.Ok b := by
  intro l
  induction l with
  | nil => simp [rangeCheck]
  | cons x l ih => intro b e; unfold rangeCheck at e; grind [Bulk.Ok]
theorem readRange_ok (s : State) (w : Who) (va n : Nat) (h : MemoryOk s) : Bulk.Ok (readRange s w va n) := by
  unfold readRange
  dsimp only
  split
  · rename_i e; exact rangeCheck_ok _ _ _ _ _ e
  · refine Bulk.foldl_ok ?_ _ h
    intro b x hb
    split
    · rename_i s _ _ _
      have l := performGlobal_ok s w (plainLoad x.1 x.2 w.pc) 0 hb
      split <;> first | trivial | (rename_i e; rw [e] at l; exact l)
    · exact hb
theorem writeRange_ok (s : State) (w : Who) (va : Nat) (data : List Byte) (h : MemoryOk s) : Bulk.Ok (writeRange s w va data) := by
  unfold writeRange
  dsimp only
  split
  · rename_i e; exact rangeCheck_ok _ _ _ _ _ e
  · suffices g : ∀ (f : Bulk × List Byte → Nat × Nat → Bulk × List Byte) (_ : ∀ b x, Bulk.Ok b.1 → Bulk.Ok (f b x).1) (l : List (Nat × Nat)) (b : Bulk × List Byte),
        Bulk.Ok b.1 → Bulk.Ok (l.foldl f b).1 by
      refine g _ ?_ _ _ h
      intro b x hb
      split
      · rename_i s d po r rest
        have l := locate_ok s w.place w.tasid x.1 .store x.2 hb
        split <;> try trivial
        rename_i pa home leaf t e
        rw [e] at l
        have l := performPhys_ok _ w (plainStore x.1 x.2 (ofBytes (rest.take x.2)) w.pc) 0 pa home leaf (invalidateFor_ok t pa w.place.die l)
        split <;> first | trivial | (rename_i e; rw [e] at l; exact l)
      · exact hb
    intro f hf l
    induction l with
    | nil => exact fun b hb => hb
    | cons x l ih => exact fun b hb => ih _ (hf b x hb)
theorem poisonLeaf_ok (s : State) (asid home set e ea size : Nat) (h : MemoryOk s) : MemoryOk (poisonLeaf s asid home set e ea size) := by
  unfold poisonLeaf
  exact iteInduction (fun _ => h) fun _ => ⟨Memory.wf_writeN h.1 _ _ _, h.2⟩
theorem poisonPageOf_ok (s : State) (asid : Nat) (va : Nat) (h : MemoryOk s) : MemoryOk (poisonPageOf s asid va) := by
  unfold poisonPageOf
  grind [MemoryOk.upd, MemoryOk.foldl, poisonLeaf_ok]
theorem poisonPhys_ok (s : State) (pa : Nat) (h : MemoryOk s) : MemoryOk (poisonPhys s pa) := by
  unfold poisonPhys
  grind [MemoryOk.upd, MemoryOk.foldl, poisonLeaf_ok]
theorem poisonRange_ok (s : State) (asid va n : Nat) (h : MemoryOk s) : MemoryOk (poisonRange s asid va n) := by
  unfold poisonRange
  refine MemoryOk.foldl (fun s x h => ?_) _ h
  split
  · exact poisonPageOf_ok _ _ _ h
  · exact h
theorem poisonLines_ok (s : State) (asid : Nat) (va : Nat) (offs : List Nat) (h : MemoryOk s) : MemoryOk (poisonLines s asid va offs) := by
  unfold poisonLines
  grind [MemoryOk.upd, MemoryOk.foldl, poisonRange_ok]

/-! ### Sys2Proof/Machine/Operands.lean -/

theorem fetchWord_ok {s t : State} {p : Place} {asid va w : Nat} (h : MemoryOk s) (e : fetchWord s p asid va = .word w t) : MemoryOk t := by
  have l := locate_ok s p asid va .fetch 4 h
  unfold fetchWord at e
  split at e <;> grind [Loc.Ok]
theorem fetchMore_ok {p : Place} {asid : Nat} : ∀ (n : Nat) {s t : State} {va : Nat} {acc l : List Word}, MemoryOk s → fetchMore s p asid va acc n = .words l t → MemoryOk t
  | 0, s, t, va, acc, l, h, e => by cases e; exact h
  | n + 1, s, t, va, acc, l, h, e => by
    unfold fetchMore at e
    split at e <;> try contradiction
    rename_i g
    exact fetchMore_ok n (fetchWord_ok h g) e
theorem fetchInstr_ok {s t : State} {p : Place} {asid va : Nat} {l : List Word} (h : MemoryOk s) (e : fetchInstr s p asid va = .words l t) : MemoryOk t := by
  unfold fetchInstr at e
  split at e <;> try contradiction
  rename_i g
  exact fetchMore_ok _ (fetchWord_ok h g) e
theorem blockCheck_ok (p : Place) (asid : Nat) : ∀ (fuel : Nat) (s : State) (va n : Nat), MemoryOk s → MemoryOk (blockCheck p asid fuel s va n).2
  | 0, s, va, n, h => h
  | fuel + 1, s, va, n, h => by
    unfold blockCheck
    refine iteInduction (motive := fun x : BlockCheck × State => MemoryOk x.2) (fun _ => h) fun _ => ?_
    split
    · rename_i e
      exact iteInduction (motive := fun x : BlockCheck × State => MemoryOk x.2) (fun _ => fetchWord_ok h e) fun _ => blockCheck_ok p asid fuel _ _ _ (fetchWord_ok h e)
    · exact h
theorem enterBlock_ok (s : State) (k : Nat) (h : MemoryOk s) : MemoryOk (enterBlock s k) := by
  unfold enterBlock
  split
  · exact h
  · extract_lets p va
    split
    · exact freeze_ok _ _ _ _ h
    · exact freeze_ok _ _ _ _ h
    · exact h
    · rename_i t e
      have ht := fetchMore_ok _ h e
      extract_lets w0 w1 len a' t'
      refine iteInduction (fun _ => ?_) fun _ => ?_
      · split
        · exact freeze_ok _ _ _ _ (putAgent_ok _ _ _ ht)
        · exact freeze_ok _ _ _ _ ht
        · exact freeze_ok _ _ _ _ ht
      · refine iteInduction (fun _ => putAgent_ok _ _ _ ht) fun _ => ?_
        generalize hb : blockCheck _ _ _ _ _ _ = x
        have hk : MemoryOk x.2 := hb ▸ blockCheck_ok _ _ _ _ _ _ (putAgent_ok _ _ _ ht)
        refine iteInduction (fun _ => freeze_ok _ _ _ _ hk) fun _ => ?_
        refine iteInduction (fun _ => freeze_ok _ _ _ _ hk) fun _ => ?_
        exact putAgent_ok _ _ _ hk
theorem recheckBlock_ok (s : State) (k : Nat) (h : MemoryOk s) : MemoryOk (recheckBlock s k) := by
  unfold recheckBlock
  split
  · exact h
  · split
    · exact h
    · extract_lets len
      generalize hb : blockCheck _ _ _ _ _ _ = x
      have c : MemoryOk x.2 := hb ▸ blockCheck_ok _ _ _ _ _ _ h
      split
      · exact putAgent_ok _ _ _ c
      · exact freeze_ok _ _ _ _ (putAgent_ok _ _ _ c)
      · exact c
theorem stepDone_ok (s : State) (k : Nat) (h : MemoryOk s) : MemoryOk (stepDone s k) := by
  unfold stepDone
  grind [MemoryOk.upd, MemoryOk.foldl, putAgent_ok, endRegion_ok, queueRec_ok, updateCaps_ok]
theorem countIssue_ok (s : State) (a : Agent) (h : MemoryOk s) : MemoryOk (countIssue s a) := by
  unfold countIssue
  grind [MemoryOk.upd, MemoryOk.foldl, putGroup_ok]
theorem chargeBudget_ok (s : State) (k : Nat) (held : List Nat) (h : MemoryOk s) : MemoryOk (chargeBudget s k held) := by
  unfold chargeBudget
  grind [MemoryOk.upd, MemoryOk.foldl, modAgent_ok]
theorem settle_ok (k : Nat) (a : Agent) (len : Nat) (g : Go) (h : Go.Ok g) : MemoryOk (settle k a len g) := by
  have key : ∀ s, MemoryOk s → MemoryOk (if (a.caps.filterMap fun (n, c) => if c.valid then some n else none).isEmpty then countIssue s a else
      chargeBudget (countIssue s a) k (a.caps.filterMap fun (n, c) => if c.valid then some n else none)) := fun s h =>
    iteInduction (motive := MemoryOk) (fun _ => countIssue_ok s a h) fun _ => chargeBudget_ok _ k _ (countIssue_ok s a h)
  unfold settle
  cases g with
  | next s => exact stepDone_ok _ _ (key _ (modAgent_ok _ _ _ h))
  | jump s t => exact stepDone_ok _ _ (key _ (modAgent_ok _ _ _ h))
  | wait s w => exact modAgent_ok _ _ _ h
  | freeze s c i => exact freeze_ok _ _ _ _ (modAgent_ok _ _ _ (iteInduction (motive := MemoryOk) (fun _ => countIssue_ok _ _ h) fun _ => h))
  | ended s => exact key _ h
theorem issueOne_ok (o : Op) (f : FormL) (len : Nat) (body : Ctx' → Go) (hb : ∀ c, MemoryOk c.s → Go.Ok (body c)) (s : State) (k : Nat) (h : MemoryOk s) :
    MemoryOk (issueOne o f len body s k) := by
  unfold issueOne
  split
  · exact h
  · extract_lets core sh
    refine iteInduction (fun _ => freeze_ok _ _ _ _ h) fun _ => ?_
    refine iteInduction (fun _ => freeze_ok _ _ _ _ h) fun _ => ?_
    refine iteInduction (fun _ => settle_ok _ _ _ _ h) fun _ => ?_
    refine iteInduction (fun _ => freeze_ok _ _ _ _ h) fun _ => ?_
    refine iteInduction (fun _ => stepDone_ok _ _ (putAgent_ok _ _ _ h)) fun _ => ?_
    split
    · exact freeze_ok _ _ _ _ (putAgent_ok _ _ _ h)
    · split
      · exact settle_ok _ _ _ _ h
      · exact freeze_ok _ _ _ _ h
      · dsimp only
        split
        · exact freeze_ok _ _ _ _ h
        · exact settle_ok _ _ _ _ (hb _ h)
theorem issueL_ok {o : Op} {f : FormL} {body : Ctx' → Go} (hb : ∀ c, MemoryOk c.s → Go.Ok (body c)) {s t : State} (h : MemoryOk s)
    (e : issueL o f body s = .next t) : MemoryOk t := by
  cases e
  exact MemoryOk.foldl (fun s k h => issueOne_ok _ _ _ _ hb s k h) _ h
theorem issueS_ok {o : Op} {f : FormS} {body : Ctx' → Go} (hb : ∀ c, MemoryOk c.s → Go.Ok (body c)) {s t : State} (h : MemoryOk s)
    (e : issueS o f body s = .next t) : MemoryOk t := by
  cases e
  exact MemoryOk.foldl (fun s k h => issueOne_ok _ _ _ _ hb s k h) _ h
theorem Ctx'.upd_ok (c : Ctx') (g : Agent → Agent) (h : MemoryOk c.s) : MemoryOk (Ctx'.upd c g) := by
  unfold Ctx'.upd
  grind [MemoryOk.upd, MemoryOk.foldl, putAgent_ok]
theorem Ctx'.put_ok (c : Ctx') (t : Nat) (x : Nat) (h : MemoryOk c.s) : MemoryOk (Ctx'.put c t x) := by
  unfold Ctx'.put
  grind [MemoryOk.upd, MemoryOk.foldl, Ctx'.upd_ok]
theorem produce_ok (s : State) (k : Nat) (a : Agent) (d : Dst) (x : Nat) (fl : BitVec 5) (poison : Bool) (h : MemoryOk s) : MemoryOk (produce s k a d x fl poison) := by
  unfold produce
  grind [MemoryOk.upd, MemoryOk.foldl, putAgent_ok, freshId_ok]

end Sys2Proof.Machine
end

