-- ==== Sys2Proof/Laws/FormInstr.lean ====
section
/-!
SUPPORT. Sys2Proof/Laws/FormInstr.lean: the canonical form of memory is kept by every integer, float, conversion, special and control instruction, and by MBAR objects.
-/
namespace Sys2Proof.Machine

/-! ### Sys2Proof/Machine/Integer.lean -/

theorem intResult_ok (x : Ctx' → Int) (c : Ctx') (h : MemoryOk c.s) : Go.Ok (intResult x c) := by
  unfold intResult
  grind [MemoryOk.upd, MemoryOk.foldl, Go.Ok, Ctx'.put_ok]
theorem bitResult_ok (x : Ctx' → Nat) (c : Ctx') (h : MemoryOk c.s) : Go.Ok (bitResult x c) := by
  unfold bitResult
  grind [MemoryOk.upd, MemoryOk.foldl, Go.Ok, Ctx'.put_ok]
theorem bodyNop_ok (c : Ctx') (h : MemoryOk c.s) : Go.Ok (bodyNop c) := by
  unfold bodyNop
  grind [MemoryOk.upd, MemoryOk.foldl, Go.Ok]
theorem bodyMov_ok  (c : Ctx') (hc : MemoryOk c.s) : Go.Ok (bodyMov c) := by
  unfold bodyMov
  grind [MemoryOk.upd, MemoryOk.foldl, Go.Ok, bitResult_ok]
theorem bodyMovi_ok  (c : Ctx') (hc : MemoryOk c.s) : Go.Ok (bodyMovi c) := by
  unfold bodyMovi
  grind [MemoryOk.upd, MemoryOk.foldl, Go.Ok, bitResult_ok]
theorem bodySel_ok  (c : Ctx') (hc : MemoryOk c.s) : Go.Ok (bodySel c) := by
  unfold bodySel
  grind [MemoryOk.upd, MemoryOk.foldl, Go.Ok, bitResult_ok]
theorem bodyIadd_ok  (c : Ctx') (hc : MemoryOk c.s) : Go.Ok (bodyIadd c) := by
  unfold bodyIadd
  grind [MemoryOk.upd, MemoryOk.foldl, Go.Ok, intResult_ok]
theorem bodyIsub_ok  (c : Ctx') (hc : MemoryOk c.s) : Go.Ok (bodyIsub c) := by
  unfold bodyIsub
  grind [MemoryOk.upd, MemoryOk.foldl, Go.Ok, intResult_ok]
theorem bodyIneg_ok  (c : Ctx') (hc : MemoryOk c.s) : Go.Ok (bodyIneg c) := by
  unfold bodyIneg
  grind [MemoryOk.upd, MemoryOk.foldl, Go.Ok, intResult_ok]
theorem bodyImul_ok  (c : Ctx') (hc : MemoryOk c.s) : Go.Ok (bodyImul c) := by
  unfold bodyImul
  grind [MemoryOk.upd, MemoryOk.foldl, Go.Ok, intResult_ok]
theorem bodyImulh_ok  (c : Ctx') (hc : MemoryOk c.s) : Go.Ok (bodyImulh c) := by
  unfold bodyImulh
  grind [MemoryOk.upd, MemoryOk.foldl, Go.Ok, intResult_ok]
theorem bodyImad_ok  (c : Ctx') (hc : MemoryOk c.s) : Go.Ok (bodyImad c) := by
  unfold bodyImad
  grind [MemoryOk.upd, MemoryOk.foldl, Go.Ok, intResult_ok]
theorem bodyImin_ok  (c : Ctx') (hc : MemoryOk c.s) : Go.Ok (bodyImin c) := by
  unfold bodyImin
  grind [MemoryOk.upd, MemoryOk.foldl, Go.Ok, intResult_ok]
theorem bodyImax_ok  (c : Ctx') (hc : MemoryOk c.s) : Go.Ok (bodyImax c) := by
  unfold bodyImax
  grind [MemoryOk.upd, MemoryOk.foldl, Go.Ok, intResult_ok]
theorem bodyIabs_ok  (c : Ctx') (hc : MemoryOk c.s) : Go.Ok (bodyIabs c) := by
  unfold bodyIabs
  grind [MemoryOk.upd, MemoryOk.foldl, Go.Ok, intResult_ok]
theorem bodyAnd_ok  (c : Ctx') (hc : MemoryOk c.s) : Go.Ok (bodyAnd c) := by
  unfold bodyAnd
  grind [MemoryOk.upd, MemoryOk.foldl, Go.Ok, bitResult_ok]
theorem bodyOr_ok  (c : Ctx') (hc : MemoryOk c.s) : Go.Ok (bodyOr c) := by
  unfold bodyOr
  grind [MemoryOk.upd, MemoryOk.foldl, Go.Ok, bitResult_ok]
theorem bodyXor_ok  (c : Ctx') (hc : MemoryOk c.s) : Go.Ok (bodyXor c) := by
  unfold bodyXor
  grind [MemoryOk.upd, MemoryOk.foldl, Go.Ok, bitResult_ok]
theorem bodyAndn_ok  (c : Ctx') (hc : MemoryOk c.s) : Go.Ok (bodyAndn c) := by
  unfold bodyAndn
  grind [MemoryOk.upd, MemoryOk.foldl, Go.Ok, bitResult_ok]
theorem bodyNot_ok  (c : Ctx') (hc : MemoryOk c.s) : Go.Ok (bodyNot c) := by
  unfold bodyNot
  grind [MemoryOk.upd, MemoryOk.foldl, Go.Ok, bitResult_ok]
theorem bodyIaddc_ok (c : Ctx') (h : MemoryOk c.s) : Go.Ok (bodyIaddc c) := by
  unfold bodyIaddc
  grind [MemoryOk.upd, MemoryOk.foldl, Go.Ok, Ctx'.upd_ok]
theorem bodyImadw_ok (c : Ctx') (h : MemoryOk c.s) : Go.Ok (bodyImadw c) := by
  unfold bodyImadw
  grind [MemoryOk.upd, MemoryOk.foldl, Go.Ok, Ctx'.upd_ok]
theorem intProduce_ok (x : Ctx' → Nat) (c : Ctx') (h : MemoryOk c.s) : Go.Ok (intProduce x c) := by
  unfold intProduce
  grind [MemoryOk.upd, MemoryOk.foldl, Go.Ok, produce_ok]
theorem bodyIdiv_ok  (c : Ctx') (hc : MemoryOk c.s) : Go.Ok (bodyIdiv c) := by
  unfold bodyIdiv
  grind [MemoryOk.upd, MemoryOk.foldl, Go.Ok, intProduce_ok]
theorem bodyIrem_ok  (c : Ctx') (hc : MemoryOk c.s) : Go.Ok (bodyIrem c) := by
  unfold bodyIrem
  grind [MemoryOk.upd, MemoryOk.foldl, Go.Ok, intProduce_ok]
theorem bodyShl_ok  (c : Ctx') (hc : MemoryOk c.s) : Go.Ok (bodyShl c) := by
  unfold bodyShl
  grind [MemoryOk.upd, MemoryOk.foldl, Go.Ok, bitResult_ok]
theorem bodyShr_ok  (c : Ctx') (hc : MemoryOk c.s) : Go.Ok (bodyShr c) := by
  unfold bodyShr
  grind [MemoryOk.upd, MemoryOk.foldl, Go.Ok, bitResult_ok]
theorem bodySar_ok  (c : Ctx') (hc : MemoryOk c.s) : Go.Ok (bodySar c) := by
  unfold bodySar
  grind [MemoryOk.upd, MemoryOk.foldl, Go.Ok, bitResult_ok]
theorem bodyRot_ok  (c : Ctx') (hc : MemoryOk c.s) : Go.Ok (bodyRot c) := by
  unfold bodyRot
  grind [MemoryOk.upd, MemoryOk.foldl, Go.Ok, bitResult_ok]
theorem bodyShf_ok  (c : Ctx') (hc : MemoryOk c.s) : Go.Ok (bodyShf c) := by
  unfold bodyShf
  grind [MemoryOk.upd, MemoryOk.foldl, Go.Ok, bitResult_ok]
theorem countResult_ok (x : Ctx' → Nat) (c : Ctx') (h : MemoryOk c.s) : Go.Ok (countResult x c) := by
  unfold countResult
  grind [MemoryOk.upd, MemoryOk.foldl, Go.Ok, Ctx'.put_ok]
theorem bodyPopc_ok  (c : Ctx') (hc : MemoryOk c.s) : Go.Ok (bodyPopc c) := by
  unfold bodyPopc
  grind [MemoryOk.upd, MemoryOk.foldl, Go.Ok, countResult_ok]
theorem bodyClz_ok  (c : Ctx') (hc : MemoryOk c.s) : Go.Ok (bodyClz c) := by
  unfold bodyClz
  grind [MemoryOk.upd, MemoryOk.foldl, Go.Ok, countResult_ok]
theorem bodyCtz_ok  (c : Ctx') (hc : MemoryOk c.s) : Go.Ok (bodyCtz c) := by
  unfold bodyCtz
  grind [MemoryOk.upd, MemoryOk.foldl, Go.Ok, countResult_ok]
theorem bodyBrev_ok  (c : Ctx') (hc : MemoryOk c.s) : Go.Ok (bodyBrev c) := by
  unfold bodyBrev
  grind [MemoryOk.upd, MemoryOk.foldl, Go.Ok, bitResult_ok]
theorem bodyBfe_ok  (c : Ctx') (hc : MemoryOk c.s) : Go.Ok (bodyBfe c) := by
  unfold bodyBfe
  grind [MemoryOk.upd, MemoryOk.foldl, Go.Ok, bitResult_ok]
theorem bodyBfi_ok  (c : Ctx') (hc : MemoryOk c.s) : Go.Ok (bodyBfi c) := by
  unfold bodyBfi
  grind [MemoryOk.upd, MemoryOk.foldl, Go.Ok, bitResult_ok]
theorem bodyPrmt_ok  (c : Ctx') (hc : MemoryOk c.s) : Go.Ok (bodyPrmt c) := by
  unfold bodyPrmt
  grind [MemoryOk.upd, MemoryOk.foldl, Go.Ok, bitResult_ok]
theorem bodyLea_ok (c : Ctx') (h : MemoryOk c.s) : Go.Ok (bodyLea c) := by
  unfold bodyLea
  grind [MemoryOk.upd, MemoryOk.foldl, Go.Ok, Ctx'.put_ok]
theorem bodyIset_ok (c : Ctx') (h : MemoryOk c.s) : Go.Ok (bodyIset c) := by
  unfold bodyIset
  grind [MemoryOk.upd, MemoryOk.foldl, Go.Ok, Ctx'.upd_ok]
theorem bodyIdp4_ok  (c : Ctx') (hc : MemoryOk c.s) : Go.Ok (bodyIdp4 c) := by
  unfold bodyIdp4
  grind [MemoryOk.upd, MemoryOk.foldl, Go.Ok, intResult_ok]
theorem execNopS_ok (f : FormS) (s : State) (h : MemoryOk s) : ∀ t, execNopS f s = .next t → MemoryOk t := by
  exact fun t e => issueS_ok (fun c hc => bodyNop_ok c hc) h e
theorem execNop_ok (f : FormL) (s : State) (h : MemoryOk s) : ∀ t, execNop f s = .next t → MemoryOk t := by
  exact fun t e => issueL_ok (fun c hc => bodyNop_ok c hc) h e
theorem execMovS_ok (f : FormS) (s : State) (h : MemoryOk s) : ∀ t, execMovS f s = .next t → MemoryOk t := by
  exact fun t e => issueS_ok (fun c hc => bodyMov_ok c hc) h e
theorem execMov_ok (f : FormL) (s : State) (h : MemoryOk s) : ∀ t, execMov f s = .next t → MemoryOk t := by
  exact fun t e => issueL_ok (fun c hc => bodyMov_ok c hc) h e
theorem execMovi_ok (f : FormL) (s : State) (h : MemoryOk s) : ∀ t, execMovi f s = .next t → MemoryOk t := by
  exact fun t e => issueL_ok (fun c hc => bodyMovi_ok c hc) h e
theorem execSel_ok (f : FormL) (s : State) (h : MemoryOk s) : ∀ t, execSel f s = .next t → MemoryOk t := by
  exact fun t e => issueL_ok (fun c hc => bodySel_ok c hc) h e
theorem execIaddS_ok (f : FormS) (s : State) (h : MemoryOk s) : ∀ t, execIaddS f s = .next t → MemoryOk t := by
  exact fun t e => issueS_ok (fun c hc => bodyIadd_ok c hc) h e
theorem execIadd_ok (f : FormL) (s : State) (h : MemoryOk s) : ∀ t, execIadd f s = .next t → MemoryOk t := by
  exact fun t e => issueL_ok (fun c hc => bodyIadd_ok c hc) h e
theorem execIsubS_ok (f : FormS) (s : State) (h : MemoryOk s) : ∀ t, execIsubS f s = .next t → MemoryOk t := by
  exact fun t e => issueS_ok (fun c hc => bodyIsub_ok c hc) h e
theorem execIsub_ok (f : FormL) (s : State) (h : MemoryOk s) : ∀ t, execIsub f s = .next t → MemoryOk t := by
  exact fun t e => issueL_ok (fun c hc => bodyIsub_ok c hc) h e
theorem execIaddc_ok (f : FormL) (s : State) (h : MemoryOk s) : ∀ t, execIaddc f s = .next t → MemoryOk t := by
  exact fun t e => issueL_ok (fun c hc => bodyIaddc_ok c hc) h e
theorem execInegS_ok (f : FormS) (s : State) (h : MemoryOk s) : ∀ t, execInegS f s = .next t → MemoryOk t := by
  exact fun t e => issueS_ok (fun c hc => bodyIneg_ok c hc) h e
theorem execIneg_ok (f : FormL) (s : State) (h : MemoryOk s) : ∀ t, execIneg f s = .next t → MemoryOk t := by
  exact fun t e => issueL_ok (fun c hc => bodyIneg_ok c hc) h e
theorem execImulS_ok (f : FormS) (s : State) (h : MemoryOk s) : ∀ t, execImulS f s = .next t → MemoryOk t := by
  exact fun t e => issueS_ok (fun c hc => bodyImul_ok c hc) h e
theorem execImul_ok (f : FormL) (s : State) (h : MemoryOk s) : ∀ t, execImul f s = .next t → MemoryOk t := by
  exact fun t e => issueL_ok (fun c hc => bodyImul_ok c hc) h e
theorem execImulhS_ok (f : FormS) (s : State) (h : MemoryOk s) : ∀ t, execImulhS f s = .next t → MemoryOk t := by
  exact fun t e => issueS_ok (fun c hc => bodyImulh_ok c hc) h e
theorem execImulh_ok (f : FormL) (s : State) (h : MemoryOk s) : ∀ t, execImulh f s = .next t → MemoryOk t := by
  exact fun t e => issueL_ok (fun c hc => bodyImulh_ok c hc) h e
theorem execImadS_ok (f : FormS) (s : State) (h : MemoryOk s) : ∀ t, execImadS f s = .next t → MemoryOk t := by
  exact fun t e => issueS_ok (fun c hc => bodyImad_ok c hc) h e
theorem execImad_ok (f : FormL) (s : State) (h : MemoryOk s) : ∀ t, execImad f s = .next t → MemoryOk t := by
  exact fun t e => issueL_ok (fun c hc => bodyImad_ok c hc) h e
theorem execImadw_ok (f : FormL) (s : State) (h : MemoryOk s) : ∀ t, execImadw f s = .next t → MemoryOk t := by
  exact fun t e => issueL_ok (fun c hc => bodyImadw_ok c hc) h e
theorem execIdiv_ok (f : FormL) (s : State) (h : MemoryOk s) : ∀ t, execIdiv f s = .next t → MemoryOk t := by
  exact fun t e => issueL_ok (fun c hc => bodyIdiv_ok c hc) h e
theorem execIrem_ok (f : FormL) (s : State) (h : MemoryOk s) : ∀ t, execIrem f s = .next t → MemoryOk t := by
  exact fun t e => issueL_ok (fun c hc => bodyIrem_ok c hc) h e
theorem execIminS_ok (f : FormS) (s : State) (h : MemoryOk s) : ∀ t, execIminS f s = .next t → MemoryOk t := by
  exact fun t e => issueS_ok (fun c hc => bodyImin_ok c hc) h e
theorem execImin_ok (f : FormL) (s : State) (h : MemoryOk s) : ∀ t, execImin f s = .next t → MemoryOk t := by
  exact fun t e => issueL_ok (fun c hc => bodyImin_ok c hc) h e
theorem execImaxS_ok (f : FormS) (s : State) (h : MemoryOk s) : ∀ t, execImaxS f s = .next t → MemoryOk t := by
  exact fun t e => issueS_ok (fun c hc => bodyImax_ok c hc) h e
theorem execImax_ok (f : FormL) (s : State) (h : MemoryOk s) : ∀ t, execImax f s = .next t → MemoryOk t := by
  exact fun t e => issueL_ok (fun c hc => bodyImax_ok c hc) h e
theorem execIabsS_ok (f : FormS) (s : State) (h : MemoryOk s) : ∀ t, execIabsS f s = .next t → MemoryOk t := by
  exact fun t e => issueS_ok (fun c hc => bodyIabs_ok c hc) h e
theorem execIabs_ok (f : FormL) (s : State) (h : MemoryOk s) : ∀ t, execIabs f s = .next t → MemoryOk t := by
  exact fun t e => issueL_ok (fun c hc => bodyIabs_ok c hc) h e
theorem execAndS_ok (f : FormS) (s : State) (h : MemoryOk s) : ∀ t, execAndS f s = .next t → MemoryOk t := by
  exact fun t e => issueS_ok (fun c hc => bodyAnd_ok c hc) h e
theorem execAnd_ok (f : FormL) (s : State) (h : MemoryOk s) : ∀ t, execAnd f s = .next t → MemoryOk t := by
  exact fun t e => issueL_ok (fun c hc => bodyAnd_ok c hc) h e
theorem execOrS_ok (f : FormS) (s : State) (h : MemoryOk s) : ∀ t, execOrS f s = .next t → MemoryOk t := by
  exact fun t e => issueS_ok (fun c hc => bodyOr_ok c hc) h e
theorem execOr_ok (f : FormL) (s : State) (h : MemoryOk s) : ∀ t, execOr f s = .next t → MemoryOk t := by
  exact fun t e => issueL_ok (fun c hc => bodyOr_ok c hc) h e
theorem execXorS_ok (f : FormS) (s : State) (h : MemoryOk s) : ∀ t, execXorS f s = .next t → MemoryOk t := by
  exact fun t e => issueS_ok (fun c hc => bodyXor_ok c hc) h e
theorem execXor_ok (f : FormL) (s : State) (h : MemoryOk s) : ∀ t, execXor f s = .next t → MemoryOk t := by
  exact fun t e => issueL_ok (fun c hc => bodyXor_ok c hc) h e
theorem execNotS_ok (f : FormS) (s : State) (h : MemoryOk s) : ∀ t, execNotS f s = .next t → MemoryOk t := by
  exact fun t e => issueS_ok (fun c hc => bodyNot_ok c hc) h e
theorem execNot_ok (f : FormL) (s : State) (h : MemoryOk s) : ∀ t, execNot f s = .next t → MemoryOk t := by
  exact fun t e => issueL_ok (fun c hc => bodyNot_ok c hc) h e
theorem execAndnS_ok (f : FormS) (s : State) (h : MemoryOk s) : ∀ t, execAndnS f s = .next t → MemoryOk t := by
  exact fun t e => issueS_ok (fun c hc => bodyAndn_ok c hc) h e
theorem execAndn_ok (f : FormL) (s : State) (h : MemoryOk s) : ∀ t, execAndn f s = .next t → MemoryOk t := by
  exact fun t e => issueL_ok (fun c hc => bodyAndn_ok c hc) h e
theorem execShlS_ok (f : FormS) (s : State) (h : MemoryOk s) : ∀ t, execShlS f s = .next t → MemoryOk t := by
  exact fun t e => issueS_ok (fun c hc => bodyShl_ok c hc) h e
theorem execShl_ok (f : FormL) (s : State) (h : MemoryOk s) : ∀ t, execShl f s = .next t → MemoryOk t := by
  exact fun t e => issueL_ok (fun c hc => bodyShl_ok c hc) h e
theorem execShrS_ok (f : FormS) (s : State) (h : MemoryOk s) : ∀ t, execShrS f s = .next t → MemoryOk t := by
  exact fun t e => issueS_ok (fun c hc => bodyShr_ok c hc) h e
theorem execShr_ok (f : FormL) (s : State) (h : MemoryOk s) : ∀ t, execShr f s = .next t → MemoryOk t := by
  exact fun t e => issueL_ok (fun c hc => bodyShr_ok c hc) h e
theorem execSarS_ok (f : FormS) (s : State) (h : MemoryOk s) : ∀ t, execSarS f s = .next t → MemoryOk t := by
  exact fun t e => issueS_ok (fun c hc => bodySar_ok c hc) h e
theorem execSar_ok (f : FormL) (s : State) (h : MemoryOk s) : ∀ t, execSar f s = .next t → MemoryOk t := by
  exact fun t e => issueL_ok (fun c hc => bodySar_ok c hc) h e
theorem execRotS_ok (f : FormS) (s : State) (h : MemoryOk s) : ∀ t, execRotS f s = .next t → MemoryOk t := by
  exact fun t e => issueS_ok (fun c hc => bodyRot_ok c hc) h e
theorem execRot_ok (f : FormL) (s : State) (h : MemoryOk s) : ∀ t, execRot f s = .next t → MemoryOk t := by
  exact fun t e => issueL_ok (fun c hc => bodyRot_ok c hc) h e
theorem execShfS_ok (f : FormS) (s : State) (h : MemoryOk s) : ∀ t, execShfS f s = .next t → MemoryOk t := by
  exact fun t e => issueS_ok (fun c hc => bodyShf_ok c hc) h e
theorem execShf_ok (f : FormL) (s : State) (h : MemoryOk s) : ∀ t, execShf f s = .next t → MemoryOk t := by
  exact fun t e => issueL_ok (fun c hc => bodyShf_ok c hc) h e
theorem execPopcS_ok (f : FormS) (s : State) (h : MemoryOk s) : ∀ t, execPopcS f s = .next t → MemoryOk t := by
  exact fun t e => issueS_ok (fun c hc => bodyPopc_ok c hc) h e
theorem execPopc_ok (f : FormL) (s : State) (h : MemoryOk s) : ∀ t, execPopc f s = .next t → MemoryOk t := by
  exact fun t e => issueL_ok (fun c hc => bodyPopc_ok c hc) h e
theorem execClzS_ok (f : FormS) (s : State) (h : MemoryOk s) : ∀ t, execClzS f s = .next t → MemoryOk t := by
  exact fun t e => issueS_ok (fun c hc => bodyClz_ok c hc) h e
theorem execClz_ok (f : FormL) (s : State) (h : MemoryOk s) : ∀ t, execClz f s = .next t → MemoryOk t := by
  exact fun t e => issueL_ok (fun c hc => bodyClz_ok c hc) h e
theorem execCtzS_ok (f : FormS) (s : State) (h : MemoryOk s) : ∀ t, execCtzS f s = .next t → MemoryOk t := by
  exact fun t e => issueS_ok (fun c hc => bodyCtz_ok c hc) h e
theorem execCtz_ok (f : FormL) (s : State) (h : MemoryOk s) : ∀ t, execCtz f s = .next t → MemoryOk t := by
  exact fun t e => issueL_ok (fun c hc => bodyCtz_ok c hc) h e
theorem execBrevS_ok (f : FormS) (s : State) (h : MemoryOk s) : ∀ t, execBrevS f s = .next t → MemoryOk t := by
  exact fun t e => issueS_ok (fun c hc => bodyBrev_ok c hc) h e
theorem execBrev_ok (f : FormL) (s : State) (h : MemoryOk s) : ∀ t, execBrev f s = .next t → MemoryOk t := by
  exact fun t e => issueL_ok (fun c hc => bodyBrev_ok c hc) h e
theorem execBfe_ok (f : FormL) (s : State) (h : MemoryOk s) : ∀ t, execBfe f s = .next t → MemoryOk t := by
  exact fun t e => issueL_ok (fun c hc => bodyBfe_ok c hc) h e
theorem execBfi_ok (f : FormL) (s : State) (h : MemoryOk s) : ∀ t, execBfi f s = .next t → MemoryOk t := by
  exact fun t e => issueL_ok (fun c hc => bodyBfi_ok c hc) h e
theorem execPrmt_ok (f : FormL) (s : State) (h : MemoryOk s) : ∀ t, execPrmt f s = .next t → MemoryOk t := by
  exact fun t e => issueL_ok (fun c hc => bodyPrmt_ok c hc) h e
theorem execLea_ok (f : FormL) (s : State) (h : MemoryOk s) : ∀ t, execLea f s = .next t → MemoryOk t := by
  exact fun t e => issueL_ok (fun c hc => bodyLea_ok c hc) h e
theorem execIset_ok (f : FormL) (s : State) (h : MemoryOk s) : ∀ t, execIset f s = .next t → MemoryOk t := by
  exact fun t e => issueL_ok (fun c hc => bodyIset_ok c hc) h e
theorem execIdp4_ok (f : FormL) (s : State) (h : MemoryOk s) : ∀ t, execIdp4 f s = .next t → MemoryOk t := by
  exact fun t e => issueL_ok (fun c hc => bodyIdp4_ok c hc) h e

/-! ### Sys2Proof/Machine/Float.lean -/

theorem Ctx'.putF_ok (c : Ctx') (t : Nat) (r : Nat × BitVec 5) (h : MemoryOk c.s) : MemoryOk (Ctx'.putF c t r) := by
  unfold Ctx'.putF
  grind [MemoryOk.upd, MemoryOk.foldl, Ctx'.upd_ok]
theorem floatTwo_ok (op : Num → Num → Nat → Exact) (c : Ctx') (h : MemoryOk c.s) : Go.Ok (floatTwo op c) := by
  unfold floatTwo
  grind [MemoryOk.upd, MemoryOk.foldl, Go.Ok, Ctx'.putF_ok]
theorem bodyFadd_ok  (c : Ctx') (hc : MemoryOk c.s) : Go.Ok (bodyFadd c) := by
  unfold bodyFadd
  grind [MemoryOk.upd, MemoryOk.foldl, Go.Ok, floatTwo_ok]
theorem bodyFsub_ok  (c : Ctx') (hc : MemoryOk c.s) : Go.Ok (bodyFsub c) := by
  unfold bodyFsub
  grind [MemoryOk.upd, MemoryOk.foldl, Go.Ok, floatTwo_ok]
theorem bodyFmul_ok  (c : Ctx') (hc : MemoryOk c.s) : Go.Ok (bodyFmul c) := by
  unfold bodyFmul
  grind [MemoryOk.upd, MemoryOk.foldl, Go.Ok, floatTwo_ok]
theorem bodyFfma_ok (c : Ctx') (h : MemoryOk c.s) : Go.Ok (bodyFfma c) := by
  unfold bodyFfma
  grind [MemoryOk.upd, MemoryOk.foldl, Go.Ok, Ctx'.putF_ok]
theorem bodyDadd_ok  (c : Ctx') (hc : MemoryOk c.s) : Go.Ok (bodyDadd c) := by
  unfold bodyDadd
  grind [MemoryOk.upd, MemoryOk.foldl, Go.Ok, floatTwo_ok]
theorem bodyDmul_ok  (c : Ctx') (hc : MemoryOk c.s) : Go.Ok (bodyDmul c) := by
  unfold bodyDmul
  grind [MemoryOk.upd, MemoryOk.foldl, Go.Ok, floatTwo_ok]
theorem bodyDfma_ok  (c : Ctx') (hc : MemoryOk c.s) : Go.Ok (bodyDfma c) := by
  unfold bodyDfma
  grind [MemoryOk.upd, MemoryOk.foldl, Go.Ok, bodyFfma_ok]
theorem floatMinmax_ok (isMax : Bool) (c : Ctx') (h : MemoryOk c.s) : Go.Ok (floatMinmax isMax c) := by
  unfold floatMinmax
  grind [MemoryOk.upd, MemoryOk.foldl, Go.Ok, Ctx'.putF_ok]
theorem bodyFmin_ok  (c : Ctx') (hc : MemoryOk c.s) : Go.Ok (bodyFmin c) := by
  unfold bodyFmin
  grind [MemoryOk.upd, MemoryOk.foldl, Go.Ok, floatMinmax_ok]
theorem bodyFmax_ok  (c : Ctx') (hc : MemoryOk c.s) : Go.Ok (bodyFmax c) := by
  unfold bodyFmax
  grind [MemoryOk.upd, MemoryOk.foldl, Go.Ok, floatMinmax_ok]
theorem floatCompare_ok (c : Ctx') (h : MemoryOk c.s) : Go.Ok (floatCompare c) := by
  unfold floatCompare
  grind [MemoryOk.upd, MemoryOk.foldl, Go.Ok, Ctx'.upd_ok]
theorem bodyFset_ok  (c : Ctx') (hc : MemoryOk c.s) : Go.Ok (bodyFset c) := by
  unfold bodyFset
  grind [MemoryOk.upd, MemoryOk.foldl, Go.Ok, floatCompare_ok]
theorem bodyDset_ok  (c : Ctx') (hc : MemoryOk c.s) : Go.Ok (bodyDset c) := by
  unfold bodyDset
  grind [MemoryOk.upd, MemoryOk.foldl, Go.Ok, floatCompare_ok]
theorem bodyFclass_ok (c : Ctx') (h : MemoryOk c.s) : Go.Ok (bodyFclass c) := by
  unfold bodyFclass
  grind [MemoryOk.upd, MemoryOk.foldl, Go.Ok, Ctx'.put_ok]
theorem bodyFrnd_ok (c : Ctx') (h : MemoryOk c.s) : Go.Ok (bodyFrnd c) := by
  unfold bodyFrnd
  grind [MemoryOk.upd, MemoryOk.foldl, Go.Ok, Ctx'.putF_ok]
theorem bodyFscl_ok (c : Ctx') (h : MemoryOk c.s) : Go.Ok (bodyFscl c) := by
  unfold bodyFscl
  grind [MemoryOk.upd, MemoryOk.foldl, Go.Ok, Ctx'.putF_ok]
theorem packed_ok (op : Nat → Nat → Nat → Nat × BitVec 5) (c : Ctx') (h : MemoryOk c.s) : Go.Ok (packed op c) := by
  unfold packed
  grind [MemoryOk.upd, MemoryOk.foldl, Go.Ok, Ctx'.upd_ok]
theorem bodyHfma2_ok (c : Ctx') (h : MemoryOk c.s) : Go.Ok (bodyHfma2 c) := by
  unfold bodyHfma2
  grind [MemoryOk.upd, MemoryOk.foldl, Go.Ok, packed_ok]
theorem bodyHadd2_ok (c : Ctx') (h : MemoryOk c.s) : Go.Ok (bodyHadd2 c) := by
  unfold bodyHadd2
  grind [MemoryOk.upd, MemoryOk.foldl, Go.Ok, packed_ok]
theorem bodyHmul2_ok (c : Ctx') (h : MemoryOk c.s) : Go.Ok (bodyHmul2 c) := by
  unfold bodyHmul2
  grind [MemoryOk.upd, MemoryOk.foldl, Go.Ok, packed_ok]
theorem floatProduce_ok (c : Ctx') (t : Nat) (r : Nat × BitVec 5) (h : MemoryOk c.s) : Go.Ok (floatProduce c t r) := by
  unfold floatProduce
  grind [MemoryOk.upd, MemoryOk.foldl, Go.Ok, produce_ok]
theorem sfu_ok (code : Nat) (c : Ctx') (h : MemoryOk c.s) : Go.Ok (sfu code c) := by
  unfold sfu
  grind [MemoryOk.upd, MemoryOk.foldl, Go.Ok, floatProduce_ok]
theorem bodyRcp_ok  (c : Ctx') (hc : MemoryOk c.s) : Go.Ok (bodyRcp c) := by
  unfold bodyRcp
  grind [MemoryOk.upd, MemoryOk.foldl, Go.Ok, sfu_ok]
theorem bodyRsq_ok  (c : Ctx') (hc : MemoryOk c.s) : Go.Ok (bodyRsq c) := by
  unfold bodyRsq
  grind [MemoryOk.upd, MemoryOk.foldl, Go.Ok, sfu_ok]
theorem bodySqrt_ok  (c : Ctx') (hc : MemoryOk c.s) : Go.Ok (bodySqrt c) := by
  unfold bodySqrt
  grind [MemoryOk.upd, MemoryOk.foldl, Go.Ok, sfu_ok]
theorem bodyEx2_ok  (c : Ctx') (hc : MemoryOk c.s) : Go.Ok (bodyEx2 c) := by
  unfold bodyEx2
  grind [MemoryOk.upd, MemoryOk.foldl, Go.Ok, sfu_ok]
theorem bodyLg2_ok  (c : Ctx') (hc : MemoryOk c.s) : Go.Ok (bodyLg2 c) := by
  unfold bodyLg2
  grind [MemoryOk.upd, MemoryOk.foldl, Go.Ok, sfu_ok]
theorem bodySin_ok  (c : Ctx') (hc : MemoryOk c.s) : Go.Ok (bodySin c) := by
  unfold bodySin
  grind [MemoryOk.upd, MemoryOk.foldl, Go.Ok, sfu_ok]
theorem bodyCos_ok  (c : Ctx') (hc : MemoryOk c.s) : Go.Ok (bodyCos c) := by
  unfold bodyCos
  grind [MemoryOk.upd, MemoryOk.foldl, Go.Ok, sfu_ok]
theorem bodyTanh_ok  (c : Ctx') (hc : MemoryOk c.s) : Go.Ok (bodyTanh c) := by
  unfold bodyTanh
  grind [MemoryOk.upd, MemoryOk.foldl, Go.Ok, sfu_ok]
theorem floatDiv_ok (c : Ctx') (h : MemoryOk c.s) : Go.Ok (floatDiv c) := by
  unfold floatDiv
  grind [MemoryOk.upd, MemoryOk.foldl, Go.Ok, floatProduce_ok]
theorem bodyFdiv_ok  (c : Ctx') (hc : MemoryOk c.s) : Go.Ok (bodyFdiv c) := by
  unfold bodyFdiv
  grind [MemoryOk.upd, MemoryOk.foldl, Go.Ok, floatDiv_ok]
theorem bodyDdiv_ok  (c : Ctx') (hc : MemoryOk c.s) : Go.Ok (bodyDdiv c) := by
  unfold bodyDdiv
  grind [MemoryOk.upd, MemoryOk.foldl, Go.Ok, floatDiv_ok]
theorem bodyDsqrt_ok (c : Ctx') (h : MemoryOk c.s) : Go.Ok (bodyDsqrt c) := by
  unfold bodyDsqrt
  grind [MemoryOk.upd, MemoryOk.foldl, Go.Ok, floatProduce_ok]
theorem execFaddS_ok (f : FormS) (s : State) (h : MemoryOk s) : ∀ t, execFaddS f s = .next t → MemoryOk t := by
  exact fun t e => issueS_ok (fun c hc => bodyFadd_ok c hc) h e
theorem execFadd_ok (f : FormL) (s : State) (h : MemoryOk s) : ∀ t, execFadd f s = .next t → MemoryOk t := by
  exact fun t e => issueL_ok (fun c hc => bodyFadd_ok c hc) h e
theorem execFsubS_ok (f : FormS) (s : State) (h : MemoryOk s) : ∀ t, execFsubS f s = .next t → MemoryOk t := by
  exact fun t e => issueS_ok (fun c hc => bodyFsub_ok c hc) h e
theorem execFsub_ok (f : FormL) (s : State) (h : MemoryOk s) : ∀ t, execFsub f s = .next t → MemoryOk t := by
  exact fun t e => issueL_ok (fun c hc => bodyFsub_ok c hc) h e
theorem execFmulS_ok (f : FormS) (s : State) (h : MemoryOk s) : ∀ t, execFmulS f s = .next t → MemoryOk t := by
  exact fun t e => issueS_ok (fun c hc => bodyFmul_ok c hc) h e
theorem execFmul_ok (f : FormL) (s : State) (h : MemoryOk s) : ∀ t, execFmul f s = .next t → MemoryOk t := by
  exact fun t e => issueL_ok (fun c hc => bodyFmul_ok c hc) h e
theorem execFfmaS_ok (f : FormS) (s : State) (h : MemoryOk s) : ∀ t, execFfmaS f s = .next t → MemoryOk t := by
  exact fun t e => issueS_ok (fun c hc => bodyFfma_ok c hc) h e
theorem execFfma_ok (f : FormL) (s : State) (h : MemoryOk s) : ∀ t, execFfma f s = .next t → MemoryOk t := by
  exact fun t e => issueL_ok (fun c hc => bodyFfma_ok c hc) h e
theorem execFminS_ok (f : FormS) (s : State) (h : MemoryOk s) : ∀ t, execFminS f s = .next t → MemoryOk t := by
  exact fun t e => issueS_ok (fun c hc => bodyFmin_ok c hc) h e
theorem execFmin_ok (f : FormL) (s : State) (h : MemoryOk s) : ∀ t, execFmin f s = .next t → MemoryOk t := by
  exact fun t e => issueL_ok (fun c hc => bodyFmin_ok c hc) h e
theorem execFmaxS_ok (f : FormS) (s : State) (h : MemoryOk s) : ∀ t, execFmaxS f s = .next t → MemoryOk t := by
  exact fun t e => issueS_ok (fun c hc => bodyFmax_ok c hc) h e
theorem execFmax_ok (f : FormL) (s : State) (h : MemoryOk s) : ∀ t, execFmax f s = .next t → MemoryOk t := by
  exact fun t e => issueL_ok (fun c hc => bodyFmax_ok c hc) h e
theorem execFset_ok (f : FormL) (s : State) (h : MemoryOk s) : ∀ t, execFset f s = .next t → MemoryOk t := by
  exact fun t e => issueL_ok (fun c hc => bodyFset_ok c hc) h e
theorem execFclass_ok (f : FormL) (s : State) (h : MemoryOk s) : ∀ t, execFclass f s = .next t → MemoryOk t := by
  exact fun t e => issueL_ok (fun c hc => bodyFclass_ok c hc) h e
theorem execFrnd_ok (f : FormL) (s : State) (h : MemoryOk s) : ∀ t, execFrnd f s = .next t → MemoryOk t := by
  exact fun t e => issueL_ok (fun c hc => bodyFrnd_ok c hc) h e
theorem execFscl_ok (f : FormL) (s : State) (h : MemoryOk s) : ∀ t, execFscl f s = .next t → MemoryOk t := by
  exact fun t e => issueL_ok (fun c hc => bodyFscl_ok c hc) h e
theorem execDaddS_ok (f : FormS) (s : State) (h : MemoryOk s) : ∀ t, execDaddS f s = .next t → MemoryOk t := by
  exact fun t e => issueS_ok (fun c hc => bodyDadd_ok c hc) h e
theorem execDadd_ok (f : FormL) (s : State) (h : MemoryOk s) : ∀ t, execDadd f s = .next t → MemoryOk t := by
  exact fun t e => issueL_ok (fun c hc => bodyDadd_ok c hc) h e
theorem execDmulS_ok (f : FormS) (s : State) (h : MemoryOk s) : ∀ t, execDmulS f s = .next t → MemoryOk t := by
  exact fun t e => issueS_ok (fun c hc => bodyDmul_ok c hc) h e
theorem execDmul_ok (f : FormL) (s : State) (h : MemoryOk s) : ∀ t, execDmul f s = .next t → MemoryOk t := by
  exact fun t e => issueL_ok (fun c hc => bodyDmul_ok c hc) h e
theorem execDfmaS_ok (f : FormS) (s : State) (h : MemoryOk s) : ∀ t, execDfmaS f s = .next t → MemoryOk t := by
  exact fun t e => issueS_ok (fun c hc => bodyDfma_ok c hc) h e
theorem execDfma_ok (f : FormL) (s : State) (h : MemoryOk s) : ∀ t, execDfma f s = .next t → MemoryOk t := by
  exact fun t e => issueL_ok (fun c hc => bodyDfma_ok c hc) h e
theorem execDset_ok (f : FormL) (s : State) (h : MemoryOk s) : ∀ t, execDset f s = .next t → MemoryOk t := by
  exact fun t e => issueL_ok (fun c hc => bodyDset_ok c hc) h e
theorem execHfma2S_ok (f : FormS) (s : State) (h : MemoryOk s) : ∀ t, execHfma2S f s = .next t → MemoryOk t := by
  exact fun t e => issueS_ok (fun c hc => bodyHfma2_ok c hc) h e
theorem execHfma2_ok (f : FormL) (s : State) (h : MemoryOk s) : ∀ t, execHfma2 f s = .next t → MemoryOk t := by
  exact fun t e => issueL_ok (fun c hc => bodyHfma2_ok c hc) h e
theorem execHadd2S_ok (f : FormS) (s : State) (h : MemoryOk s) : ∀ t, execHadd2S f s = .next t → MemoryOk t := by
  exact fun t e => issueS_ok (fun c hc => bodyHadd2_ok c hc) h e
theorem execHadd2_ok (f : FormL) (s : State) (h : MemoryOk s) : ∀ t, execHadd2 f s = .next t → MemoryOk t := by
  exact fun t e => issueL_ok (fun c hc => bodyHadd2_ok c hc) h e
theorem execHmul2S_ok (f : FormS) (s : State) (h : MemoryOk s) : ∀ t, execHmul2S f s = .next t → MemoryOk t := by
  exact fun t e => issueS_ok (fun c hc => bodyHmul2_ok c hc) h e
theorem execHmul2_ok (f : FormL) (s : State) (h : MemoryOk s) : ∀ t, execHmul2 f s = .next t → MemoryOk t := by
  exact fun t e => issueL_ok (fun c hc => bodyHmul2_ok c hc) h e
theorem execRcp_ok (f : FormL) (s : State) (h : MemoryOk s) : ∀ t, execRcp f s = .next t → MemoryOk t := by
  exact fun t e => issueL_ok (fun c hc => bodyRcp_ok c hc) h e
theorem execRsq_ok (f : FormL) (s : State) (h : MemoryOk s) : ∀ t, execRsq f s = .next t → MemoryOk t := by
  exact fun t e => issueL_ok (fun c hc => bodyRsq_ok c hc) h e
theorem execSqrt_ok (f : FormL) (s : State) (h : MemoryOk s) : ∀ t, execSqrt f s = .next t → MemoryOk t := by
  exact fun t e => issueL_ok (fun c hc => bodySqrt_ok c hc) h e
theorem execEx2_ok (f : FormL) (s : State) (h : MemoryOk s) : ∀ t, execEx2 f s = .next t → MemoryOk t := by
  exact fun t e => issueL_ok (fun c hc => bodyEx2_ok c hc) h e
theorem execLg2_ok (f : FormL) (s : State) (h : MemoryOk s) : ∀ t, execLg2 f s = .next t → MemoryOk t := by
  exact fun t e => issueL_ok (fun c hc => bodyLg2_ok c hc) h e
theorem execSin_ok (f : FormL) (s : State) (h : MemoryOk s) : ∀ t, execSin f s = .next t → MemoryOk t := by
  exact fun t e => issueL_ok (fun c hc => bodySin_ok c hc) h e
theorem execCos_ok (f : FormL) (s : State) (h : MemoryOk s) : ∀ t, execCos f s = .next t → MemoryOk t := by
  exact fun t e => issueL_ok (fun c hc => bodyCos_ok c hc) h e
theorem execTanh_ok (f : FormL) (s : State) (h : MemoryOk s) : ∀ t, execTanh f s = .next t → MemoryOk t := by
  exact fun t e => issueL_ok (fun c hc => bodyTanh_ok c hc) h e
theorem execFdivS_ok (f : FormS) (s : State) (h : MemoryOk s) : ∀ t, execFdivS f s = .next t → MemoryOk t := by
  exact fun t e => issueS_ok (fun c hc => bodyFdiv_ok c hc) h e
theorem execFdiv_ok (f : FormL) (s : State) (h : MemoryOk s) : ∀ t, execFdiv f s = .next t → MemoryOk t := by
  exact fun t e => issueL_ok (fun c hc => bodyFdiv_ok c hc) h e
theorem execDdiv_ok (f : FormL) (s : State) (h : MemoryOk s) : ∀ t, execDdiv f s = .next t → MemoryOk t := by
  exact fun t e => issueL_ok (fun c hc => bodyDdiv_ok c hc) h e
theorem execDsqrt_ok (f : FormL) (s : State) (h : MemoryOk s) : ∀ t, execDsqrt f s = .next t → MemoryOk t := by
  exact fun t e => issueL_ok (fun c hc => bodyDsqrt_ok c hc) h e

/-! ### Sys2Proof/Machine/Special.lean -/

theorem bodyPlog_ok (c : Ctx') (h : MemoryOk c.s) : Go.Ok (bodyPlog c) := by
  unfold bodyPlog
  grind [MemoryOk.upd, MemoryOk.foldl, Go.Ok, Ctx'.upd_ok]
theorem bodyPmov_ok (c : Ctx') (h : MemoryOk c.s) : Go.Ok (bodyPmov c) := by
  unfold bodyPmov
  grind [MemoryOk.upd, MemoryOk.foldl, Go.Ok, freeze_ok, Ctx'.upd_ok, Ctx'.put_ok]
theorem bodyFlrd_ok (c : Ctx') (h : MemoryOk c.s) : Go.Ok (bodyFlrd c) := by
  unfold bodyFlrd
  grind [MemoryOk.upd, MemoryOk.foldl, Go.Ok, Ctx'.put_ok]
theorem bodyFlclr_ok (c : Ctx') (h : MemoryOk c.s) : Go.Ok (bodyFlclr c) := by
  unfold bodyFlclr
  grind [MemoryOk.upd, MemoryOk.foldl, Go.Ok, Ctx'.upd_ok]
theorem bodyMovs_ok (c : Ctx') (h : MemoryOk c.s) : Go.Ok (bodyMovs c) := by
  unfold bodyMovs
  grind [MemoryOk.upd, MemoryOk.foldl, Go.Ok, Ctx'.put_ok]
theorem tick_ok (s : State) (h : MemoryOk s) : MemoryOk (tick s) := by
  unfold tick
  grind [MemoryOk.upd, MemoryOk.foldl]
theorem bodyClk_ok (c : Ctx') (h : MemoryOk c.s) : Go.Ok (bodyClk c) := by
  unfold bodyClk
  grind [MemoryOk.upd, MemoryOk.foldl, Go.Ok, produce_ok]
theorem execClk_ok (f : FormL) (s : State) (h : MemoryOk s) : ∀ t, execClk f s = .next t → MemoryOk t := by
  intro t e
  unfold execClk at e
  grind [MemoryOk.upd, MemoryOk.foldl, issueL_ok, tick_ok, bodyClk_ok]
theorem bodyWid_ok (c : Ctx') (h : MemoryOk c.s) : Go.Ok (bodyWid c) := by
  unfold bodyWid
  grind [MemoryOk.upd, MemoryOk.foldl, Go.Ok, Ctx'.put_ok]
theorem execPlog_ok (f : FormL) (s : State) (h : MemoryOk s) : ∀ t, execPlog f s = .next t → MemoryOk t := by
  exact fun t e => issueL_ok (fun c hc => bodyPlog_ok c hc) h e
theorem execPmov_ok (f : FormL) (s : State) (h : MemoryOk s) : ∀ t, execPmov f s = .next t → MemoryOk t := by
  exact fun t e => issueL_ok (fun c hc => bodyPmov_ok c hc) h e
theorem execFlrd_ok (f : FormL) (s : State) (h : MemoryOk s) : ∀ t, execFlrd f s = .next t → MemoryOk t := by
  exact fun t e => issueL_ok (fun c hc => bodyFlrd_ok c hc) h e
theorem execFlclr_ok (f : FormL) (s : State) (h : MemoryOk s) : ∀ t, execFlclr f s = .next t → MemoryOk t := by
  exact fun t e => issueL_ok (fun c hc => bodyFlclr_ok c hc) h e
theorem execMovs_ok (f : FormL) (s : State) (h : MemoryOk s) : ∀ t, execMovs f s = .next t → MemoryOk t := by
  exact fun t e => issueL_ok (fun c hc => bodyMovs_ok c hc) h e
theorem execWid_ok (f : FormL) (s : State) (h : MemoryOk s) : ∀ t, execWid f s = .next t → MemoryOk t := by
  exact fun t e => issueL_ok (fun c hc => bodyWid_ok c hc) h e

/-! ### Sys2Proof/Machine/Convert.lean -/

theorem bodyFcvt_ok (c : Ctx') (h : MemoryOk c.s) : Go.Ok (bodyFcvt c) := by
  unfold bodyFcvt
  grind [MemoryOk.upd, MemoryOk.foldl, Go.Ok, Ctx'.putF_ok]
theorem bodyF2i_ok (c : Ctx') (h : MemoryOk c.s) : Go.Ok (bodyF2i c) := by
  unfold bodyF2i
  grind [MemoryOk.upd, MemoryOk.foldl, Go.Ok, Ctx'.putF_ok]
theorem bodyI2f_ok (c : Ctx') (h : MemoryOk c.s) : Go.Ok (bodyI2f c) := by
  unfold bodyI2f
  grind [MemoryOk.upd, MemoryOk.foldl, Go.Ok, Ctx'.putF_ok]
theorem tableOf_ok (c : Ctx') (w : Nat) (h : MemoryOk c.s) : Sum.Ok (tableOf c w) := by
  unfold tableOf
  split
  · exact h
  · extract_lets off
    split
    · exact h
    · split
      · exact h
      · extract_lets acc
        have l := performScratch_ok c.s (whoOf c.k c.a) acc c.a.seq h
        split
        · rename_i e; rw [e] at l; exact l
        · split
          · exact h
          · exact Ctx'.upd_ok _ _ h
theorem bodyQnt_ok (c : Ctx') (h : MemoryOk c.s) : Go.Ok (bodyQnt c) := by
  have l := tableOf_ok c c.vb h
  unfold bodyQnt
  split
  · exact h
  · split
    · rename_i e; rw [e] at l; exact l
    · rename_i e
      rw [e] at l
      exact putAgent_ok _ _ _ l
theorem bodyDqnt_ok (c : Ctx') (h : MemoryOk c.s) : Go.Ok (bodyDqnt c) := by
  have l := tableOf_ok c c.vb h
  unfold bodyDqnt
  split
  · exact h
  · split
    · rename_i e; rw [e] at l; exact l
    · rename_i e
      rw [e] at l
      exact putAgent_ok _ _ _ l
theorem bodyPack_ok (c : Ctx') (h : MemoryOk c.s) : Go.Ok (bodyPack c) := by
  unfold bodyPack
  grind [MemoryOk.upd, MemoryOk.foldl, Go.Ok, Ctx'.put_ok]
theorem bodyUnpk_ok (c : Ctx') (h : MemoryOk c.s) : Go.Ok (bodyUnpk c) := by
  unfold bodyUnpk
  grind [MemoryOk.upd, MemoryOk.foldl, Go.Ok, Ctx'.put_ok]
theorem execFcvt_ok (f : FormL) (s : State) (h : MemoryOk s) : ∀ t, execFcvt f s = .next t → MemoryOk t := by
  exact fun t e => issueL_ok (fun c hc => bodyFcvt_ok c hc) h e
theorem execF2i_ok (f : FormL) (s : State) (h : MemoryOk s) : ∀ t, execF2i f s = .next t → MemoryOk t := by
  exact fun t e => issueL_ok (fun c hc => bodyF2i_ok c hc) h e
theorem execI2f_ok (f : FormL) (s : State) (h : MemoryOk s) : ∀ t, execI2f f s = .next t → MemoryOk t := by
  exact fun t e => issueL_ok (fun c hc => bodyI2f_ok c hc) h e
theorem execQnt_ok (f : FormL) (s : State) (h : MemoryOk s) : ∀ t, execQnt f s = .next t → MemoryOk t := by
  exact fun t e => issueL_ok (fun c hc => bodyQnt_ok c hc) h e
theorem execDqnt_ok (f : FormL) (s : State) (h : MemoryOk s) : ∀ t, execDqnt f s = .next t → MemoryOk t := by
  exact fun t e => issueL_ok (fun c hc => bodyDqnt_ok c hc) h e
theorem execPack_ok (f : FormL) (s : State) (h : MemoryOk s) : ∀ t, execPack f s = .next t → MemoryOk t := by
  exact fun t e => issueL_ok (fun c hc => bodyPack_ok c hc) h e
theorem execUnpk_ok (f : FormL) (s : State) (h : MemoryOk s) : ∀ t, execUnpk f s = .next t → MemoryOk t := by
  exact fun t e => issueL_ok (fun c hc => bodyUnpk_ok c hc) h e

/-! ### Sys2Proof/Machine/Control.lean -/

theorem transfer_ok (c : Ctx') (s : State) (t : Nat) (hc : MemoryOk c.s) (h : MemoryOk s) : Go.Ok (transfer c s t) := by
  unfold transfer
  extract_lets t
  refine iteInduction (fun _ => hc) fun _ => ?_
  split
  · rename_i e
    exact iteInduction (motive := Go.Ok) (fun _ => fetchWord_ok h e) fun _ => deviceUse_ok _ _ _ _ hc
  · exact h
theorem bodyBra_ok (c : Ctx') (h : MemoryOk c.s) : Go.Ok (bodyBra c) := by
  unfold bodyBra
  grind [MemoryOk.upd, MemoryOk.foldl, Go.Ok, transfer_ok]
theorem bodyBrc_ok (c : Ctx') (h : MemoryOk c.s) : Go.Ok (bodyBrc c) := by
  unfold bodyBrc
  grind [MemoryOk.upd, MemoryOk.foldl, Go.Ok, transfer_ok]
theorem bodyJmp_ok (c : Ctx') (h : MemoryOk c.s) : Go.Ok (bodyJmp c) := by
  unfold bodyJmp
  grind [MemoryOk.upd, MemoryOk.foldl, Go.Ok, transfer_ok]
theorem issueReq_ok (s : State) (k : Nat) (a : Agent) (acc : Access) (h : MemoryOk s) : MemoryOk (issueReq s k a acc) := by
  unfold issueReq
  grind [MemoryOk.upd, MemoryOk.foldl, putAgent_ok, freshId_ok]
theorem call_ok (c : Ctx') (t : Nat) (h : MemoryOk c.s) : Go.Ok (call c t) := by
  unfold call
  grind [MemoryOk.upd, MemoryOk.foldl, Go.Ok, putEngine_ok, freeze_ok, transfer_ok, issueReq_ok]
theorem bodyCall_ok (c : Ctx') (h : MemoryOk c.s) : Go.Ok (bodyCall c) := by
  unfold bodyCall
  grind [MemoryOk.upd, MemoryOk.foldl, Go.Ok, call_ok]
theorem bodyCalli_ok (c : Ctx') (h : MemoryOk c.s) : Go.Ok (bodyCalli c) := by
  unfold bodyCalli
  grind [MemoryOk.upd, MemoryOk.foldl, Go.Ok, call_ok]
theorem readNow_ok (c : Ctx') (va n : Nat) (h : MemoryOk c.s) : Sum.Ok (readNow c va n) := by
  have l := readRange_ok c.s (whoOf c.k c.a) va n h
  unfold readNow
  split
  · exact h
  · refine iteInduction (fun _ => h) fun _ => ?_
    split
    · rename_i e; rw [e] at l; split <;> assumption
    all_goals exact h
theorem bodyRet_ok (c : Ctx') (h : MemoryOk c.s) : Go.Ok (bodyRet c) := by
  unfold bodyRet
  split
  · extract_lets e
    split
    · exact h
    · exact transfer_ok _ _ _ h (putEngine_ok _ _ _ h)
  · split
    · exact h
    · have l := readNow_ok c (privVa c.s c.k c.a c.a.rstk) 8 h
      split
      · rename_i e; rw [e] at l; exact l
      · rename_i e; rw [e] at l; exact transfer_ok _ _ _ l (modAgent_ok _ _ _ l)
theorem bodyYield_ok (c : Ctx') (h : MemoryOk c.s) : Go.Ok (bodyYield c) := by
  unfold bodyYield
  grind [MemoryOk.upd, MemoryOk.foldl, Go.Ok, Ctx'.upd_ok]
theorem completedFreeze_ok (c : Ctx') (code : FCode) (x0 : Word) (h : MemoryOk c.s) : Go.Ok (completedFreeze c code x0) := by
  unfold completedFreeze
  grind [MemoryOk.upd, MemoryOk.foldl, Go.Ok, freeze_ok]
theorem bodyTrap_ok (c : Ctx') (h : MemoryOk c.s) : Go.Ok (bodyTrap c) := by
  unfold bodyTrap
  grind [MemoryOk.upd, MemoryOk.foldl, Go.Ok, completedFreeze_ok]
theorem bodyBkpt_ok (c : Ctx') (h : MemoryOk c.s) : Go.Ok (bodyBkpt c) := by
  unfold bodyBkpt
  grind [MemoryOk.upd, MemoryOk.foldl, Go.Ok, completedFreeze_ok]
theorem execBra_ok (f : FormL) (s : State) (h : MemoryOk s) : ∀ t, execBra f s = .next t → MemoryOk t := by
  exact fun t e => issueL_ok (fun c hc => bodyBra_ok c hc) h e
theorem execBrc_ok (f : FormL) (s : State) (h : MemoryOk s) : ∀ t, execBrc f s = .next t → MemoryOk t := by
  exact fun t e => issueL_ok (fun c hc => bodyBrc_ok c hc) h e
theorem execJmp_ok (f : FormL) (s : State) (h : MemoryOk s) : ∀ t, execJmp f s = .next t → MemoryOk t := by
  exact fun t e => issueL_ok (fun c hc => bodyJmp_ok c hc) h e
theorem execCall_ok (f : FormL) (s : State) (h : MemoryOk s) : ∀ t, execCall f s = .next t → MemoryOk t := by
  exact fun t e => issueL_ok (fun c hc => bodyCall_ok c hc) h e
theorem execCalli_ok (f : FormL) (s : State) (h : MemoryOk s) : ∀ t, execCalli f s = .next t → MemoryOk t := by
  exact fun t e => issueL_ok (fun c hc => bodyCalli_ok c hc) h e
theorem execRetS_ok (f : FormS) (s : State) (h : MemoryOk s) : ∀ t, execRetS f s = .next t → MemoryOk t := by
  exact fun t e => issueS_ok (fun c hc => bodyRet_ok c hc) h e
theorem execRet_ok (f : FormL) (s : State) (h : MemoryOk s) : ∀ t, execRet f s = .next t → MemoryOk t := by
  exact fun t e => issueL_ok (fun c hc => bodyRet_ok c hc) h e
theorem execYieldS_ok (f : FormS) (s : State) (h : MemoryOk s) : ∀ t, execYieldS f s = .next t → MemoryOk t := by
  exact fun t e => issueS_ok (fun c hc => bodyYield_ok c hc) h e
theorem execYield_ok (f : FormL) (s : State) (h : MemoryOk s) : ∀ t, execYield f s = .next t → MemoryOk t := by
  exact fun t e => issueL_ok (fun c hc => bodyYield_ok c hc) h e
theorem execTrap_ok (f : FormL) (s : State) (h : MemoryOk s) : ∀ t, execTrap f s = .next t → MemoryOk t := by
  exact fun t e => issueL_ok (fun c hc => bodyTrap_ok c hc) h e
theorem execBkpt_ok (f : FormL) (s : State) (h : MemoryOk s) : ∀ t, execBkpt f s = .next t → MemoryOk t := by
  exact fun t e => issueL_ok (fun c hc => bodyBkpt_ok c hc) h e

/-! ### Sys2Proof/Machine/Object.lean -/

theorem finishWait_ok (s : State) (k : Nat) (p : Option Bool) (c : Clock) (h : MemoryOk s) : MemoryOk (finishWait s k p c) := by
  unfold finishWait
  split
  · exact h
  · split
    · exact h
    · exact settle_ok _ _ _ _ (putAgent_ok _ _ _ h)
theorem mbTouch_ok (s : State) (w : Who) (locs : List Nat) (addr : DWord) (h : MemoryOk s) : MemoryOk (mbTouch s w locs addr) := by
  unfold mbTouch
  cases e : judge s w true true (wordsOfLocs locs) addr with
  | none => exact h
  | some x => exact judge_ok _ _ _ _ _ _ h x.1 x.2 e
theorem mbTest_ok (s : State) (loc : Nat) (o : MbObj) (h : MemoryOk s) : MemoryOk (mbTest s loc o).1 := by
  unfold mbTest
  split <;> exact h
theorem mbPut_ok (s : State) (locs : List Nat) (o : MbObj) (h : MemoryOk s) : MemoryOk (mbPut s locs o) := ⟨h.1, Memory.wf_writeLocs h.2 _ _⟩
theorem mbSettle_ok (s : State) (locs : List Nat) (o : MbObj) (h : MemoryOk s) : MemoryOk (mbSettle s locs o) := by
  unfold mbSettle
  exact iteInduction (motive := MemoryOk) (fun _ => mbPut_ok _ _ _ (mbTest_ok _ _ _ h)) fun _ =>
    MemoryOk.foldl (fun s k h => finishWait_ok _ _ _ _ h) _ (mbPut_ok _ _ _ (mbTest_ok _ _ _ h))
theorem mbRelease_ok (s : State) (loc : Nat) (r : Rel) (h : MemoryOk s) : MemoryOk (mbRelease s loc r) := by
  unfold mbRelease
  grind [MemoryOk.upd, MemoryOk.foldl]
theorem mbArrive_ok (s : State) (w : Who) (locs : List Nat) (addr : DWord) (count bytes : Nat) (h : MemoryOk s) :
    (∀ t, mbArrive s w locs addr count bytes = .inl t → MemoryOk t) ∧ ∀ t o, mbArrive s w locs addr count bytes = .inr (t, o) → MemoryOk t := by
  unfold mbArrive
  extract_lets s1 o r
  have hs : MemoryOk s1 := mbTouch_ok _ _ _ _ h
  constructor
  · intro t e
    split at e
    · cases e; exact mbPut_ok _ _ _ hs
    · cases e
  · intro t o e
    split at e
    · cases e
    · cases e; exact mbSettle_ok _ _ _ (mbRelease_ok _ _ _ hs)
theorem mbDecrement_ok (s : State) (w : Who) (locs : List Nat) (bytes : Nat) (h : MemoryOk s) : MemoryOk (mbDecrement s w locs bytes).1 :=
  mbSettle_ok _ _ _ (mbRelease_ok _ _ _ (mbTouch_ok _ _ _ _ h))

end Sys2Proof.Machine
end

