-- ==== Sys2Proof/Laws/FormMemory.lean ====
section
/-!
SUPPORT. Sys2Proof/Laws/FormMemory.lean: the canonical form of memory is kept by the memory, collective and barrier instructions and by the requests between agents.
-/
namespace Sys2Proof.Machine

/-! ### Sys2Proof/Machine/Memory.lean -/

theorem wakeRetry_ok (s : State) (h : MemoryOk s) : MemoryOk (wakeRetry s) := by
  unfold wakeRetry
  grind [MemoryOk.upd, MemoryOk.foldl]
theorem putMarker_ok (s : State) (uid : Nat) (seq : Nat) (p : Place) (home : Nat) (order : Nat) (scope : Nat) (h : MemoryOk s) : MemoryOk (putMarker s uid seq p home order scope) := by
  unfold putMarker
  grind [MemoryOk.upd, MemoryOk.foldl, freshId_ok]
theorem boundaryMarkers_ok (s : State) (h : MemoryOk s) : MemoryOk (boundaryMarkers s) := by
  unfold boundaryMarkers
  grind [MemoryOk.upd, MemoryOk.foldl, modAgent_ok, putMarker_ok]
theorem noteUpdates_ok (s : State) (h : MemoryOk s) : MemoryOk (noteUpdates s) := by
  unfold noteUpdates
  grind [MemoryOk.upd, MemoryOk.foldl]
theorem event_ok (f : State → State) (s : State) (h : ∀ s, MemoryOk s → MemoryOk (f s)) (h1 : MemoryOk s) : ∀ t, event f s = .next t → MemoryOk t := by
  intro t e
  unfold event at e
  grind [MemoryOk.upd, MemoryOk.foldl, wakeRetry_ok, noteUpdates_ok]
theorem sendMarkers_ok (s : State) (k : Nat) (order : Nat) (scope : Nat) (h : MemoryOk s) : MemoryOk (sendMarkers s k order scope) := by
  unfold sendMarkers
  grind [MemoryOk.upd, MemoryOk.foldl, putAgent_ok, putMarker_ok]
theorem issueAccess_ok (c : Ctx') (a : Agent) (acc : Access) (h : MemoryOk c.s) : MemoryOk (issueAccess c a acc) := by
  unfold issueAccess
  grind [MemoryOk.upd, MemoryOk.foldl, putAgent_ok, endRegion_ok, issueReq_ok, sendMarkers_ok]
theorem accessNow_ok (c : Ctx') (acc : Access) (h : MemoryOk c.s) : Go.Ok (accessNow c acc) := by
  unfold accessNow
  split
  · exact h
  · extract_lets w s after res
    have hs : MemoryOk s := iteInduction (motive := MemoryOk) (fun _ => sendMarkers_ok _ _ _ _ h) fun _ => h
    split
    · exact hs
    · have hr : Res.Ok res := by
        refine iteInduction (fun _ => performScratch_ok _ _ _ _ hs) fun _ => ?_
        split
        · exact iteInduction (motive := Res.Ok) (fun _ => trivial) fun _ =>
            performGlobal_ok _ _ _ _ (iteInduction (motive := MemoryOk) (fun _ => hs) fun _ => invalidateFor_ok _ _ _ hs)
        · exact performGlobal_ok _ _ _ _ hs
      have ha : ∀ s, MemoryOk s → MemoryOk (after s) := fun s h => modAgent_ok _ _ _ h
      clear_value res after
      cases res
      · exact hs
      · exact hs
      · exact hs
      · exact ha _ hs
      · exact hr
      · exact noteUpdates_ok _ (ha _ hr)
theorem issueLoad_ok (c : Ctx') (acc : Access) (h : MemoryOk c.s) : Go.Ok (issueLoad c acc) := by
  unfold issueLoad
  grind [MemoryOk.upd, MemoryOk.foldl, Go.Ok, issueAccess_ok, accessNow_ok]
theorem issueStore_ok (c : Ctx') (acc : Access) (h : MemoryOk c.s) : Go.Ok (issueStore c acc) := by
  unfold issueStore
  grind [MemoryOk.upd, MemoryOk.foldl, Go.Ok, issueAccess_ok]
theorem globally_ok (c : Ctx') (g : Nat → Go) (h : MemoryOk c.s) (hg : ∀ n, Go.Ok (g n)) : Go.Ok (globally c g) := by
  unfold globally
  split
  · exact h
  · exact hg _
theorem inScratch_ok (c : Ctx') (d : Bool) (g : List Nat → Go) (h : MemoryOk c.s) (hg : ∀ n, Go.Ok (g n)) : Go.Ok (inScratch c d g) := by
  unfold inScratch
  refine iteInduction (fun _ => h) fun _ => iteInduction (fun _ => h) fun _ => ?_
  split
  · exact hg _
  · exact h
theorem inPrivate_ok (c : Ctx') (g : Nat → Go) (h : MemoryOk c.s) (hg : ∀ n, Go.Ok (g n)) : Go.Ok (inPrivate c g) := by
  unfold inPrivate
  split
  · exact h
  · split
    · exact h
    · exact hg _
theorem bodyLd_ok (c : Ctx') (h : MemoryOk c.s) : Go.Ok (bodyLd c) := globally_ok c _ h fun _ => issueLoad_ok _ _ h
theorem bodySt_ok (c : Ctx') (h : MemoryOk c.s) : Go.Ok (bodySt c) := globally_ok c _ h fun _ => issueStore_ok _ _ h
theorem bodyLds_ok (c : Ctx') (h : MemoryOk c.s) : Go.Ok (bodyLds c) := inScratch_ok c _ _ h fun _ => issueLoad_ok _ _ h
theorem bodySts_ok (c : Ctx') (h : MemoryOk c.s) : Go.Ok (bodySts c) := inScratch_ok c _ _ h fun _ => issueStore_ok _ _ h
theorem bodyLdl_ok (c : Ctx') (h : MemoryOk c.s) : Go.Ok (bodyLdl c) := inPrivate_ok c _ h fun _ => issueLoad_ok _ _ h
theorem bodyStl_ok (c : Ctx') (h : MemoryOk c.s) : Go.Ok (bodyStl c) := inPrivate_ok c _ h fun _ => issueStore_ok _ _ h
theorem bodyAtom_ok (c : Ctx') (h : MemoryOk c.s) : Go.Ok (bodyAtom c) := globally_ok c _ h fun _ => issueLoad_ok _ _ h
theorem bodyAtoms_ok (c : Ctx') (h : MemoryOk c.s) : Go.Ok (bodyAtoms c) := inScratch_ok c _ _ h fun _ => issueLoad_ok _ _ h
theorem bodyRed_ok (c : Ctx') (h : MemoryOk c.s) : Go.Ok (bodyRed c) := globally_ok c _ h fun _ => issueStore_ok _ _ h
theorem bodyFence_ok (c : Ctx') (h : MemoryOk c.s) : Go.Ok (bodyFence c) := by
  unfold bodyFence
  grind [MemoryOk.upd, MemoryOk.foldl, Go.Ok, modAgent_ok, endRegion_ok, acquire_ok, sendMarkers_ok]
theorem bodyPref_ok (c : Ctx') (h : MemoryOk c.s) : Go.Ok (bodyPref c) := by
  unfold bodyPref
  extract_lets t
  have l := locate_ok c.s (placeOf c.k c.a) c.a.tasid c.ea .load 1 h
  split
  · rename_i e
    rw [e] at l
    exact iteInduction (motive := Go.Ok) (fun _ => h) fun _ => iteInduction (motive := Go.Ok) (fun _ => h) fun _ => useLine_ok _ _ _ _ _ _ _ _ _ l
  · exact h
theorem putReq_ok (s : State) (r : Req) (h : MemoryOk s) : MemoryOk (putReq s r) := by
  unfold putReq
  grind [MemoryOk.upd, MemoryOk.foldl]
theorem dropReq_ok (s : State) (id : Nat) (h : MemoryOk s) : MemoryOk (dropReq s id) := by
  unfold dropReq
  grind [MemoryOk.upd, MemoryOk.foldl]
theorem refuseWrite_ok (s : State) (r : Req) (home : Nat) (h : MemoryOk s) : MemoryOk (refuseWrite s r home) := by
  unfold refuseWrite
  grind [MemoryOk.upd, MemoryOk.foldl, modAgent_ok, dropReq_ok]
theorem sendInvals_ok (s : State) (home : Nat) (ls : List Line) (h : MemoryOk s) : MemoryOk (sendInvals s home ls) := by
  unfold sendInvals
  grind [MemoryOk.upd, MemoryOk.foldl, freshId_ok]
theorem noteTask_ok (s : State) (key : Nat) (uid : Nat) (code : Nat) (h : MemoryOk s) : MemoryOk (noteTask s key uid code) := by
  unfold noteTask
  grind [MemoryOk.upd, MemoryOk.foldl, putEngine_ok]
theorem conclude_ok (s : State) (r : Req) (res : Res) (h : MemoryOk s) (hr : Res.Ok res) : MemoryOk (conclude s r res) := by
  unfold conclude
  extract_lets ret r' faulted
  have hf : ∀ s c, MemoryOk s → MemoryOk (faulted s c) := fun s c h =>
    iteInduction (motive := MemoryOk) (fun _ => putReq_ok _ _ h) fun _ => storeFault_ok _ _ _ _ _ _ _ _ _ (putReq_ok _ _ h)
  split
  · exact h
  · exact hf _ _ h
  · exact hf _ _ h
  · exact iteInduction (motive := MemoryOk) (fun _ => putReq_ok _ _ h) fun _ => hf _ _ h
  · exact hf _ _ hr
  · extract_lets t
    have hn : MemoryOk t := iteInduction (motive := MemoryOk) (fun _ => noteTask_ok _ _ _ _ hr) fun _ => hr
    split
    · exact putReq_ok _ _ hn
    · exact hn
theorem waitAtHome_ok (s : State) (r : Req) (h : MemoryOk s) : MemoryOk (waitAtHome s r) := by
  unfold waitAtHome
  grind [MemoryOk.upd, MemoryOk.foldl, putReq_ok]
theorem atHome_ok (s : State) (r : Req) (home : Nat) (h : MemoryOk s) : MemoryOk (atHome s r home) := by
  unfold atHome
  refine iteInduction (fun _ => refuseWrite_ok _ _ _ h) fun _ => ?_
  have l := locate_ok s r.who.place r.who.tasid r.acc.addr.toNat r.acc.need r.acc.bytes h
  split
  · rename_i e
    rw [e] at l
    refine iteInduction (fun _ => conclude_ok _ _ _ h trivial) fun _ => ?_
    extract_lets r'
    split
    · exact iteInduction (motive := MemoryOk) (fun _ => conclude_ok _ _ _ h (Res.undo_ok _ _ h (performHome_ok _ _ _ _ _ l))) fun _ =>
        iteInduction (motive := MemoryOk) (fun _ => waitAtHome_ok _ _ h) fun _ => putReq_ok _ _ h
    · exact waitAtHome_ok _ _ (sendInvals_ok _ _ _ h)
  · refine iteInduction (fun _ => conclude_ok _ _ _ h trivial) fun _ => ?_
    split
    · rename_i e; exact putReq_ok _ _ (logWrite_ok _ _ _ _ h _ e)
    · exact iteInduction (motive := MemoryOk) (fun _ => waitAtHome_ok _ _ h) fun _ => refuseWrite_ok _ _ _ h
  · exact conclude_ok _ _ _ h trivial
  · exact conclude_ok _ _ _ h trivial
  · exact waitAtHome_ok _ _ h
theorem meetHome_ok (s : State) (r : Req) (home : Nat) (p : Option Packet) (h : MemoryOk s) : MemoryOk (meetHome s r home p) := by
  unfold meetHome
  have a := atHome_ok s r home h
  extract_lets t
  split
  · exact iteInduction (motive := MemoryOk) (fun _ => keepHere_ok _ _ _ a) fun _ => takeOff_ok _ _ _ a
  · exact a
theorem requestEvent_ok (kind : AccKind) (sig : Bool) (id : Nat) (s : State) (h : MemoryOk s) : MemoryOk (requestEvent kind sig id s) := by
  unfold requestEvent
  split
  · exact h
  · refine iteInduction (fun _ => h) fun _ => iteInduction (fun _ => iteInduction (fun _ => ?_) fun _ => h) fun _ => ?_
    · exact conclude_ok _ _ _ h (performScratch_ok _ _ _ _ h)
    split
    · exact iteInduction (motive := MemoryOk) (fun _ => conclude_ok _ _ _ h trivial) fun _ => h
    · exact iteInduction (motive := MemoryOk) (fun _ => meetHome_ok _ _ _ _ h) fun _ => forwardD_ok _ _ h
    · refine iteInduction (fun _ => meetHome_ok _ _ _ _ h) fun _ => iteInduction (fun _ => h) fun _ => iteInduction (fun _ => conclude_ok _ _ _ h trivial) fun _ => ?_
      split
      · exact iteInduction (motive := MemoryOk) (fun _ => meetHome_ok _ _ _ _ h) fun _ => send_ok _ _ h
      · exact h
theorem execRead_ok (id : Nat) (s : State) (h : MemoryOk s) : ∀ t, execRead id s = .next t → MemoryOk t := by
  exact event_ok _ s (by intro s h; apply requestEvent_ok; assumption) h
theorem execWrite_ok (id : Nat) (s : State) (h : MemoryOk s) : ∀ t, execWrite id s = .next t → MemoryOk t := by
  exact event_ok _ s (by intro s h; apply requestEvent_ok; assumption) h
theorem execAtomic_ok (id : Nat) (s : State) (h : MemoryOk s) : ∀ t, execAtomic id s = .next t → MemoryOk t := by
  exact event_ok _ s (by intro s h; apply requestEvent_ok; assumption) h
theorem execSignalAddition_ok (id : Nat) (s : State) (h : MemoryOk s) : ∀ t, execSignalAddition id s = .next t → MemoryOk t := by
  exact event_ok _ s (by intro s h; apply requestEvent_ok; assumption) h
theorem execFwd_ok (id : Nat) (s : State) (h : MemoryOk s) : ∀ t, execFwd id s = .next t → MemoryOk t := by
  refine event_ok _ s (fun s h => ?_) h
  split
  · split
    · refine travel_ok _ _ _ _ _ h fun s h => ?_
      rename_i r _ _ _ pa _ _ 
      have c := conclude_ok s r ((performHome (deviceUse s r.who.tasid r.acc.addr.toNat (r.acc.kind != .load)) r.who r.acc r.seq pa).undo s) h
        (Res.undo_ok _ _ h (performHome_ok _ _ _ _ _ (deviceUse_ok _ _ _ _ h)))
      dsimp only
      split
      · exact putReq_ok _ _ c
      · exact c
    · exact h
  · exact h
theorem execFwdans_ok (id : Nat) (s : State) (h : MemoryOk s) : ∀ t, execFwdans id s = .next t → MemoryOk t := by
  exact event_ok _ s (by intro s h; grind [MemoryOk.upd, MemoryOk.foldl, travel_ok, event_ok, putReq_ok]) h
theorem fillAnswered_ok (s : State) (r : Req) (h : MemoryOk s) : MemoryOk (fillAnswered s r) := by
  unfold fillAnswered
  grind [MemoryOk.upd, MemoryOk.foldl, fillFrom_ok]
theorem execResp_ok (id : Nat) (s : State) (h : MemoryOk s) : ∀ t, execResp id s = .next t → MemoryOk t := by
  exact event_ok _ s (by intro s h; grind [MemoryOk.upd, MemoryOk.foldl, travel_ok, event_ok, putReq_ok, fillAnswered_ok]) h
theorem execAck_ok (id : Nat) (s : State) (h : MemoryOk s) : ∀ t, execAck id s = .next t → MemoryOk t := by
  exact event_ok _ s (by intro s h; grind [MemoryOk.upd, MemoryOk.foldl, travel_ok, event_ok, dropReq_ok, fillAnswered_ok]) h
theorem fillTable_ok (s : State) (k : Nat) (r : Nat) (v : Nat) (fault : Option LoadMark) (h : MemoryOk s) : MemoryOk (fillTable s k r v fault) := by
  unfold fillTable
  grind [MemoryOk.upd, MemoryOk.foldl, putEngine_ok]
theorem execLoadCompletion_ok (id : Nat) (s : State) (h : MemoryOk s) : ∀ t, execLoadCompletion id s = .next t → MemoryOk t := by
  exact event_ok _ s (by intro s h; grind [MemoryOk.upd, MemoryOk.foldl, putAgent_ok, event_ok, dropReq_ok, fillTable_ok]) h
theorem execProducerCompletion_ok (id : Nat) (s : State) (h : MemoryOk s) : ∀ t, execProducerCompletion id s = .next t → MemoryOk t := by
  exact event_ok _ s (by intro s h; grind [MemoryOk.upd, MemoryOk.foldl, putAgent_ok, event_ok]) h
theorem markerStep_ok (s : State) (m : Marker) (h : MemoryOk s) : MemoryOk (markerStep s m) := by
  unfold markerStep
  extract_lets put go
  have hp : ∀ s f, MemoryOk s → MemoryOk (put s f) := fun s f h => h
  have hg : ∀ p t, go p = some t → MemoryOk t := by
    intro p t e
    by_cases c : p.path.length > 1
    · exact forward_ok s p h t (by simpa [go, c] using e)
    · by_cases d : mayLeave s p
      · have e' : put (takeOff s p m.id) (fun x => { x with arrived := x.arrived + 1 }) = t := by simpa [go, c, d] using e
        exact e' ▸ hp _ _ (takeOff_ok _ _ _ h)
      · simp [go, c, d] at e
  clear_value put go
  split
  · rename_i t e
    obtain ⟨p, _, e⟩ := List.exists_of_findSome?_eq_some e
    exact hg _ _ e
  · split
    · exact iteInduction (motive := MemoryOk) (fun _ => h) fun _ => hp _ _ (send_ok _ _ h)
    · exact h
theorem execMarker_ok (id : Nat) (s : State) (h : MemoryOk s) : ∀ t, execMarker id s = .next t → MemoryOk t := by
  exact event_ok _ s (by intro s h; grind [MemoryOk.upd, MemoryOk.foldl, event_ok, markerStep_ok]) h
theorem execMarkerack_ok (id : Nat) (s : State) (h : MemoryOk s) : ∀ t, execMarkerack id s = .next t → MemoryOk t := by
  exact event_ok _ s (by intro s h; grind [MemoryOk.upd, MemoryOk.foldl, travel_ok, event_ok]) h
theorem execInval_ok (id : Nat) (s : State) (h : MemoryOk s) : ∀ t, execInval id s = .next t → MemoryOk t := by
  exact event_ok _ s (by intro s h; grind [MemoryOk.upd, MemoryOk.foldl, dropLines_ok, travel_ok, event_ok]) h
theorem execInvalack_ok (id : Nat) (s : State) (h : MemoryOk s) : ∀ t, execInvalack id s = .next t → MemoryOk t := by
  exact event_ok _ s (by intro s h; grind [MemoryOk.upd, MemoryOk.foldl, travel_ok, event_ok]) h
theorem execLdS_ok (f : FormS) (s : State) (h : MemoryOk s) : ∀ t, execLdS f s = .next t → MemoryOk t := by
  exact fun t e => issueS_ok (fun c hc => bodyLd_ok c hc) h e
theorem execLd_ok (f : FormL) (s : State) (h : MemoryOk s) : ∀ t, execLd f s = .next t → MemoryOk t := by
  exact fun t e => issueL_ok (fun c hc => bodyLd_ok c hc) h e
theorem execStS_ok (f : FormS) (s : State) (h : MemoryOk s) : ∀ t, execStS f s = .next t → MemoryOk t := by
  exact fun t e => issueS_ok (fun c hc => bodySt_ok c hc) h e
theorem execSt_ok (f : FormL) (s : State) (h : MemoryOk s) : ∀ t, execSt f s = .next t → MemoryOk t := by
  exact fun t e => issueL_ok (fun c hc => bodySt_ok c hc) h e
theorem execLdsS_ok (f : FormS) (s : State) (h : MemoryOk s) : ∀ t, execLdsS f s = .next t → MemoryOk t := by
  exact fun t e => issueS_ok (fun c hc => bodyLds_ok c hc) h e
theorem execLds_ok (f : FormL) (s : State) (h : MemoryOk s) : ∀ t, execLds f s = .next t → MemoryOk t := by
  exact fun t e => issueL_ok (fun c hc => bodyLds_ok c hc) h e
theorem execStsS_ok (f : FormS) (s : State) (h : MemoryOk s) : ∀ t, execStsS f s = .next t → MemoryOk t := by
  exact fun t e => issueS_ok (fun c hc => bodySts_ok c hc) h e
theorem execSts_ok (f : FormL) (s : State) (h : MemoryOk s) : ∀ t, execSts f s = .next t → MemoryOk t := by
  exact fun t e => issueL_ok (fun c hc => bodySts_ok c hc) h e
theorem execLdlS_ok (f : FormS) (s : State) (h : MemoryOk s) : ∀ t, execLdlS f s = .next t → MemoryOk t := by
  exact fun t e => issueS_ok (fun c hc => bodyLdl_ok c hc) h e
theorem execLdl_ok (f : FormL) (s : State) (h : MemoryOk s) : ∀ t, execLdl f s = .next t → MemoryOk t := by
  exact fun t e => issueL_ok (fun c hc => bodyLdl_ok c hc) h e
theorem execStlS_ok (f : FormS) (s : State) (h : MemoryOk s) : ∀ t, execStlS f s = .next t → MemoryOk t := by
  exact fun t e => issueS_ok (fun c hc => bodyStl_ok c hc) h e
theorem execStl_ok (f : FormL) (s : State) (h : MemoryOk s) : ∀ t, execStl f s = .next t → MemoryOk t := by
  exact fun t e => issueL_ok (fun c hc => bodyStl_ok c hc) h e
theorem execAtom_ok (f : FormL) (s : State) (h : MemoryOk s) : ∀ t, execAtom f s = .next t → MemoryOk t := by
  exact fun t e => issueL_ok (fun c hc => bodyAtom_ok c hc) h e
theorem execAtoms_ok (f : FormL) (s : State) (h : MemoryOk s) : ∀ t, execAtoms f s = .next t → MemoryOk t := by
  exact fun t e => issueL_ok (fun c hc => bodyAtoms_ok c hc) h e
theorem execRed_ok (f : FormL) (s : State) (h : MemoryOk s) : ∀ t, execRed f s = .next t → MemoryOk t := by
  exact fun t e => issueL_ok (fun c hc => bodyRed_ok c hc) h e
theorem execFence_ok (f : FormL) (s : State) (h : MemoryOk s) : ∀ t, execFence f s = .next t → MemoryOk t := by
  exact fun t e => issueL_ok (fun c hc => bodyFence_ok c hc) h e
theorem execPref_ok (f : FormL) (s : State) (h : MemoryOk s) : ∀ t, execPref f s = .next t → MemoryOk t := by
  exact fun t e => issueL_ok (fun c hc => bodyPref_ok c hc) h e

/-! ### Sys2Proof/Machine/Collective.lean -/

theorem arrive_ok (o : Op) (c : Ctx') (mask : Nat) (ra : Nat) (rb : Nat) (h : MemoryOk c.s) : Go.Ok (arrive o c mask ra rb) := by
  unfold arrive
  grind [MemoryOk.upd, MemoryOk.foldl, Go.Ok, freeze_ok, Ctx'.upd_ok]
theorem bodySetpart_ok (c : Ctx') (h : MemoryOk c.s) : Go.Ok (bodySetpart c) := by
  unfold bodySetpart
  grind [MemoryOk.upd, MemoryOk.foldl, Go.Ok, arrive_ok]
theorem bodyTsync_ok (c : Ctx') (h : MemoryOk c.s) : Go.Ok (bodyTsync c) := by
  unfold bodyTsync
  grind [MemoryOk.upd, MemoryOk.foldl, Go.Ok, arrive_ok]
theorem afterFlags_ok (fl : Bool) (c : Ctx') (g : Go) (h : MemoryOk c.s) (h1 : Go.Ok g) : Go.Ok (afterFlags fl c g) := by
  unfold afterFlags
  grind [MemoryOk.upd, MemoryOk.foldl, Go.Ok]
theorem bodyVote_ok (c : Ctx') (h : MemoryOk c.s) : Go.Ok (bodyVote c) := by
  unfold bodyVote
  grind [MemoryOk.upd, MemoryOk.foldl, Go.Ok, arrive_ok, afterFlags_ok]
theorem bodyShfl_ok (c : Ctx') (h : MemoryOk c.s) : Go.Ok (bodyShfl c) := by
  unfold bodyShfl
  grind [MemoryOk.upd, MemoryOk.foldl, Go.Ok, arrive_ok]
theorem bodyTred_ok (c : Ctx') (h : MemoryOk c.s) : Go.Ok (bodyTred c) := by
  unfold bodyTred
  grind [MemoryOk.upd, MemoryOk.foldl, Go.Ok, arrive_ok, afterFlags_ok]
theorem bodyTscan_ok (c : Ctx') (h : MemoryOk c.s) : Go.Ok (bodyTscan c) := by
  unfold bodyTscan
  grind [MemoryOk.upd, MemoryOk.foldl, Go.Ok, arrive_ok]
theorem finishRdv_ok (s : State) (k : Nat) (o : Op) (f : FormL) (len : Nat) (r : Nat × BitVec 5) (h : MemoryOk s) : MemoryOk (finishRdv s k o f len r) := by
  unfold finishRdv
  split
  · exact h
  · exact settle_ok _ _ _ _ (putAgent_ok _ _ _ h)
theorem setPart_ok (s : State) (k : Nat) (ps : List (Nat × Agent)) (h : MemoryOk s) : ∀ t, setPart s k ps = some t → MemoryOk t := by
  intro t e
  unfold setPart at e
  grind [MemoryOk.upd, MemoryOk.foldl, putGroup_ok]
theorem mismatchFreeze_ok (s : State) (code : FCode) (k : Nat) (h : MemoryOk s) : MemoryOk (mismatchFreeze s code k) := by
  unfold mismatchFreeze
  grind [MemoryOk.upd, MemoryOk.foldl, putAgent_ok, freeze_ok]
theorem rendezvous_ok (k : Nat) (s : State) (h : MemoryOk s) : MemoryOk (rendezvous k s) := by
  unfold rendezvous
  split
  · exact h
  · split
    · split
      · exact MemoryOk.foldl (fun s j h => mismatchFreeze_ok _ _ _ h) _ h
      · extract_lets cl ps rs spent
        refine iteInduction (fun _ => MemoryOk.foldl (fun s j h => mismatchFreeze_ok _ _ _ h) _ h) fun _ => iteInduction (fun _ => h) fun _ => ?_
        have hs : MemoryOk spent := MemoryOk.foldl (fun s j h => modAgent_ok _ _ _ h) _ h
        split
        · exact MemoryOk.foldl (fun s j h => mismatchFreeze_ok _ _ _ h) _ h
        · rename_i t e
          refine MemoryOk.foldl (fun s j h => finishRdv_ok _ _ _ _ _ _ h) _ ?_
          split at e
          · exact setPart_ok _ _ _ hs _ e
          · cases e; exact hs
    · exact h
theorem execRendezvousCompletion_ok (k : Nat) (s : State) (h : MemoryOk s) : ∀ t, execRendezvousCompletion k s = .next t → MemoryOk t := by
  exact event_ok _ s (by intro s h; apply rendezvous_ok; assumption) h
theorem execSetpart_ok (f : FormL) (s : State) (h : MemoryOk s) : ∀ t, execSetpart f s = .next t → MemoryOk t := by
  exact fun t e => issueL_ok (fun c hc => bodySetpart_ok c hc) h e
theorem execVote_ok (f : FormL) (s : State) (h : MemoryOk s) : ∀ t, execVote f s = .next t → MemoryOk t := by
  exact fun t e => issueL_ok (fun c hc => bodyVote_ok c hc) h e
theorem execShfl_ok (f : FormL) (s : State) (h : MemoryOk s) : ∀ t, execShfl f s = .next t → MemoryOk t := by
  exact fun t e => issueL_ok (fun c hc => bodyShfl_ok c hc) h e
theorem execTred_ok (f : FormL) (s : State) (h : MemoryOk s) : ∀ t, execTred f s = .next t → MemoryOk t := by
  exact fun t e => issueL_ok (fun c hc => bodyTred_ok c hc) h e
theorem execTscan_ok (f : FormL) (s : State) (h : MemoryOk s) : ∀ t, execTscan f s = .next t → MemoryOk t := by
  exact fun t e => issueL_ok (fun c hc => bodyTscan_ok c hc) h e
theorem execTsync_ok (f : FormL) (s : State) (h : MemoryOk s) : ∀ t, execTsync f s = .next t → MemoryOk t := by
  exact fun t e => issueL_ok (fun c hc => bodyTsync_ok c hc) h e

/-! ### Sys2Proof/Machine/Barrier.lean -/

theorem delivering_ok (c : Ctx') (g : Go) (h : MemoryOk c.s) (h1 : Go.Ok g) : Go.Ok (delivering c g) := by
  unfold delivering
  grind [MemoryOk.upd, MemoryOk.foldl, Go.Ok, putAgent_ok, freeze_ok]
theorem barPhase_ok (s : State) (g : Nat) (h : MemoryOk s) : MemoryOk (barPhase s g) := by
  unfold barPhase
  grind [MemoryOk.upd, MemoryOk.foldl, modAgent_ok, putGroup_ok, finishWait_ok]
theorem barPhases_ok (s : State) (ks : List Nat) (h : MemoryOk s) : MemoryOk (barPhases s ks) := by
  unfold barPhases
  grind [MemoryOk.upd, MemoryOk.foldl, barPhase_ok]
theorem arriving_ok (c : Ctx') (g : State → Go) (h : MemoryOk c.s) (hg : ∀ s, MemoryOk s → Go.Ok (g s)) : Go.Ok (arriving c g) := by
  unfold arriving
  refine delivering_ok _ _ h ?_
  exact iteInduction (motive := Go.Ok) (fun _ => h) fun _ => iteInduction (motive := Go.Ok) (fun _ => h) fun _ => hg _ (Ctx'.upd_ok _ _ h)
theorem bodyBarArv_ok (c : Ctx') (h : MemoryOk c.s) : Go.Ok (bodyBarArv c) := arriving_ok c _ h fun _ h => h
theorem bodyBarSync_ok (c : Ctx') (h : MemoryOk c.s) : Go.Ok (bodyBarSync c) := arriving_ok c _ h fun _ h => modAgent_ok _ _ _ h
theorem issueBar_ok {o : Op} {f : FormL} {body : Ctx' → Go} {s t : State} (hb : ∀ c, MemoryOk c.s → Go.Ok (body c)) (h : MemoryOk s)
    (e : issueBar o f body s = .next t) : MemoryOk t := by
  cases e; exact barPhases_ok _ _ (MemoryOk.foldl (fun s k h => issueOne_ok _ _ _ _ hb _ _ h) _ h)
theorem bodyBarWait_ok (c : Ctx') (h : MemoryOk c.s) : Go.Ok (bodyBarWait c) := by
  unfold bodyBarWait
  grind [MemoryOk.upd, MemoryOk.foldl, Go.Ok, endRegion_ok, Ctx'.upd_ok, delivering_ok]
theorem onObject_ok (c : Ctx') (g : List Nat → MbObj → Go) (h : MemoryOk c.s) (hg : ∀ l o, Go.Ok (g l o)) : Go.Ok (onObject c g) := by
  unfold onObject
  extract_lets off
  split
  · exact h
  · exact hg _ _
theorem mbOverrun_ok (c : Ctx') (locs : List Nat) (o : MbObj) (h : MemoryOk c.s) : Go.Ok (mbOverrun c locs o) := by
  unfold mbOverrun
  grind [MemoryOk.upd, MemoryOk.foldl, Go.Ok, freeze_ok, mbTouch_ok, mbPut_ok]
theorem bodyMbinit_ok (c : Ctx') (h : MemoryOk c.s) : Go.Ok (bodyMbinit c) := onObject_ok c _ h fun _ _ =>
  iteInduction (motive := Go.Ok) (fun _ => h) fun _ => iteInduction (motive := Go.Ok) (fun _ => h) fun _ => endRegion_ok _ _ (mbPut_ok _ _ _ (mbTouch_ok _ _ _ _ h))
theorem bodyMbarv_ok (c : Ctx') (h : MemoryOk c.s) : Go.Ok (bodyMbarv c) := onObject_ok c _ h fun l o => by
  refine iteInduction (motive := Go.Ok) (fun _ => mbOverrun_ok _ _ _ h) fun _ => iteInduction (motive := Go.Ok) (fun _ => h) fun _ => ?_
  have m := mbArrive_ok c.s (whoOf c.k c.a) l c.obj (low 32 c.vb) (low 32 c.vc) h
  split
  · rename_i e; exact m.1 _ e
  · rename_i e
    have r := endRegion_ok _ c.k (m.2 _ _ e)
    exact iteInduction (motive := MemoryOk) (fun _ => r) fun _ => produce_ok _ _ _ _ _ _ _ r
theorem phasePassed_ok (c : Ctx') (locs : List Nat) (o : MbObj) (r : Bool) (h : MemoryOk c.s) : MemoryOk (phasePassed c locs o r) := by
  unfold phasePassed
  grind [MemoryOk.upd, MemoryOk.foldl, modAgent_ok, endRegion_ok, acquire_ok, mbTouch_ok, mbPut_ok]
theorem bodyMbtest_ok (c : Ctx') (h : MemoryOk c.s) : Go.Ok (bodyMbtest c) := onObject_ok c _ h fun _ _ =>
  iteInduction (motive := Go.Ok) (fun _ => h) fun _ => phasePassed_ok _ _ _ _ h
theorem bodyMbwait_ok (c : Ctx') (h : MemoryOk c.s) : Go.Ok (bodyMbwait c) := onObject_ok c _ h fun _ _ =>
  iteInduction (motive := Go.Ok) (fun _ => h) fun _ => iteInduction (motive := Go.Ok) (fun _ => phasePassed_ok _ _ _ _ h) fun _ =>
    modAgent_ok _ _ _ (mbPut_ok _ _ _ (mbTouch_ok _ _ _ _ h))
theorem bodyMbdrop_ok (c : Ctx') (h : MemoryOk c.s) : Go.Ok (bodyMbdrop c) := onObject_ok c _ h fun _ _ =>
  iteInduction (motive := Go.Ok) (fun _ => mbOverrun_ok _ _ _ h) fun _ => iteInduction (motive := Go.Ok) (fun _ => h) fun _ =>
    endRegion_ok _ _ (mbSettle_ok _ _ _ (mbRelease_ok _ _ _ (mbTouch_ok _ _ _ _ h)))
theorem execMbwaitLimitExpiry_ok (k : Nat) (s : State) (h : MemoryOk s) : ∀ t, execMbwaitLimitExpiry k s = .next t → MemoryOk t := by
  exact event_ok _ s (by intro s h; grind [MemoryOk.upd, MemoryOk.foldl, finishWait_ok, event_ok]) h
theorem execBarSync_ok (f : FormL) (s : State) (h : MemoryOk s) : ∀ t, execBarSync f s = .next t → MemoryOk t := fun t e => issueBar_ok (fun c hc => bodyBarSync_ok c hc) h e
theorem execBarArv_ok (f : FormL) (s : State) (h : MemoryOk s) : ∀ t, execBarArv f s = .next t → MemoryOk t := fun t e => issueBar_ok (fun c hc => bodyBarArv_ok c hc) h e
theorem execBarWait_ok (f : FormL) (s : State) (h : MemoryOk s) : ∀ t, execBarWait f s = .next t → MemoryOk t := by
  exact fun t e => issueL_ok (fun c hc => bodyBarWait_ok c hc) h e
theorem execMbinit_ok (f : FormL) (s : State) (h : MemoryOk s) : ∀ t, execMbinit f s = .next t → MemoryOk t := by
  exact fun t e => issueL_ok (fun c hc => bodyMbinit_ok c hc) h e
theorem execMbarv_ok (f : FormL) (s : State) (h : MemoryOk s) : ∀ t, execMbarv f s = .next t → MemoryOk t := by
  exact fun t e => issueL_ok (fun c hc => bodyMbarv_ok c hc) h e
theorem execMbwait_ok (f : FormL) (s : State) (h : MemoryOk s) : ∀ t, execMbwait f s = .next t → MemoryOk t := by
  exact fun t e => issueL_ok (fun c hc => bodyMbwait_ok c hc) h e
theorem execMbtest_ok (f : FormL) (s : State) (h : MemoryOk s) : ∀ t, execMbtest f s = .next t → MemoryOk t := by
  exact fun t e => issueL_ok (fun c hc => bodyMbtest_ok c hc) h e
theorem execMbdrop_ok (f : FormL) (s : State) (h : MemoryOk s) : ∀ t, execMbdrop f s = .next t → MemoryOk t := by
  exact fun t e => issueL_ok (fun c hc => bodyMbdrop_ok c hc) h e

end Sys2Proof.Machine
end

