-- ==== Sys2Proof/Laws/FormQueue.lean ====
section
/-!
SUPPORT. Sys2Proof/Laws/FormQueue.lean: the canonical form of memory is kept by queues, copies, triggers, launches, groups and work lists.
-/
namespace Sys2Proof.Machine

/-! ### Sys2Proof/Machine/Queue.lean -/

/-- The same of a signal addition. -/
def SigRes.Ok : SigRes → Prop | .done s _ => MemoryOk s | _ => True
/-- The same of an entry's completion action. -/
def Act.Ok : Act → Prop | .done s _ => MemoryOk s | _ => True
/-- The same of a row moved by a copy. -/
def Move.Ok : Move → Prop | .done s _ _ _ => MemoryOk s | _ => True
theorem setQueue_ok (s : State) (qk : Nat) (q : Queue) (h : MemoryOk s) : MemoryOk (setQueue s qk q) := by
  unfold setQueue
  grind [MemoryOk.upd, MemoryOk.foldl, putQueue_ok, deviceWrite_ok]
theorem modQueue_ok (s : State) (qk : Nat) (f : Queue → Queue) (h : MemoryOk s) : MemoryOk (modQueue s qk f) := by
  unfold modQueue
  grind [MemoryOk.upd, MemoryOk.foldl, setQueue_ok]
theorem modHead_ok (s : State) (qk : Nat) (f : Head → Head) (h : MemoryOk s) : MemoryOk (modHead s qk f) := by
  unfold modHead
  grind [MemoryOk.upd, MemoryOk.foldl, putQueue_ok]
theorem pushEntry_ok (s : State) (qk : Nat) (img : Nat) (m : EntryMeta) (h : MemoryOk s) : MemoryOk (pushEntry s qk img m) := by
  unfold pushEntry
  grind [MemoryOk.upd, MemoryOk.foldl, putQueue_ok, deviceWrite_ok, setQueue_ok]
theorem startHead_ok (s : State) (qk : Nat) (q : Queue) (h : MemoryOk s) : ∀ t hd, startHead s qk q = some (t, hd) → MemoryOk t := by
  intro t hd e
  unfold startHead at e
  split at e
  · cases e
  · rename_i f; cases e; exact putQueue_ok _ _ _ (freshUid_ok _ (deviceFetch_ok _ _ _ _ h _ _ f))
theorem finishHead_ok (s : State) (qk : Nat) (code : Nat) (h : MemoryOk s) : MemoryOk (finishHead s qk code) := by
  unfold finishHead
  grind [MemoryOk.upd, MemoryOk.foldl, modHead_ok]
theorem headCode_ok (s : State) (qk : Nat) (code : Nat) (h : MemoryOk s) : MemoryOk (headCode s qk code) := by
  unfold headCode
  grind [MemoryOk.upd, MemoryOk.foldl, modHead_ok]
theorem addSignal_ok (s : State) (w : Who) (va val : Nat) (h : MemoryOk s) : SigRes.Ok (addSignal s w va val) := by
  unfold addSignal
  split
  · trivial
  · have l := locate_ok s w.place w.tasid va .rmw 8 h
    split
    · trivial
    · trivial
    · trivial
    · split
      · rename_i e; exact logWrite_ok _ _ _ _ h _ e
      · trivial
    · rename_i pa home leaf t e
      rw [e] at l
      refine iteInduction (fun _ => trivial) fun _ => iteInduction (fun _ => trivial) fun _ => ?_
      · have r := performPhys_ok _ w (addAccess va val) 0 pa home leaf (invalidateFor_ok t pa none l)
        split
        · rename_i e; rw [e] at r; exact r
        · trivial
theorem stopEntry_ok (s : State) (qk : Nat) (q : Queue) (num : Nat) (code : FCode) (addr : Nat) (x0 : Nat) (x1 : Nat) (t : Target) (h : MemoryOk s) : MemoryOk (stopEntry s qk q num code addr x0 x1 t) := by
  unfold stopEntry
  grind [MemoryOk.upd, MemoryOk.foldl, queueRec_ok, modQueue_ok]
theorem addToken_ok (s : State) (ck : Nat) (tok : Nat) (clk : Clock) (h : MemoryOk s) : MemoryOk (addToken s ck tok clk) := by
  unfold addToken
  grind [MemoryOk.upd, MemoryOk.foldl, putCSet_ok]
theorem completionAction_ok (s : State) (q : Queue) (h : Head) (hs : MemoryOk s) : Act.Ok (completionAction s q h) := by
  unfold completionAction
  extract_lets m comp
  refine iteInduction (fun _ => hs) fun _ => ?_
  split
  · rename_i va _
    have a := addSignal_ok s h.who va 1 hs
    split
    · rename_i e; rw [e] at a; exact a
    · trivial
    · exact hs
    · trivial
    · exact hs
  · refine iteInduction (fun _ => ?_) fun _ => hs
    split
    · exact hs
    · refine iteInduction (fun _ => addToken_ok _ _ _ _ hs) fun _ => iteInduction (fun _ => hs) fun _ => ?_
      split
      · exact mbDecrement_ok _ _ _ _ hs
      · exact hs
theorem retireEntry_ok (s : State) (qk : Nat) (q : Queue) (h : Head) (code : Nat) (hs : MemoryOk s) : MemoryOk (retireEntry s qk q h code) := by
  unfold retireEntry
  extract_lets m s1 bad d st s2 x m3 s3
  have h3 : MemoryOk s3 := by
    have h2 : MemoryOk s2 := setQueue_ok _ _ _ (deviceWrite_ok _ _ _ _ _ hs)
    exact iteInduction (motive := MemoryOk) (fun _ => putDie_ok _ _ _ h2) fun _ => h2
  exact iteInduction (motive := MemoryOk) (fun _ => deliverTo_ok _ _ _ h3) fun _ => h3
theorem markHomes_ok (s : State) (w : Who) (homes : List Nat) (h : MemoryOk s) : MemoryOk (markHomes s w homes) := by
  unfold markHomes
  grind [MemoryOk.upd, MemoryOk.foldl, putMarker_ok]
theorem completeEntry_ok (qk : Nat) (s : State) (h : MemoryOk s) : MemoryOk (completeEntry qk s) := by
  unfold completeEntry
  split
  · exact h
  · split
    · exact h
    · rename_i q _ _ hd _
      refine iteInduction (fun _ => h) fun _ => iteInduction (fun _ => markHomes_ok _ _ _ (modHead_ok _ _ _ h)) fun _ => ?_
      have a := completionAction_ok s q hd h
      split
      · exact h
      · exact stopEntry_ok _ _ _ _ _ _ _ _ _ h
      · rename_i e
        rw [e] at a
        split
        · exact retireEntry_ok _ _ _ _ _ a
        · exact a
theorem raiseFlags_ok (s : State) (qk : Nat) (issuer : Option (Nat × Nat)) (num : Nat) (fl : BitVec 5) (h : MemoryOk s) : MemoryOk (raiseFlags s qk issuer num fl) := by
  unfold raiseFlags
  grind [MemoryOk.upd, MemoryOk.foldl, deliverTo_ok, setQueue_ok]
theorem ofBulk_ok {b : Bulk} (h : Bulk.Ok b) (w : Bool) : Move.Ok (ofBulk b w) := by cases b <;> exact h
theorem readEnd_ok (s : State) (w : Who) (e : Endpoint) (scratch : Bool) (addr n : Nat) (h : MemoryOk s) : Move.Ok (readEnd s w e scratch addr n) := by
  unfold readEnd
  refine iteInduction (fun _ => h) fun _ => iteInduction (fun _ => ofBulk_ok (readRange_ok _ _ _ _ h) _) fun _ => ?_
  split
  · trivial
  · trivial
  · split
    · trivial
    · rename_i l _
      have p := performScratch_ok s w (scratchEngine .load l 0) 0 h
      split
      · rename_i e; rw [e] at p; exact p
      · trivial
theorem writeEnd_ok (s : State) (w : Who) (e : Endpoint) (scratch : Bool) (addr : Nat) (data : List Byte) (bad : Bool) (h : MemoryOk s) :
    Move.Ok (writeEnd s w e scratch addr data bad) := by
  unfold writeEnd
  refine iteInduction (fun _ => h) fun _ => iteInduction (fun _ => ofBulk_ok (writeRange_ok s w (addr % 2 ^ 64) data h) true) fun _ => ?_
  split
  · trivial
  · trivial
  · split
    · trivial
    · rename_i l _
      have p := performScratch_ok s w (scratchEngine .store l (ofBytes data)) 0 h
      split
      · rename_i e; rw [e] at p; exact iteInduction (motive := MemoryOk) (fun _ => p) fun _ => p
      · trivial
theorem movePiece_ok (s : State) (w : Who) (e : Endpoint) (img : Nat) (p : Nat × Nat × Nat) (h : MemoryOk s) : Move.Ok (movePiece s w e img p) := by
  unfold movePiece
  have r := readEnd_ok s w e (bitN img 8) p.1 p.2.2 h
  split
  · rename_i t data po _ g
    rw [g] at r
    have u := writeEnd_ok t w e (bitN img 9) p.2.1 data po r
    split
    · rename_i g; rw [g] at u; exact u
    · exact u
  · exact r
theorem moveRows_ok (s : State) (w : Who) (e : Endpoint) (img : Nat) (rows : List (Nat × Nat × Nat)) (h : MemoryOk s) : Move.Ok (moveRows s w e img rows).1 := by
  unfold moveRows
  suffices g : ∀ (f : Move × List Nat → Nat × Nat × Nat → Move × List Nat) (_ : ∀ m r, Move.Ok m.1 → Move.Ok (f m r).1) (l : List (Nat × Nat × Nat)) (m : Move × List Nat),
      Move.Ok m.1 → Move.Ok (l.foldl f m).1 by
    refine g _ ?_ _ _ h
    intro m row hm
    obtain ⟨m, bad⟩ := m
    dsimp only
    split
    · rename_i t _ _ _
      have r := movePiece_ok t w e img row hm
      split
      · rename_i g; rw [g] at r; exact r
      · exact r
    · exact hm
  intro f hf l
  induction l with
  | nil => exact fun _ h => h
  | cons x l ih => exact fun m h => ih _ (hf m x h)
theorem served_ok (s : State) (qk : Nat) (h : MemoryOk s) : MemoryOk (served s qk) := by
  unfold served
  grind [MemoryOk.upd, MemoryOk.foldl, putBase_ok]
theorem skipRest_ok (s : State) (qk code : Nat) (h : MemoryOk s) : MemoryOk (runBox.skipRest s qk code) := by
  unfold runBox.skipRest
  extract_lets mine s1 s2
  exact finishHead_ok _ _ _ (modQueue_ok _ _ _ (MemoryOk.upd (updateCaps_ok s mine (fun c => { c with valid := false }) h)))
theorem runBox_ok (qk n : Nat) (s : State) (h : MemoryOk s) : MemoryOk (runBox qk n s) := by
  unfold runBox
  split
  · exact h
  · split
    · exact h
    · rename_i q _ _ hd _
      refine iteInduction (fun _ => h) fun _ => ?_
      extract_lets homes
      have m := moveRows_ok s hd.who (endpoint s (entMeta q hd.num)) hd.img (boxRows hd.img n) h
      generalize moveRows s hd.who (endpoint s (entMeta q hd.num)) hd.img (boxRows hd.img n) = x at m ⊢
      obtain ⟨x, new⟩ := x
      dsimp only at m ⊢
      split
      · have hc : ∀ (c : Bool) code u, MemoryOk u → MemoryOk (if c = true then headCode u qk code else u) := fun c code u hu =>
          iteInduction (motive := MemoryOk) (fun _ => headCode_ok _ _ _ hu) fun _ => hu
        exact modHead_ok _ _ _ (poisonLines_ok _ _ _ _ (hc _ _ _ (hc _ _ _ m)))
      · exact h
      · exact modHead_ok _ _ _ (stopEntry_ok _ _ _ _ _ _ _ _ _ h)
      · exact skipRest_ok _ _ _ h
      · exact skipRest_ok _ _ _ h
      · exact skipRest_ok _ _ _ h
theorem execQueueEntryStart_ok (qk : Nat) (s : State) (h : MemoryOk s) : ∀ t, execQueueEntryStart qk s = .next t → MemoryOk t := by
  refine event_ok _ s (fun s h => ?_) h
  split
  · exact h
  · refine iteInduction (fun _ => h) fun _ => ?_
    split
    · exact h
    · rename_i e
      have t := startHead_ok _ _ _ h _ _ e
      exact iteInduction (motive := MemoryOk) (fun _ => iteInduction (motive := MemoryOk) (fun _ => finishHead_ok _ _ _ t) fun _ =>
        iteInduction (motive := MemoryOk) (fun _ => finishHead_ok _ _ _ t) fun _ => t) fun _ => t
theorem execCopyBox_ok (qk n : Nat) (s : State) (h : MemoryOk s) : ∀ t, execCopyBox qk n s = .next t → MemoryOk t :=
  event_ok _ s (fun _ h => iteInduction (motive := MemoryOk) (fun _ => h) fun _ => served_ok _ _ (runBox_ok _ _ _ h)) h
theorem execEntryCompletion_ok (qk : Nat) (s : State) (h : MemoryOk s) : ∀ t, execEntryCompletion qk s = .next t → MemoryOk t := by
  exact event_ok _ s (by intro s h; apply completeEntry_ok; assumption) h
theorem execJoinMarkerCompletion_ok (qk : Nat) (s : State) (h : MemoryOk s) : ∀ t, execJoinMarkerCompletion qk s = .next t → MemoryOk t := by
  exact event_ok _ s (by intro s h; grind [MemoryOk.upd, MemoryOk.foldl, event_ok, modHead_ok, finishHead_ok]) h
theorem loadQueue_ok (s : State) (asid qid : Nat) (h : MemoryOk s) : ∀ q t, loadQueue s asid qid = some (q, t) → MemoryOk t := by
  intro q t e
  unfold loadQueue at e
  split at e
  · cases e
  · extract_lets va at e
    split at e
    · cases e
    · split at e
      · cases e
      · rename_i f
        split at e
        · cases e
        · cases e; exact deviceFetch_ok _ _ _ _ h _ _ f
theorem execQueueEnable_ok (qk : Nat) (s : State) (h : MemoryOk s) : ∀ t, execQueueEnable qk s = .next t → MemoryOk t := by
  refine event_ok _ s (fun s h => ?_) h
  split
  · exact iteInduction (motive := MemoryOk) (fun _ => setQueue_ok _ _ _ h) fun _ => iteInduction (motive := MemoryOk) (fun _ => h) fun _ => setQueue_ok _ _ _ h
  · split
    · rename_i e; exact setQueue_ok _ _ _ (loadQueue_ok _ _ _ h _ _ e)
    · exact h
theorem execQueueDisable_ok (qk : Nat) (s : State) (h : MemoryOk s) : ∀ t, execQueueDisable qk s = .next t → MemoryOk t := by
  exact event_ok _ s (by intro s h; grind [MemoryOk.upd, MemoryOk.foldl, event_ok, modQueue_ok]) h
theorem execQueueErrClear_ok (qk : Nat) (s : State) (h : MemoryOk s) : ∀ t, execQueueErrClear qk s = .next t → MemoryOk t := by
  exact event_ok _ s (by intro s h; grind [MemoryOk.upd, MemoryOk.foldl, event_ok, modQueue_ok]) h
theorem execDoorbellWrite_ok (master : Nat) (asid : Nat) (qid : Nat) (v : DWord) (s : State) (h : MemoryOk s) : ∀ t, execDoorbellWrite master asid qid v s = .next t → MemoryOk t := by
  exact event_ok _ s (by intro s h; grind [MemoryOk.upd, MemoryOk.foldl, deviceWrite_ok, event_ok, setQueue_ok]) h
theorem putTrig_ok (s : State) (t : Trig) (h : MemoryOk s) : MemoryOk (putTrig s t) := by
  unfold putTrig
  grind [MemoryOk.upd, MemoryOk.foldl]
theorem dropTrig_ok (s : State) (id : Nat) (h : MemoryOk s) : MemoryOk (dropTrig s id) := by
  unfold dropTrig
  grind [MemoryOk.upd, MemoryOk.foldl]
theorem pushTrig_ok (s : State) (t : Trig) (h : MemoryOk s) : MemoryOk (pushTrig s t) := by
  unfold pushTrig
  grind [MemoryOk.upd, MemoryOk.foldl, pushEntry_ok, putTrig_ok, dropTrig_ok]
theorem fireTrig_ok (s : State) (t : Trig) (h : MemoryOk s) : MemoryOk (fireTrig s t) := by
  unfold fireTrig
  split
  rename_i uid s1 e1
  extract_lets place clk w stop
  have h1 : MemoryOk s1 := by have := freshUid_ok s h; rw [e1] at this; exact this
  have hs : ∀ code va, MemoryOk (stop code va) := fun _ _ => queueRec_ok _ _ (putTrig_ok _ _ h1)
  have r := readRange_ok s1 w t.image.toNat 64 h1
  split
  · rename_i e; rw [e] at r; exact pushTrig_ok _ _ r
  · exact hs _ _
  · exact hs _ _
  · exact h1
theorem execTriggerFire_ok (id : Nat) (s : State) (h : MemoryOk s) : ∀ t, execTriggerFire id s = .next t → MemoryOk t := by
  exact event_ok _ s (by intro s h; grind [MemoryOk.upd, MemoryOk.foldl, event_ok, fireTrig_ok]) h
theorem execTriggerEntryPush_ok (id : Nat) (s : State) (h : MemoryOk s) : ∀ t, execTriggerEntryPush id s = .next t → MemoryOk t := by
  exact event_ok _ s (by intro s h; grind [MemoryOk.upd, MemoryOk.foldl, event_ok, pushTrig_ok]) h
theorem execQwaitLimitExpiry_ok (k : Nat) (s : State) (h : MemoryOk s) : ∀ t, execQwaitLimitExpiry k s = .next t → MemoryOk t := by
  exact event_ok _ s (by intro s h; grind [MemoryOk.upd, MemoryOk.foldl, finishWait_ok, event_ok]) h
theorem releasing_ok (c : Ctx') (g : State → Agent → Go) (h : MemoryOk c.s) (hg : ∀ s a, MemoryOk s → Go.Ok (g s a)) : Go.Ok (releasing c g) := by
  unfold releasing
  extract_lets s a
  have hs : MemoryOk s := sendMarkers_ok _ _ _ _ h
  exact iteInduction (motive := Go.Ok) (fun _ => hs) fun _ => hg _ _ (putAgent_ok _ _ _ hs)
theorem queueError_ok (c : Ctx') (h : MemoryOk c.s) : Go.Ok (queueError c) := by
  unfold queueError
  grind [MemoryOk.upd, MemoryOk.foldl, Go.Ok, freeze_ok]
theorem readOnce_ok (c : Ctx') (va n : Nat) (h : MemoryOk c.s) : Sum.Ok (readOnce c va n) := by
  unfold readOnce
  split
  · exact h
  · exact readNow_ok _ _ _ h
theorem pushOr_ok (c : Ctx') (s : State) (qk img : Nat) (m : EntryMeta) (read : Option Nat) (h : MemoryOk c.s) (hs : MemoryOk s) :
    Go.Ok (pushOr c s qk img m read) := by
  unfold pushOr
  split
  · refine iteInduction (motive := Go.Ok) (fun _ => h) fun _ => iteInduction (motive := Go.Ok) (fun _ => ?_) fun _ => ?_
    · exact iteInduction (motive := MemoryOk) (fun _ => modAgent_ok _ _ _ hs) fun _ => h
    · exact iteInduction (motive := MemoryOk) (fun _ => modAgent_ok _ _ _ (pushEntry_ok _ _ _ _ hs)) fun _ => pushEntry_ok _ _ _ _ hs
  · exact h
theorem bodyTrdy_ok (c : Ctx') (h : MemoryOk c.s) : Go.Ok (bodyTrdy c) := by
  unfold bodyTrdy
  refine iteInduction (motive := Go.Ok) (fun _ => h) fun _ => releasing_ok c _ h fun s a h => ?_
  show MemoryOk _
  split
  · exact addToken_ok _ _ _ _ h
  · exact h
theorem checkSignal_ok (s : State) (k : Nat) (a : Agent) (va : Nat) (h : MemoryOk s) : ∀ t, checkSignal s k a va = .ok t → MemoryOk t := by
  intro t e
  unfold checkSignal at e
  split at e
  · cases e
  · have l := locate_ok s (placeOf k a) a.tasid va .load 1 h
    split at e
    · rename_i g
      rw [g] at l
      split at e <;> cases e
      exact l
    all_goals cases e
    all_goals exact h
theorem pushCopy_ok (c : Ctx') (img : Nat) (read : Option Nat) (h : MemoryOk c.s) : Go.Ok (pushCopy c img read) := by
  unfold pushCopy
  extract_lets stamped qk comp cmpv fits c'
  iterate 4 (refine iteInduction (motive := Go.Ok) (fun _ => h) fun _ => ?_)
  split
  · exact h
  · iterate 3 (refine iteInduction (motive := Go.Ok) (fun _ => h) fun _ => ?_)
    refine releasing_ok _ _ ?_ fun s a hs => pushOr_ok _ _ _ _ _ _ hs hs
    exact iteInduction (motive := MemoryOk) (fun _ => modAgent_ok _ _ _ h) fun _ => h
theorem bodyCpy_ok (c : Ctx') (h : MemoryOk c.s) : Go.Ok (bodyCpy c) := by
  unfold bodyCpy
  grind [MemoryOk.upd, MemoryOk.foldl, Go.Ok, pushCopy_ok]
theorem bodyCpyt_ok (c : Ctx') (h : MemoryOk c.s) : Go.Ok (bodyCpyt c) := by
  unfold bodyCpyt
  refine iteInduction (motive := Go.Ok) (fun _ => h) fun _ => ?_
  have r := readOnce_ok c c.va 64 h
  split
  · rename_i e; rw [e] at r; exact r
  · rename_i e; rw [e] at r; exact pushCopy_ok _ _ _ r
theorem bodyQsig_ok (c : Ctx') (h : MemoryOk c.s) : Go.Ok (bodyQsig c) := by
  unfold bodyQsig
  grind [MemoryOk.upd, MemoryOk.foldl, Go.Ok, endRegion_ok, freeze_ok, issueReq_ok, sendMarkers_ok]
theorem bodyQwait_ok (c : Ctx') (h : MemoryOk c.s) : Go.Ok (bodyQwait c) := by
  unfold bodyQwait
  extract_lets va reached
  have hr : ∀ s, MemoryOk s → MemoryOk (reached s) := fun _ h => modAgent_ok _ _ _ h
  clear_value reached
  refine iteInduction (fun _ => hr _ h) fun _ => delivering_ok _ _ h ?_
  split
  · exact h
  · exact h
  · rename_i e
    have hs := checkSignal_ok _ _ _ _ h _ e
    exact iteInduction (motive := Go.Ok) (fun _ => hr _ (endRegion_ok _ _ hs)) fun _ => modAgent_ok _ _ _ hs
theorem bodyQfence_ok (c : Ctx') (h : MemoryOk c.s) : Go.Ok (bodyQfence c) := by
  unfold bodyQfence
  grind [MemoryOk.upd, MemoryOk.foldl, Go.Ok, queueError_ok, pushOr_ok]
theorem bodyTrig_ok (c : Ctx') (h : MemoryOk c.s) : Go.Ok (bodyTrig c) := by
  unfold bodyTrig
  split
  · exact h
  · exact h
  · extract_lets home
    refine iteInduction (fun _ => h) fun _ => iteInduction (fun _ => h) fun _ => noteUpdates_ok _ ?_
    refine MemoryOk.upd (freshId_ok _ ?_)
    split
    · rename_i e; exact checkSignal_ok _ _ _ _ h _ e
    · exact h
theorem execTrdy_ok (f : FormL) (s : State) (h : MemoryOk s) : ∀ t, execTrdy f s = .next t → MemoryOk t := by
  exact fun t e => issueL_ok (fun c hc => bodyTrdy_ok c hc) h e
theorem execCpy_ok (f : FormL) (s : State) (h : MemoryOk s) : ∀ t, execCpy f s = .next t → MemoryOk t := by
  exact fun t e => issueL_ok (fun c hc => bodyCpy_ok c hc) h e
theorem execCpyt_ok (f : FormL) (s : State) (h : MemoryOk s) : ∀ t, execCpyt f s = .next t → MemoryOk t := by
  exact fun t e => issueL_ok (fun c hc => bodyCpyt_ok c hc) h e
theorem execQsig_ok (f : FormL) (s : State) (h : MemoryOk s) : ∀ t, execQsig f s = .next t → MemoryOk t := by
  exact fun t e => issueL_ok (fun c hc => bodyQsig_ok c hc) h e
theorem execQwait_ok (f : FormL) (s : State) (h : MemoryOk s) : ∀ t, execQwait f s = .next t → MemoryOk t := by
  exact fun t e => issueL_ok (fun c hc => bodyQwait_ok c hc) h e
theorem execQfence_ok (f : FormL) (s : State) (h : MemoryOk s) : ∀ t, execQfence f s = .next t → MemoryOk t := by
  exact fun t e => issueL_ok (fun c hc => bodyQfence_ok c hc) h e
theorem execTrig_ok (f : FormL) (s : State) (h : MemoryOk s) : ∀ t, execTrig f s = .next t → MemoryOk t := by
  exact fun t e => issueL_ok (fun c hc => bodyTrig_ok c hc) h e

/-! ### Sys2Proof/Machine/Kernel.lean -/

theorem MemoryOk.optFoldl {α : Type} {f : Option State → α → Option State} (hf : ∀ o x, (∀ t, o = some t → MemoryOk t) → ∀ t, f o x = some t → MemoryOk t) :
    ∀ (l : List α) {o : Option State}, (∀ t, o = some t → MemoryOk t) → ∀ t, l.foldl f o = some t → MemoryOk t
  | [], _, h => h
  | x :: l, _, h => MemoryOk.optFoldl hf l (hf _ x h)
theorem MemoryOk.optBind {o : Option State} {f : State → Option State} (h : ∀ t, o = some t → MemoryOk t) (hf : ∀ s, MemoryOk s → ∀ t, f s = some t → MemoryOk t) :
    ∀ t, o.bind f = some t → MemoryOk t := by
  intro t e
  cases o with
  | none => cases e
  | some s => exact hf s (h s rfl) t e
theorem MemoryOk.optMap {o : Option State} {f : State → State} (h : ∀ t, o = some t → MemoryOk t) (hf : ∀ s, MemoryOk s → MemoryOk (f s)) :
    ∀ t, o.map f = some t → MemoryOk t := by
  intro t e
  cases o with
  | none => cases e
  | some s => cases e; exact hf s (h s rfl)
theorem MemoryOk.optGetD {o : Option State} {s : State} (h : ∀ t, o = some t → MemoryOk t) (hs : MemoryOk s) : MemoryOk (o.getD s) := by
  cases o with
  | none => exact hs
  | some t => exact h t rfl
theorem firstSome_ok {α : Type} {f : α → Option State} (hf : ∀ x t, f x = some t → MemoryOk t) : ∀ l t, firstSome f l = some t → MemoryOk t := by
  intro l
  induction l with
  | nil => intro t e; cases e
  | cons x l ih =>
    intro t e
    unfold firstSome at e
    split at e
    · rename_i g; cases e; exact hf x _ g
    · exact ih t e
theorem newThreads_ok (k : Kernel) (kern g base : Nat) : ∀ (n i : Nat) (s : State), MemoryOk s → MemoryOk (newThreads k kern g base s i n)
  | 0, _, _, h => h
  | n + 1, i, s, h => newThreads_ok k kern g base n (i + 1) _ (putAgent_ok _ _ _ (freshUid_ok s h))
theorem launchHead_ok (qk : Nat) (s : State) (h : MemoryOk s) : MemoryOk (launchHead qk s) := by
  unfold launchHead
  grind [MemoryOk.upd, MemoryOk.foldl, putCtx_ok, putKernel_ok, modHead_ok, finishHead_ok]
theorem clearSlice_ok (s : State) (lo n : Nat) (h : MemoryOk s) : MemoryOk (clearSlice s lo n) := ⟨h.1, Memory.wf_filter h.2 _⟩
theorem renewSet_ok (s : State) (ck : Nat) (h : MemoryOk s) : MemoryOk (renewSet s ck) := by
  unfold renewSet
  grind [MemoryOk.upd, MemoryOk.foldl]
theorem rekey_ok (s : State) (uid : Nat) (key : Nat) (h : MemoryOk s) : MemoryOk (rekey s uid key) := by
  unfold rekey
  grind [MemoryOk.upd, MemoryOk.foldl]
theorem returnTask_ok (s : State) (ck : Nat) (h : MemoryOk s) : MemoryOk (returnTask s ck) := by
  unfold returnTask
  grind [MemoryOk.upd, MemoryOk.foldl, putAgent_ok, putCluster_ok, modCtx_ok, rekey_ok]
theorem placeCSet_ok (s : State) (kern d cl : Nat) (k : Kernel) (h : MemoryOk s) : ∀ t, placeCSet s kern d cl k = some t → MemoryOk t := by
  intro t e
  unfold placeCSet at e
  extract_lets ck at e
  split at e
  · cases e
  · split at e
    · extract_lets va tasked back x s1 s2 at e
      split at e
      · cases e
      · have h1 : MemoryOk s1 := dropL1_ok _ _ _ _ (putCSet_ok _ _ _ (iteInduction (motive := MemoryOk) (fun _ => h) fun _ => renewSet_ok _ _ h))
        have h2 : MemoryOk s2 := by
          show MemoryOk (match kernel? s1 kern with | some y => _ | none => _)
          split
          · exact iteInduction (motive := MemoryOk) (fun _ => h1) fun _ => putKernel_ok _ _ _ h1
          · exact h1
        cases e
        refine returnTask_ok _ _ ?_
        split
        · exact MemoryOk.foldl (fun s x hs => deviceWrite_ok _ _ _ _ _ (deviceWrite_ok _ _ _ _ _ hs)) _ (setQueue_ok _ _ _ h2)
        · exact setQueue_ok _ _ _ h2
    · cases e
theorem placeOn_ok (s : State) (kern n cl : Nat) (k : Kernel) (h : MemoryOk s) : ∀ t, placeOn s kern n cl k = some t → MemoryOk t := by
  intro t e
  unfold placeOn at e
  extract_lets d ck placed at e
  split at e
  · cases e
  · split at e
    · cases e
    · rename_i u g
      have hu : MemoryOk u := by
        split at g
        · cases g; exact h
        · exact placeCSet_ok _ _ _ _ _ h _ g
      split at e
      · cases e
        exact newThreads_ok _ _ _ _ _ _ _ (putGroup_ok _ _ _ (clearSlice_ok _ _ _ hu))
      · cases e
theorem placeOne_ok (s : State) (kern n start : Nat) (k : Kernel) (c : Ctx) (h : MemoryOk s) : ∀ t, placeOne s kern n start k c = some t → MemoryOk t := by
  intro t e
  unfold placeOne at e
  extract_lets ck at e
  split at e
  · exact placeOn_ok _ _ _ _ _ h t e
  · split at e
    · cases e
    · exact firstSome_ok (fun x t e => placeOn_ok _ _ _ _ _ h t e) _ t e
theorem placeSet_ok (s : State) (kern : Nat) (gs : List Nat) (k : Kernel) (cl : Nat) (h : MemoryOk s) : ∀ t, placeSet s kern gs k cl = some t → MemoryOk t :=
  MemoryOk.optFoldl (fun _ _ ho => MemoryOk.optBind ho fun _ hs => placeOn_ok _ _ _ _ _ hs) _ fun t e => by cases e; exact h
theorem placeBlock_ok (s : State) (kern : Nat) (gs : List Nat) (d : Nat) (k : Kernel) (h : MemoryOk s) : ∀ t, placeBlock s kern gs d k = some t → MemoryOk t := by
  refine MemoryOk.optFoldl (fun o x ho => MemoryOk.optBind ho fun s hs t e => ?_) _ fun t e => by cases e; exact h
  dsimp only at e
  split at e
  · exact placeSet_ok _ _ _ _ _ hs t e
  · exact firstSome_ok (fun x t e => placeSet_ok _ _ _ _ _ hs t e) _ t e
theorem placeAll_ok (s : State) (kern start : Nat) (gs : List Nat) (k : Kernel) (c : Ctx) (h : MemoryOk s) : ∀ t, placeAll s kern start gs k c = some t → MemoryOk t := by
  intro t e
  unfold placeAll at e
  refine MemoryOk.optFoldl (fun o x ho => ?_) _ (fun t e => by cases e; exact h) t e
  exact MemoryOk.optBind ho fun s hs t e => firstSome_ok (fun x t e => placeBlock_ok _ _ _ _ _ hs t e) _ t e
theorem settleKernel_ok (s : State) (kern : Nat) (h : MemoryOk s) : MemoryOk (settleKernel s kern) := by
  unfold settleKernel
  grind [MemoryOk.upd, MemoryOk.foldl, putKernel_ok]
theorem modKernel_ok (s : State) (kern : Nat) (f : Kernel → Kernel) (h : MemoryOk s) : MemoryOk (modKernel s kern f) := by
  unfold modKernel
  grind [MemoryOk.upd, MemoryOk.foldl, putKernel_ok]
theorem placeNext_ok (s : State) (kern start : Nat) (h : MemoryOk s) : ∀ t, placeNext s kern start = some t → MemoryOk t := by
  intro t e
  unfold placeNext at e
  split at e
  · cases e
  · split at e
    · split at e
      · cases e
      · split at e
        · exact MemoryOk.optMap (placeAll_ok _ _ _ _ _ _ h) (fun s h => settleKernel_ok _ _ (modKernel_ok _ _ _ h)) t e
        · exact MemoryOk.optMap (placeOne_ok _ _ _ _ _ _ h) (fun s h => settleKernel_ok _ _ (modKernel_ok _ _ _ h)) t e
    · cases e
theorem execLaunchEntryHead_ok (qk : Nat) (s : State) (h : MemoryOk s) : ∀ t, execLaunchEntryHead qk s = .next t → MemoryOk t := by
  exact event_ok _ s (by intro s h; apply launchHead_ok; assumption) h
theorem execGroupPlacement_ok (kern start : Nat) (s : State) (h : MemoryOk s) : ∀ t, execGroupPlacement kern start s = .next t → MemoryOk t :=
  event_ok _ s (fun s h => MemoryOk.optGetD (placeNext_ok s kern start h) h) h
theorem saveGroup_ok (s : State) (g : Nat) (h : MemoryOk s) : MemoryOk (saveGroup s g) := by
  unfold saveGroup
  grind [MemoryOk.upd, MemoryOk.foldl, putGroup_ok, clearSlice_ok]
theorem restampEntries_ok (s : State) (ck : Nat) (cl : Nat) (h : MemoryOk s) : MemoryOk (restampEntries s ck cl) := by
  unfold restampEntries
  grind [MemoryOk.upd, MemoryOk.foldl, deviceWrite_ok, modHead_ok]
theorem restoreGroup_ok (s : State) (g : Nat) (h : MemoryOk s) : ∀ t, restoreGroup s g = some t → MemoryOk t := by
  intro t e
  unfold restoreGroup at e
  split at e
  · cases e
  · split at e
    · extract_lets q at e
      split at e
      extract_lets at e
      split at e
      · cases e
      · cases e
        refine MemoryOk.foldl (fun s x hs => rekey_ok _ _ _ (putAgent_ok _ _ _ hs)) _ (putGroup_ok _ _ _ ?_)
        exact ⟨h.1, Memory.wf_foldSet (Memory.wf_filter h.2 _) _ _ _⟩
    · cases e
theorem applyDecs_ok (s : State) (ck : Nat) (h : MemoryOk s) : MemoryOk (applyDecs s ck) := by
  refine MemoryOk.foldl (fun s x hs => ?_) _ h
  extract_lets mine
  refine iteInduction (motive := MemoryOk) (fun _ => hs) fun _ => ?_
  extract_lets s1
  have h1 : MemoryOk s1 := MemoryOk.foldl (fun s d hs => by
    split
    · exact mbDecrement_ok _ _ _ _ hs
    · exact hs) _ hs
  split
  · exact putQueue_ok _ _ _ h1
  · exact h1
theorem restoreCSetOn_ok (s : State) (ck cl : Nat) (h : MemoryOk s) : ∀ t, restoreCSetOn s ck cl = some t → MemoryOk t := by
  intro t e
  unfold restoreCSetOn at e
  split at e
  · cases e
  · split at e
    · cases e
    · split at e
      · cases e
      · rename_i g
        have hs := placeCSet_ok _ _ _ _ _ h _ g
        refine MemoryOk.optMap (MemoryOk.optFoldl (fun o x ho => MemoryOk.optBind ho fun s hs => restoreGroup_ok _ _ hs) _ fun t e => ?_)
          (fun s h => settleKernel_ok _ _ (applyDecs_ok _ _ (restampEntries_ok _ _ _ h))) t e
        cases e
        exact hs
theorem restoreCSet_ok (s : State) (ck start : Nat) (h : MemoryOk s) : ∀ t, restoreCSet s ck start = some t → MemoryOk t :=
  fun t e => firstSome_ok (fun x t e => restoreCSetOn_ok _ _ _ h t e) _ t e
theorem releaseCSet_ok (s : State) (ck : Nat) (h : MemoryOk s) : MemoryOk (releaseCSet s ck) := by
  unfold releaseCSet
  grind [MemoryOk.upd, MemoryOk.foldl, putCSet_ok, modQueue_ok]
theorem execWeakGroupSave_ok (g : Nat) (s : State) (h : MemoryOk s) : ∀ t, execWeakGroupSave g s = .next t → MemoryOk t := by
  exact event_ok _ s (by intro s h; grind [MemoryOk.upd, MemoryOk.foldl, event_ok, settleKernel_ok, saveGroup_ok, releaseCSet_ok]) h
theorem execGroupRestore_ok (g start : Nat) (s : State) (h : MemoryOk s) : ∀ t, execGroupRestore g start s = .next t → MemoryOk t := by
  refine event_ok _ s (fun s h => ?_) h
  split
  · exact iteInduction (motive := MemoryOk) (fun _ => MemoryOk.optGetD (restoreCSet_ok _ _ _ h) h) fun _ => h
  · exact h
theorem endThread_ok (s : State) (k : Nat) (h : MemoryOk s) : MemoryOk (endThread s k) := by
  unfold endThread
  grind [MemoryOk.upd, MemoryOk.foldl, putAgent_ok, putGroup_ok, putKernel_ok, endRegion_ok, barPhase_ok]
theorem flushTask_ok (s : State) (qk : Nat) (n : Nat) (h : MemoryOk s) : MemoryOk (flushTask s qk n) := by
  unfold flushTask
  grind [MemoryOk.upd, MemoryOk.foldl, deliverTo_ok, deviceWrite_ok, modQueue_ok, queueError_ok]
theorem skipFlushed_ok (qk : Nat) : ∀ (n : Nat) (s : State), MemoryOk s → MemoryOk (skipFlushed s qk n)
  | 0, _, h => h
  | n + 1, s, h => by
    unfold skipFlushed
    split
    · exact iteInduction (motive := MemoryOk) (fun _ => skipFlushed_ok qk n _ (setQueue_ok _ _ _ h)) fun _ => h
    · exact h
theorem freeCSet_ok (s : State) (ck : Nat) (h : MemoryOk s) : MemoryOk (freeCSet s ck) := by
  unfold freeCSet
  grind [MemoryOk.upd, MemoryOk.foldl]
theorem retireCSet_ok (s : State) (ck : Nat) (h : MemoryOk s) : MemoryOk (retireCSet s ck) := by
  unfold retireCSet
  split
  · exact h
  · rename_i c _
    extract_lets qk s1 s2 s3
    have h1 : MemoryOk s1 := putCSet_ok _ _ _ h
    have h2 : MemoryOk s2 := by
      show MemoryOk (match queue? s1 qk with | some q => _ | none => _)
      split
      · exact iteInduction (motive := MemoryOk) (fun _ => putQueue_ok _ _ _ h1) fun _ => h1
      · exact h1
    clear_value s1 s2
    refine freeCSet_ok _ _ ?_
    show MemoryOk (match queue? s2 qk with | some q => _ | none => _)
    split
    · extract_lets first t1 t2 mine t3
      have ht : MemoryOk t2 := skipFlushed_ok _ _ _ (MemoryOk.foldl (fun s n h => flushTask_ok _ _ _ h) _ h2)
      have h3 : MemoryOk t3 := MemoryOk.foldl (fun s n h => conclude_ok _ _ .prot h trivial) _ ht
      exact iteInduction (motive := MemoryOk) (fun _ => ht) fun _ => putEngine_ok _ _ _ (putCSet_ok _ _ _ h3)
    · exact h2
theorem execGroupRetirement_ok (g : Nat) (s : State) (h : MemoryOk s) : ∀ t, execGroupRetirement g s = .next t → MemoryOk t := by
  exact event_ok _ s (by intro s h; grind [MemoryOk.upd, MemoryOk.foldl, putKernel_ok, putCSet_ok, event_ok, modHead_ok, retireCSet_ok]) h
theorem execKernelRetirement_ok (kern : Nat) (s : State) (h : MemoryOk s) : ∀ t, execKernelRetirement kern s = .next t → MemoryOk t := by
  refine event_ok _ s (fun s h => ?_) h
  split
  · exact h
  · refine iteInduction (motive := MemoryOk) (fun _ => h) fun _ => ?_
    rename_i k _ _
    extract_lets gone drop src t fin
    have hg : ∀ s, MemoryOk s → MemoryOk (gone s) := fun s hs => hs
    split
    · exact hg _ h
    · rename_i q hd _
      refine iteInduction (motive := MemoryOk) (fun _ => h) fun _ => ?_
      have ht : MemoryOk t := modHead_ok _ _ _ (putKernel_ok _ _ _ (hg _ h))
      have hf : ∀ s code, MemoryOk s → MemoryOk (fin s code) := fun s code hs => finishHead_ok _ _ _ (hg _ hs)
      refine iteInduction (motive := MemoryOk) (fun _ => hf _ _ ht) fun _ => ?_
      have a := addSignal_ok t hd.who k.signal 1 ht
      split
      · rename_i e; rw [e] at a; exact hf _ _ a
      · exact ht
      · exact stopEntry_ok _ _ _ _ _ _ _ _ _ ht
      · exact hf _ _ ht
theorem abortKernel_ok (s : State) (kern : Nat) (h : MemoryOk s) : MemoryOk (abortKernel s kern) := by
  unfold abortKernel
  grind [MemoryOk.upd, MemoryOk.foldl, updateCaps_ok]
theorem putList_ok (s : State) (kern : Nat) (d : Nat) (l : WList) (h : MemoryOk s) : MemoryOk (putList s kern d l) := by
  unfold putList
  grind [MemoryOk.upd, MemoryOk.foldl]
theorem finishTake_ok (s : State) (uid : Nat) (item : Option (DWord × List Rel)) (h : MemoryOk s) : MemoryOk (finishTake s uid item) := by
  unfold finishTake
  split
  · split
    · exact h
    · exact settle_ok _ _ _ _ (putAgent_ok _ _ _ h : MemoryOk _)
  · exact MemoryOk.optGetD (modSaved_ok _ _ _ h) h
theorem execAppendArrival_ok (id : Nat) (s : State) (h : MemoryOk s) : ∀ t, execAppendArrival id s = .next t → MemoryOk t := by
  exact event_ok _ s (by intro s h; grind [MemoryOk.upd, MemoryOk.foldl, freeze_ok, finishWait_ok, event_ok, queueError_ok, putList_ok, finishTake_ok]) h
theorem execQuiescence_ok (kern : Nat) (s : State) (h : MemoryOk s) : ∀ t, execQuiescence kern s = .next t → MemoryOk t := by
  exact event_ok _ s (by intro s h; grind [MemoryOk.upd, MemoryOk.foldl, putKernel_ok, event_ok, finishTake_ok]) h
theorem bodyLaunch_ok (c : Ctx') (h : MemoryOk c.s) : Go.Ok (bodyLaunch c) := by
  unfold bodyLaunch
  refine iteInduction (motive := Go.Ok) (fun _ => h) fun _ => ?_
  have r := readOnce_ok c c.va 64 h
  split
  · rename_i e; rw [e] at r; exact r
  · rename_i e; rw [e] at r; exact pushOr_ok _ _ _ _ _ _ h r
theorem bodyAppend_ok (c : Ctx') (h : MemoryOk c.s) : Go.Ok (bodyAppend c) := by
  unfold bodyAppend
  grind [MemoryOk.upd, MemoryOk.foldl, Go.Ok, modAgent_ok, freshId_ok, queueError_ok]
theorem bodyWltake_ok (c : Ctx') (h : MemoryOk c.s) : Go.Ok (bodyWltake c) := by
  unfold bodyWltake
  grind [MemoryOk.upd, MemoryOk.foldl, Go.Ok, modAgent_ok, Ctx'.upd_ok, queueError_ok, putList_ok]
theorem execAppend_ok (f : FormL) (s : State) (h : MemoryOk s) : ∀ t, execAppend f s = .next t → MemoryOk t := by
  exact fun t e => issueL_ok (fun c hc => bodyAppend_ok c hc) h e
theorem execWltake_ok (f : FormL) (s : State) (h : MemoryOk s) : ∀ t, execWltake f s = .next t → MemoryOk t := by
  exact fun t e => issueL_ok (fun c hc => bodyWltake_ok c hc) h e
theorem execLaunch_ok (f : FormL) (s : State) (h : MemoryOk s) : ∀ t, execLaunch f s = .next t → MemoryOk t := by
  exact fun t e => issueL_ok (fun c hc => bodyLaunch_ok c hc) h e

end Sys2Proof.Machine
end

