-- ==== Sys2Proof/Laws/FormTile.lean ====
section
/-!
SUPPORT. Sys2Proof/Laws/FormTile.lean: the canonical form of memory is kept by the matrix and MASH engines.
-/
namespace Sys2Proof.Machine

/-! ### Sys2Proof/Machine/Tile.lean -/

theorem MemoryOk.foldlVia {α β : Type} {f : β → α → β} {st : β → State} (hf : ∀ b x, MemoryOk (st b) → MemoryOk (st (f b x))) :
    ∀ (l : List α) {b : β}, MemoryOk (st b) → MemoryOk (st (l.foldl f b))
  | [], _, h => h
  | x :: l, _, h => MemoryOk.foldlVia hf l (hf _ x h)
theorem engineRead_ok (f : Fetch) (w : Who) (c : CSet) (offs : List Nat) (h : MemoryOk f.s) : MemoryOk (engineRead f w c offs).1.s := by
  unfold engineRead
  extract_lets locs
  have p := performScratch_ok f.s w (scratchEngine .load locs 0) 0 h
  split
  · exact h
  · split
    · rename_i e; rw [e] at p; exact p
    · exact h
theorem fetchTile_ok (s : State) (w : Who) (c : CSet) (t fmt acct k0 k ktot : Nat) (h : MemoryOk s) : MemoryOk (fetchTile s w c t fmt acct k0 k ktot).s := by
  unfold fetchTile
  extract_lets wd off str b0 w0 w1
  refine MemoryOk.foldlVia (st := Fetch.s) (fun f r hf => ?_) _ h
  have h1 := engineRead_ok f w c (upFrom (off + r * str + k0 * wd / 8) (k * wd / 8)) hf
  dsimp only
  split
  · exact engineRead_ok _ _ _ _ h1
  · exact h1
theorem fetchView_ok (s : State) (w : Who) (c : CSet) (x : View) (fmt p0 k0 k : Nat) (h : MemoryOk s) : MemoryOk (fetchView s w c x fmt p0 k0 k).s := by
  unfold fetchView
  extract_lets wd
  refine MemoryOk.foldlVia (st := Fetch.s) (fun f i hf => ?_) _ h
  exact engineRead_ok f w c _ hf
theorem taskHead_ok (qk : Nat) (s : State) (h : MemoryOk s) : MemoryOk (taskHead qk s) := by
  unfold taskHead
  split
  · exact h
  · refine iteInduction (fun _ => h) fun _ => iteInduction (fun _ => skipFlushed_ok _ _ _ h) fun _ => ?_
    split
    · rename_i e _
      have t := startHead_ok _ _ _ h _ _ e
      refine iteInduction (fun _ => t) fun _ => iteInduction (fun _ => finishHead_ok _ _ _ t) fun _ => ?_
      split
      · exact t
      · exact finishHead_ok _ _ _ t
    · exact h
theorem execTaskHead_ok (qk : Nat) (s : State) (h : MemoryOk s) : ∀ t, execTaskHead qk s = .next t → MemoryOk t := by
  exact event_ok _ s (by intro s h; apply taskHead_ok; assumption) h
theorem startTask_ok (s : State) (cl : Nat) (qk : Nat) (q : Queue) (h : Head) (c : CSet) (hok : MemoryOk s) : MemoryOk (startTask s cl qk q h c) := by
  unfold startTask
  grind [MemoryOk.upd, MemoryOk.foldl, putAgent_ok, putCluster_ok, freshUid_ok, modHead_ok]
theorem execTaskAdmission_ok (cl : Nat) (s : State) (h : MemoryOk s) : ∀ t, execTaskAdmission cl s = .next t → MemoryOk t := by
  exact event_ok _ s (by intro s h; grind [MemoryOk.upd, MemoryOk.foldl, event_ok, startTask_ok]) h
theorem endTask_ok (s : State) (k code : Nat) (h : MemoryOk s) : MemoryOk (endTask s k code) := by
  unfold endTask
  split
  · exact h
  · rename_i a _
    extract_lets cl sm em s1
    have h1 : MemoryOk s1 := putEngine_ok _ _ _ (MemoryOk.upd (sendMarkers_ok s k _ _ h))
    split
    · exact h1
    · split
      · exact h1
      · extract_lets s2
        have h2 : MemoryOk s2 := retireEntry_ok _ _ _ _ _ h1
        split
        · exact iteInduction (motive := MemoryOk) (fun _ => h2) fun _ => freeCSet_ok _ _ (MemoryOk.foldl (fun s n h => flushTask_ok _ _ _ h) _ h2)
        · exact h2
theorem mulStep_ok (s : State) (cl qk num : Nat) (issuer : Option (Nat × Nat)) (c : CSet) (r : SeqRec) (k : Nat) (h : MemoryOk s) :
    MemoryOk (mulStep s cl qk num issuer c r k) := by
  unfold mulStep
  extract_lets e f acct n pair a b ktot k0 fa fb fresh old poison
  have ha : MemoryOk fa.s := by
    show MemoryOk (Fetch.s (match aSource r.opc r.m with | 0 => _ | 1 => _ | _ => _))
    split
    · exact fetchTile_ok _ _ _ _ _ _ _ _ _ h
    · exact fetchView_ok _ _ _ _ _ _ _ _ h
    · exact h
  have hb : MemoryOk fb.s := fetchTile_ok _ _ _ _ _ _ _ _ _ ha
  clear_value fa fb old
  split
  extract_lets
  exact raiseFlags_ok _ _ _ _ _ (putEngine_ok _ _ _ hb)
theorem drainAside_ok (s : State) (k hm : Nat) (w : Who) (seq : Nat) (a : Access) (log : Bool) (h : MemoryOk s) :
    MemoryOk (drainAside s k hm w seq a log) := by
  unfold drainAside
  refine MemoryOk.foldl (fun s i h => ?_) _ h
  extract_lets n x
  split
  · rename_i e
    split at e
    · exact logWrite_ok _ _ _ _ h _ e
    · cases e
  · exact modAgent_ok _ _ _ h
theorem drainGlobal_ok (s : State) (k : Nat) (r : SeqRec) (bad : Bool) (va : Nat) (data : List Byte) (h : MemoryOk s) :
    ∀ t b, drainGlobal s k r bad va data = some (t, b) → MemoryOk t := by
  suffices g : ∀ (f : Option (State × Bool) → Nat × Nat → Option (State × Bool)) (_ : ∀ o p, (∀ x, o = some x → MemoryOk x.1) → ∀ x, f o p = some x → MemoryOk x.1)
      (l : List (Nat × Nat)) (o : Option (State × Bool)), (∀ x, o = some x → MemoryOk x.1) → ∀ x, l.foldl f o = some x → MemoryOk x.1 by
    intro t b e
    refine g _ (fun o p ho x e => ?_) _ _ (fun x e => by cases e; exact h) _ e
    cases o with
    | none => cases e
    | some y =>
      have hy := ho y rfl
      obtain ⟨s1, race⟩ := y
      rw [Option.bind_some] at e
      extract_lets bytes st acc at e
      dsimp -zeta only at e
      extract_lets fault at e
      have hfault : ∀ c x, fault c = some x → MemoryOk x.1 := fun c x e => by cases e; exact storeFault_ok _ _ _ _ _ _ _ _ _ hy
      have l := locate_ok s1 r.who.place r.who.tasid p.1 .store p.2 hy
      split at e
      · cases e
      · exact hfault _ _ e
      · exact hfault _ _ e
      · cases e; exact drainAside_ok _ _ _ _ _ _ _ hy
      · rename_i pa home leaf s' g
        rw [g] at l
        split at e
        · cases e; exact drainAside_ok _ _ _ _ _ _ _ hy
        split at e
        · cases e
        · have p := performPhys_ok _ r.who acc 0 pa home leaf (invalidateFor_ok s' pa r.who.place.die l)
          split at e
          · rename_i g
            rw [g] at p
            cases e
            exact p
          · cases e
  intro f hf l
  induction l with
  | nil => exact fun _ h => h
  | cons x l ih => exact fun o h => ih _ (hf o x h)
theorem drain_ok (s : State) (cl k qk num : Nat) (issuer : Option (Nat × Nat)) (c? : Option CSet) (r : SeqRec) (h : MemoryOk s) :
    MemoryOk (drain s cl k qk num issuer c? r) := by
  unfold drain
  extract_lets e n bad
  split
  extract_lets len done str
  have hd : ∀ s race, MemoryOk s → MemoryOk (done s race) := fun s race h => raiseFlags_ok _ _ _ _ _ (putEngine_ok _ _ _ h)
  refine iteInduction (motive := MemoryOk) (fun _ => ?_) fun _ => ?_
  · split
    · rename_i g; exact hd _ _ (drainGlobal_ok _ _ _ _ _ _ h _ _ g)
    · exact h
  · split
    · exact h
    · split
      rename_i s' race g
      refine hd _ _ ?_
      rw [show s' = (s', race).1 from rfl, ← g]
      refine MemoryOk.foldlVia (st := fun x : State × Bool => x.1) (fun st x hs => ?_) _ h
      extract_lets locs
      have p := performScratch_ok st.1 r.who (scratchEngine .store locs (ofBytes x.2)) 0 hs
      split
      · rename_i e; rw [e] at p; exact iteInduction (motive := MemoryOk) (fun _ => p) fun _ => p
      · exact hs
theorem drainByp_ok (s : State) (cl : Nat) (qk : Nat) (num : Nat) (issuer : Option (Nat × Nat)) (r : SeqRec) (h : MemoryOk s) : MemoryOk (drainByp s cl qk num issuer r) := by
  unfold drainByp
  grind [MemoryOk.upd, MemoryOk.foldl, putEngine_ok, raiseFlags_ok]
theorem engineStep_ok (s : State) (cl : Nat) (h : MemoryOk s) : MemoryOk (engineStep s cl) := by
  unfold engineStep
  grind [MemoryOk.upd, MemoryOk.foldl, putEngine_ok, storeFault_ok, mulStep_ok, drain_ok, drainByp_ok]
theorem execMatrixKStep_ok (cl : Nat) (s : State) (h : MemoryOk s) : ∀ t, execMatrixKStep cl s = .next t → MemoryOk t := by
  exact event_ok _ s (by intro s h; apply engineStep_ok; assumption) h
theorem execMatrixOperationAccept_ok (cl : Nat) (s : State) (h : MemoryOk s) : ∀ t, execMatrixOperationAccept cl s = .next t → MemoryOk t := by
  exact event_ok _ s (by intro s h; grind [MemoryOk.upd, MemoryOk.foldl, putEngine_ok, finishWait_ok, event_ok]) h
theorem enterEngine_ok (c : Ctx') (r : SeqRec) (h : MemoryOk c.s) : Go.Ok (enterEngine c r) := by
  unfold enterEngine
  grind [MemoryOk.upd, MemoryOk.foldl, Go.Ok, modAgent_ok, putEngine_ok, Ctx'.upd_ok]
theorem issueMul_ok (c : Ctx') (opc a : Nat) (h : MemoryOk c.s) : Go.Ok (issueMul c opc a) := by
  unfold issueMul
  extract_lets
  split
  · exact h
  · exact h
  · split
    · exact h
    · extract_lets
      refine iteInduction (motive := Go.Ok) (fun _ => h) fun _ => ?_
      split
      · exact h
      · exact h
      · split
        · exact h
        · exact enterEngine_ok _ _ h
theorem bodyMma_ok (c : Ctx') (h : MemoryOk c.s) : Go.Ok (bodyMma c) := by
  unfold bodyMma
  grind [MemoryOk.upd, MemoryOk.foldl, Go.Ok, issueMul_ok]
theorem bodyMmac_ok (c : Ctx') (h : MemoryOk c.s) : Go.Ok (bodyMmac c) := by
  unfold bodyMmac
  grind [MemoryOk.upd, MemoryOk.foldl, Go.Ok, issueMul_ok]
theorem bodyMmab_ok (c : Ctx') (h : MemoryOk c.s) : Go.Ok (bodyMmab c) := by
  unfold bodyMmab
  grind [MemoryOk.upd, MemoryOk.foldl, Go.Ok, issueMul_ok]
theorem bodyTmac_ok (c : Ctx') (h : MemoryOk c.s) : Go.Ok (bodyTmac c) := by
  unfold bodyTmac
  grind [MemoryOk.upd, MemoryOk.foldl, Go.Ok, issueMul_ok]
theorem bodyTzero_ok (c : Ctx') (h : MemoryOk c.s) : Go.Ok (bodyTzero c) := by
  unfold bodyTzero
  grind [MemoryOk.upd, MemoryOk.foldl, Go.Ok, enterEngine_ok]
theorem bodyTdrn_ok (c : Ctx') (h : MemoryOk c.s) : Go.Ok (bodyTdrn c) := by
  unfold bodyTdrn
  grind [MemoryOk.upd, MemoryOk.foldl, Go.Ok, freeze_ok, enterEngine_ok]
theorem bodyTdrnb_ok (c : Ctx') (h : MemoryOk c.s) : Go.Ok (bodyTdrnb c) := by
  unfold bodyTdrnb
  grind [MemoryOk.upd, MemoryOk.foldl, Go.Ok, freeze_ok, enterEngine_ok]
theorem bodyTfmt_ok (c : Ctx') (h : MemoryOk c.s) : Go.Ok (bodyTfmt c) := by
  unfold bodyTfmt
  grind [MemoryOk.upd, MemoryOk.foldl, Go.Ok, putEngine_ok]
theorem tableLoad_ok (c : Ctx') (n : Nat) (h : MemoryOk c.s) : Go.Ok (tableLoad c n) := by
  unfold tableLoad
  grind [MemoryOk.upd, MemoryOk.foldl, Go.Ok, freeze_ok, issueReq_ok]
theorem bodyTct_ok (c : Ctx') (h : MemoryOk c.s) : Go.Ok (bodyTct c) := by
  unfold bodyTct
  grind [MemoryOk.upd, MemoryOk.foldl, Go.Ok, tableLoad_ok]
theorem bodyTcfg_ok (c : Ctx') (h : MemoryOk c.s) : Go.Ok (bodyTcfg c) := by
  unfold bodyTcfg
  grind [MemoryOk.upd, MemoryOk.foldl, Go.Ok, tableLoad_ok]
theorem taskWait_ok (c : Ctx') (o : Op) (g : State → Go) (h : MemoryOk c.s) (hg : ∀ s, MemoryOk s → Go.Ok (g s)) : Go.Ok (taskWait c o g) := by
  unfold taskWait
  extract_lets go
  have hgo : ∀ s, MemoryOk s → Go.Ok (go s) := fun s h => iteInduction (motive := Go.Ok) (fun _ => hg _ h) fun _ => h
  exact iteInduction (motive := Go.Ok) (fun _ => hgo _ h) fun _ => delivering_ok c _ h (hgo _ (modAgent_ok _ _ _ h))
theorem bodyTwait_ok (c : Ctx') (h : MemoryOk c.s) : Go.Ok (bodyTwait c) := taskWait_ok c _ _ h fun _ h => modAgent_ok _ _ _ h
theorem bodyTflg_ok (c : Ctx') (h : MemoryOk c.s) : Go.Ok (bodyTflg c) := by
  unfold bodyTflg
  grind [MemoryOk.upd, MemoryOk.foldl, Go.Ok, modAgent_ok, setQueue_ok]
theorem readCont_ok (s : State) (qk cont : Nat) (q : Queue) (clk : Clock) (h : MemoryOk s) : ∀ t code, readCont s qk cont q clk = some (t, code) → MemoryOk t := by
  intro t code e
  unfold readCont at e
  split at e
  rename_i uid s1 e1
  have h1 : MemoryOk s1 := by have := freshUid_ok s h; rw [e1] at this; exact this
  extract_lets place w at e
  have r := readRange_ok s1 w cont 64 h1
  split at e
  · rename_i g; rw [g] at r; cases e; exact modQueue_ok _ _ _ r
  · cases e; exact queueRec_ok _ _ (freshId_ok _ h1)
  · cases e
  · cases e; exact h1
theorem bodyEndt_ok (c : Ctx') (h : MemoryOk c.s) : Go.Ok (bodyEndt c) := by
  unfold bodyEndt
  refine taskWait_ok c _ _ h fun s1 h1 => ?_
  refine releasing_ok _ _ h1 fun s a hs => ?_
  extract_lets e join
  refine iteInduction (motive := Go.Ok) (fun _ => endTask_ok _ _ _ hs) fun _ => iteInduction (motive := Go.Ok) (fun _ => hs) fun _ => ?_
  have l := locate_ok s (placeOf c.k a) a.tasid join .rmw 8 hs
  split
  · exact hs
  · exact hs
  · exact hs
  · exact hs
  · rename_i pa home leaf s' g
    rw [g] at l
    refine iteInduction (motive := Go.Ok) (fun _ => hs) fun _ => ?_
    extract_lets old acc
    refine iteInduction (motive := Go.Ok) (fun _ => hs) fun _ => ?_
    have p := performPhys_ok _ (whoOf c.k a) acc a.seq pa home leaf (invalidateFor_ok s' pa none l)
    split
    · rename_i t _ _ _ g
      rw [g] at p
      refine iteInduction (motive := Go.Ok) (fun _ => endTask_ok _ _ _ p) fun _ => iteInduction (motive := Go.Ok) (fun _ => ?_) fun _ => endTask_ok _ _ _ p
      split
      · split
        · rename_i g; exact endTask_ok _ _ _ (readCont_ok _ _ _ _ _ p _ _ g)
        · exact hs
      · exact endTask_ok _ _ _ p
    · exact hs
theorem execContinuationPush_ok (qk : Nat) (s : State) (h : MemoryOk s) : ∀ t, execContinuationPush qk s = .next t → MemoryOk t := by
  exact event_ok _ s (by intro s h; grind [MemoryOk.upd, MemoryOk.foldl, putQueue_ok, event_ok, pushEntry_ok]) h
theorem bodyTaskpush_ok (c : Ctx') (h : MemoryOk c.s) : Go.Ok (bodyTaskpush c) := by
  unfold bodyTaskpush
  refine iteInduction (motive := Go.Ok) (fun _ => h) fun _ => ?_
  have r := readOnce_ok c c.ea 64 h
  split
  · rename_i e; rw [e] at r; exact r
  · rename_i e _; rw [e] at r; exact pushOr_ok _ _ _ _ _ _ h r
  · exact queueError_ok c h
theorem execTaskpush_ok (f : FormL) (s : State) (h : MemoryOk s) : ∀ t, execTaskpush f s = .next t → MemoryOk t := by
  exact fun t e => issueL_ok (fun c hc => bodyTaskpush_ok c hc) h e
theorem execTfmt_ok (f : FormL) (s : State) (h : MemoryOk s) : ∀ t, execTfmt f s = .next t → MemoryOk t := by
  exact fun t e => issueL_ok (fun c hc => bodyTfmt_ok c hc) h e
theorem execTct_ok (f : FormL) (s : State) (h : MemoryOk s) : ∀ t, execTct f s = .next t → MemoryOk t := by
  exact fun t e => issueL_ok (fun c hc => bodyTct_ok c hc) h e
theorem execTcfg_ok (f : FormL) (s : State) (h : MemoryOk s) : ∀ t, execTcfg f s = .next t → MemoryOk t := by
  exact fun t e => issueL_ok (fun c hc => bodyTcfg_ok c hc) h e
theorem execTzero_ok (f : FormL) (s : State) (h : MemoryOk s) : ∀ t, execTzero f s = .next t → MemoryOk t := by
  exact fun t e => issueL_ok (fun c hc => bodyTzero_ok c hc) h e
theorem execMma_ok (f : FormL) (s : State) (h : MemoryOk s) : ∀ t, execMma f s = .next t → MemoryOk t := by
  exact fun t e => issueL_ok (fun c hc => bodyMma_ok c hc) h e
theorem execMmac_ok (f : FormL) (s : State) (h : MemoryOk s) : ∀ t, execMmac f s = .next t → MemoryOk t := by
  exact fun t e => issueL_ok (fun c hc => bodyMmac_ok c hc) h e
theorem execMmab_ok (f : FormL) (s : State) (h : MemoryOk s) : ∀ t, execMmab f s = .next t → MemoryOk t := by
  exact fun t e => issueL_ok (fun c hc => bodyMmab_ok c hc) h e
theorem execTmac_ok (f : FormL) (s : State) (h : MemoryOk s) : ∀ t, execTmac f s = .next t → MemoryOk t := by
  exact fun t e => issueL_ok (fun c hc => bodyTmac_ok c hc) h e
theorem execTdrn_ok (f : FormL) (s : State) (h : MemoryOk s) : ∀ t, execTdrn f s = .next t → MemoryOk t := by
  exact fun t e => issueL_ok (fun c hc => bodyTdrn_ok c hc) h e
theorem execTdrnb_ok (f : FormL) (s : State) (h : MemoryOk s) : ∀ t, execTdrnb f s = .next t → MemoryOk t := by
  exact fun t e => issueL_ok (fun c hc => bodyTdrnb_ok c hc) h e
theorem execTwait_ok (f : FormL) (s : State) (h : MemoryOk s) : ∀ t, execTwait f s = .next t → MemoryOk t := by
  exact fun t e => issueL_ok (fun c hc => bodyTwait_ok c hc) h e
theorem execTflg_ok (f : FormL) (s : State) (h : MemoryOk s) : ∀ t, execTflg f s = .next t → MemoryOk t := by
  exact fun t e => issueL_ok (fun c hc => bodyTflg_ok c hc) h e
theorem execEndt_ok (f : FormL) (s : State) (h : MemoryOk s) : ∀ t, execEndt f s = .next t → MemoryOk t := by
  exact fun t e => issueL_ok (fun c hc => bodyEndt_ok c hc) h e

/-! ### Sys2Proof/Machine/Mash.lean -/

/-- The same of a MASH transfer. -/
def Xfer.Ok : Xfer → Prop | .done s _ _ _ => MemoryOk s | _ => True
theorem Xfer.foldl_ok {α : Type} {f : Xfer → α → Xfer} (hf : ∀ b x, Xfer.Ok b → Xfer.Ok (f b x)) : ∀ (l : List α) {b : Xfer}, Xfer.Ok b → Xfer.Ok (l.foldl f b)
  | [], _, h => h
  | x :: l, _, h => Xfer.foldl_ok hf l (hf _ x h)
theorem Xfer.foldlVia_ok {α β : Type} {f : β → α → β} {st : β → Xfer} (hf : ∀ b x, Xfer.Ok (st b) → Xfer.Ok (st (f b x))) :
    ∀ (l : List α) {b : β}, Xfer.Ok (st b) → Xfer.Ok (st (l.foldl f b))
  | [], _, h => h
  | x :: l, _, h => Xfer.foldlVia_ok hf l (hf _ x h)
theorem writeRuns_ok (s : State) (w : Who) (m : Mash) (l : List (Nat × List Byte × Bool)) (h : MemoryOk s) : Xfer.Ok (writeRuns s w m l) := by
  unfold writeRuns
  refine Xfer.foldl_ok (fun x r hx => ?_) l h
  split
  split
  · rename_i va data _ _ s _ _ _
    have b := writeRange_ok s w va data hx
    split
    · rename_i e; rw [e] at b; exact iteInduction (motive := MemoryOk) (fun _ => poisonRange_ok _ _ _ _ b) fun _ => b
    all_goals trivial
  · exact hx
theorem loadLanes_ok (s : State) (w : Who) (e : MashEnt) (m : Mash) (h : MemoryOk s) : Xfer.Ok (loadLanes s w e m) := by
  unfold loadLanes
  extract_lets lanes eb res
  have hr : Xfer.Ok res.1 := by
    refine Xfer.foldlVia_ok (st := Prod.fst) (fun x r hx => ?_) _ h
    split
    split
    · rename_i i0 n _ s _ _ _ _ _
      have b := readRange_ok s w ((e.ea + eb * i0) % 2 ^ 64) (eb * n) hx
      split
      · rename_i g; rw [g] at b; exact b
      all_goals trivial
    · exact hx
  clear_value res
  split
  · exact hr
  · exact hr
theorem storeLanes_ok (s : State) (w : Who) (e : MashEnt) (m : Mash) (h : MemoryOk s) : Xfer.Ok (storeLanes s w e m) := writeRuns_ok _ _ _ _ h
theorem sumLanes_ok (s : State) (w : Who) (e : MashEnt) (m : Mash) (h : MemoryOk s) : Xfer.Ok (sumLanes s w e m) := by
  unfold sumLanes
  exact iteInduction (fun _ => writeRuns_ok _ _ _ _ h) fun _ => writeRuns_ok _ _ _ _ h
theorem compactLanes_ok (s : State) (w : Who) (e : MashEnt) (m : Mash) (h : MemoryOk s) : Xfer.Ok (compactLanes s w e m) := writeRuns_ok _ _ _ _ h
theorem putMash_ok (s : State) (d : Nat) (m : Mash) (h : MemoryOk s) : MemoryOk (putMash s d m) := by
  unfold putMash
  grind [MemoryOk.upd, MemoryOk.foldl, putDie_ok]
theorem carveStart_ok (qk : Nat) (s : State) (h : MemoryOk s) : MemoryOk (carveStart qk s) := by
  unfold carveStart
  grind [MemoryOk.upd, MemoryOk.foldl, putQueue_ok, modHead_ok, finishHead_ok, putMash_ok]
theorem execCarveEntry_ok (qk : Nat) (s : State) (h : MemoryOk s) : ∀ t, execCarveEntry qk s = .next t → MemoryOk t := by
  exact event_ok _ s (by intro s h; apply carveStart_ok; assumption) h
theorem execCarvingComplete_ok (d : Nat) (s : State) (h : MemoryOk s) : ∀ t, execCarvingComplete d s = .next t → MemoryOk t := by
  exact event_ok _ s (by intro s h; grind [MemoryOk.upd, MemoryOk.foldl, dropLines_ok, event_ok, finishHead_ok, putMash_ok]) h
theorem runMash_ok (qk lo hi : Nat) (s : State) (f : State → Who → MashEnt → Mash → Xfer) (hf : ∀ s w e m, MemoryOk s → Xfer.Ok (f s w e m)) (h : MemoryOk s) :
    MemoryOk (runMash qk lo hi s f) := by
  unfold runMash
  split
  · rename_i q hd e _
    refine iteInduction (motive := MemoryOk) (fun _ => h) fun _ => ?_
    extract_lets m
    refine iteInduction (motive := MemoryOk) (fun _ => finishHead_ok _ _ _ h) fun _ => ?_
    extract_lets ranges
    have x := hf (putMash s q.die { m with state := 3 }) hd.who e { m with state := 3 } (putMash_ok _ _ _ h)
    split
    · rename_i g
      rw [g] at x
      refine finishHead_ok _ _ _ (iteInduction (motive := MemoryOk) (fun _ => headCode_ok _ _ _ ?_) fun _ => ?_) <;>
        exact modHead_ok _ _ _ (putMash_ok _ _ _ x)
    · exact h
    · exact stopEntry_ok _ _ _ _ _ _ _ _ _ (putMash_ok _ _ _ h)
    · exact finishHead_ok _ _ _ h
    · exact finishHead_ok _ _ _ h
  · exact h
theorem execMashOperationEntry_ok (qk : Nat) (s : State) (h : MemoryOk s) : ∀ t, execMashOperationEntry qk s = .next t → MemoryOk t :=
  event_ok _ s (fun s h => runMash_ok _ _ _ _ _ (fun _ _ _ _ h => h) h) h
theorem execMashTransferEntry_ok (qk : Nat) (s : State) (h : MemoryOk s) : ∀ t, execMashTransferEntry qk s = .next t → MemoryOk t := by
  refine event_ok _ s (fun s h => ?_) h
  extract_lets f
  have hf : ∀ s w e m, MemoryOk s → Xfer.Ok (f s w e m) := by
    intro _ w e m h
    show Xfer.Ok (match e.op with | 0x91 => _ | 0x92 => _ | 0x9D => _ | _ => _)
    split
    · exact loadLanes_ok _ _ _ _ h
    · exact storeLanes_ok _ _ _ _ h
    · exact sumLanes_ok _ _ _ _ h
    · exact compactLanes_ok _ _ _ _ h
  exact runMash_ok _ _ _ _ _ hf (runMash_ok _ _ _ _ _ hf h)
theorem execMsRelEntry_ok (qk : Nat) (s : State) (h : MemoryOk s) : ∀ t, execMsRelEntry qk s = .next t → MemoryOk t := by
  exact event_ok _ s (by intro s h; grind [MemoryOk.upd, MemoryOk.foldl, event_ok, modHead_ok, finishHead_ok, headCode_ok, putMash_ok]) h
theorem execReleasingComplete_ok (d : Nat) (s : State) (h : MemoryOk s) : ∀ t, execReleasingComplete d s = .next t → MemoryOk t := by
  exact event_ok _ s (by intro s h; grind [MemoryOk.upd, MemoryOk.foldl, event_ok, finishHead_ok, putMash_ok]) h
theorem accept_ok (c : Ctx') (op align : Nat) (fields : List (Nat × Nat)) (n : Nat) (kdecl : Option Nat) (h : MemoryOk c.s) :
    Go.Ok (accept c op align fields n kdecl) := by
  unfold accept
  extract_lets qk kd lanes e
  iterate 2 (refine iteInduction (motive := Go.Ok) (fun _ => h) fun _ => ?_)
  split
  · exact h
  · refine iteInduction (motive := Go.Ok) (fun _ => h) fun _ => ?_
    split
    · exact iteInduction (motive := Go.Ok) (fun _ => h) fun _ => modQueue_ok _ _ _ (pushEntry_ok _ _ _ _ h)
    · exact pushOr_ok _ _ _ _ _ _ h h
theorem bodyCarve_ok (c : Ctx') (h : MemoryOk c.s) : Go.Ok (bodyCarve c) := by
  unfold bodyCarve
  grind [MemoryOk.upd, MemoryOk.foldl, Go.Ok, accept_ok]
theorem bodyMsRel_ok (c : Ctx') (h : MemoryOk c.s) : Go.Ok (bodyMsRel c) := by
  unfold bodyMsRel
  grind [MemoryOk.upd, MemoryOk.foldl, Go.Ok, accept_ok]
theorem bodyMsLdt_ok (c : Ctx') (h : MemoryOk c.s) : Go.Ok (bodyMsLdt c) := by
  unfold bodyMsLdt
  grind [MemoryOk.upd, MemoryOk.foldl, Go.Ok, accept_ok]
theorem bodyMsStt_ok (c : Ctx') (h : MemoryOk c.s) : Go.Ok (bodyMsStt c) := by
  unfold bodyMsStt
  grind [MemoryOk.upd, MemoryOk.foldl, Go.Ok, accept_ok]
theorem bodyMsAdd_ok (c : Ctx') (h : MemoryOk c.s) : Go.Ok (bodyMsAdd c) := by
  unfold bodyMsAdd
  grind [MemoryOk.upd, MemoryOk.foldl, Go.Ok, accept_ok]
theorem bodyMsSub_ok (c : Ctx') (h : MemoryOk c.s) : Go.Ok (bodyMsSub c) := by
  unfold bodyMsSub
  grind [MemoryOk.upd, MemoryOk.foldl, Go.Ok, accept_ok]
theorem bodyMsMul_ok (c : Ctx') (h : MemoryOk c.s) : Go.Ok (bodyMsMul c) := by
  unfold bodyMsMul
  grind [MemoryOk.upd, MemoryOk.foldl, Go.Ok, accept_ok]
theorem bodyMsMulc_ok (c : Ctx') (h : MemoryOk c.s) : Go.Ok (bodyMsMulc c) := by
  unfold bodyMsMulc
  grind [MemoryOk.upd, MemoryOk.foldl, Go.Ok, accept_ok]
theorem bodyMsLog_ok (c : Ctx') (h : MemoryOk c.s) : Go.Ok (bodyMsLog c) := by
  unfold bodyMsLog
  grind [MemoryOk.upd, MemoryOk.foldl, Go.Ok, accept_ok]
theorem bodyMsCmp_ok (c : Ctx') (h : MemoryOk c.s) : Go.Ok (bodyMsCmp c) := by
  unfold bodyMsCmp
  grind [MemoryOk.upd, MemoryOk.foldl, Go.Ok, accept_ok]
theorem bodyMsSel_ok (c : Ctx') (h : MemoryOk c.s) : Go.Ok (bodyMsSel c) := by
  unfold bodyMsSel
  grind [MemoryOk.upd, MemoryOk.foldl, Go.Ok, accept_ok]
theorem bodyMsSet_ok (c : Ctx') (h : MemoryOk c.s) : Go.Ok (bodyMsSet c) := by
  unfold bodyMsSet
  grind [MemoryOk.upd, MemoryOk.foldl, Go.Ok, accept_ok]
theorem bodyMsCpy_ok (c : Ctx') (h : MemoryOk c.s) : Go.Ok (bodyMsCpy c) := by
  unfold bodyMsCpy
  grind [MemoryOk.upd, MemoryOk.foldl, Go.Ok, accept_ok]
theorem bodyMsShr_ok (c : Ctx') (h : MemoryOk c.s) : Go.Ok (bodyMsShr c) := by
  unfold bodyMsShr
  grind [MemoryOk.upd, MemoryOk.foldl, Go.Ok, accept_ok]
theorem bodyMsRsum_ok (c : Ctx') (h : MemoryOk c.s) : Go.Ok (bodyMsRsum c) := by
  unfold bodyMsRsum
  grind [MemoryOk.upd, MemoryOk.foldl, Go.Ok, accept_ok]
theorem bodyMsCmpt_ok (c : Ctx') (h : MemoryOk c.s) : Go.Ok (bodyMsCmpt c) := by
  unfold bodyMsCmpt
  grind [MemoryOk.upd, MemoryOk.foldl, Go.Ok, accept_ok]
theorem execCarve_ok (f : FormL) (s : State) (h : MemoryOk s) : ∀ t, execCarve f s = .next t → MemoryOk t := by
  exact fun t e => issueL_ok (fun c hc => bodyCarve_ok c hc) h e
theorem execMsLdt_ok (f : FormL) (s : State) (h : MemoryOk s) : ∀ t, execMsLdt f s = .next t → MemoryOk t := by
  exact fun t e => issueL_ok (fun c hc => bodyMsLdt_ok c hc) h e
theorem execMsStt_ok (f : FormL) (s : State) (h : MemoryOk s) : ∀ t, execMsStt f s = .next t → MemoryOk t := by
  exact fun t e => issueL_ok (fun c hc => bodyMsStt_ok c hc) h e
theorem execMsAdd_ok (f : FormL) (s : State) (h : MemoryOk s) : ∀ t, execMsAdd f s = .next t → MemoryOk t := by
  exact fun t e => issueL_ok (fun c hc => bodyMsAdd_ok c hc) h e
theorem execMsSub_ok (f : FormL) (s : State) (h : MemoryOk s) : ∀ t, execMsSub f s = .next t → MemoryOk t := by
  exact fun t e => issueL_ok (fun c hc => bodyMsSub_ok c hc) h e
theorem execMsMul_ok (f : FormL) (s : State) (h : MemoryOk s) : ∀ t, execMsMul f s = .next t → MemoryOk t := by
  exact fun t e => issueL_ok (fun c hc => bodyMsMul_ok c hc) h e
theorem execMsMulc_ok (f : FormL) (s : State) (h : MemoryOk s) : ∀ t, execMsMulc f s = .next t → MemoryOk t := by
  exact fun t e => issueL_ok (fun c hc => bodyMsMulc_ok c hc) h e
theorem execMsLog_ok (f : FormL) (s : State) (h : MemoryOk s) : ∀ t, execMsLog f s = .next t → MemoryOk t := by
  exact fun t e => issueL_ok (fun c hc => bodyMsLog_ok c hc) h e
theorem execMsCmp_ok (f : FormL) (s : State) (h : MemoryOk s) : ∀ t, execMsCmp f s = .next t → MemoryOk t := by
  exact fun t e => issueL_ok (fun c hc => bodyMsCmp_ok c hc) h e
theorem execMsSel_ok (f : FormL) (s : State) (h : MemoryOk s) : ∀ t, execMsSel f s = .next t → MemoryOk t := by
  exact fun t e => issueL_ok (fun c hc => bodyMsSel_ok c hc) h e
theorem execMsSet_ok (f : FormL) (s : State) (h : MemoryOk s) : ∀ t, execMsSet f s = .next t → MemoryOk t := by
  exact fun t e => issueL_ok (fun c hc => bodyMsSet_ok c hc) h e
theorem execMsCpy_ok (f : FormL) (s : State) (h : MemoryOk s) : ∀ t, execMsCpy f s = .next t → MemoryOk t := by
  exact fun t e => issueL_ok (fun c hc => bodyMsCpy_ok c hc) h e
theorem execMsShr_ok (f : FormL) (s : State) (h : MemoryOk s) : ∀ t, execMsShr f s = .next t → MemoryOk t := by
  exact fun t e => issueL_ok (fun c hc => bodyMsShr_ok c hc) h e
theorem execMsRsum_ok (f : FormL) (s : State) (h : MemoryOk s) : ∀ t, execMsRsum f s = .next t → MemoryOk t := by
  exact fun t e => issueL_ok (fun c hc => bodyMsRsum_ok c hc) h e
theorem execMsCmpt_ok (f : FormL) (s : State) (h : MemoryOk s) : ∀ t, execMsCmpt f s = .next t → MemoryOk t := by
  exact fun t e => issueL_ok (fun c hc => bodyMsCmpt_ok c hc) h e
theorem execMsRel_ok (f : FormL) (s : State) (h : MemoryOk s) : ∀ t, execMsRel f s = .next t → MemoryOk t := by
  exact fun t e => issueL_ok (fun c hc => bodyMsRel_ok c hc) h e

end Sys2Proof.Machine
end

