-- ==== Sys2Proof/Laws/FormPage.lean ====
section
/-!
SUPPORT. Sys2Proof/Laws/FormPage.lean: the canonical form of memory is kept by migrations, page operations, frozen parties and handlers.
-/
namespace Sys2Proof.Machine

/-! ### Sys2Proof/Machine/Page.lean -/

theorem putClosing_ok (s : State) (home : Nat) (c : Closing) (h : MemoryOk s) : MemoryOk (putClosing s home c) := by
  unfold putClosing
  grind [MemoryOk.upd, MemoryOk.foldl, putBase_ok]
theorem dropClosings_ok (s : State) (uid : Nat) (h : MemoryOk s) : MemoryOk (dropClosings s uid) := by
  unfold dropClosings
  grind [MemoryOk.upd, MemoryOk.foldl]
theorem replay_ok (s : State) (e : LogEntry) (h : MemoryOk s) : MemoryOk (replay s e) := by
  unfold replay
  extract_lets w va fault
  have hf : ∀ s c, MemoryOk s → MemoryOk (fault s c) := fun s c h => iteInduction (motive := MemoryOk) (fun _ => h) fun _ => storeFault_ok _ _ _ _ _ _ _ _ _ h
  have l := locate_ok s w.place w.tasid va e.acc.need e.acc.bytes h
  split
  · rename_i pa home leaf s' g
    rw [g] at l
    refine iteInduction (motive := MemoryOk) (fun _ => hf _ _ h) fun _ => ?_
    have p := performPhys_ok _ w e.acc 0 pa home leaf (invalidateFor_ok s' pa none l)
    have p := Res.undo_ok s _ h p
    split
    · rename_i g
      rw [g] at p
      have q := fun ws rs b => publish_ok _ ws rs b p
      exact iteInduction (motive := MemoryOk) (fun _ => noteTask_ok _ _ _ _ (q _ _ _)) fun _ => q _ _ _
    · rename_i g; rw [g] at p; exact hf _ _ p
    · exact h
  · exact hf _ _ h
  · exact hf _ _ h
  · exact h
theorem replayRange_ok (s : State) (home : Nat) (asid : Nat) (set : Nat) (lo : Nat) (size : Nat) (h : MemoryOk s) : MemoryOk (replayRange s home asid set lo size) := by
  unfold replayRange
  grind [MemoryOk.upd, MemoryOk.foldl, putBase_ok, replay_ok]
theorem pginvHome_ok (s : State) (uid home : Nat) (h : MemoryOk s) : MemoryOk (pginvHome s uid home) := by
  unfold pginvHome
  split
  · exact h
  · rename_i x _
    extract_lets mine tlb todo b0 s1 s2 left
    have h1 : MemoryOk s1 := iteInduction (motive := MemoryOk) (fun _ => h) fun _ => putBase_ok _ _ _ h
    exact putClosing_ok _ _ _ (sendInvals_ok _ _ _ h1)
theorem bodyPginv_ok (c : Ctx') (h : MemoryOk c.s) : Go.Ok (bodyPginv c) := by
  unfold bodyPginv
  extract_lets asid size
  split
  · exact h
  · extract_lets lo homes begun s1 s2 s3
    have h1 : MemoryOk s1 := iteInduction (motive := MemoryOk) (fun _ => h) fun _ => sendMarkers_ok _ _ _ _ h
    have h2 : MemoryOk s2 := iteInduction (motive := MemoryOk) (fun _ => h1) fun _ => MemoryOk.foldl (fun s n h => putClosing_ok _ _ _ h) _ h1
    have h3 : MemoryOk s3 := MemoryOk.foldl (fun s n h => pginvHome_ok _ _ _ h) _ h2
    refine iteInduction (motive := Go.Ok) (fun _ => h1) fun _ => ?_
    refine iteInduction (motive := Go.Ok) (fun _ => h2) fun _ => ?_
    refine iteInduction (motive := Go.Ok) (fun _ => h3) fun _ => ?_
    refine iteInduction (motive := Go.Ok) (fun _ => h3) fun _ => ?_
    exact dropClosings_ok _ _ (MemoryOk.foldl (fun s n h => replayRange_ok _ _ _ _ _ _ h) _ h3)
theorem setLeaf_ok (s : State) (home at_ : Nat) (f : Nat → Nat) (h : MemoryOk s) : MemoryOk (setLeaf s home at_ f) :=
  putBase_ok _ _ _ ⟨Memory.wf_writeN h.1 _ _ _, h.2⟩
theorem bodyPgmig_ok (c : Ctx') (h : MemoryOk c.s) : Go.Ok (bodyPgmig c) := by
  unfold bodyPgmig
  grind [MemoryOk.upd, MemoryOk.foldl, Go.Ok, putBase_ok, freeze_ok, sendMarkers_ok, checkSignal_ok, putClosing_ok, dropClosings_ok, setLeaf_ok]
theorem putMig_ok (s : State) (home : Nat) (n : Nat) (m : Mig) (h : MemoryOk s) : MemoryOk (putMig s home n m) := by
  unfold putMig
  grind [MemoryOk.upd, MemoryOk.foldl, putBase_ok]
theorem moveLine_ok (s : State) (old new : Nat) (h : MemoryOk s) : MemoryOk (moveLine s old new) := by
  unfold moveLine
  have hw : ∀ v n, Memory.wf (writeN s.mem new v n) = true := fun v n => Memory.wf_writeN h.1 _ _ _
  generalize readN s.mem old 128 = v
  specialize hw v 128
  generalize writeN s.mem new v 128 = m at hw ⊢
  exact ⟨hw, h.2⟩
theorem execMigrationLineCopy_ok (home : Nat) (n : Nat) (s : State) (h : MemoryOk s) : ∀ t, execMigrationLineCopy home n s = .next t → MemoryOk t := by
  exact event_ok _ s (by intro s h; grind [MemoryOk.upd, MemoryOk.foldl, event_ok, putMig_ok, moveLine_ok]) h
theorem migWho_ok (s : State) (home : Nat) (m : Mig) (h : MemoryOk s) : MemoryOk (migWho s home m).1 := by
  unfold migWho
  grind [MemoryOk.upd, MemoryOk.foldl, freshUid_ok]
theorem execMigrationSwitch_ok (home n : Nat) (s : State) (h : MemoryOk s) : ∀ t, execMigrationSwitch home n s = .next t → MemoryOk t := by
  refine event_ok _ s (fun s h => ?_) h
  split
  · rename_i m _
    refine iteInduction (motive := MemoryOk) (fun _ => h) fun _ => ?_
    extract_lets s1
    have h1 : MemoryOk s1 := iteInduction (motive := MemoryOk) (fun _ => h) fun _ => putMig_ok _ _ _ _ (setLeaf_ok _ _ _ _ h)
    clear_value s1
    have hw := migWho_ok (putBase s1 home { base s1 home with migs := (base s1 home).migs.take n ++ (base s1 home).migs.drop (n + 1) }) home m (putBase_ok _ _ _ h1)
    split
    rename_i s3 w g
    rw [g] at hw
    refine iteInduction (motive := MemoryOk) (fun _ => modCtx_ok _ _ _ hw) fun _ => ?_
    have a := addSignal_ok s3 w m.signal.toNat 1 hw
    split
    · rename_i g; rw [g] at a; exact a
    · exact h1
    · exact h1
    · exact hw
  · exact h
theorem execPginv_ok (f : FormL) (s : State) (h : MemoryOk s) : ∀ t, execPginv f s = .next t → MemoryOk t := by
  exact fun t e => issueL_ok (fun c hc => bodyPginv_ok c hc) h e
theorem execPgmig_ok (f : FormL) (s : State) (h : MemoryOk s) : ∀ t, execPgmig f s = .next t → MemoryOk t := by
  exact fun t e => issueL_ok (fun c hc => bodyPgmig_ok c hc) h e

/-! ### Sys2Proof/Machine/Frozen.lean -/

theorem setState_ok (s : State) (asid : Nat) (st : CState) (h : MemoryOk s) : MemoryOk (setState s asid st) :=
  iteInduction (motive := MemoryOk) (fun _ => modCtx_ok _ _ _ h) fun _ => modCtx_ok _ _ _ h
theorem endRequest_ok (s : State) (asid : Nat) (result : Nat) (h : MemoryOk s) : MemoryOk (endRequest s asid result) := by
  unfold endRequest
  grind [MemoryOk.upd, MemoryOk.foldl]
theorem contextError_ok (s : State) (asid cause : Nat) (h : MemoryOk s) : MemoryOk (contextError s asid cause) := by
  unfold contextError
  extract_lets kerns s1 cls s2 s3
  have h1 : MemoryOk s1 := MemoryOk.foldl (fun s n h => abortKernel_ok _ _ h) _ h
  have h2 : MemoryOk s2 := MemoryOk.foldl (fun s n h => putEngine_ok _ _ _ h) _ h1
  exact endRequest_ok _ _ _ (setState_ok _ _ _ (modCtx_ok _ _ _ h2))
theorem invalidate_ok (s : State) (t : Target) (h : MemoryOk s) : MemoryOk (invalidate s t) := by
  unfold invalidate
  grind [MemoryOk.upd, MemoryOk.foldl, updateCaps_ok]
theorem execFrozenRecordAdmit_ok (asid : Nat) (s : State) (h : MemoryOk s) : ∀ t, execFrozenRecordAdmit asid s = .next t → MemoryOk t := by
  exact event_ok _ s (by intro s h; grind [MemoryOk.upd, MemoryOk.foldl, modCtx_ok, event_ok]) h
theorem reissue_ok (s : State) (k : Nat) (acc : Access) (h : MemoryOk s) : MemoryOk (reissue s k acc) := by
  unfold reissue
  grind [MemoryOk.upd, MemoryOk.foldl, issueReq_ok]
theorem resumeParty_ok (s : State) (k : Nat) (st : TState) (clk : Clock) (h : MemoryOk s) : MemoryOk (resumeParty s k st clk) := by
  unfold resumeParty
  split
  · exact h
  · extract_lets don a0 b0 b1 s1
    have h1 : MemoryOk s1 := MemoryOk.foldl (fun s x h => reissue_ok _ _ _ h) _ (putAgent_ok _ _ _ h)
    exact MemoryOk.foldl (fun s x h => reissue_ok _ _ _ h) _ h1
theorem releaseCap_ok (s : State) (k : Nat) (n : Nat) (h : MemoryOk s) : MemoryOk (releaseCap s k n) := by
  unfold releaseCap
  grind [MemoryOk.upd, MemoryOk.foldl, modAgent_ok, modCtx_ok]
theorem endHandler_ok (s : State) (k : Nat) (h : MemoryOk s) : MemoryOk (endHandler s k) := by
  unfold endHandler
  grind [MemoryOk.upd, MemoryOk.foldl, releaseCap_ok]
theorem bodyExit_ok (c : Ctx') (h : MemoryOk c.s) : Go.Ok (bodyExit c) := by
  unfold bodyExit
  grind [MemoryOk.upd, MemoryOk.foldl, Go.Ok, endThread_ok, endTask_ok, invalidate_ok, endHandler_ok]
theorem startHandler_ok (asid : Nat) (s : State) (h : MemoryOk s) : MemoryOk (startHandler asid s) := by
  unfold startHandler
  grind [MemoryOk.upd, MemoryOk.foldl, putAgent_ok, freshUid_ok]
theorem execHandlerStart_ok (asid : Nat) (s : State) (h : MemoryOk s) : ∀ t, execHandlerStart asid s = .next t → MemoryOk t := by
  exact event_ok _ s (by intro s h; apply startHandler_ok; assumption) h
theorem execHandlerBudget_ok (k : Nat) (s : State) (h : MemoryOk s) : ∀ t, execHandlerBudget k s = .next t → MemoryOk t := by
  exact event_ok _ s (by intro s h; grind [MemoryOk.upd, MemoryOk.foldl, freeze_ok, event_ok]) h
theorem level2_ok (die : Nat) (faulted : Bool) (s : State) (h : MemoryOk s) : MemoryOk (level2 die faulted s) := by
  unfold level2
  split
  · exact h
  · extract_lets x s1
    have h1 : MemoryOk s1 := putDie_ok _ _ _ h
    refine iteInduction (motive := MemoryOk) (fun _ => contextError_ok _ _ _ h1) fun _ => ?_
    split
    · split
      · refine iteInduction (motive := MemoryOk) (fun _ => h1) fun _ => iteInduction (motive := MemoryOk) (fun _ => ?_) fun _ => ?_
        · exact modAgent_ok _ _ _ (resumeParty_ok _ _ _ _ h1)
        · exact endHandler_ok _ _ h1
      · exact h1
    · exact h1
theorem execLevel2Handling_ok (die : Nat) (faulted : Bool) (s : State) (h : MemoryOk s) : ∀ t, execLevel2Handling die faulted s = .next t → MemoryOk t := by
  exact event_ok _ s (by intro s h; apply level2_ok; assumption) h
theorem capInvalid_ok (c : Ctx') (n : Nat) (h : MemoryOk c.s) : Go.Ok (capInvalid c n) := by
  unfold capInvalid
  grind [MemoryOk.upd, MemoryOk.foldl, Go.Ok, freeze_ok]
theorem withCap_ok (c : Ctx') {g : Cap → Go} (h : MemoryOk c.s) (hg : ∀ x, Go.Ok (g x)) : Go.Ok (withCap c g) := by
  unfold withCap
  split
  · exact iteInduction (motive := Go.Ok) (fun _ => hg _) fun _ => capInvalid_ok _ _ h
  · exact capInvalid_ok _ _ h
theorem withParty_ok (c : Ctx') (x : Cap) {g : Nat → Agent → Go} (h : MemoryOk c.s) (hg : ∀ k a, Go.Ok (g k a)) : Go.Ok (withParty c x g) := by
  unfold withParty
  split
  · split
    · exact iteInduction (motive := Go.Ok) (fun _ => h) fun _ => hg _ _
    · exact capInvalid_ok _ _ h
  · exact capInvalid_ok _ _ h
theorem bodyCapNext_ok (c : Ctx') (h : MemoryOk c.s) : Go.Ok (bodyCapNext c) := by
  unfold bodyCapNext
  grind [MemoryOk.upd, MemoryOk.foldl, Go.Ok, modAgent_ok, putCtx_ok, acquire_ok, freeze_ok, Ctx'.upd_ok, releaseCap_ok, endHandler_ok]
theorem bodyCapRdr_ok (c : Ctx') (h : MemoryOk c.s) : Go.Ok (bodyCapRdr c) := by
  unfold bodyCapRdr
  refine withCap_ok c h fun x => ?_
  split
  · split
    · exact capInvalid_ok _ _ h
    · refine iteInduction (motive := Go.Ok) (fun _ => h) fun _ => ?_
      split
      · exact h
      · have hp := fun d => putAgent_ok (freshId c.s).2 c.k (c.a.emptyDst d) (freshId_ok _ h)
        exact hp (.v c.f.dst.toNat (if modScope c.mod == 1 || modScope c.mod == 4 then 2 else 1))
  · exact capInvalid_ok _ _ h
theorem bodyCapWrr_ok (c : Ctx') (h : MemoryOk c.s) : Go.Ok (bodyCapWrr c) := by
  unfold bodyCapWrr
  refine withCap_ok c h fun x => withParty_ok c x h fun k p => ?_
  dsimp only
  split
  · exact h
  · split
    · exact h
    · exact modAgent_ok _ _ _ h
theorem bodyCapRds_ok (c : Ctx') (h : MemoryOk c.s) : Go.Ok (bodyCapRds c) := by
  unfold bodyCapRds
  have hc := capInvalid_ok c c.capNo h
  have hu : ∀ f, MemoryOk (c.upd f) := fun f => Ctx'.upd_ok _ _ h
  split
  · exact hc
  · extract_lets item put
    have hp : ∀ v, Go.Ok (put v) := fun v => hu _
    clear_value put
    split
    · split
      · split
        · split
          · exact h
          · exact hp _
        · exact hp _
      · exact hc
    · split
      · exact hp _
      · split
        · exact hc
        · split
          · exact hp _
          · split
            · exact hp _
            · split
              · exact hp _
              · exact hp _
theorem bodyCapSetpc_ok (c : Ctx') (h : MemoryOk c.s) : Go.Ok (bodyCapSetpc c) := by
  unfold bodyCapSetpc
  refine withCap_ok c h fun x => withParty_ok c x h fun k p => ?_
  refine iteInduction (motive := Go.Ok) (fun _ => capInvalid_ok _ _ h) fun _ => iteInduction (motive := Go.Ok) (fun _ => h) fun _ => ?_
  exact updateCaps_ok _ _ _ (modAgent_ok _ _ _ h)
theorem resumeTarget_ok (s : State) (t : Target) (h : MemoryOk s) : MemoryOk (resumeTarget s t) := by
  unfold resumeTarget
  grind [MemoryOk.upd, MemoryOk.foldl, modQueue_ok, modHead_ok]
theorem bodyCapRes_ok (c : Ctx') (h : MemoryOk c.s) : Go.Ok (bodyCapRes c) := by
  unfold bodyCapRes
  refine withCap_ok c h fun x => ?_
  extract_lets go
  have hg : ∀ g, (∀ s a, MemoryOk s → MemoryOk (g s a)) → Go.Ok (go g) := fun g hg => releasing_ok c _ h fun s a h => hg _ _ (invalidate_ok _ _ h)
  clear_value go
  split
  · exact withParty_ok c x h fun k p => hg _ fun s a h => resumeParty_ok _ _ _ _ h
  · exact hg _ fun s a h => resumeTarget_ok _ _ h
theorem bodyCapStep_ok (c : Ctx') (h : MemoryOk c.s) : Go.Ok (bodyCapStep c) := by
  unfold bodyCapStep
  refine withCap_ok c h fun x => withParty_ok c x h fun k p => ?_
  exact iteInduction (motive := Go.Ok) (fun _ => capInvalid_ok _ _ h) fun _ => releasing_ok c _ h fun s a h => resumeParty_ok _ _ _ _ h
theorem killEntry_ok (s : State) (q : Nat) (num : Nat) (h : MemoryOk s) : MemoryOk (killEntry s q num) := by
  unfold killEntry
  grind [MemoryOk.upd, MemoryOk.foldl, updateCaps_ok, modQueue_ok, modHead_ok]
theorem bodyCapKill_ok (c : Ctx') (h : MemoryOk c.s) : Go.Ok (bodyCapKill c) := by
  unfold bodyCapKill
  refine withCap_ok c h fun x => ?_
  extract_lets go
  have hg : ∀ g, (∀ s a, MemoryOk s → MemoryOk (g s a)) → Go.Ok (go g) := fun g hg => releasing_ok c _ h fun s a h => hg _ _ (invalidate_ok _ _ h)
  clear_value go
  split
  · rename_i k u _
    refine iteInduction (motive := Go.Ok) (fun _ => capInvalid_ok _ _ h) fun _ => hg _ fun s a h => ?_
    have h1 := modAgent_ok s k (·.acquire a) h
    exact iteInduction (motive := MemoryOk) (fun _ => endTask_ok _ _ _ h1) fun _ => endThread_ok _ _ h1
  · exact hg _ fun s _ h => killEntry_ok _ _ _ h
  · exact hg _ fun s _ h => killEntry_ok _ _ _ h
  · exact hg _ fun s _ h => killEntry_ok _ _ _ h
  · exact hg _ fun s _ h => dropTrig_ok _ _ h
  · exact hg _ fun s _ h => h
theorem bodyCapRel_ok (c : Ctx') (h : MemoryOk c.s) : Go.Ok (bodyCapRel c) := withCap_ok c h fun _ => releaseCap_ok _ _ _ h
theorem bodyCapArv_ok (c : Ctx') (h : MemoryOk c.s) : Go.Ok (bodyCapArv c) := by
  unfold bodyCapArv
  refine withCap_ok c h fun x => withParty_ok c x h fun k p => ?_
  refine iteInduction (motive := Go.Ok) (fun _ => capInvalid_ok _ _ h) fun _ => iteInduction (motive := Go.Ok) (fun _ => h) fun _ => ?_
  extract_lets d off addr
  refine iteInduction (motive := Go.Ok) (fun _ => iteInduction (motive := Go.Ok) (fun _ => Ctx'.upd_ok _ _ h) fun _ =>
    barPhase_ok _ _ (modAgent_ok _ _ _ (Ctx'.upd_ok _ _ h))) fun _ => ?_
  split
  · exact h
  · rename_i locs _
    have m := mbArrive_ok c.s (whoOf k p) locs addr 1 0 h
    split
    · rename_i g; exact modAgent_ok _ _ _ (m.1 _ g)
    · rename_i g; exact modAgent_ok _ _ _ (modAgent_ok _ _ _ (m.2 _ _ g))
theorem execExitS_ok (f : FormS) (s : State) (h : MemoryOk s) : ∀ t, execExitS f s = .next t → MemoryOk t := by
  exact fun t e => issueS_ok (fun c hc => bodyExit_ok c hc) h e
theorem execExit_ok (f : FormL) (s : State) (h : MemoryOk s) : ∀ t, execExit f s = .next t → MemoryOk t := by
  exact fun t e => issueL_ok (fun c hc => bodyExit_ok c hc) h e
theorem execCapRdr_ok (f : FormL) (s : State) (h : MemoryOk s) : ∀ t, execCapRdr f s = .next t → MemoryOk t := by
  exact fun t e => issueL_ok (fun c hc => bodyCapRdr_ok c hc) h e
theorem execCapWrr_ok (f : FormL) (s : State) (h : MemoryOk s) : ∀ t, execCapWrr f s = .next t → MemoryOk t := by
  exact fun t e => issueL_ok (fun c hc => bodyCapWrr_ok c hc) h e
theorem execCapRds_ok (f : FormL) (s : State) (h : MemoryOk s) : ∀ t, execCapRds f s = .next t → MemoryOk t := by
  exact fun t e => issueL_ok (fun c hc => bodyCapRds_ok c hc) h e
theorem execCapSetpc_ok (f : FormL) (s : State) (h : MemoryOk s) : ∀ t, execCapSetpc f s = .next t → MemoryOk t := by
  exact fun t e => issueL_ok (fun c hc => bodyCapSetpc_ok c hc) h e
theorem execCapRes_ok (f : FormL) (s : State) (h : MemoryOk s) : ∀ t, execCapRes f s = .next t → MemoryOk t := by
  exact fun t e => issueL_ok (fun c hc => bodyCapRes_ok c hc) h e
theorem execCapKill_ok (f : FormL) (s : State) (h : MemoryOk s) : ∀ t, execCapKill f s = .next t → MemoryOk t := by
  exact fun t e => issueL_ok (fun c hc => bodyCapKill_ok c hc) h e
theorem execCapStep_ok (f : FormL) (s : State) (h : MemoryOk s) : ∀ t, execCapStep f s = .next t → MemoryOk t := by
  exact fun t e => issueL_ok (fun c hc => bodyCapStep_ok c hc) h e
theorem execCapArv_ok (f : FormL) (s : State) (h : MemoryOk s) : ∀ t, execCapArv f s = .next t → MemoryOk t := by
  exact fun t e => issueL_ok (fun c hc => bodyCapArv_ok c hc) h e
theorem execCapRel_ok (f : FormL) (s : State) (h : MemoryOk s) : ∀ t, execCapRel f s = .next t → MemoryOk t := by
  exact fun t e => issueL_ok (fun c hc => bodyCapRel_ok c hc) h e
theorem execCapNext_ok (f : FormL) (s : State) (h : MemoryOk s) : ∀ t, execCapNext f s = .next t → MemoryOk t := by
  exact fun t e => issueL_ok (fun c hc => bodyCapNext_ok c hc) h e

end Sys2Proof.Machine
end

