-- ==== Sys2Proof/Laws/FormStack.lean ====
section
/-!
SUPPORT. Sys2Proof/Laws/FormStack.lean: the canonical form of memory is kept by the stack engines and the links.
-/
namespace Sys2Proof.Machine

/-! ### Sys2Proof/Machine/Stack.lean -/

theorem MemoryOk.optFoldlVia {α β : Type} {f : Option (State × β) → α → Option (State × β)}
    (hf : ∀ o x, (∀ y, o = some y → MemoryOk y.1) → ∀ y, f o x = some y → MemoryOk y.1) :
    ∀ (l : List α) {o : Option (State × β)}, (∀ y, o = some y → MemoryOk y.1) → ∀ y, l.foldl f o = some y → MemoryOk y.1
  | [], _, h => h
  | x :: l, _, h => MemoryOk.optFoldlVia hf l (hf _ x h)
theorem useComm_ok (s : State) (asid comm : Nat) (h : MemoryOk s) : MemoryOk (useComm s asid comm) := by
  unfold useComm
  refine iteInduction (fun _ => h) fun _ => ?_
  cases ctx? s asid
  · exact h
  · exact deviceUse_ok _ _ _ _ h
theorem storeGraph_ok (s : State) (st asid : Nat) (image : DWord) (hdr : Nat) (nodes : FMap Nat) (stamp : Nat) (h : MemoryOk s) :
    ∀ t, storeGraph s st asid image hdr nodes stamp = some t → MemoryOk t := by
  intro t e
  unfold storeGraph at e
  extract_lets b l at e
  obtain ⟨x, _, rfl⟩ := Option.map_eq_some_iff.mp e
  exact putBase_ok _ _ _ h
theorem loadAll_ok (s : State) (stks : List Nat) (asid : Nat) (image : DWord) (reload : Bool) (hdr : Nat) (read : FMap Nat) (h : MemoryOk s) :
    ∀ t, loadAll s stks asid image reload hdr read = some t → MemoryOk t := by
  intro t e
  unfold loadAll at e
  refine MemoryOk.optFoldl (fun o x ho => ?_) _ (fun t e => ?_) t e
  · refine MemoryOk.optBind ho fun s hs t e => ?_
    split at e
    · cases e; exact putBase_ok _ _ _ hs
    · exact storeGraph_ok _ _ _ _ _ _ _ hs _ e
  · cases e; exact freshId_ok _ h
theorem startRun_ok (qk : Nat) (s : State) (h : MemoryOk s) : MemoryOk (startRun qk s) := by
  unfold startRun
  have hfin : ∀ s code, MemoryOk s → MemoryOk (finishHead s qk code) := fun s code h => finishHead_ok _ _ _ h
  split
  · exact h
  · rename_i q hd _
    refine iteInduction (motive := MemoryOk) (fun _ => h) fun _ => ?_
    extract_lets img image read
    refine iteInduction (motive := MemoryOk) (fun _ => iteInduction (motive := MemoryOk) (fun _ => modHead_ok _ _ _ h) fun _ => hfin _ _ h) fun _ => ?_
    refine iteInduction (motive := MemoryOk) (fun _ => hfin _ _ h) fun _ => ?_
    have hread : ∀ s va n g, MemoryOk s → (∀ s d, MemoryOk s → MemoryOk (g s d)) → MemoryOk (read s va n g) := by
      intro s va n g hs hg
      show MemoryOk (match readRange s hd.who va n with | .done _ _ _ _ => _ | .absent _ => _ | .prot => _ | .poisoned => _ | _ => _)
      have r := readRange_ok s hd.who va n hs
      split
      · rename_i e
        rw [e] at r
        have hc : ∀ (b : Bool) u, MemoryOk u → MemoryOk (if b = true then headCode u qk 0x22 else u) := fun b u hu =>
          iteInduction (motive := MemoryOk) (fun _ => headCode_ok _ _ _ hu) fun _ => hu
        exact iteInduction (motive := MemoryOk) (fun _ => hfin _ _ (hc _ _ r)) fun _ => hg _ _ (hc _ _ r)
      · exact stopEntry_ok _ _ _ _ _ _ _ _ _ hs
      · exact hfin _ _ hs
      · exact hfin _ _ hs
      · exact hs
    clear_value read
    refine hread _ _ _ _ h fun s hdr hs => ?_
    extract_lets held hdr' stks need go
    refine iteInduction (motive := MemoryOk) (fun _ => hfin _ _ hs) fun _ => ?_
    have hgo : ∀ s nodes, MemoryOk s → MemoryOk (go s nodes) := by
      intro s nodes hs
      refine iteInduction (motive := MemoryOk) (fun _ => hfin _ _ hs) fun _ => ?_
      refine iteInduction (motive := MemoryOk) (fun _ => hfin _ _ hs) fun _ => ?_
      refine iteInduction (motive := MemoryOk) (fun _ => hfin _ _ hs) fun _ => ?_
      extract_lets s1
      have h1 : MemoryOk s1 := MemoryOk.foldl (fun s x h => useComm_ok _ _ _ h) _ hs
      split
      · exact h1
      · rename_i e
        exact hread _ _ _ _ (loadAll_ok _ _ _ _ _ _ _ h1 _ e) fun s t hs => modHead_ok _ _ _ hs
    clear_value go
    exact iteInduction (motive := MemoryOk) (fun _ => hgo _ _ hs) fun _ => hread _ _ _ _ hs fun s d hs => hgo _ _ hs
theorem modRun_ok (s : State) (qk : Nat) (f : GRun → GRun) (h : MemoryOk s) : MemoryOk (modRun s qk f) := by
  unfold modRun
  grind [MemoryOk.upd, MemoryOk.foldl, modHead_ok]
theorem nodeWho_ok (s : State) (r : Running) (img : Nat) (more : Clock) (h : MemoryOk s) : MemoryOk (nodeWho s r img more).1 := by
  unfold nodeWho
  grind [MemoryOk.upd, MemoryOk.foldl, freshUid_ok]

theorem Chunk.also_ok {c : Chunk} (h : Chunk.Ok c) (l : List Nat) : Chunk.Ok (c.also l) := by cases c <;> exact h
theorem chunkRead_ok (s : State) (w : Who) (va n : Nat) {g : State → List Byte → List Nat → Bool → Chunk} (h : MemoryOk s)
    (hg : ∀ s d b r, MemoryOk s → Chunk.Ok (g s d b r)) : Chunk.Ok (chunkRead s w va n g) := by
  unfold chunkRead
  refine iteInduction (motive := Chunk.Ok) (fun _ => trivial) fun _ => ?_
  have r := readRange_ok s w va n h
  split
  · rename_i e; rw [e] at r; exact Chunk.also_ok (hg _ _ _ _ r) _
  all_goals trivial
theorem chunkWrite_ok (s : State) (w : Who) (va : Nat) (d : List Byte) {g : State → Bool → Chunk} (h : MemoryOk s)
    (hg : ∀ s r, MemoryOk s → Chunk.Ok (g s r)) : Chunk.Ok (chunkWrite s w va d g) := by
  unfold chunkWrite
  refine iteInduction (motive := Chunk.Ok) (fun _ => trivial) fun _ => ?_
  have r := writeRange_ok s w va d h
  split
  · rename_i e; rw [e] at r; exact Chunk.also_ok (hg _ _ r) _
  all_goals trivial
theorem chunkCopy_ok (s : State) (w : Who) (g : GRun) (img : Nat) (h : MemoryOk s) : Chunk.Ok (chunkCopy s w g img) :=
  chunkRead_ok _ _ _ _ h fun _ _ _ _ h => chunkWrite_ok _ _ _ _ h fun _ _ h => poisonLines_ok _ _ _ _ h
theorem chunkReduce_ok (s : State) (w : Who) (g : GRun) (img : Nat) (h : MemoryOk s) : Chunk.Ok (chunkReduce s w g img) := by
  unfold chunkReduce
  extract_lets n c4 sz
  refine chunkRead_ok _ _ _ _ h fun _ _ _ _ h => chunkRead_ok _ _ _ _ h fun _ _ _ _ h => ?_
  extract_lets ds
  split
  exact chunkWrite_ok _ _ _ _ h fun _ _ h => poisonLines_ok _ _ _ _ h
theorem chunkCmp4_ok (s : State) (w : Who) (g : GRun) (img : Nat) (h : MemoryOk s) : Chunk.Ok (chunkCmp4 s w g img) := by
  unfold chunkCmp4
  refine chunkRead_ok _ _ _ _ h fun _ _ _ _ h => chunkRead_ok _ _ _ _ h fun _ _ _ _ h => ?_
  exact chunkWrite_ok _ _ _ _ h fun _ _ h => chunkWrite_ok _ _ _ _ h fun _ _ h => chunkWrite_ok _ _ _ _ h fun _ _ h =>
    poisonLines_ok _ _ _ _ (poisonLines_ok _ _ _ _ h)
theorem bagLists_ok (w : Who) (g : GRun) (img : Nat) {fin : State → List (Bag × List (Nat × Bool)) → Bool → Chunk}
    (hf : ∀ s l r, MemoryOk s → Chunk.Ok (fin s l r)) :
    ∀ (l : List Bag) (s : State) (out : List (Bag × List (Nat × Bool))) (race : Bool), MemoryOk s → Chunk.Ok (bagLists w g img fin s out race l)
  | [], _, _, _, h => hf _ _ _ h
  | _ :: t, _, _, _, h => chunkRead_ok _ _ _ _ h fun _ _ _ _ h => bagLists_ok w g img hf t _ _ _ h
theorem bagRows_ok (w : Who) (g : GRun) (img : Nat) {fin : State → List Nat → BitVec 5 → Bool → Bool → Chunk}
    (hf : ∀ s a f b r, MemoryOk s → Chunk.Ok (fin s a f b r)) :
    ∀ (l : List (Nat × Bool)) (s : State) (acc : List Nat) (fl : BitVec 5) (bad race : Bool), MemoryOk s → Chunk.Ok (bagRows w g img fin s acc fl bad race l)
  | [], _, _, _, _, _, h => hf _ _ _ _ _ h
  | _ :: t, _, _, _, _, _, h => chunkRead_ok _ _ _ _ h fun _ _ _ _ h => bagRows_ok w g img hf t _ _ _ _ _ h
theorem bags_ok (w : Who) (g : GRun) (img : Nat) {fin : State → List (List Byte × Bool) → Nat → BitVec 5 → Bool → Chunk}
    (hf : ∀ s o c f r, MemoryOk s → Chunk.Ok (fin s o c f r)) :
    ∀ (l : List (Bag × List (Nat × Bool))) (s : State) (out : List (List Byte × Bool)) (code : Nat) (fl : BitVec 5) (race : Bool), MemoryOk s →
      Chunk.Ok (bags w g img fin s out code fl race l)
  | [], _, _, _, _, _, h => hf _ _ _ _ _ h
  | _ :: t, _, _, _, _, _, h => bagRows_ok w g img (fun _ _ _ _ _ h => bags_ok w g img hf t _ _ _ _ _ h) _ _ _ _ _ _ h
theorem writeBags_ok (w : Who) (stride code : Nat) (fl : BitVec 5) :
    ∀ (l : List (List Byte × Bool)) (s : State) (va : Nat) (race : Bool) (bad : List (Nat × Nat)), MemoryOk s →
      Chunk.Ok (writeBags w stride code fl s va race bad l)
  | [], _, _, _, _, h => MemoryOk.foldl (fun _ _ h => poisonLines_ok _ _ _ _ h) _ h
  | _ :: t, _, _, _, _, h => chunkWrite_ok _ _ _ _ h fun _ _ h => writeBags_ok w stride code fl t _ _ _ _ h
theorem chunkGsum_ok (s : State) (w : Who) (g : GRun) (img : Nat) (h : MemoryOk s) : Chunk.Ok (chunkGsum s w g img) :=
  chunkRead_ok _ _ _ _ h fun _ _ _ _ h => bagLists_ok _ _ _ (fun _ _ _ h => bags_ok _ _ _ (fun _ _ _ _ _ h => writeBags_ok _ _ _ _ _ _ _ _ _ h) _ _ _ _ _ _ h) _ _ _ _ h
theorem takeGrant_ok (s : State) (qk : Nat) (n : Nat) (room : Option Nat) (h : MemoryOk s) : MemoryOk (takeGrant s qk n room) := by
  unfold takeGrant
  grind [MemoryOk.upd, MemoryOk.foldl, modRun_ok]
theorem grant_ok (s : State) (qk n : Nat) (h : MemoryOk s) : ∀ t, grant s qk n = some t → MemoryOk t := by
  intro t e
  unfold grant at e
  obtain ⟨⟨r, img⟩, _, e⟩ := Option.bind_eq_some_iff.mp e
  dsimp only at e
  split at e
  · cases e
  · obtain ⟨x, _, rfl⟩ := Option.map_eq_some_iff.mp e
    exact takeGrant_ok _ _ _ _ (useComm_ok _ _ _ h)
theorem outsideGrant_ok (s : State) (qk n : Nat) (h : MemoryOk s) : ∀ t, outsideGrant s qk n = some t → MemoryOk t := by
  intro t e
  unfold outsideGrant at e
  obtain ⟨⟨r, img⟩, _, e⟩ := Option.bind_eq_some_iff.mp e
  dsimp only at e
  split at e
  · cases e
  · cases e; exact takeGrant_ok _ _ _ _ h
theorem endNode_ok (s : State) (qk : Nat) (n : Nat) (w : Who) (code : Nat) (fl : BitVec 5) (homes : List Nat) (h : MemoryOk s) : MemoryOk (endNode s qk n w code fl homes) := by
  unfold endNode
  grind [MemoryOk.upd, MemoryOk.foldl, headCode_ok, raiseFlags_ok, modRun_ok]
theorem landWrite_ok (w : Who) (qk n : Nat) : ∀ (l : List (Nat × Nat)) (s : State) (d : List Byte) (race : Bool), MemoryOk s →
    ∀ x, landWrite s w qk n l d race = some x → MemoryOk x.1
  | [], s, d, race, h, x, e => by cases e; exact h
  | (va, k) :: t, s, d, race, h, x, e => by
    unfold landWrite at e
    extract_lets at_ at e
    have ha : ∀ y, at_ = some y → MemoryOk y.2 := by
      intro y g
      have l := locate_ok s w.place w.tasid va .store k h
      change (match heldAt s qk n w.tasid va with | some x => some (x, s) | none => _) = some y at g
      split at g
      · cases g; exact h
      · split at g
        · rename_i e2; cases g; rw [e2] at l; exact l
        · cases g
    clear_value at_
    split at e
    · cases e
    · rename_i pa home leaf s'
      have hs := ha _ rfl
      split at e
      · cases e
      · have p := performPhys_ok _ w (plainStore va k (ofBytes (d.take k)) 0) 0 pa home leaf (invalidateFor_ok s' pa none hs)
        split at e
        · rename_i g; rw [g] at p; exact landWrite_ok w qk n t _ _ _ p x e
        · cases e
theorem landIn_ok (s : State) (qk n : Nat) (data : List Byte) (bad : List Nat) (clk : Clock) (h : MemoryOk s) :
    ∀ t, landIn s qk n data bad clk = some t → MemoryOk t := by
  intro t e
  unfold landIn at e
  obtain ⟨r, _, e⟩ := Option.bind_eq_some_iff.mp e
  obtain ⟨img, _, e⟩ := Option.bind_eq_some_iff.mp e
  have hw := nodeWho_ok s r img clk h
  split at e
  rename_i s1 w g
  rw [g] at hw
  dsimp only at e
  obtain ⟨⟨u, race⟩, g, rfl⟩ := Option.map_eq_some_iff.mp e
  exact endNode_ok _ _ _ _ _ _ _ (poisonLines_ok _ _ _ _ (landWrite_ok _ _ _ _ _ _ _ hw _ g))
theorem spillWrite_ok (s : State) (asid va : Nat) (d : List Byte) (h : MemoryOk s) : MemoryOk (spillWrite s asid va d) :=
  MemoryOk.foldlVia (st := Prod.fst) (fun _ _ hx => deviceWrite_ok _ _ _ _ _ hx) (piecesOf va d.length) (b := (s, d)) h
theorem spillRead_ok (s : State) (p : Spilled) (h : MemoryOk s) : ∀ x, spillRead s p = some x → MemoryOk x.1 := by
  refine MemoryOk.optFoldlVia (fun o x ho y e => ?_) _ (fun y e => by cases e; exact h)
  obtain ⟨⟨u, d⟩, g, e⟩ := Option.bind_eq_some_iff.mp e
  obtain ⟨⟨v, u'⟩, g', rfl⟩ := Option.map_eq_some_iff.mp e
  exact deviceFetch_ok _ _ _ _ (ho _ g) _ _ g'
theorem spillAll_ok : ∀ (l : List (Spilled × List Byte)) (s : State) (a : Nat), MemoryOk s → MemoryOk (spillAll s a l).1
  | [], _, _, h => h
  | (p, d) :: t, s, a, h => spillAll_ok t _ _ (spillWrite_ok _ _ _ _ (spillWrite_ok _ _ _ _ h))
theorem spillPlace_ok (s : State) (asid comm st need : Nat) (h : MemoryOk s) : ∀ x, spillPlace s asid comm st need = some x → MemoryOk x.1 := by
  intro x e
  unfold spillPlace at e
  split at e
  extract_lets l used at e
  split at e
  · cases e; exact h
  · obtain ⟨⟨u, ds⟩, g, rfl⟩ := Option.map_eq_some_iff.mp e
    have hu : MemoryOk u := MemoryOk.optFoldlVia (fun o x ho y e => by
      obtain ⟨⟨v, ds⟩, g, e⟩ := Option.bind_eq_some_iff.mp e
      obtain ⟨⟨v', d⟩, g', rfl⟩ := Option.map_eq_some_iff.mp e
      exact spillRead_ok _ _ (ho _ g) _ g') l (fun y e => by cases e; exact h) _ g
    exact putBase_ok _ _ _ (spillAll_ok _ _ _ hu)
theorem spill_ok (s : State) (b : Beat) (h : MemoryOk s) : ∀ t, spill s b = some t → MemoryOk t := by
  intro t e
  unfold spill at e
  obtain ⟨⟨u, a⟩, g, rfl⟩ := Option.map_eq_some_iff.mp e
  have hw := spillWrite_ok _ b.asid ((a + 64) % 2 ^ 64) b.data (spillWrite_ok u b.asid (a % 2 ^ 64) (bytesOf (spillHeader
    { asid := b.asid, comm := b.comm, tag := b.tag, chunk := b.chunk, len := b.data.length, addr := BitVec.ofNat 64 a, bad := b.bad, clk := b.clk } 0) 64)
    (spillPlace_ok _ _ _ _ _ h _ g))
  refine putBase_ok _ _ _ ?_
  split
  · exact deviceWrite_ok _ _ _ _ _ hw
  · exact hw
theorem unspill_ok (s : State) (st : Nat) (p : Spilled) (h : MemoryOk s) : MemoryOk (unspill s st p) := by
  unfold unspill
  refine putBase_ok _ _ _ ?_
  split
  · exact deviceWrite_ok _ _ _ _ _ h
  · exact h
theorem passRoom_ok (s : State) (st : Nat) (k : MatchKey) (n : Nat) (h : MemoryOk s) : ∀ t, passRoom s st k n = some t → MemoryOk t := by
  intro t e
  unfold passRoom at e
  split at e <;> cases e
  · exact takeGrant_ok _ _ _ _ h
  · exact h
  · exact modRun_ok _ _ _ h
theorem land_ok (s : State) (b : Beat) (h : MemoryOk s) : ∀ t, land s b = some t → MemoryOk t := by
  intro t e
  unfold land at e
  extract_lets taken ps s' at e
  have h' : MemoryOk s' := h
  split at e
  · exact landIn_ok _ _ _ _ _ _ h' t e
  · obtain ⟨u, g, e⟩ := Option.bind_eq_some_iff.mp e
    refine landIn_ok _ _ _ _ _ _ ?_ t e
    split at g
    · exact passRoom_ok _ _ _ _ h' _ g
    · cases g; exact h'
  · exact spill_ok _ _ h' t e
  · split at e
    · exact spill_ok _ _ h' t e
    · cases e
theorem fromSpill_ok (s : State) (qk n st : Nat) (p : Spilled) (h : MemoryOk s) : ∀ t, fromSpill s qk n st p = some t → MemoryOk t := by
  intro t e
  unfold fromSpill at e
  obtain ⟨⟨u, d⟩, g, e⟩ := Option.bind_eq_some_iff.mp e
  exact landIn_ok _ _ _ _ _ _ (unspill_ok _ _ _ (spillRead_ok _ _ h _ g)) t e
theorem postHolds_ok (w : Who) (qk n : Nat) : ∀ (l : List (Nat × Nat)) (s : State), MemoryOk s → Chunk.Ok (postHolds s w qk n l)
  | [], _, h => h
  | (va, _) :: t, s, h => by
    unfold postHolds
    refine iteInduction (motive := Chunk.Ok) (fun _ => trivial) fun _ => ?_
    have l := locate_ok s w.place w.tasid va .store 1 h
    split
    all_goals try trivial
    rename_i g
    rw [g] at l
    split
    · trivial
    · exact postHolds_ok w qk n t _ (iteInduction (motive := MemoryOk) (fun _ => l) fun _ => putBase_ok _ _ _ l)
theorem finishChunk_ok (s s1 : State) (qk n : Nat) (r : Running) (w : Who) (res : Chunk) (h : MemoryOk s) (h1 : MemoryOk s1) (hr : Chunk.Ok res) :
    ∀ t, runChunk.finishChunk s s1 qk n r w res = some t → MemoryOk t := by
  intro t e
  unfold runChunk.finishChunk at e
  split at e
  · cases e; exact endNode_ok _ _ _ _ _ _ _ hr
  · cases e
  · cases e; exact modRun_ok _ _ _ (stopEntry_ok _ _ _ _ _ _ _ _ _ h)
  · cases e; exact endNode_ok _ _ _ _ _ _ _ h1
theorem runChunk_ok (s : State) (qk n : Nat) (h : MemoryOk s) : ∀ t, runChunk s qk n = some t → MemoryOk t := by
  intro t e
  unfold runChunk at e
  obtain ⟨r, _, e⟩ := Option.bind_eq_some_iff.mp e
  obtain ⟨img, _, e⟩ := Option.bind_eq_some_iff.mp e
  split at e
  · obtain ⟨p, _, e⟩ := Option.bind_eq_some_iff.mp e
    exact fromSpill_ok _ _ _ _ _ h t e
  · have hw := nodeWho_ok s r img [] h
    split at e
    rename_i s1 w g
    rw [g] at hw
    extract_lets res at e
    refine finishChunk_ok _ _ _ _ _ _ _ h hw ?_ t e
    show Chunk.Ok (match nOp img with | 1 => _ | 2 => _ | 3 => _ | 4 => _ | 5 => _ | _ => _)
    split
    · exact chunkCopy_ok _ _ _ _ hw
    · exact chunkReduce_ok _ _ _ _ hw
    · exact chunkReduce_ok _ _ _ _ hw
    · exact chunkGsum_ok _ _ _ _ hw
    · exact chunkCmp4_ok _ _ _ _ hw
    · exact chunkRead_ok _ _ _ _ hw fun s _ _ _ h => useComm_ok _ _ _ (freshId_ok s h)
theorem enginePick_ok (s : State) (st : Nat) (h : MemoryOk s) : ∀ x, enginePick s st = some x → MemoryOk x.2 := by
  have key : ∀ (f : Candidate → Option (Candidate × State)) (_ : ∀ c x, f c = some x → MemoryOk x.2) l x, firstSome f l = some x → MemoryOk x.2 := by
    intro f hf l
    induction l with
    | nil => intro x e; cases e
    | cons c l ih =>
      intro x e
      unfold firstSome at e
      split at e
      · rename_i g; cases e; exact hf c _ g
      · exact ih x e
  intro x e
  refine key _ (fun c x e => ?_) _ x e
  obtain ⟨t, g, rfl⟩ := Option.map_eq_some_iff.mp e
  exact runChunk_ok _ _ _ h t g
theorem runNode_ok (op qk n : Nat) (s : State) (h : MemoryOk s) : MemoryOk (runNode op qk n s) := by
  unfold runNode
  split
  · exact h
  · refine iteInduction (motive := MemoryOk) (fun _ => h) fun _ => ?_
    split
    · exact h
    · rename_i g
      have p := enginePick_ok _ _ h _ g
      exact iteInduction (motive := MemoryOk) (fun _ => h) fun _ => putBase_ok _ _ _ p
theorem postRecv_ok (s : State) (qk n : Nat) (h : MemoryOk s) : ∀ t, postRecv s qk n = some t → MemoryOk t := by
  intro t e
  unfold postRecv at e
  obtain ⟨r, _, e⟩ := Option.bind_eq_some_iff.mp e
  obtain ⟨img, _, e⟩ := Option.bind_eq_some_iff.mp e
  extract_lets st at e
  split at e
  · cases e
  · have hw := nodeWho_ok s r img [] h
    split at e
    rename_i s1 w g
    rw [g] at hw
    have p := postHolds_ok w qk n (piecesOf (r.g.addr img 1) (nLen img)) s h
    split at e
    · rename_i g; rw [g] at p; cases e; exact putBase_ok _ _ _ p
    · exact finishChunk_ok _ _ _ _ _ _ _ h hw p t e
theorem completeNode_ok (qk : Nat) (n : Nat) (s : State) (h : MemoryOk s) : MemoryOk (completeNode qk n s) := by
  unfold completeNode
  grind [MemoryOk.upd, MemoryOk.foldl, putMarker_ok, modHead_ok, modRun_ok]
theorem execRunEntryStart_ok (qk : Nat) (s : State) (h : MemoryOk s) : ∀ t, execRunEntryStart qk s = .next t → MemoryOk t := by
  exact event_ok _ s (by intro s h; apply startRun_ok; assumption) h
theorem execNodeCopy_ok (qk : Nat) (n : Nat) (s : State) (h : MemoryOk s) : ∀ t, execNodeCopy qk n s = .next t → MemoryOk t := by
  exact event_ok _ s (by intro s h; apply runNode_ok; assumption) h
theorem execNodeRadd_ok (qk : Nat) (n : Nat) (s : State) (h : MemoryOk s) : ∀ t, execNodeRadd qk n s = .next t → MemoryOk t := by
  exact event_ok _ s (by intro s h; apply runNode_ok; assumption) h
theorem execNodeRmax_ok (qk : Nat) (n : Nat) (s : State) (h : MemoryOk s) : ∀ t, execNodeRmax qk n s = .next t → MemoryOk t := by
  exact event_ok _ s (by intro s h; apply runNode_ok; assumption) h
theorem execNodeGsum_ok (qk : Nat) (n : Nat) (s : State) (h : MemoryOk s) : ∀ t, execNodeGsum qk n s = .next t → MemoryOk t := by
  exact event_ok _ s (by intro s h; apply runNode_ok; assumption) h
theorem execNodeCmp4_ok (qk : Nat) (n : Nat) (s : State) (h : MemoryOk s) : ∀ t, execNodeCmp4 qk n s = .next t → MemoryOk t := by
  exact event_ok _ s (by intro s h; apply runNode_ok; assumption) h
theorem execNodeSend_ok (qk : Nat) (n : Nat) (s : State) (h : MemoryOk s) : ∀ t, execNodeSend qk n s = .next t → MemoryOk t := by
  exact event_ok _ s (by intro s h; apply runNode_ok; assumption) h
theorem execNodeRecv_ok (qk : Nat) (n : Nat) (s : State) (h : MemoryOk s) : ∀ t, execNodeRecv qk n s = .next t → MemoryOk t := by
  exact event_ok _ s (by intro s h; grind [MemoryOk.upd, MemoryOk.foldl, event_ok, runNode_ok, postRecv_ok]) h
theorem execLandingGrant_ok (qk n : Nat) (s : State) (h : MemoryOk s) : ∀ t, execLandingGrant qk n s = .next t → MemoryOk t := by
  refine event_ok _ s (fun s h => MemoryOk.optGetD (fun t e => ?_) h) h
  cases g : grant s qk n with
  | some u => rw [g] at e; cases e; exact grant_ok _ _ _ h _ g
  | none => rw [g] at e; exact outsideGrant_ok _ _ _ h _ e
theorem chunkStep_ok (s : State) (b : Beat) (h : MemoryOk s) : MemoryOk (chunkStep s b) := by
  unfold chunkStep
  extract_lets out go
  split
  · rename_i t e
    obtain ⟨p, _, e⟩ := List.exists_of_findSome?_eq_some e
    by_cases c : p.path.length > 1
    · exact forward_ok s p h t (by simpa [go, c] using e)
    · by_cases d : mayLeave s p
      · have e' : takeOff s p b.id = t := by simpa [go, c, d] using e
        exact e' ▸ takeOff_ok _ _ _ h
      · simp [go, c, d] at e
  · split
    · exact iteInduction (motive := MemoryOk) (fun _ => h) fun _ => send_ok _ _ h
    · exact iteInduction (motive := MemoryOk) (fun _ => h) fun _ => iteInduction (motive := MemoryOk) (fun _ => h) fun _ => MemoryOk.optGetD (land_ok _ _ h) h
theorem chunkArrives_ok (s : State) (x : Arrival) (h : MemoryOk s) : MemoryOk (chunkArrives s x) := by
  unfold chunkArrives
  have hf := freshId_ok s h
  generalize freshId s = y at hf
  obtain ⟨id, s⟩ := y
  dsimp only
  refine iteInduction (motive := MemoryOk) (fun _ => hf) fun _ => ?_
  split
  · exact hf
  · have hu : MemoryOk (useComm s x.asid x.comm) := useComm_ok _ _ _ hf
    exact MemoryOk.optGetD (land_ok _ _ (MemoryOk.upd hu)) (MemoryOk.upd hu)
theorem execChunk_ok (id : Nat) (outside : Option Arrival) (s : State) (h : MemoryOk s) : ∀ t, execChunk id s outside = .next t → MemoryOk t := by
  refine event_ok _ s (fun s h => ?_) h
  split
  · exact chunkArrives_ok _ _ h
  · split
    · exact chunkStep_ok _ _ h
    · exact h
theorem execNodeCompletion_ok (qk : Nat) (n : Nat) (s : State) (h : MemoryOk s) : ∀ t, execNodeCompletion qk n s = .next t → MemoryOk t := by
  exact event_ok _ s (by intro s h; apply completeNode_ok; assumption) h
theorem execRunCompletion_ok (qk : Nat) (s : State) (h : MemoryOk s) : ∀ t, execRunCompletion qk s = .next t → MemoryOk t := by
  exact event_ok _ s (by intro s h; grind [MemoryOk.upd, MemoryOk.foldl, event_ok, finishHead_ok, completeEntry_ok]) h
theorem pushStack_ok (c : Ctx') (sig : Bool) (img : Nat) (read : Option Nat) (h : MemoryOk c.s) : Go.Ok (pushStack c sig img read) := by
  unfold pushStack
  extract_lets qk c' go
  have hc : MemoryOk c'.s := by
    show MemoryOk (Ctx'.s (if _ then _ else _))
    split
    · exact modAgent_ok _ _ _ h
    · exact h
  clear_value c'
  have hg : Go.Ok go := iteInduction (motive := Go.Ok) (fun _ => hc) fun _ => releasing_ok c' _ hc fun s a hs => pushOr_ok _ _ _ _ _ _ hs hs
  refine iteInduction (motive := Go.Ok) (fun _ => hg) fun _ => ?_
  split
  · exact hc
  · exact hg
theorem bodyCgrun_ok (c : Ctx') (h : MemoryOk c.s) : Go.Ok (bodyCgrun c) := by
  unfold bodyCgrun
  grind [MemoryOk.upd, MemoryOk.foldl, Go.Ok, freeze_ok, pushStack_ok]
theorem bodyGsum_ok (c : Ctx') (h : MemoryOk c.s) : Go.Ok (bodyGsum c) := by
  unfold bodyGsum
  extract_lets sig
  refine iteInduction (motive := Go.Ok) (fun _ => h) fun _ => ?_
  have r := readOnce_ok c c.ea 64 h
  split
  · rename_i e; rw [e] at r; exact r
  · rename_i e
    rw [e] at r
    exact iteInduction (motive := Go.Ok) (fun _ => queueError_ok _ r) fun _ => pushStack_ok _ sig _ _ r
theorem execCgrun_ok (f : FormL) (s : State) (h : MemoryOk s) : ∀ t, execCgrun f s = .next t → MemoryOk t := by
  exact fun t e => issueL_ok (fun c hc => bodyCgrun_ok c hc) h e
theorem execGsum_ok (f : FormL) (s : State) (h : MemoryOk s) : ∀ t, execGsum f s = .next t → MemoryOk t := by
  exact fun t e => issueL_ok (fun c hc => bodyGsum_ok c hc) h e

/-! ### Sys2Proof/Machine/Link.lean -/

theorem putLink_ok (s : State) (n : Nat) (l : Link) (h : MemoryOk s) : MemoryOk (putLink s n l) := by
  unfold putLink
  grind [MemoryOk.upd, MemoryOk.foldl]
theorem putRecord_ok (s : State) (pa r : Nat) (h : MemoryOk s) : MemoryOk (putRecord s pa r) := by
  have hw := Memory.wf_writeN h.1 pa r 32
  unfold putRecord
  revert hw
  generalize writeN s.mem pa r 32 = m
  exact fun hw => unpoison_ok _ _ _ ⟨hw, h.2⟩
theorem logError_ok (s : State) (u : EccUnit) (kind : Nat) (h : MemoryOk s) : MemoryOk (logError s u kind) := by
  unfold logError
  split
  exact MemoryOk.upd (putRecord_ok _ _ _ (putBase_ok _ _ _ h))
theorem remapAll_ok (s : State) (alive : Nat) (h : MemoryOk s) : MemoryOk (remapAll s alive) := by
  unfold remapAll
  grind [MemoryOk.upd, MemoryOk.foldl]
theorem popChange_ok (s : State) (h : MemoryOk s) : MemoryOk (popChange s) := by
  unfold popChange
  grind [MemoryOk.upd, MemoryOk.foldl]
theorem startChange_ok (s : State) (e : Event) (h : MemoryOk s) : MemoryOk (startChange s e) := by
  unfold startChange
  grind [MemoryOk.upd, MemoryOk.foldl]
theorem fence_ok (s : State) (n : Nat) (h : MemoryOk s) : MemoryOk (fence s n) := by
  unfold fence
  grind [MemoryOk.upd, MemoryOk.foldl, replay_ok, putLink_ok]
theorem loseLane_ok (s : State) (n : Nat) (b : Nat) (control : Bool) (h : MemoryOk s) : MemoryOk (loseLane s n b control) := by
  unfold loseLane
  grind [MemoryOk.upd, MemoryOk.foldl, putLink_ok, logError_ok, fence_ok]
theorem retireLink_ok (s : State) (n : Nat) (h : MemoryOk s) : MemoryOk (retireLink s n) := by
  unfold retireLink
  grind [MemoryOk.upd, MemoryOk.foldl, putLink_ok, logError_ok]
theorem execCrcReplay_ok (n : Nat) (fails : Nat) (s : State) (h : MemoryOk s) : ∀ t, execCrcReplay n fails s = .next t → MemoryOk t := by
  exact event_ok _ s (by intro s h; grind [MemoryOk.upd, MemoryOk.foldl, event_ok, replay_ok, putLink_ok, fence_ok]) h
theorem execLinkTraining_ok (n : Nat) (s : State) (h : MemoryOk s) : ∀ t, execLinkTraining n s = .next t → MemoryOk t := by
  exact event_ok _ s (by intro s h; grind [MemoryOk.upd, MemoryOk.foldl, event_ok, putLink_ok]) h
theorem execLinkTrained_ok (n : Nat) (r : TrainResult) (s : State) (h : MemoryOk s) : ∀ t, execLinkTrained n r s = .next t → MemoryOk t := by
  have hb : ∀ s, MemoryOk s → MemoryOk (execLinkTrained.back n s) := fun s h => h
  refine event_ok _ s (fun s h => ?_) h
  refine iteInduction (motive := MemoryOk) (fun _ => h) fun _ => ?_
  split
  · exact fence_ok _ _ h
  · exact hb _ (putLink_ok _ _ _ h)
  · exact iteInduction (motive := MemoryOk) (fun _ => fence_ok _ _ (putLink_ok _ _ _ h)) fun _ => hb _ (putLink_ok _ _ _ h)
theorem execLaneFault_ok (n : Nat) (b : Nat) (control : Bool) (s : State) (h : MemoryOk s) : ∀ t, execLaneFault n control s b = .next t → MemoryOk t := by
  exact event_ok _ s (by intro s h; grind [MemoryOk.upd, MemoryOk.foldl, event_ok, loseLane_ok]) h
theorem execLinkSelfTest_ok (n : Nat) (lasting : Bool) (s : State) (h : MemoryOk s) : ∀ t, execLinkSelfTest n lasting s = .next t → MemoryOk t := by
  exact event_ok _ s (by intro s h; grind [MemoryOk.upd, MemoryOk.foldl, event_ok, putLink_ok, retireLink_ok]) h
theorem remapNow_ok (m : Nat) (inService : Bool) (s : State) (h : MemoryOk s) : MemoryOk (remapNow m inService s) := by
  unfold remapNow
  grind [MemoryOk.upd, MemoryOk.foldl, remapAll_ok, popChange_ok]
theorem execMastRemap_ok (m : Nat) (inService : Bool) (s : State) (h : MemoryOk s) : ∀ t, execMastRemap m inService s = .next t → MemoryOk t := by
  exact event_ok _ s (by intro s h; grind [MemoryOk.upd, MemoryOk.foldl, reinject_ok, event_ok, startChange_ok, remapNow_ok]) h
theorem routeNow_ok (st : Nat) (pkg : Nat) (routes : DWord) (s : State) (h : MemoryOk s) : MemoryOk (routeNow st pkg routes s) := by
  unfold routeNow
  grind [MemoryOk.upd, MemoryOk.foldl, putBase_ok]
theorem execRouteChange_ok (st : Nat) (pkg : Nat) (routes : DWord) (s : State) (h : MemoryOk s) : ∀ t, execRouteChange st pkg routes s = .next t → MemoryOk t := by
  exact event_ok _ s (by intro s h; grind [MemoryOk.upd, MemoryOk.foldl, reinject_ok, event_ok, popChange_ok, startChange_ok, routeNow_ok]) h
theorem execDiscardedFlit_ok (n : Nat) (b : BitVec 256) (s : State) (h : MemoryOk s) : ∀ t, execDiscardedFlit n s b = .next t → MemoryOk t := by
  exact event_ok _ s (by intro s h; grind [MemoryOk.upd, MemoryOk.foldl, event_ok, fence_ok]) h
theorem execFw_ok (st : Nat) (msg : DWord) (s : State) (h : MemoryOk s) : ∀ t, execFw st msg s = .next t → MemoryOk t := by
  exact event_ok _ s (by intro s h; grind [MemoryOk.upd, MemoryOk.foldl, putBase_ok, event_ok]) h

end Sys2Proof.Machine
end

