-- ==== Sys2Proof/Laws/FormContext.lean ====
section
/-!
SUPPORT. Sys2Proof/Laws/FormContext.lean: the canonical form of memory is kept by contexts, the host interface, every event, and what a step does around an instruction.
-/
namespace Sys2Proof.Machine

/-! ### Sys2Proof/Machine/Context.lean -/

theorem request_ok (op : Nat) (f : Nat → State → State) (asid : Nat) (s : State) (hf : ∀ a s, MemoryOk s → MemoryOk (f a s)) (h : MemoryOk s) :
    MemoryOk (request op f asid s) := iteInduction (motive := MemoryOk) (fun _ => h) fun _ => hf _ _ h
theorem reply_ok (s : State) (result : Nat) (h : MemoryOk s) : MemoryOk (reply s result) := by
  unfold reply
  grind [MemoryOk.upd, MemoryOk.foldl]
theorem build_ok (asid : Nat) (s : State) (h : MemoryOk s) : MemoryOk (build asid s) := by
  unfold build
  grind [MemoryOk.upd, MemoryOk.foldl, putBase_ok, putCtx_ok, modCtx_ok, setState_ok, contextError_ok, reply_ok]
theorem contextBuild_ok (asid : Nat) (s : State) (h : MemoryOk s) : MemoryOk (contextBuild asid s) := request_ok _ _ _ _ (fun _ _ h => build_ok _ _ h) h
theorem loadQueues_ok (s : State) (asid : Nat) (h : MemoryOk s) : MemoryOk (loadQueues s asid) := by
  unfold loadQueues
  grind [MemoryOk.upd, MemoryOk.foldl, setQueue_ok, loadQueue_ok]
theorem restoreSet_ok (s : State) (ck : Nat) (h : MemoryOk s) : MemoryOk (restoreSet s ck) := by
  unfold restoreSet
  split
  · exact h
  · exact MemoryOk.optGetD (fun t e => firstSome_ok (fun cl t e => restoreCSetOn_ok _ _ _ h t e) _ t e) h
theorem sendLatched_ok (s : State) (a : SigAdd) (h : MemoryOk s) : MemoryOk (sendLatched s a) := by
  unfold sendLatched
  grind [MemoryOk.upd, MemoryOk.foldl, freshId_ok]
theorem sendAllLatched_ok (s : State) (asid : Nat) (h : MemoryOk s) : MemoryOk (sendAllLatched s asid) :=
  MemoryOk.foldl (fun _ _ h => sendLatched_ok _ _ h) _ (modCtx_ok _ _ _ h)
theorem restoreContext_ok (s : State) (asid : Nat) (c : Ctx) (h : MemoryOk s) : MemoryOk (restoreContext s asid c) := by
  unfold restoreContext
  extract_lets s1 s2 tasked sets s3 s4 s5 s6
  have h1 : MemoryOk s1 := MemoryOk.foldl (fun s x h => iteInduction (motive := MemoryOk) (fun _ => setQueue_ok _ _ _ h) fun _ => h) _ h
  clear_value s1
  have h2 : MemoryOk s2 := MemoryOk.foldl (fun s x h => putDie_ok _ _ _ (dropLines_ok _ _ h)) _ h1
  clear_value s2 sets
  have h3 : MemoryOk s3 := MemoryOk.foldl (fun s x h => returnTask_ok _ _ h) _ h2
  clear_value s3
  have h4 : MemoryOk s4 := MemoryOk.foldl (fun s x h => restoreSet_ok _ _ h) _ h3
  clear_value s4
  have h5 : MemoryOk s5 := sendAllLatched_ok _ _ h4
  clear_value s5
  have h6 : MemoryOk s6 := by
    refine MemoryOk.foldl (fun s x h => ?_) _ h5
    split
    · exact rekey_ok _ _ _ (putAgent_ok _ _ _ (modCtx_ok _ _ _ h))
    · exact h
  clear_value s6
  exact MemoryOk.foldl (fun s x h => settleKernel_ok _ _ h) _ (modCtx_ok _ _ _ h6)
theorem beginCut_ok (s : State) (asid : Nat) (sliced : Bool) (h : MemoryOk s) : MemoryOk (beginCut s asid sliced) := by
  unfold beginCut
  grind [MemoryOk.upd, MemoryOk.foldl, modCtx_ok, setState_ok]
theorem preempt_ok (asid : Nat) (s : State) (h : MemoryOk s) : MemoryOk (preempt asid s) := by
  unfold preempt
  grind [MemoryOk.upd, MemoryOk.foldl, reply_ok, beginCut_ok]
theorem contextPreempt_ok (asid : Nat) (s : State) (h : MemoryOk s) : MemoryOk (contextPreempt asid s) := request_ok _ _ _ _ (fun _ _ h => preempt_ok _ _ h) h
theorem tsliceExpiry_ok (asid : Nat) (s : State) (h : MemoryOk s) : MemoryOk (tsliceExpiry asid s) := by
  unfold tsliceExpiry
  grind [MemoryOk.upd, MemoryOk.foldl, beginCut_ok]
theorem halt_ok (asid : Nat) (s : State) (h : MemoryOk s) : MemoryOk (halt asid s) := by
  unfold halt
  grind [MemoryOk.upd, MemoryOk.foldl, setState_ok, reply_ok]
theorem contextHalt_ok (asid : Nat) (s : State) (h : MemoryOk s) : MemoryOk (contextHalt asid s) := request_ok _ _ _ _ (fun _ _ h => halt_ok _ _ h) h
theorem resume_ok (asid : Nat) (s : State) (h : MemoryOk s) : MemoryOk (resume asid s) := by
  unfold resume
  grind [MemoryOk.upd, MemoryOk.foldl, setState_ok, reply_ok, sendAllLatched_ok]
theorem contextResume_ok (asid : Nat) (s : State) (h : MemoryOk s) : MemoryOk (contextResume asid s) := request_ok _ _ _ _ (fun _ _ h => resume_ok _ _ h) h
theorem drainTimeout_ok (asid : Nat) (s : State) (h : MemoryOk s) : MemoryOk (drainTimeout asid s) := by
  unfold drainTimeout
  grind [MemoryOk.upd, MemoryOk.foldl, modCtx_ok, drain_ok]
theorem handlerCutTimeout_ok (asid : Nat) (s : State) (h : MemoryOk s) : MemoryOk (handlerCutTimeout asid s) := by
  unfold handlerCutTimeout
  grind [MemoryOk.upd, MemoryOk.foldl, freeze_ok]
theorem run_ok {f : State → Out} {s : State} (hf : ∀ t, f s = .next t → MemoryOk t) (h : MemoryOk s) : MemoryOk (run f s) := by
  unfold run
  split
  · rename_i e; exact hf _ e
  · exact h
theorem runAll_ok (fs : List (State → Out)) (hf : ∀ f ∈ fs, ∀ s, MemoryOk s → ∀ t, f s = .next t → MemoryOk t) : ∀ s, MemoryOk s → MemoryOk (fs.foldl (fun s f => run f s) s) := by
  induction fs with
  | nil => exact fun _ h => h
  | cons f fs ih =>
    exact fun s h => ih (fun g hg => hf g (List.mem_cons_of_mem _ hg)) _ (run_ok (hf f List.mem_cons_self s h) h)
theorem settleRound_ok (asid : Nat) (s : State) (h : MemoryOk s) : MemoryOk (settleRound asid s) := by
  unfold settleRound
  extract_lets s1 s2 s3 s4 s5
  have h1 : MemoryOk s1 := MemoryOk.foldl (fun s x h => iteInduction (motive := MemoryOk) (fun _ => run_ok (execProducerCompletion_ok _ _ h) h) fun _ => h) _ h
  clear_value s1
  have h2 : MemoryOk s2 := by
    refine MemoryOk.foldl (fun s id h => ?_) _ h1
    refine runAll_ok [execRead id, execWrite id, execAtomic id, execSignalAddition id, execFwd id, execFwdans id, execResp id, execAck id, execLoadCompletion id] ?_ s h
    simp only [List.forall_mem_cons]
    exact ⟨execRead_ok id, execWrite_ok id, execAtomic_ok id, execSignalAddition_ok id, execFwd_ok id, execFwdans_ok id, execResp_ok id, execAck_ok id,
      execLoadCompletion_ok id, by simp⟩
  clear_value s2
  have h3 : MemoryOk s3 := MemoryOk.foldl (fun s x h => run_ok (execMarkerack_ok _ _ (run_ok (execMarker_ok _ _ h) h)) (run_ok (execMarker_ok _ _ h) h)) _ h2
  clear_value s3
  have h4 : MemoryOk s4 := MemoryOk.foldl (fun s x h => run_ok (execInvalack_ok _ _ (run_ok (execInval_ok _ _ h) h)) (run_ok (execInval_ok _ _ h) h)) _ h3
  clear_value s4
  have h5 : MemoryOk s5 := MemoryOk.foldl (fun s x h => run_ok (f := fun s => execChunk x.id s) (execChunk_ok _ none _ h) h) _ h4
  clear_value s5
  exact MemoryOk.foldl (fun s x h => iteInduction (motive := MemoryOk) (fun _ => run_ok (execAppendArrival_ok _ _ h) h) fun _ => h) _ h5
theorem settle5_ok (asid : Nat) : ∀ (n : Nat) (s : State), MemoryOk s → MemoryOk (settle5 asid n s)
  | 0, _, h => h
  | n + 1, s, h => iteInduction (motive := MemoryOk) (fun _ => h) fun _ => settle5_ok asid n _ (settleRound_ok asid s h)
theorem discardDead_ok (s : State) (g : Nat) (h : MemoryOk s) : MemoryOk (discardDead s g) := by
  unfold discardDead
  grind [MemoryOk.upd, MemoryOk.foldl, putAgent_ok]
theorem flushGroup_ok (s : State) (gk : Nat) (h : MemoryOk s) : MemoryOk (flushGroup s gk) := by
  unfold flushGroup
  grind [MemoryOk.upd, MemoryOk.foldl, putKernel_ok]
theorem writeSave_ok (s : State) (asid : Nat) (c : Ctx) (h : MemoryOk s) : ∀ t, writeSave s asid c = some t → MemoryOk t := by
  intro t e
  unfold writeSave at e
  split at e
  split at e
  · cases e
  · cases e
    refine MemoryOk.foldl (fun s x h => ?_) _ h
    obtain ⟨o, n, v⟩ := x
    refine unpoison_ok _ _ _ ?_
    exact ⟨Memory.wf_writeN h.1 _ _ _, h.2⟩
theorem runContext_ok (s : State) (asid : Nat) (c : Ctx) (h : MemoryOk s) : MemoryOk (runContext s asid c) := by
  unfold runContext
  grind [MemoryOk.upd, MemoryOk.foldl, setState_ok, contextError_ok, reply_ok, loadQueues_ok, restoreContext_ok]
theorem start_ok (asid : Nat) (s : State) (h : MemoryOk s) : MemoryOk (start asid s) := by
  unfold start
  grind [MemoryOk.upd, MemoryOk.foldl, reply_ok, runContext_ok]
theorem contextStart_ok (asid : Nat) (s : State) (h : MemoryOk s) : MemoryOk (contextStart asid s) := request_ok _ _ _ _ (fun _ _ h => start_ok _ _ h) h
theorem contextStartWhenFree_ok (asid : Nat) (s : State) (h : MemoryOk s) : MemoryOk (contextStartWhenFree asid s) := by
  unfold contextStartWhenFree
  grind [MemoryOk.upd, MemoryOk.foldl, reply_ok, runContext_ok]
theorem scanContext_ok (s : State) (asid : Nat) (x : Cut) (h : MemoryOk s) : MemoryOk (scanContext s asid x) := by
  unfold scanContext
  grind [MemoryOk.upd, MemoryOk.foldl, putEngine_ok, modCtx_ok, deviceWrite_ok, setQueue_ok, saveGroup_ok, releaseCSet_ok, setState_ok, endRequest_ok, contextError_ok, discardDead_ok, flushGroup_ok, writeSave_ok]
theorem setReady_ok (s : State) (asid : Nat) (h : MemoryOk s) : MemoryOk (setReady s asid) := by
  unfold setReady
  grind [MemoryOk.upd, MemoryOk.foldl, modCtx_ok]
theorem contextCut_ok (asid : Nat) (s : State) (h : MemoryOk s) : MemoryOk (contextCut asid s) := by
  unfold contextCut
  split
  · exact h
  · extract_lets s1 s2
    have h1 : MemoryOk s1 := setReady_ok _ _ h
    have h2 : MemoryOk s2 := settle5_ok _ _ _ h1
    exact iteInduction (motive := MemoryOk) (fun _ => h1) fun _ => iteInduction (motive := MemoryOk) (fun _ => scanContext_ok _ _ _ h2) fun _ => h2
theorem drainForward_ok (asid : Nat) (s : State) (h : MemoryOk s) : MemoryOk (drainForward asid s) := by
  unfold drainForward
  grind [MemoryOk.upd, MemoryOk.foldl, modCtx_ok, setReady_ok]
theorem retire_ok (asid : Nat) (s : State) (h : MemoryOk s) : MemoryOk (retire asid s) := by
  unfold retire
  grind [MemoryOk.upd, MemoryOk.foldl, modCtx_ok, dropMail_ok, setState_ok, reply_ok]
theorem contextRetire_ok (asid : Nat) (s : State) (h : MemoryOk s) : MemoryOk (contextRetire asid s) := request_ok _ _ _ _ (fun _ _ h => retire_ok _ _ h) h
theorem contextFree_ok (asid : Nat) (s : State) (h : MemoryOk s) : MemoryOk (contextFree asid s) := by
  unfold contextFree
  grind [MemoryOk.upd, MemoryOk.foldl, setState_ok, build_ok]
theorem execContextBuild_ok (asid : Nat) (s : State) (h : MemoryOk s) : ∀ t, execContextBuild asid s = .next t → MemoryOk t := event_ok _ s (fun _ h => contextBuild_ok _ _ h) h
theorem execContextStart_ok (asid : Nat) (s : State) (h : MemoryOk s) : ∀ t, execContextStart asid s = .next t → MemoryOk t := event_ok _ s (fun _ h => contextStart_ok _ _ h) h
theorem execContextStartWhenFree_ok (asid : Nat) (s : State) (h : MemoryOk s) : ∀ t, execContextStartWhenFree asid s = .next t → MemoryOk t := by
  exact event_ok _ s (by intro s h; apply contextStartWhenFree_ok; assumption) h
theorem execContextPreempt_ok (asid : Nat) (s : State) (h : MemoryOk s) : ∀ t, execContextPreempt asid s = .next t → MemoryOk t := event_ok _ s (fun _ h => contextPreempt_ok _ _ h) h
theorem execContextHalt_ok (asid : Nat) (s : State) (h : MemoryOk s) : ∀ t, execContextHalt asid s = .next t → MemoryOk t := event_ok _ s (fun _ h => contextHalt_ok _ _ h) h
theorem execContextResume_ok (asid : Nat) (s : State) (h : MemoryOk s) : ∀ t, execContextResume asid s = .next t → MemoryOk t := event_ok _ s (fun _ h => contextResume_ok _ _ h) h
theorem execContextRetire_ok (asid : Nat) (s : State) (h : MemoryOk s) : ∀ t, execContextRetire asid s = .next t → MemoryOk t := event_ok _ s (fun _ h => contextRetire_ok _ _ h) h
theorem execContextFree_ok (asid : Nat) (s : State) (h : MemoryOk s) : ∀ t, execContextFree asid s = .next t → MemoryOk t := by
  exact event_ok _ s (by intro s h; apply contextFree_ok; assumption) h
theorem execTsliceExpiry_ok (asid : Nat) (s : State) (h : MemoryOk s) : ∀ t, execTsliceExpiry asid s = .next t → MemoryOk t := by
  exact event_ok _ s (by intro s h; apply tsliceExpiry_ok; assumption) h
theorem execContextCut_ok (asid : Nat) (s : State) (h : MemoryOk s) : ∀ t, execContextCut asid s = .next t → MemoryOk t := by
  exact event_ok _ s (by intro s h; apply contextCut_ok; assumption) h
theorem execDrainTimeout_ok (asid : Nat) (s : State) (h : MemoryOk s) : ∀ t, execDrainTimeout asid s = .next t → MemoryOk t := by
  exact event_ok _ s (by intro s h; apply drainTimeout_ok; assumption) h
theorem execHandlerCutTimeout_ok (asid : Nat) (s : State) (h : MemoryOk s) : ∀ t, execHandlerCutTimeout asid s = .next t → MemoryOk t := by
  exact event_ok _ s (by intro s h; apply handlerCutTimeout_ok; assumption) h
theorem execDrainForward_ok (asid : Nat) (s : State) (h : MemoryOk s) : ∀ t, execDrainForward asid s = .next t → MemoryOk t := by
  exact event_ok _ s (by intro s h; apply drainForward_ok; assumption) h

/-! ### Sys2Proof/Machine/Host.lean -/

theorem diePowerOff_ok (d : Nat) (s : State) (h : MemoryOk s) : MemoryOk (diePowerOff d s) := by
  unfold diePowerOff
  grind [MemoryOk.upd, MemoryOk.foldl, putDie_ok, dropLines_ok]
theorem diePowerOn_ok (d : Nat) (s : State) (h : MemoryOk s) : MemoryOk (diePowerOn d s) := by
  unfold diePowerOn
  grind [MemoryOk.upd, MemoryOk.foldl, putCluster_ok, putDie_ok]
theorem operatingPointRequest_ok (d : Nat) (p : BitVec 2) (s : State) (h : MemoryOk s) : MemoryOk (operatingPointRequest d p s) := by
  unfold operatingPointRequest
  grind [MemoryOk.upd, MemoryOk.foldl, putDie_ok]
theorem operatingPointSwitch_ok (d : Nat) (s : State) (h : MemoryOk s) : MemoryOk (operatingPointSwitch d s) := by
  unfold operatingPointSwitch
  grind [MemoryOk.upd, MemoryOk.foldl, putCluster_ok, putDie_ok]
theorem controlIntervalStart_ok (s : State) (h : MemoryOk s) : MemoryOk (controlIntervalStart s) := by
  unfold controlIntervalStart
  grind [MemoryOk.upd, MemoryOk.foldl, putCluster_ok, operatingPointSwitch_ok]
theorem ctxRequest_ok (s : State) (asid op : Nat) (h : MemoryOk s) : MemoryOk (ctxRequest s asid op) := by
  unfold ctxRequest
  split
  · exact contextBuild_ok _ _ h
  · exact contextStart_ok _ _ h
  · exact contextPreempt_ok _ _ h
  · exact contextHalt_ok _ _ h
  · exact contextResume_ok _ _ h
  · exact contextRetire_ok _ _ h
  · exact request_ok _ _ _ _ (fun _ _ h => h) h
theorem diePower_ok (s : State) (d : Nat) (v : Nat) (h : MemoryOk s) : MemoryOk (diePower s d v) := by
  unfold diePower
  grind [MemoryOk.upd, MemoryOk.foldl, diePowerOff_ok, diePowerOn_ok, operatingPointRequest_ok]
theorem writeReg32_ok (s : State) (st : Nat) (o : Nat) (v : Nat) (h : MemoryOk s) : MemoryOk (writeReg32 s st o v) := by
  unfold writeReg32
  grind [MemoryOk.upd, MemoryOk.foldl, putBase_ok, putDie_ok, modCtx_ok, ctxRequest_ok, diePower_ok]
theorem doorbell_ok (s : State) (master o n v : Nat) (h : MemoryOk s) : MemoryOk (doorbell s master o n v) :=
  run_ok (execDoorbellWrite_ok _ _ _ _ _ h) h
theorem mmioRegisterWrite_ok (master : Nat) (off : Nat) (n : Nat) (v : Nat) (s : State) (h : MemoryOk s) : MemoryOk (mmioRegisterWrite master off n v s) := by
  unfold mmioRegisterWrite
  grind [MemoryOk.upd, MemoryOk.foldl, writeReg32_ok, doorbell_ok]
theorem poisonUnit_ok (s : State) (u : EccUnit) (h : MemoryOk s) : MemoryOk (poisonUnit s u) := by
  unfold poisonUnit
  grind [MemoryOk.upd, MemoryOk.foldl, modAgent_ok, putEngine_ok, putDie_ok, poisonPageOf_ok, poisonPhys_ok, contextError_ok]
theorem eccError_ok (u : EccUnit) (correctable : Bool) (s : State) (h : MemoryOk s) : MemoryOk (eccError u correctable s) :=
  iteInduction (motive := MemoryOk) (fun _ => logError_ok _ _ _ h) fun _ => logError_ok _ _ _ (poisonUnit_ok _ _ h)
theorem retireMast_ok (s : State) (m : Nat) (h : MemoryOk s) : MemoryOk (retireMast s m) := by
  unfold retireMast
  grind [MemoryOk.upd, MemoryOk.foldl]
theorem healthSelfTest_ok (u : EccUnit) (lasting spared : Bool) (s : State) (h : MemoryOk s) : MemoryOk (healthSelfTest u lasting spared s) := by
  have hi : ∀ (b : Bool) (x y : State), MemoryOk x → MemoryOk y → MemoryOk (if b = true then x else y) := fun b x y hx hy =>
    iteInduction (motive := MemoryOk) (fun _ => hx) fun _ => hy
  unfold healthSelfTest
  split
  · exact run_ok (execLinkSelfTest_ok _ _ _ h) h
  · exact h
  · exact hi _ _ _ (loseLane_ok _ _ _ _ h) (logError_ok _ _ _ h)
  · exact run_ok (execLinkSelfTest_ok _ _ _ (hi _ _ _ (fence_ok _ _ h) h)) (hi _ _ _ (fence_ok _ _ h) h)
  · exact logError_ok _ _ _ h
  · exact logError_ok _ _ _ (putDie_ok _ _ _ (dropLines_ok _ _ h))
  · exact logError_ok _ _ _ (iteInduction (motive := MemoryOk) (fun _ => retireMast_ok _ _ h) fun _ => h)
  · exact logError_ok _ _ _ h
theorem dieFailure_ok (d : Nat) (s : State) (h : MemoryOk s) : MemoryOk (dieFailure d s) := by
  unfold dieFailure
  grind [MemoryOk.upd, MemoryOk.foldl, putDie_ok, dropLines_ok, poisonPageOf_ok]
theorem outsideWrite_ok (s : State) (pa : Nat) (data : List Byte) (h : MemoryOk s) : MemoryOk (outsideWrite s pa data) := by
  unfold outsideWrite
  extract_lets n s1 s2
  refine iteInduction (motive := MemoryOk) (fun _ => h) fun _ => publish_ok _ _ _ _ ?_
  have h1 : MemoryOk s1 := by
    refine unpoison_ok _ _ _ ?_
    exact ⟨Memory.wf_writeN h.1 _ _ _, h.2⟩
  exact MemoryOk.foldl (fun s x h => invalidateFor_ok _ _ _ h) _ h1
theorem recordWrite_ok (s : State) (qk w written : Nat) (h : MemoryOk s) : MemoryOk (recordWrite s qk w written) := by
  have hi : ∀ (b : Bool) (x y : State), MemoryOk x → MemoryOk y → MemoryOk (if b = true then x else y) := fun b x y hx hy =>
    iteInduction (motive := MemoryOk) (fun _ => hx) fun _ => hy
  unfold recordWrite
  split
  · exact h
  · extract_lets new one q' s1 s2
    have h1 : MemoryOk s1 := setQueue_ok _ _ _ h
    have h2 : MemoryOk s2 := iteInduction (motive := MemoryOk) (fun _ => run_ok (execQueueEnable_ok _ _ h1) h1) fun _ =>
      iteInduction (motive := MemoryOk) (fun _ => run_ok (execQueueDisable_ok _ _ h1) h1) fun _ => h1
    exact iteInduction (motive := MemoryOk) (fun _ => run_ok (execQueueErrClear_ok _ _ h2) h2) fun _ => h2
theorem bareWrite_ok (s : State) (asid qid pa : Nat) (h : MemoryOk s) : MemoryOk (bareWrite s asid qid pa) := by
  unfold bareWrite
  split
  · exact h
  · extract_lets mine r s1
    have h1 : MemoryOk s1 := by
      have hw := Memory.wf_writeN h.1 pa r 64
      change MemoryOk { s with mem := writeN s.mem pa r 64 }
      revert hw
      generalize writeN s.mem pa r 64 = m
      exact fun hw => ⟨hw, h.2⟩
    clear_value s1
    exact iteInduction (motive := MemoryOk) (fun _ => run_ok (execQueueEnable_ok _ _ h1) h1) fun _ => h1
theorem hostAccess_ok (master : Nat) (pa : Nat) (n : Nat) (data : Option (List Byte)) (s : State) (h : MemoryOk s) : MemoryOk (hostAccess master pa n data s) := by
  unfold hostAccess
  grind [MemoryOk.upd, MemoryOk.foldl, outsideWrite_ok, recordWrite_ok, bareWrite_ok]
theorem attestationQuote_ok (nonce : BitVec 256) (s : State) (h : MemoryOk s) : MemoryOk (attestationQuote nonce s) := by
  unfold attestationQuote
  grind [MemoryOk.upd, MemoryOk.foldl]
theorem packageReset_ok (f : BringUp) (s : State) (h : MemoryOk s) : MemoryOk (packageReset f s) := by
  have hm : ∀ p, Memory.wf (List.filter p s.mem) = true := fun p => Memory.wf_filter h.1 p
  cases f
  · refine MemoryOk.foldl (fun s x h => ?_) _ ⟨hm _, rfl⟩
    exact iteInduction (motive := MemoryOk) (fun _ => h) fun _ =>
      iteInduction (motive := MemoryOk) (fun _ => fence_ok _ _ (putLink_ok _ _ _ h)) fun _ => putLink_ok _ _ _ h
  · exact ⟨hm _, rfl⟩
  · exact ⟨hm _, rfl⟩
  · exact ⟨h.1, rfl⟩
  · exact ⟨h.1, rfl⟩
theorem packageFatal_ok (image : Bool) (s : State) (h : MemoryOk s) : MemoryOk (packageFatal image s) := by
  unfold packageFatal
  grind [MemoryOk.upd, MemoryOk.foldl, contextError_ok]
theorem execMmioRegisterWrite_ok (master : Nat) (off : BitVec 48) (n : Nat) (v : DWord) (s : State) (h : MemoryOk s) : ∀ t, execMmioRegisterWrite off n v s master = .next t → MemoryOk t := by
  exact event_ok _ s (by intro s h; apply mmioRegisterWrite_ok; assumption) h
theorem execDiePowerOff_ok (d : Nat) (s : State) (h : MemoryOk s) : ∀ t, execDiePowerOff d s = .next t → MemoryOk t := by
  exact event_ok _ s (by intro s h; apply diePowerOff_ok; assumption) h
theorem execDiePowerOn_ok (d : Nat) (s : State) (h : MemoryOk s) : ∀ t, execDiePowerOn d s = .next t → MemoryOk t := by
  exact event_ok _ s (by intro s h; apply diePowerOn_ok; assumption) h
theorem execOperatingPointRequest_ok (d : Nat) (p : BitVec 2) (s : State) (h : MemoryOk s) : ∀ t, execOperatingPointRequest d p s = .next t → MemoryOk t := by
  exact event_ok _ s (by intro s h; apply operatingPointRequest_ok; assumption) h
theorem execOperatingPointSwitch_ok (d : Nat) (s : State) (h : MemoryOk s) : ∀ t, execOperatingPointSwitch d s = .next t → MemoryOk t := by
  exact event_ok _ s (by intro s h; apply operatingPointSwitch_ok; assumption) h
theorem execControlIntervalStart_ok (s : State) (h : MemoryOk s) : ∀ t, execControlIntervalStart s = .next t → MemoryOk t := by
  exact event_ok _ s (by intro s h; apply controlIntervalStart_ok; assumption) h
theorem execActivationWindowAdjust_ok (st : Nat) (above : Bool) (s : State) (h : MemoryOk s) : ∀ t, execActivationWindowAdjust st above s = .next t → MemoryOk t := by
  exact event_ok _ s (by intro s h; grind [MemoryOk.upd, MemoryOk.foldl, putBase_ok, event_ok]) h
theorem execEccError_ok (u : EccUnit) (correctable : Bool) (s : State) (h : MemoryOk s) : ∀ t, execEccError u correctable s = .next t → MemoryOk t := by
  exact event_ok _ s (by intro s h; apply eccError_ok; assumption) h
theorem execHealthSelfTest_ok (u : EccUnit) (lasting : Bool) (spared : Bool) (s : State) (h : MemoryOk s) : ∀ t, execHealthSelfTest u lasting spared s = .next t → MemoryOk t := by
  exact event_ok _ s (by intro s h; apply healthSelfTest_ok; assumption) h
theorem execDieFailure_ok (d : Nat) (s : State) (h : MemoryOk s) : ∀ t, execDieFailure d s = .next t → MemoryOk t := by
  exact event_ok _ s (by intro s h; apply dieFailure_ok; assumption) h
theorem execHostWriteInvalidate_ok (pa : BitVec 56) (data : List Byte) (s : State) (h : MemoryOk s) : ∀ t, execHostWriteInvalidate pa data s = .next t → MemoryOk t := by
  exact event_ok _ s (by intro s h; grind [MemoryOk.upd, MemoryOk.foldl, event_ok, outsideWrite_ok]) h
theorem execBackInvalidate_ok (pa : BitVec 56) (s : State) (h : MemoryOk s) : ∀ t, execBackInvalidate pa s = .next t → MemoryOk t := by
  exact event_ok _ s (by intro s h; grind [MemoryOk.upd, MemoryOk.foldl, invalidateFor_ok, event_ok]) h
theorem execAttestationQuote_ok (nonce : BitVec 256) (s : State) (h : MemoryOk s) : ∀ t, execAttestationQuote nonce s = .next t → MemoryOk t := by
  exact event_ok _ s (by intro s h; apply attestationQuote_ok; assumption) h
theorem execPackageReset_ok (f : BringUp) (s : State) (h : MemoryOk s) : ∀ t, execPackageReset f s = .next t → MemoryOk t := by
  exact event_ok _ s (by intro s h; apply packageReset_ok; assumption) h
theorem execPackageFatal_ok (image : Bool) (s : State) (h : MemoryOk s) : ∀ t, execPackageFatal s image = .next t → MemoryOk t := by
  exact event_ok _ s (by intro s h; apply packageFatal_ok; assumption) h
theorem execHostHbmAccess_ok (master : Nat) (pa : BitVec 56) (n : Nat) (data : Option (List Byte)) (s : State) (h : MemoryOk s) : ∀ t, execHostHbmAccess master pa n data s = .next t → MemoryOk t := by
  exact event_ok _ s (by intro s h; apply hostAccess_ok; assumption) h

/-! ### Sys2Proof/Machine/Picker.lean -/

theorem execThreadUrgent_ok (k : Nat) (s : State) (h : MemoryOk s) : ∀ t, execThreadUrgent k s = .next t → MemoryOk t := by
  exact event_ok _ s (by intro s h; grind [MemoryOk.upd, MemoryOk.foldl, modAgent_ok, event_ok]) h
theorem execHoldTimeout_ok (k : Nat) (s : State) (h : MemoryOk s) : ∀ t, execHoldTimeout k s = .next t → MemoryOk t := by
  exact event_ok _ s (by intro s h; grind [MemoryOk.upd, MemoryOk.foldl, modAgent_ok, event_ok]) h
theorem execYieldExpiry_ok (k : Nat) (s : State) (h : MemoryOk s) : ∀ t, execYieldExpiry k s = .next t → MemoryOk t := by
  exact event_ok _ s (by intro s h; grind [MemoryOk.upd, MemoryOk.foldl, modAgent_ok, event_ok]) h
theorem runEvent_ok (e : Event) (s : State) (h : MemoryOk s) : ∀ t, runEvent e s = .next t → MemoryOk t := by
  cases e with
  | threadUrgent k => exact execThreadUrgent_ok k s h
  | holdTimeout k => exact execHoldTimeout_ok k s h
  | yieldExpiry k => exact execYieldExpiry_ok k s h
  | producerCompletion id => exact execProducerCompletion_ok id s h
  | loadCompletion id => exact execLoadCompletion_ok id s h
  | rendezvousCompletion k => exact execRendezvousCompletion_ok k s h
  | mbwaitLimitExpiry k => exact execMbwaitLimitExpiry_ok k s h
  | qwaitLimitExpiry k => exact execQwaitLimitExpiry_ok k s h
  | launchEntryHead q => exact execLaunchEntryHead_ok q s h
  | groupPlacement kern start => exact execGroupPlacement_ok kern start s h
  | weakGroupSave g => exact execWeakGroupSave_ok g s h
  | groupRestore g start => exact execGroupRestore_ok g start s h
  | groupRetirement g => exact execGroupRetirement_ok g s h
  | kernelRetirement kern => exact execKernelRetirement_ok kern s h
  | appendArrival id => exact execAppendArrival_ok id s h
  | quiescence kern => exact execQuiescence_ok kern s h
  | queueEntryStart q => exact execQueueEntryStart_ok q s h
  | copyBox q n => exact execCopyBox_ok q n s h
  | entryCompletion q => exact execEntryCompletion_ok q s h
  | signalAddition id => exact execSignalAddition_ok id s h
  | triggerFire id => exact execTriggerFire_ok id s h
  | triggerEntryPush id => exact execTriggerEntryPush_ok id s h
  | joinMarkerCompletion q => exact execJoinMarkerCompletion_ok q s h
  | taskHead q => exact execTaskHead_ok q s h
  | taskAdmission cl => exact execTaskAdmission_ok cl s h
  | matrixOperationAccept cl => exact execMatrixOperationAccept_ok cl s h
  | matrixKStep cl => exact execMatrixKStep_ok cl s h
  | continuationPush q => exact execContinuationPush_ok q s h
  | carveEntry q => exact execCarveEntry_ok q s h
  | carvingComplete die => exact execCarvingComplete_ok die s h
  | mashOperationEntry q => exact execMashOperationEntry_ok q s h
  | mashTransferEntry q => exact execMashTransferEntry_ok q s h
  | msRelEntry q => exact execMsRelEntry_ok q s h
  | releasingComplete die => exact execReleasingComplete_ok die s h
  | read id => exact execRead_ok id s h
  | write id => exact execWrite_ok id s h
  | atomic id => exact execAtomic_ok id s h
  | resp id => exact execResp_ok id s h
  | ack id => exact execAck_ok id s h
  | marker id => exact execMarker_ok id s h
  | markerack id => exact execMarkerack_ok id s h
  | inval id => exact execInval_ok id s h
  | invalack id => exact execInvalack_ok id s h
  | fwd id => exact execFwd_ok id s h
  | fwdans id => exact execFwdans_ok id s h
  | chunk id outside => exact execChunk_ok id outside s h
  | fw st msg => exact execFw_ok st msg s h
  | migrationLineCopy st n => exact execMigrationLineCopy_ok st n s h
  | migrationSwitch st n => exact execMigrationSwitch_ok st n s h
  | runEntryStart q => exact execRunEntryStart_ok q s h
  | nodeCopy q n => exact execNodeCopy_ok q n s h
  | nodeRadd q n => exact execNodeRadd_ok q n s h
  | nodeRmax q n => exact execNodeRmax_ok q n s h
  | nodeGsum q n => exact execNodeGsum_ok q n s h
  | nodeCmp4 q n => exact execNodeCmp4_ok q n s h
  | nodeSend q n => exact execNodeSend_ok q n s h
  | nodeRecv q n => exact execNodeRecv_ok q n s h
  | landingGrant q n => exact execLandingGrant_ok q n s h
  | nodeCompletion q n => exact execNodeCompletion_ok q n s h
  | runCompletion q => exact execRunCompletion_ok q s h
  | crcReplay link fails => exact execCrcReplay_ok link fails s h
  | linkTraining link => exact execLinkTraining_ok link s h
  | linkTrained link r => exact execLinkTrained_ok link r s h
  | laneFault link control bundle => exact execLaneFault_ok link bundle control s h
  | linkSelfTest link lasting => exact execLinkSelfTest_ok link lasting s h
  | mastRemap mast inService => exact execMastRemap_ok mast inService s h
  | routeChange st pkg routes => exact execRouteChange_ok st pkg routes s h
  | frozenRecordAdmit asid => exact execFrozenRecordAdmit_ok asid s h
  | handlerStart asid => exact execHandlerStart_ok asid s h
  | handlerBudget k => exact execHandlerBudget_ok k s h
  | level2Handling die faulted => exact execLevel2Handling_ok die faulted s h
  | contextBuild asid => exact execContextBuild_ok asid s h
  | contextStart asid => exact execContextStart_ok asid s h
  | contextStartWhenFree asid => exact execContextStartWhenFree_ok asid s h
  | contextPreempt asid => exact execContextPreempt_ok asid s h
  | contextHalt asid => exact execContextHalt_ok asid s h
  | contextResume asid => exact execContextResume_ok asid s h
  | contextRetire asid => exact execContextRetire_ok asid s h
  | contextFree asid => exact execContextFree_ok asid s h
  | tsliceExpiry asid => exact execTsliceExpiry_ok asid s h
  | contextCut asid => exact execContextCut_ok asid s h
  | drainTimeout asid => exact execDrainTimeout_ok asid s h
  | handlerCutTimeout asid => exact execHandlerCutTimeout_ok asid s h
  | drainForward asid => exact execDrainForward_ok asid s h
  | doorbellWrite master asid q v => exact execDoorbellWrite_ok master asid q v s h
  | queueEnable q => exact execQueueEnable_ok q s h
  | queueDisable q => exact execQueueDisable_ok q s h
  | queueErrClear q => exact execQueueErrClear_ok q s h
  | diePowerOff die => exact execDiePowerOff_ok die s h
  | diePowerOn die => exact execDiePowerOn_ok die s h
  | operatingPointRequest die p => exact execOperatingPointRequest_ok die p s h
  | operatingPointSwitch die => exact execOperatingPointSwitch_ok die s h
  | mmioRegisterWrite off bytes v master => exact execMmioRegisterWrite_ok master off bytes v s h
  | controlIntervalStart => exact execControlIntervalStart_ok  s h
  | activationWindowAdjust st above => exact execActivationWindowAdjust_ok st above s h
  | eccError unit correctable => exact execEccError_ok unit correctable s h
  | healthSelfTest unit lasting spared => exact execHealthSelfTest_ok unit lasting spared s h
  | dieFailure die => exact execDieFailure_ok die s h
  | hostWriteInvalidate pa data => exact execHostWriteInvalidate_ok pa data s h
  | backInvalidate pa => exact execBackInvalidate_ok pa s h
  | attestationQuote nonce => exact execAttestationQuote_ok nonce s h
  | packageReset failure => exact execPackageReset_ok failure s h
  | packageFatal image => exact execPackageFatal_ok image s h
  | discardedFlit link flit => exact execDiscardedFlit_ok link flit s h
  | hostHbmAccess master pa bytes data => exact execHostHbmAccess_ok master pa bytes data s h
theorem releaseHeld_ok (s : State) (h : MemoryOk s) : MemoryOk (releaseHeld s) := by
  unfold releaseHeld
  grind [MemoryOk.upd, MemoryOk.foldl]
theorem enterBlocks_ok (s : State) (h : MemoryOk s) : MemoryOk (enterBlocks s) := by
  unfold enterBlocks
  grind [MemoryOk.upd, MemoryOk.foldl, enterBlock_ok, recheckBlock_ok]
theorem fetchAt_ok {s t : State} {k : Nat} {a : Agent} {l : List Word} (h : MemoryOk s) (e : fetchAt s k a = .words l t) : MemoryOk t := fetchInstr_ok h e
theorem freezeAll_ok (s : State) (ks : List Nat) (code : FCode) (addr : DWord) (h : MemoryOk s) : MemoryOk (freezeAll s ks code addr) := by
  unfold freezeAll
  grind [MemoryOk.upd, MemoryOk.foldl, freeze_ok]
theorem afterIssue_ok (port : Nat) (ks : List Nat) (s : State) (h : MemoryOk s) : MemoryOk (afterIssue port ks s) := by
  unfold afterIssue
  extract_lets moved tick s1
  have h1 : MemoryOk s1 := noteUpdates_ok _ h
  exact iteInduction (motive := MemoryOk) (fun _ => h1) fun _ => h1
theorem passTime_ok (n : Nat) (s : State) (h : MemoryOk s) : MemoryOk (passTime n s) := by
  unfold passTime
  grind [MemoryOk.upd, MemoryOk.foldl, tick_ok, controlIntervalStart_ok]

end Sys2Proof.Machine
end

