-- ==== Sys2Proof/Laws/Maps.lean ====
section
/-!
SUPPORT. Sys2Proof/Laws/Maps.lean: reading a map after writing it.
-/
namespace Sys2Proof.Machine

variable {α : Type}

@[simp] theorem fget?_fput_same (m : FMap α) (n : Nat) (x : α) : fget? (fput m n x) n = some x := by
  induction m with
  | nil => simp [fput, fget?]
  | cons h t ih =>
    obtain ⟨k, v⟩ := h
    unfold fput
    by_cases h1 : n < k
    · simp [h1, fget?]
    · by_cases h2 : n = k
      · simp [h2, fget?]
      · have : k ≠ n := fun h => h2 h.symm
        simp [h1, h2, fget?, this, ih]

theorem fget?_fput_ne (m : FMap α) {n j : Nat} (x : α) (h : j ≠ n) : fget? (fput m n x) j = fget? m j := by
  induction m with
  | nil => simp [fput, fget?, Ne.symm h]
  | cons hd t ih =>
    obtain ⟨k, v⟩ := hd
    unfold fput
    by_cases h1 : n < k
    · simp only [h1, if_true, fget?]
      have hn : ¬ n = j := fun e => h e.symm
      by_cases h3 : j < n
      · have : ¬ k = j := by omega
        simp [hn, h3, this, show j < k by omega]
      · simp [hn, h3]
    · by_cases h2 : n = k
      · subst h2; simp [fget?, Ne.symm h]
      · simp only [h1, if_false, beq_iff_eq, h2, fget?, ih]

@[simp] theorem fgetD_fput_same (m : FMap α) (n : Nat) (x d : α) : fgetD (fput m n x) n d = x := by simp [fgetD]
theorem fgetD_fput_ne (m : FMap α) {n j : Nat} (x d : α) (h : j ≠ n) : fgetD (fput m n x) j d = fgetD m j d := by
  simp [fgetD, fget?_fput_ne m x h]

/-- A change of every value, read at one number. -/
theorem fget?_map (g : Nat → α → α) (m : FMap α) (n : Nat) : fget? (m.map fun p => (p.1, g p.1 p.2)) n = (fget? m n).map (g n) := by
  induction m with
  | nil => rfl
  | cons h t ih =>
    obtain ⟨k, v⟩ := h
    simp only [List.map_cons, fget?, beq_iff_eq]
    split
    · rename_i hk; subst hk; rfl
    · split
      · rfl
      · exact ih

@[simp] theorem agent?_putAgent_same (s : State) (k : Nat) (a : Agent) : agent? (putAgent s k a) k = some a := by simp [agent?, putAgent]
theorem agent?_putAgent_ne (s : State) {k j : Nat} (a : Agent) (h : j ≠ k) : agent? (putAgent s k a) j = agent? s j := by
  simp [agent?, putAgent, fget?_fput_ne _ _ h]

@[simp] theorem queue?_putQueue_same (s : State) (q : Nat) (x : Queue) : queue? (putQueue s q x) q = some x := by simp [queue?, putQueue]
@[simp] theorem ctx?_putCtx_same (s : State) (n : Nat) (c : Ctx) : ctx? (putCtx s n c) n = some c := by simp [ctx?, putCtx]
@[simp] theorem kernel?_putKernel_same (s : State) (n : Nat) (x : Kernel) : kernel? (putKernel s n x) n = some x := by simp [kernel?, putKernel]
@[simp] theorem group?_putGroup_same (s : State) (n : Nat) (x : Group) : group? (putGroup s n x) n = some x := by simp [group?, putGroup]
@[simp] theorem dieSt_putDie_same (s : State) (n : Nat) (x : Die) : dieSt (putDie s n x) n = x := by simp [dieSt, putDie]
@[simp] theorem base_putBase_same (s : State) (n : Nat) (x : Base) : base (putBase s n x) n = x := by simp [base, putBase]
@[simp] theorem cluster_putCluster_same (s : State) (n : Nat) (x : Cluster) : cluster (putCluster s n x) n = x := by simp [cluster, putCluster]

/-- `modAgent` of a party that is there. -/
theorem modAgent_some {s : State} {k : Nat} {a : Agent} (h : agent? s k = some a) (f : Agent → Agent) : modAgent s k f = putAgent s k (f a) := by
  simp [modAgent, h]
theorem agent?_modAgent_ne (s : State) {k j : Nat} (f : Agent → Agent) (h : j ≠ k) : agent? (modAgent s k f) j = agent? s j := by
  unfold modAgent; split
  · exact agent?_putAgent_ne s _ h
  · rfl
theorem agent?_modAgent_same (s : State) (k : Nat) (f : Agent → Agent) : agent? (modAgent s k f) k = (agent? s k).map f := by
  unfold modAgent; split <;> simp_all

end Sys2Proof.Machine
end

