-- ==== Sys2Proof/Laws/State.lean ====
section
/-!
SUPPORT. Sys2Proof/Laws/State.lean: what each update of one field of the state leaves of every field, true by definition.
-/
namespace Sys2Proof.Machine

/-! ### putAgent -/

@[simp] theorem putAgent_agenda (s : State) (k : Nat) (a : Agent) : (putAgent s k a).agenda = s.agenda := rfl
@[simp] theorem putAgent_issuing (s : State) (k : Nat) (a : Agent) : (putAgent s k a).issuing = s.issuing := rfl
@[simp] theorem putAgent_lastPort (s : State) (k : Nat) (a : Agent) : (putAgent s k a).lastPort = s.lastPort := rfl
@[simp] theorem putAgent_nextId (s : State) (k : Nat) (a : Agent) : (putAgent s k a).nextId = s.nextId := rfl
@[simp] theorem putAgent_nextUid (s : State) (k : Nat) (a : Agent) : (putAgent s k a).nextUid = s.nextUid := rfl
@[simp] theorem putAgent_free (s : State) (k : Nat) (a : Agent) : (putAgent s k a).free = s.free := rfl
@[simp] theorem putAgent_package (s : State) (k : Nat) (a : Agent) : (putAgent s k a).package = s.package := rfl
@[simp] theorem putAgent_cycle (s : State) (k : Nat) (a : Agent) : (putAgent s k a).cycle = s.cycle := rfl
@[simp] theorem putAgent_agents (s : State) (k : Nat) (a : Agent) : (putAgent s k a).agents = fput s.agents k a := rfl
@[simp] theorem putAgent_clusters (s : State) (k : Nat) (a : Agent) : (putAgent s k a).clusters = s.clusters := rfl
@[simp] theorem putAgent_clocks (s : State) (k : Nat) (a : Agent) : (putAgent s k a).clocks = s.clocks := rfl
@[simp] theorem putAgent_mem (s : State) (k : Nat) (a : Agent) : (putAgent s k a).mem = s.mem := rfl
@[simp] theorem putAgent_sram (s : State) (k : Nat) (a : Agent) : (putAgent s k a).sram = s.sram := rfl
@[simp] theorem putAgent_poison (s : State) (k : Nat) (a : Agent) : (putAgent s k a).poison = s.poison := rfl
@[simp] theorem putAgent_tags (s : State) (k : Nat) (a : Agent) : (putAgent s k a).tags = s.tags := rfl
@[simp] theorem putAgent_rels (s : State) (k : Nat) (a : Agent) : (putAgent s k a).rels = s.rels := rfl
@[simp] theorem putAgent_lines (s : State) (k : Nat) (a : Agent) : (putAgent s k a).lines = s.lines := rfl
@[simp] theorem putAgent_plru (s : State) (k : Nat) (a : Agent) : (putAgent s k a).plru = s.plru := rfl
@[simp] theorem putAgent_invals (s : State) (k : Nat) (a : Agent) : (putAgent s k a).invals = s.invals := rfl
@[simp] theorem putAgent_fabric (s : State) (k : Nat) (a : Agent) : (putAgent s k a).fabric = s.fabric := rfl
@[simp] theorem putAgent_reqs (s : State) (k : Nat) (a : Agent) : (putAgent s k a).reqs = s.reqs := rfl
@[simp] theorem putAgent_prods (s : State) (k : Nat) (a : Agent) : (putAgent s k a).prods = s.prods := rfl
@[simp] theorem putAgent_markers (s : State) (k : Nat) (a : Agent) : (putAgent s k a).markers = s.markers := rfl
@[simp] theorem putAgent_kernels (s : State) (k : Nat) (a : Agent) : (putAgent s k a).kernels = s.kernels := rfl
@[simp] theorem putAgent_groups (s : State) (k : Nat) (a : Agent) : (putAgent s k a).groups = s.groups := rfl
@[simp] theorem putAgent_csets (s : State) (k : Nat) (a : Agent) : (putAgent s k a).csets = s.csets := rfl
@[simp] theorem putAgent_lists (s : State) (k : Nat) (a : Agent) : (putAgent s k a).lists = s.lists := rfl
@[simp] theorem putAgent_appends (s : State) (k : Nat) (a : Agent) : (putAgent s k a).appends = s.appends := rfl
@[simp] theorem putAgent_queues (s : State) (k : Nat) (a : Agent) : (putAgent s k a).queues = s.queues := rfl
@[simp] theorem putAgent_trigs (s : State) (k : Nat) (a : Agent) : (putAgent s k a).trigs = s.trigs := rfl
@[simp] theorem putAgent_beats (s : State) (k : Nat) (a : Agent) : (putAgent s k a).beats = s.beats := rfl
@[simp] theorem putAgent_ctxs (s : State) (k : Nat) (a : Agent) : (putAgent s k a).ctxs = s.ctxs := rfl
@[simp] theorem putAgent_ctxGone (s : State) (k : Nat) (a : Agent) : (putAgent s k a).ctxGone = s.ctxGone := rfl
@[simp] theorem putAgent_bases (s : State) (k : Nat) (a : Agent) : (putAgent s k a).bases = s.bases := rfl
@[simp] theorem putAgent_dies (s : State) (k : Nat) (a : Agent) : (putAgent s k a).dies = s.dies := rfl
@[simp] theorem putAgent_links (s : State) (k : Nat) (a : Agent) : (putAgent s k a).links = s.links := rfl
@[simp] theorem putAgent_changes (s : State) (k : Nat) (a : Agent) : (putAgent s k a).changes = s.changes := rfl
@[simp] theorem putAgent_host (s : State) (k : Nat) (a : Agent) : (putAgent s k a).host = s.host := rfl
@[simp] theorem putAgent_denied (s : State) (k : Nat) (a : Agent) : (putAgent s k a).denied = s.denied := rfl
@[simp] theorem putAgent_msi (s : State) (k : Nat) (a : Agent) : (putAgent s k a).msi = s.msi := rfl
@[simp] theorem putAgent_quotes (s : State) (k : Nat) (a : Agent) : (putAgent s k a).quotes = s.quotes := rfl

/-! ### putCluster -/

@[simp] theorem putCluster_agenda (s : State) (c : Nat) (x : Cluster) : (putCluster s c x).agenda = s.agenda := rfl
@[simp] theorem putCluster_issuing (s : State) (c : Nat) (x : Cluster) : (putCluster s c x).issuing = s.issuing := rfl
@[simp] theorem putCluster_lastPort (s : State) (c : Nat) (x : Cluster) : (putCluster s c x).lastPort = s.lastPort := rfl
@[simp] theorem putCluster_nextId (s : State) (c : Nat) (x : Cluster) : (putCluster s c x).nextId = s.nextId := rfl
@[simp] theorem putCluster_nextUid (s : State) (c : Nat) (x : Cluster) : (putCluster s c x).nextUid = s.nextUid := rfl
@[simp] theorem putCluster_free (s : State) (c : Nat) (x : Cluster) : (putCluster s c x).free = s.free := rfl
@[simp] theorem putCluster_package (s : State) (c : Nat) (x : Cluster) : (putCluster s c x).package = s.package := rfl
@[simp] theorem putCluster_cycle (s : State) (c : Nat) (x : Cluster) : (putCluster s c x).cycle = s.cycle := rfl
@[simp] theorem putCluster_agents (s : State) (c : Nat) (x : Cluster) : (putCluster s c x).agents = s.agents := rfl
@[simp] theorem putCluster_clusters (s : State) (c : Nat) (x : Cluster) : (putCluster s c x).clusters = fput s.clusters c x := rfl
@[simp] theorem putCluster_clocks (s : State) (c : Nat) (x : Cluster) : (putCluster s c x).clocks = s.clocks := rfl
@[simp] theorem putCluster_mem (s : State) (c : Nat) (x : Cluster) : (putCluster s c x).mem = s.mem := rfl
@[simp] theorem putCluster_sram (s : State) (c : Nat) (x : Cluster) : (putCluster s c x).sram = s.sram := rfl
@[simp] theorem putCluster_poison (s : State) (c : Nat) (x : Cluster) : (putCluster s c x).poison = s.poison := rfl
@[simp] theorem putCluster_tags (s : State) (c : Nat) (x : Cluster) : (putCluster s c x).tags = s.tags := rfl
@[simp] theorem putCluster_rels (s : State) (c : Nat) (x : Cluster) : (putCluster s c x).rels = s.rels := rfl
@[simp] theorem putCluster_lines (s : State) (c : Nat) (x : Cluster) : (putCluster s c x).lines = s.lines := rfl
@[simp] theorem putCluster_plru (s : State) (c : Nat) (x : Cluster) : (putCluster s c x).plru = s.plru := rfl
@[simp] theorem putCluster_invals (s : State) (c : Nat) (x : Cluster) : (putCluster s c x).invals = s.invals := rfl
@[simp] theorem putCluster_fabric (s : State) (c : Nat) (x : Cluster) : (putCluster s c x).fabric = s.fabric := rfl
@[simp] theorem putCluster_reqs (s : State) (c : Nat) (x : Cluster) : (putCluster s c x).reqs = s.reqs := rfl
@[simp] theorem putCluster_prods (s : State) (c : Nat) (x : Cluster) : (putCluster s c x).prods = s.prods := rfl
@[simp] theorem putCluster_markers (s : State) (c : Nat) (x : Cluster) : (putCluster s c x).markers = s.markers := rfl
@[simp] theorem putCluster_kernels (s : State) (c : Nat) (x : Cluster) : (putCluster s c x).kernels = s.kernels := rfl
@[simp] theorem putCluster_groups (s : State) (c : Nat) (x : Cluster) : (putCluster s c x).groups = s.groups := rfl
@[simp] theorem putCluster_csets (s : State) (c : Nat) (x : Cluster) : (putCluster s c x).csets = s.csets := rfl
@[simp] theorem putCluster_lists (s : State) (c : Nat) (x : Cluster) : (putCluster s c x).lists = s.lists := rfl
@[simp] theorem putCluster_appends (s : State) (c : Nat) (x : Cluster) : (putCluster s c x).appends = s.appends := rfl
@[simp] theorem putCluster_queues (s : State) (c : Nat) (x : Cluster) : (putCluster s c x).queues = s.queues := rfl
@[simp] theorem putCluster_trigs (s : State) (c : Nat) (x : Cluster) : (putCluster s c x).trigs = s.trigs := rfl
@[simp] theorem putCluster_beats (s : State) (c : Nat) (x : Cluster) : (putCluster s c x).beats = s.beats := rfl
@[simp] theorem putCluster_ctxs (s : State) (c : Nat) (x : Cluster) : (putCluster s c x).ctxs = s.ctxs := rfl
@[simp] theorem putCluster_ctxGone (s : State) (c : Nat) (x : Cluster) : (putCluster s c x).ctxGone = s.ctxGone := rfl
@[simp] theorem putCluster_bases (s : State) (c : Nat) (x : Cluster) : (putCluster s c x).bases = s.bases := rfl
@[simp] theorem putCluster_dies (s : State) (c : Nat) (x : Cluster) : (putCluster s c x).dies = s.dies := rfl
@[simp] theorem putCluster_links (s : State) (c : Nat) (x : Cluster) : (putCluster s c x).links = s.links := rfl
@[simp] theorem putCluster_changes (s : State) (c : Nat) (x : Cluster) : (putCluster s c x).changes = s.changes := rfl
@[simp] theorem putCluster_host (s : State) (c : Nat) (x : Cluster) : (putCluster s c x).host = s.host := rfl
@[simp] theorem putCluster_denied (s : State) (c : Nat) (x : Cluster) : (putCluster s c x).denied = s.denied := rfl
@[simp] theorem putCluster_msi (s : State) (c : Nat) (x : Cluster) : (putCluster s c x).msi = s.msi := rfl
@[simp] theorem putCluster_quotes (s : State) (c : Nat) (x : Cluster) : (putCluster s c x).quotes = s.quotes := rfl

/-! ### putBase -/

@[simp] theorem putBase_agenda (s : State) (b : Nat) (x : Base) : (putBase s b x).agenda = s.agenda := rfl
@[simp] theorem putBase_issuing (s : State) (b : Nat) (x : Base) : (putBase s b x).issuing = s.issuing := rfl
@[simp] theorem putBase_lastPort (s : State) (b : Nat) (x : Base) : (putBase s b x).lastPort = s.lastPort := rfl
@[simp] theorem putBase_nextId (s : State) (b : Nat) (x : Base) : (putBase s b x).nextId = s.nextId := rfl
@[simp] theorem putBase_nextUid (s : State) (b : Nat) (x : Base) : (putBase s b x).nextUid = s.nextUid := rfl
@[simp] theorem putBase_free (s : State) (b : Nat) (x : Base) : (putBase s b x).free = s.free := rfl
@[simp] theorem putBase_package (s : State) (b : Nat) (x : Base) : (putBase s b x).package = s.package := rfl
@[simp] theorem putBase_cycle (s : State) (b : Nat) (x : Base) : (putBase s b x).cycle = s.cycle := rfl
@[simp] theorem putBase_agents (s : State) (b : Nat) (x : Base) : (putBase s b x).agents = s.agents := rfl
@[simp] theorem putBase_clusters (s : State) (b : Nat) (x : Base) : (putBase s b x).clusters = s.clusters := rfl
@[simp] theorem putBase_clocks (s : State) (b : Nat) (x : Base) : (putBase s b x).clocks = s.clocks := rfl
@[simp] theorem putBase_mem (s : State) (b : Nat) (x : Base) : (putBase s b x).mem = s.mem := rfl
@[simp] theorem putBase_sram (s : State) (b : Nat) (x : Base) : (putBase s b x).sram = s.sram := rfl
@[simp] theorem putBase_poison (s : State) (b : Nat) (x : Base) : (putBase s b x).poison = s.poison := rfl
@[simp] theorem putBase_tags (s : State) (b : Nat) (x : Base) : (putBase s b x).tags = s.tags := rfl
@[simp] theorem putBase_rels (s : State) (b : Nat) (x : Base) : (putBase s b x).rels = s.rels := rfl
@[simp] theorem putBase_lines (s : State) (b : Nat) (x : Base) : (putBase s b x).lines = s.lines := rfl
@[simp] theorem putBase_plru (s : State) (b : Nat) (x : Base) : (putBase s b x).plru = s.plru := rfl
@[simp] theorem putBase_invals (s : State) (b : Nat) (x : Base) : (putBase s b x).invals = s.invals := rfl
@[simp] theorem putBase_fabric (s : State) (b : Nat) (x : Base) : (putBase s b x).fabric = s.fabric := rfl
@[simp] theorem putBase_reqs (s : State) (b : Nat) (x : Base) : (putBase s b x).reqs = s.reqs := rfl
@[simp] theorem putBase_prods (s : State) (b : Nat) (x : Base) : (putBase s b x).prods = s.prods := rfl
@[simp] theorem putBase_markers (s : State) (b : Nat) (x : Base) : (putBase s b x).markers = s.markers := rfl
@[simp] theorem putBase_kernels (s : State) (b : Nat) (x : Base) : (putBase s b x).kernels = s.kernels := rfl
@[simp] theorem putBase_groups (s : State) (b : Nat) (x : Base) : (putBase s b x).groups = s.groups := rfl
@[simp] theorem putBase_csets (s : State) (b : Nat) (x : Base) : (putBase s b x).csets = s.csets := rfl
@[simp] theorem putBase_lists (s : State) (b : Nat) (x : Base) : (putBase s b x).lists = s.lists := rfl
@[simp] theorem putBase_appends (s : State) (b : Nat) (x : Base) : (putBase s b x).appends = s.appends := rfl
@[simp] theorem putBase_queues (s : State) (b : Nat) (x : Base) : (putBase s b x).queues = s.queues := rfl
@[simp] theorem putBase_trigs (s : State) (b : Nat) (x : Base) : (putBase s b x).trigs = s.trigs := rfl
@[simp] theorem putBase_beats (s : State) (b : Nat) (x : Base) : (putBase s b x).beats = s.beats := rfl
@[simp] theorem putBase_ctxs (s : State) (b : Nat) (x : Base) : (putBase s b x).ctxs = s.ctxs := rfl
@[simp] theorem putBase_ctxGone (s : State) (b : Nat) (x : Base) : (putBase s b x).ctxGone = s.ctxGone := rfl
@[simp] theorem putBase_bases (s : State) (b : Nat) (x : Base) : (putBase s b x).bases = fput s.bases b x := rfl
@[simp] theorem putBase_dies (s : State) (b : Nat) (x : Base) : (putBase s b x).dies = s.dies := rfl
@[simp] theorem putBase_links (s : State) (b : Nat) (x : Base) : (putBase s b x).links = s.links := rfl
@[simp] theorem putBase_changes (s : State) (b : Nat) (x : Base) : (putBase s b x).changes = s.changes := rfl
@[simp] theorem putBase_host (s : State) (b : Nat) (x : Base) : (putBase s b x).host = s.host := rfl
@[simp] theorem putBase_denied (s : State) (b : Nat) (x : Base) : (putBase s b x).denied = s.denied := rfl
@[simp] theorem putBase_msi (s : State) (b : Nat) (x : Base) : (putBase s b x).msi = s.msi := rfl
@[simp] theorem putBase_quotes (s : State) (b : Nat) (x : Base) : (putBase s b x).quotes = s.quotes := rfl

/-! ### putDie -/

@[simp] theorem putDie_agenda (s : State) (d : Nat) (x : Die) : (putDie s d x).agenda = s.agenda := rfl
@[simp] theorem putDie_issuing (s : State) (d : Nat) (x : Die) : (putDie s d x).issuing = s.issuing := rfl
@[simp] theorem putDie_lastPort (s : State) (d : Nat) (x : Die) : (putDie s d x).lastPort = s.lastPort := rfl
@[simp] theorem putDie_nextId (s : State) (d : Nat) (x : Die) : (putDie s d x).nextId = s.nextId := rfl
@[simp] theorem putDie_nextUid (s : State) (d : Nat) (x : Die) : (putDie s d x).nextUid = s.nextUid := rfl
@[simp] theorem putDie_free (s : State) (d : Nat) (x : Die) : (putDie s d x).free = s.free := rfl
@[simp] theorem putDie_package (s : State) (d : Nat) (x : Die) : (putDie s d x).package = s.package := rfl
@[simp] theorem putDie_cycle (s : State) (d : Nat) (x : Die) : (putDie s d x).cycle = s.cycle := rfl
@[simp] theorem putDie_agents (s : State) (d : Nat) (x : Die) : (putDie s d x).agents = s.agents := rfl
@[simp] theorem putDie_clusters (s : State) (d : Nat) (x : Die) : (putDie s d x).clusters = s.clusters := rfl
@[simp] theorem putDie_clocks (s : State) (d : Nat) (x : Die) : (putDie s d x).clocks = s.clocks := rfl
@[simp] theorem putDie_mem (s : State) (d : Nat) (x : Die) : (putDie s d x).mem = s.mem := rfl
@[simp] theorem putDie_sram (s : State) (d : Nat) (x : Die) : (putDie s d x).sram = s.sram := rfl
@[simp] theorem putDie_poison (s : State) (d : Nat) (x : Die) : (putDie s d x).poison = s.poison := rfl
@[simp] theorem putDie_tags (s : State) (d : Nat) (x : Die) : (putDie s d x).tags = s.tags := rfl
@[simp] theorem putDie_rels (s : State) (d : Nat) (x : Die) : (putDie s d x).rels = s.rels := rfl
@[simp] theorem putDie_lines (s : State) (d : Nat) (x : Die) : (putDie s d x).lines = s.lines := rfl
@[simp] theorem putDie_plru (s : State) (d : Nat) (x : Die) : (putDie s d x).plru = s.plru := rfl
@[simp] theorem putDie_invals (s : State) (d : Nat) (x : Die) : (putDie s d x).invals = s.invals := rfl
@[simp] theorem putDie_fabric (s : State) (d : Nat) (x : Die) : (putDie s d x).fabric = s.fabric := rfl
@[simp] theorem putDie_reqs (s : State) (d : Nat) (x : Die) : (putDie s d x).reqs = s.reqs := rfl
@[simp] theorem putDie_prods (s : State) (d : Nat) (x : Die) : (putDie s d x).prods = s.prods := rfl
@[simp] theorem putDie_markers (s : State) (d : Nat) (x : Die) : (putDie s d x).markers = s.markers := rfl
@[simp] theorem putDie_kernels (s : State) (d : Nat) (x : Die) : (putDie s d x).kernels = s.kernels := rfl
@[simp] theorem putDie_groups (s : State) (d : Nat) (x : Die) : (putDie s d x).groups = s.groups := rfl
@[simp] theorem putDie_csets (s : State) (d : Nat) (x : Die) : (putDie s d x).csets = s.csets := rfl
@[simp] theorem putDie_lists (s : State) (d : Nat) (x : Die) : (putDie s d x).lists = s.lists := rfl
@[simp] theorem putDie_appends (s : State) (d : Nat) (x : Die) : (putDie s d x).appends = s.appends := rfl
@[simp] theorem putDie_queues (s : State) (d : Nat) (x : Die) : (putDie s d x).queues = s.queues := rfl
@[simp] theorem putDie_trigs (s : State) (d : Nat) (x : Die) : (putDie s d x).trigs = s.trigs := rfl
@[simp] theorem putDie_beats (s : State) (d : Nat) (x : Die) : (putDie s d x).beats = s.beats := rfl
@[simp] theorem putDie_ctxs (s : State) (d : Nat) (x : Die) : (putDie s d x).ctxs = s.ctxs := rfl
@[simp] theorem putDie_ctxGone (s : State) (d : Nat) (x : Die) : (putDie s d x).ctxGone = s.ctxGone := rfl
@[simp] theorem putDie_bases (s : State) (d : Nat) (x : Die) : (putDie s d x).bases = s.bases := rfl
@[simp] theorem putDie_dies (s : State) (d : Nat) (x : Die) : (putDie s d x).dies = fput s.dies d x := rfl
@[simp] theorem putDie_links (s : State) (d : Nat) (x : Die) : (putDie s d x).links = s.links := rfl
@[simp] theorem putDie_changes (s : State) (d : Nat) (x : Die) : (putDie s d x).changes = s.changes := rfl
@[simp] theorem putDie_host (s : State) (d : Nat) (x : Die) : (putDie s d x).host = s.host := rfl
@[simp] theorem putDie_denied (s : State) (d : Nat) (x : Die) : (putDie s d x).denied = s.denied := rfl
@[simp] theorem putDie_msi (s : State) (d : Nat) (x : Die) : (putDie s d x).msi = s.msi := rfl
@[simp] theorem putDie_quotes (s : State) (d : Nat) (x : Die) : (putDie s d x).quotes = s.quotes := rfl

/-! ### putCtx -/

@[simp] theorem putCtx_agenda (s : State) (n : Nat) (c : Ctx) : (putCtx s n c).agenda = s.agenda := rfl
@[simp] theorem putCtx_issuing (s : State) (n : Nat) (c : Ctx) : (putCtx s n c).issuing = s.issuing := rfl
@[simp] theorem putCtx_lastPort (s : State) (n : Nat) (c : Ctx) : (putCtx s n c).lastPort = s.lastPort := rfl
@[simp] theorem putCtx_nextId (s : State) (n : Nat) (c : Ctx) : (putCtx s n c).nextId = s.nextId := rfl
@[simp] theorem putCtx_nextUid (s : State) (n : Nat) (c : Ctx) : (putCtx s n c).nextUid = s.nextUid := rfl
@[simp] theorem putCtx_free (s : State) (n : Nat) (c : Ctx) : (putCtx s n c).free = s.free := rfl
@[simp] theorem putCtx_package (s : State) (n : Nat) (c : Ctx) : (putCtx s n c).package = s.package := rfl
@[simp] theorem putCtx_cycle (s : State) (n : Nat) (c : Ctx) : (putCtx s n c).cycle = s.cycle := rfl
@[simp] theorem putCtx_agents (s : State) (n : Nat) (c : Ctx) : (putCtx s n c).agents = s.agents := rfl
@[simp] theorem putCtx_clusters (s : State) (n : Nat) (c : Ctx) : (putCtx s n c).clusters = s.clusters := rfl
@[simp] theorem putCtx_clocks (s : State) (n : Nat) (c : Ctx) : (putCtx s n c).clocks = s.clocks := rfl
@[simp] theorem putCtx_mem (s : State) (n : Nat) (c : Ctx) : (putCtx s n c).mem = s.mem := rfl
@[simp] theorem putCtx_sram (s : State) (n : Nat) (c : Ctx) : (putCtx s n c).sram = s.sram := rfl
@[simp] theorem putCtx_poison (s : State) (n : Nat) (c : Ctx) : (putCtx s n c).poison = s.poison := rfl
@[simp] theorem putCtx_tags (s : State) (n : Nat) (c : Ctx) : (putCtx s n c).tags = s.tags := rfl
@[simp] theorem putCtx_rels (s : State) (n : Nat) (c : Ctx) : (putCtx s n c).rels = s.rels := rfl
@[simp] theorem putCtx_lines (s : State) (n : Nat) (c : Ctx) : (putCtx s n c).lines = s.lines := rfl
@[simp] theorem putCtx_plru (s : State) (n : Nat) (c : Ctx) : (putCtx s n c).plru = s.plru := rfl
@[simp] theorem putCtx_invals (s : State) (n : Nat) (c : Ctx) : (putCtx s n c).invals = s.invals := rfl
@[simp] theorem putCtx_fabric (s : State) (n : Nat) (c : Ctx) : (putCtx s n c).fabric = s.fabric := rfl
@[simp] theorem putCtx_reqs (s : State) (n : Nat) (c : Ctx) : (putCtx s n c).reqs = s.reqs := rfl
@[simp] theorem putCtx_prods (s : State) (n : Nat) (c : Ctx) : (putCtx s n c).prods = s.prods := rfl
@[simp] theorem putCtx_markers (s : State) (n : Nat) (c : Ctx) : (putCtx s n c).markers = s.markers := rfl
@[simp] theorem putCtx_kernels (s : State) (n : Nat) (c : Ctx) : (putCtx s n c).kernels = s.kernels := rfl
@[simp] theorem putCtx_groups (s : State) (n : Nat) (c : Ctx) : (putCtx s n c).groups = s.groups := rfl
@[simp] theorem putCtx_csets (s : State) (n : Nat) (c : Ctx) : (putCtx s n c).csets = s.csets := rfl
@[simp] theorem putCtx_lists (s : State) (n : Nat) (c : Ctx) : (putCtx s n c).lists = s.lists := rfl
@[simp] theorem putCtx_appends (s : State) (n : Nat) (c : Ctx) : (putCtx s n c).appends = s.appends := rfl
@[simp] theorem putCtx_queues (s : State) (n : Nat) (c : Ctx) : (putCtx s n c).queues = s.queues := rfl
@[simp] theorem putCtx_trigs (s : State) (n : Nat) (c : Ctx) : (putCtx s n c).trigs = s.trigs := rfl
@[simp] theorem putCtx_beats (s : State) (n : Nat) (c : Ctx) : (putCtx s n c).beats = s.beats := rfl
@[simp] theorem putCtx_ctxs (s : State) (n : Nat) (c : Ctx) : (putCtx s n c).ctxs = fput s.ctxs n c := rfl
@[simp] theorem putCtx_ctxGone (s : State) (n : Nat) (c : Ctx) : (putCtx s n c).ctxGone = s.ctxGone := rfl
@[simp] theorem putCtx_bases (s : State) (n : Nat) (c : Ctx) : (putCtx s n c).bases = s.bases := rfl
@[simp] theorem putCtx_dies (s : State) (n : Nat) (c : Ctx) : (putCtx s n c).dies = s.dies := rfl
@[simp] theorem putCtx_links (s : State) (n : Nat) (c : Ctx) : (putCtx s n c).links = s.links := rfl
@[simp] theorem putCtx_changes (s : State) (n : Nat) (c : Ctx) : (putCtx s n c).changes = s.changes := rfl
@[simp] theorem putCtx_host (s : State) (n : Nat) (c : Ctx) : (putCtx s n c).host = s.host := rfl
@[simp] theorem putCtx_denied (s : State) (n : Nat) (c : Ctx) : (putCtx s n c).denied = s.denied := rfl
@[simp] theorem putCtx_msi (s : State) (n : Nat) (c : Ctx) : (putCtx s n c).msi = s.msi := rfl
@[simp] theorem putCtx_quotes (s : State) (n : Nat) (c : Ctx) : (putCtx s n c).quotes = s.quotes := rfl

/-! ### putGroup -/

@[simp] theorem putGroup_agenda (s : State) (g : Nat) (x : Group) : (putGroup s g x).agenda = s.agenda := rfl
@[simp] theorem putGroup_issuing (s : State) (g : Nat) (x : Group) : (putGroup s g x).issuing = s.issuing := rfl
@[simp] theorem putGroup_lastPort (s : State) (g : Nat) (x : Group) : (putGroup s g x).lastPort = s.lastPort := rfl
@[simp] theorem putGroup_nextId (s : State) (g : Nat) (x : Group) : (putGroup s g x).nextId = s.nextId := rfl
@[simp] theorem putGroup_nextUid (s : State) (g : Nat) (x : Group) : (putGroup s g x).nextUid = s.nextUid := rfl
@[simp] theorem putGroup_free (s : State) (g : Nat) (x : Group) : (putGroup s g x).free = s.free := rfl
@[simp] theorem putGroup_package (s : State) (g : Nat) (x : Group) : (putGroup s g x).package = s.package := rfl
@[simp] theorem putGroup_cycle (s : State) (g : Nat) (x : Group) : (putGroup s g x).cycle = s.cycle := rfl
@[simp] theorem putGroup_agents (s : State) (g : Nat) (x : Group) : (putGroup s g x).agents = s.agents := rfl
@[simp] theorem putGroup_clusters (s : State) (g : Nat) (x : Group) : (putGroup s g x).clusters = s.clusters := rfl
@[simp] theorem putGroup_clocks (s : State) (g : Nat) (x : Group) : (putGroup s g x).clocks = s.clocks := rfl
@[simp] theorem putGroup_mem (s : State) (g : Nat) (x : Group) : (putGroup s g x).mem = s.mem := rfl
@[simp] theorem putGroup_sram (s : State) (g : Nat) (x : Group) : (putGroup s g x).sram = s.sram := rfl
@[simp] theorem putGroup_poison (s : State) (g : Nat) (x : Group) : (putGroup s g x).poison = s.poison := rfl
@[simp] theorem putGroup_tags (s : State) (g : Nat) (x : Group) : (putGroup s g x).tags = s.tags := rfl
@[simp] theorem putGroup_rels (s : State) (g : Nat) (x : Group) : (putGroup s g x).rels = s.rels := rfl
@[simp] theorem putGroup_lines (s : State) (g : Nat) (x : Group) : (putGroup s g x).lines = s.lines := rfl
@[simp] theorem putGroup_plru (s : State) (g : Nat) (x : Group) : (putGroup s g x).plru = s.plru := rfl
@[simp] theorem putGroup_invals (s : State) (g : Nat) (x : Group) : (putGroup s g x).invals = s.invals := rfl
@[simp] theorem putGroup_fabric (s : State) (g : Nat) (x : Group) : (putGroup s g x).fabric = s.fabric := rfl
@[simp] theorem putGroup_reqs (s : State) (g : Nat) (x : Group) : (putGroup s g x).reqs = s.reqs := rfl
@[simp] theorem putGroup_prods (s : State) (g : Nat) (x : Group) : (putGroup s g x).prods = s.prods := rfl
@[simp] theorem putGroup_markers (s : State) (g : Nat) (x : Group) : (putGroup s g x).markers = s.markers := rfl
@[simp] theorem putGroup_kernels (s : State) (g : Nat) (x : Group) : (putGroup s g x).kernels = s.kernels := rfl
@[simp] theorem putGroup_groups (s : State) (g : Nat) (x : Group) : (putGroup s g x).groups = fput s.groups g x := rfl
@[simp] theorem putGroup_csets (s : State) (g : Nat) (x : Group) : (putGroup s g x).csets = s.csets := rfl
@[simp] theorem putGroup_lists (s : State) (g : Nat) (x : Group) : (putGroup s g x).lists = s.lists := rfl
@[simp] theorem putGroup_appends (s : State) (g : Nat) (x : Group) : (putGroup s g x).appends = s.appends := rfl
@[simp] theorem putGroup_queues (s : State) (g : Nat) (x : Group) : (putGroup s g x).queues = s.queues := rfl
@[simp] theorem putGroup_trigs (s : State) (g : Nat) (x : Group) : (putGroup s g x).trigs = s.trigs := rfl
@[simp] theorem putGroup_beats (s : State) (g : Nat) (x : Group) : (putGroup s g x).beats = s.beats := rfl
@[simp] theorem putGroup_ctxs (s : State) (g : Nat) (x : Group) : (putGroup s g x).ctxs = s.ctxs := rfl
@[simp] theorem putGroup_ctxGone (s : State) (g : Nat) (x : Group) : (putGroup s g x).ctxGone = s.ctxGone := rfl
@[simp] theorem putGroup_bases (s : State) (g : Nat) (x : Group) : (putGroup s g x).bases = s.bases := rfl
@[simp] theorem putGroup_dies (s : State) (g : Nat) (x : Group) : (putGroup s g x).dies = s.dies := rfl
@[simp] theorem putGroup_links (s : State) (g : Nat) (x : Group) : (putGroup s g x).links = s.links := rfl
@[simp] theorem putGroup_changes (s : State) (g : Nat) (x : Group) : (putGroup s g x).changes = s.changes := rfl
@[simp] theorem putGroup_host (s : State) (g : Nat) (x : Group) : (putGroup s g x).host = s.host := rfl
@[simp] theorem putGroup_denied (s : State) (g : Nat) (x : Group) : (putGroup s g x).denied = s.denied := rfl
@[simp] theorem putGroup_msi (s : State) (g : Nat) (x : Group) : (putGroup s g x).msi = s.msi := rfl
@[simp] theorem putGroup_quotes (s : State) (g : Nat) (x : Group) : (putGroup s g x).quotes = s.quotes := rfl

/-! ### putKernel -/

@[simp] theorem putKernel_agenda (s : State) (k : Nat) (x : Kernel) : (putKernel s k x).agenda = s.agenda := rfl
@[simp] theorem putKernel_issuing (s : State) (k : Nat) (x : Kernel) : (putKernel s k x).issuing = s.issuing := rfl
@[simp] theorem putKernel_lastPort (s : State) (k : Nat) (x : Kernel) : (putKernel s k x).lastPort = s.lastPort := rfl
@[simp] theorem putKernel_nextId (s : State) (k : Nat) (x : Kernel) : (putKernel s k x).nextId = s.nextId := rfl
@[simp] theorem putKernel_nextUid (s : State) (k : Nat) (x : Kernel) : (putKernel s k x).nextUid = s.nextUid := rfl
@[simp] theorem putKernel_free (s : State) (k : Nat) (x : Kernel) : (putKernel s k x).free = s.free := rfl
@[simp] theorem putKernel_package (s : State) (k : Nat) (x : Kernel) : (putKernel s k x).package = s.package := rfl
@[simp] theorem putKernel_cycle (s : State) (k : Nat) (x : Kernel) : (putKernel s k x).cycle = s.cycle := rfl
@[simp] theorem putKernel_agents (s : State) (k : Nat) (x : Kernel) : (putKernel s k x).agents = s.agents := rfl
@[simp] theorem putKernel_clusters (s : State) (k : Nat) (x : Kernel) : (putKernel s k x).clusters = s.clusters := rfl
@[simp] theorem putKernel_clocks (s : State) (k : Nat) (x : Kernel) : (putKernel s k x).clocks = s.clocks := rfl
@[simp] theorem putKernel_mem (s : State) (k : Nat) (x : Kernel) : (putKernel s k x).mem = s.mem := rfl
@[simp] theorem putKernel_sram (s : State) (k : Nat) (x : Kernel) : (putKernel s k x).sram = s.sram := rfl
@[simp] theorem putKernel_poison (s : State) (k : Nat) (x : Kernel) : (putKernel s k x).poison = s.poison := rfl
@[simp] theorem putKernel_tags (s : State) (k : Nat) (x : Kernel) : (putKernel s k x).tags = s.tags := rfl
@[simp] theorem putKernel_rels (s : State) (k : Nat) (x : Kernel) : (putKernel s k x).rels = s.rels := rfl
@[simp] theorem putKernel_lines (s : State) (k : Nat) (x : Kernel) : (putKernel s k x).lines = s.lines := rfl
@[simp] theorem putKernel_plru (s : State) (k : Nat) (x : Kernel) : (putKernel s k x).plru = s.plru := rfl
@[simp] theorem putKernel_invals (s : State) (k : Nat) (x : Kernel) : (putKernel s k x).invals = s.invals := rfl
@[simp] theorem putKernel_fabric (s : State) (k : Nat) (x : Kernel) : (putKernel s k x).fabric = s.fabric := rfl
@[simp] theorem putKernel_reqs (s : State) (k : Nat) (x : Kernel) : (putKernel s k x).reqs = s.reqs := rfl
@[simp] theorem putKernel_prods (s : State) (k : Nat) (x : Kernel) : (putKernel s k x).prods = s.prods := rfl
@[simp] theorem putKernel_markers (s : State) (k : Nat) (x : Kernel) : (putKernel s k x).markers = s.markers := rfl
@[simp] theorem putKernel_kernels (s : State) (k : Nat) (x : Kernel) : (putKernel s k x).kernels = fput s.kernels k x := rfl
@[simp] theorem putKernel_groups (s : State) (k : Nat) (x : Kernel) : (putKernel s k x).groups = s.groups := rfl
@[simp] theorem putKernel_csets (s : State) (k : Nat) (x : Kernel) : (putKernel s k x).csets = s.csets := rfl
@[simp] theorem putKernel_lists (s : State) (k : Nat) (x : Kernel) : (putKernel s k x).lists = s.lists := rfl
@[simp] theorem putKernel_appends (s : State) (k : Nat) (x : Kernel) : (putKernel s k x).appends = s.appends := rfl
@[simp] theorem putKernel_queues (s : State) (k : Nat) (x : Kernel) : (putKernel s k x).queues = s.queues := rfl
@[simp] theorem putKernel_trigs (s : State) (k : Nat) (x : Kernel) : (putKernel s k x).trigs = s.trigs := rfl
@[simp] theorem putKernel_beats (s : State) (k : Nat) (x : Kernel) : (putKernel s k x).beats = s.beats := rfl
@[simp] theorem putKernel_ctxs (s : State) (k : Nat) (x : Kernel) : (putKernel s k x).ctxs = s.ctxs := rfl
@[simp] theorem putKernel_ctxGone (s : State) (k : Nat) (x : Kernel) : (putKernel s k x).ctxGone = s.ctxGone := rfl
@[simp] theorem putKernel_bases (s : State) (k : Nat) (x : Kernel) : (putKernel s k x).bases = s.bases := rfl
@[simp] theorem putKernel_dies (s : State) (k : Nat) (x : Kernel) : (putKernel s k x).dies = s.dies := rfl
@[simp] theorem putKernel_links (s : State) (k : Nat) (x : Kernel) : (putKernel s k x).links = s.links := rfl
@[simp] theorem putKernel_changes (s : State) (k : Nat) (x : Kernel) : (putKernel s k x).changes = s.changes := rfl
@[simp] theorem putKernel_host (s : State) (k : Nat) (x : Kernel) : (putKernel s k x).host = s.host := rfl
@[simp] theorem putKernel_denied (s : State) (k : Nat) (x : Kernel) : (putKernel s k x).denied = s.denied := rfl
@[simp] theorem putKernel_msi (s : State) (k : Nat) (x : Kernel) : (putKernel s k x).msi = s.msi := rfl
@[simp] theorem putKernel_quotes (s : State) (k : Nat) (x : Kernel) : (putKernel s k x).quotes = s.quotes := rfl

/-! ### putCSet -/

@[simp] theorem putCSet_agenda (s : State) (c : Nat) (x : CSet) : (putCSet s c x).agenda = s.agenda := rfl
@[simp] theorem putCSet_issuing (s : State) (c : Nat) (x : CSet) : (putCSet s c x).issuing = s.issuing := rfl
@[simp] theorem putCSet_lastPort (s : State) (c : Nat) (x : CSet) : (putCSet s c x).lastPort = s.lastPort := rfl
@[simp] theorem putCSet_nextId (s : State) (c : Nat) (x : CSet) : (putCSet s c x).nextId = s.nextId := rfl
@[simp] theorem putCSet_nextUid (s : State) (c : Nat) (x : CSet) : (putCSet s c x).nextUid = s.nextUid := rfl
@[simp] theorem putCSet_free (s : State) (c : Nat) (x : CSet) : (putCSet s c x).free = s.free := rfl
@[simp] theorem putCSet_package (s : State) (c : Nat) (x : CSet) : (putCSet s c x).package = s.package := rfl
@[simp] theorem putCSet_cycle (s : State) (c : Nat) (x : CSet) : (putCSet s c x).cycle = s.cycle := rfl
@[simp] theorem putCSet_agents (s : State) (c : Nat) (x : CSet) : (putCSet s c x).agents = s.agents := rfl
@[simp] theorem putCSet_clusters (s : State) (c : Nat) (x : CSet) : (putCSet s c x).clusters = s.clusters := rfl
@[simp] theorem putCSet_clocks (s : State) (c : Nat) (x : CSet) : (putCSet s c x).clocks = s.clocks := rfl
@[simp] theorem putCSet_mem (s : State) (c : Nat) (x : CSet) : (putCSet s c x).mem = s.mem := rfl
@[simp] theorem putCSet_sram (s : State) (c : Nat) (x : CSet) : (putCSet s c x).sram = s.sram := rfl
@[simp] theorem putCSet_poison (s : State) (c : Nat) (x : CSet) : (putCSet s c x).poison = s.poison := rfl
@[simp] theorem putCSet_tags (s : State) (c : Nat) (x : CSet) : (putCSet s c x).tags = s.tags := rfl
@[simp] theorem putCSet_rels (s : State) (c : Nat) (x : CSet) : (putCSet s c x).rels = s.rels := rfl
@[simp] theorem putCSet_lines (s : State) (c : Nat) (x : CSet) : (putCSet s c x).lines = s.lines := rfl
@[simp] theorem putCSet_plru (s : State) (c : Nat) (x : CSet) : (putCSet s c x).plru = s.plru := rfl
@[simp] theorem putCSet_invals (s : State) (c : Nat) (x : CSet) : (putCSet s c x).invals = s.invals := rfl
@[simp] theorem putCSet_fabric (s : State) (c : Nat) (x : CSet) : (putCSet s c x).fabric = s.fabric := rfl
@[simp] theorem putCSet_reqs (s : State) (c : Nat) (x : CSet) : (putCSet s c x).reqs = s.reqs := rfl
@[simp] theorem putCSet_prods (s : State) (c : Nat) (x : CSet) : (putCSet s c x).prods = s.prods := rfl
@[simp] theorem putCSet_markers (s : State) (c : Nat) (x : CSet) : (putCSet s c x).markers = s.markers := rfl
@[simp] theorem putCSet_kernels (s : State) (c : Nat) (x : CSet) : (putCSet s c x).kernels = s.kernels := rfl
@[simp] theorem putCSet_groups (s : State) (c : Nat) (x : CSet) : (putCSet s c x).groups = s.groups := rfl
@[simp] theorem putCSet_csets (s : State) (c : Nat) (x : CSet) : (putCSet s c x).csets = fput s.csets c x := rfl
@[simp] theorem putCSet_lists (s : State) (c : Nat) (x : CSet) : (putCSet s c x).lists = s.lists := rfl
@[simp] theorem putCSet_appends (s : State) (c : Nat) (x : CSet) : (putCSet s c x).appends = s.appends := rfl
@[simp] theorem putCSet_queues (s : State) (c : Nat) (x : CSet) : (putCSet s c x).queues = s.queues := rfl
@[simp] theorem putCSet_trigs (s : State) (c : Nat) (x : CSet) : (putCSet s c x).trigs = s.trigs := rfl
@[simp] theorem putCSet_beats (s : State) (c : Nat) (x : CSet) : (putCSet s c x).beats = s.beats := rfl
@[simp] theorem putCSet_ctxs (s : State) (c : Nat) (x : CSet) : (putCSet s c x).ctxs = s.ctxs := rfl
@[simp] theorem putCSet_ctxGone (s : State) (c : Nat) (x : CSet) : (putCSet s c x).ctxGone = s.ctxGone := rfl
@[simp] theorem putCSet_bases (s : State) (c : Nat) (x : CSet) : (putCSet s c x).bases = s.bases := rfl
@[simp] theorem putCSet_dies (s : State) (c : Nat) (x : CSet) : (putCSet s c x).dies = s.dies := rfl
@[simp] theorem putCSet_links (s : State) (c : Nat) (x : CSet) : (putCSet s c x).links = s.links := rfl
@[simp] theorem putCSet_changes (s : State) (c : Nat) (x : CSet) : (putCSet s c x).changes = s.changes := rfl
@[simp] theorem putCSet_host (s : State) (c : Nat) (x : CSet) : (putCSet s c x).host = s.host := rfl
@[simp] theorem putCSet_denied (s : State) (c : Nat) (x : CSet) : (putCSet s c x).denied = s.denied := rfl
@[simp] theorem putCSet_msi (s : State) (c : Nat) (x : CSet) : (putCSet s c x).msi = s.msi := rfl
@[simp] theorem putCSet_quotes (s : State) (c : Nat) (x : CSet) : (putCSet s c x).quotes = s.quotes := rfl

/-! ### putQueue -/

@[simp] theorem putQueue_agenda (s : State) (q : Nat) (x : Queue) : (putQueue s q x).agenda = s.agenda := rfl
@[simp] theorem putQueue_issuing (s : State) (q : Nat) (x : Queue) : (putQueue s q x).issuing = s.issuing := rfl
@[simp] theorem putQueue_lastPort (s : State) (q : Nat) (x : Queue) : (putQueue s q x).lastPort = s.lastPort := rfl
@[simp] theorem putQueue_nextId (s : State) (q : Nat) (x : Queue) : (putQueue s q x).nextId = s.nextId := rfl
@[simp] theorem putQueue_nextUid (s : State) (q : Nat) (x : Queue) : (putQueue s q x).nextUid = s.nextUid := rfl
@[simp] theorem putQueue_free (s : State) (q : Nat) (x : Queue) : (putQueue s q x).free = s.free := rfl
@[simp] theorem putQueue_package (s : State) (q : Nat) (x : Queue) : (putQueue s q x).package = s.package := rfl
@[simp] theorem putQueue_cycle (s : State) (q : Nat) (x : Queue) : (putQueue s q x).cycle = s.cycle := rfl
@[simp] theorem putQueue_agents (s : State) (q : Nat) (x : Queue) : (putQueue s q x).agents = s.agents := rfl
@[simp] theorem putQueue_clusters (s : State) (q : Nat) (x : Queue) : (putQueue s q x).clusters = s.clusters := rfl
@[simp] theorem putQueue_clocks (s : State) (q : Nat) (x : Queue) : (putQueue s q x).clocks = s.clocks := rfl
@[simp] theorem putQueue_mem (s : State) (q : Nat) (x : Queue) : (putQueue s q x).mem = s.mem := rfl
@[simp] theorem putQueue_sram (s : State) (q : Nat) (x : Queue) : (putQueue s q x).sram = s.sram := rfl
@[simp] theorem putQueue_poison (s : State) (q : Nat) (x : Queue) : (putQueue s q x).poison = s.poison := rfl
@[simp] theorem putQueue_tags (s : State) (q : Nat) (x : Queue) : (putQueue s q x).tags = s.tags := rfl
@[simp] theorem putQueue_rels (s : State) (q : Nat) (x : Queue) : (putQueue s q x).rels = s.rels := rfl
@[simp] theorem putQueue_lines (s : State) (q : Nat) (x : Queue) : (putQueue s q x).lines = s.lines := rfl
@[simp] theorem putQueue_plru (s : State) (q : Nat) (x : Queue) : (putQueue s q x).plru = s.plru := rfl
@[simp] theorem putQueue_invals (s : State) (q : Nat) (x : Queue) : (putQueue s q x).invals = s.invals := rfl
@[simp] theorem putQueue_fabric (s : State) (q : Nat) (x : Queue) : (putQueue s q x).fabric = s.fabric := rfl
@[simp] theorem putQueue_reqs (s : State) (q : Nat) (x : Queue) : (putQueue s q x).reqs = s.reqs := rfl
@[simp] theorem putQueue_prods (s : State) (q : Nat) (x : Queue) : (putQueue s q x).prods = s.prods := rfl
@[simp] theorem putQueue_markers (s : State) (q : Nat) (x : Queue) : (putQueue s q x).markers = s.markers := rfl
@[simp] theorem putQueue_kernels (s : State) (q : Nat) (x : Queue) : (putQueue s q x).kernels = s.kernels := rfl
@[simp] theorem putQueue_groups (s : State) (q : Nat) (x : Queue) : (putQueue s q x).groups = s.groups := rfl
@[simp] theorem putQueue_csets (s : State) (q : Nat) (x : Queue) : (putQueue s q x).csets = s.csets := rfl
@[simp] theorem putQueue_lists (s : State) (q : Nat) (x : Queue) : (putQueue s q x).lists = s.lists := rfl
@[simp] theorem putQueue_appends (s : State) (q : Nat) (x : Queue) : (putQueue s q x).appends = s.appends := rfl
@[simp] theorem putQueue_queues (s : State) (q : Nat) (x : Queue) : (putQueue s q x).queues = fput s.queues q x := rfl
@[simp] theorem putQueue_trigs (s : State) (q : Nat) (x : Queue) : (putQueue s q x).trigs = s.trigs := rfl
@[simp] theorem putQueue_beats (s : State) (q : Nat) (x : Queue) : (putQueue s q x).beats = s.beats := rfl
@[simp] theorem putQueue_ctxs (s : State) (q : Nat) (x : Queue) : (putQueue s q x).ctxs = s.ctxs := rfl
@[simp] theorem putQueue_ctxGone (s : State) (q : Nat) (x : Queue) : (putQueue s q x).ctxGone = s.ctxGone := rfl
@[simp] theorem putQueue_bases (s : State) (q : Nat) (x : Queue) : (putQueue s q x).bases = s.bases := rfl
@[simp] theorem putQueue_dies (s : State) (q : Nat) (x : Queue) : (putQueue s q x).dies = s.dies := rfl
@[simp] theorem putQueue_links (s : State) (q : Nat) (x : Queue) : (putQueue s q x).links = s.links := rfl
@[simp] theorem putQueue_changes (s : State) (q : Nat) (x : Queue) : (putQueue s q x).changes = s.changes := rfl
@[simp] theorem putQueue_host (s : State) (q : Nat) (x : Queue) : (putQueue s q x).host = s.host := rfl
@[simp] theorem putQueue_denied (s : State) (q : Nat) (x : Queue) : (putQueue s q x).denied = s.denied := rfl
@[simp] theorem putQueue_msi (s : State) (q : Nat) (x : Queue) : (putQueue s q x).msi = s.msi := rfl
@[simp] theorem putQueue_quotes (s : State) (q : Nat) (x : Queue) : (putQueue s q x).quotes = s.quotes := rfl

end Sys2Proof.Machine
end

