-- ==== Sys2Proof/Laws/Issue.lean ====
section
/-!
SUPPORT. Sys2Proof/Laws/Issue.lean: what issuing an instruction does once its checks pass, and everything that completing it leaves.
-/
namespace Sys2Proof.Machine

/-! ### The checks -/

theorem issueOne_clear {o : Op} {f : FormL} {s : State} {k : Nat} {a : Agent} (h : Clear o f s k a) (len : Nat) (body : Ctx' → Go) :
    issueOne o f len body s k = settle k a len (body (ctxOf o f len s k a)) := by
  have hc : (if a.kind == .task then Core.control else Core.vector) = coreOfAgent a := rfl
  have hr : (coreOfAgent a == .vector && (beyond a.nregs (o.shape (coreOfAgent a) f.mod).a f.a.toNat ||
      (!f.b.isLit && beyond a.nregs (o.shape (coreOfAgent a) f.mod).b (bNum f)) ||
      beyond a.nregs (o.shape (coreOfAgent a) f.mod).c f.c.toNat || beyond a.nregs (o.shape (coreOfAgent a) f.mod).d f.dst.toNat)) = false := by
    rcases h.range with ht | ⟨h1, h2, h3, h4⟩
    · simp [coreOfAgent, ht]
    · by_cases ht : a.kind = .task
      · simp [coreOfAgent, ht]
      · have : coreOfAgent a = .vector := by simp [coreOfAgent, ht]
        rw [this]
        rcases h2 with h2 | h2 <;> simp [h1, h2, h3, h4]
  have hg : (a.pval f.g.toNat == f.gn) = false := by simp [h.guard]
  have hp : (f.g.toNat != 7 && a.ppoison.getLsbD f.g.toNat) = false := by rcases h.clean with e | e <;> simp [e]
  unfold issueOne
  simp only [h.here, h.legal, hc, h.full, hg, h.due, h.regs, h.budget, hp, ite_self, Bool.not_true, Bool.false_eq_true, if_false]
  rw [hr]
  rfl

theorem issueL_clear {o : Op} {f : FormL} {s : State} {k : Nat} {a : Agent} (h : Clear o f s k a) (body : Ctx' → Go) :
    issueL o f body s = .next (settle k a (lenOf f) (body (ctxOf o f (lenOf f) s k a))) := by
  unfold issueL
  rw [h.alone]
  simp [issueOne_clear h]

theorem issueS_clear {o : Op} {f : FormS} {s : State} {k : Nat} {a : Agent} (h : ClearS o f s k a) (body : Ctx' → Go) :
    issueS o f body s = .next (settle k a 4 (body (ctxOfS o f s k a))) := by
  unfold issueS
  rw [Clear.alone h]
  simp only [List.foldl_cons, List.foldl_nil]
  rw [issueOne_clear h]
  rfl

/-! ### What two states share -/

theorem Only.refl (l : List Part) (s : State) : Only l s s := by intro p _; cases p <;> simp [Same]
theorem Same.trans {s t u : State} {p : Part} (h : Same s t p) (g : Same t u p) : Same s u p := by
  cases p <;> simp only [Same] at * <;> first | (intro n; rw [g n, h n]) | simp_all
theorem Only.trans {l : List Part} {s t u : State} (h : Only l s t) (g : Only l t u) : Only l s u := fun p hp => (h p hp).trans (g p hp)
theorem Only.mono {l l' : List Part} {s t : State} (h : Only l s t) (hl : ∀ p, p ∈ l → p ∈ l') : Only l' s t := fun p hp => h p fun h => hp (hl p h)
theorem Only.of_nil {l : List Part} {s t : State} (h : Only [] s t) : Only l s t := h.mono (by simp)
theorem Others.refl (ks : List Nat) (s : State) : Others ks s s := fun _ _ => rfl
theorem Others.trans {ks : List Nat} {s t u : State} (h : Others ks s t) (g : Others ks t u) : Others ks s u := fun j hj => (g j hj).trans (h j hj)
theorem Others.of_eq {ks : List Nat} {s t : State} (h : ∀ j, j ∉ ks → agent? t j = agent? s j) : Others ks s t := fun j hj => by rw [h j hj]

theorem Only.putAgent (s : State) (k : Nat) (a : Agent) : Only [] s (putAgent s k a) := by intro p _; cases p <;> simp [Same, group?, ctx?]
theorem Others.putAgent (s : State) (k : Nat) (a : Agent) : Others [k] s (putAgent s k a) :=
  Others.of_eq fun j hj => agent?_putAgent_ne s a (by simpa using hj)
theorem Only.modAgent (s : State) (k : Nat) (f : Agent → Agent) : Only [] s (modAgent s k f) := by
  unfold Machine.modAgent; split
  · exact Only.putAgent s k _
  · exact Only.refl _ s
theorem Others.modAgent (s : State) (k : Nat) (f : Agent → Agent) : Others [k] s (modAgent s k f) := by
  unfold Machine.modAgent; split
  · exact Others.putAgent s k _
  · exact Others.refl _ s

theorem Only.countIssue (s : State) (a : Agent) : Only [] s (countIssue s a) := by
  unfold Machine.countIssue
  split
  · exact Only.refl _ s
  · split
    · rename_i g hg
      intro p _
      cases p <;> try simp [Same, ctx?]
      intro j
      by_cases hj : j = a.group
      · subst hj; simp [hg, Group.fixed]
      · simp [group?, putGroup, fget?_fput_ne _ _ hj]
    · exact Only.refl _ s
@[simp] theorem agent?_countIssue (s : State) (a : Agent) (j : Nat) : agent? (countIssue s a) j = agent? s j := by
  unfold countIssue; split
  · rfl
  · split <;> rfl

theorem Only.updateCaps (s : State) (p : Rec → Bool) (f : Cap → Cap) : Only [] s (updateCaps s p f) := by
  intro q _; cases q <;> simp [Same, Machine.updateCaps, group?, ctx?]
theorem agent?_updateCaps (s : State) (p : Rec → Bool) (f : Cap → Cap) (j : Nat) :
    agent? (updateCaps s p f) j = (agent? s j).map fun a => { a with
      caps := a.caps.map fun (n, c) => (n, if p c.record then f c else c)
      lastC0 := match fget? a.caps 0 with | some c => if c.valid && p c.record then some (f c).record else a.lastC0 | none => a.lastC0 } :=
  fget?_map (fun _ (a : Agent) => { a with
    caps := a.caps.map fun (n, c) => (n, if p c.record then f c else c)
    lastC0 := match fget? a.caps 0 with | some c => if c.valid && p c.record then some (f c).record else a.lastC0 | none => a.lastC0 }) s.agents j
theorem Others.updateCaps (ks : List Nat) (s : State) (p : Rec → Bool) (f : Cap → Cap) : Others ks s (updateCaps s p f) := by
  intro j _; rw [agent?_updateCaps, Option.map_map]; rfl

theorem Only.queueRec (s : State) (r : Rec) : Only [] s (queueRec s r) := by
  unfold Machine.queueRec Machine.modCtx
  split
  · rename_i c hc
    intro p _
    cases p <;> try simp [Same, group?]
    intro j
    by_cases hj : j = r.asid
    · subst hj; rw [hc]; simp only [ctx?, putCtx, fget?_fput_same, Option.map_some]
      split <;> rfl
    · simp [ctx?, putCtx, fget?_fput_ne _ _ hj]
  · exact Only.refl _ s
@[simp] theorem agent?_queueRec (s : State) (r : Rec) (j : Nat) : agent? (queueRec s r) j = agent? s j := by
  unfold queueRec modCtx; split <;> rfl

/-! ### Completing -/

/-- A stepping party's refreeze leaves what it holds, where it stands and whether it waits, and everything else (R342). -/
theorem stepDone_spec (s : State) (k : Nat) :
    Only [] s (stepDone s k) ∧ Others [k] s (stepDone s k) ∧
    (∀ a, agent? s k = some a → ∃ b, agent? (stepDone s k) k = some b ∧ b.core = a.core ∧ b.pc = a.pc ∧ b.wait = a.wait ∧
      (a.state ≠ .stepping → b = a)) := by
  unfold stepDone
  split
  · rename_i h
    exact ⟨Only.refl _ s, Others.refl _ s, fun a ha => by simp [h] at ha⟩
  · rename_i a ha
    dsimp only
    split
    · exact ⟨Only.refl _ s, Others.refl _ s, fun b hb => ⟨b, hb, rfl, rfl, rfl, fun _ => rfl⟩⟩
    · rename_i hs
      have hst : a.state = .stepping := by
        by_contra hne
        exact hs (by simp [hne])
      split
      · refine ⟨(Only.putAgent s k _).trans (Only.updateCaps _ _ _), (Others.putAgent s k _).trans (Others.updateCaps _ _ _ _), fun b hb => ?_⟩
        rw [ha] at hb; cases hb
        refine ⟨_, by rw [agent?_updateCaps, agent?_putAgent_same]; rfl, ?_⟩
        simp [Agent.endRegion, Agent.core, hst]
      · refine ⟨(Only.putAgent s k _).trans (Only.queueRec _ _), (Others.putAgent s k _).trans (Others.of_eq fun j _ => agent?_queueRec _ _ j), fun b hb => ?_⟩
        rw [ha] at hb; cases hb
        refine ⟨_, by rw [agent?_queueRec, agent?_putAgent_same], ?_⟩
        simp [Agent.endRegion, Agent.core, hst]

theorem advance_core (a : Agent) (p q : DWord) : (advance a p q).core = a.core := by
  unfold advance; split
  · split <;> rfl
  · rfl

/-- Everything that completing an instruction does: the party stands at the next instruction, waits for nothing and keeps what it holds; the
rest of the part is as the instruction left it. -/
theorem settle_next_spec {s : State} {k : Nat} {c : Agent} (h : agent? s k = some c) (a : Agent) (len : Nat) :
    Only [] s (settle k a len (.next s)) ∧ Others [k] s (settle k a len (.next s)) ∧
    ∃ b, agent? (settle k a len (.next s)) k = some b ∧ b.core = c.core ∧ b.pc = (advance c a.pc (a.pc + BitVec.ofNat 64 len)).pc ∧
      b.wait = .none := by
  simp only [settle]
  rw [modAgent_some h]
  generalize hs1 : countIssue (putAgent s k { advance c a.pc (a.pc + BitVec.ofNat 64 len) with wait := Wait.none, waited := 0, age := 0, urgent := false }) a = s1
  have w1 : Only [] s s1 := hs1 ▸ (Only.putAgent s k _).trans (Only.countIssue _ a)
  have a1 : agent? s1 k = some { advance c a.pc (a.pc + BitVec.ofNat 64 len) with wait := Wait.none, waited := 0, age := 0, urgent := false } := by
    rw [← hs1]; simp
  have o1 : Others [k] s s1 := hs1 ▸ (Others.putAgent s k _).trans (Others.of_eq fun j _ => agent?_countIssue _ _ j)
  split
  · obtain ⟨w2, o2, r2⟩ := stepDone_spec s1 k
    obtain ⟨b, hb, e1, e2, e3, -⟩ := r2 _ a1
    exact ⟨w1.trans w2, o1.trans o2, b, hb, e1.trans (advance_core c a.pc _), e2, e3⟩
  · generalize hs2 : chargeBudget s1 k _ = s2
    have w2 : Only [] s1 s2 := hs2 ▸ Only.modAgent s1 k _
    have o2 : Others [k] s1 s2 := hs2 ▸ Others.modAgent s1 k _
    have a2 := agent?_modAgent_same s1 k (fun a' => { a' with caps := a'.caps.map fun (n, c) =>
      (n, if (a.caps.filterMap fun (n, c) => if c.valid then some n else none).contains n then { c with budget := c.budget - 1 } else c) })
    change agent? (chargeBudget s1 k _) k = _ at a2
    rw [hs2, a1] at a2
    obtain ⟨w3, o3, r3⟩ := stepDone_spec s2 k
    obtain ⟨b, hb, e1, e2, e3, -⟩ := r3 _ a2
    exact ⟨(w1.trans w2).trans w3, (o1.trans o2).trans o3, b, hb, e1.trans (advance_core c a.pc _), e2, e3⟩

/-- The next instruction of a party whose block and PC an instruction left alone. -/
theorem advance_pc {a c : Agent} (h : c.blk = a.blk) (p q : DWord) : (advance c p q).pc = (advance a p q).pc := by
  unfold advance; rw [h]; split
  · split <;> rfl
  · rfl

/-- HOW A CLEAR PARTY'S INSTRUCTION COMPLETES: its own effect leads to `t`, in which the party is `c` with its block as it was; what holds
of `t` and of what the party holds there holds after the step. -/
theorem moves_settle {c : Ctx'} {t : State} {b' : Agent} {l : List Part} {P : State → Agent → Prop} {out : Out}
    (ho : out = .next (settle c.k c.a c.len (.next t))) (ht : agent? t c.k = some b') (hblk : b'.blk = c.a.blk) (hl : Only l c.s t)
    (hoth : Others [c.k] c.s t) (hP : ∀ u b, Only [] t u → b.core = b'.core → P u b) : Moves c out l P := by
  obtain ⟨w, o, b, hb, hc, hpc, hw⟩ := settle_next_spec ht c.a c.len
  exact ⟨_, b, ho, ⟨hb, hpc.trans (advance_pc hblk _ _), hw⟩, hl.trans (Only.of_nil w), hoth.trans o, hP _ b w hc⟩

theorem doesL {i : FormL → Instr} {o : Op} {H : Ctx' → Prop} {l : List Part} {P : Ctx' → State → Agent → Prop} (body : Ctx' → Go)
    (hi : ∀ f s, exec (i f) s = issueL o f body s)
    (h : ∀ c, agent? c.s c.k = some c.a → H c → ∃ t b', body c = .next t ∧ agent? t c.k = some b' ∧ b'.blk = c.a.blk ∧ Only l c.s t ∧
      Others [c.k] c.s t ∧ ∀ u b, Only [] t u → b.core = b'.core → P c u b) : Does i o H l P := by
  intro f s k a hc c hH
  obtain ⟨t, b', hb, ht, hblk, hl, hoth, hP⟩ := h c hc.here hH
  refine moves_settle (t := t) (b' := b') ?_ ht hblk hl hoth hP
  rw [hi, issueL_clear hc, hb]; rfl
theorem doesS {i : FormS → Instr} {o : Op} {H : Ctx' → Prop} {l : List Part} {P : Ctx' → State → Agent → Prop} (body : Ctx' → Go)
    (hi : ∀ f s, exec (i f) s = issueS o f body s)
    (h : ∀ c, agent? c.s c.k = some c.a → H c → ∃ t b', body c = .next t ∧ agent? t c.k = some b' ∧ b'.blk = c.a.blk ∧ Only l c.s t ∧
      Others [c.k] c.s t ∧ ∀ u b, Only [] t u → b.core = b'.core → P c u b) : DoesS i o H l P := by
  intro f s k a hc c hH
  obtain ⟨t, b', hb, ht, hblk, hl, hoth, hP⟩ := h c hc.here hH
  refine moves_settle (t := t) (b' := b') ?_ ht hblk hl hoth hP
  rw [hi, issueS_clear hc, hb]; rfl

end Sys2Proof.Machine
end

