-- ==== Sys2Proof/Laws/PerInstr.lean ====
section
/-!
SUPPORT. Sys2Proof/Laws/PerInstr.lean: for every constructor, the instruction is as long as its first word says (R25), and an event has
no words.
-/
namespace Sys2Proof.Laws.Words

/-- The words of an instruction are as many as its first word says (R25). -/
def Statement (i : Instr) : Prop := ∀ w ∈ (encode i).head?, (encode i).length = lengthOf w

theorem lengthS (o : Op) (f : FormS) : ∀ w ∈ (encodeS o f).head?, (encodeS o f).length = lengthOf w := by
  intro w h
  simp only [encodeS, List.head?_cons, Option.mem_def, Option.some.injEq] at h
  subst h
  have e : BitVec.extractLsb' 30 2 (0#2 ++ BitVec.ofNat 7 o.opc ++ f.dst ++ f.a ++ f.b ++ bit f.ba ++ bit f.bb ++ f.g) = 0#2 := by
    apply BitVec.eq_of_getLsbD_eq; intro i hi; interval_cases i <;> simp only [BitVec.getLsbD_extractLsb', BitVec.getLsbD_append] <;> rfl
  simp only [encodeS, List.length_cons, List.length_nil, lengthOf]
  rw [e]
  rfl

theorem lengthL (o : Op) (f : FormL) : ∀ w ∈ (encodeL o f).head?, (encodeL o f).length = lengthOf w := by
  intro w h
  unfold encodeL at h ⊢
  split at h
  · rename_i n blk hb
    simp only [List.head?_cons, Option.mem_def, Option.some.injEq] at h
    subst h
    have e : BitVec.extractLsb' 30 2 (1#2 ++ BitVec.ofNat 8 o.opc ++ f.dst ++ f.a ++ f.g ++ bit f.gn ++ bit f.ba ++ bit blk) = 1#2 := by
      apply BitVec.eq_of_getLsbD_eq; intro i hi; interval_cases i <;> simp only [BitVec.getLsbD_extractLsb', BitVec.getLsbD_append] <;> rfl
    simp only [List.length_cons, List.length_nil, lengthOf]
    rw [e]
    rfl
  · rename_i l hb
    simp only [List.head?_cons, Option.mem_def, Option.some.injEq] at h
    subst h
    have e : BitVec.extractLsb' 30 2 (2#2 ++ BitVec.ofNat 8 o.opc ++ f.dst ++ f.a ++ f.g ++ bit f.gn ++ bit f.ba ++ 0#1) = 2#2 := by
      apply BitVec.eq_of_getLsbD_eq; intro i hi; interval_cases i <;> simp only [BitVec.getLsbD_extractLsb', BitVec.getLsbD_append] <;> rfl
    simp only [List.length_cons, List.length_nil, lengthOf]
    rw [e]
    rfl

theorem nopS (f : FormS) : Statement (.nopS f) := lengthS _ f
theorem nop (f : FormL) : Statement (.nop f) := lengthL _ f
theorem movS (f : FormS) : Statement (.movS f) := lengthS _ f
theorem mov (f : FormL) : Statement (.mov f) := lengthL _ f
theorem movi (f : FormL) : Statement (.movi f) := lengthL _ f
theorem sel (f : FormL) : Statement (.sel f) := lengthL _ f
theorem iaddS (f : FormS) : Statement (.iaddS f) := lengthS _ f
theorem iadd (f : FormL) : Statement (.iadd f) := lengthL _ f
theorem isubS (f : FormS) : Statement (.isubS f) := lengthS _ f
theorem isub (f : FormL) : Statement (.isub f) := lengthL _ f
theorem iaddc (f : FormL) : Statement (.iaddc f) := lengthL _ f
theorem inegS (f : FormS) : Statement (.inegS f) := lengthS _ f
theorem ineg (f : FormL) : Statement (.ineg f) := lengthL _ f
theorem imulS (f : FormS) : Statement (.imulS f) := lengthS _ f
theorem imul (f : FormL) : Statement (.imul f) := lengthL _ f
theorem imulhS (f : FormS) : Statement (.imulhS f) := lengthS _ f
theorem imulh (f : FormL) : Statement (.imulh f) := lengthL _ f
theorem imadS (f : FormS) : Statement (.imadS f) := lengthS _ f
theorem imad (f : FormL) : Statement (.imad f) := lengthL _ f
theorem imadw (f : FormL) : Statement (.imadw f) := lengthL _ f
theorem idiv (f : FormL) : Statement (.idiv f) := lengthL _ f
theorem irem (f : FormL) : Statement (.irem f) := lengthL _ f
theorem iminS (f : FormS) : Statement (.iminS f) := lengthS _ f
theorem imin (f : FormL) : Statement (.imin f) := lengthL _ f
theorem imaxS (f : FormS) : Statement (.imaxS f) := lengthS _ f
theorem imax (f : FormL) : Statement (.imax f) := lengthL _ f
theorem iabsS (f : FormS) : Statement (.iabsS f) := lengthS _ f
theorem iabs (f : FormL) : Statement (.iabs f) := lengthL _ f
theorem andS (f : FormS) : Statement (.andS f) := lengthS _ f
theorem and (f : FormL) : Statement (.and f) := lengthL _ f
theorem orS (f : FormS) : Statement (.orS f) := lengthS _ f
theorem or (f : FormL) : Statement (.or f) := lengthL _ f
theorem xorS (f : FormS) : Statement (.xorS f) := lengthS _ f
theorem xor (f : FormL) : Statement (.xor f) := lengthL _ f
theorem notS (f : FormS) : Statement (.notS f) := lengthS _ f
theorem not (f : FormL) : Statement (.not f) := lengthL _ f
theorem andnS (f : FormS) : Statement (.andnS f) := lengthS _ f
theorem andn (f : FormL) : Statement (.andn f) := lengthL _ f
theorem shlS (f : FormS) : Statement (.shlS f) := lengthS _ f
theorem shl (f : FormL) : Statement (.shl f) := lengthL _ f
theorem shrS (f : FormS) : Statement (.shrS f) := lengthS _ f
theorem shr (f : FormL) : Statement (.shr f) := lengthL _ f
theorem sarS (f : FormS) : Statement (.sarS f) := lengthS _ f
theorem sar (f : FormL) : Statement (.sar f) := lengthL _ f
theorem rotS (f : FormS) : Statement (.rotS f) := lengthS _ f
theorem rot (f : FormL) : Statement (.rot f) := lengthL _ f
theorem shfS (f : FormS) : Statement (.shfS f) := lengthS _ f
theorem shf (f : FormL) : Statement (.shf f) := lengthL _ f
theorem popcS (f : FormS) : Statement (.popcS f) := lengthS _ f
theorem popc (f : FormL) : Statement (.popc f) := lengthL _ f
theorem clzS (f : FormS) : Statement (.clzS f) := lengthS _ f
theorem clz (f : FormL) : Statement (.clz f) := lengthL _ f
theorem ctzS (f : FormS) : Statement (.ctzS f) := lengthS _ f
theorem ctz (f : FormL) : Statement (.ctz f) := lengthL _ f
theorem brevS (f : FormS) : Statement (.brevS f) := lengthS _ f
theorem brev (f : FormL) : Statement (.brev f) := lengthL _ f
theorem bfe (f : FormL) : Statement (.bfe f) := lengthL _ f
theorem bfi (f : FormL) : Statement (.bfi f) := lengthL _ f
theorem prmt (f : FormL) : Statement (.prmt f) := lengthL _ f
theorem lea (f : FormL) : Statement (.lea f) := lengthL _ f
theorem iset (f : FormL) : Statement (.iset f) := lengthL _ f
theorem idp4 (f : FormL) : Statement (.idp4 f) := lengthL _ f
theorem faddS (f : FormS) : Statement (.faddS f) := lengthS _ f
theorem fadd (f : FormL) : Statement (.fadd f) := lengthL _ f
theorem fsubS (f : FormS) : Statement (.fsubS f) := lengthS _ f
theorem fsub (f : FormL) : Statement (.fsub f) := lengthL _ f
theorem fmulS (f : FormS) : Statement (.fmulS f) := lengthS _ f
theorem fmul (f : FormL) : Statement (.fmul f) := lengthL _ f
theorem ffmaS (f : FormS) : Statement (.ffmaS f) := lengthS _ f
theorem ffma (f : FormL) : Statement (.ffma f) := lengthL _ f
theorem fminS (f : FormS) : Statement (.fminS f) := lengthS _ f
theorem fmin (f : FormL) : Statement (.fmin f) := lengthL _ f
theorem fmaxS (f : FormS) : Statement (.fmaxS f) := lengthS _ f
theorem fmax (f : FormL) : Statement (.fmax f) := lengthL _ f
theorem fset (f : FormL) : Statement (.fset f) := lengthL _ f
theorem fclass (f : FormL) : Statement (.fclass f) := lengthL _ f
theorem frnd (f : FormL) : Statement (.frnd f) := lengthL _ f
theorem fscl (f : FormL) : Statement (.fscl f) := lengthL _ f
theorem daddS (f : FormS) : Statement (.daddS f) := lengthS _ f
theorem dadd (f : FormL) : Statement (.dadd f) := lengthL _ f
theorem dmulS (f : FormS) : Statement (.dmulS f) := lengthS _ f
theorem dmul (f : FormL) : Statement (.dmul f) := lengthL _ f
theorem dfmaS (f : FormS) : Statement (.dfmaS f) := lengthS _ f
theorem dfma (f : FormL) : Statement (.dfma f) := lengthL _ f
theorem dset (f : FormL) : Statement (.dset f) := lengthL _ f
theorem hfma2S (f : FormS) : Statement (.hfma2S f) := lengthS _ f
theorem hfma2 (f : FormL) : Statement (.hfma2 f) := lengthL _ f
theorem hadd2S (f : FormS) : Statement (.hadd2S f) := lengthS _ f
theorem hadd2 (f : FormL) : Statement (.hadd2 f) := lengthL _ f
theorem hmul2S (f : FormS) : Statement (.hmul2S f) := lengthS _ f
theorem hmul2 (f : FormL) : Statement (.hmul2 f) := lengthL _ f
theorem fcvt (f : FormL) : Statement (.fcvt f) := lengthL _ f
theorem f2i (f : FormL) : Statement (.f2i f) := lengthL _ f
theorem i2f (f : FormL) : Statement (.i2f f) := lengthL _ f
theorem qnt (f : FormL) : Statement (.qnt f) := lengthL _ f
theorem dqnt (f : FormL) : Statement (.dqnt f) := lengthL _ f
theorem pack (f : FormL) : Statement (.pack f) := lengthL _ f
theorem unpk (f : FormL) : Statement (.unpk f) := lengthL _ f
theorem rcp (f : FormL) : Statement (.rcp f) := lengthL _ f
theorem rsq (f : FormL) : Statement (.rsq f) := lengthL _ f
theorem sqrt (f : FormL) : Statement (.sqrt f) := lengthL _ f
theorem ex2 (f : FormL) : Statement (.ex2 f) := lengthL _ f
theorem lg2 (f : FormL) : Statement (.lg2 f) := lengthL _ f
theorem sin (f : FormL) : Statement (.sin f) := lengthL _ f
theorem cos (f : FormL) : Statement (.cos f) := lengthL _ f
theorem tanh (f : FormL) : Statement (.tanh f) := lengthL _ f
theorem fdivS (f : FormS) : Statement (.fdivS f) := lengthS _ f
theorem fdiv (f : FormL) : Statement (.fdiv f) := lengthL _ f
theorem ddiv (f : FormL) : Statement (.ddiv f) := lengthL _ f
theorem dsqrt (f : FormL) : Statement (.dsqrt f) := lengthL _ f
theorem plog (f : FormL) : Statement (.plog f) := lengthL _ f
theorem pmov (f : FormL) : Statement (.pmov f) := lengthL _ f
theorem flrd (f : FormL) : Statement (.flrd f) := lengthL _ f
theorem flclr (f : FormL) : Statement (.flclr f) := lengthL _ f
theorem movs (f : FormL) : Statement (.movs f) := lengthL _ f
theorem clk (f : FormL) : Statement (.clk f) := lengthL _ f
theorem wid (f : FormL) : Statement (.wid f) := lengthL _ f
theorem setpart (f : FormL) : Statement (.setpart f) := lengthL _ f
theorem vote (f : FormL) : Statement (.vote f) := lengthL _ f
theorem shfl (f : FormL) : Statement (.shfl f) := lengthL _ f
theorem tred (f : FormL) : Statement (.tred f) := lengthL _ f
theorem tscan (f : FormL) : Statement (.tscan f) := lengthL _ f
theorem tsync (f : FormL) : Statement (.tsync f) := lengthL _ f
theorem bra (f : FormL) : Statement (.bra f) := lengthL _ f
theorem brc (f : FormL) : Statement (.brc f) := lengthL _ f
theorem jmp (f : FormL) : Statement (.jmp f) := lengthL _ f
theorem call (f : FormL) : Statement (.call f) := lengthL _ f
theorem calli (f : FormL) : Statement (.calli f) := lengthL _ f
theorem retS (f : FormS) : Statement (.retS f) := lengthS _ f
theorem ret (f : FormL) : Statement (.ret f) := lengthL _ f
theorem exitS (f : FormS) : Statement (.exitS f) := lengthS _ f
theorem exit (f : FormL) : Statement (.exit f) := lengthL _ f
theorem yieldS (f : FormS) : Statement (.yieldS f) := lengthS _ f
theorem yield (f : FormL) : Statement (.yield f) := lengthL _ f
theorem trap (f : FormL) : Statement (.trap f) := lengthL _ f
theorem bkpt (f : FormL) : Statement (.bkpt f) := lengthL _ f
theorem ldS (f : FormS) : Statement (.ldS f) := lengthS _ f
theorem ld (f : FormL) : Statement (.ld f) := lengthL _ f
theorem stS (f : FormS) : Statement (.stS f) := lengthS _ f
theorem st (f : FormL) : Statement (.st f) := lengthL _ f
theorem ldsS (f : FormS) : Statement (.ldsS f) := lengthS _ f
theorem lds (f : FormL) : Statement (.lds f) := lengthL _ f
theorem stsS (f : FormS) : Statement (.stsS f) := lengthS _ f
theorem sts (f : FormL) : Statement (.sts f) := lengthL _ f
theorem ldlS (f : FormS) : Statement (.ldlS f) := lengthS _ f
theorem ldl (f : FormL) : Statement (.ldl f) := lengthL _ f
theorem stlS (f : FormS) : Statement (.stlS f) := lengthS _ f
theorem stl (f : FormL) : Statement (.stl f) := lengthL _ f
theorem atom (f : FormL) : Statement (.atom f) := lengthL _ f
theorem atoms (f : FormL) : Statement (.atoms f) := lengthL _ f
theorem red (f : FormL) : Statement (.red f) := lengthL _ f
theorem fence (f : FormL) : Statement (.fence f) := lengthL _ f
theorem pref (f : FormL) : Statement (.pref f) := lengthL _ f
theorem append (f : FormL) : Statement (.append f) := lengthL _ f
theorem wltake (f : FormL) : Statement (.wltake f) := lengthL _ f
theorem launch (f : FormL) : Statement (.launch f) := lengthL _ f
theorem trdy (f : FormL) : Statement (.trdy f) := lengthL _ f
theorem cpy (f : FormL) : Statement (.cpy f) := lengthL _ f
theorem cpyt (f : FormL) : Statement (.cpyt f) := lengthL _ f
theorem gsum (f : FormL) : Statement (.gsum f) := lengthL _ f
theorem qsig (f : FormL) : Statement (.qsig f) := lengthL _ f
theorem qwait (f : FormL) : Statement (.qwait f) := lengthL _ f
theorem qfence (f : FormL) : Statement (.qfence f) := lengthL _ f
theorem trig (f : FormL) : Statement (.trig f) := lengthL _ f
theorem taskpush (f : FormL) : Statement (.taskpush f) := lengthL _ f
theorem cgrun (f : FormL) : Statement (.cgrun f) := lengthL _ f
theorem carve (f : FormL) : Statement (.carve f) := lengthL _ f
theorem msLdt (f : FormL) : Statement (.msLdt f) := lengthL _ f
theorem msStt (f : FormL) : Statement (.msStt f) := lengthL _ f
theorem msAdd (f : FormL) : Statement (.msAdd f) := lengthL _ f
theorem msSub (f : FormL) : Statement (.msSub f) := lengthL _ f
theorem msMul (f : FormL) : Statement (.msMul f) := lengthL _ f
theorem msMulc (f : FormL) : Statement (.msMulc f) := lengthL _ f
theorem msLog (f : FormL) : Statement (.msLog f) := lengthL _ f
theorem msCmp (f : FormL) : Statement (.msCmp f) := lengthL _ f
theorem msSel (f : FormL) : Statement (.msSel f) := lengthL _ f
theorem msSet (f : FormL) : Statement (.msSet f) := lengthL _ f
theorem msCpy (f : FormL) : Statement (.msCpy f) := lengthL _ f
theorem msShr (f : FormL) : Statement (.msShr f) := lengthL _ f
theorem msRsum (f : FormL) : Statement (.msRsum f) := lengthL _ f
theorem msCmpt (f : FormL) : Statement (.msCmpt f) := lengthL _ f
theorem msRel (f : FormL) : Statement (.msRel f) := lengthL _ f
theorem barSync (f : FormL) : Statement (.barSync f) := lengthL _ f
theorem barArv (f : FormL) : Statement (.barArv f) := lengthL _ f
theorem barWait (f : FormL) : Statement (.barWait f) := lengthL _ f
theorem mbinit (f : FormL) : Statement (.mbinit f) := lengthL _ f
theorem mbarv (f : FormL) : Statement (.mbarv f) := lengthL _ f
theorem mbwait (f : FormL) : Statement (.mbwait f) := lengthL _ f
theorem mbtest (f : FormL) : Statement (.mbtest f) := lengthL _ f
theorem mbdrop (f : FormL) : Statement (.mbdrop f) := lengthL _ f
theorem capRdr (f : FormL) : Statement (.capRdr f) := lengthL _ f
theorem capWrr (f : FormL) : Statement (.capWrr f) := lengthL _ f
theorem capRds (f : FormL) : Statement (.capRds f) := lengthL _ f
theorem capSetpc (f : FormL) : Statement (.capSetpc f) := lengthL _ f
theorem capRes (f : FormL) : Statement (.capRes f) := lengthL _ f
theorem capKill (f : FormL) : Statement (.capKill f) := lengthL _ f
theorem capStep (f : FormL) : Statement (.capStep f) := lengthL _ f
theorem capArv (f : FormL) : Statement (.capArv f) := lengthL _ f
theorem capRel (f : FormL) : Statement (.capRel f) := lengthL _ f
theorem capNext (f : FormL) : Statement (.capNext f) := lengthL _ f
theorem pginv (f : FormL) : Statement (.pginv f) := lengthL _ f
theorem pgmig (f : FormL) : Statement (.pgmig f) := lengthL _ f
theorem tfmt (f : FormL) : Statement (.tfmt f) := lengthL _ f
theorem tct (f : FormL) : Statement (.tct f) := lengthL _ f
theorem tcfg (f : FormL) : Statement (.tcfg f) := lengthL _ f
theorem tzero (f : FormL) : Statement (.tzero f) := lengthL _ f
theorem mma (f : FormL) : Statement (.mma f) := lengthL _ f
theorem mmac (f : FormL) : Statement (.mmac f) := lengthL _ f
theorem mmab (f : FormL) : Statement (.mmab f) := lengthL _ f
theorem tmac (f : FormL) : Statement (.tmac f) := lengthL _ f
theorem tdrn (f : FormL) : Statement (.tdrn f) := lengthL _ f
theorem tdrnb (f : FormL) : Statement (.tdrnb f) := lengthL _ f
theorem twait (f : FormL) : Statement (.twait f) := lengthL _ f
theorem tflg (f : FormL) : Statement (.tflg f) := lengthL _ f
theorem endt (f : FormL) : Statement (.endt f) := lengthL _ f
theorem threadUrgent (k : Nat) : Statement (.threadUrgent k) := by intro w h; cases h
theorem holdTimeout (k : Nat) : Statement (.holdTimeout k) := by intro w h; cases h
theorem yieldExpiry (k : Nat) : Statement (.yieldExpiry k) := by intro w h; cases h
theorem producerCompletion (id : Nat) : Statement (.producerCompletion id) := by intro w h; cases h
theorem loadCompletion (id : Nat) : Statement (.loadCompletion id) := by intro w h; cases h
theorem rendezvousCompletion (k : Nat) : Statement (.rendezvousCompletion k) := by intro w h; cases h
theorem mbwaitLimitExpiry (k : Nat) : Statement (.mbwaitLimitExpiry k) := by intro w h; cases h
theorem qwaitLimitExpiry (k : Nat) : Statement (.qwaitLimitExpiry k) := by intro w h; cases h
theorem launchEntryHead (q : Nat) : Statement (.launchEntryHead q) := by intro w h; cases h
theorem groupPlacement (kern start : Nat) : Statement (.groupPlacement kern start) := by intro w h; cases h
theorem weakGroupSave (g : Nat) : Statement (.weakGroupSave g) := by intro w h; cases h
theorem groupRestore (g start : Nat) : Statement (.groupRestore g start) := by intro w h; cases h
theorem groupRetirement (g : Nat) : Statement (.groupRetirement g) := by intro w h; cases h
theorem kernelRetirement (kern : Nat) : Statement (.kernelRetirement kern) := by intro w h; cases h
theorem appendArrival (id : Nat) : Statement (.appendArrival id) := by intro w h; cases h
theorem quiescence (kern : Nat) : Statement (.quiescence kern) := by intro w h; cases h
theorem queueEntryStart (q : Nat) : Statement (.queueEntryStart q) := by intro w h; cases h
theorem copyBox (q n : Nat) : Statement (.copyBox q n) := by intro w h; cases h
theorem entryCompletion (q : Nat) : Statement (.entryCompletion q) := by intro w h; cases h
theorem signalAddition (id : Nat) : Statement (.signalAddition id) := by intro w h; cases h
theorem triggerFire (id : Nat) : Statement (.triggerFire id) := by intro w h; cases h
theorem triggerEntryPush (id : Nat) : Statement (.triggerEntryPush id) := by intro w h; cases h
theorem joinMarkerCompletion (q : Nat) : Statement (.joinMarkerCompletion q) := by intro w h; cases h
theorem taskHead (q : Nat) : Statement (.taskHead q) := by intro w h; cases h
theorem taskAdmission (cl : Nat) : Statement (.taskAdmission cl) := by intro w h; cases h
theorem matrixOperationAccept (cl : Nat) : Statement (.matrixOperationAccept cl) := by intro w h; cases h
theorem matrixKStep (cl : Nat) : Statement (.matrixKStep cl) := by intro w h; cases h
theorem continuationPush (q : Nat) : Statement (.continuationPush q) := by intro w h; cases h
theorem carveEntry (q : Nat) : Statement (.carveEntry q) := by intro w h; cases h
theorem carvingComplete (die : Nat) : Statement (.carvingComplete die) := by intro w h; cases h
theorem mashOperationEntry (q : Nat) : Statement (.mashOperationEntry q) := by intro w h; cases h
theorem mashTransferEntry (q : Nat) : Statement (.mashTransferEntry q) := by intro w h; cases h
theorem msRelEntry (q : Nat) : Statement (.msRelEntry q) := by intro w h; cases h
theorem releasingComplete (die : Nat) : Statement (.releasingComplete die) := by intro w h; cases h
theorem read (id : Nat) : Statement (.read id) := by intro w h; cases h
theorem write (id : Nat) : Statement (.write id) := by intro w h; cases h
theorem atomic (id : Nat) : Statement (.atomic id) := by intro w h; cases h
theorem resp (id : Nat) : Statement (.resp id) := by intro w h; cases h
theorem ack (id : Nat) : Statement (.ack id) := by intro w h; cases h
theorem marker (id : Nat) : Statement (.marker id) := by intro w h; cases h
theorem markerack (id : Nat) : Statement (.markerack id) := by intro w h; cases h
theorem inval (id : Nat) : Statement (.inval id) := by intro w h; cases h
theorem invalack (id : Nat) : Statement (.invalack id) := by intro w h; cases h
theorem fwd (id : Nat) : Statement (.fwd id) := by intro w h; cases h
theorem fwdans (id : Nat) : Statement (.fwdans id) := by intro w h; cases h
theorem chunk (id : Nat) (outside : Option Arrival := none) : Statement (.chunk id outside) := by intro w h; cases h
theorem fw (st : Nat) (msg : BitVec 64) : Statement (.fw st msg) := by intro w h; cases h
theorem migrationLineCopy (st n : Nat) : Statement (.migrationLineCopy st n) := by intro w h; cases h
theorem migrationSwitch (st n : Nat) : Statement (.migrationSwitch st n) := by intro w h; cases h
theorem runEntryStart (q : Nat) : Statement (.runEntryStart q) := by intro w h; cases h
theorem nodeCopy (q n : Nat) : Statement (.nodeCopy q n) := by intro w h; cases h
theorem nodeRadd (q n : Nat) : Statement (.nodeRadd q n) := by intro w h; cases h
theorem nodeRmax (q n : Nat) : Statement (.nodeRmax q n) := by intro w h; cases h
theorem nodeGsum (q n : Nat) : Statement (.nodeGsum q n) := by intro w h; cases h
theorem nodeCmp4 (q n : Nat) : Statement (.nodeCmp4 q n) := by intro w h; cases h
theorem nodeSend (q n : Nat) : Statement (.nodeSend q n) := by intro w h; cases h
theorem nodeRecv (q n : Nat) : Statement (.nodeRecv q n) := by intro w h; cases h
theorem landingGrant (q n : Nat) : Statement (.landingGrant q n) := by intro w h; cases h
theorem nodeCompletion (q n : Nat) : Statement (.nodeCompletion q n) := by intro w h; cases h
theorem runCompletion (q : Nat) : Statement (.runCompletion q) := by intro w h; cases h
theorem crcReplay (link fails : Nat) : Statement (.crcReplay link fails) := by intro w h; cases h
theorem linkTraining (link : Nat) : Statement (.linkTraining link) := by intro w h; cases h
theorem linkTrained (link : Nat) (r : TrainResult) : Statement (.linkTrained link r) := by intro w h; cases h
theorem laneFault (link : Nat) (control : Bool) (bundle : Nat := 0) : Statement (.laneFault link control bundle) := by intro w h; cases h
theorem linkSelfTest (link : Nat) (lasting : Bool) : Statement (.linkSelfTest link lasting) := by intro w h; cases h
theorem mastRemap (mast : Nat) (inService : Bool) : Statement (.mastRemap mast inService) := by intro w h; cases h
theorem routeChange (st pkg : Nat) (routes : BitVec 64) : Statement (.routeChange st pkg routes) := by intro w h; cases h
theorem frozenRecordAdmit (asid : Nat) : Statement (.frozenRecordAdmit asid) := by intro w h; cases h
theorem handlerStart (asid : Nat) : Statement (.handlerStart asid) := by intro w h; cases h
theorem handlerBudget (k : Nat) : Statement (.handlerBudget k) := by intro w h; cases h
theorem level2Handling (die : Nat) (faulted : Bool) : Statement (.level2Handling die faulted) := by intro w h; cases h
theorem contextBuild (asid : Nat) : Statement (.contextBuild asid) := by intro w h; cases h
theorem contextStart (asid : Nat) : Statement (.contextStart asid) := by intro w h; cases h
theorem contextStartWhenFree (asid : Nat) : Statement (.contextStartWhenFree asid) := by intro w h; cases h
theorem contextPreempt (asid : Nat) : Statement (.contextPreempt asid) := by intro w h; cases h
theorem contextHalt (asid : Nat) : Statement (.contextHalt asid) := by intro w h; cases h
theorem contextResume (asid : Nat) : Statement (.contextResume asid) := by intro w h; cases h
theorem contextRetire (asid : Nat) : Statement (.contextRetire asid) := by intro w h; cases h
theorem contextFree (asid : Nat) : Statement (.contextFree asid) := by intro w h; cases h
theorem tsliceExpiry (asid : Nat) : Statement (.tsliceExpiry asid) := by intro w h; cases h
theorem contextCut (asid : Nat) : Statement (.contextCut asid) := by intro w h; cases h
theorem drainTimeout (asid : Nat) : Statement (.drainTimeout asid) := by intro w h; cases h
theorem handlerCutTimeout (asid : Nat) : Statement (.handlerCutTimeout asid) := by intro w h; cases h
theorem drainForward (asid : Nat) : Statement (.drainForward asid) := by intro w h; cases h
theorem doorbellWrite (master asid q : Nat) (v : BitVec 64) : Statement (.doorbellWrite master asid q v) := by intro w h; cases h
theorem queueEnable (q : Nat) : Statement (.queueEnable q) := by intro w h; cases h
theorem queueDisable (q : Nat) : Statement (.queueDisable q) := by intro w h; cases h
theorem queueErrClear (q : Nat) : Statement (.queueErrClear q) := by intro w h; cases h
theorem diePowerOff (die : Nat) : Statement (.diePowerOff die) := by intro w h; cases h
theorem diePowerOn (die : Nat) : Statement (.diePowerOn die) := by intro w h; cases h
theorem operatingPointRequest (die : Nat) (p : BitVec 2) : Statement (.operatingPointRequest die p) := by intro w h; cases h
theorem operatingPointSwitch (die : Nat) : Statement (.operatingPointSwitch die) := by intro w h; cases h
theorem mmioRegisterWrite (off : BitVec 48) (bytes : Nat) (v : BitVec 64) (master : Nat := 0x100) : Statement (.mmioRegisterWrite off bytes v master) := by intro w h; cases h
theorem controlIntervalStart : Statement .controlIntervalStart := by intro w h; cases h
theorem activationWindowAdjust (st : Nat) (above : Bool) : Statement (.activationWindowAdjust st above) := by intro w h; cases h
theorem eccError (unit : EccUnit) (correctable : Bool) : Statement (.eccError unit correctable) := by intro w h; cases h
theorem healthSelfTest (unit : EccUnit) (lasting spared : Bool) : Statement (.healthSelfTest unit lasting spared) := by intro w h; cases h
theorem dieFailure (die : Nat) : Statement (.dieFailure die) := by intro w h; cases h
theorem hostWriteInvalidate (pa : BitVec 56) (data : List (BitVec 8)) : Statement (.hostWriteInvalidate pa data) := by intro w h; cases h
theorem backInvalidate (pa : BitVec 56) : Statement (.backInvalidate pa) := by intro w h; cases h
theorem attestationQuote (nonce : BitVec 256) : Statement (.attestationQuote nonce) := by intro w h; cases h
theorem packageReset (failure : BringUp) : Statement (.packageReset failure) := by intro w h; cases h
theorem packageFatal (image : Bool := false) : Statement (.packageFatal image) := by intro w h; cases h
theorem discardedFlit (link : Nat) (flit : BitVec 256 := 0) : Statement (.discardedFlit link flit) := by intro w h; cases h
theorem hostHbmAccess (master : Nat) (pa : BitVec 56) (bytes : Nat) (data : Option (List (BitVec 8))) : Statement (.hostHbmAccess master pa bytes data) := by intro w h; cases h

end Sys2Proof.Laws.Words
end

