-- ==== Sys2Proof/Laws/Registers.lean ====
section
/-!
SUPPORT. Sys2Proof/Laws/Registers.lean: reading registers and predicates after writing, emptying or delivering to them.
-/
namespace Sys2Proof.Machine

/-! ### One register -/

theorem vcell_setV (a : Agent) (n : Nat) (c : Cell 32) (m : Nat) : (a.setV n c).vcell m = if m = n ∧ n < 255 then c else a.vcell m := by
  unfold Agent.setV Agent.vcell
  by_cases hn : n ≥ 255
  · simp [hn, show ¬ n < 255 by omega]
  · have hn' : n < 255 := by omega
    simp only [hn, if_false, hn', and_true]
    by_cases hm : m = n
    · subst hm; simp [hn]
    · simp [hm, fgetD_fput_ne _ _ _ hm]
theorem xcell_setX (a : Agent) (n : Nat) (c : Cell 64) (m : Nat) : (a.setX n c).xcell m = if m = n ∧ n ≠ 0 ∧ n < 32 then c else a.xcell m := by
  by_cases hn : n = 0 ∨ n ≥ 32
  · have e : (n == 0 || decide (n ≥ 32)) = true := by simpa using hn
    have g : a.setX n c = a := by unfold Agent.setX; rw [if_pos e]
    rw [g, if_neg (by omega)]
  · have e : (n == 0 || decide (n ≥ 32)) = false := by simp; omega
    have g : a.setX n c = { a with x := fput a.x n c } := by unfold Agent.setX; rw [if_neg (by simp [e])]
    rw [g]
    by_cases hm : m = n
    · subst hm; rw [if_pos ⟨rfl, by omega⟩]; unfold Agent.xcell; rw [e]; simp
    · rw [if_neg (by simp [hm])]; unfold Agent.xcell; simp only [fgetD_fput_ne _ _ _ hm]
theorem setV_rest (a : Agent) (n : Nat) (c : Cell 32) : ∃ v, a.setV n c = { a with v := v } := by
  unfold Agent.setV; split
  · exact ⟨a.v, rfl⟩
  · exact ⟨_, rfl⟩
theorem setX_rest (a : Agent) (n : Nat) (c : Cell 64) : ∃ x, a.setX n c = { a with x := x } := by
  unfold Agent.setX; split
  · exact ⟨a.x, rfl⟩
  · exact ⟨_, rfl⟩

/-! ### A run of registers -/

/-- Registers changed one after the other: each by what it held. -/
theorem vcell_run (F : Nat → Cell 32 → Cell 32) (r n : Nat) : ∀ (i : Nat) (a : Agent) (m : Nat),
    ((upFrom i n).foldl (fun a j => a.setV (r + j) (F j (a.vcell (r + j)))) a).vcell m =
      if r + i ≤ m ∧ m < r + i + n ∧ m < 255 then F (m - r) (a.vcell m) else a.vcell m := by
  induction n with
  | zero => intro i a m; simp [upFrom]; intros; omega
  | succ n ih =>
    intro i a m
    simp only [upFrom, List.foldl_cons]
    rw [ih]
    by_cases hm : m = r + i
    · subst hm
      by_cases h : r + i < 255
      · have e : r + i - r = i := by omega
        simp [vcell_setV, h, e]
      · simp [vcell_setV, h]
    · simp only [vcell_setV, hm, false_and, if_false]
      by_cases h : r + (i + 1) ≤ m ∧ m < r + (i + 1) + n ∧ m < 255
      · rw [if_pos h, if_pos (by omega)]
      · rw [if_neg h, if_neg (by omega)]
theorem run_rest (F : Nat → Cell 32 → Cell 32) (r : Nat) (l : List Nat) : ∀ a : Agent,
    ∃ v, l.foldl (fun a j => a.setV (r + j) (F j (a.vcell (r + j)))) a = { a with v := v } := by
  induction l with
  | nil => intro a; exact ⟨a.v, rfl⟩
  | cons j t ih =>
    intro a
    obtain ⟨v, hv⟩ := setV_rest a (r + j) (F j (a.vcell (r + j)))
    obtain ⟨w, hw⟩ := ih (a.setV (r + j) (F j (a.vcell (r + j))))
    exact ⟨w, by rw [List.foldl_cons, hw, hv]⟩

theorem putV_rest (a : Agent) (r n x : Nat) : ∃ v, a.putV r n x = { a with v := v } := by
  unfold Agent.putV; split
  · exact ⟨a.v, rfl⟩
  · exact run_rest (fun j _ => { val := BitVec.ofNat 32 (x / 2 ^ (32 * j)) }) r _ a
theorem putX_rest (a : Agent) (r x : Nat) : ∃ v, a.putX r x = { a with x := v } := setX_rest _ _ _
theorem emptyV_rest (a : Agent) (r n : Nat) : ∃ v, a.emptyV r n = { a with v := v } := by
  unfold Agent.emptyV; split
  · exact ⟨a.v, rfl⟩
  · exact run_rest (fun _ c => { c with full := false, mark := none, poison := false }) r _ a
theorem emptyX_rest (a : Agent) (r : Nat) : ∃ v, a.emptyX r = { a with x := v } := setX_rest _ _ _

theorem wroteV_putV (a : Agent) (r n x : Nat) : WroteV a (a.putV r n x) r n x := by
  intro m
  unfold Agent.putV
  by_cases hr : r = 255
  · simp [hr]
  · have h := vcell_run (fun j _ => { val := BitVec.ofNat 32 (x / 2 ^ (32 * j)) }) r n 0 a m
    simp only [beq_iff_eq, hr, if_false, ne_eq, not_false_eq_true, true_and]
    rw [h]; rfl
theorem wroteX_putX (a : Agent) (r x : Nat) : WroteX a (a.putX r x) r x := fun m => by rw [Agent.putX, xcell_setX]
theorem emptiedV_emptyV (a : Agent) (r n : Nat) : EmptiedV a (a.emptyV r n) r n := by
  intro m
  unfold Agent.emptyV
  by_cases hr : r = 255
  · simp [hr]
  · have h := vcell_run (fun _ c => { c with full := false, mark := none, poison := false }) r n 0 a m
    simp only [beq_iff_eq, hr, if_false, ne_eq, not_false_eq_true, true_and]
    rw [h]; simp
theorem emptiedX_emptyX (a : Agent) (r : Nat) : EmptiedX a (a.emptyX r) r := fun m => by
  rw [Agent.emptyX, xcell_setX]
  by_cases h : m = r ∧ r ≠ 0 ∧ r < 32
  · rw [if_pos h, if_pos h, h.1]
  · rw [if_neg h, if_neg h]

/-! ### Predicates -/

theorem getLsbD_setBit7 (w : BitVec 7) (n m : Nat) (b : Bool) (hn : n < 7) : (setBit7 w n b).getLsbD m = if m = n then b else w.getLsbD m := by
  by_cases hm : m < 7
  · cases b <;> interval_cases n <;> interval_cases m <;> simp [setBit7]
  · have h1 : w.getLsbD m = false := BitVec.getLsbD_of_ge w m (by omega)
    have h2 : (setBit7 w n b).getLsbD m = false := BitVec.getLsbD_of_ge _ m (by omega)
    rw [h1, h2, if_neg (by omega)]
theorem wroteP_setP (a : Agent) (n : Nat) (r : Bool) : WroteP a (a.setP n r) n r := by
  intro m
  unfold Agent.setP
  by_cases hn : n ≥ 7
  · simp [hn, show ¬ n < 7 by omega]
  · have hn' : n < 7 := by omega
    simp only [hn, if_false, Agent.pval, Agent.pready, getLsbD_setBit7 _ _ _ _ hn', hn', and_true]
    by_cases hm : m = n
    · subst hm; simp [show m ≠ 7 by omega]
    · simp [hm]
theorem emptiedP_emptyP (a : Agent) (n : Nat) : EmptiedP a (a.emptyP n) n := by
  intro m
  unfold Agent.emptyP
  by_cases hn : n ≥ 7
  · simp [hn, show ¬ n < 7 by omega]
  · have hn' : n < 7 := by omega
    simp only [hn, if_false, Agent.pval, Agent.pready, getLsbD_setBit7 _ _ _ _ hn', hn', and_true]
    by_cases hm : m = n
    · subst hm; simp [show m ≠ 7 by omega]
    · simp [hm]
theorem setP_rest (a : Agent) (n : Nat) (r : Bool) : ∃ p q t, a.setP n r = { a with preds := p, pfull := q, ppoison := t } := by
  unfold Agent.setP; split
  · exact ⟨a.preds, a.pfull, a.ppoison, rfl⟩
  · exact ⟨_, _, _, rfl⟩
theorem emptyP_rest (a : Agent) (n : Nat) : ∃ q t, a.emptyP n = { a with pfull := q, ppoison := t } := by
  unfold Agent.emptyP; split
  · exact ⟨a.pfull, a.ppoison, rfl⟩
  · exact ⟨_, _, rfl⟩

/-! ### Destinations -/

theorem putTy_rest (a : Agent) (ctl : Bool) (r t x : Nat) : ∃ v y, a.putTy ctl r t x = { a with v := v, x := y } := by
  unfold Agent.putTy; split
  · obtain ⟨y, h⟩ := putX_rest a r (if tyBits t == 64 then x else if tySigned t then sext 32 64 x else x % 2 ^ 32)
    exact ⟨a.v, y, h⟩
  · obtain ⟨v, h⟩ := putV_rest a r (tyRegs t) x
    exact ⟨v, a.x, h⟩
theorem sameX_putV (a : Agent) (r n x : Nat) : SameX a (a.putV r n x) := by
  obtain ⟨v, h⟩ := putV_rest a r n x; intro m; rw [h]; rfl
theorem sameV_putX (a : Agent) (r x : Nat) : SameV a (a.putX r x) := by
  obtain ⟨v, h⟩ := putX_rest a r x; intro m; rw [h]; rfl
theorem wroteTy_putTy (a : Agent) (d t x : Nat) : WroteTy a (a.putTy (a.kind == .task) d t x) d t x := by
  unfold WroteTy Agent.putTy
  by_cases h : a.kind = .task
  · simp only [h, if_true, beq_self_eq_true, beq_iff_eq]
    exact ⟨wroteX_putX _ _ _, sameV_putX _ _ _⟩
  · simp only [h, if_false, beq_iff_eq]
    exact ⟨wroteV_putV _ _ _ _, sameX_putV _ _ _ _⟩
theorem emptiedD_emptyDst (a : Agent) (d : Dst) : EmptiedD a (a.emptyDst d) d := by
  cases d with
  | v r n =>
    obtain ⟨v, h⟩ := emptyV_rest a r n
    exact ⟨emptiedV_emptyV a r n, fun m => by change (a.emptyV r n).xcell m = _; rw [h]; rfl, by change SameP a (a.emptyV r n); rw [h]; exact ⟨rfl, rfl, rfl⟩⟩
  | x r =>
    obtain ⟨v, h⟩ := emptyX_rest a r
    exact ⟨emptiedX_emptyX a r, fun m => by change (a.emptyX r).vcell m = _; rw [h]; rfl, by change SameP a (a.emptyX r); rw [h]; exact ⟨rfl, rfl, rfl⟩⟩
  | p r =>
    obtain ⟨q, t, h⟩ := emptyP_rest a r
    exact ⟨emptiedP_emptyP a r, fun m => by change (a.emptyP r).vcell m = _; rw [h]; rfl, fun m => by change (a.emptyP r).xcell m = _; rw [h]; rfl⟩
  | tab n => exact ⟨fun _ => rfl, fun _ => rfl, rfl, rfl, rfl⟩
  | none => exact ⟨fun _ => rfl, fun _ => rfl, rfl, rfl, rfl⟩
theorem emptyDst_rest (a : Agent) (d : Dst) : ∃ v y q t, a.emptyDst d = { a with v := v, x := y, pfull := q, ppoison := t } := by
  cases d with
  | v r n => obtain ⟨v, h⟩ := emptyV_rest a r n; exact ⟨v, a.x, _, _, h⟩
  | x r => obtain ⟨y, h⟩ := emptyX_rest a r; exact ⟨a.v, y, _, _, h⟩
  | p r => obtain ⟨q, t, h⟩ := emptyP_rest a r; exact ⟨a.v, a.x, q, t, h⟩
  | tab n => exact ⟨a.v, a.x, _, _, rfl⟩
  | none => exact ⟨a.v, a.x, _, _, rfl⟩
theorem wroteD_deliver (a : Agent) (d : Dst) (x : Nat) : WroteD a (a.deliver d x) d x := by
  cases d with
  | v r n =>
    obtain ⟨v, h⟩ := putV_rest a r n x
    exact ⟨wroteV_putV a r n x, sameX_putV a r n x, by change SameP a (a.putV r n x); rw [h]; exact ⟨rfl, rfl, rfl⟩⟩
  | x r =>
    obtain ⟨y, h⟩ := putX_rest a r x
    exact ⟨wroteX_putX a r x, sameV_putX a r x, by change SameP a (a.putX r x); rw [h]; exact ⟨rfl, rfl, rfl⟩⟩
  | p r =>
    obtain ⟨p, q, t, h⟩ := setP_rest a r (x % 2 == 1)
    exact ⟨wroteP_setP a r _, fun m => by change (a.setP r _).vcell m = _; rw [h]; rfl, fun m => by change (a.setP r _).xcell m = _; rw [h]; rfl⟩
  | tab n => exact ⟨fun _ => rfl, fun _ => rfl, rfl, rfl, rfl⟩
  | none => exact ⟨fun _ => rfl, fun _ => rfl, rfl, rfl, rfl⟩
theorem deliver_rest (a : Agent) (d : Dst) (x : Nat) : ∃ v y p q t, a.deliver d x = { a with v := v, x := y, preds := p, pfull := q, ppoison := t } := by
  cases d with
  | v r n => obtain ⟨v, h⟩ := putV_rest a r n x; exact ⟨v, a.x, _, _, _, h⟩
  | x r => obtain ⟨y, h⟩ := putX_rest a r x; exact ⟨a.v, y, _, _, _, h⟩
  | p r => obtain ⟨p, q, t, h⟩ := setP_rest a r (x % 2 == 1); exact ⟨a.v, a.x, p, q, t, h⟩
  | tab n => exact ⟨a.v, a.x, _, _, _, rfl⟩
  | none => exact ⟨a.v, a.x, _, _, _, rfl⟩

/-! ### What a party holds, read through its core -/

section
variable {a b c : Agent} (h : b.core = c.core)
include h
theorem core_vcell (m : Nat) : b.vcell m = c.vcell m := congrArg (·.vcell m) h
theorem core_xcell (m : Nat) : b.xcell m = c.xcell m := congrArg (·.xcell m) h
theorem core_pval (m : Nat) : b.pval m = c.pval m := congrArg (·.pval m) h
theorem core_pready (m : Nat) : b.pready m = c.pready m := congrArg (·.pready m) h
theorem core_preds : b.preds = c.preds := by
  have e : b.core.preds = c.core.preds := by rw [h]
  exact e
theorem core_pfull : b.pfull = c.pfull := by
  have e : b.core.pfull = c.core.pfull := by rw [h]
  exact e
theorem core_ppoison : b.ppoison = c.ppoison := by
  have e : b.core.ppoison = c.core.ppoison := by rw [h]
  exact e
theorem core_fl : b.fl = c.fl := by
  have e : b.core.fl = c.core.fl := by rw [h]
  exact e
theorem core_wroteV {r n x : Nat} (g : WroteV a c r n x) : WroteV a b r n x := fun m => (core_vcell h m).trans (g m)
theorem core_wroteX {r x : Nat} (g : WroteX a c r x) : WroteX a b r x := fun m => (core_xcell h m).trans (g m)
theorem core_sameV (g : SameV a c) : SameV a b := fun m => (core_vcell h m).trans (g m)
theorem core_sameX (g : SameX a c) : SameX a b := fun m => (core_xcell h m).trans (g m)
theorem core_wroteP {r : Nat} {x : Bool} (g : WroteP a c r x) : WroteP a b r x :=
  fun m => ⟨(core_pval h m).trans (g m).1, (core_pready h m).trans (g m).2.1, (congrArg (·.getLsbD m) (core_ppoison h)).trans (g m).2.2⟩
theorem core_emptiedP {r : Nat} (g : EmptiedP a c r) : EmptiedP a b r :=
  fun m => ⟨(core_pval h m).trans (g m).1, (core_pready h m).trans (g m).2.1, (congrArg (·.getLsbD m) (core_ppoison h)).trans (g m).2.2⟩
theorem core_sameP (g : SameP a c) : SameP a b := ⟨(core_preds h).trans g.1, (core_pfull h).trans g.2.1, (core_ppoison h).trans g.2.2⟩
theorem core_wroteTy {d t x : Nat} (g : WroteTy a c d t x) : WroteTy a b d t x := by
  unfold WroteTy at *; split
  · rename_i hk; rw [if_pos hk] at g; exact ⟨core_wroteX h g.1, core_sameV h g.2⟩
  · rename_i hk; rw [if_neg hk] at g; exact ⟨core_wroteV h g.1, core_sameX h g.2⟩
theorem core_emptiedV {r n : Nat} (g : EmptiedV a c r n) : EmptiedV a b r n := fun m => (core_vcell h m).trans (g m)
theorem core_emptiedX {r : Nat} (g : EmptiedX a c r) : EmptiedX a b r := fun m => (core_xcell h m).trans (g m)
theorem core_emptiedD {d : Dst} (g : EmptiedD a c d) : EmptiedD a b d := by
  cases d with
  | v r n => exact ⟨core_emptiedV h g.1, core_sameX h g.2.1, core_sameP h g.2.2⟩
  | x r => exact ⟨core_emptiedX h g.1, core_sameV h g.2.1, core_sameP h g.2.2⟩
  | p r => exact ⟨core_emptiedP h g.1, core_sameV h g.2.1, core_sameX h g.2.2⟩
  | tab n => exact ⟨core_sameV h g.1, core_sameX h g.2.1, core_sameP h g.2.2⟩
  | none => exact ⟨core_sameV h g.1, core_sameX h g.2.1, core_sameP h g.2.2⟩
theorem core_wroteD {d : Dst} {x : Nat} (g : WroteD a c d x) : WroteD a b d x := by
  cases d with
  | v r n => exact ⟨core_wroteV h g.1, core_sameX h g.2.1, core_sameP h g.2.2⟩
  | x r => exact ⟨core_wroteX h g.1, core_sameV h g.2.1, core_sameP h g.2.2⟩
  | p r => exact ⟨core_wroteP h g.1, core_sameV h g.2.1, core_sameX h g.2.2⟩
  | tab n => exact ⟨core_sameV h g.1, core_sameX h g.2.1, core_sameP h g.2.2⟩
  | none => exact ⟨core_sameV h g.1, core_sameX h g.2.1, core_sameP h g.2.2⟩
theorem core_sameRest (g : SameRest a c) : SameRest a b := by
  unfold SameRest at *; rw [h]; exact g
end

/-! ### The common shapes of completion -/

/-- A result in DST with flags. -/
theorem writes_of {i : FormL → Instr} {o : Op} {t x : Ctx' → Nat} {fl : Ctx' → BitVec 5} (body : Ctx' → Go)
    (hi : ∀ f s, exec (i f) s = issueL o f body s)
    (hb : ∀ c, body c = .next (c.upd fun a => { (a.putTy (c.a.kind == .task) c.f.dst.toNat (t c) (x c)) with fl := a.fl ||| fl c })) :
    Writes i o t x fl := by
  refine doesL body hi fun c ha _ => ⟨_, _, hb c, agent?_putAgent_same _ _ _, ?_, Only.putAgent _ _ _, Others.putAgent _ _ _, fun u b _ h => ?_⟩
  · obtain ⟨v, y, e⟩ := putTy_rest c.a (c.a.kind == .task) c.f.dst.toNat (t c) (x c); dsimp only; rw [e]
  · obtain ⟨v, y, e⟩ := putTy_rest c.a (c.a.kind == .task) c.f.dst.toNat (t c) (x c)
    refine ⟨core_wroteTy h ?_, core_sameP h ?_, (core_fl h).trans rfl, core_sameRest h ?_⟩
    · exact wroteTy_putTy c.a c.f.dst.toNat (t c) (x c)
    · dsimp only; rw [e]; exact ⟨rfl, rfl, rfl⟩
    · dsimp only; rw [e]; rfl
theorem writesS_of {i : FormS → Instr} {o : Op} {t x : Ctx' → Nat} {fl : Ctx' → BitVec 5} (body : Ctx' → Go)
    (hi : ∀ f s, exec (i f) s = issueS o f body s)
    (hb : ∀ c, body c = .next (c.upd fun a => { (a.putTy (c.a.kind == .task) c.f.dst.toNat (t c) (x c)) with fl := a.fl ||| fl c })) :
    WritesS i o t x fl := by
  refine doesS body hi fun c ha _ => ⟨_, _, hb c, agent?_putAgent_same _ _ _, ?_, Only.putAgent _ _ _, Others.putAgent _ _ _, fun u b _ h => ?_⟩
  · obtain ⟨v, y, e⟩ := putTy_rest c.a (c.a.kind == .task) c.f.dst.toNat (t c) (x c); dsimp only; rw [e]
  · obtain ⟨v, y, e⟩ := putTy_rest c.a (c.a.kind == .task) c.f.dst.toNat (t c) (x c)
    refine ⟨core_wroteTy h ?_, core_sameP h ?_, (core_fl h).trans rfl, core_sameRest h ?_⟩
    · exact wroteTy_putTy c.a c.f.dst.toNat (t c) (x c)
    · dsimp only; rw [e]; exact ⟨rfl, rfl, rfl⟩
    · dsimp only; rw [e]; rfl
/-- Without flags, FL stays. -/
theorem put_flags (c : Ctx') (t x : Nat) :
    c.put t x = c.upd fun a => { (a.putTy (c.a.kind == .task) c.f.dst.toNat t x) with fl := a.fl ||| 0 } := by
  obtain ⟨v, y, e⟩ := putTy_rest c.a (c.a.kind == .task) c.f.dst.toNat t x
  unfold Ctx'.put Ctx'.upd Ctx'.ctl
  dsimp only; rw [e]; simp

/-- A predicate result. -/
theorem decides_of {i : FormL → Instr} {o : Op} {r : Ctx' → Bool} {fl : Ctx' → BitVec 5} (body : Ctx' → Go)
    (hi : ∀ f s, exec (i f) s = issueL o f body s)
    (hb : ∀ c, body c = .next (c.upd fun a => { (a.setP c.f.dst.toNat (r c)) with fl := a.fl ||| fl c })) : Decides i o r fl := by
  refine doesL body hi fun c ha _ => ⟨_, _, hb c, agent?_putAgent_same _ _ _, ?_, Only.putAgent _ _ _, Others.putAgent _ _ _, fun u b _ h => ?_⟩
  · obtain ⟨p, q, t, e⟩ := setP_rest c.a c.f.dst.toNat (r c); dsimp only; rw [e]
  · obtain ⟨p, q, t, e⟩ := setP_rest c.a c.f.dst.toNat (r c)
    refine ⟨core_wroteP h ?_, core_sameV h ?_, core_sameX h ?_, (core_fl h).trans rfl, core_sameRest h ?_⟩
    · exact wroteP_setP c.a c.f.dst.toNat (r c)
    · dsimp only; rw [e]; exact fun _ => rfl
    · dsimp only; rw [e]; exact fun _ => rfl
    · dsimp only; rw [e]; rfl

/-- A producer: everything that `produce` does. -/
theorem produce_spec (s : State) (k : Nat) (a : Agent) (d : Dst) (x : Nat) (fl : BitVec 5) :
    agent? (produce s k a d x fl) k = some (a.emptyDst d) ∧ Only [.ids, .prods] s (produce s k a d x fl) ∧ Others [k] s (produce s k a d x fl) ∧
    (produce s k a d x fl).prods = s.prods ++ [{ id := s.nextId, key := k, uid := a.uid, dst := d, value := x, flags := fl }] := by
  refine ⟨?_, ?_, ?_, rfl⟩
  · simp [produce, freshId, agent?, putAgent]
  · intro p hp; cases p <;> simp_all [produce, freshId, Same, group?, ctx?]
  · exact Others.of_eq fun j hj => by simp [produce, freshId, agent?, putAgent, fget?_fput_ne _ _ (show j ≠ k by simpa using hj)]
theorem produces_of {i : FormL → Instr} {o : Op} {d : Ctx' → Dst} {x : Ctx' → Nat} {fl : Ctx' → BitVec 5} (body : Ctx' → Go)
    (hi : ∀ f s, exec (i f) s = issueL o f body s) (hb : ∀ c, body c = .next (produce c.s c.k c.a (d c) (x c) (fl c))) : Produces i o d x fl := by
  refine doesL body hi fun c ha _ => ?_
  obtain ⟨h1, h2, h3, h4⟩ := produce_spec c.s c.k c.a (d c) (x c) (fl c)
  obtain ⟨v, y, q, p, e⟩ := emptyDst_rest c.a (d c)
  exact ⟨_, _, hb c, h1, by rw [e], h2, h3, fun u b w h => ⟨Eq.trans (w .prods (by simp)) h4, core_emptiedD h (emptiedD_emptyDst _ _),
    (core_fl h).trans (by rw [e]), core_sameRest h (by rw [e]; rfl)⟩⟩

/-- Floating-point results. -/
theorem floats_of {i : FormL → Instr} {o : Op} {t : Ctx' → Nat} {r : Ctx' → Nat × BitVec 5} (body : Ctx' → Go)
    (hi : ∀ f s, exec (i f) s = issueL o f body s) (hb : ∀ c, body c = .next (c.putF (t c) (r c))) : Floats i o t r := by
  refine doesL body hi fun c ha _ => ⟨_, _, hb c, agent?_putAgent_same _ _ _, ?_, Only.putAgent _ _ _, Others.putAgent _ _ _, fun u b _ h => ?_⟩
  · obtain ⟨v, e⟩ := putV_rest c.a c.f.dst.toNat (tyRegs (t c)) (r c).1; dsimp only; rw [e]
  · obtain ⟨v, e⟩ := putV_rest c.a c.f.dst.toNat (tyRegs (t c)) (r c).1
    refine ⟨core_wroteV h ?_, core_sameX h ?_, core_sameP h ?_, (core_fl h).trans rfl, core_sameRest h ?_⟩
    · exact wroteV_putV c.a c.f.dst.toNat _ _
    · exact sameX_putV c.a _ _ _
    · dsimp only; rw [e]; exact ⟨rfl, rfl, rfl⟩
    · dsimp only; rw [e]; rfl
theorem floatsS_of {i : FormS → Instr} {o : Op} {t : Ctx' → Nat} {r : Ctx' → Nat × BitVec 5} (body : Ctx' → Go)
    (hi : ∀ f s, exec (i f) s = issueS o f body s) (hb : ∀ c, body c = .next (c.putF (t c) (r c))) : FloatsS i o t r := by
  refine doesS body hi fun c ha _ => ⟨_, _, hb c, agent?_putAgent_same _ _ _, ?_, Only.putAgent _ _ _, Others.putAgent _ _ _, fun u b _ h => ?_⟩
  · obtain ⟨v, e⟩ := putV_rest c.a c.f.dst.toNat (tyRegs (t c)) (r c).1; dsimp only; rw [e]
  · obtain ⟨v, e⟩ := putV_rest c.a c.f.dst.toNat (tyRegs (t c)) (r c).1
    refine ⟨core_wroteV h ?_, core_sameX h ?_, core_sameP h ?_, (core_fl h).trans rfl, core_sameRest h ?_⟩
    · exact wroteV_putV c.a c.f.dst.toNat _ _
    · exact sameX_putV c.a _ _ _
    · dsimp only; rw [e]; exact ⟨rfl, rfl, rfl⟩
    · dsimp only; rw [e]; rfl
theorem producesS_of {i : FormS → Instr} {o : Op} {d : Ctx' → Dst} {x : Ctx' → Nat} {fl : Ctx' → BitVec 5} (body : Ctx' → Go)
    (hi : ∀ f s, exec (i f) s = issueS o f body s) (hb : ∀ c, body c = .next (produce c.s c.k c.a (d c) (x c) (fl c))) : ProducesS i o d x fl := by
  refine doesS body hi fun c ha _ => ?_
  obtain ⟨h1, h2, h3, h4⟩ := produce_spec c.s c.k c.a (d c) (x c) (fl c)
  obtain ⟨v, y, q, p, e⟩ := emptyDst_rest c.a (d c)
  exact ⟨_, _, hb c, h1, by rw [e], h2, h3, fun u b w h => ⟨Eq.trans (w .prods (by simp)) h4, core_emptiedD h (emptiedD_emptyDst _ _),
    (core_fl h).trans (by rw [e]), core_sameRest h (by rw [e]; rfl)⟩⟩

end Sys2Proof.Machine
end

