-- ==== Sys2Proof/Tests/Slice0.lean ====
section
/-!
SUPPORT. Sys2Proof/Tests/Slice0.lean: the checks of WellFormed, words written out from the spec's encodings,
small steps from the spec's worked examples, and, for every statement with hypotheses, states and operands that meet them (hyp_<statement>…).
-/
set_option Elab.async false
namespace Sys2Proof.Machine.Tests
open Sys2Proof Sys2Proof.Machine

/-! ### WellFormed refuses each ill-formed term -/

/-- A form-L instruction with every field 0 and guard 7. -/
def plain : FormL := { dst := 0, a := 0, g := 7, gn := false, ba := false, b := .reg 0 false, c := 0, bc := false, mod := 0 }
def plainS : FormS := { dst := 0, a := 0, b := 0, ba := false, bb := false, g := 7 }

theorem test_wf_accepts : (Instr.iadd plain).wellFormed .vector = true := by decide
theorem test_wf_map_vector : (Instr.tzero { plain with dst := 0x30 }).wellFormed .vector = false := by decide
theorem test_wf_map_control : (Instr.fadd { plain with mod := 0x4000 }).wellFormed .control = false := by decide
theorem test_wf_no_form_x : (Instr.nop { plain with b := .lit 0 }).wellFormed .vector = false := by decide
theorem test_wf_no_form_l : (Instr.movi plain).wellFormed .vector = false := by decide
theorem test_wf_modifier : (Instr.iadd { plain with mod := 1 }).wellFormed .vector = false := by decide
theorem test_wf_sfu_code : (Instr.rcp { plain with mod := 0x4001 }).wellFormed .vector = false := by decide
theorem test_wf_guard : (Instr.iadd { plain with gn := true }).wellFormed .vector = false := by decide
theorem test_wf_guard_control : (Instr.iadd { plain with g := 0, mod := 0x2000 }).wellFormed .control = false := by decide
theorem test_wf_dst_pair : (Instr.iadd { plain with dst := 3, mod := 0x2000 }).wellFormed .vector = false := by decide
theorem test_wf_a_pair : (Instr.iadd { plain with a := 3, mod := 0x2000 }).wellFormed .vector = false := by decide
theorem test_wf_b_pair : (Instr.iadd { plain with b := .reg 3 false, mod := 0x2000 }).wellFormed .vector = false := by decide
theorem test_wf_c_predicate : (Instr.sel { plain with c := 8 }).wellFormed .vector = false := by decide
theorem test_wf_c_unused : (Instr.iadd { plain with c := 1 }).wellFormed .vector = false := by decide
theorem test_wf_block_bit_a : (Instr.tzero { plain with dst := 0x30, ba := true }).wellFormed .control = false := by decide
theorem test_wf_block_bit_b : (Instr.nop { plain with b := .reg 0 true }).wellFormed .vector = false := by decide
theorem test_wf_block_bit_c : (Instr.iadd { plain with bc := true }).wellFormed .vector = false := by decide
theorem test_wf_mash_shift : (Instr.msCpy { plain with b := .reg 64 false }).wellFormed .vector = false := by decide
theorem test_wf_tfmt_literal : (Instr.tfmt { plain with dst := 0x20, b := .lit 0x10000 }).wellFormed .control = false := by decide
theorem test_wf_s_control_map : (Instr.faddS plainS).wellFormed .control = false := by decide
theorem test_wf_s_guard : (Instr.iaddS { plainS with g := 0 }).wellFormed .control = false := by decide
theorem test_wf_s_register : (Instr.iaddS { plainS with dst := 32 }).wellFormed .control = false := by decide
theorem test_wf_s_pair : (Instr.daddS { plainS with a := 1 }).wellFormed .vector = false := by decide
theorem test_wf_s_unused : (Instr.inegS { plainS with b := 1 }).wellFormed .vector = false := by decide
theorem test_wf_s_no_destination : (Instr.retS { plainS with dst := 1 }).wellFormed .vector = false := by decide
theorem test_wf_s_block_bit : (Instr.retS { plainS with ba := true }).wellFormed .vector = false := by decide
theorem test_wf_event : (Instr.packageReset (.ok [])).wellFormed .vector = false := by decide

/-! ### Words written out from R26 to R28 and the opcode maps (R55, R57) -/

/-- Form S: 00 OPC DST A B BA BB GUARD. NOP_S. -/
theorem test_word_nopS : decodeTableWord 32 0b00_0000000_000000_000000_000000_0_0_111 = some (.nopS plainS) := by decide
/-- IADD_S V5, V3, V4 (opcode 0x04). -/
theorem test_word_iaddS : decodeTableWord 32 0b00_0000100_000101_000011_000100_0_0_111 = some (.iaddS { plainS with dst := 5, a := 3, b := 4 }) := by decide
/-- LD_S V8, [V2 + V6] with B blocking (opcode 0x70). -/
theorem test_word_ldS : decodeTableWord 32 0b00_1110000_001000_000010_000110_0_1_111 =
    some (.ldS { plainS with dst := 8, a := 2, b := 6, bb := true }) := by decide
/-- Form L: 01 OPC DST A GUARD GN BA BB, then B C BC MOD. @!P2 IADD.I64 V6, V4, V2. -/
theorem test_word_iadd : decodeTableWord 64 (0b01_00000100_00000110_00000100_010_1_0_0 + 2 ^ 32 * 0b00000010_00000000_0_010_000000000000) =
    some (.iadd { plain with dst := 6, a := 4, g := 2, gn := true, b := .reg 2 false, mod := 0x2000 }) := by decide
/-- Form X: MOVI V3, 0xDEADBEEF (opcode 0x02). -/
theorem test_word_movi : decodeTableWord 96 (0b10_00000010_00000011_00000000_111_0_0_0 + 2 ^ 64 * 0xDEADBEEF) =
    some (.movi { plain with dst := 3, b := .lit 0xDEADBEEF }) := by decide
/-- FFMA.F32 V3, V0, V1, V2 (opcode 0x33, TYPE 4 in MOD[14:12]). -/
theorem test_word_ffma : decodeTableWord 64 (0b01_00110011_00000011_00000000_111_0_0_0 + 2 ^ 32 * 0b00000001_00000010_0_100_000000000000) =
    some (.ffma { plain with dst := 3, b := .reg 1 false, c := 2, mod := 0x4000 }) := by decide
/-- EX2 (opcode 0x48, CODE 3). -/
theorem test_word_ex2 : decodeTableWord 64 (0b01_01001000_00000011_00000000_111_0_0_0 + 2 ^ 32 * 0b00000000_00000000_0_100_000000000011) =
    some (.ex2 { plain with dst := 3, mod := 0x4003 }) := by decide
/-- CAP.SETPC C1, V4 (opcode 0xB3). -/
theorem test_word_capSetpc : decodeTableWord 64 (0b01_10110011_00000000_00000001_111_0_0_0 + 2 ^ 32 * 0b00000100_00000000_0_000000000000000) =
    some (.capSetpc { plain with a := 1, b := .reg 4 false }) := by decide
/-- BAR.SYNC (opcode 0xA0). -/
theorem test_word_barSync : decodeTableWord 64 (0b01_10100000_00000000_00000000_111_0_0_0 + 2 ^ 32 * 0) = some (.barSync plain) := by decide
/-- MS.REL V2 (opcode 0x9F). -/
theorem test_word_msRel : decodeTableWord 64 (0b01_10011111_00000000_00000010_111_0_0_0 + 2 ^ 32 * 0) = some (.msRel { plain with a := 2 }) := by decide
/-- LAUNCH V2 (opcode 0x89). -/
theorem test_word_launch : decodeTableWord 64 (0b01_10001001_00000000_00000010_111_0_0_0 + 2 ^ 32 * 0) = some (.launch { plain with a := 2 }) := by decide
/-- FENCE with scope CLU and order RLX is refused; FENCE.REL.CLU (SCOPE MOD[10:8] = 2, ORDER MOD[7:5] = 3), opcode 0x79. -/
theorem test_word_fence : decodeTableWord 64 (0b01_01111001_00000000_00000000_111_0_0_0 + 2 ^ 32 * 0b00000000_00000000_0_0000_010_011_00000) =
    some (.fence { plain with mod := 0x260 }) := by decide
/-- SHFL mode 1 (opcode 0x59). -/
theorem test_word_shfl : decodeTableWord 64 (0b01_01011001_00000011_00000001_111_0_0_0 + 2 ^ 32 * 0b00000010_11111111_0_000000000000001) =
    some (.shfl { plain with dst := 3, a := 1, b := .reg 2 false, c := 255, mod := 1 }) := by decide
/-- TZERO ACC2 (opcode 0xC3, control core, DST 0x32). -/
theorem test_word_tzero : decodeTableWord 64 (0b01_11000011_00110010_00000000_111_0_0_0 + 2 ^ 32 * 0) = some (.tzero { plain with dst := 0x32 }) := by decide
/-- BRA with literal −8 (opcode 0x60). -/
theorem test_word_bra : decodeTableWord 96 (0b10_01100000_00000000_00000000_111_0_0_0 + 2 ^ 64 * 0xFFFFFFF8) =
    some (.bra { plain with b := .lit 0xFFFFFFF8 }) := by decide
/-- A reserved opcode (0x25) and a header are no instruction. -/
theorem test_word_reserved : decodeTableWord 64 (0b01_00100101_00000000_00000000_111_0_0_0) = none := by decide
theorem test_word_header : decodeTableWord 64 (0b11_0000000001_00000000_00000000_0000 + 2 ^ 32 * 0) = none := by decide

/-! ### Witnesses: for every statement with hypotheses, states and operands that meet them -/

/-- A party passes every check of an operation, as a test that runs. -/
def clearB (o : Op) (f : FormL) (s : State) (k : Nat) (a : Agent) : Bool :=
  s.issuing == [k] && agent? s k == some a && !illegalHere s a o f.mod &&
  (a.kind == .task || (!beyond a.nregs (o.shape .vector f.mod).a f.a.toNat && (f.b.isLit || !beyond a.nregs (o.shape .vector f.mod).b (bNum f)) &&
    !beyond a.nregs (o.shape .vector f.mod).c f.c.toNat && !beyond a.nregs (o.shape .vector f.mod).d f.dst.toNat)) &&
  a.pready f.g.toNat && (f.g.toNat == 7 || !a.ppoison.getLsbD f.g.toNat) && a.pval f.g.toNat == !f.gn && (dueFreeze a o f.mod).isNone && askAll a (o.shape (coreOfAgent a) f.mod) o f == .ok &&
  (a.caps.find? fun (_, c) => c.valid && c.budget == 0).isNone

theorem clear_of {o : Op} {f : FormL} {s : State} {k : Nat} {a : Agent} (h : clearB o f s k a = true) : Clear o f s k a := by
  simp only [clearB, Bool.and_eq_true, beq_iff_eq, Bool.or_eq_true, Bool.not_eq_true', Option.isNone_iff_eq_none] at h
  obtain ⟨⟨⟨⟨⟨⟨⟨⟨⟨h1, h2⟩, h3⟩, h4⟩, h5⟩, hp⟩, h6⟩, h7⟩, h8⟩, h9⟩ := h
  exact ⟨h1, h2, h3, h4.imp id fun ⟨⟨⟨x, y⟩, z⟩, w⟩ => ⟨x, y, z, w⟩, h5, hp, h6, h7, h8, h9⟩
theorem clear_all {l : List Op} {f : FormL} {s : State} {k : Nat} {a : Agent} (h : l.all (clearB · f s k a) = true) : ∀ o ∈ l, Clear o f s k a :=
  fun o m => clear_of (List.all_eq_true.mp h o m)
theorem clearS_all {l : List Op} {f : FormS} {s : State} {k : Nat} {a : Agent} (h : l.all (fun o => clearB o (f.expand (issuingCore s) o) s k a) = true) :
    ∀ o ∈ l, ClearS o f s k a :=
  fun o m => clear_of (List.all_eq_true.mp h o m)

/-- Some party passes the checks of an operation and meets `H`; the same in form S. -/
def Met (o : Op) (H : Ctx' → Prop) : Prop := ∃ f s k a, Clear o f s k a ∧ H (ctxOf o f (lenOf f) s k a)
def MetS (o : Op) (H : Ctx' → Prop) : Prop := ∃ f s k a, ClearS o f s k a ∧ H (ctxOfS o f s k a)
theorem met_of {o : Op} {H : Ctx' → Prop} (f : FormL) (s : State) (k : Nat) (a : Agent) (h : clearB o f s k a = true)
    (p : H (ctxOf o f (lenOf f) s k a)) : Met o H := ⟨f, s, k, a, clear_of h, p⟩
theorem metS_of {o : Op} {H : Ctx' → Prop} (f : FormS) (s : State) (k : Nat) (a : Agent) (h : clearB o (f.expand (issuingCore s) o) s k a = true)
    (p : H (ctxOfS o f s k a)) : MetS o H := ⟨f, s, k, a, clear_of h, p⟩
/-- An alternative that came out right, with what holds of its value. -/
def got {α β : Type} (x : α ⊕ β) (p : β → Bool) : Bool := match x with | .inr y => p y | .inl _ => false
theorem got_ex {α β : Type} {x : α ⊕ β} {p : β → Bool} (h : got x p = true) : ∃ y, x = .inr y ∧ p y = true := by
  cases x with
  | inl _ => simp [got] at h
  | inr y => exact ⟨y, rfl, h⟩

/-- A party as it stood, but for the place in its program order up to which its accesses have been performed. -/
def keeps (s : State) (k : Nat) (a : Agent) : Bool := (agent? s k).any fun b => decide (b = { a with top := b.top })
theorem keeps_ex {s : State} {k : Nat} {a : Agent} (h : keeps s k a = true) : ∃ n, agent? s k = some { a with top := n } := by
  cases e : agent? s k with
  | none => simp [keeps, e] at h
  | some b => simp only [keeps, e, Option.any_some, decide_eq_true_eq] at h; exact ⟨b.top, congrArg some h⟩
/-- A transfer lands. -/
def landsB (s : State) (p : Place) (asid t : Nat) : Bool := t % 8 == 0 && (match fetchWord s p asid t with | .word w _ => isHeader w | _ => true)
theorem lands_of {s : State} {p : Place} {asid t : Nat} (h : landsB s p asid t = true) : ∃ u, Lands s p asid t u := by
  simp only [landsB, Bool.and_eq_true, beq_iff_eq] at h
  obtain ⟨h0, h⟩ := h
  cases e : fetchWord s p asid t with
  | word w u => exact ⟨u, h0, .inr ⟨w, e, by simpa only [e] using h⟩⟩
  | _ => exact ⟨s, h0, .inl ⟨rfl, fun w v x => by cases e.symm.trans x⟩⟩

/-- The state of the witnesses: context 1 RUNNING on die 0, which is ON, its kernel of 32 threads with one list, a scratchpad slice and one
cluster set, a thread in lane 0 and one page of 4 GiB at stack 0 that allows everything and is in the TLB of home 0. -/
def tx : Ctx := { desc := 1 + 2 ^ 12 + 2 ^ 16 + 2 ^ 24 + 2 ^ 32 + 7 * 2 ^ 44 + 4 * 2 ^ 49 + 12 * 2 ^ 54 + 4 * 2 ^ 58 + 0x4000 * 2 ^ 128 + 0x10000 * 2 ^ 192 + 0x100000 * 2 ^ 256 +
                          2 ^ 96 + 2 ^ 576, state := .running }
def tker : Kernel := { asid := 1, ident := 1, q := qkey 1 0, entryNo := 0, state := .running, next := 1
                       hdr := 0x1000 + 7 * 2 ^ 64 + 2 ^ 69 + 2 ^ 82 + 2 ^ 85 + 2 ^ 96 + 2 ^ 99 + 2 ^ 102 + 32 * 2 ^ 128 + 2 ^ 352 + 4 * 2 ^ 364 }
def tk : Nat := kkey 1 1
def tg : Nat := gkey tk 0
def tgrp : Group := { kernel := tk, index := 0, core := 0, warp := 0, cset := tg }
def tcs : CSet := { kernel := tk, index := 0, cluster := 0, base := 0, size := 65536, slot := 0, live := 1 }
def th : Agent := { kind := .thread, uid := 1, asid := 1, tasid := 1, kernel := tk, group := tg, nregs := 64, pc := 0x1008, entry := .inside, rstk := 1024
                    blk := some { head := 0x1000, stop := 0x2000, conv := true } }
def tleaf : Nat := 2 ^ 63 + 2 ^ 62 + 0xF980
def tb : Base := { tlb := [{ asid := 1, set := 0, base := 0, size := 2 ^ 32, leaf := tleaf, at_ := 0x9000 }] }
def w : State := { State.reset with
  issuing := [0], nextUid := 9, agents := [(0, th)], kernels := [(tk, tker)], groups := [(tg, tgrp)], csets := [(tg, tcs)], ctxs := [(1, tx)], bases := [(0, tb)], dies := [(0, { pstate := 1 })] }
/-- That state with a handler thread of the context in pool slot 2016, and with a task on cluster 0's control core; each issues alone. -/
def hd : Agent := { kind := .handler, uid := 2, asid := 1, tasid := 1, nregs := 64, pc := 0x1008, entry := .inside, blk := some { head := 0x1000, stop := 0x2000, conv := false } }
def wh : State := { w with issuing := [2016], agents := [(0, th), (2016, hd)] }
def tq : Queue := { asid := 1, qid := 0x20, recVa := 0x20000, ring := 0x21000, logn := 4, state := .active, pushed := 1, cset := tg }
def tt : Agent := { kind := .task, uid := 3, asid := 1, tasid := 1, nregs := 32, pc := 0x1008, entry := .inside, queue := taskQkey tg
                    blk := some { head := 0x1000, stop := 0x2000, conv := false } }
def wt : State := { w with issuing := [taskBase], agents := [(0, th), (taskBase, tt)], queues := [(taskQkey tg, tq)] }

/-! ### Words and small steps from the spec's worked examples -/

/-- The encoded lines 9, 10 and 11 of the quantise example (spec/03, "The running example"): MOVI V6, QNT V5 and ST. -/
theorem test_word_example9 : decodeTableWord 96 (0x80818038 + 2 ^ 64 * 0x7F7F7F7F) = some (.movi { plain with dst := 6, b := .lit 0x7F7F7F7F }) := by decide
theorem test_word_example10 : decodeTableWord 96 (0x9101413A + 2 ^ 32 * 0x0006C000 + 2 ^ 64 * 0x00043074) =
    some (.qnt { plain with dst := 5, a := 4, ba := true, b := .lit 0x00043074, c := 6, bc := true, mod := 0x4000 }) := by decide
theorem test_word_example11 : decodeTableWord 96 (0x9C403FFA + 2 ^ 32 * 0x00058000 + 2 ^ 64 * 0x0010000C) =
    some (.st { plain with a := 255, ba := true, b := .lit 0x0010000C, c := 5, bc := true }) := by decide

/-- A thread with some registers set; what a register of it holds after an instruction. -/
def vals (l : List (Nat × Word)) : Agent := { th with v := l.map fun p => (p.1, { val := p.2 }) }
def reads (x : Out) (r : Nat) (v : Nat) : Bool := match x with | .next t => (agent? t 0).any fun a => a.vval r 1 == v | _ => false
/-- The quantise example's line 10: 3.0 at scale 1 becomes the NF8 code 0x44. -/
theorem test_qnt : reads (exec (.qnt { plain with dst := 5, a := 4, b := .lit 0x00043074, c := 6, mod := 0x4000 })
    (putAgent w 0 (vals [(4, 0x40400000), (6, 0x7F7F7F7F)]))) 5 0x44 = true := by decide +kernel
/-- R133's example: the funnel shift of V1:V0 by 30. -/
theorem test_shf : reads (exec (.shf { plain with dst := 5, b := .lit 30, c := 1, mod := 0x1000 }) (putAgent w 0 (vals [(0, 0xC0000000), (1, 5)]))) 5 0x17 = true := by
  decide +kernel
/-- The field of 6 bits that UNPK takes from it. -/
theorem test_unpk : reads (exec (.unpk { plain with dst := 6, a := 5, b := .lit 0, mod := 2 }) (putAgent w 0 (vals [(5, 0x17)]))) 6 0x17 = true := by decide +kernel
/-- R138's example: with SA byte 2 of V2 is −1, without it 255. -/
def dp : Agent := vals [(2, 0x01FF0203), (3, 0x01020304), (4, 100)]
theorem test_idp4_signed : reads (exec (.idp4 { plain with dst := 6, a := 2, b := .reg 3 false, c := 4, mod := 1 }) (putAgent w 0 dp)) 6 117 = true := by decide +kernel
theorem test_idp4_unsigned : reads (exec (.idp4 { plain with dst := 6, a := 2, b := .reg 3 false, c := 4 }) (putAgent w 0 dp)) 6 629 = true := by decide +kernel
/-- R23's example: the thread in slot 5 of vector core 2 of cluster 1 of die 0, private offset 0x10, with P = 4 KiB. -/
def kpriv : Kernel := { tker with hdr := tker.hdr + 3 * 2 ^ 72 }
theorem test_private : privVa { w with kernels := [(tk, kpriv)] } ((1 * 4 + 2) * 2048 + 5) th 0x10 = tx.privb + 0x03005010 := by decide +kernel
/-- R176's example: six groups of two slices of 64 KiB each; group 5's offset 0x40 through the window, and the slice of a group that does not
exist. -/
def six : State :=
  { w with kernels := [(tk, { tker with hdr := tker.hdr + 2 ^ 69 + 2 ^ 85 + 2 ^ 99 + 2 ^ 102 + 6 * 2 ^ 160 })], csets := [(tg, { tcs with size := 2 * 131072 })] }
theorem test_window : scratchByte six { tcs with size := 2 * 131072 } none 0x80120040 = some (sramLoc 1 0x20040) := by decide +kernel
theorem test_window_none : scratchByte six { tcs with size := 2 * 131072 } none 0x80220000 = none := by decide +kernel
/-- R362's logical mast of two addresses and R182's slice of a line, from the bits of the address. -/
theorem test_mast : lmastOf 0x18180 = 0 ∧ lmastOf 0x10080 = 3 := by decide
theorem test_slice : l2Slice 0x204080 = 7 := by decide

/-! ### Witnesses, statement by statement -/

/-- Every form-L instruction of IntegerArithmetic, BitwiseOperations, Shifts, FieldsAndAddresses, MoveInstructions, CarriesAndCompares (IMADW,
ISET) and IntegerDivision passes its checks on a vector core. -/
theorem hyp_arithmetic : ∀ o ∈ [Op.iadd, .isub, .ineg, .imul, .imulh, .imad, .imin, .imax, .iabs, .idp4, .and, .or, .xor, .not, .andn, .popc, .clz, .ctz, .brev,
    .shl, .shr, .sar, .rot, .shf, .bfe, .bfi, .prmt, .lea, .nop, .mov, .movi, .sel, .imadw, .iset, .idiv, .irem], Clear o plain w 0 th := clear_all (by decide +kernel)
/-- The same on a control core, for some of them. -/
theorem hyp_arithmetic_control : ∀ o ∈ [Op.iadd, .isub, .imul, .and, .shl, .bfe, .lea, .mov, .iset, .idiv, .irem], Clear o plain wt taskBase tt :=
  clear_all (by decide +kernel)
/-- The form-S instructions of IntegerArithmetic, BitwiseOperations, Shifts and MoveInstructions. -/
theorem hyp_arithmetic_short : ∀ o ∈ [Op.iadd, .isub, .ineg, .imul, .imulh, .imad, .imin, .imax, .iabs, .and, .or, .xor, .not, .andn, .popc, .clz, .ctz, .brev,
    .shl, .shr, .sar, .rot, .shf, .nop, .mov], ClearS o plainS w 0 th := clearS_all (by decide +kernel)
/-- IntegerDivision with divisor 0. -/
theorem hyp_IDIV_by_zero : Met .idiv fun c => c.vb = 0 := met_of plain w 0 th (by decide +kernel) (by decide +kernel)
/-- IADDC whose carry predicate is ready. -/
theorem hyp_CarriesAndCompares : Met .iaddc fun c => c.a.pready (modBits c.f.mod 2 0) = true :=
  met_of { plain with mod := 7 } w 0 th (by decide +kernel) (by decide +kernel)
/-- The form-L instructions of FloatArithmetic, FloatSelection, FloatProducers, Conversions, PredicateLogic, PredicateMoves, FlagInstructions,
SpecialRegisters and WorkIdentifier. -/
theorem hyp_float : ∀ o ∈ [Op.fadd, .fsub, .fmul, .ffma, .hfma2, .hadd2, .hmul2, .fmin, .fmax, .fset, .fclass, .frnd, .fscl, .fdiv, .sqrt, .rcp, .rsq, .ex2, .lg2,
    .sin, .cos, .tanh, .fcvt, .f2i, .i2f, .pack, .unpk, .qnt, .dqnt, .plog, .pmov, .flrd, .flclr, .movs, .clk, .wid], Clear o plain w 0 th := clear_all (by decide +kernel)
/-- The double-precision instructions of the same statements (TYPE 7). -/
theorem hyp_double : ∀ o ∈ [Op.dadd, .dmul, .dfma, .dset, .ddiv, .dsqrt], Clear o { plain with mod := 0x7000 } w 0 th := clear_all (by decide +kernel)
/-- The form-S instructions of FloatArithmetic, FloatSelection and FloatProducers. -/
theorem hyp_float_short : ∀ o ∈ [Op.fadd, .fsub, .fmul, .ffma, .dadd, .dmul, .dfma, .hfma2, .hadd2, .hmul2, .fmin, .fmax, .fdiv], ClearS o plainS w 0 th :=
  clearS_all (by decide +kernel)
/-- A literal format word of E4M3 (format 5) without a compand table is legal and names no table; format 0 is not legal. -/
theorem hyp_Conversions : Met .qnt (fun c => formatOk c.vb = true ∧ ∃ u tab n, tableOf c c.vb = .inr (u, tab) ∧ agent? u c.k = some { c.a with top := n }) ∧
    Met .qnt (fun c => formatOk c.vb = false) :=
  ⟨met_of { plain with b := .lit 0x00070000 } w 0 th (by decide +kernel) ⟨by decide +kernel, w, 0, 0, by decide +kernel, by decide +kernel⟩,
   met_of { plain with b := .lit 0 } w 0 th (by decide +kernel) (by decide +kernel)⟩
/-- PMOV to and from a register, one with a poisoned predicate, and one that waits for a predicate. -/
theorem hyp_PredicateMoves : Met .pmov (fun c => modBit c.f.mod 0 = false ∧ (∀ n < 7, c.a.pready n = true) ∧ c.a.ppoison = 0) ∧
    Met .pmov (fun c => modBit c.f.mod 0 = true ∧ ∀ n < 7, modBit c.f.mod (n + 1) = true → c.a.pready n = true) ∧
    Met .pmov (fun c => modBit c.f.mod 0 = false ∧ (∀ n < 7, c.a.pready n = true) ∧ c.a.ppoison ≠ 0) ∧
    Met .pmov (fun c => ∃ n < 7, (modBit c.f.mod 0 = false ∨ modBit c.f.mod (n + 1) = true) ∧ c.a.pready n = false) :=
  ⟨met_of plain w 0 th (by decide +kernel) (by decide +kernel), met_of { plain with mod := 0xFF } w 0 th (by decide +kernel) (by decide +kernel),
   met_of plain (putAgent w 0 { th with ppoison := 4 }) 0 { th with ppoison := 4 } (by decide +kernel) (by decide +kernel),
   met_of { plain with mod := 0x81 } (putAgent w 0 { th with pfull := 0x3F }) 0 { th with pfull := 0x3F } (by decide +kernel) (by decide +kernel)⟩
def tprod : Prod := { id := 5, key := 0, uid := 1, dst := .v 3 1, value := 7, flags := 1 }
/-- FLRD and FLCLR of a thread with no producer in flight, and with one. -/
theorem hyp_FlagInstructions : ∀ o ∈ [Op.flrd, .flclr], Met o (fun c => ¬ ∃ p ∈ c.s.prods, p.uid = c.a.uid) ∧ Met o fun c => ∃ p ∈ c.s.prods, p.uid = c.a.uid := by
  intro o h
  simp only [List.mem_cons, List.not_mem_nil, or_false] at h
  rcases h with rfl | rfl <;>
  exact ⟨met_of plain w 0 th (by decide +kernel) (by decide +kernel), met_of plain { w with prods := [tprod] } 0 th (by decide +kernel) (by decide +kernel)⟩
/-- WID of a thread of a kernel. -/
theorem hyp_WorkIdentifier : Met .wid fun c => c.a.kind = .thread ∧ kernel? c.s c.a.kernel = some tker ∧ group? c.s c.a.group = some tgrp :=
  met_of { plain with mod := 1 } w 0 th (by decide +kernel) (by decide +kernel)
/-- A false guard in form L and in form S. -/
theorem hyp_FalseGuard : GuardedOff .st { plain with g := 6 } w 0 th ∧ GuardedOff .iadd (FormS.expand { plainS with g := 0 } (issuingCore w) .iadd) w 0 th := by
  constructor <;> constructor <;> decide +kernel
/-- Every transfer of FalseTransfer under a false guard. -/
theorem hyp_FalseTransfer : ∀ o ∈ [Op.bra, .brc, .jmp, .call, .calli, .ret], GuardedOff o { plain with gn := true } w 0 th := by
  intro o h
  simp only [List.mem_cons, List.not_mem_nil, or_false] at h
  rcases h with rfl | rfl | rfl | rfl | rfl | rfl <;> constructor <;> decide +kernel
/-- RET in form S under a false guard. -/
theorem hyp_FalseTransfer_short : GuardedOff .ret (FormS.expand { plainS with g := 0 } (issuingCore w) .ret) w 0 th := by constructor <;> decide +kernel
/-- A thread that is not stepping and a handler. -/
theorem hyp_TakingAFault : agent? w 0 = some th ∧ th.state ≠ .stepping ∧ th.kind ≠ .handler ∧ agent? wh 2016 = some hd ∧ hd.kind = .handler := by decide +kernel
/-- A branch to 0x1010, which holds a header, or a word that is none; and to an unaligned address. -/
def code (x : Word) : State := { w with mem := writeN [] 0x1010 x.toNat 4 }
def wordAt (s : State) (t : Nat) (p : Nat → Bool) : Bool := match fetchWord s (placeOf 0 th) 1 t with | .word x _ => p x | _ => false
theorem hyp_Branches : clearB .bra { plain with b := .lit 8 } (code 0xC0100000) 0 th = true ∧ wordAt (code 0xC0100000) 0x1010 isHeader = true ∧
    clearB .bra { plain with b := .lit 8 } (code 7) 0 th = true ∧ wordAt (code 7) 0x1010 (!isHeader ·) = true ∧
    (ctxOf .bra { plain with b := .lit 8 } 12 w 0 th).vb = 8 ∧ clearB .bra { plain with b := .lit 4 } w 0 th = true ∧
    clearB .brc { plain with b := .lit 8 } w 0 th = true ∧ (ctxOf .brc { plain with b := .lit 8 } 12 w 0 th).va = 0 ∧
    clearB .brc { plain with b := .lit 8, mod := 1 } w 0 th = true ∧ clearB .jmp plain w 0 th = true := by decide +kernel
/-- A target at a header, and one that no fetch can read. -/
theorem hyp_Lands : (∃ u, Lands (code 0xC0100000) (placeOf 0 th) 1 0x1010 u) ∧ ∃ u, Lands { w with bases := [] } (placeOf 0 th) 1 0x1010 u :=
  ⟨lands_of (by decide +kernel), lands_of (by decide +kernel)⟩
/-- A thread with room for one address and with none, a task with an empty return stack and a full one, and a handler thread, each at a CALL to
0x1010. -/
def fullEng : State := putEngine wt 0 { rstk := List.replicate 16 0x1010 }
theorem hyp_Calls : [Op.call, .calli].all (fun o =>
      clearB o { plain with b := .lit 8 } (putAgent w 0 { th with rstk := 8 }) 0 { th with rstk := 8 } && clearB o plain (putAgent w 0 { th with rstk := 7 }) 0 { th with rstk := 7 } &&
      clearB o plain wt taskBase tt && clearB o plain fullEng taskBase tt && clearB o plain wh 2016 hd) = true ∧
    wordAt (code 0xC0100000) 0x1010 isHeader = true ∧ (engine wt (clusterOf taskBase)).rstk = [] ∧ (engine fullEng (clusterOf taskBase)).rstk.length = 16 := by decide +kernel
/-- A thread with eight writes in flight at a CALL: it waits. -/
theorem hyp_Calls_eight : let s : State := { w with reqs := List.replicate 8 { id := 7, seq := 0, who := whoOf 0 th, acc := { kind := .store, scratch := false, addr := 0x40000, locs := [], bytes := 8, op := 0, data := 3, width := 3, pc := 0x1000 } } }
    [Op.call, .calli].all (clearB · plain s 0 th) = true ∧ 8 ≤ th.rstk ∧ writesOut s th.uid = 8 := by decide +kernel
/-- The same for RET: the return address 0x1010 in the thread's private space, and at its end. -/
def retSt : State := { w with agents := [(0, { th with rstk := 1016 })], mem := writeN (writeN [] 0x1003F8 0x1010 8) 0x1010 0xC0100000 4 }
theorem hyp_Returns : let c := ctxOf .ret plain 8 retSt 0 { th with rstk := 1016 }
    clearB .ret plain retSt 0 { th with rstk := 1016 } = true ∧ clearB .ret (FormS.expand plainS .vector .ret) retSt 0 { th with rstk := 1016 } = true ∧
    got (readNow c (privVa retSt 0 c.a 1016) 8) (fun x => keeps x.1 0 c.a && x.2 == 0x1010 && landsB x.1 (placeOf 0 th) 1 0x1010) = true ∧
    clearB .ret plain w 0 th = true ∧ privSize w th ≤ th.rstk ∧ clearB .ret plain fullEng taskBase tt = true ∧ clearB .ret plain wt taskBase tt = true ∧
    clearB .ret plain wh 2016 hd = true := by decide +kernel
/-- YIELD, TRAP and BKPT of a context whose BRK is set, and BKPT where it is not. -/
theorem hyp_YieldsAndTraps : [Op.yield, .trap, .bkpt].all (clearB · { plain with b := .lit 3 } w 0 th) = true ∧ tx.brk = true ∧
    clearB .yield (FormS.expand plainS .vector .yield) w 0 th = true ∧
    clearB .bkpt plain { w with ctxs := [] } 0 th = true := by decide +kernel
/-- The instructions that start a rendezvous, with masks that name the thread and that do not. -/
theorem hyp_RendezvousArrival : [Op.vote, .tred, .tscan, .tsync].all (fun o => clearB o { plain with b := .lit 1 } w 0 th && clearB o { plain with b := .lit 2 } w 0 th) = true ∧
    clearB .shfl { plain with b := .lit 0 } w 0 th = true ∧ clearB .setpart { plain with b := .lit 16 } w 0 th = true ∧
    [Op.vote, .tred, .tscan, .tsync].all (fun o => (ctxOf o { plain with b := .lit 1 } 12 w 0 th).vb == 1) = true := by decide +kernel
/-- A thread alone in its static warp, waiting at a rendezvous of its own. -/
def alone (o : Op) : Agent := { th with inst := some (o, { plain with dst := 2 }, 8), wait := .rendezvous, mask := if o == .setpart then 0xFFFFFFFF else 1, ra := 5, rb := 16 }
theorem hyp_RendezvousAlone : ∀ o ∈ [Op.tsync, .setpart, .shfl, .tred, .tscan, .vote], let s := putAgent w 0 (alone o)
    s.agents.filter (fun p => p.1 / 32 == 0 / 32) = [(0, alone o)] ∧ agent? s 0 = some (alone o) ∧ (alone o).wait = .rendezvous ∧ (alone o).state = .ready ∧
    partOf s (alone o) ∈ [2, 4, 8, 16, 32] ∧ (if o = .setpart then (alone o).mask = 0xFFFFFFFF ∧ (alone o).rb ∈ [2, 4, 8, 16, 32]
      else (alone o).mask = 2 ^ (laneOf 0 % partOf s (alone o))) := by decide +kernel
/-- Two threads of a static warp at one TSYNC. -/
def pair (l : Nat) : Agent := { th with uid := 1 + l, lin := l, inst := some (.tsync, plain, 8), wait := .rendezvous, mask := 3 }
def wpair : State := { w with agents := [(0, pair 0), (1, pair 1)] }
theorem hyp_WarpSync : agent? wpair 0 = some (pair 0) ∧ mismatched wpair 0 (pair 0) = none ∧ clashing wpair 0 (pair 0) = [] ∧
    peers wpair 0 (pair 0) = [(0, pair 0), (1, pair 1)] ∧
    ([(0, pair 0), (1, pair 1)].all fun p => (named wpair p.1 p.2).all fun n => arrivedAt wpair (pair 0).pc n.2) = true := by decide +kernel

/-- Memory instructions at address 0x40000 (form S with offset 0), at a scratchpad offset and at a private one; WIDTH 3 in MOD[14:12], order
relaxed in MOD[7:5]. -/
def mreg : Agent := { th with v := [(4, { val := 0x40000 }), (8, { val := 0x7F0 }), (10, { val := 1016 }), (12, { val := 0x40001 }), (14, { val := 0x10000 }), (16, { val := 1020 })] }
def wm : State := putAgent w 0 mreg
theorem hyp_Loads : [Op.ld, .atom].all (fun o => clearB o { plain with dst := 2, a := 4, mod := 0x3000 } wm 0 mreg &&
      (ctxOf o { plain with dst := 2, a := 4, mod := 0x3000 } 8 wm 0 mreg).ea % 8 == 0) = true ∧
    [Op.lds, .atoms].all (fun o => clearB o { plain with dst := 2, a := 8, mod := 0x3000 } wm 0 mreg &&
      (ctxOf o { plain with dst := 2, a := 8, mod := 0x3000 } 8 wm 0 mreg).ea32 == 0x7F0) = true ∧
    csetOf wm mreg = some tcs ∧ scratchLocs wm tcs (ownGroup wm mreg) 0x7F0 8 false = some [0x7F0, 0x7F1, 0x7F2, 0x7F3, 0x7F4, 0x7F5, 0x7F6, 0x7F7] ∧
    clearB .ldl { plain with dst := 2, a := 10, mod := 0x3000 } wm 0 mreg = true ∧ 1016 + 8 = privSize wm mreg ∧
    [(Op.ld, (4 : BitVec 6)), (.lds, 8), (.ldl, 10)].all (fun p => clearB p.1 (FormS.expand { plainS with dst := 2, a := p.2 } .vector p.1) wm 0 mreg) = true := by
  decide +kernel
theorem hyp_Stores : [Op.st, .red].all (fun o => clearB o { plain with a := 4, mod := 0x3000 } wm 0 mreg) = true ∧ clearB .sts { plain with a := 8, mod := 0x3000 } wm 0 mreg = true ∧
    clearB .stl { plain with a := 10, mod := 0x3000 } wm 0 mreg = true ∧ writesOut wm 1 = 0 ∧
    [(Op.st, (4 : BitVec 6)), (.sts, 8), (.stl, 10)].all (fun p => clearB p.1 (FormS.expand { plainS with dst := 2, a := p.2 } .vector p.1) wm 0 mreg) = true := by
  decide +kernel
/-- An address that is misaligned by one byte, the first scratchpad offset past the slice, and private bytes that end 4 past the space. -/
theorem hyp_AccessFaults : [Op.ld, .st, .atom, .red, .lds, .sts, .atoms, .ldl, .stl].all (fun o => clearB o { plain with a := 12, mod := 0x1000 } wm 0 mreg &&
      (ctxOf o { plain with a := 12, mod := 0x1000 } 8 wm 0 mreg).ea % 2 == 1 && (ctxOf o { plain with a := 12, mod := 0x1000 } 8 wm 0 mreg).ea32 % 2 == 1) = true ∧
    [Op.lds, .sts, .atoms].all (fun o => clearB o { plain with a := 14, mod := 0x3000 } wm 0 mreg) = true ∧ scratchLocs wm tcs (ownGroup wm mreg) 0x10000 8 false = none ∧
    [Op.ldl, .stl].all (fun o => clearB o { plain with a := 16, mod := 0x2000 } (putAgent w 0 { mreg with v := [(16, { val := 1024 })] }) 0 { mreg with v := [(16, { val := 1024 })] } &&
      (ctxOf o { plain with a := 16, mod := 0x2000 } 8 (putAgent w 0 { mreg with v := [(16, { val := 1024 })] }) 0 { mreg with v := [(16, { val := 1024 })] }).ea32 == 1024) = true ∧
    [Op.ldl, .stl].all (clearB · { plain with a := 4, mod := 0x2000 } wh 2016 hd) = true := by decide +kernel
/-- The page translates for every need of an access. -/
def reached (s : State) (p : Place) (va : Nat) (n : Need) (q : Nat → Nat → Nat → State → Bool) : Bool :=
  match locate s p 1 va n with | .at_ pa h l u => q pa h l u | _ => false
theorem hyp_FencesAndPrefetches : clearB .fence { plain with mod := 0x260 } w 0 th = true ∧ clearB .pref { plain with a := 4 } wm 0 mreg = true ∧
    reached wm (placeOf 0 mreg) 0x40000 .load (fun pa h l _ => paPkg pa != 255 && bitsN l 10 9 != 2 && crossNow wm (whoOf 0 mreg) (plainLoad 0x40000 128 0x1008) h) = true ∧
    (let s := { wm with changes := [.mastRemap 3 false] }; clearB .pref { plain with a := 4 } s 0 mreg = true ∧
      crossNow s (whoOf 0 mreg) (plainLoad 0x40000 128 0x1008) 0 = false) := by decide +kernel
theorem hyp_TranslationFrame : [Need.load, .store, .rmw, .fetch].all (fun n => reached w (placeOf 0 th) 0x40000 n fun pa h l _ => pa == 0x40000 && h == 0 && l == tleaf) = true := by
  decide +kernel
/-- An access of each kind, its request due, and what performing it answers. -/
def tacc (k : AccKind) : Access := { kind := k, scratch := false, addr := 0x40000, locs := [], bytes := 8, op := 0, data := 3, width := 3, dst := if k == .store then .none else .v 2 2, pc := 0x1000 }
def tacs (k : AccKind) : Access := { tacc k with scratch := true, addr := 0x7F8, locs := upFrom 0x7F8 8 }
def performs (r : Res) (p : State → Nat → Bool) : Bool := match r with | .done u v _ _ => p u v | _ => false
theorem hyp_AccessPerformed : MemoryOk w ∧ [AccKind.load, .store, .rmw].all (fun k =>
    performs (performPhys w (whoOf 0 th) (tacc k) 0 0x40000 0 tleaf) (fun u v => v == 0 && readN u.mem 0x40000 8 == if k == .load then 0 else 3) &&
    performs (performScratch w (whoOf 0 th) (tacs k) 0) (fun u v => v == 0 && readN u.sram 0x7F8 8 == if k == .load then 0 else 3)) = true ∧
    (tacs .load).locs.Nodup := by
  refine ⟨⟨rfl, rfl⟩, ?_, ?_⟩ <;> decide +kernel
def treq (acc : Access) (st : Stage) : Req := { id := 7, seq := 0, who := whoOf 0 th, acc := acc, stage := st }
/-- A scratchpad access, just issued and at its core, and any other at its home: waiting there, at the end of its last link, and where no link
divides it from its source. Each may be performed. -/
def atStack : Who := { whoOf 0 th with place := { die := none } }
def sent (s : State) (q : Access) : List Packet := (inject s (whoOf 0 th) q 7 ((classify s 1 q.addr.toNat).elim 0 (·.home))).toList
def performsAt (s : State) (r : Req) : Bool :=
  (reached s r.who.place 0x40000 r.acc.need fun pa _ _ u => paPkg pa < 240 && servedAt s 0 pa && (mustInvalidate s r pa).isEmpty &&
    performs (performHome u r.who r.acc 0 pa) fun _ _ => true) && !alreadyRefused s r 0
theorem hyp_RequestsPerformed : [tacs .load, tacs .store, tacs .rmw].all (fun q => [Stage.issued, .arrived].all fun st =>
      let r := treq q st; mayPerform { w with reqs := [r], nextId := 8 } r && performs (performScratch { w with reqs := [r], nextId := 8 } r.who q 0) fun _ _ => true) = true ∧
    [tacc .load, tacc .store, tacc .rmw, addAccess 0x40000 1].all (fun q =>
      let r := treq q .arrived; let s := { w with reqs := [r], nextId := 8 }
      let r1 := treq q .issued; let s1 := { w with reqs := [r1], nextId := 8, fabric := sent w q }
      let r2 := { treq q .issued with who := atStack }; let s2 := { w with reqs := [r2], nextId := 8 }
      (packetOf s (· ≤ 2) 7).isNone && performsAt s r &&
      (packetOf s1 (· ≤ 2) 7).any (fun p => p.path.length == 1 && mayLeave s1 p) && performsAt s1 r1 &&
      mayPerform s2 r2 && (packetOf s2 (· ≤ 2) 7).isNone && routeOk s2 r2.who.place 0 && !sourceStopped s2 0 false &&
      (inject s2 r2.who q 7 0).any (fun p => p.path.isEmpty) && performsAt s2 r2) = true := by decide +kernel
/-- A request on its way to stack 15: not sent, on the first link of several, and there at the end of the last. -/
def faracc (k : AccKind) : Access := { tacc k with addr := 0x78000000040000 }
theorem hyp_RequestsPerformed_way : [faracc .load, faracc .store, faracc .rmw, addAccess 0x78000000040000 1].all (fun q =>
      let r := treq q .issued; let s := { w with reqs := [r], nextId := 8 }; let s1 := { s with fabric := sent w q }
      (classify s 1 q.addr.toNat).any (fun ad => ad.home == 15 && !sourceStopped s ad.pkg q.rx) && mayPerform s r && routeOk s r.who.place 15 &&
      (inject s r.who q 7 15).any (fun p => 1 < p.path.length) && (packetOf s1 (· ≤ 2) 7).any fun p => !p.here && (forward s1 p).isSome) = true := by decide +kernel
/-- A register window's page, and no page: a load's fault and a store's place in the side log. -/
def wreg : State := { w with bases := [(0, { tlb := [{ asid := 1, set := 0, base := 0, size := 65536, leaf := 2 ^ 63 + 0xF180 + 255 * 2 ^ 48, at_ := 0x9000 }] })] }
def wnone : State := { w with bases := [(0, { roots := [(1, (0x100000, 0))] })] }
theorem hyp_RequestsPerformed_elsewhere : [tacc .load, tacc .store].all (fun q => let q := { q with addr := 0 }; let r := treq q .arrived; let s := { wreg with reqs := [r], nextId := 8 }
      reached s (placeOf 0 th) 0 q.need fun pa _ _ u => paPkg pa == 255 && servedAt s 0 pa && (mustInvalidate s r pa).isEmpty && performs (performHome u r.who q 0 pa) fun _ _ => true) = true ∧
    [tacc .load, tacc .store, tacc .rmw, addAccess 0x40000 1].all (fun q => let r := treq q .arrived; let s := { wnone with reqs := [r], nextId := 8 }
      (match locate s (placeOf 0 th) 1 0x40000 q.need q.bytes with | .absent h => h == 0 && (returns r || !alreadyRefused s r h && (logWrite s h r.who q).isSome) | _ => false) &&
      returns r == (q.dst != .none)) = true ∧
    [tacc .load, tacc .rmw].all (fun q => returns (treq q .performed)) = true ∧ returns (treq (tacc .store) .performed) = false := by decide +kernel
/-- A message of each kind: nothing of it on the fabric and links to cross, on the first of several links, and at the end of its last. -/
def onFabric (p : Packet) (n : Nat) : State := { w with fabric := [{ p with path := p.path.drop (p.path.length - n) }] }
def travels (kind id : Nat) (p : Packet) : Bool :=
  1 < p.path.length && roomAt w p && (packetOf (onFabric p 2) (· == kind) id).any (fun q => (forward (onFabric p 2) q).isSome) &&
  (packetOf (onFabric p 1) (· == kind) id).any fun q => q.path.length ≤ 1 && mayLeave (onFabric p 1) q
def tmark (n : Nat) : Marker := { id := 7, uid := 1, seq := 0, target := 15, count := 1, arrived := n, place := placeOf 0 th, todo := markerCopies w (placeOf 0 th) 15 7 3 5 }
def tinv (ack : Bool) : Inval := { id := 7, home := 15, asid := 1, va := 0x78000000040000, die := 0, acked := ack }
theorem hyp_RequestsPerformed_messages : travels FlitKind.resp 7 (respPacket w (treq (faracc .load) .performed) 15 true) = true ∧
    travels FlitKind.ack 7 (respPacket w (treq (faracc .store) .performed) 15 false) = true ∧ travels FlitKind.markerack 7 (markerackPacket w (tmark 1)) = true ∧
    [true, false].all (fun k => travels (if k then FlitKind.invalack else FlitKind.inval) 7 (invalPacket w (tinv k) k)) = true ∧
    (let r := { treq (faracc .load) .forwarded with pa := some 0x40000 }
     travels FlitKind.fwd 7 (fwdPacket w r 15 0x40000) = true ∧ travels FlitKind.fwdans 7 (answerPacket w r 15 0x40000) = true ∧
     performs (performHome (deviceUse { w with reqs := [r] } 1 0x78000000040000 false) r.who r.acc 0 0x40000) (fun t _ => (req? t 7).isSome) = true) ∧
    (tmark 0).todo.all (fun p => travels FlitKind.marker 7 p) = true ∧ (tmark 0).todo.isEmpty = false ∧ relaxedBefore { w with markers := [tmark 0] } (tmark 0) = false := by
  decide +kernel
def barrierAt (b : Bar) (l : List (Nat × Agent)) : State := { w with agents := (0, { th with bar := b }) :: l }
/-- The group's only thread, one of two, and one that has arrived, alone and with another still to come. -/
theorem hyp_Barriers : (let b := { th with uid := 4, lin := 1 }; [Op.barArv, .barSync].all fun o => clearB o plain (barrierAt .arrived [(1, b)]) 0 { th with bar := .arrived } &&
      b.kind == .thread && b.group == th.group && b.state != .exited && b.bar != .arrived) = true ∧ th.pending = [] ∧ th.wait = .none ∧
    w.agents.filter (fun p => p.2.kind == .thread && p.2.group == th.group) = [(0, th)] ∧ [Op.barArv, .barSync, .barWait].all (fun o => clearB o plain w 0 th && clearB o plain (barrierAt .none [(1, { th with uid := 4, lin := 1 })]) 0 th &&
      clearB o plain (barrierAt .arrived []) 0 { th with bar := .arrived }) = true ∧ performedNear w 1 = true := by decide +kernel
/-- A memory barrier object at the last place of the slice, EXPECTED 2 with 1 arrival: one more completes its phase. -/
def objSt : State := { w with agents := [(0, { th with v := [(4, { val := 0xFFF0 }), (5, { val := 1 })] })], sram := writeLocs [] (upFrom 0xFFF0 16) 0x10002 }
def oth : Agent := { th with v := [(4, { val := 0xFFF0 }), (5, { val := 1 })] }
theorem hyp_BarrierObjects : mbLocs objSt oth 0xFFF0 = .inr (upFrom 0xFFF0 16) ∧ Memory.wf objSt.mem = true ∧ Memory.wf objSt.sram = true ∧ (upFrom 0xFFF0 16).Nodup ∧
    (hits objSt (whoOf 0 oth) true true (wordsOfLocs (upFrom 0xFFF0 16))).isEmpty = true ∧
    [Op.mbinit, .mbarv, .mbtest, .mbwait, .mbdrop].all (fun o => clearB o { plain with a := 4, b := .reg 5 false } objSt 0 oth) = true ∧
    poisonedWords objSt (wordsOfLocs (upFrom 0xFFF0 16)) = false ∧ (mbOf (readLocs objSt.sram (upFrom 0xFFF0 16))).expected = 2 ∧
    (mbOf (readLocs objSt.sram (upFrom 0xFFF0 16))).arrived = 1 ∧ (mbOf (readLocs objSt.sram (upFrom 0xFFF0 16))).phase = 0 ∧
    objSt.tags = [] ∧ ((wordsOfLocs (upFrom 0xFFF0 16)).length ≤ 64) ∧ objSt.agents = [(0, oth)] ∧ oth.wait = .none ∧
    [Op.mbinit, .mbarv, .mbtest, .mbwait, .mbdrop].all (fun o => mbReady (ctxOf o { plain with a := 4, b := .reg 5 false } 8 objSt 0 oth)) = true ∧
    clearB .mbarv { plain with dst := 255, a := 4, b := .reg 5 false } objSt 0 oth = true ∧ oth.value (.v 1) 5 = 1 := by
  decide +kernel
/-- Its tags fit in a store that holds none, whatever its room. -/
theorem hyp_BarrierObjects_fit : TagsFit objSt (wordsOfLocs (upFrom 0xFFF0 16)) := fun x _ => .inr (by
  have h : (wordsOfLocs (upFrom 0xFFF0 16)).length ≤ 64 := by decide +kernel
  simp only [show objSt.tags = [] from rfl, List.filter_nil, List.length_nil, tagCap]
  omega)
/-- Queues of the context: LAUNCH 0, COPY 0, STACK 0, MASH of die 0, and the cluster set's TASK queue, each empty but for that. -/
def queue (qid : Nat) (rec ring : Nat) : Queue := { asid := 1, qid := qid, recVa := BitVec.ofNat 64 rec, ring := BitVec.ofNat 64 ring, logn := 4 }
def qs : FMap Queue := [(qkey 1 0, queue 0 0x10000 0x30000), (qkey 1 8, queue 8 0x10200 0x31000), (qkey 1 16, queue 16 0x10400 0x32000),
  (qkey 1 24, { queue 24 0x10600 0x33000 with kdecl := 1 }), (taskQkey tg, { queue 0x20 0x20000 0x21000 with cset := tg })]
def qth : Agent := { th with v := [(4, { val := 0x40000 }), (6, { val := 0x50000 }), (8, { val := 64 }), (10, { val := 0xFFF0 }), (12, { val := 5 }), (14, { val := 0x40001 }), (16, { val := 63 })] }
def wq : State := { w with agents := [(0, qth)], queues := qs }
def open? (s : State) (qk : Nat) : Bool := (queue? s qk).any fun q => q.state != .disabled && (q.kind != 4 || q.state != .saved) && !q.full
/-- A copy of 64 bytes from 0x40000 to 0x50000, and one from the thread's slice with completion at the object at 0xFFF0, its last place. -/
def cpyF : FormL := { plain with a := 4, b := .reg 6 false, c := 8 }
def cpyO : FormL := { plain with dst := 10, a := 0, b := .reg 6 false, c := 8, mod := 0x18 }
def cpyImg (a b n cmp o : Nat) : Nat := 1 + cmp + o * 2 ^ 64 + a * 2 ^ 128 + b * 2 ^ 192 + n * 2 ^ 256 + 2 ^ 288
theorem hyp_CopyInstructions : clearB .cpy cpyF wq 0 qth = true ∧ Settled (ctxOf .cpy cpyF 8 wq 0 qth) ∧ open? wq (qkey 1 8) = true ∧
    copyMalformed (stampCopy wq 0 (some qth) (cpyImg 0x40000 0x50000 64 0 0)) false = false := by
  refine ⟨?_, ⟨rfl, ?_⟩, ?_⟩ <;> decide +kernel
theorem hyp_CopyInstructions_object : clearB .cpy cpyO wq 0 qth = true ∧ open? wq (qkey 1 8) = true ∧
    (let img := cpyImg 0 0x50000 64 (2 ^ 8 + 2 * 2 ^ 11) 0xFFF0
     copyMalformed (stampCopy wq 0 (some qth) img) false = false ∧ bitsN (stampCopy wq 0 (some qth) img) 95 64 % 16 = 0 ∧ copySpan img (bitsN img 351 320) = 64) ∧
    csetOf wq qth = some tcs ∧ ([0, 63, 0xFFF0, 0xFFFF].all fun o => (scratchByte wq tcs (ownGroup wq qth) o).isSome) = true := by decide +kernel
def cpytSt : State := { wq with mem := writeN [] 0x40000 (cpyImg 0x60000 0x50000 64 0 0) 64 }
theorem hyp_CopyInstructions_table : clearB .cpyt { plain with a := 4 } cpytSt 0 qth = true ∧
    got (readNow (ctxOf .cpyt { plain with a := 4 } 8 cpytSt 0 qth) 0x40000 64) (fun x => keeps x.1 0 qth && open? x.1 (qkey 1 8) &&
      !copyMalformed (stampCopy x.1 0 (some qth) x.2) false) = true := by decide +kernel

def sigAt (s : State) (a : Agent) (p : State → Bool) : Bool := match checkSignal s 0 a 0x40000 with | .ok e => p e | _ => false
def tdel : Delivery := { code := .fpEngine, qid := 8, entry := 0, x0 := 0x21 }
theorem hyp_Signals : let f : FormL := { plain with a := 4, b := .reg 12 false }
    clearB .qsig f wq 0 qth = true ∧ clearB .qwait { f with b := .reg 0 false } wq 0 qth = true ∧ clearB .qwait f wq 0 qth = true ∧
    sigAt wq qth (fun e => sigReached e 1 0x40000 0 && !sigReached e 1 0x40000 5) = true ∧ clearB .qsig { plain with a := 14 } wq 0 qth = true ∧
    checkSignal wq 0 qth 0x40001 = .bad .misaligned ∧ allPerformed wq 1 = true ∧
    clearB .qwait f (putAgent wq 0 { qth with inst := some (.qwait, f, 8) }) 0 { qth with inst := some (.qwait, f, 8) } = true ∧
    clearB .qwait f (putAgent wq 0 { qth with pending := [tdel] }) 0 { qth with pending := [tdel] } = true ∧ qth.inst = none ∧ qth.pending = [] := by decide +kernel
theorem hyp_FencesTriggersTokens : wq.trigs = [] ∧ clearB .qfence { plain with mod := 8 * 64 } wq 0 qth = true ∧ queueOf wq qth 0 = some (qkey 1 0) ∧ queueOf wq qth 8 = some (qkey 1 8) ∧
    open? wq (qkey 1 0) = true ∧ clearB .trig { plain with a := 4, b := .reg 12 false, c := 6, mod := 8 } wq 0 qth = true ∧ (classify wq 1 0x40000).isSome = true ∧
    qth.value (.v 2) 6 % 64 = 0 ∧ clearB .trdy { plain with b := .reg 16 false } wq 0 qth = true ∧ csetKey wq qth = some tg ∧ cset? wq tg = some tcs ∧ tcs.retired = false := by
  decide +kernel
theorem hyp_KernelWork : clearB .launch { plain with a := 4 } wq 0 qth = true ∧ clearB .launch { plain with a := 14 } wq 0 qth = true ∧
    clearB .launch { plain with a := 4, mod := 1 } wq 0 qth = true ∧ disabled wq (qkey 1 1) = true ∧ disabled wq (qkey 1 0) = false ∧
    got (readNow (ctxOf .launch { plain with a := 4 } 8 wq 0 qth) 0x40000 64) (fun x => keeps x.1 0 qth && open? x.1 (qkey 1 0)) = true ∧
    [Op.append, .wltake].all (fun o => clearB o plain wq 0 qth && clearB o { plain with b := .reg 12 false } wq 0 qth) = true ∧ tker.nwl = 1 ∧ tker.quiet = false ∧
    tker.wlcapl = 4 ∧ clearB .wltake plain { wq with lists := [(lkey tk 0, { items := [(3, [])] })] } 0 qth = true ∧
    clearB .wltake plain { wq with kernels := [(tk, { tker with quiet := true })] } 0 qth = true := by decide +kernel
/-- A full launch queue; an APPEND whose list has room, has a taker waiting, or is full. -/
def taker : Agent := { th with uid := 4, lin := 1, wait := .take (lkey tk 0), inst := some (.wltake, plain, 8) }
def wlst (l : WList) : State := { wq with agents := [(0, qth), (1, taker)], lists := [(lkey tk 0, l)] }
theorem hyp_KernelWork_more : (let s : State := { wq with queues := [(qkey 1 0, { queue 0 0x10000 0x30000 with pushed := 16 })] }
      clearB .launch { plain with a := 4 } s 0 qth = true ∧ (queue? s (qkey 1 0)).any (fun q => q.full && q.state != .disabled) = true) ∧
    [({} : WList), { takers := [4] }, { items := List.replicate 16 (3, []) }].all (fun l => let s := wlst l
      clearB .append plain s 0 qth && qth.state == .ready && (kernel? s tk).isSome && wlist s tk 0 == l && s.appends.isEmpty && agentOf s 4 == some (1, taker)) = true ∧
    taker.state = .ready ∧ qth.value (.v 2) 0 = 0 ∧ 2 ^ tker.wlcapl = 16 := by decide +kernel
/-- An APPEND behind a release fence with a store still on its way. -/
def fenced1 : Agent := { qth with seq := 1, fences := [{ seq := 1, region := 0, order := 3, scope := 5 }] }
theorem hyp_KernelWork_fence : let s : State := { putAgent wq 0 fenced1 with reqs := [{ id := 7, seq := 0, who := whoOf 0 fenced1, acc := tacc .store }] }
    clearB .append plain s 0 fenced1 = true ∧ fenced1.fences.any (fun x => x.order != 2 && fenceHolds s (s.reqs.filter (·.who.uid == fenced1.uid)) fenced1.uid fenced1.seq false x) = true := by
  decide +kernel

/-- Rows that end at row 255, the last, and one past it; as many lanes as the declared way has; a CARVE of 12 ways. -/
def lanes : Agent := { th with v := [(4, { val := 0x40000 }), (12, { val := BitVec.ofNat 32 Config.wayLanes }), (14, { val := 12 })] }
def wl : State := { wq with agents := [(0, lanes)] }
theorem hyp_MashInstructions : [Op.msAdd, .msSub, .msMul, .msMulc, .msLog, .msCmp, .msSel, .msSet, .msCpy, .msShr].all (fun o =>
      clearB o { plain with dst := 255, a := 255, b := .reg 255 false } wl 0 lanes && clearB o { plain with dst := 255, a := 255, b := .reg 255 false, mod := 1 } wl 0 lanes) = true ∧
    [Op.msRsum, .msCmpt, .msLdt, .msStt].all (fun o => clearB o { plain with dst := 255, a := 4, b := .reg 12 false } wl 0 lanes &&
      clearB o { plain with dst := 255, a := 4, b := .reg 12 false, mod := 1 } wl 0 lanes) = true ∧ open? wl (mashKey 1 0) = true ∧
    (queue? wl (mashKey 1 0)).any (·.kdecl == 1) = true ∧ [Op.carve, .msRel].all (fun o => clearB o { plain with a := 4, b := .reg 14 false } { wl with queues := [(mashKey 1 0, queue 24 0x10600 0x33000)] } 0 lanes) = true := by
  decide +kernel

/-- A task whose X registers hold tiles at the window's start, at offset 0x1000 and at an odd place, format words F32 × F32 and F32 × F64, and
with a one-element view and a BYP tile in its engine. -/
def tm : Agent := { tt with x := [(4, { val := 0x80000000 }), (5, { val := 0x80001000 }), (6, { val := 0x11 }), (7, { val := 1 }), (8, { val := 0x80000001 }), (9, { val := 0x40000 })] }
def eng0 : Engine := { cv := [(0, 0x80000000 + 2 ^ 32 + 2 ^ 48 + 2 ^ 64 + 2 ^ 80 + 2 ^ 96 + 2 ^ 104 + 2 ^ 160 + 2 ^ 176)], byp := some { fmt := 1, desc := 0, codes := [] } }
def wx : State := putEngine (putAgent wt taskBase tm) 0 eng0
def mm (m : BitVec 15) : FormL := { plain with a := 4, b := .reg 5 false, c := 6, mod := m }
theorem room_wx : (engine wx (clusterOf taskBase)).ops.length < 16 := by decide +kernel
/-- The hypothesis of a multiply: in the task's window, with 16 elements of K a step. -/
theorem enters_of {o : Op} (f : FormL) (opc a : Nat) (l : List (Nat × Nat)) (h : clearB o f wx taskBase tm = true) :
    let c := ctxOf o f 8 wx taskBase tm
    kPerStep (fmA c.vc) (fmB c.vc) (modBits f.mod 1 0) = some 16 → lenOf f = 8 → c.multiplies opc a (l.map fun x => (false, x.1, x.2)) →
    Met o fun c => c.a.kind = .task ∧ (engine c.s (clusterOf c.k)).ops.length < 16 ∧ ∃ ext, c.multiplies opc a ext :=
  fun _ e m => ⟨f, wx, taskBase, tm, clear_of h, by rw [e]; exact ⟨rfl, room_wx, _, m⟩⟩
def inW (l : List (Nat × Nat)) : Prop := ∀ x ∈ l, inWindow wx tcs x.1 x.2 = true
theorem in_of {c : Ctx'} {l : List (Nat × Nat)} (hs : c.s = wx) (hc : csetOf c.s c.a = some tcs) (h : inW l) : c.inWindow l :=
  fun x m => ⟨tcs, hc, hs ▸ h x m⟩
theorem hyp_MMA : Met .mma fun c => c.a.kind = .task ∧ (engine c.s (clusterOf c.k)).ops.length < 16 ∧ ∃ ext, c.multiplies 0xC4 0x80000000 ext :=
  enters_of (mm 0) 0xC4 0x80000000 [(0x80000000, 2048), (0x80001000, 2048)] (by decide +kernel) (by decide +kernel) rfl
    ⟨16, by decide +kernel, by unfold Ctx'.tabsReady; decide +kernel, by decide +kernel, by unfold TileOk; decide +kernel,
     by show TileOk 0x80000000 _; unfold TileOk; decide +kernel, in_of rfl (by decide +kernel) (by unfold inW; decide +kernel), by decide +kernel⟩
theorem hyp_MMAC : Met .mmac fun c => c.a.kind = .task ∧ (engine c.s (clusterOf c.k)).ops.length < 16 ∧ ∃ ext, c.multiplies 0xC5 0 ext :=
  enters_of { mm 0 with a := 0x2C } 0xC5 0 [(0x80000000, 4), (0x80001000, 2048)] (by decide +kernel) (by decide +kernel) rfl
    ⟨16, by decide +kernel, by unfold Ctx'.tabsReady; decide +kernel, by decide +kernel, by unfold TileOk; decide +kernel,
     by show _ ∧ _ ∧ _; decide +kernel, in_of rfl (by decide +kernel) (by unfold inW; decide +kernel), by decide +kernel⟩
/-- FIRST 1 of two steps' worth of BYP: the last that K = 16 leaves. -/
theorem hyp_MMAB : Met .mmab fun c => c.a.kind = .task ∧ (engine c.s (clusterOf c.k)).ops.length < 16 ∧ ∃ ext, c.multiplies 0xC6 0 ext :=
  enters_of { mm 0x10 with a := 0 } 0xC6 0 [(0x80001000, 2048)] (by decide +kernel) (by decide +kernel) rfl
    ⟨16, by decide +kernel, by unfold Ctx'.tabsReady; decide +kernel, by decide +kernel, by unfold TileOk; decide +kernel,
     ⟨⟨0, by decide +kernel, by decide +kernel⟩, by decide +kernel⟩, in_of rfl (by decide +kernel) (by unfold inW; decide +kernel), by decide +kernel⟩
theorem hyp_TMAC : Met .tmac fun c => c.a.kind = .task ∧ (engine c.s (clusterOf c.k)).ops.length < 16 ∧ ∃ ext, c.multiplies 0xC7 0x80000000 ext :=
  enters_of (mm 0x40) 0xC7 0x80000000 [(0x80000000, 4096), (0x80001000, 4096)] (by decide +kernel) (by decide +kernel) rfl
    ⟨16, by decide +kernel, by unfold Ctx'.tabsReady; decide +kernel, by decide +kernel, by unfold TileOk; decide +kernel,
     by show TileOk 0x80000000 _; unfold TileOk; decide +kernel, in_of rfl (by decide +kernel) (by unfold inW; decide +kernel), by decide +kernel⟩
theorem hyp_MatrixOperations : clearB .tzero { plain with dst := 0x30 } wx taskBase tm = true ∧ clearB .tdrn { plain with dst := 0x30, b := .reg 9 false, mod := 8 } wx taskBase tm = true ∧
    clearB .tdrn { plain with dst := 0x30, b := .reg 4 false } wx taskBase tm = true ∧ inWindow wx tcs 0x80000000 128 = true ∧
    clearB .tdrnb { plain with dst := 0x30, c := 6 } wx taskBase tm = true ∧ tm.value .x 6 = 0x11 ∧
    clearB .mma { mm 0 with c := 7 } wx taskBase tm = true ∧ tm.value .x 7 = 1 ∧ kPerStep (fmA 1) (fmB 1) 0 = none ∧
    clearB .tdrn { plain with dst := 0x30, b := .reg 8 false } wx taskBase tm = true ∧ tileOff 0x80000001 % 16 ≠ 0 := by decide +kernel
theorem hyp_MatrixOperations_tables : (ctxOf .mma { mm 0 with c := 7 } 8 wx taskBase tm).tabsReady 0xC4 0x80000000 := by unfold Ctx'.tabsReady; decide +kernel

/-- An operation that names descriptor NF0, behind which a TFMT of it waits. -/
def opNf : SeqRec := { opc := 0xC4, dst := 0x30, af := 4, mod := 0, aop := 0x80000000, bop := 0x80001000, fmw := 0x44, pc := 0x1000, who := { whoOf taskBase tm with engine := true }, seq := 0 }
def wbusy : State := putEngine wx 0 { eng0 with ops := [opNf] }
def tdel0 : Delivery := { code := .fpEngine, qid := 8, entry := 0, x0 := 0x21 }
theorem hyp_TaskInstructions : clearB .tfmt { plain with dst := 0x20, b := .reg 6 false } wx taskBase tm = true ∧ namedInEngine (engine wx 0) 0x20 = false ∧
    clearB .tfmt { plain with dst := 0x20, b := .reg 6 false } wbusy taskBase tm = true ∧ namedInEngine (engine wbusy (clusterOf taskBase)) 0x20 = true ∧
    clearB .tct { plain with dst := 0x28, a := 4 } wx taskBase tm = true ∧ clearB .tcfg { plain with dst := 0x2C, a := 4 } wx taskBase tm = true ∧
    [128, 64].all (fun n => scratchLocs wx tcs none 0x80000000 n false == some (upFrom (sramLoc 0 0) n)) = true ∧ namedInEngine (engine wx 0) 0x28 = false ∧
    tabLoading wx 3 0x28 = false ∧ [Op.twait, .tflg, .endt].all (clearB · { plain with dst := 7 } wx taskBase tm) = true ∧ engineDone wx tm = true ∧
    clearB .twait plain wbusy taskBase tm = true ∧ engineDone wbusy tm = false ∧ (queue? wx tm.queue).isSome = true ∧ tm.relaxed = [] ∧ allPerformed wx 3 = true ∧
    [wx, wbusy].all (fun s => let a := { tm with inst := some (.twait, plain, 8) }; clearB .twait plain (putAgent s taskBase a) taskBase a) = true ∧
    (let a := { tm with pending := [tdel0] }; a.inst = none ∧ clearB .twait plain (putAgent wx taskBase a) taskBase a = true) := by decide +kernel
/-- ENDT with JOIN 0, misaligned, and naming a counter of 2. -/
def joinSt (j v : Nat) : State := putEngine { wx with mem := writeN [] 0x40000 v 8 } 0 { eng0 with join := BitVec.ofNat 64 j }
def decr : Access := { kind := .rmw, scratch := false, addr := 0x40000, locs := [], bytes := 8, op := 0, data := 2 ^ 64 - 1, width := 3, order := 4, scope := 5, pc := 0x1008 }
theorem hyp_ENDT : [joinSt 0 0, joinSt 0x40001 0, joinSt 0x40000 2].all (fun s => clearB .endt plain s taskBase tm && engineDone s tm && allPerformed s 3) = true ∧
    (let a' := { tm with region := tm.region + 2 }; let s' := putAgent (joinSt 0x40000 2) taskBase a'
     crossNow s' (whoOf taskBase a') decr 0 = true ∧ reached s' (placeOf taskBase a') 0x40000 .rmw fun pa h l t => h == 0 && paPkg pa < 240 && readPhys t pa 8 == 2 &&
       performs (performPhys (invalidateFor t pa none) (whoOf taskBase a') decr a'.seq pa h l) fun u v => v == 2 && readN u.mem pa 8 == 1) ∧
    [joinSt 0 0, joinSt 0x40001 0].all (fun s => let a := { tm with inst := some (.endt, plain, 8) }; clearB .endt plain (putAgent s taskBase a) taskBase a) = true := by decide +kernel
theorem hyp_TASKPUSH : clearB .taskpush { plain with a := 9 } wx taskBase tm = true ∧ clearB .taskpush { plain with a := 8 } wx taskBase tm = true ∧ csetKey wx tm = some tg ∧
    (ctxOf .taskpush { plain with a := 8 } 8 wx taskBase tm).ea % 64 = 1 ∧
    got (readNow (ctxOf .taskpush { plain with a := 9 } 8 wx taskBase tm) 0x40000 64) (fun x => keeps x.1 taskBase tm && open? x.1 (taskQkey tg)) = true := by
  decide +kernel
theorem hyp_Exits : clearB .exit plain w 0 th = true ∧ clearB .exit (FormS.expand plainS .vector .exit) w 0 th = true ∧ clearB .exit plain { w with prods := [tprod] } 0 th = true ∧
    clearB .exit plain wh 2016 hd = true ∧ clearB .exit plain wx taskBase tm = true ∧ clearB .exit (FormS.expand plainS .control .exit) wx taskBase tm = true ∧
    engineDone wx tm = true ∧ w.prods = [] ∧ w.reqs = [] ∧ (w.agents.map (·.1)).Nodup := by decide +kernel
def node : Nat := 4 + 4 * 2 ^ 96 + 2 ^ 448
def nodeSt : State := { wq with mem := writeN [] 0x40000 node 64 }
theorem hyp_StackInstructions : clearB .cgrun { plain with dst := 4, a := 4, b := .reg 6 false, mod := 4 } wq 0 qth = true ∧ clearB .cgrun { plain with a := 14 } wq 0 qth = true ∧
    sigAt wq qth (fun _ => true) = true ∧ open? wq (qkey 1 16) = true ∧ qth.relaxed = [] ∧ allPerformed wq 1 = true ∧ clearB .gsum { plain with a := 4 } nodeSt 0 qth = true ∧
    got (readNow (ctxOf .gsum { plain with a := 4 } 8 nodeSt 0 qth) 0x40000 64) (fun x => keeps x.1 0 qth && open? x.1 (qkey 1 16) && nOp x.2 == 4 &&
      !bitN x.2 22 && !bitN x.2 30 && !nodeMalformed x.2) = true := by decide +kernel
/-- A handler at a page of the home's TLB, and at one of 2 MiB that the tables at 0x100000 map, with its new place and its signal. -/
def hp : Agent := { hd with v := [(4, { val := 0x200000 }), (6, { val := 0x600000 }), (8, { val := 0x40000 })] }
def tabs : Memory := writeN (writeN (writeN (writeN [] 0x100000 (2 ^ 63 + 0x110000) 8) 0x110000 (2 ^ 63 + 0x120000) 8) 0x120000 (2 ^ 63 + 0x130000) 8) 0x130008 (tleaf + 0x400000) 8
def wp : State := { wh with agents := [(0, th), (2016, hp)], mem := tabs, bases := [(0, { roots := [(1, (0x100000, 0))], tlb := [{ asid := 1, set := 0, base := 0x40000, size := 65536, leaf := tleaf + 0x40000, at_ := 0x9000 }] })] }
theorem hyp_PageInstructions : clearB .pginv { plain with a := 8 } wp 2016 hp = true ∧ clearB .pgmig { plain with a := 4, b := .reg 6 false, c := 8 } wp 2016 hp = true ∧
    (classify wp 1 0x40000).any (fun ad => ad.set == 0 && ad.home == 0) = true ∧ (base wp 0).closings.isEmpty = true ∧ (base wp 0).migs = [] ∧ (base wp 0).holds = [] ∧ (base wp 0).logs = [] ∧
    wp.lines = [] ∧ wp.invals = [] ∧ hp.relaxed = [] ∧ allPerformed wp 2 = true ∧ (match checkSignal wp 2016 hp 0x40000 with | .ok _ => true | _ => false) = true ∧
    (classify wp 1 0x200000).any (fun ad => (tlbFind (base wp 0) 1 ad).isNone && walk wp 1 ad == .leaf (tleaf + 0x400000) 0x130008 (2 ^ 21)) = true ∧
    bitsN (tleaf + 0x400000) 61 60 = 0 ∧ leafOk wp 0 (tleaf + 0x400000) (2 ^ 21) = true ∧ 0x600000 % 2 ^ 21 = 0 ∧ mappable 0x600000 (2 ^ 21) = true := by decide +kernel
/-- A handler with a capability in C0 on a thread that stands FROZEN at a breakpoint. -/
def frec : Rec := mkRec w 0 th .breakpoint {}
def fth (b : Bar) : Agent := { th with state := .frozen, record := some frec, bar := b }
def hc : Agent := { hd with caps := [(0, { record := frec, budget := 65536, valid := true })] }
def wc (b : Bar) (l : List (Nat × Agent)) (a : Agent) (fq : List Rec) : State :=
  { wh with agents := (0, fth b) :: l ++ [(2016, a)], ctxs := [(1, { tx with fq := fq })] }
theorem hyp_Capabilities : [Op.capRdr, .capWrr, .capRds, .capSetpc, .capRes, .capStep, .capKill, .capRel, .capArv].all (fun o =>
      clearB o { plain with b := .reg 4 false } (wc .none [] hc []) 2016 hc && clearB o { plain with b := .reg 4 false } (wc .arrived [] hc []) 2016 hc &&
      clearB o { plain with b := .reg 4 false } (wc .none [(1, { th with uid := 4, lin := 1 })] hc []) 2016 hc) = true ∧
    fget? hc.caps 0 = some { record := frec, budget := 65536, valid := true } ∧ frec.target = .agent 0 (fth .none).uid ∧ agent? (wc .none [] hc []) 0 = some (fth .none) ∧
    (fth .none).state = .frozen ∧ hc.state = .ready ∧ frec.kind = 0 ∧ badReg frec 64 0 63 = none ∧ (partyReg (fth .none) 0 63).isSome = true ∧
    (keptLoads (fth .none)).isEmpty = true ∧ (fth .none).refused = [] ∧ performedNear (wc .none [] hc []) 1 = true ∧ hc.relaxed = [] ∧ allPerformed (wc .none [] hc []) 2 = true ∧
    clearB .capNext { plain with dst := 1 } (wc .none [] hc [frec]) 2016 hc = true ∧ clearB .capNext { plain with dst := 1 } (wc .none [] hc []) 2016 hc = true := by decide +kernel

/-- Parties of the events: the thread in other states. -/
def wa (a : Agent) : State := putAgent w 0 a
theorem hyp_PartyEvents : (let a := { th with age := 1024 }; agent? (wa a) 0 = some a ∧ a.state = .ready ∧ a.wait = .none) ∧
    (let a := { th with state := .held, waited := 256 }; agent? (wa a) 0 = some a) ∧ (let a := { th with yielding := true, yielded := 33 }; agent? (wa a) 0 = some a) ∧
    [none, some FCode.pageFaultLoad].all (fun e => [false, true].all fun po => let r := { treq (tacs .load) .performed with fault := e, poison := po }
      req? { w with reqs := [r] } 7 == some r && returns r && r.acc.dst == .v 2 2) = true ∧
    (({ w with prods := [tprod] } : State).prods.find? (·.id == 5) = some tprod ∧ tprod.src = none ∧ agent? w tprod.key = some th ∧ th.uid = tprod.uid ∧ th.state ≠ .exited) ∧
    (let p := { tprod with poison := true }; ({ w with prods := [p] } : State).prods.find? (·.id == 5) = some p ∧ p.src = none ∧ p.dst = .v 3 1) ∧
    (let r := treq (tacc .load) .returned; req? { w with reqs := [r] } 7 = some r ∧ returns r = true ∧ agent? w r.who.key = some th ∧ r.who.uid = th.uid) ∧
    (let a := { th with inst := some (.mbwait, plain, 8), wait := .object 0xFFF0 0 1, waited := 1024 }; agent? (wa a) 0 = some a) ∧
    (let a := { th with inst := some (.qwait, plain, 8), wait := .signal 0x40000 5 1, waited := 1024 }; agent? (wa a) 0 = some a) ∧
    (let a := { tm with inst := some (.mma, mm 0, 8), wait := .engine }; let s := putEngine (putAgent wx taskBase a) 0 { eng0 with want := some opNf }
     agent? s (taskKey 0) = some a ∧ (engine s 0).want = some opNf ∧ (engine s 0).ops.length < 16 ∧ ctxIssues s a.asid = true) := by decide +kernel
/-- A launch entry at its queue's head, legal and with a header of zeros. -/
def lhead (img : Nat) : Head := { num := 0, img := img, who := { whoOf 0 th with engine := true } }
def lq (img : Nat) : Queue := { queue 0 0x10000 0x30000 with state := .active, pushed := 1, head := some (lhead img) }
def tker0 (cls : Nat) : Kernel := { tker with state := .placing, next := 0, hdr := tker.hdr - 2 ^ 82 + cls * 2 ^ 82 }
theorem hyp_KernelEvents_launch : (queue? { w with queues := [(qkey 1 0, lq tker.hdr)] } (qkey 1 0)).any (fun q => q.kind == 0 && (entMeta q 0).marker.isNone) = true ∧ tx.state = .running ∧
    (let k : Kernel := { asid := 1, ident := tx.nextK, hdr := tker.hdr, q := qkey 1 0, entryNo := 0 }; launchReject tx k = 0 ∧ launchReject tx { k with hdr := 0 } = 1) ∧
    (lhead tker.hdr).finished = false ∧ (lhead tker.hdr).marked = false := by decide +kernel
theorem hyp_KernelEvents_placement : (let s := { w with agents := [], groups := [], csets := [], kernels := [(tk, tker0 1)] }; kernel? s tk = some (tker0 1) ∧ (tker0 1).nextGroup = some 0 ∧
      (placeOne s tk 0 0 (tker0 1) tx).isSome = true) ∧
    (let s := { w with agents := [], groups := [], csets := [], kernels := [(tk, tker0 0)] }; (tker0 0).cls = 0 ∧ (tker0 0).next = 0 ∧ (placeAll s tk 0 [0] (tker0 0) tx).isSome = true) := by decide +kernel
theorem hyp_KernelEvents_save : let s := { w with kernels := [(tk, { tker0 2 with state := .running, next := 1 })] }
    group? s tg = some tgrp ∧ weakSavable s tgrp.cset = true ∧
    (let t := saveGroup s tg; let u := releaseCSet t tg; (group? u tg).any (fun g => g.cset == tg) = true ∧ ctxState u 1 = .running ∧ (restoreCSet u tg 0).isSome = true) := by decide +kernel
theorem hyp_KernelEvents_retirement : (let g := { tgrp with state := .retiring }; let s := { w with groups := [(tg, g)], csets := [(tg, { tcs with live := 2 })] }
      group? s tg = some g ∧ groupSettled s tg = true ∧ kernel? s tgrp.kernel = some tker ∧ (cset? s g.cset).any (fun c => c.live == 2) = true) ∧
    (let k := { tker with state := .retiring, gone := 1 }; let s := { w with kernels := [(tk, k)], queues := [(qkey 1 0, lq tker.hdr)] }
      kernel? s tk = some k ∧ queue? s k.q = some (lq tker.hdr) ∧ (lhead tker.hdr).num = k.entryNo ∧ k.groups ≤ k.gone ∧ queuesRun s 1 = true ∧ (lq tker.hdr).state ≠ .faulted ∧ k.signal = 0) ∧
    (let k := { tker with state := .retiring, gone := 1, hdr := tker.hdr + 0x40000 * 2 ^ 384 }; let s := { w with kernels := [(tk, k)], queues := [(qkey 1 0, lq tker.hdr)] }
      k.signal = 0x40000 ∧ (match addSignal s (lhead tker.hdr).who k.signal 1 with | .done _ _ => true | _ => false) = true) ∧
    (let a := { th with wait := .take (lkey tk 0), inst := some (.wltake, plain, 8) }; let s := wa a
      quietDue s tk tker = true ∧ agentOf s a.uid = some (0, a) ∧ s.agents.filter (fun p => p.2.kind == .thread && p.2.kernel == tk && (match p.2.wait with | .take _ => true | _ => false)) = [(0, a)]) := by decide +kernel
/-- A COPY queue with an entry of one box, before its start, running, and finished; and one whose image is of zeros. -/
def cimg : Nat := cpyImg 0x60000 0x50000 64 0 0
def cq (d : Nat) : Queue := { queue 8 0x10200 0x31000 with state := .active, pushed := 1, ents := [(0, { issuer := some (0, 1) })], doneN := d }
def chead (f : Bool) : Head := { num := 0, img := cimg, who := { whoOf 0 th with engine := true, place := { die := none } }, finished := f }
def wcq (q : Queue) (img : Nat) : State := { w with queues := [(qkey 1 8, q)], mem := writeN [] 0x31000 img 64 }
def moved (m : Move) (p : State → Bool) : Bool := match m with | .done t _ _ _ => p t | _ => false
theorem hyp_QueueEvents : startable (wcq (cq 0) cimg) (cq 0) = true ∧ (cq 0).kind = 1 ∧ (startHead (wcq (cq 0) cimg) (qkey 1 8) (cq 0)).isSome = true ∧ copyMalformed 0 false = true ∧
    startable { w with queues := [(qkey 1 0, { lq 0 with head := none })] } { lq 0 with head := none } = true ∧ (startHead w (qkey 1 0) { lq 0 with head := none }).isSome = true ∧
    (let q := { cq 0 with head := some (chead false) }; let s := wcq q cimg
     boxTurn s (qkey 1 8) 0 = true ∧ moved (moveRows s (chead false).who (endpoint s (entMeta q 0)) cimg (boxRows cimg 0)).1 (fun t => queue? t (qkey 1 8) == some q) = true) ∧
    (let q := { cq 0 with head := some (chead true) }; let s := wcq q cimg
     queuesRun s 1 = true ∧ marking s (chead true).who.uid = false ∧ ({ chead true with homes := [0] } : Head).homes ≠ [] ∧ (chead true).homes = [] ∧
     (match completionAction s q (chead true) with | .done t c => (queue? t (qkey 1 8)).isSome && c == 0 | _ => false) = true) := by decide +kernel
def ttrig (st : TrigState) : Trig := { id := 3, asid := 1, tasid := 1, home := 0, signal := 0x40000, thr := 1, image := 0x60000, q := qkey 1 0, issuer := some (0, 1), state := st }
theorem hyp_QueueEvents_marker : (let q := { cq 0 with ents := [(0, { issuer := some (0, 1), marker := some (qkey 1 0, 0) })] }; let s := wcq q cimg
      startable s q = true ∧ (startHead s (qkey 1 8) q).isSome = true ∧ q.kind ≠ 4 ∧ (entMeta q 0).marker ≠ none) ∧
    (let t := { ttrig .room with q := qkey 1 8 }; open? { wq with trigs := [t] } t.q = true ∧ (queue? wq t.q).any (·.kind == 1) = true) ∧
    (loadQueue { w with mem := writeN [] 0x10000 (0x30000 + 4 * 2 ^ 64 + 2 ^ 78) 64 } 1 0).isSome = true ∧ queue? w (qkey 1 0) = none ∧
    (let q := { queue 0 0x10000 0x30000 with state := .saved, kept := .idle }; (queue? { wq with queues := [(qkey 1 0, q)] } (qkey 1 0)).any (fun x => x.state == .saved && x.kept == .idle) = true) := by
  decide +kernel
theorem hyp_QueueEvents_more : [TrigState.fired, .room].all (fun st => ({ wq with trigs := [ttrig st] } : State).trigs.find? (·.id == 3) == some (ttrig st)) = true ∧ queuesRun wq 1 = true ∧
    open? wq (ttrig .room).q = true ∧ (queue 0 0x10000 0x30000).kind ≠ 1 ∧
    (let q := { lq 0 with ents := [(0, { marker := some (qkey 1 8, 0) })] }; (entMeta q 0).marker = some (qkey 1 8, 0) ∧ (queue? wq (qkey 1 8)).all (fun b => 0 ≤ b.doneN) = true) ∧
    -- a doorbell one past PUSHED, one at a full ring, and one past it
    (let s := { wq with host := { stage := 4, ready := true } }
     s.host.ready = true ∧ refusedBy s 0xFF (255 * 2 ^ 48 + (0x1000000 + 512 * 1 + 8 * 0)) .store = false ∧ ctxState s 1 = .running ∧
     (queue? s (qkey 1 0)).any (fun q => q.pushed == 0 && q.doneN == 0 && q.cap == 16) = true) ∧
    ({ lq 0 with state := .disabled } : Queue).state = .disabled := by decide +kernel
/-- A task record without input tiles, energy 0, CODE 0x1000; its queue before its start and as a waiting head on a free cluster. -/
def rimg : Nat := 0x1000
def tq0 : Queue := { tq with ents := [(0, { issuer := some (0, 1) })] }
def wtq (q : Queue) : State := { w with queues := [(taskQkey tg, q)], mem := writeN [] 0x21000 rimg 64 }
def thead : Head := { num := 0, img := rimg, who := { whoOf 0 th with engine := true } }
theorem hyp_TaskEvents : startable (wtq tq0) tq0 = true ∧ tq0.kind = 4 ∧ (entMeta tq0 0).flushed = false ∧ (startHead (wtq tq0) (taskQkey tg) tq0).any (fun p => p.2.img == rimg && cset? p.1 tg == some tcs && (entMeta tq0 p.2.num).marker.isNone && taskFault p.1 tcs p.2.img == 0) = true ∧
    lateTask (wtq tq0) tcs.cluster = false ∧ (let c := { tcs with retired := true }; let s := { wtq tq0 with csets := [(tg, c)] }
      startable s tq0 = true ∧ lateTask s c.cluster = false ∧ (startHead s (taskQkey tg) tq0).any (fun p => cset? p.1 tg == some c) = true) ∧
    (startHead (wtq tq0) (taskQkey tg) tq0).any (fun p => taskFault p.1 tcs (rimg + 1) != 0) = true ∧
    (let q := { tq0 with head := some thead }; chosen (wtq q) 0 = some (taskQkey tg, q, thead, tcs) ∧ agent? (wtq q) (taskKey 0) = none) := by decide +kernel
def opAt (opc : Nat) : SeqRec := { opNf with opc := opc, af := 0x30, fmw := 0x11 }
theorem hyp_TaskEvents_engine : [0xC3, 0xC4, 0xC8, 0xC9].all (fun o => let s := putEngine wx 0 { eng0 with ops := [opAt o] }
      kstepDue s 0 && !(engine s 0).barred && (csetOf s tm).isSome) = true ∧ (opAt 0xC4).isMul = true ∧
    (let q := { tq0 with conts := [(rimg, [], 0)] }; q.full = false ∧ q.state ≠ .saved ∧ queuesRun (wtq q) 1 = true) := by decide +kernel
/-- A MASH queue with an entry at its head, on a die whose region the context owns with one way. -/
def mhead (img : Nat) (mk : Bool) : Head := { num := 0, img := img, who := { whoOf 0 th with engine := true, place := { die := some 0 } }, marked := mk }
def mq (img : Nat) (mk : Bool) : Queue := { queue 24 0x10600 0x33000 with state := .active, pushed := 1, ents := [(0, { issuer := some (0, 1) })], head := some (mhead img mk) }
def wm' (img : Nat) (mk : Bool) (m : Mash) : State := { w with queues := [(qkey 1 24, mq img mk)], dies := [(0, { mash := m })] }
def own (st : Nat) : Mash := { state := st, owned := true, owner := 1, ways := 1 }
def xfer (x : Xfer) (p : State → Mash → Bool) : Bool := match x with | .done t y false _ => p t y | _ => false
theorem hyp_MashEvents : (mashHead (wm' (0x90 + 12 * 2 ^ 128) false {}) (qkey 1 24)).any (fun x => x.2.2.op == 0x90 && x.2.2.n == 12 && x.2.2.n == tx.mashq) = true ∧
    markedMash (wm' (0x90 + 2 ^ 128) true { own 1 with ways := 1 }) 0 0x90 = some (qkey 1 24) ∧
    [0x93, 0x9C].all (fun op => (mashHead (wm' op false (own 2)) (qkey 1 24)).any fun x => x.2.2.op == op) = true ∧
    (mashHead (wm' 0x9F false (own 3)) (qkey 1 24)).any (fun x => x.2.2.op == 0x9F) = true := by decide +kernel
/-- A region that is being carved, for an entry at its queue's head and for one that has gone; one with a poisoned segment; and one being given
back. -/
theorem hyp_MashEvents_ends : (let s := wm' 0x90 true (own 1); (dieSt s 0).mash.state = 1 ∧ markedMash s 0 0x90 = some (qkey 1 24) ∧
      (queue? s (qkey 1 24)).any (·.head.isSome) = true) ∧
    (let s : State := { wm' 0x90 true (own 1) with queues := [] }; (dieSt s 0).mash.state = 1 ∧ markedMash s 0 0x90 = none) ∧ (mashHead (wm' 0x93 false { own 2 with poison := [0] }) (qkey 1 24)).isSome = true ∧
    (mashHead (wm' 0x9F false { own 2 with poison := [0] }) (qkey 1 24)).isSome = true ∧ (dieSt (wm' 0 false { state := 4 }) 0).mash.state = 4 := by decide +kernel
theorem hyp_MashEvents_transfer : let i (op : Nat) := op + 2 ^ 43 + 0x40000 * 2 ^ 64; let s (op : Nat) := wm' (i op) false (own 2); let e (op : Nat) := mashEnt (i op)
    (mashHead (s 0x91) (qkey 1 24)).any (fun x => x.2.2.op == 0x91) = true ∧
    [(0x91, loadLanes), (0x92, storeLanes), (0x9D, sumLanes), (0x9E, compactLanes)].all (fun p => xfer (p.2 (s p.1) (mhead 0 false).who (e p.1) (own 3)) fun t y => (queue? t (qkey 1 24)).isSome && y.poison.isEmpty) = true := by
  decide +kernel

/-- A STACK queue whose head runs nodes of LEN 128: a node entry of each operation, a granted SEND, a RECV; and an entry that has not started. -/
def nd (op : Nat) : Nat := op + 128 * 2 ^ 96 + (if op = 5 then 0x68000 else 0x60000) * 2 ^ 128 + 0x50000 * 2 ^ 192 + 0x68000 * 2 ^ 256 + 0x70000 * 2 ^ 320 + 2 ^ 448
def shead (r : Option GRun) (img : Nat) : Head := { num := 0, img := img, who := { whoOf 0 th with engine := true, place := { die := none } }, run := r }
def sq (r : Option GRun) (img : Nat) : Queue := { queue 16 0x10400 0x32000 with state := .active, pushed := 1, ents := [(0, { issuer := some (0, 1) })], head := some (shead r img) }
def ws (r : Option GRun) (img : Nat) (ps : List Post) : State := { w with queues := [(qkey 1 16, sq r img)], bases := [(0, { tb with posts := ps })] }
def one (op : Nat) : GRun := { nodes := [(0, nd op)], single := op ≤ 5, granted := if op = 6 then [0] else [] }
def tpost (n : Nat) : Post := { q := qkey 1 16, node := n, num := 0, asid := 1, comm := 0, tag := 0, chunk := 0 }
def tbeat : Beat := { id := 4, asid := 1, stack := 0, comm := 0, tag := 0, chunk := 0, data := List.replicate 128 0, clk := [] }
theorem hyp_StackEvents : (stackHead (ws none (nd 1) []) (qkey 1 16)).isSome = true ∧ nodeMalformed (nd 1) = false ∧ (stackHead (ws none 0 []) (qkey 1 16)).isSome = true ∧
    [1, 2, 3, 4, 5, 6].all (fun op => (running? (ws (some (one op)) 0 []) (qkey 1 16)).isSome && nOp (nd op) == op &&
      (enginePick (ws (some (one op)) 0 []) 0).any fun p => p.1.q == qkey 1 16 && p.1.n == 0) = true := by decide +kernel
theorem hyp_StackEvents_landing : (postRecv (ws (some (one 7)) 0 []) (qkey 1 16) 0).isSome = true ∧
    (grant (ws (some { one 6 with granted := [] }) 0 [tpost 1]) (qkey 1 16) 0).isSome = true ∧
    (land { ws (some (one 7)) 0 [tpost 0] with beats := [tbeat] } tbeat).isSome = true ∧
    ([[], [0]].all fun homes => let r := { one 1 with ran := [(0, { clk := [], uid := 5, homes := homes })] }; let s := ws (some r) 0 []
     (running? s (qkey 1 16)).any (fun x => (fget? x.g.ran 0).any (·.homes == homes) && fget? x.g.nodes 0 == some (nd 1)) && !marking s 5) = true ∧
    queuesRun (ws none 0 []) 1 = true ∧ runDone (ws (some { one 1 with done := [0] }) 0 []) (qkey 1 16) = true := by decide +kernel
/-- A RECV that is posted, with its chunk in the spill store, and a chunk with no RECV and no room at its receiver. -/
def tspill : Spilled := { asid := 1, comm := 0, tag := 0, chunk := 0, len := 128, addr := 0x78000, clk := [] }
theorem hyp_StackEvents_spilled : (let s : State := { ws (some (one 7)) 0 [] with bases := [(0, { tb with posts := [tpost 0], spills := [tspill] })] }
      postRecv s (qkey 1 16) 0 = none ∧ (running? s (qkey 1 16)).isSome = true ∧ (enginePick s 0).any (fun p => p.1.q == qkey 1 16 && p.1.n == 0) = true) ∧
    land { ws (some (one 7)) 0 [] with beats := [tbeat] } tbeat = none := by decide +kernel
/-- A SEND of another package's stack and the grant of its engine; a chunk with a beat to send, one that has left for another package, and one
that arrives from there for a posted RECV. -/
def away : GRun := { one 6 with nodes := [(0, nd 6 + 2 ^ 56)], granted := [] }
def inn : Arrival := { stack := 0, asid := 1, comm := 0, tag := 0, chunk := 0, data := List.replicate 128 0 }
theorem hyp_StackEvents_packages : (let s := ws (some away) 0 []; grant s (qkey 1 16) 0 = none ∧ (outsideGrant s (qkey 1 16) 0).isSome = true) ∧
    (let p := (beatPackets w 0 0 15 0 4 tbeat.data).filter (!·.path.isEmpty); let b := { tbeat with stack := 15, todo := p }; let s : State := { w with beats := [b] }
     p.length = 1 ∧ s.fabric = [] ∧ p.all (roomAt s) = true ∧ sourceStopped s 0 true = false) ∧ ({ tbeat with pkg := 5 } : Beat).pkg ≠ w.package ∧
    (let s := { ws (some (one 7)) 0 [tpost 0] with nextId := 1 }
     landingGrant s 0 { asid := 1, comm := 0, tag := 0, chunk := 0 } 128 = some none ∧ inn.data.length = 128 ∧
     (land { s with beats := [{ tbeat with id := 0 }] } { tbeat with id := 0 }).isSome = true) := by decide +kernel
/-- A migration with one line left, and with none while its context is SAVED. -/
def tmig (n : Nat) : Mig := { asid := 1, tasid := 1, base := 0x40000, size := 65536, old := 0x40000, new := 0x80000, copied := n, leafAt := 0x9000, signal := 0 }
def wmig (n : Nat) (st : CState) : State := { w with bases := [(0, { tb with migs := [tmig n] })], ctxs := [(1, { tx with state := st })] }
def l2rec : Rec := { mkRec wh 2016 hd .misaligned {} with asid := 1 }
def fhd : Agent := { hd with state := .frozen, record := some l2rec }
theorem hyp_PageAndFrozenEvents : mig? (wmig 511 .running) 0 0 = some (tmig 511) ∧ 128 * 511 < 65536 ∧ lineBusy (wmig 511 .running) (0x40000 + 128 * 511) = false ∧
    sourceStopped (wmig 511 .running) 0 false = false ∧ queuesRun (wmig 512 .running) 1 = true ∧
    (let m := { tmig 512 with switched := true, signal := 0x50000 }; let s : State := { wmig 512 .running with bases := [(0, { tb with migs := [m] })] }
     let x := migWho (putBase s 0 { base s 0 with migs := [] }) 0 m
     mig? s 0 0 = some m ∧ (match addSignal x.1 x.2 m.signal.toNat 1 with | .done _ _ => true | _ => false) = true) ∧ mig? (wmig 512 .saved) 0 0 = some (tmig 512) ∧ 65536 ≤ 128 * 512 ∧
    queuesRun (wmig 512 .saved) 1 = false ∧
    (let c := { tx with fq := List.replicate 15 frec, parked := [frec] }; ctx? { w with ctxs := [(1, c)] } 1 = some c ∧ c.recordsMove = true ∧ c.fq.length < 2 ^ c.fqlog ∧ 2 ^ c.fqlog = 16) ∧
    (let c := { tx with fq := [frec] }; let s := { w with ctxs := [(1, c)] }; c.hentry ≠ 0 ∧ (unserved s 1 c).bind (poolSlot s c) = some 2016) ∧
    (let a := { hd with caps := [(3, { record := frec, budget := 0, valid := true })] }; agent? (putAgent wh 2016 a) 2016 = some a ∧
      (a.caps.find? (fun p => p.2.valid && p.2.budget == 0)).isSome = true) ∧
    (let s := { wh with agents := [(0, th), (2016, fhd)], dies := [(0, { level2 := [l2rec] })] }
     (dieSt s 0).level2.find? (fun r => (ctx? s r.asid).all (·.recordsMove)) = some l2rec ∧ l2rec.target = .agent 2016 fhd.uid ∧ agent? s 2016 = some fhd ∧ fhd.state = .frozen ∧
     l2rec.code ≠ .handlerBudget) ∧
    (let r := { l2rec with code := .handlerBudget }; let s := { wh with agents := [(0, th), (2016, { fhd with record := some r })], dies := [(0, { level2 := [r] })] }
     (dieSt s 0).level2.find? (fun r => (ctx? s r.asid).all (·.recordsMove)) = some r ∧ ctxState s r.asid ≠ .cutting) := by
  decide +kernel
/-- The host's registers when bring-up is over. -/
def up : HostRegs := { stage := 4, ready := true }
/-- A descriptor of context 2 that passes R351 and R352, with its root table; memory without it holds one of zeros, which does not. -/
def gdesc : Nat := 2 + 2 ^ 16 + 2 ^ 24 + 2 * 2 ^ 32 + 4 * 2 ^ 49 + 4 * 2 ^ 58 + 0x10000 * 2 ^ 192 + 0x10000 * 2 ^ 256 + 0x8000 * 2 ^ 384 + 0x10000000 * 2 ^ 448 + 97 * 2 ^ 20 * 2 ^ 512 + 2 ^ 576
def rootTab : Nat := ((upFrom 0 16).map fun st => (st * 2 ^ 44 + 0x2000) * 2 ^ (128 * st) + (st * 2 ^ 44 + 0x4000) * 2 ^ (128 * st + 64)).sum
def wb (d : Nat) : State := { w with mem := writeN (writeN [] 0x8000 rootTab 256) 0x10000 d 128, host := { up with ctxdesc := 0x10000 } }
def ctxIn (st : CState) (cut : Option Cut) : Ctx := { tx with state := st, cut := cut }
def wctx (st : CState) (cut : Option Cut) : State := { w with host := up, ctxs := [(1, ctxIn st cut)] }
theorem hyp_ContextEvents_build : ctx? (wb 0) 2 = none ∧ descBad (wb 0) 2 { desc := readPhys (wb 0) 0x10000 128 } = true ∧ ctx? (wb gdesc) 2 = none ∧
    descBad (wb gdesc) 2 { desc := readPhys (wb gdesc) 0x10000 128 } = false ∧
    (wb 0).host.ready = true ∧ (wb 0).host.fatal = false ∧ (wb 0).host.busy = false ∧ w.host.ready = false := by decide +kernel
/-- A SAVED context with a queue to restore; its save area struck, and refused to the masters that read it. -/
def wsaved : State := { wctx .saved none with queues := [(qkey 1 8, { queue 8 0x10200 0x31000 with state := .saved })] }
def ctxSaved : Ctx := ctxIn .saved none
theorem hyp_ContextEvents_saved : canStart wsaved 1 ctxSaved = true ∧ saveBad wsaved ctxSaved = false ∧
    (saveImage wsaved 1 ctxSaved).1.any (fun p => areaRefused wsaved (ctxSaved.savePa + p.1) p.2.1 false) = false ∧
    (let s := { wsaved with denied := [{ master := 0, lo := 0, hi := 2 ^ 44, r := true, w := true, x := false, a := false }] }
     saveBad s ctxSaved = false ∧ (saveImage s 1 ctxSaved).1.any (fun p => areaRefused s (ctxSaved.savePa + p.1) p.2.1 false) = true) ∧
    (let c := { ctxSaved with desc := gdesc }; saveBad { wsaved with poison := [c.savePa / 4] } c = true) ∧
    (startWaiting { wsaved with host := { up with busy := true, reqOp := 2, reqAsid := 1 } } 1).any (·.state == .saved) = true := by decide +kernel
theorem hyp_ContextEvents : (let c2 : Ctx := { desc := gdesc, state := .runnable }; let s := { w with host := up, ctxs := [(1, tx), (2, c2)] }
      canStart s 2 c2 = false ∧ (∀ d ∈ diesOf c2.diemask, (dieSt s d).pstate ≠ 3) ∧ ctx? s 2 = some c2) ∧
    canStart (wctx .runnable none) 1 (ctxIn .runnable none) = true ∧ (∀ d ∈ diesOf tx.diemask, (dieSt (wctx .runnable none) d).pstate ≠ 3) ∧
    (let h : HostRegs := { up with busy := true, reqOp := 2, reqAsid := 1 }
     (startWaiting { wctx .runnable none with host := h } 1).any (·.state == .runnable) = true ∧
     (let s := { wctx .runnable none with host := h, dies := [(0, { pstate := 3 })] }; (startWaiting s 1).isSome = true ∧ ∃ d ∈ diesOf tx.diemask, (dieSt s d).pstate = 3)) ∧
    [CState.running, .cutting, .halted, .built, .runnable, .saved, .error].all (fun st => ctx? (wctx st none) 1 == some (ctxIn st none)) = true ∧ tx.tslice = 1 ∧
    (up.ready = true ∧ up.fatal = false ∧ up.busy = false) ∧ ctxState (wctx .retired none) 1 = .retired ∧
    freeDue (wctx .retired none) 1 = true ∧ ctx? (wctx .cutting (some { choices := [(tg, .drain)] })) 1 = some (ctxIn .cutting (some { choices := [(tg, .drain)] })) ∧
    (let s := { wctx .cutting (some {}) with agents := [(0, th), (2016, hc)] }
     s.agents.filter (fun p => p.2.kind == .handler && p.2.asid == 1 && p.2.state != .frozen) = [(2016, hc)] ∧ (hc.caps.find? (fun p => p.2.valid)).isSome = true) ∧
    (let s := wctx .cutting (some {}); cutWaits s 1 {} = false ∧ tx.npkg = 1 ∧ forwards (setReady s 1) 1 = false ∧ settled (setReady s 1) 1 = true ∧ forwardReady s 1 = true) ∧
    [Event.tsliceExpiry 1, .contextPreempt 1].all (fun e => ({ w with agenda := [e, .contextHalt 1] } : State).agenda == [e, .contextHalt 1]) = true := by decide +kernel
/-- A mast link and a port as they stand at the ends of their spare lanes, and in each other state. -/
def lk (n : Nat) (l : Link) : State := { w with links := [(n, l)] }
theorem hyp_LinkEvents_changes : (w.changes.contains (.mastRemap 3 false) = false ∧ bitN (aliveNow w) 3 = true ∧ setBitsN (aliveNow w) 3 3 0 ≠ 0) ∧
    (let s : State := { w with changes := [.mastRemap 3 false] }; s.changes.head? = some (.mastRemap 3 false) ∧ drained s none = true ∧ bitN (aliveNow s) 3 ≠ false) ∧
    (let s : State := { w with bases := [(0, { tb with remap := BitVec.ofNat 32 (remapOf 7) })], changes := [.mastRemap 3 true] };
      s.changes.head? = some (.mastRemap 3 true) ∧ drained s none = true ∧ bitN (aliveNow s) 3 ≠ true ∧ mastWhole s 3 = true) ∧
    w.changes.contains (.routeChange 15 239 0) = false ∧ routeQuiet w 15 239 0 = true ∧ routeQuiet w 15 239 0x8005 = false ∧ (239 : Nat) ≠ w.package ∧
    drained { w with changes := [.routeChange 15 239 0x8005] } (some 239) = true := by decide +kernel
def spareOut (l : Lanes) : Link := { state := .degraded, lanes := [(0, l)] }
theorem hyp_LinkEvents : (link (lk 0 (spareOut { data := 1 })) 0).state = .degraded ∧ (link (lk 192 (spareOut { data := 2, ctl := 1 })) 192).state = .degraded ∧ bundles 192 = 2 ∧
    bundles 0 = 1 ∧ ((link (lk 320 { state := .up }) 320).state = .up ∧ (link (lk 383 (spareOut { data := 1 })) 383).state = .degraded) ∧
    (let s : State := { lk 192 { state := .up } with fabric := sent w (tacc .load) }; (replayBuffer s 192).length = 1) ∧ replayBuffer (lk 0 { state := .up }) 0 = [] ∧
    (Flit.ofBits 0).ok = true ∧ (Flit.ofBits (BitVec.allOnes 256)).ok = false ∧
    (link (lk 383 {}) 383).state = .down ∧ (link (lk 0 { state := .training }) 0).state = .training ∧ (link (lk 0 { state := .fenced }) 0).state = .fenced ∧ (link (lk 0 { state := .up }) 0).state = .up ∧
    bitN (aliveNow w) 3 = true ∧ setBitsN (aliveNow w) 3 3 0 = 7 ∧ (5 : Nat) ≠ w.package := by decide +kernel
theorem hyp_HostEvents_units : ((w.host.ready && !w.host.fatal) = false ∧ (up.ready && !up.fatal) = true) ∧
    (let s := { w with agents := [], groups := [], kernels := [] }; let m (x : Mash) : State := { s with dies := [(0, { pstate := 1, mash := x })] }
     (resident (m { state := 1 }) 0 = false ∧ (dieSt (m { state := 1 }) 0).mash.state ≠ 0) ∧ (resident (m (own 0)) 0 = false ∧ (dieSt (m (own 0)) 0).mash.owned = true)) ∧
    (w.dies.filter fun x => x.2.want.isSome) = [] ∧ (1 : Nat) < th.nregs ∧
    ((link (lk 5 { state := .up }) 5).state = .up ∧ (link (lk 5 { state := .up }) 5).lanes = [] ∧ (link (lk 5 { state := .fenced }) 5).state = .fenced) ∧
    linkKind 0 = some (.mast 0) ∧ bitN (aliveNow w) 3 = true ∧ bitsN (15 * 2 ^ 44 + 8) 47 44 = 15 ∧
    (let s := { w with denied := [{ master := 0x7F, lo := 0, hi := 2 ^ 56, r := true, w := true, x := false, a := false }] }; refusedBy s 0x7F 0x40000 .store = true ∧ refusedBy s 0x7F (255 * 2 ^ 48 + 0x10) .store = true) ∧
    refusedBy w 0x7F (255 * 2 ^ 48 + 0x10) .store = false ∧ (bareRecords w).all (fun x => !rangesMeet x.2.2 64 0x17FFFFFFF8 8) = true := by decide +kernel
theorem hyp_HostEvents : (dieSt w 0).pstate = 1 ∧ resident w 0 = true ∧ (let s := { w with agents := [], groups := [], kernels := [] }
      resident s 0 = false ∧ (dieSt s 0).mash.state = 0 ∧ ownsList s 0 = false) ∧
    (dieSt { w with dies := [(0, { pstate := 3 })] } 0).pstate = 3 ∧ (dieSt w 1).pstate = 0 ∧ (dieSt { w with dies := [(0, { want := some 2 })] } 0).want = some 2 ∧
    paPkg (240 * 2 ^ 48) = 240 ∧ paPkg (241 * 2 ^ 48) = 241 ∧ w.host.fatal = false ∧ ({ ready := true } : HostRegs).ready = true ∧ w.host.busy = false ∧ 0x10 % 2 ^ 44 = 0x10 ∧
    w.ctxs = [(1, tx)] ∧ refusedBy w 0x7F 0x40000 .store = false ∧ w.queues = [] ∧ paPkg 0x17FFFFFFF8 = w.package ∧ 0x17FFFFFFF8 % 2 ^ 44 + 8 = 0x1800000000 := by decide +kernel

/-- A party that stands at a NOP, at words of no instruction, on a page that may not be read and on an absent one, with no event due. -/
def wrun (mem : Memory) (b : Base) : State := { w with mem := mem, bases := [(0, b)], host := up }
def fetches (s : State) (p : FetchedAll → Bool) : Bool :=
  let t := enterBlocks (releaseHeld (boundaryMarkers s))
  (nextEvent s).isNone && (match pick t with | some (_, (k, a) :: _) => k == 0 && p (fetchAt t k a) | _ => false)
theorem hyp_StepRunsDecoded : fetches (wrun (writeN [] 0x1008 7 4) tb) (fun x => match x with | .words ws _ => decode .vector ws == .ok (.nopS plainS) 1 | _ => false) = true ∧
    fetches (wrun (writeN [] 0x1008 0x49400038 8) tb) (fun x => match x with | .words ws _ => decode .vector ws == .illegal | _ => false) = true ∧
    fetches (wrun [] {}) (fun x => match x with | .prot _ => true | _ => false) = true ∧
    fetches (wrun [] { roots := [(1, (0x100000, 0))] }) (fun x => match x with | .absent _ => true | _ => false) = true := by decide +kernel
theorem hyp_DecodeEncode : (Instr.iadd plain).wellFormed .vector = true ∧ (Instr.tzero { plain with dst := 0x30 }).wellFormed .control = true ∧
    decode .vector [7] = .ok (.nopS plainS) 1 := by decide +kernel
/-- The memory of reset is in canonical form, and from there a step goes on. -/
theorem hyp_MemoryFormKept : Memory.wf State.reset.mem = true ∧ Memory.wf State.reset.sram = true ∧ (match step State.reset with | .next _ => true | _ => false) = true := by decide +kernel
theorem hyp_StepGoesOn : (match step { State.reset with host := { fatal := true } } with | .fault .packageStopped => true | _ => false) = true := by decide +kernel

end Sys2Proof.Machine.Tests
end

section
/-!
SUPPORT. What every event leaves of a state, and what it leaves of the maps, the lines and the error log: the layer under the proofs about events.
-/
namespace Sys2Proof.Machine

/-! ### Lists and maps -/

theorem mem_upFrom {a n j : Nat} : j ∈ upFrom a n ↔ a ≤ j ∧ j < a + n := by
  induction n generalizing a with
  | zero => simp [upFrom]
  | succ n ih => simp only [upFrom, List.mem_cons, ih]; omega
theorem nodup_upFrom (a n : Nat) : (upFrom a n).Nodup := by
  induction n generalizing a with
  | zero => exact List.nodup_nil
  | succ n ih => exact List.nodup_cons.mpr ⟨fun h => by have := (mem_upFrom.mp h).1; omega, ih _⟩

theorem mem_lput {l : List Nat} {n j : Nat} : j ∈ lput l n ↔ j = n ∨ j ∈ l := by
  induction l with
  | nil => simp [lput]
  | cons k t ih =>
    simp only [lput, beq_iff_eq]
    by_cases hlt : n < k
    · simp [hlt]
    · by_cases heq : n = k
      · simp [heq]
      · simp only [hlt, heq, if_false, List.mem_cons, ih]; tauto
theorem mem_foldl_lput {ws l : List Nat} {j : Nat} : j ∈ ws.foldl lput l ↔ j ∈ ws ∨ j ∈ l := by
  induction ws generalizing l with
  | nil => simp
  | cons w ws ih => simp only [List.foldl_cons, ih, mem_lput, List.mem_cons]; tauto

section
variable {α : Type}

/-- What a map gives at a key is one of its entries. -/
theorem mem_of_fget? {m : FMap α} {n : Nat} {x : α} (h : fget? m n = some x) : (n, x) ∈ m := by
  induction m with
  | nil => cases h
  | cons p t ih =>
    obtain ⟨k, v⟩ := p
    simp only [fget?, beq_iff_eq] at h
    split at h
    · rename_i hk; cases h; subst hk; exact List.mem_cons_self
    · split at h
      · cases h
      · exact List.mem_cons_of_mem _ (ih h)

/-- A table with an entry for each number of a range, read at one of them. -/
theorem fgetD_table (f : Nat → α) (d : α) {a n j : Nat} (h : a ≤ j ∧ j < a + n) : fgetD ((upFrom a n).map fun i => (i, f i)) j d = f j := by
  induction n generalizing a with
  | zero => omega
  | succ n ih =>
    by_cases hj : a = j
    · subst hj; simp [upFrom, fgetD, fget?]
    · have hlt : ¬ j < a := by omega
      have hrest := ih (a := a + 1) (by omega)
      simpa [upFrom, fgetD, fget?, hj, hlt] using hrest

/-- Reading a map after writing one key, at any key. -/
theorem fgetD_fput (m : FMap α) (n j : Nat) (x d : α) : fgetD (fput m n x) j d = if j = n then x else fgetD m j d := by
  split
  · next h => rw [h, fgetD_fput_same]
  · next h => exact fgetD_fput_ne m x d h

/-- A relation between states that is reflexive and transitive, and that each step of a fold keeps, holds across the fold. -/
theorem foldl_keeps {R : State → State → Prop} (refl : ∀ s, R s s) (trans : ∀ {s t u}, R s t → R t u → R s u)
    {f : State → α → State} (hf : ∀ s x, R s (f s x)) : ∀ (l : List α) (s : State), R s (l.foldl f s)
  | [], s => refl s
  | x :: l, s => trans (hf s x) (foldl_keeps refl trans hf l (f s x))

end

theorem cluster_putCluster (s : State) (n j : Nat) (x : Cluster) : cluster (putCluster s n x) j = if j = n then x else cluster s j := fgetD_fput ..
theorem base_putBase (s : State) (n j : Nat) (x : Base) : base (putBase s n x) j = if j = n then x else base s j := fgetD_fput ..
theorem link_putLink (s : State) (n j : Nat) (x : Link) : link (putLink s n x) j = if j = n then x else link s j := fgetD_fput ..

/-- A byte of memory of which only some addresses are kept. -/
theorem Memory.get_filter {m : Memory} (h : Memory.wf m = true) (p : Nat → Bool) (a : Nat) :
    Memory.get (m.filter fun c => p c.1) a = if p a then Memory.get m a else 0 := by
  induction m with
  | nil => simp [Memory.get]
  | cons c t ih =>
    obtain ⟨k, v⟩ := c
    obtain ⟨-, ha, ht⟩ := Memory.wf_cons.mp h
    have hrest := ih ht
    by_cases hka : k = a
    · subst hka
      by_cases hp : p k = true
      · simp [hp, Memory.get]
      · simp only [hp, List.filter_cons, if_false, hrest, Bool.false_eq_true]
    · by_cases hlt : a < k
      · have hzero : Memory.get t a = 0 := Memory.get_above ha (by omega)
        by_cases hp : p k = true <;> simp [hp, Memory.get, hka, hlt, hrest, hzero]
      · by_cases hp : p k = true <;> simp [hp, Memory.get, hka, hlt, hrest]

/-! ### After an event -/

/-- A state looked at again after an event: its triggers may have fired, and parties may wait for something else or nothing. -/
def State.looked (t : State) (w : Agent → Wait) (tr : List Trig) : State :=
  { t with agents := t.agents.map fun p => (p.1, { p.2 with wait := w p.2 }), trigs := tr }

section
variable (t : State) (w : Agent → Wait) (tr : List Trig)

@[simp] theorem looked_mem : (t.looked w tr).mem = t.mem := rfl
@[simp] theorem looked_poison : (t.looked w tr).poison = t.poison := rfl
@[simp] theorem looked_lines : (t.looked w tr).lines = t.lines := rfl
@[simp] theorem looked_dies : (t.looked w tr).dies = t.dies := rfl
@[simp] theorem looked_links : (t.looked w tr).links = t.links := rfl
@[simp] theorem looked_agenda : (t.looked w tr).agenda = t.agenda := rfl
@[simp] theorem looked_host : (t.looked w tr).host = t.host := rfl
@[simp] theorem looked_link (n : Nat) : link (t.looked w tr) n = link t n := rfl
@[simp] theorem looked_dieSt (n : Nat) : dieSt (t.looked w tr) n = dieSt t n := rfl
@[simp] theorem looked_base (n : Nat) : base (t.looked w tr) n = base t n := rfl
@[simp] theorem looked_ctxState (n : Nat) : ctxState (t.looked w tr) n = ctxState t n := rfl

end

theorem looked_looked (t : State) (w w' : Agent → Wait) (tr tr' : List Trig) :
    (t.looked w tr).looked w' tr' = t.looked (fun a => w' { a with wait := w a }) tr' := by
  simp [State.looked, Function.comp_def]
theorem wakeRetry_looked (t : State) : ∃ w, wakeRetry t = t.looked w t.trigs := by
  refine ⟨fun a => if a.wait == .retry then .none else a.wait, ?_⟩
  unfold wakeRetry State.looked
  congr 1
  refine List.map_congr_left fun p _ => ?_
  by_cases h : (p.2.wait == .retry) = true
  · simp only [h, if_true]
  · simp only [h, if_false, Bool.false_eq_true]
/-- The wait of a party after its home has tested the signals. -/
def stillWaits (s : State) (a : Agent) : Wait :=
  match a.wait with
  | .signal va thr _ => if sigReached s a.tasid va thr.toNat then .none else a.wait
  | w => w
theorem noteUpdates_looked (t : State) : ∃ w tr, noteUpdates t = t.looked w tr := by
  have htrigs : ∃ tr, (if t.trigs.isEmpty then t else
      { t with trigs := t.trigs.map fun x => if x.state == .armed && sigReached t x.tasid x.signal x.thr.toNat then { x with state := .fired } else x }) =
      { t with trigs := tr } := by
    split
    · exact ⟨t.trigs, rfl⟩
    · exact ⟨_, rfl⟩
  obtain ⟨tr, htr⟩ := htrigs
  unfold noteUpdates
  simp only [htr]
  clear htr
  split
  · exact ⟨(·.wait), tr, by simp [State.looked]⟩
  · refine ⟨stillWaits { t with trigs := tr }, tr, ?_⟩
    unfold State.looked
    congr 1
    refine List.map_congr_left fun p _ => ?_
    unfold stillWaits
    cases h : p.2.wait with
    | signal va thr limit =>
      by_cases hr : sigReached { t with trigs := tr } p.2.tasid va thr.toNat = true
      · simp only [hr, if_true]
      · simp only [hr, if_false, Bool.false_eq_true, ← h]
    | _ => simp only [← h]
/-- What follows an event is a look at its state again. -/
theorem after_looked (t : State) : ∃ w tr, wakeRetry (noteUpdates t) = t.looked w tr := by
  obtain ⟨w, tr, h⟩ := noteUpdates_looked t
  obtain ⟨w', h'⟩ := wakeRetry_looked (t.looked w tr)
  exact ⟨_, _, by rw [h, h', looked_looked]⟩

theorem agent?_looked (t : State) (w : Agent → Wait) (tr : List Trig) (j : Nat) :
    agent? (t.looked w tr) j = (agent? t j).map fun a => { a with wait := w a } := fget?_map (fun _ (a : Agent) => { a with wait := w a }) t.agents j
theorem Others.looked (ks : List Nat) (t : State) (w : Agent → Wait) (tr : List Trig) : Others ks t (t.looked w tr) := fun j _ => by
  rw [agent?_looked]; cases agent? t j <;> rfl
/-- An event that keeps the parties leaves them what they hold, and where they stand. -/
theorem Others.looked_of {ks : List Nat} {s t : State} (h : t.agents = s.agents) (w : Agent → Wait) (tr : List Trig) : Others ks s (t.looked w tr) :=
  (Others.of_eq fun j _ => congrArg (fget? · j) h).trans (Others.looked ks t w tr)
theorem Only.looked (t : State) (w : Agent → Wait) (tr : List Trig) : Only [.trigs] t (t.looked w tr) := fun p hp => by
  cases p with
  | trigs => exact absurd List.mem_cons_self hp
  | _ => simp [Same, State.looked, group?, ctx?]

/-- An event happens, and what is said of it holds however the state is looked at again. -/
theorem Happens.of_event {f : State → State} {s : State} {P : State → Prop} (h : ∀ w tr, P ((f s).looked w tr)) : Happens (event f s) P := by
  obtain ⟨w, tr, e⟩ := after_looked (f s)
  exact ⟨_, rfl, e ▸ h w tr⟩
/-- An event whose meaning gives a state enters it. -/
theorem Enters.of_eq {f : State → State} {s t : State} (h : f s = t) : Enters (event f s) t := by rw [← h]; rfl
theorem run_event (f : State → State) (s : State) : ∃ w tr, run (event f) s = (f s).looked w tr := after_looked (f s)

end Sys2Proof.Machine
end

section
/-!
PROOF. The events of power (R412 to R414) and the host's register writes (R406 to R413).
-/
namespace Sys2Proof.Machine

/-! ### Clusters -/

/-- A step of a fold over clusters: under the dies `ds` it writes nothing but one cluster, by a function of what that held. -/
structure Rewrites (f : State → Nat → State) (ds : FMap Die) (g : Nat → Cluster → Cluster) : Prop where
  only : ∀ s c, ∃ m, f s c = { s with clusters := m }
  here : ∀ s c j, s.dies = ds → cluster (f s c) j = if j = c then g c (cluster s c) else cluster s j

section
variable {f : State → Nat → State} {ds : FMap Die} {g : Nat → Cluster → Cluster} (h : Rewrites f ds g)
include h

theorem Rewrites.dies (s : State) (c : Nat) : (f s c).dies = s.dies := by obtain ⟨m, e⟩ := h.only s c; rw [e]
theorem Rewrites.cluster_foldl (j : Nat) :
    ∀ l : List Nat, l.Nodup → ∀ s, s.dies = ds → cluster (l.foldl f s) j = if j ∈ l then g j (cluster s j) else cluster s j
  | [], _, s, _ => by simp
  | c :: l, hl, s, hs => by
    obtain ⟨hc, hl⟩ := List.nodup_cons.mp hl
    rw [List.foldl_cons, Rewrites.cluster_foldl j l hl (f s c) ((h.dies s c).trans hs), h.here s c j hs]
    by_cases hj : j = c
    · subst hj; simp [hc]
    · simp [hj]
/-- The fold writes nothing but the clusters, and each listed one once. -/
theorem Rewrites.foldl {l : List Nat} (hl : l.Nodup) {s : State} (hs : s.dies = ds) :
    ∃ m, l.foldl f s = { s with clusters := m } ∧ ∀ j ∈ l, fgetD m j {} = g j (cluster s j) := by
  obtain ⟨m, hm⟩ := foldl_keeps (R := fun s u => ∃ m, u = { s with clusters := m }) (fun s => ⟨s.clusters, rfl⟩)
    (by rintro s _ _ ⟨m, rfl⟩ ⟨n, rfl⟩; exact ⟨n, rfl⟩) h.only l s
  refine ⟨m, hm, fun j hj => ?_⟩
  have hread := h.cluster_foldl j l hl s hs
  rw [hm, if_pos hj] at hread
  exact hread

end

theorem nodup_clustersOf (d : Nat) : (clustersOf d).Nodup := nodup_upFrom _ _
theorem mem_clustersOf {d cl : Nat} (h : cl / 20 = d) : cl ∈ clustersOf d :=
  mem_upFrom.mpr (by rw [show Config.numClusters = 20 from rfl]; omega)

/-! ### Power (R412 to R414) -/

/-- The host's requests are taken up: after READY and before FATAL (R417, R418). -/
def Up (s : State) : Prop := s.host.ready = true ∧ s.host.fatal = false

theorem open_of_up {s : State} (h : Up s) : open_ s = true := by simp [open_, h.1, h.2]
theorem open_of_not_up {s : State} (h : ¬ Up s) : open_ s = false := by
  simp only [Up, not_and, Bool.not_eq_false] at h
  cases hr : s.host.ready <;> simp_all [open_]

/-- A refused request to power off leaves its RESULT (R413). -/
def offRefused (s : State) (d r : Nat) : State := putDie s d { dieSt s d with req := 0, result := BitVec.ofNat 8 r }

/-- Before READY and after FATAL the power requests of the host change nothing. -/
theorem power_ignored {s : State} (h : ¬ Up s) (d : Nat) (p : BitVec 2) :
    diePowerOff d s = s ∧ diePowerOn d s = s ∧ operatingPointRequest d p s = s := by
  simp [diePowerOff, diePowerOn, operatingPointRequest, open_of_not_up h]

section
variable {s : State} {d : Nat}

theorem diePowerOff_eq (h : Up s) : diePowerOff d s =
    if (dieSt s d).pstate = 3 then offRefused s d 0
    else if resident s d = true then offRefused s d 1
    else if (dieSt s d).mash.state ≠ 0 ∨ (dieSt s d).mash.owned = true then offRefused s d 2
    else if ownsList s d = true then offRefused s d 3
    else putDie (dropLines s fun l => l.die == d) d { dieSt s d with req := 0, result := 0, pstate := 0 } := by
  simp only [diePowerOff, offRefused, open_of_up h, Bool.not_true, Bool.false_eq_true, if_false, beq_iff_eq, Bool.or_eq_true, bne_iff_ne]
/-- A cluster at its reset value, with so much energy remaining. -/
def resetCluster (a : Nat) (s : State) (cl : Nat) : State := putCluster s cl { remaining := a }
theorem resetCluster_rewrites (a : Nat) (ds : FMap Die) : Rewrites (resetCluster a) ds fun _ _ => { remaining := a } where
  only _ _ := ⟨_, rfl⟩
  here s c j _ := cluster_putCluster s c j _
theorem diePowerOn_eq (h : Up s) : diePowerOn d s =
    if (dieSt s d).pstate = 3 then putDie s d { dieSt s d with req := 1, result := 1 }
    else if (dieSt s d).pstate ≠ 0 then putDie s d { dieSt s d with req := 1, result := 0 }
    else
      let t := (clustersOf d).foldl (resetCluster (dieSt s d).allow.toNat) s
      putDie { t with clocks := t.clocks.filter fun x => x.1 / 80 != d } d { dieSt s d with req := 1, result := 0, pstate := 1 } := by
  simp only [diePowerOn, open_of_up h, Bool.not_true, Bool.false_eq_true, if_false, beq_iff_eq, bne_iff_ne]
  rfl

/-- No line of a die is left where its lines have been dropped. -/
theorem die_ne_of_mem_dropLines {s : State} {d : Nat} {l : Line} (h : l ∈ (dropLines s fun l => l.die == d).lines) : l.die ≠ d := by
  simpa using (List.mem_filter.mp h).2

/-- DIE_POWER_ON of a die that is OFF: its clusters are reset with A, and its cores' counters (R413). -/
theorem diePowerOn_off (h : Up s) (hp : (dieSt s d).pstate = 0) :
    ∃ m, diePowerOn d s = putDie { s with clusters := m, clocks := s.clocks.filter fun x => x.1 / 80 != d } d
        { dieSt s d with req := 1, result := 0, pstate := 1 } ∧
      ∀ cl, cl / 20 = d → fgetD m cl {} = { remaining := (dieSt s d).allow.toNat } := by
  obtain ⟨m, hm, hread⟩ := (resetCluster_rewrites (dieSt s d).allow.toNat s.dies).foldl (nodup_clustersOf d) rfl
  refine ⟨m, ?_, fun cl hcl => hread cl (mem_clustersOf hcl)⟩
  rw [diePowerOn_eq h, if_neg (by rw [hp]; decide), if_neg (not_not.mpr hp), hm]

/-- What a request for an operating point leaves (R413): 3 is ignored, and the point in force is no change. -/
def pointAsked (s : State) (d : Nat) (p : BitVec 2) : State :=
  if p = 3 then s else putDie s d { dieSt s d with oppt := p, want := if p = (dieSt s d).point then none else some p, result := 0 }
theorem operatingPointRequest_eq (h : Up s) (p : BitVec 2) : operatingPointRequest d p s = pointAsked s d p := by
  simp [operatingPointRequest, pointAsked, open_of_up h]

/-- What a change of point leaves of a cluster: one that has admitted nothing takes the new A (R412). -/
def repointed (a : Nat) (y : Cluster) : Cluster := if y.admitted = 0 then { y with remaining := a } else y
def repointCluster (a : Nat) (s : State) (cl : Nat) : State :=
  let y := cluster s cl; if y.admitted == 0 then putCluster s cl { y with remaining := a } else s
theorem repointCluster_rewrites (a : Nat) (ds : FMap Die) : Rewrites (repointCluster a) ds fun _ => repointed a where
  only s c := by
    by_cases h0 : ((cluster s c).admitted == 0) = true
    · exact ⟨_, if_pos h0⟩
    · exact ⟨s.clusters, if_neg h0⟩
  here s c j _ := by
    by_cases h0 : (cluster s c).admitted = 0
    · simp only [repointCluster, repointed, h0, beq_self_eq_true, if_true, cluster_putCluster]
    · simp only [repointCluster, repointed, h0, beq_iff_eq, if_false]
      split
      · next hj => rw [hj]
      · rfl

theorem operatingPointSwitch_some {p : BitVec 2} (h : (dieSt s d).want = some p) :
    ∃ m, operatingPointSwitch d s = putDie { s with clusters := m } d { dieSt s d with
        point := p, want := none, allow := BitVec.ofNat 24 (pointDefaults p).1, amps := BitVec.ofNat 8 (pointDefaults p).2 } ∧
      ∀ cl, cl / 20 = d → fgetD m cl {} = repointed (pointDefaults p).1 (cluster s cl) := by
  let t : State := putDie s d { dieSt s d with
    point := p, want := none, allow := BitVec.ofNat 24 (pointDefaults p).1, amps := BitVec.ofNat 8 (pointDefaults p).2 }
  obtain ⟨m, hm, hread⟩ := (repointCluster_rewrites (pointDefaults p).1 t.dies).foldl (nodup_clustersOf d) (s := t) rfl
  refine ⟨m, ?_, fun cl hcl => hread cl (mem_clustersOf hcl)⟩
  simp only [operatingPointSwitch, h]
  exact hm

end

/-- A cluster at the start of a control interval (R260): its remaining energy is A again. -/
def renewed (ds : FMap Die) (cl : Nat) (y : Cluster) : Cluster :=
  { y with remaining := (fgetD ds (cl / Config.numClusters) {}).allow.toNat, admitted := 0, charged := [], admittedBy := [] }
def renewCluster (s : State) (cl : Nat) : State := putCluster s cl (renewed s.dies cl (cluster s cl))
theorem renewCluster_rewrites (ds : FMap Die) : Rewrites renewCluster ds (renewed ds) where
  only _ _ := ⟨_, rfl⟩
  here s c j hs := by rw [← hs]; exact cluster_putCluster s c j _
theorem controlIntervalStart_eq (s : State) :
    ∃ m, controlIntervalStart s = { s with clusters := m, agenda := ((s.dies.filter fun x => x.2.want.isSome).map fun x => Event.operatingPointSwitch x.1) ++ s.agenda } ∧
      ∀ cl, cl < 160 → fgetD m cl {} = renewed s.dies cl (cluster s cl) := by
  obtain ⟨m, hm, hread⟩ := (renewCluster_rewrites s.dies).foldl (nodup_upFrom 0 160) (s := s) rfl
  refine ⟨m, ?_, fun cl hcl => hread cl (mem_upFrom.mpr (by omega))⟩
  have hfold : controlIntervalStart s = { (upFrom 0 160).foldl renewCluster s with
    agenda := (((upFrom 0 160).foldl renewCluster s).dies.filter fun x => x.2.want.isSome).map (fun x => Event.operatingPointSwitch x.1) ++
      ((upFrom 0 160).foldl renewCluster s).agenda } := rfl
  rw [hfold, hm]

/-! ### Register writes (R406 to R413) -/

/-- A write of another width, unaligned, refused by the access table, or after FATAL changes nothing (R406, R410, R418). -/
theorem mmioRegisterWrite_ignored {s : State} {master off n v : Nat} (hoff : off < 2 ^ 48)
    (h : s.host.fatal = true ∨ (n ≠ 4 ∧ n ≠ 8) ∨ off % 2 ^ 44 % n ≠ 0 ∨ refusedBy s master (255 * 2 ^ 48 + off) .store = true) :
    mmioRegisterWrite master off n v s = s := by
  unfold mmioRegisterWrite
  rw [Nat.mod_eq_of_lt hoff]
  refine if_pos ?_
  simp only [Bool.or_eq_true, Bool.not_eq_true', Bool.and_eq_false_iff, Bool.or_eq_false_iff, beq_eq_false_iff_ne]
  tauto

section
variable {s : State} {master off : Nat} (hf : s.host.fatal = false) (hoff : off < 2 ^ 48)
  (hr : refusedBy s master (255 * 2 ^ 48 + off) .store = false)
include hf hoff hr

/-- A write that is aligned and allowed is not discarded. -/
theorem mmioRegisterWrite_taken {n : Nat} (v : Nat) (hn : n = 4 ∨ n = 8) (ha : off % 2 ^ 44 % n = 0) (hlt : off % 2 ^ 44 < 0x1000000) :
    mmioRegisterWrite master off n v s =
      let t := writeReg32 s (bitsN off 47 44) (off % 2 ^ 44) (v % 2 ^ 32)
      if n = 8 then writeReg32 t (bitsN off 47 44) (off % 2 ^ 44 + 4) (v / 2 ^ 32 % 2 ^ 32) else t := by
  have htaken : (s.host.fatal || !((n == 4 || n == 8) && off % 2 ^ 44 % n == 0) || refusedBy s master (255 * 2 ^ 48 + off % 2 ^ 48) .store) = false := by
    rw [Nat.mod_eq_of_lt hoff, hf, hr, ha]
    rcases hn with rfl | rfl <;> rfl
  have hbell : (decide (0x1000000 ≤ off % 2 ^ 44) && decide (off % 2 ^ 44 < 0x1200000)) = false := by
    rw [decide_eq_false (Nat.not_le.mpr hlt), Bool.false_and]
  unfold mmioRegisterWrite
  simp only [htaken, hbell, Bool.false_eq_true, if_false, beq_iff_eq]
/-- A 32-bit write to a register below the doorbells. -/
theorem mmioRegisterWrite_word {o : Nat} (v : Nat) (ho : off % 2 ^ 44 = o) (ha : o % 4 = 0) (hlt : o < 0x1000000) :
    mmioRegisterWrite master off 4 v s = writeReg32 s (bitsN off 47 44) o (v % 2 ^ 32) := by
  subst ho
  exact mmioRegisterWrite_taken hf hoff hr v (.inl rfl) ha hlt
/-- A 64-bit write to a register below the doorbells: two 32-bit ones. -/
theorem mmioRegisterWrite_dword {o : Nat} (v : Nat) (ho : off % 2 ^ 44 = o) (ha : o % 8 = 0) (hlt : o < 0x1000000) :
    mmioRegisterWrite master off 8 v s =
      writeReg32 (writeReg32 s (bitsN off 47 44) o (v % 2 ^ 32)) (bitsN off 47 44) (o + 4) (v / 2 ^ 32 % 2 ^ 32) := by
  subst ho
  exact mmioRegisterWrite_taken hf hoff hr v (.inr rfl) ha hlt

end

section
variable (s : State) {st : Nat} (v : Nat)

theorem writeReg32_hstat (h : st = 0 ∨ st = 15) :
    writeReg32 s st 0 v = if bitN v 16 then { s with host := { s.host with err := false } } else s := by
  rcases h with rfl | rfl <;> simp [writeReg32]
theorem writeReg32_ctxreq (h : st = 0 ∨ st = 15) : writeReg32 s st 0x10 v = ctxRequest s (v % 4096) (v / 4096 % 8) := by
  rcases h with rfl | rfl <;> simp [writeReg32, bitsN]
theorem writeReg32_diepwr (port : Nat) (hp : port = 0 ∨ port = 1) : writeReg32 s st (0x100 + 8 * port) v = diePower s (dieOnPort st port) v := by
  rcases hp with rfl | rfl <;> simp [writeReg32]
theorem writeReg32_dietask (port : Nat) (hp : port = 0 ∨ port = 1) : writeReg32 s st (0x104 + 8 * port) v =
    putDie s (dieOnPort st port) { dieSt s (dieOnPort st port) with allow := BitVec.ofNat 24 v, amps := BitVec.ofNat 8 (v / 2 ^ 24) } := by
  rcases hp with rfl | rfl <;> simp [writeReg32]
theorem writeReg32_actwin : writeReg32 s st 0x200 v = putBase s st { base s st with
    actwin := BitVec.ofNat 16 v, actNow := if (base s st).actNow = (base s st).actwin.toNat then v % 65536 else max (v % 65536) (base s st).actNow } := by
  simp [writeReg32]
theorem writeReg32_ctxdesc (h : st = 0 ∨ st = 15) (half : Nat) (hh : half = 0 ∨ half = 4) : writeReg32 s st (8 + half) v =
    { s with host := { s.host with ctxdesc := BitVec.ofNat 64 (putHalf s.host.ctxdesc.toNat v half) } } := by
  rcases h with rfl | rfl <;> rcases hh with rfl | rfl <;> simp [writeReg32]

end

/-- A register written in both halves holds what was written. -/
theorem putHalf_both (x v : BitVec 64) :
    BitVec.ofNat 64 (putHalf (BitVec.ofNat 64 (putHalf x.toNat (v.toNat % 2 ^ 32) 0)).toNat (v.toNat / 2 ^ 32 % 2 ^ 32) 4) = v := by
  apply BitVec.eq_of_toNat_eq
  have hx := x.isLt
  have hv := v.isLt
  simp only [putHalf, setBitsN, bitsN, BitVec.toNat_ofNat, beq_self_eq_true, if_true, show ((4 : Nat) == 0) = false from rfl,
    Bool.false_eq_true, if_false, Nat.reduceAdd, Nat.reduceSub, Nat.reducePow, pow_zero, Nat.div_one, Nat.mul_one] at hx hv ⊢
  omega

/-- A write to DIEPWR asks for its OPPT, then for its REQ (R413). -/
theorem diePower_eq {s : State} (h : Up s) (d v : Nat) : diePower s d v =
    match v % 4 with
    | 0 => diePowerOff d (pointAsked s d (BitVec.ofNat 2 (v / 4)))
    | 1 => diePowerOn d (pointAsked s d (BitVec.ofNat 2 (v / 4)))
    | _ => pointAsked s d (BitVec.ofNat 2 (v / 4)) := by
  have hp : BitVec.ofNat 2 (bitsN v 3 2) = BitVec.ofNat 2 (v / 4) := by
    apply BitVec.eq_of_toNat_eq; simp [bitsN]
  have hq : bitsN v 1 0 = v % 4 := by simp [bitsN]
  have hdef : diePower s d v =
      match bitsN v 1 0 with
      | 0 => diePowerOff d (operatingPointRequest d (BitVec.ofNat 2 (bitsN v 3 2)) s)
      | 1 => diePowerOn d (operatingPointRequest d (BitVec.ofNat 2 (bitsN v 3 2)) s)
      | _ => operatingPointRequest d (BitVec.ofNat 2 (bitsN v 3 2)) s := rfl
  rw [hdef, operatingPointRequest_eq h, hp, hq]

/-- OP 0 and 7 of CTXREQ are kept and do nothing (R408). -/
theorem ctxRequest_nothing {s : State} (hf : s.host.fatal = false) (v : Nat) {op : Nat} (hop : op = 0 ∨ op = 7) :
    ctxRequest s (v % 4096) op = if s.host.ready = true ∧ s.host.busy = false then
      { s with host := { s.host with reqAsid := BitVec.ofNat 12 (v % 4096), reqOp := BitVec.ofNat 3 op } } else s := by
  have hlt : ¬ v % 4096 ≥ 4096 := by omega
  have hreq : ctxRequest s (v % 4096) op = request op (fun _ s => s) (v % 4096) s := by rcases hop with rfl | rfl <;> rfl
  rw [hreq]
  cases hr : s.host.ready <;> cases hb : s.host.busy <;> simp [request, hf, hr, hb, hlt]

end Sys2Proof.Machine
end

section
/-!
PROOF. The error log, errors and self-tests (R14, R415, R416), and what ends a context (R349).
-/
namespace Sys2Proof.Machine

/-! ### The error log (R416) -/

/-- Where the base die that logs a unit puts its next record, and the record. -/
def nextRecord (s : State) (x : EccUnit) : Nat := errRing s (unitLog x).1 + 32 * ((base s (unitLog x).1).errCount % 256)
def recordOf (s : State) (x : EccUnit) (kind : Nat) : Nat :=
  (unitLog x).2.1 + kind * 2 ^ 32 + (unitLog x).2.2 % 2 ^ 64 * 2 ^ 64 + s.cycle % 2 ^ 64 * 2 ^ 128
/-- A word of memory lies within that record. -/
def InRecord (s : State) (x : EccUnit) (w : Nat) : Prop := nextRecord s x ≤ 4 * w ∧ 4 * w + 4 ≤ nextRecord s x + 32
/-- An error of a unit has been logged between two states: ERR is set, the host has its message, and the die counts one record more. -/
def Logged (s u : State) (x : EccUnit) : Prop :=
  u.host.err = true ∧ .errlog (unitLog x).1 ∈ u.msi ∧ (base u (unitLog x).1).errCount = (base s (unitLog x).1).errCount + 1

theorem Logged.looked {s u : State} {x : EccUnit} (h : Logged s u x) (w : Agent → Wait) (tr : List Trig) : Logged s (u.looked w tr) x := h

theorem unpoison_eq (s : State) (pa n : Nat) :
    ∃ po, unpoison s pa n = { s with poison := po } ∧ ∀ w, w ∈ po ↔ w ∈ s.poison ∧ ¬ (pa ≤ 4 * w ∧ 4 * w + 4 ≤ pa + n) := by
  unfold unpoison
  split
  · next h => exact ⟨s.poison, rfl, fun w => by simp [List.isEmpty_iff.mp h]⟩
  · exact ⟨_, rfl, fun w => by simp only [List.mem_filter, Bool.not_eq_true', Bool.and_eq_false_iff, decide_eq_false_iff_not, not_and_or]⟩

/-- Logging an error writes the record, which clears the poison of its words, and leaves everything else. -/
theorem logError_eq (s : State) (x : EccUnit) (kind : Nat) :
    ∃ po, logError s x kind = { s with
        bases := fput s.bases (unitLog x).1 { base s (unitLog x).1 with errCount := (base s (unitLog x).1).errCount + 1 }
        mem := writeN s.mem (nextRecord s x) (recordOf s x kind) 32
        poison := po, host := { s.host with err := true }, msi := s.msi ++ [.errlog (unitLog x).1] } ∧
      ∀ w, w ∈ po ↔ w ∈ s.poison ∧ ¬ InRecord s x w := by
  unfold logError nextRecord recordOf InRecord
  rw [nextRecord]
  obtain ⟨st, unit, addr⟩ := unitLog x
  dsimp only
  obtain ⟨po, hpo, hmem⟩ := unpoison_eq { putBase s st { base s st with errCount := (base s st).errCount + 1 } with
    mem := writeN s.mem (errRing s st + 32 * ((base s st).errCount % 256)) (unit + kind * 2 ^ 32 + addr % 2 ^ 64 * 2 ^ 64 + s.cycle % 2 ^ 64 * 2 ^ 128) 32 }
    (errRing s st + 32 * ((base s st).errCount % 256)) 32
  refine ⟨po, ?_, hmem⟩
  simp only [putRecord, putBase_mem, hpo]
  rfl

/-! ### Where the next record goes does not change -/

/-- What an error does to its data leaves the error logs as they stand. -/
structure SameLog (s u : State) : Prop where
  package : u.package = s.package
  cycle : u.cycle = s.cycle
  count : ∀ n, (base u n).errCount = (base s n).errCount

theorem SameLog.refl (s : State) : SameLog s s := ⟨rfl, rfl, fun _ => rfl⟩
theorem SameLog.of_bases {s u : State} (hp : u.package = s.package) (hc : u.cycle = s.cycle) (hb : u.bases = s.bases) : SameLog s u :=
  ⟨hp, hc, fun n => by rw [base, hb]; rfl⟩
theorem SameLog.trans {s t u : State} (h : SameLog s t) (g : SameLog t u) : SameLog s u :=
  ⟨g.package.trans h.package, g.cycle.trans h.cycle, fun n => (g.count n).trans (h.count n)⟩

section
variable {s t : State} (h : SameLog s t) (x : EccUnit)
include h

theorem SameLog.nextRecord : nextRecord t x = nextRecord s x := by simp only [Machine.nextRecord, errRing, h.package, h.count]
theorem SameLog.recordOf (kind : Nat) : recordOf t x kind = recordOf s x kind := by simp only [Machine.recordOf, h.cycle]
theorem SameLog.inRecord (w : Nat) : InRecord t x w ↔ InRecord s x w := by simp only [InRecord, h.nextRecord]

variable (kind : Nat)

theorem SameLog.logged : Logged s (logError t x kind) x := by
  obtain ⟨po, e, -⟩ := logError_eq t x kind
  rw [e]
  refine ⟨rfl, by simp, ?_⟩
  rw [← h.count]
  simp [base]
/-- The record stands at its place of the ring, and nothing else of memory is written. -/
theorem SameLog.logError_mem : (logError t x kind).mem = writeN t.mem (Machine.nextRecord s x) (Machine.recordOf s x kind) 32 := by
  obtain ⟨po, e, -⟩ := logError_eq t x kind
  rw [e, ← h.nextRecord, ← h.recordOf]
theorem SameLog.readN_logError (hm : MemoryOk t) :
    readN (logError t x kind).mem (Machine.nextRecord s x) 32 = Machine.recordOf s x kind % 2 ^ 256 := by
  rw [h.logError_mem, readN_writeN hm.1]
theorem SameLog.mem_logError_poison {w : Nat} (hw : ¬ InRecord s x w) : w ∈ (logError t x kind).poison ↔ w ∈ t.poison := by
  obtain ⟨po, e, hpo⟩ := logError_eq t x kind
  rw [e, hpo, h.inRecord]
  exact and_iff_left hw

end

section
variable (s : State) (x : EccUnit) (kind : Nat)

@[simp] theorem logError_agents : (logError s x kind).agents = s.agents := by obtain ⟨po, e, -⟩ := logError_eq s x kind; rw [e]
@[simp] theorem logError_dies : (logError s x kind).dies = s.dies := by obtain ⟨po, e, -⟩ := logError_eq s x kind; rw [e]
@[simp] theorem logError_links : (logError s x kind).links = s.links := by obtain ⟨po, e, -⟩ := logError_eq s x kind; rw [e]
@[simp] theorem logError_lines : (logError s x kind).lines = s.lines := by obtain ⟨po, e, -⟩ := logError_eq s x kind; rw [e]
@[simp] theorem link_logError (n : Nat) : link (logError s x kind) n = link s n := by rw [link, logError_links]; rfl
@[simp] theorem dieSt_logError (n : Nat) : dieSt (logError s x kind) n = dieSt s n := by rw [dieSt, logError_dies]; rfl
@[simp] theorem logError_agenda : (logError s x kind).agenda = s.agenda := by obtain ⟨po, e, -⟩ := logError_eq s x kind; rw [e]

end

/-! ### Pages that are marked POISONED (R309) -/

/-- Pages have been marked: base dies and memory may differ, not their error logs. -/
def PagesStruck (s u : State) : Prop := ∃ b m, u = { s with bases := b, mem := m } ∧ SameLog s u

theorem PagesStruck.refl (s : State) : PagesStruck s s := ⟨s.bases, s.mem, rfl, SameLog.refl s⟩
theorem PagesStruck.trans {s t u : State} (h : PagesStruck s t) (g : PagesStruck t u) : PagesStruck s u := by
  obtain ⟨b, m, rfl, hl⟩ := h
  obtain ⟨b', m', rfl, gl⟩ := g
  exact ⟨b', m', rfl, hl.trans gl⟩
theorem SameLog.of_pagesStruck {s u : State} (h : PagesStruck s u) : SameLog s u := by obtain ⟨b, m, -, hl⟩ := h; exact hl

theorem PagesStruck.poisonLeaf (s : State) (asid home set e ea size : Nat) : PagesStruck s (poisonLeaf s asid home set e ea size) := by
  unfold Machine.poisonLeaf
  extract_lets lo whole
  split
  · exact PagesStruck.refl s
  · refine ⟨_, _, rfl, rfl, rfl, fun n => ?_⟩
    change (base (putBase s home _) n).errCount = _
    rw [base_putBase]
    split
    · next hn => rw [hn]
    · rfl
theorem PagesStruck.poisonPageOf (s : State) (asid va : Nat) : PagesStruck s (poisonPageOf s asid va) := by
  unfold Machine.poisonPageOf
  split
  · exact PagesStruck.poisonLeaf ..
  · exact PagesStruck.refl s
theorem PagesStruck.poisonPhys (s : State) (pa : Nat) : PagesStruck { s with poison := lput s.poison (wordOf pa) } (poisonPhys s pa) := by
  unfold Machine.poisonPhys
  refine foldl_keeps PagesStruck.refl PagesStruck.trans (fun s x => ?_) _ _
  obtain ⟨asid, set, ea, e, size⟩ := x
  exact iteInduction (motive := PagesStruck s) (fun _ => PagesStruck.poisonLeaf ..) fun _ => PagesStruck.refl s

/-! ### What ends a context (R349) -/

/-- Keeps the contexts, the host's registers and the error logs. -/
structure KeepsCtxs (s u : State) : Prop where
  log : SameLog s u
  ctxs : u.ctxs = s.ctxs
  host : u.host = s.host

theorem KeepsCtxs.refl (s : State) : KeepsCtxs s s := ⟨SameLog.refl s, rfl, rfl⟩
theorem KeepsCtxs.trans {s t u : State} (h : KeepsCtxs s t) (g : KeepsCtxs t u) : KeepsCtxs s u :=
  ⟨h.log.trans g.log, g.ctxs.trans h.ctxs, g.host.trans h.host⟩
theorem KeepsCtxs.of_rfl {s u : State} (hp : u.package = s.package) (hc : u.cycle = s.cycle) (hb : u.bases = s.bases) (hx : u.ctxs = s.ctxs)
    (hh : u.host = s.host) : KeepsCtxs s u := ⟨.of_bases hp hc hb, hx, hh⟩
theorem KeepsCtxs.abortKernel (s : State) (kern : Nat) : KeepsCtxs s (abortKernel s kern) := .of_rfl rfl rfl rfl rfl rfl

/-- A context enters ERROR after all that belongs to it has been discarded, which leaves the contexts and the host's registers. -/
theorem contextError_discards (s : State) (asid cause : Nat) : ∃ t, KeepsCtxs s t ∧
    contextError s asid cause = endRequest (setState (modCtx t asid fun c => { c with cause := cause, cut := none }) asid .error) asid 1 := by
  unfold contextError
  extract_lets kerns s1 cls s2 s3 s4
  refine ⟨s4, ?_, rfl⟩
  have haborted : KeepsCtxs s s1 := foldl_keeps KeepsCtxs.refl KeepsCtxs.trans KeepsCtxs.abortKernel kerns s
  have hengines : KeepsCtxs s1 s2 := KeepsCtxs.trans (t := { s1 with agents := s1.agents.filter fun x => x.2.asid != asid }) (.of_rfl rfl rfl rfl rfl rfl)
    (foldl_keeps KeepsCtxs.refl KeepsCtxs.trans (f := fun s cl => putEngine s cl {}) (fun _ _ => .of_rfl rfl rfl rfl rfl rfl) cls _)
  have hmail : KeepsCtxs s2 s3 := .of_rfl rfl rfl rfl rfl rfl
  have hbases : KeepsCtxs s3 s4 := by
    refine ⟨⟨rfl, rfl, fun n => ?_⟩, rfl, rfl⟩
    have hmap : fget? s4.bases n = (fget? s3.bases n).map fun x => { x with holds := x.holds.filter (·.asid != asid), posts := x.posts.filter (·.asid != asid) } :=
      fget?_map (fun _ (x : Base) => { x with holds := x.holds.filter (·.asid != asid), posts := x.posts.filter (·.asid != asid) }) s3.bases n
    simp only [base, fgetD, hmap]
    cases fget? s3.bases n <;> rfl
  exact haborted.trans (hengines.trans (hmail.trans hbases))

theorem modCtx_keeps (s : State) (n : Nat) (f : Ctx → Ctx) : ∃ c, modCtx s n f = { s with ctxs := c } := by
  unfold modCtx; split
  · exact ⟨_, rfl⟩
  · exact ⟨s.ctxs, rfl⟩
theorem ctx?_modCtx (s : State) (n j : Nat) (f : Ctx → Ctx) : ctx? (modCtx s n f) j = if j = n then (ctx? s n).map f else ctx? s j := by
  unfold modCtx
  split
  · next c hc =>
    by_cases hj : j = n
    · subst hj; simp [hc]
    · simp only [hj, if_false]; exact fget?_fput_ne _ _ hj
  · next hc =>
    split
    · next hj => rw [hj, hc]; rfl
    · rfl
theorem setState_error (s : State) (n : Nat) :
    setState s n .error = { modCtx s n (fun c => { c with state := .error, ntrans := c.ntrans + 1 }) with
      msi := (modCtx s n (fun c => { c with state := .error, ntrans := c.ntrans + 1 })).msi ++ [.context n .error] } := rfl
theorem endRequest_keeps (s : State) (n r : Nat) : ∃ b x, endRequest s n r = { s with host := { s.host with busy := b, result := x } } := by
  unfold endRequest; split
  · exact ⟨_, _, rfl⟩
  · exact ⟨s.host.busy, s.host.result, rfl⟩

/-- What a context's entry to ERROR leaves of the contexts and of the host's registers. -/
theorem contextError_eq (s : State) (asid cause : Nat) : ∃ t cs b x, KeepsCtxs s t ∧
    contextError s asid cause = { t with ctxs := cs, msi := t.msi ++ [.context asid .error], host := { s.host with busy := b, result := x } } ∧
    ∀ n, fget? cs n =
      if n = asid then (ctx? s asid).map fun c => { c with cause := cause, cut := none, state := .error, ntrans := c.ntrans + 1 } else ctx? s n := by
  obtain ⟨t, ht, e⟩ := contextError_discards s asid cause
  obtain ⟨c, hcause⟩ := modCtx_keeps t asid fun c => { c with cause := cause, cut := none }
  obtain ⟨cs, hstate⟩ := modCtx_keeps { t with ctxs := c } asid fun c => { c with state := .error, ntrans := c.ntrans + 1 }
  obtain ⟨b, x, hend⟩ := endRequest_keeps (setState { t with ctxs := c } asid .error) asid 1
  refine ⟨t, cs, b, x, ht, by rw [e, hcause, hend, setState_error, hstate, ← ht.host], fun n => ?_⟩
  have hctx : ∀ j, ctx? t j = ctx? s j := fun j => congrArg (fget? · j) ht.ctxs
  have hread : fget? cs n = ctx? (modCtx (modCtx t asid fun c => { c with cause := cause, cut := none }) asid
      fun c => { c with state := .error, ntrans := c.ntrans + 1 }) n := by rw [hcause, hstate]; rfl
  rw [hread, ctx?_modCtx, ctx?_modCtx, ctx?_modCtx, hctx, hctx, if_pos rfl, Option.map_map]
  split <;> rfl

section
variable (s : State) (asid cause : Nat)

theorem ctx?_contextError (n : Nat) : ctx? (contextError s asid cause) n =
    if n = asid then (ctx? s asid).map fun c => { c with cause := cause, cut := none, state := .error, ntrans := c.ntrans + 1 } else ctx? s n := by
  obtain ⟨t, cs, b, x, -, e, hread⟩ := contextError_eq s asid cause
  rw [e]
  exact hread n
theorem contextError_host : ∃ b x, (contextError s asid cause).host = { s.host with busy := b, result := x } := by
  obtain ⟨t, cs, b, x, -, e, -⟩ := contextError_eq s asid cause
  exact ⟨b, x, by rw [e]⟩
theorem SameLog.contextError : SameLog s (contextError s asid cause) := by
  obtain ⟨t, cs, b, x, ht, e, -⟩ := contextError_eq s asid cause
  rw [e]
  exact ht.log.trans (.of_bases rfl rfl rfl)

end

/-! ### Errors (R415) -/

theorem SameLog.modAgent (s : State) (k : Nat) (f : Agent → Agent) : SameLog s (modAgent s k f) := by
  unfold Machine.modAgent; split
  · exact ⟨rfl, rfl, fun _ => rfl⟩
  · exact SameLog.refl s

/-- What an uncorrectable error does to its data leaves the error logs. -/
theorem SameLog.poisonUnit (s : State) (x : EccUnit) : SameLog s (poisonUnit s x) := by
  have hrfl : SameLog s s := SameLog.refl s
  cases x with
  | hbm pa => exact SameLog.trans (t := { s with poison := lput s.poison (wordOf pa.toNat) }) ⟨rfl, rfl, fun _ => rfl⟩ (.of_pagesStruck (PagesStruck.poisonPhys s pa.toNat))
  | vreg k n => exact SameLog.modAgent ..
  | xreg k n => exact SameLog.modAgent ..
  | preg k n => exact SameLog.modAgent ..
  | creg cl n =>
    by_cases hbyp : n = 0x38
    · subst hbyp; exact ⟨rfl, rfl, fun _ => rfl⟩
    · have htable : Machine.poisonUnit s (.creg cl n) = putEngine s cl
          { engine s cl with tabMark := fput (engine s cl).tabMark n { code := .regPoison, acc := addAccess 0 0 } } := by
        simp only [Machine.poisonUnit]
      rw [htable]
      exact ⟨rfl, rfl, fun _ => rfl⟩
  | acc cl n => exact iteInduction (motive := SameLog s) (fun _ => ⟨rfl, rfl, fun _ => rfl⟩) fun _ => hrfl
  | mash d g => exact iteInduction (motive := SameLog s) (fun _ => hrfl) fun _ => ⟨rfl, rfl, fun _ => rfl⟩
  | l2 d va =>
    refine foldl_keeps SameLog.refl SameLog.trans (fun s l => ?_) _ s
    exact SameLog.trans (t := { s with poison := (wordsAt l.pa 128).foldl lput s.poison }) ⟨rfl, rfl, fun _ => rfl⟩
      (.of_pagesStruck (PagesStruck.poisonPageOf _ l.asid l.va))
  | saved asid => exact iteInduction (motive := SameLog s) (fun _ => SameLog.contextError ..) fun _ => hrfl
  | sram | firmware | link | mast | die => exact ⟨rfl, rfl, fun _ => rfl⟩

/-- An error is logged after it has struck its data, and where the logs stand has not changed by then. -/
theorem eccError_eq (s : State) (x : EccUnit) (c : Bool) : let t := if c then s else poisonUnit s x
    SameLog s t ∧ (MemoryOk s → MemoryOk t) ∧ eccError x c s = logError t x (if c then 0 else 1) := by
  cases c with
  | true => exact ⟨SameLog.refl s, id, rfl⟩
  | false => exact ⟨SameLog.poisonUnit s x, poisonUnit_ok s x, rfl⟩

/-! ### Self-tests (R373, R415) -/

/-- A self-test that finds nothing changes nothing of a unit that is not a link. -/
theorem healthSelfTest_transient (s : State) {x : EccUnit} (hx : ∀ n, x ≠ .link n) (spared : Bool) : healthSelfTest x false spared s = s := by
  cases x with
  | link n => exact absurd rfl (hx n)
  | _ => rfl
/-- A fault that is spared is recorded. -/
theorem healthSelfTest_spared (s : State) {x : EccUnit} (hx : ∀ n, x ≠ .link n) : healthSelfTest x true true s = logError s x 2 := by
  cases x with
  | link n => exact absurd rfl (hx n)
  | _ => rfl
/-- A lane fault of a link of a mast that has had none takes a spare lane (R372). -/
theorem healthSelfTest_lane (s : State) {n : Nat} (hn : n < 320) (hs : (link s n).state = .up) (hl : (link s n).lanes = []) :
    healthSelfTest (.link n) true true s =
      logError (putLink s n { link s n with lanes := [(0, { data := 1 })], state := .degraded }) (.link n) 2 := by
  have hserves : (link s n).state.serves = true := by rw [hs]; rfl
  have hcovered : lanesCovered n [(0, { data := 1 })] = true := by
    unfold lanesCovered linkKind
    by_cases h1 : n < 192
    · simp [h1]
    · simp [h1, hn]
  simp [healthSelfTest, hserves, loseLane, hl, fput, fgetD, fget?, hcovered, hn]

/-- The links of the masts are the first 320 (R372; the numbering is log 10). -/
theorem lt_of_linkKind_mast {n m : Nat} (h : linkKind n = some (.mast m)) : n < 320 := by
  by_contra hn
  have h192 : ¬ n < 192 := by omega
  simp only [linkKind, h192, hn, if_false] at h
  split at h <;> cases h

theorem SameLog.fence (s : State) (n : Nat) : SameLog s (fence s n) := .of_bases rfl rfl rfl
theorem link_fence (s : State) (n j : Nat) : link (fence s n) j = if j = n then { link s n with state := .fenced, replay := 0 } else link s j :=
  link_putLink s n j _

/-- A FENCED link whose self-test finds nothing trains again (R373). -/
theorem healthSelfTest_retrains (s : State) {n : Nat} (hs : (link s n).state = .fenced) (spared : Bool) :
    ∃ w tr, healthSelfTest (.link n) false spared s = (putLink s n { link s n with state := .training }).looked w tr := by
  obtain ⟨w, tr, e⟩ := run_event (fun s => if (link s n).state != .fenced then s else putLink s n { link s n with state := .training }) s
  refine ⟨w, tr, e.trans ?_⟩
  simp only [hs, bne_self_eq_false, Bool.false_eq_true, if_false]
/-- A lasting fault of a link retires it: one in service is FENCED first (R373). -/
theorem healthSelfTest_retires (s : State) {n : Nat} (hs : (link s n).state ∈ [LState.up, .degraded, .fenced]) :
    ∃ t w tr, SameLog s t ∧ (link t n).state = .retired ∧ healthSelfTest (.link n) true false s = (logError t (.link n) 3).looked w tr := by
  let t := if (link s n).state.serves then Machine.fence s n else s
  have hlog : SameLog s t := iteInduction (motive := SameLog s) (fun _ => .fence s n) fun _ => .refl s
  have hfenced : (link t n).state = .fenced := by
    simp only [List.mem_cons, List.not_mem_nil, or_false] at hs
    rcases hs with hs | hs | hs <;> simp [t, hs, LState.serves, link_fence]
  obtain ⟨w, tr, e⟩ := run_event (fun s => if (link s n).state != .fenced then s else retireLink s n) t
  refine ⟨putLink t n { link t n with state := .retired }, w, tr, hlog.trans (.of_bases rfl rfl rfl), by rw [link_putLink, if_pos rfl], e.trans ?_⟩
  simp only [hfenced, bne_self_eq_false, Bool.false_eq_true, if_false]
  rfl

/-- Links written RETIRED one after the other: those listed are, and one that was stays so. -/
theorem retired_foldl {n : Nat} : ∀ (l : List Nat) (x : FMap Link), n ∈ l ∨ (fgetD x n {}).state = .retired →
    (fgetD (l.foldl (fun x n => fput x n { fgetD x n {} with state := .retired }) x) n {}).state = .retired
  | [], _, h => h.resolve_left List.not_mem_nil
  | k :: l, x, h => by
    refine retired_foldl l _ ?_
    rw [fgetD_fput]
    by_cases hk : n = k
    · exact .inr (by rw [if_pos hk])
    · rw [if_neg hk]
      exact h.imp_left fun h => (List.mem_cons.mp h).resolve_left hk
/-- A mast that is retired: its links are, and it leaves service (R363, R373). -/
theorem retireMast_spec (s : State) (m : Nat) : SameLog s (retireMast s m) ∧
    (∀ n, linkKind n = some (.mast m) → (link (retireMast s m) n).state = .retired) ∧
    (bitN (aliveNow s) m = true → Event.mastRemap m false ∈ (retireMast s m).agenda) := by
  refine ⟨.of_bases rfl rfl rfl, fun n hn => ?_, fun hm => ?_⟩
  · refine retired_foldl _ s.links (.inl (List.mem_filter.mpr ⟨mem_upFrom.mpr ?_, by simpa using hn⟩))
    have := lt_of_linkKind_mast hn
    omega
  · change _ ∈ s.agenda ++ if bitN (aliveNow s) m then [Event.mastRemap m false] else []
    simp [hm]

/-! ### The failure of a die (R14) -/

theorem mem_foldl_wordsAt {w : Nat} : ∀ (l : List Line) (p : List Nat),
    w ∈ l.foldl (fun p l => (wordsAt l.pa 128).foldl lput p) p ↔ (∃ x ∈ l, w ∈ wordsAt x.pa 128) ∨ w ∈ p
  | [], _ => by simp
  | x :: l, p => by
    rw [List.foldl_cons, mem_foldl_wordsAt l, mem_foldl_lput]
    simp only [List.mem_cons, exists_eq_or_imp]
    exact or_left_comm.trans or_assoc.symm
/-- A failed die is OFF without its lines, and the words of what it held modified are poisoned. -/
theorem dieFailure_eq (s : State) (d : Nat) : ∃ t, dieFailure d s = putDie (dropLines t fun l => l.die == d) d { dieSt t d with pstate := 0 } ∧
    t.lines = s.lines ∧ ∀ w, w ∈ t.poison ↔ (∃ l ∈ s.lines, (l.die = d ∧ l.dirty = true) ∧ w ∈ wordsAt l.pa 128) ∨ w ∈ s.poison := by
  let held := s.lines.filter fun l => l.die == d && l.dirty
  let s1 : State := { s with poison := held.foldl (fun p l => (wordsAt l.pa 128).foldl lput p) s.poison }
  obtain ⟨b, m, e, -⟩ := foldl_keeps PagesStruck.refl PagesStruck.trans (fun s (l : Line) => PagesStruck.poisonPageOf s l.asid l.va) held s1
  refine ⟨_, rfl, by rw [e], fun w => ?_⟩
  rw [e]
  refine (mem_foldl_wordsAt held s.poison).trans (or_congr_left ?_)
  simp only [held, List.mem_filter, Bool.and_eq_true, beq_iff_eq, and_assoc]

end Sys2Proof.Machine
end

section
/-!
PROOF. Accesses from outside (R211, R405), quotes (R411), bring-up and FATAL (R417, R418).
-/
namespace Sys2Proof.Machine

/-! ### Writes from outside (R211, R405) -/

/-- Only lines have been dropped, and of what is left none meets `p`. -/
def LinesDropped (p : Line → Prop) (s u : State) : Prop := ∃ l, u = { s with lines := l } ∧ ∀ x ∈ l, x ∈ s.lines ∧ ¬ p x

theorem LinesDropped.invalidateFor (s : State) (pa : Nat) : LinesDropped (·.pa = lineOf pa) s (invalidateFor s pa none) := by
  unfold Machine.invalidateFor
  split
  · next h => exact ⟨s.lines, rfl, fun x hx => by rw [List.isEmpty_iff.mp h] at hx; cases hx⟩
  · refine ⟨_, rfl, fun x hx => ?_⟩
    simpa using List.mem_filter.mp hx
theorem LinesDropped.foldl : ∀ (l : List Nat) (s : State),
    LinesDropped (fun x => ∃ n ∈ l, x.pa = lineOf (128 * n)) s (l.foldl (fun s n => Machine.invalidateFor s (128 * n) none) s)
  | [], s => ⟨s.lines, rfl, fun x hx => ⟨hx, by simp⟩⟩
  | n :: l, s => by
    obtain ⟨l1, e1, h1⟩ := LinesDropped.invalidateFor s (128 * n)
    obtain ⟨l2, e2, h2⟩ := LinesDropped.foldl l (Machine.invalidateFor s (128 * n) none)
    rw [e1] at h2
    refine ⟨l2, by rw [List.foldl_cons, e2, e1], fun x hx => ?_⟩
    obtain ⟨hx1, hx2⟩ := h2 x hx
    obtain ⟨hs, hn⟩ := h1 x hx1
    refine ⟨hs, ?_⟩
    simp only [List.mem_cons, exists_eq_or_imp, not_or]
    exact ⟨hn, hx2⟩

/-- What is published leaves everything but the releases of its locations (R205). -/
theorem publish_keeps (s : State) (ws : List Nat) (rels : List Rel) (rmw : Bool) : ∃ r, publish s ws rels rmw = { s with rels := r } := by
  refine foldl_keeps (R := fun s u => ∃ r, u = { s with rels := r }) (fun s => ⟨s.rels, rfl⟩)
    (by rintro s _ _ ⟨a, rfl⟩ ⟨b, rfl⟩; exact ⟨b, rfl⟩) (fun s x => ?_) ws s
  dsimp only
  split
  · exact iteInduction (motive := fun u : State => ∃ r, u = { s with rels := r }) (fun _ => ⟨s.rels, rfl⟩) fun _ => ⟨_, rfl⟩
  · exact ⟨_, rfl⟩

/-- The address of a byte's line. -/
theorem lineOf_mul (n : Nat) : lineOf (128 * n) = 128 * n := by unfold lineOf; omega

/-- A write from outside writes its bytes, and no die keeps a line that it touches. -/
theorem outsideWrite_spec (s : State) (pa : Nat) (data : List Byte) :
    (outsideWrite s pa data).mem = writeN s.mem pa (ofBytes data) data.length ∧ (outsideWrite s pa data).agents = s.agents ∧
    ∀ l ∈ (outsideWrite s pa data).lines, ∀ i, i < data.length → l.pa ≠ lineOf (pa + i) := by
  by_cases hn : data.length = 0
  · have hsame : outsideWrite s pa data = s := if_pos (by simpa using hn)
    rw [hsame, hn]
    exact ⟨rfl, rfl, fun _ _ i hi => absurd hi (Nat.not_lt_zero i)⟩
  · obtain ⟨po, hpo, -⟩ := unpoison_eq { s with mem := writeN s.mem pa (ofBytes data) data.length } pa data.length
    obtain ⟨ls, hls, hdropped⟩ := LinesDropped.foldl (upFrom (pa / 128) ((pa + data.length - 1) / 128 + 1 - pa / 128))
      { s with mem := writeN s.mem pa (ofBytes data) data.length, poison := po }
    obtain ⟨r, hr⟩ := publish_keeps { s with mem := writeN s.mem pa (ofBytes data) data.length, poison := po, lines := ls } (wordsAt pa data.length) [] false
    have hwrite : outsideWrite s pa data = { s with mem := writeN s.mem pa (ofBytes data) data.length, poison := po, lines := ls, rels := r } := by
      unfold outsideWrite
      simp only [beq_iff_eq, hn, if_false, hpo, hls, hr]
    rw [hwrite]
    refine ⟨rfl, rfl, fun l hl i hi heq => (hdropped l hl).2 ⟨(pa + i) / 128, mem_upFrom.mpr ?_, ?_⟩⟩
    · omega
    · rw [heq, lineOf_mul]; unfold lineOf; omega

/-- An access of the host that the access table refuses, that is beyond mappable memory, elsewhere, or after FATAL is aborted. -/
theorem hostAccess_aborted (s : State) {master pa n : Nat} {data : Option (List Byte)}
    (h : s.host.fatal = true ∨ paPkg pa ≠ s.package ∨ mappableEnd < pa % 2 ^ 44 + n ∨ refusedBy s master pa (if data.isSome then .store else .load) = true) :
    hostAccess master pa n data s = s := by
  refine if_pos ?_
  simp only [Bool.or_eq_true, bne_iff_ne, decide_eq_true_eq, gt_iff_lt]
  tauto
/-- A read changes nothing. -/
theorem hostAccess_read (s : State) (master pa n : Nat) : hostAccess master pa n none s = s := ite_self _
/-- A write that meets no queue's record is a write from outside. -/
theorem hostAccess_write (s : State) {master pa n : Nat} {d : List Byte} (hf : s.host.fatal = false) (hp : paPkg pa = s.package)
    (he : pa % 2 ^ 44 + n ≤ mappableEnd) (hr : refusedBy s master pa .store = false)
    (hq : ∀ qk q r, (qk, q) ∈ s.queues → devicePa s q.asid q.recVa.toNat = some r → rangesMeet r 64 pa (d.take n).length = false)
    (hb : ∀ x ∈ bareRecords s, rangesMeet x.2.2 64 pa (d.take n).length = false) :
    hostAccess master pa n (some d) s = outsideWrite s pa (d.take n) := by
  have hallowed : (s.host.fatal || paPkg pa != s.package || decide (pa % 2 ^ 44 + n > mappableEnd) ||
      refusedBy s master pa (if (some d).isSome then .store else .load)) = false := by
    simp only [hf, hp, bne_self_eq_false, Option.isSome_some, if_true, hr, Bool.or_false, Bool.false_or, decide_eq_false_iff_not]
    omega
  have hrecs : (s.queues.filterMap fun x => (devicePa s x.2.asid x.2.recVa.toNat).bind fun r =>
      if rangesMeet r 64 pa (d.take n).length then some (x.1, r) else none) = [] := by
    refine List.filterMap_eq_nil_iff.mpr fun x hx => ?_
    cases hd : devicePa s x.2.asid x.2.recVa.toNat with
    | none => rfl
    | some r => simp only [Option.bind_some, hq x.1 x.2 r hx hd, Bool.false_eq_true, if_false]
  have hbare : ((bareRecords s).filter fun x => rangesMeet x.2.2 64 pa (d.take n).length) = [] := by
    refine List.filter_eq_nil_iff.mpr fun x hx => ?_
    simp only [hb x hx, Bool.false_eq_true, not_false_eq_true]
  unfold hostAccess
  simp only [hallowed, Bool.false_eq_true, if_false, hrecs, hbare, List.foldl_nil]

/-! ### Quotes (R411) -/

theorem savedState_iff (st : CState) : savedState st = true ↔ st ≠ .free ∧ st ≠ .retired := by simp [savedState]

/-- The quote of a nonce: the measurements of the firmware and of the contexts that are BUILT or later and not RETIRED, signed. -/
theorem attestationQuote_eq {s : State} (h : s.host.ready = true) (n : BitVec 256) :
    ∃ q, attestationQuote n s = { s with quotes := s.quotes ++ [q] } ∧ q.nonce = n ∧ q.firmware = shake256 Config.firmware ∧
      q.contexts = (s.ctxs.filter fun x => savedState x.2.state).map fun x => (x.1, shake256 (bytesOf x.2.desc 128)) := by
  have hready : (!s.host.ready) = false := by rw [h]; rfl
  exact ⟨_, if_neg (by rw [hready]; decide), rfl, rfl, rfl⟩

/-! ### Bring-up (R417) -/

/-- The part after bring-up, before its links with lane faults are looked at (R417). -/
def broughtUp (s : State) : State :=
  { State.reset with
    package := s.package, denied := s.denied.filter (·.asid.isNone), mem := s.mem.filter fun c => paPkg c.1 != s.package
    links := (upFrom 0 384).map fun n => (n, { state := .up }), host := { stage := 4, ready := true }
    dies := (upFrom 0 Config.numDies).map fun d => (d, { pstate := 1 }) }
/-- A link that has trained with lane faults (R373). -/
def trainOne (s : State) (x : Nat × List (Nat × Nat)) : State :=
  if (linkKind x.1).isNone then s else
  let t := putLink s x.1 (trainedLink x.1 x.2)
  if (trainedLink x.1 x.2).state == .fenced then fence t x.1 else t
theorem packageReset_ok_eq (ds : List (Nat × List (Nat × Nat))) (s : State) : packageReset (.ok ds) s = ds.foldl trainOne (broughtUp s) := rfl

theorem trainOne_keeps (s : State) (x : Nat × List (Nat × Nat)) : ∃ l a, trainOne s x = { s with links := l, agenda := a } := by
  unfold trainOne
  split
  · exact ⟨s.links, s.agenda, rfl⟩
  · dsimp only
    split
    · exact ⟨_, _, rfl⟩
    · exact ⟨_, s.agenda, rfl⟩
theorem trainOne_foldl_keeps (ds : List (Nat × List (Nat × Nat))) (s : State) : ∃ l a, ds.foldl trainOne s = { s with links := l, agenda := a } :=
  foldl_keeps (R := fun s u => ∃ l a, u = { s with links := l, agenda := a }) (fun s => ⟨s.links, s.agenda, rfl⟩)
    (by rintro s _ _ ⟨l, a, rfl⟩ ⟨l', a', rfl⟩; exact ⟨l', a', rfl⟩) trainOne_keeps ds s
theorem link_trainOne_ne (s : State) (x : Nat × List (Nat × Nat)) {n : Nat} (h : x.1 ≠ n) : link (trainOne s x) n = link s n := by
  unfold trainOne
  split
  · rfl
  · dsimp only
    split
    · rw [link_fence, if_neg (Ne.symm h), link_putLink, if_neg (Ne.symm h)]
    · rw [link_putLink, if_neg (Ne.symm h)]
theorem link_trainOne_foldl_ne {n : Nat} : ∀ (ds : List (Nat × List (Nat × Nat))) (s : State), (∀ x ∈ ds, x.1 ≠ n) → link (ds.foldl trainOne s) n = link s n
  | [], _, _ => rfl
  | x :: ds, s, h => by
    rw [List.foldl_cons, link_trainOne_foldl_ne ds _ fun y hy => h y (List.mem_cons_of_mem _ hy), link_trainOne_ne s x (h x List.mem_cons_self)]
theorem link_trainOne_same (s : State) {n : Nat} (hn : n < 384) (faults : List (Nat × Nat)) :
    (link (trainOne s (n, faults)) n).state = (trainedLink n faults).state := by
  have hkind : (linkKind n).isNone = false := by
    unfold linkKind
    split
    · rfl
    · split
      · rfl
      · rfl
  unfold trainOne
  simp only [hkind, Bool.false_eq_true, if_false]
  split
  · next h => rw [link_fence, if_pos rfl]; exact (beq_iff_eq.mp h).symm
  · rw [link_putLink, if_pos rfl]
theorem link_broughtUp (s : State) {n : Nat} (hn : n < 384) : (link (broughtUp s) n).state = .up := by
  have htable := fgetD_table (fun _ => ({ state := .up } : Link)) {} (a := 0) (n := 384) (j := n) (by omega)
  exact congrArg Link.state htable
theorem dieSt_broughtUp (s : State) {d : Nat} (hd : d < 8) : (dieSt (broughtUp s) d).pstate = 1 := by
  have htable := fgetD_table (fun _ => ({ pstate := 1 } : Die)) {} (a := 0) (n := 8) (j := d) (by omega)
  exact congrArg Die.pstate htable
/-- All HBM of the package reads 0 after bring-up, and memory elsewhere stands (R417). -/
theorem get_broughtUp (s : State) (h : MemoryOk s) (a : Nat) :
    Memory.get (broughtUp s).mem a = if paPkg a = s.package then 0 else Memory.get s.mem a := by
  have hfilter := Memory.get_filter h.1 (fun a => paPkg a != s.package) a
  refine hfilter.trans ?_
  by_cases hp : paPkg a = s.package <;> simp [hp]

/-! ### FATAL (R418) -/

/-- Of the host's registers only BUSY and RESULT may differ. -/
def OnlyRequest (s u : State) : Prop := ∃ b x, u.host = { s.host with busy := b, result := x }

theorem OnlyRequest.refl (s : State) : OnlyRequest s s := ⟨s.host.busy, s.host.result, rfl⟩
theorem OnlyRequest.trans {s t u : State} (h : OnlyRequest s t) (g : OnlyRequest t u) : OnlyRequest s u := by
  obtain ⟨b, x, h⟩ := h
  obtain ⟨b', x', g⟩ := g
  exact ⟨b', x', by rw [g, h]⟩
theorem OnlyRequest.contextError (s : State) (asid cause : Nat) : OnlyRequest s (contextError s asid cause) := contextError_host s asid cause
theorem OnlyRequest.contextErrors (cause : Nat) (l : List (Nat × Ctx)) (s : State) :
    OnlyRequest s (l.foldl (fun s x => Machine.contextError s x.1 cause) s) := by
  refine foldl_keeps (R := OnlyRequest) OnlyRequest.refl OnlyRequest.trans (fun s x => ?_) l s
  exact OnlyRequest.contextError s x.1 cause

/-- A context that has entered ERROR or is about to is in ERROR after the entries of a list. -/
theorem ctxState_contextErrors (cause : Nat) {n : Nat} : ∀ (l : List (Nat × Ctx)) (s : State), (ctx? s n).isSome = true →
    (ctxState s n = .error ∨ ∃ c, (n, c) ∈ l) → ctxState (l.foldl (fun s x => contextError s x.1 cause) s) n = .error
  | [], _, _, h => h.resolve_right (by simp)
  | x :: l, s, hs, h => by
    obtain ⟨c, hc⟩ := Option.isSome_iff_exists.mp hs
    refine ctxState_contextErrors cause l _ ?_ ?_
    · rw [ctx?_contextError]
      split
      · next hn => rw [← hn, hc]; rfl
      · exact hs
    · by_cases hn : n = x.1
      · left
        rw [ctxState, ctx?_contextError, if_pos hn, ← hn, hc]
        rfl
      · have hkept : ctxState (contextError s x.1 cause) n = ctxState s n := by rw [ctxState, ctx?_contextError, if_neg hn]; rfl
        rw [hkept]
        refine h.imp_right fun ⟨c, hmem⟩ => ⟨c, (List.mem_cons.mp hmem).resolve_left fun e => hn (by rw [← e])⟩

/-- The host's registers as the package stops. -/
def stoppedHost (image : Bool) (h : HostRegs) : HostRegs :=
  if image then { h with fatal := true, ready := false, stage := 5, fwerr := 1 } else { h with fatal := true, ready := false }
/-- The package stops: its registers say so, and the contexts that run enter ERROR one after the other. -/
theorem packageFatal_eq (image : Bool) (s : State) : packageFatal image s =
    (s.ctxs.filter fun x => x.2.state == .running || x.2.state == .cutting).foldl (fun s x => contextError s x.1 5)
      { s with host := stoppedHost image s.host } := by
  cases image <;> rfl

end Sys2Proof.Machine
end

section
/-!
PROOF. The statement about the events of the host, of power and of health (R14, R211, R405 to R418), clause by clause.
-/
namespace Sys2Proof.Machine

theorem event_congr {f g : State → State} {s t : State} (h : f s = g t) : event f s = event g t := by unfold event; rw [h]

/-! ### Power -/

theorem power_ignored_enters {s : State} {d : Nat} {p : BitVec 2} {e : Instr} (h : ¬ Up s)
    (he : e ∈ [Instr.diePowerOff d, .diePowerOn d, .operatingPointRequest d p]) : Enters (exec e s) s := by
  obtain ⟨hoff, hon, hpoint⟩ := power_ignored h d p
  simp only [List.mem_cons, List.not_mem_nil, or_false] at he
  rcases he with rfl | rfl | rfl
  · exact Enters.of_eq hoff
  · exact Enters.of_eq hon
  · exact Enters.of_eq hpoint

theorem diePowerOff_event {s : State} {d : Nat} (h : Up s) : let out := event (diePowerOff d) s
    ((dieSt s d).pstate = 3 → Enters out (offRefused s d 0)) ∧ ((dieSt s d).pstate ≠ 3 →
      (resident s d = true → Enters out (offRefused s d 1)) ∧ (resident s d = false →
      ((dieSt s d).mash.state ≠ 0 ∨ (dieSt s d).mash.owned = true → Enters out (offRefused s d 2)) ∧
      ((dieSt s d).mash.state = 0 → (dieSt s d).mash.owned = false →
        (ownsList s d = true → Enters out (offRefused s d 3)) ∧ (ownsList s d = false →
          Happens out fun u => dieSt u d = { dieSt s d with req := 0, result := 0, pstate := 0 } ∧
            (∀ l ∈ u.lines, l.die ≠ d) ∧ u.mem = s.mem ∧ Others [] s u)))) := by
  have hoff := diePowerOff_eq (d := d) h
  refine ⟨fun hp => .of_eq (by rw [hoff, if_pos hp]), fun hp => ?_⟩
  rw [if_neg hp] at hoff
  refine ⟨fun hr => .of_eq (by rw [hoff, if_pos hr]), fun hr => ?_⟩
  rw [if_neg (by rw [hr]; decide)] at hoff
  refine ⟨fun hm => .of_eq (by rw [hoff, if_pos hm]), fun hm ho => ?_⟩
  rw [if_neg (by rw [hm, ho]; decide)] at hoff
  refine ⟨fun hl => .of_eq (by rw [hoff, if_pos hl]), fun hl => .of_event fun w tr => ?_⟩
  rw [if_neg (by rw [hl]; decide)] at hoff
  rw [hoff]
  exact ⟨dieSt_putDie_same .., fun l hmem => die_ne_of_mem_dropLines hmem, rfl, .looked_of rfl w tr⟩

theorem diePowerOn_event {s : State} {d : Nat} (h : Up s) : let out := event (diePowerOn d) s
    ((dieSt s d).pstate = 3 → Enters out (putDie s d { dieSt s d with req := 1, result := 1 })) ∧
    ((dieSt s d).pstate ≠ 3 → (dieSt s d).pstate ≠ 0 → Enters out (putDie s d { dieSt s d with req := 1, result := 0 })) ∧
    ((dieSt s d).pstate = 0 → Happens out fun u => dieSt u d = { dieSt s d with req := 1, result := 0, pstate := 1 } ∧
      (∀ core, core / 80 = d → fgetD u.clocks core 0 = 0) ∧ (∀ cl, cl / 20 = d → cluster u cl = { remaining := (dieSt s d).allow.toNat }) ∧
      Others [] s u ∧ u.mem = s.mem) := by
  have hon := diePowerOn_eq (d := d) h
  refine ⟨fun hp => .of_eq (by rw [hon, if_pos hp]), fun hp hp0 => .of_eq (by rw [hon, if_neg hp, if_pos hp0]), fun hp => .of_event fun w tr => ?_⟩
  obtain ⟨m, e, hclusters⟩ := diePowerOn_off h hp
  rw [e]
  refine ⟨dieSt_putDie_same .., fun core hcore => ?_, hclusters, .looked_of rfl w tr, rfl⟩
  change (fget? (s.clocks.filter fun x => x.1 / 80 != d) core).getD 0 = 0
  cases hclk : fget? (s.clocks.filter fun x => x.1 / 80 != d) core with
  | none => rfl
  | some x =>
    have hkept := (List.mem_filter.mp (mem_of_fget? hclk)).2
    simp [hcore] at hkept

theorem operatingPointSwitch_event {s : State} {d : Nat} {p : BitVec 2} (h : (dieSt s d).want = some p) :
    let a := if p = 0 then 90000 else if p = 2 then 185000 else 150000
    Happens (event (operatingPointSwitch d) s) fun u => Others [] s u ∧
      dieSt u d = { dieSt s d with point := p, want := none, allow := BitVec.ofNat 24 a, amps := (if p = 0 then 16 else if p = 2 then 30 else 26) } ∧
      ∀ cl, cl / 20 = d → (cluster u cl).remaining = if (cluster s cl).admitted = 0 then a else (cluster s cl).remaining := by
  intro a
  have hpoint : pointDefaults p = (a, if p = 0 then 16 else if p = 2 then 30 else 26) := by
    simp only [pointDefaults, a, beq_iff_eq]
    split <;> [rfl; split <;> rfl]
  obtain ⟨m, e, hclusters⟩ := operatingPointSwitch_some h
  rw [hpoint] at e hclusters
  refine .of_event fun w tr => ?_
  rw [e]
  refine ⟨.looked_of rfl w tr, ?_, fun cl hcl => ?_⟩
  · refine (dieSt_putDie_same ..).trans ?_
    split <;> [rfl; split <;> rfl]
  · change (fgetD m cl {}).remaining = _
    rw [hclusters cl hcl, repointed]
    split <;> rfl

theorem controlIntervalStart_event (s : State) : Happens (event controlIntervalStart s) fun u => Others [] s u ∧ u.mem = s.mem ∧
    u.agenda = ((s.dies.filter fun x => x.2.want.isSome).map fun x => Event.operatingPointSwitch x.1) ++ s.agenda ∧ ∀ cl, cl < 160 →
    (cluster u cl).remaining = (dieSt s (cl / 20)).allow.toNat ∧ (cluster u cl).admitted = 0 ∧ (cluster u cl).eng = (cluster s cl).eng := by
  obtain ⟨m, e, hclusters⟩ := controlIntervalStart_eq s
  refine .of_event fun w tr => ?_
  rw [e]
  refine ⟨.looked_of rfl w tr, rfl, rfl, fun cl hcl => ?_⟩
  change (fgetD m cl {}).remaining = _ ∧ (fgetD m cl {}).admitted = 0 ∧ (fgetD m cl {}).eng = _
  rw [hclusters cl hcl]
  exact ⟨rfl, rfl, rfl⟩

/-! ### Errors -/

theorem eccError_event (s : State) (x : EccUnit) (c : Bool) : Happens (event (eccError x c) s) fun u => Logged s u x ∧
    (MemoryOk s → readN u.mem (nextRecord s x) 32 = recordOf s x (if c then 0 else 1) % 2 ^ 256) ∧
    (c = true → Others [] s u ∧ u.mem = writeN s.mem (nextRecord s x) (recordOf s x 0) 32 ∧ ∀ w, ¬ InRecord s x w → (w ∈ u.poison ↔ w ∈ s.poison)) := by
  obtain ⟨hlog, hmem, e⟩ := eccError_eq s x c
  refine .of_event fun w tr => ?_
  rw [e]
  refine ⟨(hlog.logged x _).looked w tr, fun hm => by rw [looked_mem, hlog.readN_logError x _ (hmem hm)], fun hc => ?_⟩
  subst hc
  exact ⟨.looked_of (logError_agents ..) w tr, by rw [looked_mem, hlog.logError_mem]; rfl, fun w hw => hlog.mem_logError_poison x 0 hw⟩

/-- Of the poison outside the record, an uncorrectable error changes only what its unit's poisoning does. -/
theorem mem_eccError_poison {s : State} {x : EccUnit} {w : Nat} (hw : ¬ InRecord s x w) :
    w ∈ (eccError x false s).poison ↔ w ∈ (poisonUnit s x).poison := (SameLog.poisonUnit s x).mem_logError_poison x 1 hw
theorem eccError_agents (s : State) (x : EccUnit) : (eccError x false s).agents = (poisonUnit s x).agents := logError_agents ..

theorem eccError_hbm_event (s : State) (pa : BitVec 56) : Happens (event (eccError (.hbm pa) false) s) fun u => Others [] s u ∧
    ∀ w, ¬ InRecord s (.hbm pa) w → (w ∈ u.poison ↔ w = wordOf pa.toNat ∨ w ∈ s.poison) := by
  obtain ⟨b, m, e, -⟩ := PagesStruck.poisonPhys s pa.toNat
  have hunit : poisonUnit s (.hbm pa) = _ := e
  refine .of_event fun w tr => ⟨.looked_of ?_ w tr, fun w hw => (mem_eccError_poison hw).trans ?_⟩
  · rw [eccError_agents, hunit]
  · rw [hunit]; exact mem_lput
theorem eccError_sram_event (s : State) (core off : Nat) : Happens (event (eccError (.sram core off) false) s) fun u =>
    ∀ w, ¬ InRecord s (.sram core off) w → (w ∈ u.poison ↔ w = sramWord (sramLoc core off) ∨ w ∈ s.poison) :=
  .of_event fun _ _ _ hw => (mem_eccError_poison hw).trans mem_lput
theorem eccError_vreg_event {s : State} {k n : Nat} {a : Agent} (ha : agent? s k = some a) (hn : n < a.nregs) (h255 : n < 255) :
    Happens (event (eccError (.vreg k n) false) s) fun u => ∃ b, agent? u k = some b ∧
      (b.vcell n).poison = true ∧ (b.vcell n).val = (a.vcell n).val ∧ ∀ m, m ≠ n → b.vcell m = a.vcell m := by
  let a' := a.setV n { a.vcell n with poison := true }
  have hunit : agent? (eccError (.vreg k n) false s) k = some a' := by
    have hset : poisonUnit s (.vreg k n) = putAgent s k a' := (modAgent_some ha _).trans (by rw [if_pos hn])
    rw [agent?, eccError_agents, hset]
    exact agent?_putAgent_same ..
  refine .of_event fun w tr => ⟨{ a' with wait := w a' }, by rw [agent?_looked, hunit]; rfl, ?_⟩
  have hread : ∀ m, Agent.vcell { a' with wait := w a' } m = if m = n ∧ n < 255 then { a.vcell n with poison := true } else a.vcell m := vcell_setV a n _
  refine ⟨by rw [hread, if_pos ⟨rfl, h255⟩], by rw [hread, if_pos ⟨rfl, h255⟩], fun m hm => by rw [hread, if_neg fun h => hm h.1]⟩

/-! ### Self-tests, and the failure of a die -/

theorem healthSelfTest_retrains_event {s : State} {n : Nat} (hs : (link s n).state = .fenced) (spared : Bool) :
    Happens (event (healthSelfTest (.link n) false spared) s) fun u => (link u n).state = .training ∧ ∀ j, j ≠ n → link u j = link s j := by
  obtain ⟨w, tr, e⟩ := healthSelfTest_retrains s hs spared
  refine .of_event fun w' tr' => ⟨?_, fun j hj => ?_⟩
  · rw [e, looked_link, looked_link, link_putLink, if_pos rfl]
  · rw [e, looked_link, looked_link, link_putLink, if_neg hj]
theorem healthSelfTest_spared_event {s : State} {x : EccUnit} (hx : ∀ n, x ≠ .link n) : Happens (event (healthSelfTest x true true) s) fun u =>
    Logged s u x ∧ Others [] s u ∧ u.mem = writeN s.mem (nextRecord s x) (recordOf s x 2) 32 ∧ u.dies = s.dies ∧ u.links = s.links := by
  have hlog := SameLog.refl s
  refine .of_event fun w tr => ?_
  rw [healthSelfTest_spared s hx]
  exact ⟨(hlog.logged x 2).looked w tr, .looked_of (logError_agents ..) w tr, by rw [looked_mem, hlog.logError_mem],
    by rw [looked_dies, logError_dies], by rw [looked_links, logError_links]⟩
theorem healthSelfTest_lane_event {s : State} {n : Nat} (hn : n < 320) (hs : (link s n).state = .up) (hl : (link s n).lanes = []) :
    Happens (event (healthSelfTest (.link n) true true) s) fun u => Logged s u (.link n) ∧ (link u n).state = .degraded ∧
      (link u n).lanes = [(0, { data := 1 })] ∧ u.mem = writeN s.mem (nextRecord s (.link n)) (recordOf s (.link n) 2) 32 := by
  let t : State := putLink s n { link s n with lanes := [(0, { data := 1 })], state := .degraded }
  have hlog : SameLog s t := .of_bases rfl rfl rfl
  refine .of_event fun w tr => ?_
  rw [healthSelfTest_lane s hn hs hl, looked_link, link_logError, link_putLink, if_pos rfl, looked_mem]
  exact ⟨(hlog.logged _ 2).looked w tr, rfl, rfl, hlog.logError_mem _ 2⟩
theorem healthSelfTest_die_event (s : State) (d : Nat) : Happens (event (healthSelfTest (.die d) true false) s) fun u =>
    Logged s u (.die d) ∧ (dieSt u d).pstate = 3 ∧ ∀ l ∈ u.lines, l.die ≠ d := by
  let t : State := putDie (dropLines s fun l => l.die == d) d { dieSt s d with pstate := 3 }
  have hlog : SameLog s t := .of_bases rfl rfl rfl
  have htest : healthSelfTest (.die d) true false s = logError t (.die d) 3 := rfl
  refine .of_event fun w tr => ?_
  rw [htest, looked_dieSt, dieSt_logError, dieSt_putDie_same, looked_lines, logError_lines]
  exact ⟨(hlog.logged _ 3).looked w tr, rfl, fun l hl => die_ne_of_mem_dropLines hl⟩
theorem healthSelfTest_retires_event {s : State} {n : Nat} (hs : (link s n).state ∈ [LState.up, .degraded, .fenced]) :
    Happens (event (healthSelfTest (.link n) true false) s) fun u => Logged s u (.link n) ∧ (link u n).state = .retired := by
  obtain ⟨t, w, tr, hlog, hret, e⟩ := healthSelfTest_retires s hs
  refine .of_event fun w' tr' => ?_
  rw [e, looked_looked, looked_link, link_logError]
  exact ⟨(hlog.logged _ 3).looked _ tr', hret⟩
theorem healthSelfTest_mast_event {s : State} {m : Nat} (hm : m < 4) : Happens (event (healthSelfTest (.mast m) true false) s) fun u =>
    Logged s u (.mast m) ∧ (∀ n, linkKind n = some (.mast m) → (link u n).state = .retired) ∧
      (bitN (aliveNow s) m = true → Event.mastRemap m false ∈ u.agenda) := by
  obtain ⟨hlog, hlinks, hagenda⟩ := retireMast_spec s m
  have htest : healthSelfTest (.mast m) true false s = logError (retireMast s m) (.mast m) 3 :=
    congrArg (logError · (.mast m) 3) (if_pos hm)
  refine .of_event fun w tr => ?_
  rw [htest, looked_agenda, logError_agenda]
  exact ⟨(hlog.logged _ 3).looked w tr, fun n hn => by rw [looked_link, link_logError, hlinks n hn], hagenda⟩
theorem dieFailure_event (s : State) (d : Nat) : Happens (event (dieFailure d) s) fun u => (dieSt u d).pstate = 0 ∧ (∀ l ∈ u.lines, l.die ≠ d) ∧
    (∀ w ∈ s.poison, w ∈ u.poison) ∧ ∀ l ∈ s.lines, l.die = d → l.dirty = true → ∀ w ∈ wordsAt l.pa 128, w ∈ u.poison := by
  obtain ⟨t, e, -, hpoison⟩ := dieFailure_eq s d
  refine .of_event fun w tr => ?_
  rw [e]
  exact ⟨congrArg Die.pstate (dieSt_putDie_same ..), fun l hl => die_ne_of_mem_dropLines hl, fun w hw => (hpoison w).mpr (.inr hw),
    fun l hl hd hdirty w hw => (hpoison w).mpr (.inl ⟨l, hl, ⟨hd, hdirty⟩, hw⟩)⟩

/-! ### From outside -/

theorem hostWriteInvalidate_event {s : State} {pa : BitVec 56} (data : List Byte) (hlo : 240 ≤ paPkg pa.toNat) (hhi : paPkg pa.toNat ≤ 242)
    (hf : s.host.fatal = false) : Happens (execHostWriteInvalidate pa data s) fun u =>
    u.mem = writeN s.mem pa.toNat (ofBytes data) data.length ∧ Others [] s u ∧
    ∀ l ∈ u.lines, ∀ i, i < data.length → l.pa ≠ lineOf (pa.toNat + i) := by
  obtain ⟨hmem, hagents, hlines⟩ := outsideWrite_spec s pa.toNat data
  refine .of_event fun w tr => ?_
  rw [if_pos (by simp [hlo, hhi, hf])]
  exact ⟨hmem, .looked_of hagents w tr, hlines⟩
theorem backInvalidate_event {s : State} {pa : BitVec 56} (h : paPkg pa.toNat = 241) : Happens (execBackInvalidate pa s) fun u =>
    u.mem = s.mem ∧ Others [] s u ∧ ∀ l ∈ u.lines, l.pa ≠ lineOf pa.toNat := by
  obtain ⟨ls, e, hdropped⟩ := LinesDropped.invalidateFor s (lineOf pa.toNat)
  have hline : lineOf (lineOf pa.toNat) = lineOf pa.toNat := by unfold lineOf; omega
  refine .of_event fun w tr => ?_
  rw [if_pos (by rw [h]; rfl), e]
  exact ⟨rfl, .looked_of rfl w tr, fun l hl => hline ▸ (hdropped l hl).2⟩
theorem hostAccess_event {s : State} {master n : Nat} {pa : BitVec 56} {d : List Byte} (hf : s.host.fatal = false) (hp : paPkg pa.toNat = s.package)
    (he : pa.toNat % 2 ^ 44 + n ≤ mappableEnd) (hr : refusedBy s master pa.toNat .store = false)
    (hq : ∀ qk q r, (qk, q) ∈ s.queues → devicePa s q.asid q.recVa.toNat = some r → rangesMeet r 64 pa.toNat (d.take n).length = false)
    (hb : ∀ x ∈ bareRecords s, rangesMeet x.2.2 64 pa.toNat (d.take n).length = false) :
    Happens (execHostHbmAccess master pa n (some d) s) fun u =>
      u.mem = writeN s.mem pa.toNat (ofBytes (d.take n)) (d.take n).length ∧ Others [] s u := by
  obtain ⟨hmem, hagents, -⟩ := outsideWrite_spec s pa.toNat (d.take n)
  refine .of_event fun w tr => ?_
  rw [hostAccess_write s hf hp he hr hq hb]
  exact ⟨hmem, .looked_of hagents w tr⟩
theorem attestationQuote_event {s : State} (n : BitVec 256) (h : s.host.ready = true) : Happens (event (attestationQuote n) s) fun u =>
    Only [.quotes, .trigs] s u ∧ Others [] s u ∧ ∃ q, u.quotes = s.quotes ++ [q] ∧ q.nonce = n ∧ q.firmware = shake256 Config.firmware ∧
      ∀ a m, (a, m) ∈ q.contexts ↔ ∃ c, (a, c) ∈ s.ctxs ∧ c.state ≠ .free ∧ c.state ≠ .retired ∧ m = shake256 (bytesOf c.desc 128) := by
  obtain ⟨q, e, hnonce, hfirmware, hcontexts⟩ := attestationQuote_eq h n
  refine .of_event fun w tr => ?_
  rw [e]
  have honly : Only [.quotes] s { s with quotes := s.quotes ++ [q] } := fun p hp => by
    cases p with
    | quotes => exact absurd List.mem_cons_self hp
    | _ => simp [Same, group?, ctx?]
  refine ⟨(honly.mono (by simp)).trans ((Only.looked _ w tr).mono (by simp)), .looked_of rfl w tr, q, rfl, hnonce, hfirmware, fun a m => ?_⟩
  rw [hcontexts]
  refine List.mem_map.trans ⟨?_, ?_⟩
  · rintro ⟨⟨a, c⟩, hx, e⟩
    cases e
    obtain ⟨hc, hstate⟩ := List.mem_filter.mp hx
    obtain ⟨hfree, hret⟩ := (savedState_iff _).mp hstate
    exact ⟨c, hc, hfree, hret, rfl⟩
  · rintro ⟨c, hc, hfree, hret, rfl⟩
    exact ⟨(a, c), List.mem_filter.mpr ⟨hc, (savedState_iff _).mpr ⟨hfree, hret⟩⟩, rfl⟩

/-! ### Register writes -/

section
variable {s : State} {master : Nat} {off : BitVec 48} (hf : s.host.fatal = false) (hr : refusedBy s master (255 * 2 ^ 48 + off.toNat) .store = false)
include hf hr

/-- A request for a context acts as the request's own event does (R408). -/
theorem mmio_ctxreq (v : BitVec 64) (hst : bitsN off.toNat 47 44 = 0 ∨ bitsN off.toNat 47 44 = 15) (ho : off.toNat % 2 ^ 44 = 0x10) :
    mmioRegisterWrite master off.toNat 4 v.toNat s = ctxRequest s (v.toNat % 2 ^ 32 % 4096) (v.toNat % 2 ^ 32 / 4096 % 8) := by
  rw [mmioRegisterWrite_word hf off.isLt hr _ ho rfl (by decide), writeReg32_ctxreq s _ hst]
theorem mmio_diepwr (h : Up s) (v : BitVec 64) (port : Nat) (hp : port = 0 ∨ port = 1) (ho : off.toNat % 2 ^ 44 = 0x100 + 8 * port) :
    let d := dieOnPort (bitsN off.toNat 47 44) port; let w := v.toNat % 2 ^ 32; let t := pointAsked s d (BitVec.ofNat 2 (w / 4))
    let write := event (mmioRegisterWrite master off.toNat 4 v.toNat) s
    (w % 4 = 0 → write = event (diePowerOff d) t) ∧ (w % 4 = 1 → write = event (diePowerOn d) t) ∧ (2 ≤ w % 4 → Enters write t) := by
  intro d w t write
  have hwrite : mmioRegisterWrite master off.toNat 4 v.toNat s = diePower s d w := by
    rw [mmioRegisterWrite_word hf off.isLt hr _ ho (by omega) (by omega), writeReg32_diepwr s _ port hp]
  rw [diePower_eq h] at hwrite
  refine ⟨fun hw => event_congr ?_, fun hw => event_congr ?_, fun hw => .of_eq ?_⟩
  · rw [hwrite, hw]; rfl
  · rw [hwrite, hw]; rfl
  · rw [hwrite]
    obtain hw | hw : w % 4 = 2 ∨ w % 4 = 3 := by omega
    all_goals rw [hw]; rfl
theorem mmio_dietask (v : BitVec 64) (port : Nat) (hp : port = 0 ∨ port = 1) (ho : off.toNat % 2 ^ 44 = 0x104 + 8 * port) :
    let d := dieOnPort (bitsN off.toNat 47 44) port; let w := v.toNat % 2 ^ 32
    Enters (event (mmioRegisterWrite master off.toNat 4 v.toNat) s) (putDie s d { dieSt s d with
      allow := BitVec.ofNat 24 w, amps := BitVec.ofNat 8 (w / 2 ^ 24) }) :=
  .of_eq ((mmioRegisterWrite_word hf off.isLt hr _ ho (by omega) (by omega)).trans (writeReg32_dietask s _ port hp))
theorem mmio_ctxdesc (v : BitVec 64) (hst : bitsN off.toNat 47 44 = 0 ∨ bitsN off.toNat 47 44 = 15) (ho : off.toNat % 2 ^ 44 = 8) :
    mmioRegisterWrite master off.toNat 8 v.toNat s = { s with host := { s.host with ctxdesc := v } } := by
  rw [mmioRegisterWrite_dword hf off.isLt hr _ ho rfl (by decide), writeReg32_ctxdesc s _ hst 0 (.inl rfl),
    writeReg32_ctxdesc _ _ hst 4 (.inr rfl)]
  simp only [putHalf_both]

end

/-- Each request of CTXREQ with OP 1 to 6 acts as its own event (R408). -/
theorem ctxRequest_event (s : State) (a op : Nat) : op < 8 → op ≠ 0 → op ≠ 7 →
    event (fun s => ctxRequest s a op) s = exec (match op with
      | 1 => .contextBuild a | 2 => .contextStart a | 3 => .contextPreempt a | 4 => .contextHalt a | 5 => .contextResume a | _ => .contextRetire a) s := by
  intro hop h0 h7
  have hlo : 1 ≤ op := by omega
  have hhi : op ≤ 6 := by omega
  interval_cases op <;> rfl

/-- Which of two registers 8 bytes apart, one for each port of a base die, an offset names (R406). -/
theorem port_of_register {o r : Nat} (h : o = r ∨ o = r + 8) : o = r + 8 * (if o = r then 0 else 1) := by
  split <;> omega
/-- What the writes of registers of 32 bits do (R406 to R414). -/
theorem mmio_words {s : State} {master : Nat} {off : BitVec 48} (v : BitVec 64) (hf : s.host.fatal = false)
    (hr : refusedBy s master (255 * 2 ^ 48 + off.toNat) .store = false) :
    let st := bitsN off.toNat 47 44; let o := off.toNat % 2 ^ 44; let w := v.toNat % 2 ^ 32; let b := base s st
    let write : Out := event (mmioRegisterWrite master off.toNat 4 v.toNat) s
    (st = 0 ∨ st = 15 →
      (o = 0 → Enters write (if bitN w 16 then { s with host := { s.host with err := false } } else s)) ∧
      (o = 0x10 → let a := w % 4096; let op := w / 4096 % 8
        (op ≠ 0 → op ≠ 7 → write = exec (match op with
          | 1 => .contextBuild a | 2 => .contextStart a | 3 => .contextPreempt a | 4 => .contextHalt a | 5 => .contextResume a | _ => .contextRetire a) s) ∧
        (op = 0 ∨ op = 7 → Enters write (if s.host.ready = true ∧ s.host.busy = false then
          { s with host := { s.host with reqAsid := BitVec.ofNat 12 a, reqOp := BitVec.ofNat 3 op } } else s)))) ∧
    (o = 0x100 ∨ o = 0x108 → Up s → let d := dieOnPort st (if o = 0x100 then 0 else 1); let t := pointAsked s d (BitVec.ofNat 2 (w / 4))
      (w % 4 = 0 → write = event (diePowerOff d) t) ∧ (w % 4 = 1 → write = event (diePowerOn d) t) ∧ (2 ≤ w % 4 → Enters write t)) ∧
    (o = 0x104 ∨ o = 0x10C → let d := dieOnPort st (if o = 0x104 then 0 else 1)
      Enters write (putDie s d { dieSt s d with allow := BitVec.ofNat 24 w, amps := BitVec.ofNat 8 (w / 2 ^ 24) })) ∧
    (o = 0x200 → Enters write (putBase s st { b with
      actwin := BitVec.ofNat 16 w, actNow := if b.actNow = b.actwin.toNat then w % 65536 else max (w % 65536) b.actNow })) := by
  intro st o w b write
  refine ⟨fun hst => ⟨fun ho => .of_eq ?_, fun ho => ⟨fun h0 h7 => ?_, fun hop => .of_eq ?_⟩⟩, fun ho h => ?_, fun ho => ?_, fun ho => .of_eq ?_⟩
  · rw [mmioRegisterWrite_word hf off.isLt hr _ ho rfl (by decide), writeReg32_hstat s _ hst]
  · exact (event_congr (mmio_ctxreq hf hr v hst ho)).trans (ctxRequest_event s _ _ (Nat.mod_lt _ (by decide)) h0 h7)
  · rw [mmio_ctxreq hf hr v hst ho, ctxRequest_nothing hf _ hop]
  · exact mmio_diepwr hf hr h v _ (ite_eq_or_eq ..) (port_of_register ho)
  · exact mmio_dietask hf hr v _ (ite_eq_or_eq ..) (port_of_register ho)
  · rw [mmioRegisterWrite_word hf off.isLt hr _ ho rfl (by decide), writeReg32_actwin]

/-! ### Bring-up and FATAL -/

theorem packageReset_ok_event (s : State) (ds : List (Nat × List (Nat × Nat))) : Happens (event (packageReset (.ok ds)) s) fun u =>
    u.host.stage = 4 ∧ u.host.ready = true ∧ u.host.fatal = false ∧ u.agents = [] ∧ u.ctxs = [] ∧
    (∀ n, n < 384 → (∀ x ∈ ds, x.1 ≠ n) → (link u n).state = .up) ∧
    (∀ n faults, ds = [(n, faults)] → n < 384 → (link u n).state = (trainedLink n faults).state) ∧ (∀ d, d < 8 → (dieSt u d).pstate = 1) ∧
    (MemoryOk s → ∀ a, Memory.get u.mem a = if paPkg a = s.package then 0 else Memory.get s.mem a) := by
  obtain ⟨l, a, e⟩ := trainOne_foldl_keeps ds (broughtUp s)
  refine .of_event fun w tr => ?_
  rw [packageReset_ok_eq]
  have hlinks : ∀ n, link ((ds.foldl trainOne (broughtUp s)).looked w tr) n = link (ds.foldl trainOne (broughtUp s)) n := fun _ => rfl
  refine ⟨?_, ?_, ?_, ?_, ?_, fun n hn hne => ?_, fun n faults hds hn => ?_, fun d hd => ?_, fun hm a => ?_⟩
  · rw [e]; rfl
  · rw [e]; rfl
  · rw [e]; rfl
  · rw [e]; rfl
  · rw [e]; rfl
  · rw [hlinks, link_trainOne_foldl_ne ds _ hne, link_broughtUp s hn]
  · subst hds
    rw [hlinks]
    exact link_trainOne_same _ hn faults
  · rw [e]; exact dieSt_broughtUp s hd
  · rw [e]; exact get_broughtUp s hm a
theorem packageReset_failed_event (s : State) (r : BringUp) : (∀ ds, r ≠ .ok ds) → Happens (event (packageReset r) s) fun u =>
    u.host.stage = 5 ∧ u.host.ready = false ∧ u.agents = [] ∧ u.ctxs = [] ∧
    u.host.fwerr = (match r with | .signatureInvalid => 1 | .imageUnreadable => 2 | .calibrationFailed => 3 | _ => 4) := by
  intro hr
  cases r with
  | ok ds => exact absurd rfl (hr ds)
  | _ => exact .of_event fun w tr => ⟨rfl, rfl, rfl, rfl, rfl⟩
theorem packageFatal_event (s : State) (image : Bool) : Happens (event (packageFatal image) s) fun u => u.host.fatal = true ∧ u.host.ready = false ∧
    u.host.stage = (if image then 5 else s.host.stage) ∧ u.host.fwerr = (if image then 1 else s.host.fwerr) ∧
    ∀ n c, ctx? s n = some c → (n, c) ∈ s.ctxs → (c.state = .running ∨ c.state = .cutting) → ctxState u n = .error := by
  let running := s.ctxs.filter fun x => x.2.state == .running || x.2.state == .cutting
  let s1 : State := { s with host := stoppedHost image s.host }
  obtain ⟨b, x, hhost⟩ := OnlyRequest.contextErrors 5 running s1
  refine .of_event fun w tr => ?_
  rw [packageFatal_eq]
  have hregs : ((running.foldl (fun s x => contextError s x.1 5) s1).looked w tr).host = { stoppedHost image s.host with busy := b, result := x } := hhost
  refine ⟨?_, ?_, ?_, ?_, fun n c hc hmem hstate => ?_⟩
  · rw [hregs]; cases image <;> rfl
  · rw [hregs]; cases image <;> rfl
  · rw [hregs]; cases image <;> rfl
  · rw [hregs]; cases image <;> rfl
  · refine ctxState_contextErrors 5 running s1 (Option.isSome_iff_exists.mpr ⟨c, hc⟩) (.inr ⟨c, List.mem_filter.mpr ⟨hmem, ?_⟩⟩)
    rcases hstate with h | h <;> simp [h]

/-! ### The statement -/

/-- Settles O59, clause by clause: each event's meaning is computed by an equation or a frame lemma of its own, and what it says is kept when
the parties that wait look again (`Happens.of_event`). The choices are the model's: logs 1 (the agenda), 10, 23, 24 and 26, and that a quote
leaves out RETIRED contexts. -/
theorem hostEvents : Obligations.HostEvents := by
  unfold Obligations.HostEvents
  intro die up refuses point ring record inRing logged
  exact ⟨
    fun s d p e h he => power_ignored_enters h he,
    fun s d h => diePowerOff_event h,
    fun s d h => diePowerOn_event h,
    fun s d p h => .of_eq (operatingPointRequest_eq h p),
    fun s d p h => operatingPointSwitch_event h,
    controlIntervalStart_event,
    fun _ _ _ => rfl,
    eccError_event,
    eccError_hbm_event,
    eccError_sram_event,
    fun s k n a ha hn h255 => eccError_vreg_event ha hn h255,
    fun s x spared hx => .of_eq (healthSelfTest_transient s hx spared),
    fun s n spared hs => healthSelfTest_retrains_event hs spared,
    fun s x hx => healthSelfTest_spared_event hx,
    fun s n hn hs hl => healthSelfTest_lane_event hn hs hl,
    healthSelfTest_die_event,
    fun s n hs => healthSelfTest_retires_event hs,
    fun s m hm => healthSelfTest_mast_event hm,
    dieFailure_event,
    fun s pa data hlo hhi hf => hostWriteInvalidate_event data hlo hhi hf,
    fun s pa h => backInvalidate_event h,
    fun s n h => attestationQuote_event n h,
    fun s master off n v h => .of_eq (mmioRegisterWrite_ignored off.isLt h),
    fun s master off v hf hr => mmio_words v hf hr,
    fun s master off v hf hr hst ho => .of_event fun w tr => by
      rw [mmio_ctxdesc hf hr v hst ho]
      exact ⟨rfl, .looked_of rfl w tr, rfl⟩,
    packageReset_ok_event,
    packageReset_failed_event,
    packageFatal_event,
    fun s master pa n => .of_eq (hostAccess_read s master pa.toNat n),
    fun s master pa n d h => .of_eq (hostAccess_aborted s h),
    fun s master pa n d hf hp he hr hq hb => hostAccess_event hf hp he hr hq hb⟩

end Sys2Proof.Machine
end

section
/-!
PROOF. The instruction words (R25 to R33, R55 to R58): decoding takes apart what encoding puts together, and the other way round.
-/
namespace Sys2Proof

/-! ### The opcode maps (R52, R55) -/

/-- An operation is what its opcode stands for, with its CODE where it has one. -/
theorem opOf_opc (o : Op) {code : Nat} (hcode : ∀ n, o.sfu = some n → n = code) : opOf o.opc code = some o := by
  cases hsfu : o.sfu with
  | none => cases o <;> cases hsfu <;> rfl
  | some n => obtain rfl := hcode n hsfu; cases o <;> cases hsfu <;> rfl
theorem opc_of_opOf {opc code : Nat} {o : Op} (h : opOf opc code = some o) : o.opc = opc := by
  have hfound := List.find?_some h
  simp only [Bool.and_eq_true, beq_iff_eq] at hfound
  exact hfound.1
theorem Op.opc_lt (o : Op) : o.opc < 2 ^ 8 := by cases o <;> decide

/-- An operation whose shape has a form S is a starred entry of R55: its opcode fits form S, it has no CODE, and the form is an instruction. -/
theorem Op.hasS_of_shape {core : Core} {o : Op} (f : FormS) (h : (o.shape core (o.sMod core)).s = true) :
    o.opc < 2 ^ 7 ∧ o.sfu = none ∧ ∃ i, o.mkS f = some i := by
  cases o <;> cases h <;> exact ⟨by decide, rfl, _, rfl⟩

/-! ### Instructions by operation and fields -/

@[simp] theorem op?_mkL (o : Op) (f : FormL) : (o.mkL f).op? = some o := by cases o <;> rfl
@[simp] theorem formL?_mkL (o : Op) (f : FormL) : (o.mkL f).formL? = some f := by cases o <;> rfl
theorem eq_mkL {i : Instr} {o : Op} {f : FormL} (ho : i.op? = some o) (hf : i.formL? = some f) : i = o.mkL f := by
  cases i <;> cases hf <;> cases ho <;> rfl
/-- The form-S instruction of an operation has that operation and those fields, and nothing else has them. -/
theorem mkS_eq_some_iff {i : Instr} {o : Op} {f : FormS} : o.mkS f = some i ↔ i.op? = some o ∧ i.formL? = none ∧ i.formS? = some f := by
  constructor
  · intro h; cases o <;> cases h <;> exact ⟨rfl, rfl, rfl⟩
  · rintro ⟨ho, -, hf⟩; cases i <;> cases hf <;> cases ho <;> rfl

theorem wellFormed_mkL (core : Core) (o : Op) (f : FormL) : (o.mkL f).wellFormed core = f.legal core o := by simp [Instr.wellFormed]
theorem encode_mkL (o : Op) (f : FormL) : encode (o.mkL f) = encodeL o f := by simp [encode]
theorem wellFormed_mkS {i : Instr} {o : Op} {f : FormS} (h : o.mkS f = some i) (core : Core) : i.wellFormed core = f.legal core o := by
  obtain ⟨ho, hl, hs⟩ := mkS_eq_some_iff.mp h
  simp [Instr.wellFormed, ho, hl, hs]
theorem encode_mkS {i : Instr} {o : Op} {f : FormS} (h : o.mkS f = some i) : encode i = encodeS o f := by
  obtain ⟨ho, hl, hs⟩ := mkS_eq_some_iff.mp h
  simp [encode, ho, hl, hs]

/-- A well-formed instruction is of form L or X, or of form S, with legal fields; an event is none. -/
theorem wellFormed_cases {core : Core} {i : Instr} (h : i.wellFormed core = true) :
    (∃ (o : Op) (f : FormL), i = o.mkL f ∧ f.legal core o = true) ∨ ∃ (o : Op) (f : FormS), o.mkS f = some i ∧ f.legal core o = true := by
  unfold Instr.wellFormed at h
  split at h
  next o f ho hf => exact .inl ⟨o, f, eq_mkL ho hf, h⟩
  next o f ho hl hf => exact .inr ⟨o, f, mkS_eq_some_iff.mpr ⟨ho, hl, hf⟩, h⟩
  next => cases h

/-- A legal member of the SFU family has its own CODE (R52). -/
theorem FormL.legal_sfu {core : Core} {o : Op} {f : FormL} (h : f.legal core o = true) : ∀ n, o.sfu = some n → n = modCode f.mod := by
  intro n hn
  simp only [FormL.legal, hn, Bool.and_eq_true, beq_iff_eq] at h
  tauto
theorem FormS.legal_shape {core : Core} {o : Op} {f : FormS} (h : f.legal core o = true) : (o.shape core (o.sMod core)).s = true := by
  simp only [FormS.legal, Bool.and_eq_true] at h
  tauto

/-! ### Fields of a word -/

@[simp] theorem getElem_bit (b : Bool) : (bit b)[0] = b := by cases b <;> rfl
theorem getLsbD_bit (b : Bool) : (bit b).getLsbD 0 = b := getElem_bit b
theorem bit_getLsbD {w : Nat} (x : BitVec w) (n : Nat) : bit (x.getLsbD n) = x.extractLsb' n 1 := by
  refine BitVec.eq_of_getLsbD_eq fun i hi => ?_
  obtain rfl : i = 0 := by omega
  simp

/-! ### Form S (R26) -/

/-- The word of form S with its fields. -/
theorem encodeS_fields {o : Op} (ho : o.opc < 2 ^ 7) (f : FormS) :
    ∃ w, encodeS o f = [w] ∧ (w.extractLsb' 30 2).toNat = 0 ∧ (w.extractLsb' 23 7).toNat = o.opc ∧ formSOf w = f := by
  refine ⟨_, rfl, ?_, ?_, ?_⟩
  · simp (disch := omega) only [BitVec.extractLsb'_append_eq_of_le]
    rfl
  · simp (disch := omega) only [BitVec.extractLsb'_append_eq_of_le, BitVec.extractLsb'_append_eq_of_add_le]
    simpa using ho
  · unfold formSOf
    simp (disch := omega) only [BitVec.extractLsb'_append_eq_of_le, BitVec.extractLsb'_append_eq_of_add_le, BitVec.getLsbD_append]
    simp

theorem encodeS_formSOf {o : Op} {w : Word} (hform : (w.extractLsb' 30 2).toNat = 0) (hopc : (w.extractLsb' 23 7).toNat = o.opc) :
    encodeS o (formSOf w) = [w] := by
  have hzero : 0#2 = w.extractLsb' 30 2 := BitVec.eq_of_toNat_eq hform.symm
  simp only [encodeS, formSOf, ← hopc, hzero, BitVec.ofNat_toNat, BitVec.setWidth_eq, bit_getLsbD]
  simp (disch := rfl) only [BitVec.extractLsb'_append_extractLsb'_eq_extractLsb']
  exact congrArg (fun x => [x]) BitVec.extractLsb'_eq_self

/-! ### Forms L and X (R27, R28) -/

/-- Words 0 and 1 of form L (`form` 1) or X (`form` 2), with the bit and the byte that form X leaves 0. -/
def FormL.word0 (f : FormL) (form : BitVec 2) (o : Op) (x : BitVec 1) : Word :=
  form ++ BitVec.ofNat 8 o.opc ++ f.dst ++ f.a ++ f.g ++ bit f.gn ++ bit f.ba ++ x
def FormL.word1 (f : FormL) (n : BitVec 8) : Word := n ++ f.c ++ bit f.bc ++ f.mod

theorem encodeL_reg {f : FormL} {n : BitVec 8} {blk : Bool} (hb : f.b = .reg n blk) (o : Op) :
    encodeL o f = [f.word0 1 o (bit blk), f.word1 n] := by simp only [encodeL, hb]; rfl
theorem encodeL_lit {f : FormL} {w : Word} (hb : f.b = .lit w) (o : Op) : encodeL o f = [f.word0 2 o 0, f.word1 0, w] := by
  simp only [encodeL, hb]; rfl

theorem form_word0 (f : FormL) (form : BitVec 2) (o : Op) (x : BitVec 1) : (f.word0 form o x).extractLsb' 30 2 = form := by
  unfold FormL.word0
  simp (disch := omega) only [BitVec.extractLsb'_append_eq_of_le]
  exact BitVec.extractLsb'_eq_self
theorem opcL_word0 (f : FormL) (form : BitVec 2) (o : Op) (x : BitVec 1) : opcL (f.word0 form o x) = o.opc := by
  unfold opcL FormL.word0
  simp (disch := omega) only [BitVec.extractLsb'_append_eq_of_le, BitVec.extractLsb'_append_eq_of_add_le]
  simpa using o.opc_lt
theorem low_word0 (f : FormL) (form : BitVec 2) (o : Op) (x : BitVec 1) : (f.word0 form o x).getLsbD 0 = x.getLsbD 0 := by
  unfold FormL.word0
  simp only [BitVec.getLsbD_append]
  rfl
theorem top_word1 (f : FormL) (n : BitVec 8) : (f.word1 n).extractLsb' 24 8 = n := by
  unfold FormL.word1
  simp (disch := omega) only [BitVec.extractLsb'_append_eq_of_le]
  exact BitVec.extractLsb'_eq_self
theorem formLOf_words (f : FormL) (form : BitVec 2) (o : Op) (x : BitVec 1) (n : BitVec 8) (b : OpB) :
    formLOf (f.word0 form o x) (f.word1 n) b = { f with b := b } := by
  unfold formLOf FormL.word0 FormL.word1
  simp (disch := omega) only [BitVec.extractLsb'_append_eq_of_le, BitVec.extractLsb'_append_eq_of_add_le, BitVec.getLsbD_append]
  simp

theorem word0_formLOf {o : Op} {w0 : Word} (hopc : opcL w0 = o.opc) (w1 : Word) (b : OpB) :
    (formLOf w0 w1 b).word0 (w0.extractLsb' 30 2) o (w0.extractLsb' 0 1) = w0 := by
  simp only [FormL.word0, formLOf, ← hopc, opcL, BitVec.ofNat_toNat, BitVec.setWidth_eq, bit_getLsbD]
  simp (disch := rfl) only [BitVec.extractLsb'_append_extractLsb'_eq_extractLsb']
  exact BitVec.extractLsb'_eq_self
theorem word1_formLOf (w0 w1 : Word) (b : OpB) : (formLOf w0 w1 b).word1 (w1.extractLsb' 24 8) = w1 := by
  simp only [FormL.word1, formLOf, bit_getLsbD]
  simp (disch := rfl) only [BitVec.extractLsb'_append_extractLsb'_eq_extractLsb']
  exact BitVec.extractLsb'_eq_self

/-! ### The decoder, form by form -/

theorem decodeLX_eq_ok_iff {core : Core} {w0 w1 : Word} {b : OpB} {len n : Nat} {i : Instr} :
    decodeLX core w0 w1 b len = .ok i n ↔
      ∃ o, opOf (opcL w0) (modCode (formLOf w0 w1 b).mod) = some o ∧ (formLOf w0 w1 b).legal core o = true ∧ i = o.mkL (formLOf w0 w1 b) ∧ n = len := by
  unfold decodeLX
  dsimp only
  constructor
  · intro h
    split at h
    next o ho =>
      split at h
      next hl => cases h; exact ⟨o, ho, hl, rfl, rfl⟩
      next => cases h
    next => cases h
  · rintro ⟨o, ho, hl, rfl, rfl⟩
    simp [ho, hl]

/-- What the words of a legal form L or X decode to. -/
theorem decodeLX_words {core : Core} {o : Op} {f : FormL} (h : f.legal core o = true) (form : BitVec 2) (x : BitVec 1) (n : BitVec 8) (len : Nat) :
    decodeLX core (f.word0 form o x) (f.word1 n) f.b len = .ok (o.mkL f) len := by
  refine decodeLX_eq_ok_iff.mpr ⟨o, ?_⟩
  rw [formLOf_words, opcL_word0]
  exact ⟨opOf_opc o (FormL.legal_sfu h), h, rfl, rfl⟩

theorem decode_encodeL {core : Core} {o : Op} {f : FormL} (h : f.legal core o = true) (rest : List Word) :
    decode core (encodeL o f ++ rest) = .ok (o.mkL f) (encodeL o f).length := by
  cases hb : f.b with
  | reg n blk =>
    have hdec := decodeLX_words h 1 (bit blk) n 2
    rw [hb] at hdec
    simp only [encodeL_reg hb, List.cons_append, List.nil_append, decode, form_word0, low_word0, top_word1, getLsbD_bit]
    exact hdec
  | lit w =>
    have hdec := decodeLX_words h 2 0 0 3
    rw [hb] at hdec
    simp only [encodeL_lit hb, List.cons_append, List.nil_append, decode, form_word0, low_word0, top_word1]
    exact hdec

theorem decode_encodeS {core : Core} {o : Op} {f : FormS} {i : Instr} (hi : o.mkS f = some i) (h : f.legal core o = true) (rest : List Word) :
    decode core (encodeS o f ++ rest) = .ok i (encodeS o f).length := by
  obtain ⟨hopc, hsfu, -⟩ := Op.hasS_of_shape f (FormS.legal_shape h)
  obtain ⟨w, hw, hform, hop, hf⟩ := encodeS_fields hopc f
  have hof : opOf o.opc 0 = some o := opOf_opc o (by simp [hsfu])
  simp only [hw, decode, List.cons_append, hform, hop, hof, hf, h, hi]
  rfl

/-- The words of form L or X whose fields and operand b are those of two words. -/
theorem encodeL_formLOf {o : Op} {w0 w1 : Word} (hopc : opcL w0 = o.opc) :
    (w0.extractLsb' 30 2 = 1 → encodeL o (formLOf w0 w1 (.reg (w1.extractLsb' 24 8) (w0.getLsbD 0))) = [w0, w1]) ∧
    (∀ w2, w0.extractLsb' 30 2 = 2 → w0.getLsbD 0 = false → w1.extractLsb' 24 8 = 0 → encodeL o (formLOf w0 w1 (.lit w2)) = [w0, w1, w2]) := by
  constructor
  · intro hform
    rw [encodeL_reg rfl, bit_getLsbD, ← hform, word0_formLOf hopc, word1_formLOf]
  · intro w2 hform hlow htop
    have hbit : 0 = w0.extractLsb' 0 1 := by rw [← bit_getLsbD, hlow]; rfl
    rw [encodeL_lit rfl, ← hform, hbit, ← htop, word0_formLOf hopc, word1_formLOf]

/-- What a decoder reads is a legal form S of one word, form L of two words or form X of three. -/
theorem decode_eq_ok {core : Core} {ws : List Word} {i : Instr} {n : Nat} (h : decode core ws = .ok i n) :
    (∃ (o : Op) (f : FormS), o.mkS f = some i ∧ f.legal core o = true ∧ encodeS o f = ws.take n) ∨
    ∃ (o : Op) (f : FormL), i = o.mkL f ∧ f.legal core o = true ∧ encodeL o f = ws.take n := by
  unfold decode at h
  split at h
  next => cases h
  next w0 rest =>
    split at h
    next hform =>
      left
      split at h
      next o ho =>
        dsimp only at h
        split at h
        next hl =>
          split at h
          next j hj => cases h; exact ⟨o, _, hj, hl, encodeS_formSOf hform (opc_of_opOf ho).symm⟩
          next => cases h
        next => cases h
      next => cases h
    next hform =>
      right
      split at h
      next w1 rest =>
        obtain ⟨o, ho, hl, rfl, rfl⟩ := decodeLX_eq_ok_iff.mp h
        exact ⟨o, _, rfl, hl, (encodeL_formLOf (opc_of_opOf ho).symm).1 (BitVec.eq_of_toNat_eq hform)⟩
      next => cases h
    next hform =>
      right
      split at h
      next w1 w2 rest =>
        split at h
        next hzero =>
          simp only [Bool.and_eq_true, beq_iff_eq, Bool.not_eq_true'] at hzero
          obtain ⟨o, ho, hl, rfl, rfl⟩ := decodeLX_eq_ok_iff.mp h
          exact ⟨o, _, rfl, hl, (encodeL_formLOf (opc_of_opOf ho).symm).2 w2 (BitVec.eq_of_toNat_eq hform) hzero.2 hzero.1⟩
        next => cases h
      next => cases h
    next => cases h

/-- Settles O2: a legal form is read back field by field from its own words, and the words of what has been read are put together again
from the fields that were taken out of them. -/
theorem decodeEncode : Obligations.DecodeEncode := by
  unfold Obligations.DecodeEncode
  constructor
  · intro core i rest h
    obtain ⟨o, f, rfl, hl⟩ | ⟨o, f, hi, hl⟩ := wellFormed_cases h
    · rw [encode_mkL]; exact decode_encodeL hl rest
    · rw [encode_mkS hi]; exact decode_encodeS hi hl rest
  · intro core ws i n h
    obtain ⟨o, f, hi, hl, he⟩ | ⟨o, f, rfl, hl, he⟩ := decode_eq_ok h
    · rw [wellFormed_mkS hi, encode_mkS hi]; exact ⟨hl, he⟩
    · rw [wellFormed_mkL, encode_mkL]; exact ⟨hl, he⟩

/-- Settles O1: each word is read field by field. -/
theorem wordsDecode : Obligations.WordsDecode := by
  unfold Obligations.WordsDecode
  exact ⟨by decide, by decide, by decide, by decide, by decide, by decide, by decide⟩

end Sys2Proof
end

section
/-!
PROOF. One step (R33, R34, R43, R93): what stands at the program counter of the warp that is picked is what a step runs.
-/
namespace Sys2Proof.Machine

section
variable {s : State} {port k : Nat} {a : Agent} {t : List (Nat × Agent)}

/-- With nothing due and a warp picked, a step is the issue of that warp. -/
theorem step_eq_issueWarp (hagenda : s.agenda = []) (hfatal : s.host.fatal = false) (hstage : s.host.stage ≠ 0) (hnext : nextEvent s = none)
    {w : List (Nat × Agent)} (hpick : pick (enterBlocks (releaseHeld (boundaryMarkers s))) = some (port, w)) :
    step s = issueWarp port w (enterBlocks (releaseHeld (boundaryMarkers s))) := by
  have hup : (s.host.stage == 0) = false := beq_false_of_ne hstage
  simp only [step, hagenda, hfatal, hup, hnext, issueNext, hpick, Bool.false_eq_true, if_false]

/-- A warp runs the instruction that its first party's words decode to. -/
theorem issueWarp_decoded {ws : List Word} {u : State} {i : Instr} {n : Nat} (hfetch : fetchAt s k a = .words ws u)
    (hdec : decode (coreOfAgent a) ws = .ok i n) :
    issueWarp port ((k, a) :: t) s = match exec i { u with issuing := k :: t.map (·.1) } with
      | .next v => .next (afterIssue port (k :: t.map (·.1)) v)
      | .fault f => .fault f
      | .refused r => .refused r := by
  simp only [issueWarp, hfetch, hdec]
  cases exec i { u with issuing := k :: t.map (·.1) } <;> rfl

theorem issueWarp_undecoded {ws : List Word} {u : State} (hfetch : fetchAt s k a = .words ws u)
    (hdec : ∀ i n, decode (coreOfAgent a) ws ≠ .ok i n) :
    issueWarp port ((k, a) :: t) s = .next (afterIssue port (k :: t.map (·.1)) (freezeAll u (k :: t.map (·.1)) .illegalOpcode 0)) := by
  cases h : decode (coreOfAgent a) ws with
  | ok i n => exact absurd h (hdec i n)
  | header | short | illegal => simp only [issueWarp, hfetch, h]

theorem issueWarp_absent {va : Nat} (hfetch : fetchAt s k a = .absent va) :
    issueWarp port ((k, a) :: t) s =
      .next (afterIssue port (k :: t.map (·.1)) (freezeAll s (k :: t.map (·.1)) .pageFaultFetch (BitVec.ofNat 64 va))) := by
  simp only [issueWarp, hfetch]
theorem issueWarp_prot {va : Nat} (hfetch : fetchAt s k a = .prot va) :
    issueWarp port ((k, a) :: t) s =
      .next (afterIssue port (k :: t.map (·.1)) (freezeAll s (k :: t.map (·.1)) .protection (BitVec.ofNat 64 va))) := by
  simp only [issueWarp, hfetch]

end

/-- Settles O3: a step with nothing due is the issue of the picked warp, which goes by what is fetched at its first party's PC. -/
theorem stepRunsDecoded : Obligations.StepRunsDecoded := by
  unfold Obligations.StepRunsDecoded
  constructor
  · intro s port k a t ws u i n hagenda hfatal hstage hnext s' hpick hfetch hdec ks
    exact (step_eq_issueWarp hagenda hfatal hstage hnext hpick).trans (issueWarp_decoded hfetch hdec)
  · intro s port k a t hagenda hfatal hstage hnext s' ks hpick
    rw [step_eq_issueWarp hagenda hfatal hstage hnext hpick]
    exact ⟨fun ws u => issueWarp_undecoded, fun va => issueWarp_absent, fun va => issueWarp_prot⟩

end Sys2Proof.Machine
end

section
/-!
PROOF. A false guard (R43): what it leaves undone, and the instruction for which it does not.
-/
namespace Sys2Proof.Machine

/-! ### A false guard -/

section
variable {o : Op} {f : FormL} {s : State} {k : Nat} {a : Agent}

/-- A party that is guarded off passes the checks up to its guard, and its instruction's own execution is left out. -/
theorem issueOne_guardedOff (h : GuardedOff o f s k a) (hr : isRendezvous o = false) (len : Nat) (body : Ctx' → Go) :
    issueOne o f len body s k = issueOne.settle' s k a len a := by
  have hcore : (if a.kind == .task then Core.control else Core.vector) = coreOfAgent a := rfl
  have hrange : (coreOfAgent a == .vector && (beyond a.nregs (o.shape (coreOfAgent a) f.mod).a f.a.toNat ||
      (!f.b.isLit && beyond a.nregs (o.shape (coreOfAgent a) f.mod).b (bNum f)) ||
      beyond a.nregs (o.shape (coreOfAgent a) f.mod).c f.c.toNat || beyond a.nregs (o.shape (coreOfAgent a) f.mod).d f.dst.toNat)) = false := by
    by_cases ht : a.kind = .task
    · simp [coreOfAgent, ht]
    · obtain ⟨h1, h2, h3, h4⟩ := h.range.resolve_left ht
      have hv : coreOfAgent a = .vector := by simp [coreOfAgent, ht]
      rw [hv]
      rcases h2 with h2 | h2 <;> simp [h1, h2, h3, h4]
  have hclean : (f.g.toNat != 7 && a.ppoison.getLsbD f.g.toNat) = false := by rcases h.clean with e | e <;> simp [e]
  unfold issueOne
  simp only [h.here, h.legal, hcore, h.full, h.guard, hclean, hr, Bool.not_true, Bool.false_eq_true, if_false, beq_self_eq_true, if_true]
  rw [hrange]
  rfl

/-- The party moves on, and nothing else happens. -/
theorem moves_settle' {c : Ctx'} {out : Out} (hout : out = .next (issueOne.settle' c.s c.k c.a c.len c.a)) :
    Moves c out [] fun _ b => b.core = c.a.core := by
  unfold issueOne.settle' at hout
  generalize hb : ({ (advance c.a c.a.pc (c.a.pc + BitVec.ofNat 64 c.len)) with wait := .none, age := 0, urgent := false } : Agent) = b at hout
  obtain ⟨honly, hothers, hparty⟩ := stepDone_spec (putAgent c.s c.k b) c.k
  obtain ⟨b', hb', hcore, hpc, hwait, -⟩ := hparty b (agent?_putAgent_same _ _ _)
  subst hb
  exact ⟨_, b', hout, ⟨hb', hpc, hwait⟩, (Only.putAgent _ _ _).trans honly, (Others.putAgent _ _ _).trans hothers,
    hcore.trans (advance_core _ _ _)⟩

theorem issueL_guardedOff (h : GuardedOff o f s k a) (hr : isRendezvous o = false) (body : Ctx' → Go) :
    Moves (ctxOf o f (lenOf f) s k a) (issueL o f body s) [] fun _ b => b.core = a.core := by
  refine moves_settle' ?_
  unfold issueL
  rw [h.alone]
  exact congrArg Host.Outcome.next (issueOne_guardedOff h hr _ body)
theorem issueS_guardedOff {f : FormS} (h : GuardedOff o (f.expand (issuingCore s) o) s k a) (hr : isRendezvous o = false) (body : Ctx' → Go) :
    Moves (ctxOfS o f s k a) (issueS o f body s) [] fun _ b => b.core = a.core := by
  refine moves_settle' ?_
  unfold issueS
  rw [GuardedOff.alone h]
  exact congrArg Host.Outcome.next (issueOne_guardedOff h hr _ body)

end

/-- Every instruction of form L or X but CLK, BAR.SYNC and BAR.ARV is issued for its parties one after the other and does nothing more. -/
theorem exec_formL {i : Instr} {o : Op} {f : FormL} (ho : i.op? = some o) (hf : i.formL? = some f) (hclk : o ≠ .clk) (hsync : o ≠ .barSync)
    (harv : o ≠ .barArv) : ∃ body, ∀ s, exec i s = issueL o f body s := by
  cases i <;> cases hf <;> cases ho <;> first | exact ⟨_, fun _ => rfl⟩ | contradiction
theorem exec_formS {i : Instr} {o : Op} {f : FormS} (ho : i.op? = some o) (hf : i.formS? = some f) : ∃ body, ∀ s, exec i s = issueS o f body s := by
  cases i <;> cases hf <;> cases ho <;> exact ⟨_, fun _ => rfl⟩

/-- What holds of a false guard: every instruction but rendezvous, CLK, BAR.SYNC and BAR.ARV only moves on. -/
theorem moves_of_guardedOff {i : Instr} {o : Op} {f : FormL} {s : State} {k : Nat} {a : Agent} (ho : i.op? = some o) (hf : i.formL? = some f)
    (hr : isRendezvous o = false) (hclk : o ≠ .clk) (hsync : o ≠ .barSync) (harv : o ≠ .barArv) (h : GuardedOff o f s k a) :
    Moves (ctxOf o f (lenOf f) s k a) (exec i s) [] fun _ b => b.core = a.core := by
  obtain ⟨body, hbody⟩ := exec_formL ho hf hclk hsync harv
  rw [hbody]
  exact issueL_guardedOff h hr body
theorem moves_of_guardedOff_short {i : Instr} {o : Op} {f : FormS} {s : State} {k : Nat} {a : Agent} (ho : i.op? = some o) (hf : i.formS? = some f)
    (hr : isRendezvous o = false) (h : GuardedOff o (f.expand (issuingCore s) o) s k a) :
    Moves (ctxOfS o f s k a) (exec i s) [] fun _ b => b.core = a.core := by
  obtain ⟨body, hbody⟩ := exec_formS ho hf
  rw [hbody]
  exact issueS_guardedOff h hr body

/-! ### A BAR.ARV that is guarded off where a phase is due (R43, R217) -/

/-- A thread, alone in its group, that has ARRIVED at the group barrier, and its state. -/
def arrivedThread : Agent := { kind := .thread, uid := 1, asid := 1, tasid := 1, nregs := 64, pc := 0x1008, entry := .inside, bar := .arrived }
def phaseDueState : State := { State.reset with issuing := [0], agents := [(0, arrivedThread)] }
/-- @P0 BAR.ARV; P0 is false in that thread. -/
def guardedArrival : FormL := { dst := 0, a := 0, g := 0, gn := false, ba := false, b := .reg 0 false, c := 0, bc := false, mod := 0 }

theorem guardedArrival_off : (Instr.barArv guardedArrival).wellFormed .vector = true ∧ GuardedOff .barArv guardedArrival phaseDueState 0 arrivedThread :=
  ⟨by decide, by constructor <;> decide⟩
/-- The phase completes all the same: the thread that was ARRIVED is PASSED. -/
theorem guardedArrival_passes : ∃ u, exec (.barArv guardedArrival) phaseDueState = .next u ∧ (agent? u 0).map (·.bar) = some .passed :=
  ⟨_, rfl, by decide⟩

/-- Refutes O22: BAR.ARV and BAR.SYNC test their groups' phases after the warp has issued, whatever the guards were. Where a phase is due, the
guarded-off instruction completes it, and the thread does not keep what it held: it was ARRIVED and is PASSED. (The statement is about every
state; whether a run reaches this one is not claimed.) All other instructions that the statement names only move on, as
`moves_of_guardedOff` and `moves_of_guardedOff_short` say. -/
theorem not_falseGuard : ¬ Obligations.FalseGuard := by
  unfold Obligations.FalseGuard
  intro h
  obtain ⟨u, b, hu, hpassed, -, -, hcore⟩ := h.1 (.barArv guardedArrival) .barArv guardedArrival phaseDueState 0 arrivedThread rfl rfl rfl (by decide)
    guardedArrival_off.2
  obtain ⟨u', hu', hbar⟩ := guardedArrival_passes
  cases hu.symm.trans hu'
  have hhere : agent? u 0 = some b := hpassed.here
  rw [hhere] at hbar
  have hkept : b.bar = .arrived := congrArg Agent.bar hcore
  simp [hkept] at hbar

end Sys2Proof.Machine
end

section
/-!
PROOF. The special registers and the cycle counter (R48, R114, R115).
-/
namespace Sys2Proof.Machine

/-! ### Places -/

/-- The key of a slot says where its thread stands (R88). -/
theorem key_place {k die cl vc slot : Nat} (hk : k = ((die * 20 + cl) * 4 + vc) * 2048 + slot) (hcl : cl < 20) (hvc : vc < 4) (hslot : slot < 2048)
    (hdie : die < 8) : slotOf k = slot ∧ coreOf k % 4 = vc ∧ clusterOf k % 20 = cl ∧ dieOf k = die := by
  have hthread : isTask k = false := decide_eq_false (by unfold taskBase; omega)
  have hslotOf : slotOf k = k % 2048 := by simp [slotOf, hthread]
  have hcoreOf : coreOf k = k / 2048 := by simp [coreOf, hthread]
  simp only [dieOf, clusterOf, hslotOf, hcoreOf]
  omega

/-! ### The cycle counter -/

section
variable {s : State} {k : Nat}

/-- A tick advances the counter of the issuing core, and draws one free value for how far. -/
theorem tick_of_issuing (h : s.issuing = [k]) : tick s =
    { s with clocks := fput s.clocks (coreOf k) (fgetD s.clocks (coreOf k) 0 + BitVec.ofNat 64 (Config.cycles s.free)), free := s.free + 1 } := by
  simp [tick, h]
theorem fgetD_clocks_tick (h : s.issuing = [k]) :
    fgetD (tick s).clocks (coreOf k) 0 = fgetD s.clocks (coreOf k) 0 + BitVec.ofNat 64 (Config.cycles s.free) := by
  simp [tick_of_issuing h]
theorem only_tick (h : s.issuing = [k]) : Only [.clocks, .free] s (tick s) := by
  rw [tick_of_issuing h]
  intro p hp
  cases p <;> simp_all [Same, group?, ctx?]
theorem agents_tick (s : State) : (tick s).agents = s.agents := by unfold tick; split <;> rfl

/-- What the checks of R43 look at is the same after the tick. -/
theorem Clear.tick {o : Op} {f : FormL} {a : Agent} (h : Clear o f s k a) : Clear o f (tick s) k a := by
  rw [tick_of_issuing h.alone]
  exact ⟨h.alone, h.here, h.legal, h.range, h.full, h.clean, h.guard, h.due, h.regs, h.budget⟩

end

/-- CLK advances its core's counter, and produces the new value for its register pair. -/
theorem clk_moves {f : FormL} {s : State} {k : Nat} {a : Agent} (h : Clear .clk f s k a) :
    Moves (ctxOf .clk f (lenOf f) s k a) (exec (.clk f) s) [.clocks, .free, .ids, .prods] fun u b =>
      let now : DWord := fgetD s.clocks (coreOf k) 0 + BitVec.ofNat 64 (Config.cycles s.free)
      fgetD u.clocks (coreOf k) 0 = now ∧ u.free = s.free + 1 ∧ u.nextId = s.nextId + 1 ∧
      u.prods = s.prods ++ [{ id := s.nextId, key := k, uid := a.uid, dst := .v f.dst.toNat 2, value := now.toNat, flags := 0 }] ∧
      EmptiedD a b (.v f.dst.toNat 2) ∧ b.fl = a.fl ∧ SameRest a b := by
  have hnow := fgetD_clocks_tick h.alone
  have htick := tick_of_issuing h.alone
  obtain ⟨hhere, honly, hothers, hprods⟩ := produce_spec (tick s) k a (.v f.dst.toNat 2) (fgetD (tick s).clocks (coreOf k) 0).toNat 0
  obtain ⟨v, y, q, p, he⟩ := emptyDst_rest a (.v f.dst.toNat 2)
  refine moves_settle (issueL_clear h.tick bodyClk) hhere (by rw [he]; rfl) ?_ ?_ fun u b hu hb => ?_
  · exact ((only_tick h.alone).mono (by simp)).trans (honly.mono (by simp))
  · exact (Others.of_eq fun j _ => congrArg (fget? · j) (agents_tick s)).trans hothers
  · have hclocks : u.clocks = (tick s).clocks := hu .clocks (by simp)
    have hfree : u.free = (tick s).free := hu .free (by simp)
    have hids : u.nextId = (tick s).nextId + 1 := (hu .ids (by simp)).1
    have hmade : u.prods = _ := Eq.trans (hu .prods (by simp)) hprods
    refine ⟨by rw [hclocks, hnow], by rw [hfree, htick], by rw [hids, htick], by rw [hmade, hnow, htick], ?_⟩
    exact ⟨core_emptiedD hb (emptiedD_emptyDst _ _), (core_fl hb).trans (by rw [he]), core_sameRest hb (by rw [he]; rfl)⟩

/-- Settles O20: MOVS writes one register, and CLK is a tick of its core's counter (by a free value, log 4) and then a producer. -/
theorem specialRegisters : Obligations.SpecialRegisters := by
  unfold Obligations.SpecialRegisters
  refine ⟨⟨?_, ?_⟩, fun f s k a h => clk_moves h⟩
  · exact writes_of bodyMovs (fun _ _ => rfl) fun c => congrArg Go.next (put_flags c _ _)
  · intro s die cl vc slot a hcl hvc hslot hdie k
    obtain ⟨hslotOf, hcore, hcluster, hdieOf⟩ := key_place (k := k) rfl hcl hvc hslot hdie
    exact ⟨congrArg (· % 32) hslotOf, hslotOf, congrArg (· / 32) hslotOf, hcore, hcluster, hdieOf, rfl, rfl⟩

end Sys2Proof.Machine
end

section
/-!
PROOF. Branches (R35, R103, R104): where a transfer goes, and what its fetch of the target leaves.
-/
namespace Sys2Proof.Machine

/-! ### What a fetch leaves (R305, R308) -/

/-- A state in which leaves and TLBs may be marked, and all else is the same. -/
def Marked (s u : State) : Prop := ∃ m b, u = { s with mem := m, bases := b }
def Loc.Marked (s : State) : Loc → Prop
  | .at_ _ _ _ u => Machine.Marked s u
  | _ => True

section
variable {s u : State}

theorem Marked.refl (s : State) : Marked s s := ⟨s.mem, s.bases, rfl⟩
theorem Marked.only (h : Marked s u) : Only [.mem, .bases] s u := by
  obtain ⟨m, b, rfl⟩ := h
  intro p hp
  cases p <;> simp_all [Same, group?, ctx?]
theorem Marked.agent? (h : Marked s u) (j : Nat) : agent? u j = Machine.agent? s j := by obtain ⟨m, b, rfl⟩ := h; rfl
theorem Marked.others (h : Marked s u) (ks : List Nat) : Others ks s u := Others.of_eq fun j _ => h.agent? j

theorem Marked.putBase (h : Marked s u) (n : Nat) (b : Base) : Marked s (putBase u n b) := by
  obtain ⟨m, bases, rfl⟩ := h
  exact ⟨m, _, rfl⟩

theorem useLeaf_marked (s : State) (asid : Nat) (ad : Addr) (e ea size : Nat) (write : Bool) : Marked s (useLeaf s asid ad e ea size write).2 := by
  unfold useLeaf
  refine Marked.putBase ?_ _ _
  exact iteInduction (motive := Marked s) (fun _ => Marked.refl s) fun _ => ⟨_, s.bases, rfl⟩
theorem deviceUse_marked (s : State) (asid va : Nat) (write : Bool) : Marked s (deviceUse s asid va write) := by
  unfold deviceUse
  split
  · exact useLeaf_marked ..
  · exact Marked.refl s
theorem locate_marked (s : State) (p : Place) (asid va : Nat) (need : Need) (n : Nat) : (locate s p asid va need n).Marked s := by
  unfold locate
  split
  · trivial
  · refine iteInduction (fun _ => trivial) fun _ => ?_
    split
    · trivial
    · exact iteInduction (fun _ => trivial) fun _ => trivial
    · iterate 5 (refine iteInduction (fun _ => trivial) fun _ => ?_)
      exact useLeaf_marked ..
theorem fetchWord_marked {p : Place} {asid va w : Nat} (h : fetchWord s p asid va = .word w u) : Marked s u := by
  have hloc := locate_marked s p asid va .fetch 4
  unfold fetchWord at h
  split at h
  next pa home leaf t hl =>
    rw [hl] at hloc
    split at h
    · cases h; exact hloc
    · cases h
  all_goals cases h

end

/-! ### Completing with a transfer (R35) -/

section
variable {s : State} {k : Nat} {a : Agent}

/-- A stepping party's refreeze leaves where it came from. -/
theorem stepDone_entry (h : agent? s k = some a) : (agent? (stepDone s k) k).map Agent.entry = some a.entry := by
  simp only [stepDone, h]
  refine iteInduction (motive := fun t => (agent? t k).map Agent.entry = some a.entry) (fun _ => by rw [h]; rfl) fun _ => ?_
  refine iteInduction (motive := fun t => (agent? t k).map Agent.entry = some a.entry) (fun _ => ?_) fun _ => ?_
  · rw [agent?_updateCaps, agent?_putAgent_same]; rfl
  · rw [agent?_queueRec, agent?_putAgent_same]; rfl

/-- The party issues, and pays for it where it holds capabilities: it stands where it stood, with what it held. -/
theorem paid_spec (h : agent? s k = some a) (b : Agent) (held : List Nat) :
    ∃ u, (if held.isEmpty then countIssue s b else chargeBudget (countIssue s b) k held) = u ∧ Only [] s u ∧ Others [k] s u ∧
      ∃ c, agent? u k = some c ∧ c.core = a.core ∧ c.pc = a.pc ∧ c.entry = a.entry ∧ c.wait = a.wait := by
  have hcount : agent? (countIssue s b) k = some a := by rw [agent?_countIssue, h]
  have hothers : Others [k] s (countIssue s b) := Others.of_eq fun j _ => agent?_countIssue s b j
  refine ⟨_, rfl, ?_⟩
  split
  · exact ⟨Only.countIssue s b, hothers, a, hcount, rfl, rfl, rfl, rfl⟩
  · refine ⟨(Only.countIssue s b).trans (Only.modAgent _ k _), hothers.trans (Others.modAgent _ k _), ?_⟩
    unfold chargeBudget
    rw [agent?_modAgent_same, hcount]
    exact ⟨_, rfl, rfl, rfl, rfl, rfl⟩

theorem settle_jump_spec (h : agent? s k = some a) (b : Agent) (len : Nat) (t : DWord) :
    Only [] s (settle k b len (.jump s t)) ∧ Others [k] s (settle k b len (.jump s t)) ∧
    ∃ c, agent? (settle k b len (.jump s t)) k = some c ∧ c.core = a.core ∧ c.pc = t ∧ c.entry = .jump b.pc ∧ c.wait = .none := by
  simp only [settle]
  rw [modAgent_some h]
  generalize hmoved : ({ a with pc := t, entry := .jump b.pc, wait := .none, waited := 0, age := 0, urgent := false } : Agent) = moved
  obtain ⟨u, hu, honly, hothers, c, hc, hcore, hpc, hentry, hwait⟩ :=
    paid_spec (agent?_putAgent_same s k moved) b (b.caps.filterMap fun x => if x.2.valid then some x.1 else none)
  rw [hu]
  obtain ⟨honly', hothers', hparty⟩ := stepDone_spec u k
  obtain ⟨d, hd, hcore', hpc', hwait', -⟩ := hparty c hc
  have hentry' := stepDone_entry hc
  rw [hd] at hentry'
  subst hmoved
  exact ⟨(Only.putAgent _ _ _).trans (honly.trans honly'), (Others.putAgent _ _ _).trans (hothers.trans hothers'), d, hd, hcore'.trans hcore,
    hpc'.trans hpc, (Option.some.inj hentry').trans hentry, hwait'.trans hwait⟩

end

section
variable {c : Ctx'} {out : Out} {u : State}

/-- HOW A CLEAR PARTY'S TRANSFER COMPLETES, where its own effect has left what the party holds. -/
theorem goes_settle {l : List Part} {t : DWord} {P : State → Agent → Prop} (hout : out = .next (settle c.k c.a c.len (.jump u t)))
    (hhere : agent? u c.k = some c.a) (honly : Only l c.s u) (hothers : Others [c.k] c.s u)
    (hP : ∀ v b, Only [] u v → b.core = c.a.core → P v b) : Goes c out l t P := by
  obtain ⟨ho, hoth, b, hb, hcore, hpc, hentry, hwait⟩ := settle_jump_spec hhere c.a c.len t
  exact ⟨_, b, hout, hb, hpc, hentry, hwait, honly.trans (Only.of_nil ho), hothers.trans hoth, hP _ b ho hcore⟩

/-- A fault of the instruction's own execution that does not complete it. -/
theorem faults_settle {code : FCode} {i : FInfo} (hout : out = .next (settle c.k c.a c.len (.freeze u code i))) (hdone : i.done = false)
    (hhere : agent? u c.k = some c.a) : Faults { c with s := u } out code i := by
  rw [hout, settle, hdone]
  simp only [Bool.false_eq_true, if_false, modAgent_some hhere]
  rfl

/-! ### The transfer itself -/

/-- A target is taken modulo 2^64. -/
theorem transfer_mod (c : Ctx') (s : State) (t : Nat) : transfer c s (t % 2 ^ 64) = transfer c s t := by simp only [transfer, Nat.mod_mod]
theorem transfer_lands {t : Nat} (h : Lands c.s (placeOf c.k c.a) c.a.tasid t u) (ht : t < 2 ^ 64) :
    transfer c c.s t = .jump u (BitVec.ofNat 64 t) ∧ Marked c.s u := by
  obtain ⟨haligned, ⟨rfl, hnone⟩ | ⟨w, hword, hheader⟩⟩ := h
  · refine ⟨?_, Marked.refl _⟩
    cases hfetch : fetchWord c.s (placeOf c.k c.a) c.a.tasid t with
    | word w v => exact absurd hfetch (hnone w v)
    | absent | prot | wait =>
      simp only [transfer, Nat.mod_eq_of_lt ht, haligned, hfetch]
      rfl
  · refine ⟨?_, fetchWord_marked hword⟩
    simp only [transfer, Nat.mod_eq_of_lt ht, haligned, hword, hheader]
    rfl
theorem transfer_unaligned {t : Nat} (h : t % 8 ≠ 0) (ht : t < 2 ^ 64) : transfer c c.s t = .freeze c.s .illegalTarget {} := by
  simp only [transfer, Nat.mod_eq_of_lt ht, bne_iff_ne.mpr h, if_true]
theorem transfer_no_header {t w : Nat} (haligned : t % 8 = 0) (ht : t < 2 ^ 64) (hword : fetchWord c.s (placeOf c.k c.a) c.a.tasid t = .word w u)
    (hheader : isHeader w = false) : transfer c c.s t = .freeze (deviceUse c.s c.a.tasid t false) .illegalTarget {} := by
  simp only [transfer, Nat.mod_eq_of_lt ht, haligned, hword, hheader]
  rfl

end

/-- What the statement asks of a transfer to `t`. -/
structure Transfers (c : Ctx') (out : Out) (t : Nat) : Prop where
  lands : ∀ u, Lands c.s (placeOf c.k c.a) c.a.tasid t u → Goes c out [.mem, .bases] (BitVec.ofNat 64 t) fun v b =>
    v.mem = u.mem ∧ v.bases = u.bases ∧ b.core = c.a.core
  unaligned : t % 8 ≠ 0 → Faults c out .illegalTarget {}
  noHeader : t % 8 = 0 → ∀ w u, fetchWord c.s (placeOf c.k c.a) c.a.tasid t = .word w u → isHeader w = false →
    Faults { c with s := deviceUse c.s c.a.tasid t false } out .illegalTarget {}

theorem transfers_of {c : Ctx'} {out : Out} {t : Nat} (hhere : agent? c.s c.k = some c.a) (ht : t < 2 ^ 64)
    (hout : out = .next (settle c.k c.a c.len (transfer c c.s t))) : Transfers c out t where
  lands u hu := by
    obtain ⟨hjump, hmarked⟩ := transfer_lands hu ht
    rw [hjump] at hout
    exact goes_settle hout ((hmarked.agent? c.k).trans hhere) hmarked.only (hmarked.others _) fun v b hv hb =>
      ⟨hv .mem (by simp), hv .bases (by simp), hb⟩
  unaligned h := by
    rw [transfer_unaligned h ht] at hout
    exact faults_settle hout rfl hhere
  noHeader haligned w u hword hheader := by
    rw [transfer_no_header haligned ht hword hheader] at hout
    exact faults_settle hout rfl (((deviceUse_marked ..).agent? c.k).trans hhere)

/-- An instruction of a clear party transfers it, where its own execution is a transfer. -/
theorem Clear.transfers {o : Op} {f : FormL} {s : State} {k : Nat} {a : Agent} {i : FormL → Instr} {t : Nat} (h : Clear o f s k a) (body : Ctx' → Go)
    (hi : ∀ f s, exec (i f) s = issueL o f body s) (ht : t < 2 ^ 64)
    (hbody : body (ctxOf o f (lenOf f) s k a) = transfer (ctxOf o f (lenOf f) s k a) s t) : Transfers (ctxOf o f (lenOf f) s k a) (exec (i f) s) t :=
  transfers_of h.here ht ((hi f s).trans ((issueL_clear h body).trans (by rw [hbody]; rfl)))

/-- BRC's condition, as R103 lists its codes. -/
theorem relI_zero (code : Nat) (x : Int) :
    relI code x 0 = true ↔ match code with | 0 => x = 0 | 1 => x ≠ 0 | 2 => x < 0 | 3 => x ≤ 0 | 4 => 0 < x | _ => 0 ≤ x := by
  unfold relI
  split <;> simp

/-- Settles O25: each branch's own execution is a transfer to its target, but for a BRC whose compare is false, which falls through. -/
theorem branches : Obligations.Branches := by
  unfold Obligations.Branches
  refine ⟨?_, ?_, ?_, ?_⟩
  · intro f s k a h c _
    obtain ⟨h1, h2, h3⟩ := h.transfers (i := .bra) bodyBra (fun _ _ => rfl) (Nat.mod_lt _ (by decide)) rfl
    exact ⟨h1, h2, h3⟩
  · intro f s k a h c htaken
    obtain ⟨h1, h2, h3⟩ := h.transfers (i := .brc) bodyBrc (fun _ _ => rfl) (Nat.mod_lt _ (by decide)) (if_pos ((relI_zero _ _).mpr htaken))
    exact ⟨h1, h2, h3⟩
  · intro f s k a h c _
    obtain ⟨h1, h2, h3⟩ := h.transfers (i := .jmp) bodyJmp (t := c.va % 2 ^ 64) (fun _ _ => rfl) (Nat.mod_lt _ (by decide)) (transfer_mod _ _ _).symm
    exact ⟨h1, h2, h3⟩
  · refine doesL bodyBrc (fun _ _ => rfl) fun c hhere htaken => ⟨c.s, c.a, ?_, hhere, rfl, Only.refl _ _, Others.refl _ _, fun _ _ _ hb => hb⟩
    exact if_neg fun h => htaken ((relI_zero _ _).mp h)

end Sys2Proof.Machine
end

section
/-!
PROOF. Conversions, packing and quantization (R79 to R86): what FCVT, F2I, I2F, PACK and UNPK write, and what QNT and DQNT write once their
compand table has been read.
-/
namespace Sys2Proof.Machine

/-! ### Fields of a word (R86) -/

theorem fieldWidth_pos (m : BitVec 15) : 0 < fieldWidth m := by unfold fieldWidth; split <;> decide
theorem fieldWidth_le (m : BitVec 15) : fieldWidth m ≤ 32 := by unfold fieldWidth; split <;> decide

/-- Field j of width w lies in bits [w·j + w − 1 : w·j]. -/
theorem bitsN_field (x j : Nat) {w : Nat} (hw : 0 < w) : bitsN x (w * j + w - 1) (w * j) = x / 2 ^ (w * j) % 2 ^ w := by
  rw [bitsN, show w * j + w - 1 + 1 - w * j = w by omega]
theorem setBitsN_field (x v j : Nat) {w : Nat} (hw : 0 < w) :
    setBitsN x (w * j + w - 1) (w * j) v = x - x / 2 ^ (w * j) % 2 ^ w * 2 ^ (w * j) + v % 2 ^ w * 2 ^ (w * j) := by
  rw [setBitsN, bitsN_field x j hw, show w * j + w - 1 + 1 - w * j = w by omega]

/-- A w-bit number, sign-extended to a wider one: its top half moves up to the top of the wider range. -/
theorem sext_of_lt {w wide x : Nat} (hle : w ≤ wide) (hx : x < 2 ^ w) :
    sext w wide x = if 2 ^ (w - 1) ≤ x then x + 2 ^ wide - 2 ^ w else x := by
  have hpow : 2 ^ w ≤ 2 ^ wide := Nat.pow_le_pow_right (by decide) hle
  unfold sext toS ofS
  rw [Nat.mod_eq_of_lt hx]
  generalize 2 ^ w = W at hx hpow ⊢
  generalize 2 ^ wide = N at hpow ⊢
  by_cases hneg : 2 ^ (w - 1) ≤ x
  · rw [if_neg (Nat.not_lt.mpr hneg), if_pos hneg, ← Int.add_emod_right, Int.emod_eq_of_lt (by omega) (by omega)]
    omega
  · rw [if_pos (Nat.not_le.mp hneg), if_neg hneg, Int.emod_eq_of_lt (by omega) (by omega), Int.toNat_natCast]

section
variable (c : Ctx')

theorem bodyPack_eq : bodyPack c = .next (c.put 1 (
    let w := fieldWidth c.f.mod; let j := c.vb % 2 ^ 32
    if 32 / w ≤ j then c.vc else c.vc - c.vc / 2 ^ (w * j) % 2 ^ w * 2 ^ (w * j) + c.va % 2 ^ w * 2 ^ (w * j))) := by
  simp only [bodyPack, setBitsN_field _ _ _ (fieldWidth_pos _), low, Ctx'.mod, ge_iff_le]

theorem bodyUnpk_eq : bodyUnpk c = .next (c.put 1 (
    let w := fieldWidth c.f.mod; let j := c.vb % 2 ^ 32
    let field := if 32 / w ≤ j then 0 else c.va / 2 ^ (w * j) % 2 ^ w
    if modBit c.f.mod 3 && 2 ^ (w - 1) ≤ field then field + 2 ^ 32 - 2 ^ w else field)) := by
  simp only [bodyUnpk, bitsN_field _ _ (fieldWidth_pos _), low, Ctx'.mod, ge_iff_le]
  generalize hfield : (if 32 / fieldWidth c.f.mod ≤ c.vb % 2 ^ 32 then 0 else _) = field
  have hlt : field < 2 ^ fieldWidth c.f.mod := by
    rw [← hfield]
    split
    · exact Nat.two_pow_pos _
    · exact Nat.mod_lt _ (Nat.two_pow_pos _)
  rw [sext_of_lt (fieldWidth_le _) hlt]
  cases modBit c.f.mod 3 <;> simp

end

/-! ### A format word, and the read of its compand table (R80, R84, R85) -/

theorem bodyQnt_illegal {c : Ctx'} (h : formatOk c.vb = false) : bodyQnt c = .freeze c.s .illegalOpcode {} := by simp [bodyQnt, h]
theorem bodyDqnt_illegal {c : Ctx'} (h : formatOk c.vb = false) : bodyDqnt c = .freeze c.s .illegalOpcode {} := by simp [bodyDqnt, h]

section
variable {o : Op} {f : FormL} {s : State} {k : Nat} {a : Agent} {i : FormL → Instr} {body : Ctx' → Go}

/-- An instruction of a clear party whose own execution faults leaves the party frozen where it stands. -/
theorem Clear.faults (h : Clear o f s k a) {code : FCode} {x : FInfo} (hi : ∀ f s, exec (i f) s = issueL o f body s)
    (hbody : body (ctxOf o f (lenOf f) s k a) = .freeze s code x) (hdone : x.done = false) :
    Faults (ctxOf o f (lenOf f) s k a) (exec (i f) s) code x :=
  faults_settle (c := ctxOf o f (lenOf f) s k a) ((hi f s).trans ((issueL_clear h body).trans (by rw [hbody]; rfl))) hdone h.here

/-- An instruction of a clear party that first reads scratchpad, which leads to `u` and may move the party's `top`, and then writes the one
register DST and ORs two sets of flags into FL: nothing else of what the read left changes. -/
theorem Clear.writes_after_read (h : Clear o f s k a) {u : State} {n x : Nat} {p q : BitVec 5}
    (hhere : agent? u k = some { a with top := n }) (hi : ∀ f s, exec (i f) s = issueL o f body s)
    (hbody : body (ctxOf o f (lenOf f) s k a) =
      .next (putAgent u k ((agent? u k).elim a fun a => { (a.putV f.dst.toNat 1 x) with fl := a.fl ||| p ||| q }))) :
    Moves { ctxOf o f (lenOf f) s k a with s := u, a := { a with top := n } } (exec (i f) s) [] fun _ b =>
      WroteV a b f.dst.toNat 1 x ∧ SameX a b ∧ SameP a b ∧ b.fl = a.fl ||| (p ||| q) ∧ SameRest a b := by
  obtain ⟨v, hv⟩ := putV_rest { a with top := n } f.dst.toNat 1 x
  rw [hhere, Option.elim_some] at hbody
  refine moves_settle ((hi f s).trans ((issueL_clear h body).trans (by rw [hbody]; rfl))) (agent?_putAgent_same _ _ _) (by rw [hv])
    (Only.putAgent _ _ _) (Others.putAgent _ _ _) fun _ b _ hb => ?_
  refine ⟨core_wroteV hb (wroteV_putV _ _ _ _), core_sameX hb (sameX_putV _ _ _ _), core_sameP hb ?_, (core_fl hb).trans (BitVec.or_assoc ..),
    core_sameRest hb ?_⟩
  · rw [hv]; exact ⟨rfl, rfl, rfl⟩
  · rw [hv]; rfl

end

/-- Settles O16: each conversion writes its one result; QNT and DQNT do so in the state that the read of their table leads to. -/
theorem conversions : Obligations.Conversions := by
  unfold Obligations.Conversions
  refine ⟨⟨?_, ?_, ?_, ?_, ?_⟩, fun f s k a h => ⟨fun hfmt => ?_, fun hfmt u tab n htab hhere => ?_⟩,
    fun f s k a h => ⟨fun hfmt => ?_, fun hfmt u tab n htab hhere => ?_⟩⟩
  · exact floats_of bodyFcvt (fun _ _ => rfl) fun _ => rfl
  · exact floats_of bodyF2i (fun _ _ => rfl) fun _ => rfl
  · exact floats_of bodyI2f (fun _ _ => rfl) fun _ => rfl
  · exact writes_of bodyPack (fun _ _ => rfl) fun c => (bodyPack_eq c).trans (congrArg Go.next (put_flags c _ _))
  · exact writes_of bodyUnpk (fun _ _ => rfl) fun c => (bodyUnpk_eq c).trans (congrArg Go.next (put_flags c _ _))
  · exact h.faults (fun _ _ => rfl) (bodyQnt_illegal hfmt) rfl
  -- with a legal format word and its table read, what is left of the body is the statement's own value, its tests read as propositions
  · refine h.writes_after_read hhere (body := bodyQnt) (fun _ _ => rfl) ?_
    unfold bodyQnt
    rw [hfmt, htab]
    simp -zeta only [beq_iff_eq]
    rfl
  · exact h.faults (fun _ _ => rfl) (bodyDqnt_illegal hfmt) rfl
  · refine h.writes_after_read hhere (body := bodyDqnt) (fun _ _ => rfl) ?_
    unfold bodyDqnt
    rw [hfmt, htab]
    simp -zeta only [beq_iff_eq, Bool.or_eq_true]
    rfl

end Sys2Proof.Machine
end

section
/-!
PROOF. Predicates, FL and the work identifier (R111 to R113, R116).
-/
namespace Sys2Proof.Machine

/-! ### Instructions that change their own party only -/

section
variable {i : FormL → Instr} {o : Op} {H : Ctx' → Prop} {body : Ctx' → Go}

/-- An instruction that changes what its party holds, and nothing else. -/
theorem does_upd {P : Ctx' → State → Agent → Prop} {g : Ctx' → Agent → Agent} (hi : ∀ f s, exec (i f) s = issueL o f body s)
    (hbody : ∀ c, H c → body c = .next (c.upd (g c))) (hblk : ∀ c, (g c c.a).blk = c.a.blk)
    (hP : ∀ c u b, H c → b.core = (g c c.a).core → P c u b) : Does i o H [] P :=
  doesL body hi fun c _ hc => ⟨_, _, hbody c hc, agent?_putAgent_same _ _ _, hblk c, Only.putAgent _ _ _, Others.putAgent _ _ _,
    fun u b _ hb => hP c u b hc hb⟩

/-- A result of TYPE `t` in DST, without flags. -/
theorem does_put {t x : Ctx' → Nat} (hi : ∀ f s, exec (i f) s = issueL o f body s) (hbody : ∀ c, H c → body c = .next (c.put (t c) (x c))) :
    Does i o H [] fun c _ b => WroteTy c.a b c.f.dst.toNat (t c) (x c) ∧ SameP c.a b ∧ b.fl = c.a.fl ∧ SameRest c.a b := by
  refine does_upd (g := fun c a => a.putTy (c.a.kind == .task) c.f.dst.toNat (t c) (x c)) hi hbody (fun c => ?_) fun c u b _ hb => ?_
  · obtain ⟨v, y, e⟩ := putTy_rest c.a (c.a.kind == .task) c.f.dst.toNat (t c) (x c)
    rw [e]
  · obtain ⟨v, y, e⟩ := putTy_rest c.a (c.a.kind == .task) c.f.dst.toNat (t c) (x c)
    refine ⟨core_wroteTy hb (wroteTy_putTy ..), core_sameP hb ?_, (core_fl hb).trans (by rw [e]), core_sameRest hb ?_⟩
    · rw [e]; exact ⟨rfl, rfl, rfl⟩
    · rw [e]; rfl

end

/-- An instruction of a clear party whose own execution waits leaves the party waiting with what it held. -/
theorem Clear.waits {o : Op} {f : FormL} {s : State} {k : Nat} {a : Agent} {i : FormL → Instr} {body : Ctx' → Go} {w : Wait} (h : Clear o f s k a)
    (hi : ∀ f s, exec (i f) s = issueL o f body s) (hbody : body (ctxOf o f (lenOf f) s k a) = .wait s w) :
    Waits (ctxOf o f (lenOf f) s k a) (exec (i f) s) w := by
  unfold Waits
  rw [hi, issueL_clear h body, hbody, settle, modAgent_some h.here]
  rfl

/-! ### PLOG (R111) -/

theorem bitN_eq_testBit (x n : Nat) : bitN x n = x.testBit n := by
  rw [bitN, Nat.testBit_eq_decide_div_mod_eq]
  exact beq_eq_decide ..

theorem bodyPlog_eq (c : Ctx') : bodyPlog c =
    .next (c.upd fun a => { (a.setP c.f.dst.toNat ((modBits c.f.mod 7 0).testBit (4 * c.va + 2 * c.vb + c.vc))) with fl := a.fl ||| 0 }) := by
  obtain ⟨p, q, t, e⟩ := setP_rest c.a c.f.dst.toNat ((modBits c.f.mod 7 0).testBit (4 * c.va + 2 * c.vb + c.vc))
  unfold bodyPlog Ctx'.upd
  rw [bitN_eq_testBit]
  dsimp only [Ctx'.mod]
  rw [e]
  exact congrArg (fun fl => Go.next (putAgent c.s c.k { c.a with preds := p, pfull := q, ppoison := t, fl := fl })) BitVec.or_zero.symm

/-- Settles O17: PLOG's own execution writes one predicate. -/
theorem predicateLogic : Obligations.PredicateLogic := by
  unfold Obligations.PredicateLogic
  exact decides_of bodyPlog (fun _ _ => rfl) bodyPlog_eq

/-! ### PMOV (R112) -/

/-- Predicates written one after the other: those listed have their values, full and clean. -/
theorem setP_foldl (v : Nat → Bool) (m : Nat) : ∀ (l : List Nat) (a : Agent), let b := l.foldl (fun a n => a.setP n (v n)) a
    b.pval m = (if m ∈ l ∧ m < 7 then v m else a.pval m) ∧ b.pready m = (if m ∈ l ∧ m < 7 then true else a.pready m) ∧
    b.ppoison.getLsbD m = (if m ∈ l ∧ m < 7 then false else a.ppoison.getLsbD m)
  | [], a => by simp
  | n :: l, a => by
    intro b
    obtain ⟨hval, hready, hpoison⟩ := setP_foldl v m l (a.setP n (v n))
    obtain ⟨hval', hready', hpoison'⟩ := wroteP_setP a n (v n) m
    simp only [b, List.foldl_cons, hval, hready, hpoison, hval', hready', hpoison']
    by_cases hl : m ∈ l ∧ m < 7
    · simp [hl]
    · by_cases hn : m = n
      · subst hn; simp [hl]
      · simp [hl, hn]
theorem setP_foldl_rest (v : Nat → Bool) : ∀ (l : List Nat) (a : Agent),
    ∃ p q t, l.foldl (fun a n => a.setP n (v n)) a = { a with preds := p, pfull := q, ppoison := t }
  | [], a => ⟨a.preds, a.pfull, a.ppoison, rfl⟩
  | n :: l, a => by
    obtain ⟨p, q, t, e⟩ := setP_rest a n (v n)
    obtain ⟨p', q', t', e'⟩ := setP_foldl_rest v l (a.setP n (v n))
    exact ⟨p', q', t', by rw [List.foldl_cons, e', e]⟩

/-- The predicates that a PMOV with DIR 1 writes. -/
def pmovSet (c : Ctx') : List Nat := (upFrom 0 7).filter fun n => modBit c.f.mod (n + 1)
theorem mem_pmovSet (c : Ctx') (n : Nat) : n ∈ pmovSet c ↔ (n < 7 && modBit c.f.mod (n + 1)) = true := by
  simp [pmovSet, mem_upFrom]

section
variable {c : Ctx'}

theorem bodyPmov_read (hdir : modBit c.f.mod 0 = false) (hready : ∀ n < 7, c.a.pready n = true) (hclean : c.a.ppoison = 0) :
    bodyPmov c = .next (c.put 1 (((upFrom 0 8).map fun n => if c.a.pval n then 2 ^ n else 0).foldl (· + ·) 0)) := by
  have hall : (upFrom 0 7).all c.a.pready = true := List.all_eq_true.mpr fun n hn => hready n (by have := mem_upFrom.mp hn; omega)
  simp [bodyPmov, Ctx'.mod, hdir, hall, hclean]
theorem bodyPmov_poisoned (hdir : modBit c.f.mod 0 = false) (hready : ∀ n < 7, c.a.pready n = true) (hpoison : c.a.ppoison ≠ 0) :
    bodyPmov c = .freeze c.s .regPoison {} := by
  have hall : (upFrom 0 7).all c.a.pready = true := List.all_eq_true.mpr fun n hn => hready n (by have := mem_upFrom.mp hn; omega)
  simp only [bodyPmov, Ctx'.mod, hdir, hall, bne_iff_ne.mpr hpoison, if_true, Bool.false_eq_true, if_false]
theorem bodyPmov_write (hdir : modBit c.f.mod 0 = true) (hready : ∀ n, (n < 7 && modBit c.f.mod (n + 1)) = true → c.a.pready n = true) :
    bodyPmov c = .next (c.upd fun a => (pmovSet c).foldl (fun a n => a.setP n (bitN c.va n)) a) := by
  have hall : (pmovSet c).all c.a.pready = true := List.all_eq_true.mpr fun n hn => hready n ((mem_pmovSet c n).mp hn)
  unfold pmovSet at hall
  simp only [bodyPmov, Ctx'.mod, hdir, hall, if_true, pmovSet]
theorem bodyPmov_waits (h : ∃ n < 7, (modBit c.f.mod 0 = false ∨ (n < 7 && modBit c.f.mod (n + 1)) = true) ∧ c.a.pready n = false) :
    bodyPmov c = .wait c.s .retry := by
  obtain ⟨n, hn, hread, hempty⟩ := h
  have hnot : ∀ {l : List Nat}, n ∈ l → l.all c.a.pready = false := fun hmem => List.all_eq_false.mpr ⟨n, hmem, by simp [hempty]⟩
  cases hdir : modBit c.f.mod 0 with
  | false =>
    have hall := hnot (l := upFrom 0 7) (mem_upFrom.mpr ⟨Nat.zero_le n, by omega⟩)
    simp only [bodyPmov, Ctx'.mod, hdir, hall, Bool.false_eq_true, if_false]
  | true =>
    have hall := hnot ((mem_pmovSet c n).mpr (hread.resolve_left (by simp [hdir])))
    unfold pmovSet at hall
    simp only [bodyPmov, Ctx'.mod, hdir, hall, if_true, Bool.false_eq_true, if_false]

end

/-- The predicates as one number: P7 is always true. -/
theorem predicates_number (a : Agent) : ((upFrom 0 8).map fun n => if a.pval n then 2 ^ n else 0).foldl (· + ·) 0 =
    (let one (n : Nat) : Nat := if a.pval n then 2 ^ n else 0; one 0 + one 1 + one 2 + one 3 + one 4 + one 5 + one 6 + 128) := by
  have h0 (x : Nat) : 0 + x = x := Nat.zero_add x
  simp only [upFrom, List.map_cons, List.map_nil, List.foldl_cons, List.foldl_nil, h0]
  rfl

/-- Settles O18: PMOV in each direction, where what it touches is ready, poisoned or empty. -/
theorem predicateMoves : Obligations.PredicateMoves := by
  unfold Obligations.PredicateMoves
  intro dir masked one
  refine ⟨?_, ?_, fun f s k a h => ?_, fun f s k a h => ?_⟩
  · exact does_put (body := bodyPmov) (t := fun _ => 1) (fun _ _ => rfl) fun c ⟨hdir, hready, hclean⟩ =>
      (bodyPmov_read hdir hready hclean).trans (by rw [predicates_number])
  · refine does_upd (body := bodyPmov) (g := fun c a => (pmovSet c).foldl (fun a n => a.setP n (bitN c.va n)) a) (fun _ _ => rfl)
      (fun c ⟨hdir, hready⟩ => bodyPmov_write hdir hready) (fun c => ?_) fun c u b ⟨_, hready⟩ hb => ?_
    · obtain ⟨p, q, t, e⟩ := setP_foldl_rest (bitN c.va) (pmovSet c) c.a
      rw [e]
    · obtain ⟨p, q, t, e⟩ := setP_foldl_rest (bitN c.va) (pmovSet c) c.a
      refine ⟨fun n => ?_, core_sameV hb ?_, core_sameX hb ?_, (core_fl hb).trans (by rw [e]), core_sameRest hb (by rw [e]; rfl)⟩
      · obtain ⟨hval, hfull, hpoison⟩ := setP_foldl (bitN c.va) n (pmovSet c) c.a
        have hlisted : (n ∈ pmovSet c ∧ n < 7) ↔ masked c n = true :=
          (and_iff_left_of_imp fun hn => by have := (mem_pmovSet c n).mp hn; simp_all).trans (mem_pmovSet c n)
        rw [core_pval hb, core_pready hb, core_ppoison hb, hval, hfull, hpoison]
        simp only [hlisted, bitN_eq_testBit]
        cases hm : masked c n with
        | false => simp
        | true => simp [hready n hm]
      · rw [e]; exact fun _ => rfl
      · rw [e]; exact fun _ => rfl
  · intro c hdir hready hpoison
    exact h.faults (body := bodyPmov) (fun _ _ => rfl) (bodyPmov_poisoned hdir hready hpoison) rfl
  · intro c hempty
    exact h.waits (body := bodyPmov) (fun _ _ => rfl) (bodyPmov_waits hempty)

/-! ### FLRD and FLCLR (R113) -/

theorem prodsOut_iff (s : State) (uid : Nat) : prodsOut s uid = true ↔ ∃ p ∈ s.prods, p.uid = uid := by simp [prodsOut]
theorem prodsOut_eq_false {s : State} {uid : Nat} (h : ¬ ∃ p ∈ s.prods, p.uid = uid) : prodsOut s uid = false :=
  Bool.eq_false_iff.mpr fun hout => h ((prodsOut_iff s uid).mp hout)

/-- Settles O19: both instructions wait for every producer of the thread that is in flight (log 49). -/
theorem flagInstructions : Obligations.FlagInstructions := by
  unfold Obligations.FlagInstructions
  intro busy
  refine ⟨?_, ?_, fun f s k a h => ?_, fun f s k a h => ?_⟩
  · exact does_put (body := bodyFlrd) (t := fun _ => 1) (x := fun c => c.a.fl.toNat) (fun _ _ => rfl) fun c hidle => by
      simp only [bodyFlrd, prodsOut_eq_false hidle, Bool.false_eq_true, if_false]
  · exact does_upd (body := bodyFlclr) (g := fun c a => { a with fl := a.fl &&& ~~~(BitVec.ofNat 5 (modBits c.mod 4 0)) }) (fun _ _ => rfl)
      (fun c hidle => by simp only [bodyFlclr, prodsOut_eq_false hidle, Bool.false_eq_true, if_false]) (fun _ => rfl)
      fun c u b _ hb => ⟨core_fl hb, core_sameV hb fun _ => rfl, core_sameX hb fun _ => rfl, core_sameP hb ⟨rfl, rfl, rfl⟩, core_sameRest hb rfl⟩
  · intro c hbusy
    exact h.waits (body := bodyFlrd) (fun _ _ => rfl) (if_pos ((prodsOut_iff s a.uid).mpr hbusy))
  · intro c hbusy
    exact h.waits (body := bodyFlclr) (fun _ _ => rfl) (if_pos ((prodsOut_iff s a.uid).mpr hbusy))

/-! ### WID (R116) -/

theorem upFrom_zero (n : Nat) : upFrom 0 n = List.range n := by
  have hfrom : ∀ n a, upFrom a n = List.range' a n := fun n => by
    induction n with
    | zero => intro a; rfl
    | succ n ih => intro a; rw [upFrom, ih, List.range'_succ]
  rw [hfrom, List.range_eq_range']
theorem Kernel.prod_zero (kn : Kernel) (n : Nat) : kn.prod 0 n = ((List.range n).map kn.ext).prod := by
  rw [Kernel.prod, Nat.sub_zero, upFrom_zero, List.prod_eq_foldl]

/-- The index of a declared field is a digit of the work identifier, whose weight is the product of the extents below it. -/
theorem Kernel.field_eq (kn : Kernel) (wid n : Nat) :
    kn.field wid n = if n < kn.nfld then wid / ((List.range n).map kn.extent).prod % kn.extent n else 0 := by
  unfold Kernel.field
  split
  · next hn =>
    have hext : ∀ m ≤ n, kn.extent m = kn.ext m := fun m hm => if_pos (lt_of_le_of_lt hm hn)
    rw [Kernel.prod_zero, hext n le_rfl, List.map_congr_left fun m hm => hext m (List.mem_range.mp hm).le]
  · rfl
theorem workId_thread {s : State} {a : Agent} {kn : Kernel} {g : Group} (hkind : a.kind = .thread) (hk : kernel? s a.kernel = some kn)
    (hg : group? s a.group = some g) : workId s a = a.lin + g.index * ((List.range kn.gb).map kn.ext).prod := by
  simp [workId, hkind, hk, hg, Kernel.size, Kernel.prod_zero]

/-- What WID writes for a thread of a kernel. -/
theorem bodyWid_thread {c : Ctx'} {kn : Kernel} (hkind : c.a.kind = .thread) (hk : kernel? c.s c.a.kernel = some kn) : bodyWid c =
    .next (c.put 1 (let n := modBits c.f.mod 2 0; if modBit c.f.mod 3 then kn.extent n else kn.field (workId c.s c.a) n)) := by
  simp [bodyWid, Ctx'.mod, hkind, hk]

/-- Settles O21: the work identifier is a mixed-radix number whose digits are the declared fields' indices. -/
theorem workIdentifier : Obligations.WorkIdentifier := by
  unfold Obligations.WorkIdentifier
  intro f s k a h c hH
  obtain ⟨hkind, hkernel, hgroup⟩ := hH
  obtain ⟨kn, hk⟩ := Option.isSome_iff_exists.mp hkernel
  obtain ⟨g, hg⟩ := Option.isSome_iff_exists.mp hgroup
  obtain ⟨u, b, hout, hpassed, honly, hothers, hwrote, hrest⟩ := does_put (i := .wid) (H := fun c => c.a.kind = .thread ∧ kernel? c.s c.a.kernel = some kn)
    (body := bodyWid) (t := fun _ => 1) (fun _ _ => rfl) (fun c ⟨hkind, hk⟩ => bodyWid_thread hkind hk) f s k a h ⟨hkind, hk⟩
  refine ⟨u, b, hout, hpassed, honly, hothers, fun kn' g' hk' hg' => ⟨?_, hrest⟩⟩
  cases hk.symm.trans hk'
  cases hg.symm.trans hg'
  dsimp only at hwrote
  rw [workId_thread hkind hk hg, Kernel.field_eq] at hwrote
  exact hwrote

end Sys2Proof.Machine
end

section
/-!
PROOF. Calls, returns and transfers that are guarded off (R105, R109, R433).
-/
namespace Sys2Proof.Machine

/-! ### A transfer that is guarded off (R109) -/

theorem Moves.imp {c : Ctx'} {out : Out} {l : List Part} {P Q : State → Agent → Prop} (h : Moves c out l P)
    (hPQ : ∀ u b, Only l c.s u → P u b → Q u b) : Moves c out l Q := by
  obtain ⟨u, b, hout, hpassed, honly, hothers, hP⟩ := h
  exact ⟨u, b, hout, hpassed, honly, hothers, hPQ u b honly hP⟩

/-- A party that keeps what it holds keeps its pending reconvergence address and its return stack. -/
theorem Moves.keeps_stack {c : Ctx'} {out : Out} (h : Moves c out [] fun _ b => b.core = c.a.core) : Moves c out [] fun u b =>
    b.reconv = c.a.reconv ∧ b.rstk = c.a.rstk ∧ ∀ cl, (engine u cl).rstk = (engine c.s cl).rstk := by
  refine h.imp fun u b honly hcore => ?_
  have hclusters : u.clusters = c.s.clusters := honly .clusters (by simp)
  have hreconv : b.core.reconv = c.a.core.reconv := by rw [hcore]
  have hrstk : b.core.rstk = c.a.core.rstk := by rw [hcore]
  exact ⟨hreconv, hrstk, fun cl => by rw [engine, cluster, hclusters]; rfl⟩

/-- Settles O23: a guarded-off transfer only moves on, and the return stack of the control core is a part of its cluster. -/
theorem falseTransfer : Obligations.FalseTransfer := by
  unfold Obligations.FalseTransfer
  refine ⟨fun f s k a o i hi h => ?_, fun f s k a h => ?_⟩
  · refine Moves.keeps_stack (c := ctxOf o f (lenOf f) s k a) ?_
    simp only [List.mem_cons, List.not_mem_nil, or_false] at hi
    rcases hi with ⟨rfl, rfl⟩ | ⟨rfl, rfl⟩ | ⟨rfl, rfl⟩ | ⟨rfl, rfl⟩ | ⟨rfl, rfl⟩ | ⟨rfl, rfl⟩
    all_goals exact moves_of_guardedOff rfl rfl rfl (by decide) (by decide) (by decide) h
  · exact (moves_of_guardedOff_short (i := .retS f) rfl rfl rfl h).keeps_stack

/-! ### A fetch sees neither parties nor requests -/

/-- A state with other parties, clusters and requests. -/
def State.manned (s : State) (ag : FMap Agent) (cl : FMap Cluster) (id : Nat) (rq : List Req) : State :=
  { s with agents := ag, clusters := cl, nextId := id, reqs := rq }
def Loc.manned (ag : FMap Agent) (cl : FMap Cluster) (id : Nat) (rq : List Req) : Loc → Loc
  | .at_ pa home leaf s => .at_ pa home leaf (s.manned ag cl id rq)
  | l => l
def Fetched.manned (ag : FMap Agent) (cl : FMap Cluster) (id : Nat) (rq : List Req) : Fetched → Fetched
  | .word w s => .word w (s.manned ag cl id rq)
  | f => f

section
variable (s : State) (ag : FMap Agent) (cl : FMap Cluster) (id : Nat) (rq : List Req)

theorem useLeaf_manned (asid : Nat) (ad : Addr) (e ea size : Nat) (write : Bool) :
    useLeaf (s.manned ag cl id rq) asid ad e ea size write =
      ((useLeaf s asid ad e ea size write).1, (useLeaf s asid ad e ea size write).2.manned ag cl id rq) := by
  unfold useLeaf
  by_cases h : (e ||| (256 + if write then 128 else 0)) == e
  · simp only [h, if_true]; rfl
  · simp only [h, if_false, Bool.false_eq_true]; rfl

theorem locate_manned (p : Place) (asid va : Nat) (need : Need) (n : Nat) :
    locate (s.manned ag cl id rq) p asid va need n = (locate s p asid va need n).manned ag cl id rq := by
  unfold locate
  have hclassify : classify (s.manned ag cl id rq) asid va = classify s asid va := rfl
  have hroute : routeOk (s.manned ag cl id rq) = routeOk s := rfl
  have hqueue : inQueueArea (s.manned ag cl id rq) = inQueueArea s := rfl
  have hleaf : findLeaf (s.manned ag cl id rq) = findLeaf s := rfl
  have hlogged : logged (s.manned ag cl id rq) = logged s := rfl
  have hmig : migOf (s.manned ag cl id rq) = migOf s := rfl
  have hok : leafOk (s.manned ag cl id rq) = leafOk s := rfl
  have haddr : leafAddr (s.manned ag cl id rq) = leafAddr s := rfl
  have hrefused : refusedBy (s.manned ag cl id rq) = refusedBy s := rfl
  simp only [hclassify, hroute, hqueue, hleaf, hlogged, hmig, hok, haddr, hrefused, useLeaf_manned]
  split
  · rfl
  · split
    · rfl
    · split
      · rfl
      · split <;> rfl
      · iterate 5 (split; · rfl)
        rfl
theorem fetchWord_manned (p : Place) (asid va : Nat) : fetchWord (s.manned ag cl id rq) p asid va = (fetchWord s p asid va).manned ag cl id rq := by
  have hcross : crossNow (s.manned ag cl id rq) = crossNow s := rfl
  have hread (t : State) : readPhys (t.manned ag cl id rq) = readPhys t := rfl
  unfold fetchWord
  rw [locate_manned]
  cases locate s p asid va .fetch 4 with
  | at_ pa home leaf t =>
    simp only [Loc.manned, hcross, hread]
    split <;> rfl
  | wait | absent | prot | poisoned => rfl

/-- A transfer whose instruction has already changed parties, clusters or requests, which its fetch does not see. -/
theorem transfer_manned {c : Ctx'} {t : Nat} {u : State} (h : Lands c.s (placeOf c.k c.a) c.a.tasid t u) (ht : t < 2 ^ 64) :
    transfer c (c.s.manned ag cl id rq) t = .jump (u.manned ag cl id rq) (BitVec.ofNat 64 t) ∧ Marked c.s u := by
  obtain ⟨haligned, ⟨rfl, hnone⟩ | ⟨w, hword, hheader⟩⟩ := h
  · refine ⟨?_, Marked.refl _⟩
    cases hfetch : fetchWord c.s (placeOf c.k c.a) c.a.tasid t with
    | word w v => exact absurd hfetch (hnone w v)
    | absent | prot | wait =>
      simp only [transfer, Nat.mod_eq_of_lt ht, haligned, fetchWord_manned, hfetch, Fetched.manned]
      rfl
  · refine ⟨?_, fetchWord_marked hword⟩
    simp only [transfer, Nat.mod_eq_of_lt ht, haligned, fetchWord_manned, hword, Fetched.manned, hheader]
    rfl

end

/-- How a clear party's transfer completes, where its own effect has left it as `b'` and only the listed components changed. -/
theorem goes_settle_to {c : Ctx'} {out : Out} {u : State} {b' : Agent} {l : List Part} {t : DWord} {P : State → Agent → Prop}
    (hout : out = .next (settle c.k c.a c.len (.jump u t))) (hhere : agent? u c.k = some b') (honly : Only l c.s u) (hothers : Others [c.k] c.s u)
    (hP : ∀ v b, Only [] u v → b.core = b'.core → P v b) : Goes c out l t P := by
  obtain ⟨ho, hoth, b, hb, hcore, hpc, hentry, hwait⟩ := settle_jump_spec hhere c.a c.len t
  exact ⟨_, b, hout, hb, hpc, hentry, hwait, honly.trans (Only.of_nil ho), hothers.trans hoth, hP _ b ho hcore⟩

/-! ### CALL and CALLI (R105) -/

section
variable {c : Ctx'} {t : Nat}

/-- The store that pushes a return address (R105, R433). -/
def pushAccess (c : Ctx') : Access :=
  { kind := .store, scratch := false, addr := BitVec.ofNat 64 (privVa c.s c.k c.a (c.a.rstk - 8)), locs := [], bytes := 8, width := 3, data := c.ret, pc := c.a.pc }
/-- The party of a CALL with its return address pushed. -/
def pushed (c : Ctx') : Agent := { c.a with rstk := c.a.rstk - 8, seq := c.a.seq + 1 }
def pushRequest (c : Ctx') : Req :=
  { id := c.s.nextId, seq := c.a.seq, who := whoOf c.k c.a, acc := pushAccess c, fences := c.a.fences }

/-- The state with another return stack on the control core (R105). -/
def stacked (c : Ctx') (st : List DWord) : State :=
  c.s.manned c.s.agents (fput c.s.clusters (clusterOf c.k) { cluster c.s (clusterOf c.k) with eng := { engine c.s (clusterOf c.k) with rstk := st } })
    c.s.nextId c.s.reqs

theorem call_thread (hkind : c.a.kind = .thread) (hroom : 8 ≤ c.a.rstk) (hwrites : writesOut c.s c.a.uid < 8) :
    call c t = transfer c (c.s.manned (fput c.s.agents c.k (pushed c)) c.s.clusters (c.s.nextId + 1) (c.s.reqs ++ [pushRequest c])) t := by
  have hfit : (c.a.kind == .handler || decide (c.a.rstk < 8)) = false := by simp [hkind, hroom]
  unfold call
  rw [if_neg (by simp [Ctx'.ctl, hkind]), if_neg (by simp [hfit]), if_neg (by omega)]
  rfl
theorem call_thread_waits (hkind : c.a.kind = .thread) (hroom : 8 ≤ c.a.rstk) (hwrites : 8 ≤ writesOut c.s c.a.uid) : call c t = .wait c.s .retry := by
  have hfit : (c.a.kind == .handler || decide (c.a.rstk < 8)) = false := by simp [hkind, hroom]
  unfold call
  rw [if_neg (by simp [Ctx'.ctl, hkind]), if_neg (by simp [hfit]), if_pos hwrites]
theorem call_task (hkind : c.a.kind = .task) (hroom : (engine c.s (clusterOf c.k)).rstk.length < 16) :
    call c t = transfer c (stacked c (BitVec.ofNat 64 c.ret :: (engine c.s (clusterOf c.k)).rstk)) t := by
  unfold call
  rw [if_pos (by simp [Ctx'.ctl, hkind])]
  dsimp only
  rw [if_neg (by omega)]
  rfl
theorem call_overflow (h : (c.a.kind = .thread ∧ c.a.rstk < 8) ∨ (c.a.kind = .task ∧ 16 ≤ (engine c.s (clusterOf c.k)).rstk.length) ∨ c.a.kind = .handler) :
    call c t = .freeze c.s .stackOverflow {} := by
  rcases h with ⟨hkind, hfull⟩ | ⟨hkind, hfull⟩ | hkind
  · simp [call, Ctx'.ctl, hkind, hfull]
  · simp [call, Ctx'.ctl, hkind, hfull]
  · simp [call, Ctx'.ctl, hkind]

end

theorem call_mod (c : Ctx') (t : Nat) : call c (t % 2 ^ 64) = call c t := by simp only [call, transfer_mod]

/-- What a fetch has marked, with other parties, and clusters, numbers and requests that are the same or listed. -/
theorem Marked.only_manned {s u : State} (h : Marked s u) (ag : FMap Agent) {cl : FMap Cluster} {id : Nat} {rq : List Req} {l : List Part}
    (hmem : .mem ∈ l) (hbases : .bases ∈ l) (hcl : .clusters ∈ l ∨ cl = s.clusters) (hid : .ids ∈ l ∨ id = s.nextId) (hrq : .reqs ∈ l ∨ rq = s.reqs) :
    Only l s (u.manned ag cl id rq) := by
  obtain ⟨m, b, rfl⟩ := h
  intro p hp
  cases p with
  | clusters => exact hcl.resolve_left hp
  | ids => exact ⟨hid.resolve_left hp, rfl⟩
  | reqs => exact hrq.resolve_left hp
  | mem => exact absurd hmem hp
  | bases => exact absurd hbases hp
  | _ => simp [Same, State.manned, group?, ctx?]
theorem others_manned {s u : State} {k : Nat} {a : Agent} {cl : FMap Cluster} {id : Nat} {rq : List Req} :
    Others [k] s (u.manned (fput s.agents k a) cl id rq) :=
  Others.of_eq fun j hj => fget?_fput_ne _ _ (by simpa using hj)

/-- A transfer of the control core that has left another return stack. -/
theorem goes_stacked {c : Ctx'} {out : Out} {t : Nat} {st : List DWord} {v : State} (hhere : agent? c.s c.k = some c.a) (ht : t < 2 ^ 64)
    (hout : out = .next (settle c.k c.a c.len (transfer c (stacked c st) t))) (hv : Lands c.s (placeOf c.k c.a) c.a.tasid t v) :
    Goes c out [.clusters, .mem, .bases] (BitVec.ofNat 64 t) fun u b => u.mem = v.mem ∧ u.bases = v.bases ∧ b.core = c.a.core ∧
      engine u (clusterOf c.k) = { engine c.s (clusterOf c.k) with rstk := st } ∧ ∀ j, j ≠ clusterOf c.k → cluster u j = cluster c.s j := by
  unfold stacked at hout
  generalize hx : ({ cluster c.s (clusterOf c.k) with eng := { engine c.s (clusterOf c.k) with rstk := st } } : Cluster) = x at hout
  obtain ⟨hjump, hmarked⟩ := transfer_manned c.s.agents (fput c.s.clusters (clusterOf c.k) x) c.s.nextId c.s.reqs hv ht
  rw [hjump] at hout
  refine goes_settle_to hout hhere ?_ (Others.of_eq fun _ _ => rfl) fun w b hw hb => ?_
  · exact hmarked.only_manned _ (by simp) (by simp) (.inl (by simp)) (.inr rfl) (.inr rfl)
  · have hclusters : w.clusters = fput c.s.clusters (clusterOf c.k) x := hw .clusters (by simp)
    have hread (j : Nat) : cluster w j = if j = clusterOf c.k then x else cluster c.s j := by rw [cluster, hclusters]; exact fgetD_fput ..
    refine ⟨hw .mem (by simp), hw .bases (by simp), hb, ?_, fun j hj => (hread j).trans (if_neg hj)⟩
    rw [engine, hread, if_pos rfl, ← hx]

/-- A thread with room pushes its return address and transfers. -/
theorem call_goes_thread {c : Ctx'} {out : Out} {t : Nat} (ht : t < 2 ^ 64) (hout : out = .next (settle c.k c.a c.len (call c t)))
    (hkind : c.a.kind = .thread) (hroom : 8 ≤ c.a.rstk) (hwrites : writesOut c.s c.a.uid < 8) {v : State}
    (hv : Lands c.s (placeOf c.k c.a) c.a.tasid t v) : Goes c out [.ids, .reqs, .mem, .bases] (BitVec.ofNat 64 t) fun u b =>
      u.mem = v.mem ∧ u.bases = v.bases ∧ b.core = { c.a.core with rstk := c.a.rstk - 8, seq := c.a.seq + 1 } ∧ u.reqs = c.s.reqs ++ [pushRequest c] := by
  obtain ⟨hjump, hmarked⟩ := transfer_manned (fput c.s.agents c.k (pushed c)) c.s.clusters (c.s.nextId + 1) (c.s.reqs ++ [pushRequest c]) hv ht
  rw [call_thread hkind hroom hwrites, hjump] at hout
  refine goes_settle_to (b' := pushed c) hout (fget?_fput_same _ _ _) ?_ others_manned fun w b hw hb => ?_
  · exact hmarked.only_manned _ (by simp) (by simp) (.inr rfl) (.inl (by simp)) (.inl (by simp))
  · exact ⟨hw .mem (by simp), hw .bases (by simp), hb, hw .reqs (by simp)⟩

/-- What the statement asks of a call of `t`. -/
theorem Clear.calls {o : Op} {f : FormL} {s : State} {k : Nat} {a : Agent} {i : FormL → Instr} {body : Ctx' → Go} {t : Nat} (h : Clear o f s k a)
    (hi : ∀ f s, exec (i f) s = issueL o f body s) (ht : t < 2 ^ 64)
    (hbody : body (ctxOf o f (lenOf f) s k a) = call (ctxOf o f (lenOf f) s k a) t) :
    let c := ctxOf o f (lenOf f) s k a
    let back := (a.pc.toNat + lenOf f + 7) / 8 * 8 % 2 ^ 64
    (a.kind = .thread → 8 ≤ a.rstk → writesOut s a.uid < 8 → ∀ v, Lands s (placeOf k a) a.tasid t v →
      Goes c (exec (i f) s) [.ids, .reqs, .mem, .bases] (BitVec.ofNat 64 t) fun u b =>
      u.mem = v.mem ∧ u.bases = v.bases ∧ b.core = { a.core with rstk := a.rstk - 8, seq := a.seq + 1 } ∧
      ∃ r, u.reqs = s.reqs ++ [r] ∧ r.seq = a.seq ∧ r.who = whoOf k a ∧ r.stage = .issued ∧ r.acc.kind = .store ∧ r.acc.scratch = false ∧
        r.acc.addr = BitVec.ofNat 64 (privVa s k a (a.rstk - 8)) ∧ r.acc.bytes = 8 ∧ r.acc.data = back) ∧
    (a.kind = .thread → 8 ≤ a.rstk → 8 ≤ writesOut s a.uid → Waits c (exec (i f) s) .retry) ∧
    (a.kind = .task → (engine s (clusterOf k)).rstk.length < 16 → ∀ v, Lands s (placeOf k a) a.tasid t v →
      Goes c (exec (i f) s) [.clusters, .mem, .bases] (BitVec.ofNat 64 t) fun u b => u.mem = v.mem ∧ u.bases = v.bases ∧ b.core = a.core ∧
        engine u (clusterOf k) = { engine s (clusterOf k) with rstk := BitVec.ofNat 64 back :: (engine s (clusterOf k)).rstk } ∧
        ∀ j, j ≠ clusterOf k → cluster u j = cluster s j) ∧
    ((a.kind = .thread ∧ a.rstk < 8) ∨ (a.kind = .task ∧ 16 ≤ (engine s (clusterOf k)).rstk.length) ∨ a.kind = .handler →
      Faults c (exec (i f) s) .stackOverflow {}) := by
  intro c back
  have hout : exec (i f) s = .next (settle c.k c.a c.len (call c t)) := (hi f s).trans ((issueL_clear h body).trans (by rw [hbody]; rfl))
  refine ⟨fun hkind hroom hwrites v hv => ?_, fun hkind hroom hwrites => ?_, fun hkind hroom v hv => ?_, fun hfull => ?_⟩
  · obtain ⟨u, b, hu, hb, hpc, hentry, hwait, honly, hothers, hmem, hbases, hcore, hreqs⟩ := call_goes_thread ht hout hkind hroom hwrites hv
    exact ⟨u, b, hu, hb, hpc, hentry, hwait, honly, hothers, hmem, hbases, hcore, pushRequest c, hreqs, rfl, rfl, rfl, rfl, rfl, rfl, rfl, rfl⟩
  · exact h.waits hi (hbody.trans (call_thread_waits hkind hroom hwrites))
  · exact goes_stacked h.here ht (hout.trans (by rw [call_task hkind hroom]; rfl)) hv
  · exact h.faults hi (hbody.trans (call_overflow hfull)) rfl

/-- Settles O26: a call is a transfer after a push, which the fetch of the target does not see. -/
theorem calls : Obligations.Calls := by
  unfold Obligations.Calls
  exact ⟨fun f s k a h => h.calls (i := .call) (body := bodyCall) (fun _ _ => rfl) (Nat.mod_lt _ (by decide)) rfl,
    fun f s k a h => h.calls (i := .calli) (body := bodyCalli) (fun _ _ => rfl) (Nat.mod_lt _ (by decide)) (call_mod _ _).symm⟩

/-! ### RET (R105, R433) -/

section
variable {c : Ctx'}

theorem bodyRet_task {r : DWord} {t : List DWord} (hkind : c.a.kind = .task) (h : (engine c.s (clusterOf c.k)).rstk = r :: t) :
    bodyRet c = transfer c (stacked c t) r.toNat := by
  unfold bodyRet
  rw [if_pos (by simp [Ctx'.ctl, hkind])]
  simp only [h]
  rfl
theorem bodyRet_thread {u : State} {ra : Nat} {b : Agent} (hkind : c.a.kind = .thread) (hroom : c.a.rstk < privSize c.s c.a)
    (hread : readNow c (privVa c.s c.k c.a c.a.rstk) 8 = .inr (u, ra)) (hb : agent? u c.k = some b) :
    bodyRet c = transfer { c with s := u } (u.manned (fput u.agents c.k { b with rstk := b.rstk + 8 }) u.clusters u.nextId u.reqs) ra := by
  have hfit : (c.a.kind == .handler || decide (c.a.rstk ≥ privSize c.s c.a)) = false := by simp [hkind, hroom]
  unfold bodyRet
  rw [if_neg (by simp [Ctx'.ctl, hkind]), if_neg (by simp [hfit])]
  simp only [hread, modAgent_some hb]
  rfl
theorem bodyRet_empty (h : (c.a.kind = .thread ∧ privSize c.s c.a ≤ c.a.rstk) ∨ (c.a.kind = .task ∧ (engine c.s (clusterOf c.k)).rstk = []) ∨
    c.a.kind = .handler) : bodyRet c = .freeze c.s .stackOverflow {} := by
  rcases h with ⟨hkind, hempty⟩ | ⟨hkind, hempty⟩ | hkind
  · simp [bodyRet, Ctx'.ctl, hkind, hempty]
  · simp [bodyRet, Ctx'.ctl, hkind, hempty]
  · simp [bodyRet, Ctx'.ctl, hkind]

end

section
variable {c : Ctx'} {out : Out} (hout : out = .next (settle c.k c.a c.len (bodyRet c)))
include hout

/-- A thread pops the return address that it has read, and transfers. -/
theorem ret_goes_thread (hkind : c.a.kind = .thread) (hroom : c.a.rstk < privSize c.s c.a) {u w : State} {ra n : Nat}
    (hread : readNow c (privVa c.s c.k c.a c.a.rstk) 8 = .inr (u, ra)) (hhere : agent? u c.k = some { c.a with top := n })
    (hw : Lands u (placeOf c.k c.a) c.a.tasid (ra % 2 ^ 64) w) : ∃ v b, out = .next v ∧ v.mem = w.mem ∧ v.bases = w.bases ∧ agent? v c.k = some b ∧
      b.pc = BitVec.ofNat 64 ra ∧ b.entry = .jump c.a.pc ∧ b.wait = .none ∧ b.core = { c.a.core with rstk := c.a.rstk + 8 } ∧
      Only [.mem, .bases] u v ∧ Others [c.k] u v := by
  have hlt : ra % 2 ^ 64 < 2 ^ 64 := Nat.mod_lt _ (by decide)
  obtain ⟨hjump, hmarked⟩ := transfer_manned (c := { c with s := u }) (fput u.agents c.k { c.a with top := n, rstk := c.a.rstk + 8 }) u.clusters u.nextId
    u.reqs hw hlt
  rw [transfer_mod] at hjump
  rw [bodyRet_thread hkind hroom hread hhere, hjump] at hout
  obtain ⟨v, b, hv, hb, hpc, hentry, hwait, honly, hothers, hmem, hbases, hcore⟩ := goes_settle_to (c := { c with s := u }) (l := [.mem, .bases])
    (P := fun v b => v.mem = w.mem ∧ v.bases = w.bases ∧ b.core = { c.a.core with rstk := c.a.rstk + 8 }) hout (fget?_fput_same _ _ _)
    (hmarked.only_manned _ (by simp) (by simp) (.inr rfl) (.inr rfl) (.inr rfl)) others_manned
    fun v b hv hb => ⟨hv .mem (by simp), hv .bases (by simp), hb⟩
  exact ⟨v, b, hv, hmem, hbases, hb, hpc.trans (BitVec.eq_of_toNat_eq (by simp)), hentry, hwait, hcore, honly, hothers⟩

end

/-- What the statement asks of a return. -/
theorem returns_of {c : Ctx'} {out : Out} (hhere : agent? c.s c.k = some c.a) (hout : out = .next (settle c.k c.a c.len (bodyRet c))) :
    (c.a.kind = .thread → c.a.rstk < privSize c.s c.a → ∀ u ra, readNow c (privVa c.s c.k c.a c.a.rstk) 8 = .inr (u, ra) →
      ∀ n, agent? u c.k = some { c.a with top := n } → ∀ w, Lands u (placeOf c.k c.a) c.a.tasid (ra % 2 ^ 64) w →
      ∃ v b, out = .next v ∧ v.mem = w.mem ∧ v.bases = w.bases ∧ agent? v c.k = some b ∧ b.pc = BitVec.ofNat 64 ra ∧ b.entry = .jump c.a.pc ∧
        b.wait = .none ∧ b.core = { c.a.core with rstk := c.a.rstk + 8 } ∧ Only [.mem, .bases] u v ∧ Others [c.k] u v) ∧
    (c.a.kind = .task → ∀ r t, (engine c.s (clusterOf c.k)).rstk = r :: t → ∀ w, Lands c.s (placeOf c.k c.a) c.a.tasid r.toNat w →
      Goes c out [.clusters, .mem, .bases] r fun u b => u.mem = w.mem ∧ u.bases = w.bases ∧ b.core = c.a.core ∧
        engine u (clusterOf c.k) = { engine c.s (clusterOf c.k) with rstk := t } ∧ ∀ j, j ≠ clusterOf c.k → cluster u j = cluster c.s j) ∧
    ((c.a.kind = .thread ∧ privSize c.s c.a ≤ c.a.rstk) ∨ (c.a.kind = .task ∧ (engine c.s (clusterOf c.k)).rstk = []) ∨ c.a.kind = .handler →
      Faults c out .stackOverflow {}) := by
  refine ⟨fun hkind hroom u ra hread n hn w hw => ret_goes_thread hout hkind hroom hread hn hw, fun hkind r t hstack w hw => ?_, fun hempty => ?_⟩
  · have hgoes := goes_stacked hhere r.isLt (hout.trans (by rw [bodyRet_task hkind hstack])) hw
    rwa [BitVec.ofNat_toNat, BitVec.setWidth_eq] at hgoes
  · exact faults_settle (hout.trans (by rw [bodyRet_empty hempty])) rfl hhere

/-- Settles O27: a return is a transfer after a pop, in either form. -/
theorem returnInstructions : Obligations.Returns := by
  unfold Obligations.Returns
  exact ⟨fun f s k a h => returns_of h.here (issueL_clear h bodyRet), fun f s k a h => returns_of (c := ctxOfS .ret f s k a) h.here (issueS_clear h bodyRet)⟩

end Sys2Proof.Machine
end

section
/-!
PROOF. YIELD, TRAP and BKPT (R107, R108), and the freeze (R326).
-/
namespace Sys2Proof.Machine

/-! ### What completing and freezing leave of the parties -/

/-- A party but for its capabilities, and the record that MOVS shows of C0. -/
def Agent.uncapped (a : Agent) : Agent := { a with caps := [], lastC0 := none }
/-- The parties that are not listed are the same but for their capabilities: a record that a capability holds may be updated (R342). -/
def Bystanders (ks : List Nat) (s u : State) : Prop := ∀ j, j ∉ ks → (agent? u j).map Agent.uncapped = (agent? s j).map Agent.uncapped

section
variable {ks : List Nat} {s t u : State}

theorem Bystanders.of_eq (h : ∀ j, j ∉ ks → agent? u j = agent? s j) : Bystanders ks s u := fun j hj => by rw [h j hj]
theorem Bystanders.trans (h : Bystanders ks s t) (g : Bystanders ks t u) : Bystanders ks s u := fun j hj => (g j hj).trans (h j hj)
theorem Bystanders.mono {ks' : List Nat} (h : Bystanders ks s u) (hks : ∀ j ∈ ks, j ∈ ks') : Bystanders ks' s u := fun j hj => h j fun hmem => hj (hks j hmem)
/-- A party that stands by is there still, with all but its capabilities. -/
theorem Bystanders.some {j : Nat} {m : Agent} (h : Bystanders ks s u) (hj : j ∉ ks) (hm : agent? s j = some m) :
    ∃ n, agent? u j = some n ∧ n.uncapped = m.uncapped := by
  have hread := h j hj
  rw [hm] at hread
  obtain ⟨n, hn, e⟩ := Option.map_eq_some_iff.mp hread
  exact ⟨n, hn, e⟩
theorem uncapped_core {a b : Agent} (h : a.uncapped = b.uncapped) : a.core = b.core := by
  have e : a.uncapped.core = b.uncapped.core := by rw [h]
  exact e
theorem uncapped_pc {a b : Agent} (h : a.uncapped = b.uncapped) : a.pc = b.pc := by
  have e : a.uncapped.pc = b.uncapped.pc := by rw [h]
  exact e
theorem uncapped_wait {a b : Agent} (h : a.uncapped = b.uncapped) : a.wait = b.wait := by
  have e : a.uncapped.wait = b.uncapped.wait := by rw [h]
  exact e
theorem Bystanders.others (h : Bystanders ks s u) : Others ks s u := fun j hj => by
  have hread := congrArg (Option.map fun a : Agent => (a.core, a.pc)) (h j hj)
  rw [Option.map_map, Option.map_map] at hread
  exact hread

theorem Bystanders.putAgent (s : State) (k : Nat) (a : Agent) : Bystanders [k] s (putAgent s k a) :=
  .of_eq fun j hj => agent?_putAgent_ne s a (by simpa using hj)
theorem Bystanders.modAgent (s : State) (k : Nat) (f : Agent → Agent) : Bystanders [k] s (modAgent s k f) :=
  .of_eq fun j hj => agent?_modAgent_ne s f (by simpa using hj)
theorem Bystanders.updateCaps (ks : List Nat) (s : State) (p : Rec → Bool) (f : Cap → Cap) : Bystanders ks s (updateCaps s p f) := fun j _ => by
  rw [agent?_updateCaps, Option.map_map]; rfl

end

section
variable {s : State} {k : Nat} {a : Agent}

/-- A stepping party's refreeze leaves the other parties, and does not age its own. -/
theorem stepDone_bystanders (s : State) (k : Nat) : Bystanders [k] s (stepDone s k) := by
  unfold stepDone
  split
  · exact .of_eq fun _ _ => rfl
  · refine iteInduction (motive := Bystanders [k] s) (fun _ => .of_eq fun _ _ => rfl) fun _ => ?_
    refine iteInduction (motive := Bystanders [k] s) (fun _ => ?_) fun _ => ?_
    · exact (Bystanders.putAgent s k _).trans (.updateCaps _ _ _ _)
    · exact (Bystanders.putAgent s k _).trans (.of_eq fun _ _ => agent?_queueRec _ _ _)
theorem stepDone_age (h : agent? s k = some a) : ∀ b, agent? (stepDone s k) k = some b → b.age = a.age ∧ b.urgent = a.urgent := by
  have hmap : (agent? (stepDone s k) k).map (fun b => (b.age, b.urgent)) = some (a.age, a.urgent) := by
    simp only [stepDone, h]
    refine iteInduction (motive := fun t => (agent? t k).map (fun b => (b.age, b.urgent)) = some (a.age, a.urgent)) (fun _ => by rw [h]; rfl) fun _ => ?_
    refine iteInduction (motive := fun t => (agent? t k).map (fun b => (b.age, b.urgent)) = some (a.age, a.urgent)) (fun _ => ?_) fun _ => ?_
    · rw [agent?_updateCaps, agent?_putAgent_same]; rfl
    · rw [agent?_queueRec, agent?_putAgent_same]; rfl
  intro b hb
  rw [hb] at hmap
  simpa using hmap

/-- A stepping party's refreeze ends its region. -/
theorem stepDone_region (h : agent? s k = some a) : ∀ b, agent? (stepDone s k) k = some b → a.region ≤ b.region := by
  have hmap : ∃ n, (agent? (stepDone s k) k).map Agent.region = some (a.region + n) := by
    simp only [stepDone, h]
    refine iteInduction (motive := fun t => ∃ n, (agent? t k).map Agent.region = some (a.region + n)) (fun _ => ⟨0, by rw [h]; rfl⟩) fun _ => ?_
    refine iteInduction (motive := fun t => ∃ n, (agent? t k).map Agent.region = some (a.region + n)) (fun _ => ⟨1, ?_⟩) fun _ => ⟨1, ?_⟩
    · rw [agent?_updateCaps, agent?_putAgent_same]; rfl
    · rw [agent?_queueRec, agent?_putAgent_same]; rfl
  obtain ⟨n, hn⟩ := hmap
  intro b hb
  rw [hb] at hn
  have hregion : b.region = a.region + n := Option.some.inj hn
  omega
theorem advance_region (a : Agent) (p q : DWord) : (advance a p q).region = a.region := by
  unfold advance
  split
  · split <;> rfl
  · rfl

/-- What completing leaves before a stepping party refreezes: the party stands at the next instruction, its age is 0, and it has paid. -/
theorem settle_next_eq (h : agent? s k = some a) (c : Agent) (len : Nat) : ∃ t b, settle k c len (.next s) = stepDone t k ∧ Bystanders [k] s t ∧
    agent? t k = some b ∧ b.age = 0 ∧ b.urgent = false ∧ b.region = a.region := by
  simp only [settle]
  rw [modAgent_some h]
  generalize hmoved : ({ advance a c.pc (c.pc + BitVec.ofNat 64 len) with wait := .none, waited := 0, age := 0, urgent := false } : Agent) = moved
  have hage : moved.age = 0 ∧ moved.urgent = false ∧ moved.region = a.region := hmoved ▸ ⟨rfl, rfl, advance_region _ _ _⟩
  have hthere : agent? (countIssue (putAgent s k moved) c) k = some moved := (agent?_countIssue _ _ _).trans (agent?_putAgent_same _ _ _)
  have hbystanders : Bystanders [k] s (countIssue (putAgent s k moved) c) :=
    (Bystanders.putAgent s k moved).trans (.of_eq fun _ _ => agent?_countIssue _ _ _)
  split
  · exact ⟨_, moved, rfl, hbystanders, hthere, hage⟩
  · exact ⟨_, _, rfl, hbystanders.trans (.modAgent _ _ _), (agent?_modAgent_same _ _ _).trans (congrArg (Option.map _) hthere), hage⟩
theorem settle_next_bystanders (h : agent? s k = some a) (c : Agent) (len : Nat) : Bystanders [k] s (settle k c len (.next s)) := by
  obtain ⟨t, b, e, hbystanders, -⟩ := settle_next_eq h c len
  rw [e]
  exact hbystanders.trans (stepDone_bystanders t k)
theorem settle_next_age (h : agent? s k = some a) (c : Agent) (len : Nat) :
    ∀ b, agent? (settle k c len (.next s)) k = some b → b.age = 0 ∧ b.urgent = false := by
  obtain ⟨t, d, e, -, hd, hage, hurgent, -⟩ := settle_next_eq h c len
  rw [e]
  intro b hb
  obtain ⟨hage', hurgent'⟩ := stepDone_age hd b hb
  exact ⟨hage'.trans hage, hurgent'.trans hurgent⟩
theorem settle_next_region (h : agent? s k = some a) (c : Agent) (len : Nat) :
    ∀ b, agent? (settle k c len (.next s)) k = some b → a.region ≤ b.region := by
  obtain ⟨t, d, e, -, hd, -, -, hregion⟩ := settle_next_eq h c len
  rw [e]
  intro b hb
  exact hregion ▸ stepDone_region hd b hb

theorem Only.putDie (s : State) (d : Nat) (x : Die) : Only [.dies] s (putDie s d x) := by
  intro p hp
  cases p with
  | dies => exact absurd List.mem_cons_self hp
  | _ => simp [Same, group?, ctx?]

/-- A party as it stands after a fault (R326). -/
def frozenParty (s : State) (k : Nat) (a : Agent) (code : FCode) (i : FInfo) : Agent :=
  { a.endRegion with state := .frozen, wait := .none, inst := none, image := none, record := some (mkRec s k a code i), age := 0, urgent := false }
theorem freeze_eq (h : agent? s k = some a) (code : FCode) (i : FInfo) : freeze s k code i =
    let r := mkRec s k a code i
    let t := putAgent s k (frozenParty s k a code i)
    if a.state == .stepping && s.agents.any fun (_, h) => h.caps.any fun (_, c) => c.valid && c.record.target == r.target then
      updateCaps t (fun q => q.target == r.target) fun c => { c with record := r }
    else if a.kind == .handler then putDie t (dieOf k) { dieSt t (dieOf k) with level2 := (dieSt t (dieOf k)).level2 ++ [r] } else queueRec t r := by
  unfold freeze
  rw [h]
  rfl

/-- Taking a fault (R326): the party is FROZEN where it stands, with what it holds and its record; beside it only queues of records change. -/
theorem freeze_spec (h : agent? s k = some a) (code : FCode) (i : FInfo) :
    Only [.ctxs, .dies] s (freeze s k code i) ∧ Others [k] s (freeze s k code i) ∧ ∃ b, agent? (freeze s k code i) k = some b ∧ b.state = .frozen ∧
      b.pc = a.pc ∧ b.core = { a.core with inst := none, image := none } ∧ b.record = some (mkRec s k a code i) := by
  have hheld : (frozenParty s k a code i).state = .frozen ∧ (frozenParty s k a code i).pc = a.pc ∧
      (frozenParty s k a code i).core = { a.core with inst := none, image := none } ∧ (frozenParty s k a code i).record = some (mkRec s k a code i) :=
    ⟨rfl, rfl, rfl, rfl⟩
  have honly := (Only.putAgent s k (frozenParty s k a code i)).mono (l' := [.ctxs, .dies]) (by simp)
  have hothers := Others.putAgent s k (frozenParty s k a code i)
  have hthere := agent?_putAgent_same s k (frozenParty s k a code i)
  generalize hu : freeze s k code i = u
  rw [freeze_eq h] at hu
  dsimp only at hu
  split at hu
  · subst hu
    refine ⟨honly.trans ((Only.updateCaps _ _ _).mono (by simp)), hothers.trans (Others.updateCaps _ _ _ _), ?_⟩
    rw [agent?_updateCaps, hthere]
    exact ⟨_, rfl, hheld⟩
  · split at hu
    · subst hu
      exact ⟨honly.trans ((Only.putDie _ _ _).mono (by simp)), hothers, _, hthere, hheld⟩
    · subst hu
      exact ⟨honly.trans ((Only.queueRec _ _).mono (by simp)), hothers.trans (Others.of_eq fun _ _ => agent?_queueRec _ _ _), _,
        (agent?_queueRec _ _ _).trans hthere, hheld⟩

end

/-! ### YIELD (R107) -/

theorem yield_moves {c : Ctx'} {out : Out} (hout : out = .next (settle c.k c.a c.len (bodyYield c))) : Moves c out [] fun _ b =>
    b.core = { c.a.core with yielding := true, yielded := 0 } ∧ b.age = 0 ∧ b.urgent = false := by
  have hhere : agent? (c.upd fun a => { a with yielding := true, yielded := 0 }) c.k = some { c.a with yielding := true, yielded := 0 } :=
    agent?_putAgent_same ..
  obtain ⟨u, b, hu, hpassed, honly, hothers, hcore⟩ := moves_settle (l := []) (P := fun _ b => b.core = { c.a.core with yielding := true, yielded := 0 })
    hout hhere rfl (Only.putAgent _ _ _) (Others.putAgent _ _ _) fun u b _ hb => hb
  have hage := settle_next_age hhere c.a c.len b
  cases hout.symm.trans hu
  exact ⟨_, b, hu, hpassed, honly, hothers, hcore, hage hpassed.here⟩

/-! ### TRAP and BKPT (R108) -/

/-- An instruction that completes as its party freezes: its record has DONE and names the instruction itself. -/
theorem completedFreeze_spec {c : Ctx'} {out : Out} {code : FCode} {x0 : Word} (hhere : agent? c.s c.k = some c.a)
    (hout : out = .next (settle c.k c.a c.len (completedFreeze c code x0))) :
    ∃ u b r, out = .next u ∧ agent? u c.k = some b ∧ b.state = .frozen ∧ b.pc = c.a.pc ∧ b.core = { c.a.core with inst := none, image := none } ∧
      b.record = some r ∧ r.code = code ∧ r.done = true ∧ r.fpc = c.a.pc ∧ r.opc = c.a.pc ∧ r.x0 = x0 ∧ r.target = .agent c.k c.a.uid ∧
      Only [.ctxs, .dies] c.s u ∧ Others [c.k] c.s u := by
  have hcounted : agent? (countIssue c.s c.a) c.k = some c.a := (agent?_countIssue ..).trans hhere
  have hsettle : settle c.k c.a c.len (completedFreeze c code x0) =
      freeze (putAgent (countIssue c.s c.a) c.k { c.a with stopLen := c.len }) c.k code { done := true, x0 := x0 } := by
    simp only [settle, completedFreeze, if_true, modAgent_some hcounted]
  obtain ⟨honly, hothers, b, hb, hstate, hpc, hcore, hrecord⟩ :=
    freeze_spec (agent?_putAgent_same (countIssue c.s c.a) c.k { c.a with stopLen := c.len }) code { done := true, x0 := x0 }
  refine ⟨_, b, _, hout.trans (congrArg _ hsettle), hb, hstate, hpc, hcore, hrecord, rfl, rfl, rfl, rfl, rfl, rfl, ?_, ?_⟩
  · exact (((Only.countIssue _ _).trans (Only.putAgent _ _ _)).mono (by simp)).trans honly
  · exact ((Others.of_eq fun _ _ => agent?_countIssue _ _ _).trans (Others.putAgent _ _ _)).trans hothers

theorem brk_iff (c : Ctx') : (ctx? c.s c.a.asid).any (·.brk) = true ↔ ∃ x, ctx? c.s c.a.asid = some x ∧ x.brk = true := by
  simp [Option.any_eq_true]

/-- Settles O28: YIELD, TRAP and BKPT each have one effect. -/
theorem yieldsAndTraps : Obligations.YieldsAndTraps := by
  unfold Obligations.YieldsAndTraps
  intro yields traps enabled
  refine ⟨fun f s k a h => ?_, fun f s k a h => ?_, fun f s k a h => ?_, fun f s k a h => ?_, ?_⟩
  · intro c _
    exact yield_moves (c := c) (issueL_clear h bodyYield)
  · intro c _
    exact yield_moves (c := c) (issueS_clear h bodyYield)
  · exact completedFreeze_spec (c := ctxOf .trap f (lenOf f) s k a) h.here (issueL_clear h bodyTrap)
  · intro c henabled
    have hbody : bodyBkpt (ctxOf .bkpt f (lenOf f) s k a) = completedFreeze (ctxOf .bkpt f (lenOf f) s k a) .breakpoint 0 :=
      if_pos ((brk_iff _).mpr henabled)
    exact completedFreeze_spec (c := ctxOf .bkpt f (lenOf f) s k a) h.here ((issueL_clear h bodyBkpt).trans (by rw [hbody]; rfl))
  · refine doesL bodyBkpt (fun _ _ => rfl) fun c hhere hoff => ⟨c.s, c.a, ?_, hhere, rfl, Only.refl _ _, Others.refl _ _, fun _ _ _ hb => hb⟩
    exact if_neg fun hon => hoff ((brk_iff c).mp hon)

end Sys2Proof.Machine
end

section
/-!
PROOF. Arriving at a rendezvous (R97, R98, R100, R117).
-/
namespace Sys2Proof.Machine

/-! ### Arriving -/

theorem fput_fput {α : Type} (m : FMap α) (n : Nat) (x y : α) : fput (fput m n x) n y = fput m n y := by
  induction m with
  | nil => simp [fput]
  | cons p t ih =>
    obtain ⟨k, v⟩ := p
    by_cases hlt : n < k
    · simp [fput, hlt]
    · by_cases heq : n = k
      · simp [fput, heq]
      · simp [fput, hlt, heq, ih]
theorem putAgent_putAgent (s : State) (k : Nat) (a b : Agent) : putAgent (putAgent s k a) k b = putAgent s k b :=
  congrArg (fun m => ({ s with agents := m } : State)) (fput_fput s.agents k a b)

/-- A party as it waits at a rendezvous. -/
def arrivedParty (o : Op) (c : Ctx') (dst : Dst) (mask ra rb : Nat) : Agent :=
  { (c.a.openDst dst) with inst := some (o, c.f, c.len), mask := mask, ra := ra, rb := rb, skips := [], wait := .rendezvous, age := 0, urgent := false }

/-- A participant's mask is of its tile, and names it (R97). -/
def Fits (c : Ctx') (mask : Nat) : Prop := mask < 2 ^ partOf c.s c.a ∧ mask.testBit (laneOf c.k % partOf c.s c.a) = true

section
variable {o : Op} {c : Ctx'} {mask ra rb : Nat}

theorem misfit_iff : (mask / 2 ^ partOf c.s c.a != 0 || !bitN mask (laneOf c.k % partOf c.s c.a)) = true ↔ ¬ Fits c mask := by
  have hwide : mask / 2 ^ partOf c.s c.a ≠ 0 ↔ ¬ mask < 2 ^ partOf c.s c.a := by
    rw [Ne, Nat.div_eq_zero_iff_lt (Nat.two_pow_pos _)]
  simp only [Bool.or_eq_true, bne_iff_ne, hwide, bitN_eq_testBit, Bool.not_eq_true', Fits, not_and_or, Bool.not_eq_true]
theorem arrive_fits (h : o = .setpart ∨ Fits c mask) : arrive o c mask ra rb =
    .wait (c.upd fun a => { (a.openDst (rdvDst o c.f)) with inst := some (o, c.f, c.len), mask := mask, ra := ra, rb := rb, skips := [] }) .rendezvous := by
  refine if_neg fun hbad => ?_
  simp only [Bool.and_eq_true, bne_iff_ne] at hbad
  exact misfit_iff.mp hbad.2 (h.resolve_left hbad.1)
theorem arrive_misfit (ho : o ≠ .setpart) (h : ¬ Fits c mask) :
    arrive o c mask ra rb = .freeze c.s .partitionMismatch { x0 := BitVec.ofNat 32 mask } :=
  if_pos (by simp only [Bool.and_eq_true, bne_iff_ne]; exact ⟨ho, misfit_iff.mpr h⟩)

end

/-- An instruction of a clear party whose own execution is an arrival. -/
theorem Clear.arrives {o : Op} {f : FormL} {s : State} {k : Nat} {a : Agent} {i : FormL → Instr} {body : Ctx' → Go} {mask ra rb : Nat} (h : Clear o f s k a)
    (hi : ∀ f s, exec (i f) s = issueL o f body s)
    (hbody : body (ctxOf o f (lenOf f) s k a) = arrive o (ctxOf o f (lenOf f) s k a) mask ra rb) :
    let c := ctxOf o f (lenOf f) s k a
    (o = .setpart ∨ Fits c mask → exec (i f) s = .next (putAgent s k (arrivedParty o c (rdvDst o f) mask ra rb))) ∧
    (o ≠ .setpart ∧ ¬ Fits c mask → Faults c (exec (i f) s) .partitionMismatch { x0 := BitVec.ofNat 32 mask }) := by
  intro c
  refine ⟨fun hfits => ?_, fun ⟨ho, hfits⟩ => h.faults hi (hbody.trans (arrive_misfit ho hfits)) rfl⟩
  rw [hi, issueL_clear h body, hbody, arrive_fits hfits, settle, Ctx'.upd]
  rw [show c.k = k from rfl, modAgent_some (k := k) (agent?_putAgent_same _ _ _)]
  exact congrArg Host.Outcome.next (putAgent_putAgent _ _ _ _)

/-- With FLSRC the party's producers have delivered their flags (R118). -/
theorem afterFlags_quiet {fl : Bool} {c : Ctx'} (h : fl = true → ∀ p ∈ c.s.prods, p.uid ≠ c.a.uid) (g : Go) : afterFlags fl c g = g := by
  refine if_neg fun hwait => ?_
  obtain ⟨hfl, hout⟩ := Bool.and_eq_true_iff.mp hwait
  obtain ⟨p, hp, huid⟩ := (prodsOut_iff _ _).mp hout
  exact h hfl p hp huid

/-- The flag that a VOTE with FLSRC reads. -/
theorem bitsN_one (x n : Nat) : bitsN x n n = if x.testBit n then 1 else 0 := by
  rw [Nat.testBit_eq_decide_div_mod_eq, bitsN, show n + 1 - n = 1 by omega]
  have := Nat.mod_two_eq_zero_or_one (x / 2 ^ n)
  rcases this with e | e <;> simp [e]

/-- Settles O29: each instruction's own execution is an arrival with its mask and operands. -/
theorem rendezvousArrival : Obligations.RendezvousArrival := by
  unfold Obligations.RendezvousArrival
  intro arrives quiet word zero none one typed
  refine ⟨fun f s k a h => ?_, fun f s k a h => ?_, fun f s k a h => ?_, fun f s k a h => ?_, fun f s k a h => ?_, fun f s k a h => ?_⟩
  · intro c hquiet
    refine h.arrives (i := .vote) (body := bodyVote) (fun _ _ => rfl) ((afterFlags_quiet hquiet _).trans ?_)
    rw [bitsN_one]; rfl
  · intro c _
    exact h.arrives (i := .shfl) (body := bodyShfl) (fun _ _ => rfl) rfl
  · intro c hquiet
    exact h.arrives (i := .tred) (body := bodyTred) (fun _ _ => rfl) (afterFlags_quiet hquiet _)
  · intro c _
    exact h.arrives (i := .tscan) (body := bodyTscan) (fun _ _ => rfl) rfl
  · intro c _
    exact h.arrives (i := .tsync) (body := bodyTsync) (fun _ _ => rfl) rfl
  · intro c _
    exact h.arrives (i := .setpart) (body := bodySetpart) (fun _ _ => rfl) rfl

end Sys2Proof.Machine
end

section
/-!
PROOF. Completing a rendezvous (R98 to R100, R118 to R122).
-/
namespace Sys2Proof.Machine

/-! ### After an event -/

/-- A map over entries that keeps their keys leaves an entry that it fixes. -/
theorem fget?_map_fixed {α : Type} {g : Nat × α → Nat × α} (hkey : ∀ p, (g p).1 = p.1) {n : Nat} {x : α} (hx : g (n, x) = (n, x)) :
    ∀ {m : FMap α}, fget? m n = some x → fget? (m.map g) n = some x
  | [], h => h
  | (k, v) :: t, h => by
    have hk : (g (k, v)).1 = k := hkey (k, v)
    rw [List.map_cons, show g (k, v) = (k, (g (k, v)).2) from Prod.ext hk rfl]
    simp only [fget?, beq_iff_eq] at h ⊢
    by_cases he : k = n
    · subst he
      rw [if_pos rfl] at h ⊢
      obtain rfl : v = x := by simpa using h
      rw [hx]
    · rw [if_neg he] at h ⊢
      by_cases hlt : n < k
      · rw [if_pos hlt] at h; cases h
      · rw [if_neg hlt] at h ⊢
        exact fget?_map_fixed hkey hx h
/-- A party that waits for nothing is what it was, once what has changed has been looked at. -/
theorem agent?_noteUpdates {t : State} {k : Nat} {a : Agent} (h : agent? t k = some a) (hw : a.wait = .none) : agent? (noteUpdates t) k = some a := by
  unfold noteUpdates
  generalize hs : (if t.trigs.isEmpty then t else _) = s
  have hthere : agent? s k = some a := by
    rw [← hs]
    split <;> exact h
  dsimp only
  split
  · exact hthere
  · refine fget?_map_fixed (fun p => ?_) (by simp only [hw]) hthere
    split
    · split <;> rfl
    · rfl
theorem agent?_wakeRetry {t : State} {k : Nat} {a : Agent} (h : agent? t k = some a) (hw : a.wait = .none) : agent? (wakeRetry t) k = some a :=
  fget?_map_fixed (g := fun p : Nat × Agent => (p.1, if p.2.wait == .retry then { p.2 with wait := .none } else p.2)) (fun _ => rfl) (by simp [hw]) h
/-- An event's state, looked at again: parties that wait for nothing are what they were. -/
theorem event_spec (f : State → State) (s : State) : ∃ u, event f s = .next u ∧ Only [.trigs] (f s) u ∧ (∀ ks, Others ks (f s) u) ∧
    ∀ j a, agent? (f s) j = some a → a.wait = .none → agent? u j = some a := by
  obtain ⟨w, tr, e⟩ := after_looked (f s)
  refine ⟨_, rfl, e ▸ Only.looked _ _ _, fun ks => e ▸ Others.looked _ _ _ _, fun j a h hw => ?_⟩
  exact agent?_wakeRetry (agent?_noteUpdates h hw) hw

/-! ### A participant completes -/

/-- A participant as its result reaches it. -/
def Agent.received (a : Agent) (d : Dst) (r : Nat × BitVec 5) : Agent :=
  { (a.deliver d r.1) with fl := (a.deliver d r.1).fl ||| r.2, inst := none, wait := .none }

section
variable {s : State} {k : Nat} {a : Agent}

/-- A participant completes (R98): it has its result and stands at the next instruction; no other party has changed. -/
theorem finishRdv_spec (h : agent? s k = some a) (o : Op) (f : FormL) (len : Nat) (r : Nat × BitVec 5) :
    Only [] s (finishRdv s k o f len r) ∧ Bystanders [k] s (finishRdv s k o f len r) ∧
    ∃ b, Passed len a (finishRdv s k o f len r) k b ∧ b.core = (a.received (rdvDst o f) r).core := by
  have hfinish : finishRdv s k o f len r = settle k a len (.next (putAgent s k (a.received (rdvDst o f) r))) := by unfold finishRdv; rw [h]; rfl
  have hhere := agent?_putAgent_same s k (a.received (rdvDst o f) r)
  obtain ⟨honly, -, b, hb, hcore, hpc, hwait⟩ := settle_next_spec hhere a len
  have hblk : (a.received (rdvDst o f) r).blk = a.blk := by
    obtain ⟨v, y, p, q, t, e⟩ := deliver_rest a (rdvDst o f) r.1
    unfold Agent.received
    rw [e]
  rw [hfinish]
  exact ⟨(Only.putAgent _ _ _).trans honly, (Bystanders.putAgent _ _ _).trans (settle_next_bystanders hhere a len), b,
    ⟨hb, hpc.trans (advance_pc hblk _ _), hwait⟩, hcore⟩

end

/-! ### The skip marks of the named members (R100) -/

/-- A party whose skip marks at a PC are consumed. -/
def Agent.spend (a : Agent) (pc : DWord) : Agent := { a with skips := a.skips.filter (· != pc) }
/-- The named members' skip marks at a PC are consumed. -/
def spendAll (s : State) (pc : DWord) (l : List (Nat × Nat)) : State := l.foldl (fun s x => modAgent s x.2 (·.spend pc)) s

theorem agent?_spendAll (pc : DWord) (j : Nat) : ∀ (l : List (Nat × Nat)) (s : State),
    agent? (spendAll s pc l) j = (agent? s j).map fun m => if l.any (·.2 == j) then m.spend pc else m
  | [], s => by simp [spendAll]
  | x :: l, s => by
    have hrest := agent?_spendAll pc j l (modAgent s x.2 (·.spend pc))
    refine hrest.trans ?_
    by_cases hx : x.2 = j
    · subst hx
      rw [agent?_modAgent_same, Option.map_map]
      congr 1
      funext m
      simp [Agent.spend]
    · rw [agent?_modAgent_ne _ _ (Ne.symm hx)]
      simp only [List.any_cons, beq_eq_false_iff_ne.mpr hx, Bool.false_or]
theorem Only.spendAll (pc : DWord) (l : List (Nat × Nat)) (s : State) : Only [] s (spendAll s pc l) :=
  foldl_keeps (R := Only []) (Only.refl _) Only.trans (f := fun s (x : Nat × Nat) => Machine.modAgent s x.2 (·.spend pc)) (fun s x => Only.modAgent s x.2 _) l s

/-! ### A rendezvous whose members have all arrived -/

section
variable {s : State} {k : Nat} {a : Agent} {o : Op} {f : FormL} {len : Nat}

/-- The members that the participants of a party's rendezvous name. -/
def namedAll (s : State) (k : Nat) (a : Agent) : List (Nat × Nat) := (peers s k a).flatMap fun p => named s p.1 p.2
/-- The participants of a party's rendezvous with their results. -/
def results (s : State) (k : Nat) (a : Agent) (o : Op) (f : FormL) : List (Nat × (Nat × BitVec 5)) :=
  (peers s k a).map fun p => (p.1, rdvResult s p.1 p.2 o f (partners s p.1 p.2))

/-- A rendezvous whose members have all arrived, without the mismatches of R99, completes. -/
theorem rendezvous_ready (h : agent? s k = some a) (hinst : a.inst = some (o, f, len)) (hwaits : waitsRdv a = true) (hmatch : mismatched s k a = none)
    (hclash : clashing s k a = []) (hready : rdvReady s k a = true) :
    rendezvous k s =
      let spent := spendAll s a.pc (namedAll s k a)
      match if o == .setpart then setPart spent k (peers s k a) else some spent with
      | none => (peers s k a).foldl (fun s p => mismatchFreeze s .partitionMismatch p.1) s
      | some t => (results s k a o f).foldl (fun s x => finishRdv s x.1 o f len x.2) t := by
  unfold rendezvous
  simp only [h, hwaits, hinst, hmatch, hclash, hready, List.isEmpty_nil, Bool.not_true, if_false, Bool.false_eq_true]
  rfl

end

/-! ### A participant alone in its static warp -/

section
variable {s : State} {k : Nat} {a : Agent} (halone : s.agents.filter (fun p => p.1 / 32 == k / 32) = [(k, a)])
include halone

/-- Of a static warp with one party no other slot is occupied. -/
theorem agent?_alone {j : Nat} {m : Agent} (hm : agent? s j = some m) (hj : j / 32 = k / 32) : j = k ∧ m = a := by
  have hmem : (j, m) ∈ s.agents.filter (fun p => p.1 / 32 == k / 32) := List.mem_filter.mpr ⟨mem_of_fget? hm, beq_iff_eq.mpr hj⟩
  rw [halone, List.mem_singleton] at hmem
  simpa using hmem
theorem waiters_alone (hk : k < taskBase) (hwaits : waitsRdv a = true) : waiters s k = [(k, a)] := by
  have htask : isTask k = false := by simpa [isTask] using hk
  have hfilter : waiters s k = (s.agents.filter (fun p => p.1 / 32 == k / 32)).filter fun p => !isTask p.1 && waitsRdv p.2 := by
    rw [List.filter_filter]
    refine List.filter_congr fun p _ => ?_
    obtain ⟨j, b⟩ := p
    exact (Bool.and_assoc ..).trans (Bool.and_comm ..)
  rw [hfilter, halone]
  simp [htask, hwaits]
theorem peers_alone (hk : k < taskBase) (hwaits : waitsRdv a = true) : peers s k a = [(k, a)] := by
  unfold peers
  rw [waiters_alone halone hk hwaits]
  simp

end

section
variable {s : State} {k : Nat} {a : Agent} {o : Op} {f : FormL} {len : Nat}

theorem laneOf_thread (hk : k < taskBase) : laneOf k = k % 32 := by
  have htask : isTask k = false := by simpa [isTask] using hk
  simp only [laneOf, slotOf, htask]
  exact Nat.mod_mod_of_dvd k (by decide)
theorem tileOf_setpart (hinst : a.inst = some (.setpart, f, len)) : tileOf s k a = (k - laneOf k, 32) := by unfold tileOf; rw [hinst]
theorem tileOf_tile (hinst : a.inst = some (o, f, len)) (ho : o ≠ .setpart) : tileOf s k a = (k - laneOf k % partOf s a, partOf s a) := by
  unfold tileOf
  rw [hinst]
  cases o with
  | setpart => exact absurd rfl ho
  | _ => rfl

/-- Of a range the one number whose bit a power of two has. -/
theorem filter_bit {i n : Nat} (h : i < n) : (upFrom 0 n).filter (bitN (2 ^ i)) = [i] := by
  have hfilter : (upFrom 0 n).filter (bitN (2 ^ i)) = (upFrom 0 n).filter (· == i) := by
    refine List.filter_congr fun j _ => ?_
    rw [bitN_eq_testBit, Nat.testBit_two_pow, Bool.beq_eq_decide_eq, decide_eq_decide]
    exact eq_comm
  rw [hfilter, List.filter_beq, List.count_eq_one_of_mem (nodup_upFrom _ _) (mem_upFrom.mpr ⟨Nat.zero_le _, by omega⟩)]
  rfl
/-- A mask of its own bit names a participant alone. -/
theorem named_tile (hinst : a.inst = some (o, f, len)) (ho : o ≠ .setpart) (hk : k < taskBase) (hpart : partOf s a ∈ [2, 4, 8, 16, 32])
    (hmask : a.mask = 2 ^ (laneOf k % partOf s a)) : named s k a = [(laneOf k % partOf s a, k)] := by
  have hpos : 0 < partOf s a := by
    simp only [List.mem_cons, List.not_mem_nil, or_false] at hpart
    omega
  have hle : laneOf k % partOf s a ≤ k := (Nat.mod_le _ _).trans (by rw [laneOf_thread hk]; exact Nat.mod_le _ _)
  unfold named
  rw [tileOf_tile hinst ho, hmask]
  dsimp only
  rw [filter_bit (Nat.mod_lt _ hpos), List.map_singleton, Nat.sub_add_cancel hle]
/-- A mask of all bits names each slot of the static warp. -/
theorem named_warp (hinst : a.inst = some (.setpart, f, len)) (hmask : a.mask = 0xFFFFFFFF) :
    named s k a = (upFrom 0 32).map fun i => (i, k - laneOf k + i) := by
  unfold named
  rw [tileOf_setpart hinst, hmask]
  rfl

end

/-- A party waits at a rendezvous alone in its static warp, and names members of its warp, itself among them. -/
structure Alone (s : State) (k : Nat) (a : Agent) : Prop where
  warp : s.agents.filter (fun p => p.1 / 32 == k / 32) = [(k, a)]
  slot : k < taskBase
  here : agent? s k = some a
  wait : a.wait = .rendezvous
  ready : a.state = .ready
  own : ∀ x ∈ named s k a, x.2 / 32 = k / 32
  self : ∃ x ∈ named s k a, x.2 = k

section
variable {s : State} {k : Nat} {a : Agent} {o : Op} {f : FormL} {len : Nat} (h : Alone s k a)
include h

theorem Alone.waits : waitsRdv a = true := by simp [waitsRdv, h.wait, h.ready]
theorem Alone.peers : peers s k a = [(k, a)] := peers_alone h.warp h.slot h.waits
theorem Alone.partners : partners s k a = [(k, a)] := by
  unfold Machine.partners
  rw [h.peers]
  simp
theorem Alone.namedAll : namedAll s k a = named s k a := by
  unfold Machine.namedAll
  rw [h.peers]
  exact List.append_nil _
/-- A member that it names and that is there is the participant itself. -/
theorem Alone.member {x : Nat × Nat} (hx : x ∈ named s k a) {m : Agent} (hm : agent? s x.2 = some m) : m = a := (agent?_alone h.warp hm (h.own x hx)).2
theorem Alone.mismatched : mismatched s k a = none := by
  refine if_neg fun hbad => ?_
  obtain ⟨-, hany⟩ := Bool.and_eq_true_iff.mp hbad
  obtain ⟨j, hj, hpc⟩ := List.any_eq_true.mp hany
  obtain ⟨m, hm, hne⟩ := (Option.any_eq_true ..).mp hpc
  obtain ⟨x, hx, rfl⟩ := List.mem_map.mp (List.mem_filter.mp hj).1
  rw [h.member hx hm] at hne
  simp at hne
theorem Alone.clashing : clashing s k a = [] := by
  unfold Machine.clashing
  rw [h.peers]
  simp
theorem Alone.rdvReady : rdvReady s k a = true := by
  unfold Machine.rdvReady
  rw [h.peers]
  refine List.all_eq_true.mpr fun p hp => List.all_eq_true.mpr fun x hx => ?_
  obtain rfl := List.mem_singleton.mp hp
  have harrived : arrivedAt s a.pc x.2 = true := by
    unfold arrivedAt
    cases hm : agent? s x.2 with
    | none => rfl
    | some m =>
      obtain rfl := h.member hx hm
      simp [h.waits, h.ready]
  exact harrived
theorem Alone.agent?_spent (j : Nat) : agent? (spendAll s a.pc (named s k a)) j = if j = k then some (a.spend a.pc) else agent? s j := by
  rw [agent?_spendAll]
  by_cases hj : j = k
  · obtain ⟨x, hx, hxk⟩ := h.self
    have hany : (named s k a).any (fun x => x.2 == k) = true := List.any_eq_true.mpr ⟨x, hx, beq_iff_eq.mpr hxk⟩
    rw [if_pos hj, hj, h.here, Option.map_some, if_pos hany]
  · rw [if_neg hj]
    cases hm : agent? s j with
    | none => rfl
    | some m =>
      rw [Option.map_some, if_neg fun hany => ?_]
      obtain ⟨x, hx, hxj⟩ := List.any_eq_true.mp hany
      obtain rfl := beq_iff_eq.mp hxj
      exact hj (agent?_alone h.warp hm (h.own x hx)).1
/-- Its rendezvous completes in a state that is its own but for the consumed skip marks and the components that SETPART writes. -/
theorem Alone.completes {l : List Part} {t : State} (hinst : a.inst = some (o, f, len))
    (hset : (if o == .setpart then setPart (spendAll s a.pc (named s k a)) k [(k, a)] else some (spendAll s a.pc (named s k a))) = some t)
    (hagents : t.agents = (spendAll s a.pc (named s k a)).agents) (honly : Only l (spendAll s a.pc (named s k a)) t) (hl : .trigs ∈ l) :
    ∃ u b, exec (.rendezvousCompletion k) s = .next u ∧ Passed len a u k b ∧ Only [.trigs] t u ∧ Only l s u ∧ Others [k] s u ∧
      b.core = ((a.spend a.pc).received (rdvDst o f) (rdvResult s k a o f [(k, a)])).core := by
  have hdue : rendezvous k s = finishRdv t k o f len (rdvResult s k a o f [(k, a)]) := by
    rw [rendezvous_ready h.here hinst h.waits h.mismatched h.clashing h.rdvReady, h.namedAll]
    unfold results
    rw [h.peers]
    dsimp only
    rw [hset, List.map_singleton, h.partners]
    rfl
  have hthere : agent? t k = some (a.spend a.pc) := by
    refine (congrArg (fget? · k) hagents).trans ((h.agent?_spent k).trans (if_pos rfl))
  have hspent : Others [k] s t := Others.of_eq fun j hj =>
    (congrArg (fget? · j) hagents).trans ((h.agent?_spent j).trans (if_neg (by simpa using hj)))
  obtain ⟨hfin, hby, b, hpassed, hcore⟩ := finishRdv_spec hthere o f len (rdvResult s k a o f [(k, a)])
  obtain ⟨u, hu, hsame, hothers, hkept⟩ := event_spec (rendezvous k) s
  rw [hdue] at hsame hothers hkept
  have htu : Only [.trigs] t u := hfin.of_nil.trans hsame
  exact ⟨u, b, hu, ⟨hkept k b hpassed.here hpassed.wait, hpassed.pc.trans (advance_pc (a := a) (c := a.spend a.pc) rfl _ _), hpassed.wait⟩, htu,
    ((Only.spendAll _ _ s).of_nil.trans honly).trans (htu.mono (by simpa using hl)),
    hspent.trans (hby.others.trans (hothers _)), hcore⟩

end

/-! ### The result of a set of one (R118 to R122) -/

/-- What a VOTE gives its one participant (R118): that all agree, the mask of the lanes with 1, or its own value. -/
def voteAlone (mode x lane : Nat) : Nat :=
  match mode with
  | 2 => 1
  | 3 => x * 2 ^ lane
  | _ => x

section
variable (s : State) (k : Nat) (a : Agent) (f : FormL)

theorem rdvResult_tsync (ps : List (Nat × Agent)) : rdvResult s k a .tsync f ps = (0, 0) := rfl
theorem rdvResult_shfl_alone : rdvResult s k a .shfl f [(k, a)] = (a.ra, 0) := by
  have hat (d i : Nat) : (([(i, a.ra)].find? (·.1 == d)).map (·.2)).getD a.ra = a.ra := by
    rw [List.find?_singleton]
    split <;> rfl
  unfold rdvResult
  simp only [List.map_singleton, hat, ite_self]
theorem rdvResult_tred_alone : rdvResult s k a .tred f [(k, a)] = (a.ra, 0) := rfl
theorem rdvResult_tscan_alone :
    rdvResult s k a .tscan f [(k, a)] = (if modBit f.mod 6 then identity (modTy f.mod) (modCode f.mod) else a.ra, 0) := by
  unfold rdvResult
  simp only [List.map_singleton, List.filter_singleton, Nat.lt_irrefl, decide_false, beq_self_eq_true, Bool.true_and, Bool.false_or]
  cases modBit f.mod 6 <;> rfl
theorem rdvResult_vote_alone {i n : Nat} (hi : i ≤ k) (htile : tileOf s k a = (k - i, n)) (hnamed : named s k a = [(i, k)]) :
    rdvResult s k a .vote f [(k, a)] = (voteAlone (modBits f.mod 2 0) (a.ra % 2) i, 0) := by
  unfold rdvResult
  rw [htile, hnamed]
  have hown : k - (k - i) = i := by omega
  simp only [List.map_singleton, hown, List.find?_singleton, beq_self_eq_true, if_true, Option.map_some, Option.getD_some, List.filter_singleton]
  generalize modBits f.mod 2 0 = mode
  rcases Nat.mod_two_eq_zero_or_one a.ra with e | e <;> rw [e] <;> rcases mode with _ | _ | _ | _ | mode <;> simp [voteAlone]

end

/-! ### The participant's next state -/

section
variable {s : State} {k : Nat} {a b : Agent} {o : Op} {f : FormL} {len : Nat}

/-- What a participant holds once its result is delivered. -/
theorem received_wrote {pc : DWord} {d : Dst} {r : Nat} (hb : b.core = ((a.spend pc).received d (r, 0)).core) :
    WroteD a b d r ∧ b.fl = a.fl ∧ b.inst = none := by
  have hwrote : WroteD (a.spend pc) ((a.spend pc).received d (r, 0)) d r := by
    have hd := wroteD_deliver (a.spend pc) d r
    cases d with
    | _ => exact hd
  obtain ⟨v, y, p, q, t, e⟩ := deliver_rest (a.spend pc) d r
  refine ⟨?_, (core_fl hb).trans ?_, ?_⟩
  · have hd := core_wroteD hb hwrote
    cases d with
    | _ => exact hd
  · simp only [Agent.received, e]; exact BitVec.or_zero
  · have hinst : b.core.inst = ((a.spend pc).received d (r, 0)).core.inst := by rw [hb]
    exact hinst
/-- A rendezvous without a result leaves a participant all but its instruction and its consumed skip marks. -/
theorem received_none {pc : DWord} (hb : b.core = ((a.spend pc).received .none (0, 0)).core) :
    b.core = { a.core with inst := none, skips := a.skips.filter (· != pc) } := by
  rw [hb]
  simp [Agent.received, Agent.core, Agent.spend, Agent.deliver]

end

/-! ### The instructions -/

section
variable {s : State} {k : Nat} {a : Agent} {o : Op} {f : FormL} {len : Nat}

theorem Alone.of_tile (hwarp : s.agents.filter (fun p => p.1 / 32 == k / 32) = [(k, a)]) (hk : k < taskBase) (hhere : agent? s k = some a)
    (hinst : a.inst = some (o, f, len)) (hwait : a.wait = .rendezvous) (hready : a.state = .ready) (hpart : partOf s a ∈ [2, 4, 8, 16, 32])
    (ho : o ≠ .setpart) (hmask : a.mask = 2 ^ (laneOf k % partOf s a)) : Alone s k a := by
  have hnamed := named_tile hinst ho hk hpart hmask
  refine ⟨hwarp, hk, hhere, hwait, hready, fun x hx => ?_, ⟨_, hnamed ▸ List.mem_singleton_self _, rfl⟩⟩
  rw [hnamed, List.mem_singleton] at hx
  rw [hx]
theorem Alone.of_warp (hwarp : s.agents.filter (fun p => p.1 / 32 == k / 32) = [(k, a)]) (hk : k < taskBase) (hhere : agent? s k = some a)
    (hinst : a.inst = some (.setpart, f, len)) (hwait : a.wait = .rendezvous) (hready : a.state = .ready) (hmask : a.mask = 0xFFFFFFFF) : Alone s k a := by
  have hnamed : named s k a = (upFrom 0 32).map fun i => (i, k - k % 32 + i) := by rw [named_warp hinst hmask, laneOf_thread hk]
  refine ⟨hwarp, hk, hhere, hwait, hready, fun x hx => ?_, ⟨(k % 32, k), hnamed ▸ List.mem_map.mpr ⟨k % 32, mem_upFrom.mpr (by omega), ?_⟩, rfl⟩⟩
  · rw [hnamed] at hx
    obtain ⟨i, hi, rfl⟩ := List.mem_map.mp hx
    have hlt := mem_upFrom.mp hi
    dsimp only
    omega
  · exact Prod.ext rfl (by dsimp only; omega)
/-- A rendezvous of one participant in its tile delivers its result, and changes nothing beside. -/
theorem Alone.delivers {r : Nat} (h : Alone s k a) (hinst : a.inst = some (o, f, len)) (ho : o ≠ .setpart) (hr : rdvResult s k a o f [(k, a)] = (r, 0)) :
    ∃ u b, exec (.rendezvousCompletion k) s = .next u ∧ Passed len a u k b ∧ Only [.trigs] s u ∧ Others [k] s u ∧ b.inst = none ∧
      WroteD a b (rdvDst o f) r ∧ b.fl = a.fl ∧ b.core = ((a.spend a.pc).received (rdvDst o f) (r, 0)).core := by
  obtain ⟨u, b, hu, hpassed, -, honly, hothers, hcore⟩ :=
    h.completes hinst (l := [.trigs]) (if_neg (by simpa using ho)) rfl (Only.refl _ _) (by simp)
  rw [hr] at hcore
  obtain ⟨hwrote, hfl, hi⟩ := received_wrote hcore
  exact ⟨u, b, hu, hpassed, honly, hothers, hi, hwrote, hfl, hcore⟩
/-- SETPART of one participant sets the width of its static warp (R122). -/
theorem setPart_alone {t : State} {c : Agent} (hthere : agent? t k = some c) (hrb : a.rb ∈ [2, 4, 8, 16, 32]) :
    ∃ u, setPart t k [(k, a)] = some u ∧ u.agents = t.agents ∧ Only [.groups] t u ∧ ∀ g, group? u c.group = some g → fgetD g.part (c.lin / 32) 32 = a.rb := by
  have hwidth : ([2, 4, 8, 16, 32].contains a.rb && [(k, a)].all fun p => p.2.rb == a.rb) = true := by
    rw [Bool.and_eq_true]
    exact ⟨List.contains_iff_mem.mpr hrb, by simp⟩
  have hset : setPart t k [(k, a)] = match group? t c.group with
      | some g => some (putGroup t c.group { g with part := fput g.part (c.lin / 32) a.rb })
      | none => some t := by
    unfold setPart
    rw [hthere]
    exact if_pos hwidth
  rw [hset]
  cases hg : group? t c.group with
  | none => exact ⟨t, rfl, rfl, Only.refl _ _, fun g hsome => by rw [hg] at hsome; cases hsome⟩
  | some g =>
    refine ⟨_, rfl, rfl, fun p hp => ?_, fun g' hg' => ?_⟩
    · cases p with
      | groups => exact absurd List.mem_cons_self hp
      | _ => simp [Same, putGroup, ctx?]
    · obtain rfl := Option.some.inj ((group?_putGroup_same ..).symm.trans hg')
      exact fgetD_fput_same ..

end

/-- The width of a static warp is one of two states that differ in what their groups have issued. -/
theorem part_of_same {t u : State} (h : Same t u .groups) {n : Nat} {g : Group} (hg : group? u n = some g) : ∃ g', group? t n = some g' ∧ g.part = g'.part := by
  have hread := h n
  rw [hg] at hread
  obtain ⟨g', hg', e⟩ := Option.map_eq_some_iff.mp hread.symm
  have hpart : g'.fixed.part = g.fixed.part := by rw [e]
  exact ⟨g', hg', hpart.symm⟩
/-- A VOTE of one participant in its predicate, or in its register (R118). -/
theorem vote_wrote {a b : Agent} {f : FormL} {lane : Nat} (h : WroteD a b (rdvDst .vote f) (voteAlone (modBits f.mod 2 0) (a.ra % 2) lane)) :
    (match modBits f.mod 2 0 with
      | 0 => WroteP a b f.dst.toNat (a.ra % 2 == 1) ∧ SameV a b
      | 1 => WroteP a b f.dst.toNat (a.ra % 2 == 1) ∧ SameV a b
      | 2 => WroteP a b f.dst.toNat true ∧ SameV a b
      | 3 => WroteV a b f.dst.toNat 1 (a.ra % 2 * 2 ^ lane) ∧ SameP a b
      | _ => WroteV a b f.dst.toNat 1 (a.ra % 2) ∧ SameP a b) ∧ SameX a b := by
  simp only [rdvDst] at h
  generalize modBits f.mod 2 0 = mode at h ⊢
  have hbit : (a.ra % 2 % 2 == 1) = (a.ra % 2 == 1) := by rw [Nat.mod_mod]
  match mode, h with
  | 0, ⟨hp, hv, hx⟩ => exact ⟨⟨hbit ▸ hp, hv⟩, hx⟩
  | 1, ⟨hp, hv, hx⟩ => exact ⟨⟨hbit ▸ hp, hv⟩, hx⟩
  | 2, ⟨hp, hv, hx⟩ => exact ⟨⟨hp, hv⟩, hx⟩
  | 3, ⟨hv, hx, hp⟩ => exact ⟨⟨hv, hp⟩, hx⟩
  | _ + 4, h =>
    rw [if_neg (by omega)] at h
    obtain ⟨hv, hx, hp⟩ := h
    exact ⟨⟨hv, hp⟩, hx⟩

/-- Settles O30: a participant alone finds its rendezvous ready, and its result is the model's of a set of one. -/
theorem rendezvousAlone : Obligations.RendezvousAlone := by
  unfold Obligations.RendezvousAlone
  intro ends f32
  refine ⟨?_, ?_, ?_, ?_, ?_, ?_⟩ <;> intro s k a f len hwarp hk hhere hinst hwait hready _ hpart hmask
  case refine_2 =>
    obtain ⟨hall, hrb⟩ := hmask
    have h := Alone.of_warp hwarp hk hhere hinst hwait hready hall
    obtain ⟨t, hset, hagents, honly, hwidth⟩ := setPart_alone (a := a) ((h.agent?_spent k).trans (if_pos rfl)) hrb
    obtain ⟨u, b, hu, hpassed, hlater, honly', hothers, hcore⟩ :=
      h.completes hinst (l := [.groups, .trigs]) hset hagents (honly.mono (by simp)) (by simp)
    refine ⟨u, b, hu, hpassed, honly', hothers, (received_wrote hcore).2.2, received_none hcore, fun g hg => ?_⟩
    obtain ⟨g', hg', hpart⟩ := part_of_same (hlater .groups (by simp)) hg
    rw [hpart]
    exact hwidth g' hg'
  all_goals have h := Alone.of_tile hwarp hk hhere hinst hwait hready hpart (by decide) hmask
  case refine_1 =>
    obtain ⟨u, b, hu, hpassed, honly, hothers, hi, -, -, hcore⟩ := h.delivers hinst (by decide) (rdvResult_tsync s k a f _)
    exact ⟨u, b, hu, hpassed, honly, hothers, hi, received_none hcore⟩
  case refine_3 =>
    obtain ⟨u, b, hu, hpassed, honly, hothers, hi, ⟨hv, hx, hp⟩, hfl, -⟩ := h.delivers hinst (by decide) (rdvResult_shfl_alone s k a f)
    exact ⟨u, b, hu, hpassed, honly, hothers, hi, hv, hx, hp, hfl⟩
  case refine_4 =>
    obtain ⟨u, b, hu, hpassed, honly, hothers, hi, ⟨hv, hx, hp⟩, hfl, -⟩ := h.delivers hinst (by decide) (rdvResult_tred_alone s k a f)
    exact ⟨u, b, hu, hpassed, honly, hothers, hi, hv, hx, hp, hfl⟩
  case refine_5 =>
    obtain ⟨u, b, hu, hpassed, honly, hothers, hi, ⟨hv, hx, hp⟩, hfl, -⟩ := h.delivers hinst (by decide) (rdvResult_tscan_alone s k a f)
    exact ⟨u, b, hu, hpassed, honly, hothers, hi, hv, hx, hp, hfl⟩
  case refine_6 =>
    have hlane : laneOf k % partOf s a ≤ k := (Nat.mod_le _ _).trans (by rw [laneOf_thread hk]; exact Nat.mod_le _ _)
    obtain ⟨u, b, hu, hpassed, honly, hothers, hi, hwrote, hfl, -⟩ := h.delivers hinst (by decide)
      (rdvResult_vote_alone s k a f hlane (tileOf_tile hinst (by decide)) (named_tile hinst (by decide) hk hpart hmask))
    obtain ⟨hvote, hx⟩ := vote_wrote hwrote
    refine ⟨u, b, hu, hpassed, honly, hothers, hi, ?_, hx, hfl⟩
    rw [if_neg (by decide)] at hmask
    rw [hmask]
    exact hvote

/-! ### TSYNC of every participant of a tile (R121) -/

/-- What a participant is when its TSYNC completes, by what it was: it has passed with all but its instruction. -/
def Synced (len : Nat) (m : Agent) (u : State) (k : Nat) : Prop := ∃ b, Passed len m u k b ∧ b.core = { m.core with inst := none }

section
variable {s t u : State} {k : Nat} {m n : Agent} {f : FormL} {len : Nat}

theorem Synced.of_uncapped (h : Synced len m u k) (e : m.uncapped = n.uncapped) : Synced len n u k := by
  obtain ⟨b, hpassed, hcore⟩ := h
  have hblk : m.uncapped.blk = n.uncapped.blk := by rw [e]
  refine ⟨b, ⟨hpassed.here, ?_, hpassed.wait⟩, by rw [hcore, uncapped_core e]⟩
  rw [hpassed.pc, uncapped_pc e]
  exact advance_pc (a := n) (c := m) hblk _ _
theorem Synced.keeps {ks : List Nat} (h : Synced len m t k) (hby : Bystanders ks t u) (hk : k ∉ ks) : Synced len m u k := by
  obtain ⟨b, hpassed, hcore⟩ := h
  obtain ⟨n, hn, e⟩ := hby.some hk hpassed.here
  exact ⟨n, ⟨hn, (uncapped_pc e).trans hpassed.pc, (uncapped_wait e).trans hpassed.wait⟩, (uncapped_core e).trans hcore⟩
/-- One participant's TSYNC completes. -/
theorem finishSync_spec (s : State) (k : Nat) (f : FormL) (len : Nat) :
    Only [] s (finishRdv s k .tsync f len (0, 0)) ∧ Bystanders [k] s (finishRdv s k .tsync f len (0, 0)) ∧
    ∀ m, agent? s k = some m → Synced len m (finishRdv s k .tsync f len (0, 0)) k := by
  cases hm : agent? s k with
  | none =>
    have hsame : finishRdv s k .tsync f len (0, 0) = s := by unfold finishRdv; rw [hm]
    rw [hsame]
    exact ⟨Only.refl _ _, .of_eq fun _ _ => rfl, fun _ h => by cases h⟩
  | some m =>
    obtain ⟨honly, hby, b, hpassed, hcore⟩ := finishRdv_spec hm .tsync f len (0, 0)
    refine ⟨honly, hby, fun m' h => ?_⟩
    cases h
    refine ⟨b, hpassed, ?_⟩
    rw [hcore]
    simp [Agent.received, Agent.core, Agent.deliver, rdvDst]
/-- The TSYNC of each participant of a list completes. -/
theorem finishSyncs_spec (f : FormL) (len : Nat) : ∀ (l : List Nat) (s : State), l.Nodup →
    Only [] s (l.foldl (fun s j => finishRdv s j .tsync f len (0, 0)) s) ∧ Bystanders l s (l.foldl (fun s j => finishRdv s j .tsync f len (0, 0)) s) ∧
    ∀ j ∈ l, ∀ m, agent? s j = some m → Synced len m (l.foldl (fun s j => finishRdv s j .tsync f len (0, 0)) s) j
  | [], s, _ => ⟨Only.refl _ _, .of_eq fun _ _ => rfl, fun _ h => by cases h⟩
  | k :: l, s, hl => by
    obtain ⟨hk, hl⟩ := List.nodup_cons.mp hl
    obtain ⟨honly, hby, hsync⟩ := finishSync_spec s k f len
    obtain ⟨honly', hby', hsync'⟩ := finishSyncs_spec f len l (finishRdv s k .tsync f len (0, 0)) hl
    refine ⟨honly.trans honly', (hby.mono (by simp)).trans (hby'.mono fun j hj => List.mem_cons_of_mem _ hj), fun j hj m hm => ?_⟩
    rcases List.mem_cons.mp hj with rfl | hj
    · exact (hsync m hm).keeps hby' hk
    · obtain ⟨n, hn, e⟩ := hby.some (by rintro hmem; exact hk (List.mem_singleton.mp hmem ▸ hj)) hm
      exact (hsync' j hj n hn).of_uncapped e

end

/-- Settles O31: the skip marks are consumed, then each participant's TSYNC completes by itself. -/
theorem warpSync : Obligations.WarpSync := by
  unfold Obligations.WarpSync
  intro s k a f len hhere hinst hwait hstate hmatch hclash harrived hnodup spent left
  have hwaits : waitsRdv a = true := by rcases hstate with e | e <;> simp [waitsRdv, hwait, e]
  have hready : rdvReady s k a = true :=
    List.all_eq_true.mpr fun p hp => List.all_eq_true.mpr fun n hn => harrived p.1 p.2 hp n hn
  have hdue : rendezvous k s = ((peers s k a).map (·.1)).foldl (fun s j => finishRdv s j .tsync f len (0, 0)) (spendAll s a.pc (namedAll s k a)) := by
    rw [rendezvous_ready hhere hinst hwaits hmatch hclash hready]
    simp only [results, List.foldl_map]
    rfl
  have hspent (j : Nat) : agent? (spendAll s a.pc (namedAll s k a)) j = (agent? s j).map fun m => if spent j then m.spend a.pc else m := by
    rw [agent?_spendAll, namedAll, List.any_flatMap]
  have hleft (j : Nat) (m : Agent) : (if spent j then m.spend a.pc else m).core = left j m := by
    simp only [left]
    split <;> rfl
  obtain ⟨u, hu, honly, hothers, hkept⟩ := event_spec (rendezvous k) s
  rw [hdue] at honly hothers hkept
  obtain ⟨hfin, hby, hsync⟩ := finishSyncs_spec f len _ (spendAll s a.pc (namedAll s k a)) hnodup
  refine ⟨u, hu, ((Only.spendAll _ _ _).trans hfin).of_nil.trans honly, fun j m hj hm => ?_, fun j hj => ?_⟩
  · have hthere := hspent j
    rw [hm, Option.map_some] at hthere
    obtain ⟨b, hpassed, hcore⟩ := hsync j (List.mem_map_of_mem hj) _ hthere
    refine ⟨b, ⟨hkept j b hpassed.here hpassed.wait, ?_, hpassed.wait⟩, by rw [hcore, hleft]⟩
    rw [hpassed.pc]
    by_cases hs : spent j = true
    · simp only [hs, if_true]
      exact advance_pc (a := m) (c := m.spend a.pc) rfl _ _
    · simp only [hs, if_false, Bool.false_eq_true]
  · refine ((hby.others.trans (hothers _)) j hj).trans ?_
    rw [hspent, Option.map_map]
    congr 1
    funext m
    refine Prod.ext (hleft j m) ?_
    by_cases hs : spent j = true
    · simp only [Function.comp_apply, hs, if_true]
      rfl
    · simp only [Function.comp_apply, hs, if_false, Bool.false_eq_true]

end Sys2Proof.Machine
end

section
/-!
PROOF. The events of a party (R94, R95, R107, R153, R190, R195, R226, R251, R280).
-/
namespace Sys2Proof.Machine

/-! ### A wait that is over -/

/-- A party whose wait is over, with what it tells the instruction that waited. -/
def Agent.resumed (a : Agent) (f : FormL) (p : Option Bool) (c : Clock) : Agent :=
  { ((p.elim a (a.setP f.dst.toNat)).acquire c) with inst := none, wait := .none, waited := 0 }

section
variable {s : State} {k : Nat} {a : Agent} {o : Op} {f : FormL} {len : Nat}

theorem resumed_rest (a : Agent) (f : FormL) (p : Option Bool) (c : Clock) : ∃ x y z, a.resumed f p c =
    { a with preds := x, pfull := y, ppoison := z, clk := cmax a.clk c, inst := none, wait := .none, waited := 0 } := by
  cases p with
  | none => exact ⟨_, _, _, rfl⟩
  | some r =>
    obtain ⟨x, y, z, e⟩ := setP_rest a f.dst.toNat r
    refine ⟨x, y, z, ?_⟩
    unfold Agent.resumed Agent.acquire
    rw [Option.elim_some, e]
/-- A party whose wait is over stands at the next instruction; beside it nothing changes. -/
theorem finishWait_spec (h : agent? s k = some a) (hinst : a.inst = some (o, f, len)) (p : Option Bool) (c : Clock) :
    Only [] s (finishWait s k p c) ∧ Others [k] s (finishWait s k p c) ∧
    ∃ b, Passed len a (finishWait s k p c) k b ∧ b.core = (a.resumed f p c).core := by
  have hfinish : finishWait s k p c = settle k a len (.next (putAgent s k (a.resumed f p c))) := by
    unfold finishWait
    simp only [h, hinst]
    cases p <;> rfl
  have hblk : (a.resumed f p c).blk = a.blk := by
    obtain ⟨x, y, z, e⟩ := resumed_rest a f p c
    rw [e]
  obtain ⟨honly, hothers, b, hb, hcore, hpc, hwait⟩ := settle_next_spec (agent?_putAgent_same s k (a.resumed f p c)) a len
  rw [hfinish]
  exact ⟨(Only.putAgent _ _ _).trans honly, (Others.putAgent _ _ _).trans hothers, b, ⟨hb, hpc.trans (advance_pc hblk _ _), hwait⟩, hcore⟩
/-- An event that ends a party's wait, in a state with what else the event does. -/
theorem event_finishes {g : State → State} {t : State} {l : List Part} {p : Option Bool} {c : Clock} (hg : g s = finishWait t k p c)
    (hthere : agent? t k = some a) (hinst : a.inst = some (o, f, len)) (honly : Only l s t) (hothers : Others [k] s t) (hl : .trigs ∈ l) :
    ∃ u, event g s = .next u ∧ Only [.trigs] t u ∧ Only l s u ∧ Others [k] s u ∧ ∃ b, Passed len a u k b ∧ b.core = (a.resumed f p c).core := by
  obtain ⟨u, hu, hlater, hafter, hkept⟩ := event_spec g s
  rw [hg] at hlater hafter hkept
  obtain ⟨hfin, hby, b, hpassed, hcore⟩ := finishWait_spec hthere hinst p c
  have htu : Only [.trigs] t u := hfin.of_nil.trans hlater
  exact ⟨u, hu, htu, honly.trans (htu.mono (by simpa using hl)), hothers.trans (hby.trans (hafter _)), b,
    ⟨hkept k b hpassed.here hpassed.wait, hpassed.pc, hpassed.wait⟩, hcore⟩
/-- A wait with a time limit completes with false (R226, R251). -/
theorem event_expires {g : State → State} (hg : g s = finishWait s k (some false) []) (hhere : agent? s k = some a) (hinst : a.inst = some (o, f, len)) :
    Happens (event g s) fun u => Only [.trigs] s u ∧ Others [k] s u ∧ ∃ b, Passed len a u k b ∧ b.inst = none ∧
      WroteP a b f.dst.toNat false ∧ SameV a b ∧ SameX a b ∧ b.fl = a.fl := by
  obtain ⟨u, hu, -, honly, hothers, b, hpassed, hcore⟩ := event_finishes hg hhere hinst (Only.refl [.trigs] _) (Others.refl _ _) (by simp)
  obtain ⟨x, y, z, e⟩ := setP_rest a f.dst.toNat false
  have hinst' : b.core.inst = (a.resumed f (some false) []).core.inst := by rw [hcore]
  have hresumed : a.resumed f (some false) [] =
      { a with preds := x, pfull := y, ppoison := z, clk := cmax a.clk [], inst := none, wait := .none, waited := 0 } := by
    unfold Agent.resumed Agent.acquire
    rw [Option.elim_some, e]
  have hwrote : WroteP a (a.resumed f (some false) []) f.dst.toNat false := wroteP_setP a f.dst.toNat false
  exact ⟨u, hu, honly, hothers, b, hpassed, hinst', core_wroteP hcore hwrote, core_sameV hcore (by rw [hresumed]; exact fun _ => rfl),
    core_sameX hcore (by rw [hresumed]; exact fun _ => rfl), (core_fl hcore).trans (by rw [hresumed])⟩

end

/-! ### A destination that is poisoned or left faulted (R42, R195) -/

section
variable (a : Agent) (d : Dst)

/-- Registers that a completion names and changes are all that it changes. -/
theorem named_rest (g : Cell 32 → Cell 32) (n m : Nat) :
    ∃ v, (if n == 255 then a else (upFrom 0 m).foldl (fun a j => a.setV (n + j) (g (a.vcell (n + j)))) a) = { a with v := v } := by
  split
  · exact ⟨a.v, rfl⟩
  · exact run_rest (fun _ => g) n (upFrom 0 m) a
theorem poisonV_rest (n m : Nat) : ∃ v, a.poisonDst (.v n m) = { a with v := v } := named_rest a (fun c => { c with poison := true }) n m
theorem markV_rest (n m : Nat) (x : LoadMark) : ∃ v, a.markDst (.v n m) x = { a with v := v } :=
  named_rest a (fun c => { c with full := false, mark := some x }) n m
theorem poisonDst_rest : ∃ v y t, a.poisonDst d = { a with v := v, x := y, ppoison := t } := by
  cases d with
  | v r n => obtain ⟨v, e⟩ := poisonV_rest a r n; exact ⟨v, a.x, a.ppoison, e⟩
  | x r => obtain ⟨y, e⟩ := setX_rest a r { a.xcell r with poison := true }; exact ⟨a.v, y, a.ppoison, e⟩
  | p r =>
    unfold Agent.poisonDst Agent.poisonP
    dsimp only
    split <;> exact ⟨a.v, a.x, _, rfl⟩
  | tab n => exact ⟨a.v, a.x, a.ppoison, rfl⟩
  | none => exact ⟨a.v, a.x, a.ppoison, rfl⟩
theorem markDst_rest (m : LoadMark) : ∃ v y, a.markDst d m = { a with v := v, x := y } := by
  cases d with
  | v r n => obtain ⟨v, e⟩ := markV_rest a r n m; exact ⟨v, a.x, e⟩
  | x r => obtain ⟨y, e⟩ := setX_rest a r { a.xcell r with full := false, mark := some m }; exact ⟨a.v, y, e⟩
  | p r => exact ⟨a.v, a.x, rfl⟩
  | tab n => exact ⟨a.v, a.x, rfl⟩
  | none => exact ⟨a.v, a.x, rfl⟩
/-- The registers that a completion names, each changed by what it held. -/
theorem vcell_named (g : Cell 32 → Cell 32) (n m i : Nat) :
    (if n == 255 then a else (upFrom 0 m).foldl (fun a j => a.setV (n + j) (g (a.vcell (n + j)))) a).vcell i =
      if n ≠ 255 ∧ n ≤ i ∧ i < n + m ∧ i < 255 then g (a.vcell i) else a.vcell i := by
  by_cases hn : n = 255
  · simp [hn]
  · rw [if_neg (by simpa using hn), vcell_run (fun _ => g) n m 0 a i]
    simp only [Nat.add_zero, ne_eq, hn, not_false_eq_true, true_and]
theorem vcell_markDst (n m i : Nat) (x : LoadMark) : (a.markDst (.v n m) x).vcell i =
    if n ≠ 255 ∧ n ≤ i ∧ i < n + m ∧ i < 255 then { a.vcell i with full := false, mark := some x } else a.vcell i :=
  vcell_named a (fun c => { c with full := false, mark := some x }) n m i
theorem vcell_poisonDst_deliver (n m x i : Nat) : ((a.deliver (.v n m) x).poisonDst (.v n m)).vcell i =
    if n ≠ 255 ∧ n ≤ i ∧ i < n + m ∧ i < 255 then { val := BitVec.ofNat 32 (x / 2 ^ (32 * (i - n))), poison := true } else a.vcell i := by
  refine (vcell_named (a.deliver (.v n m) x) (fun c => { c with poison := true }) n m i).trans ?_
  have hwrote : (a.deliver (.v n m) x).vcell i = _ := wroteV_putV a n m x i
  by_cases h : n ≠ 255 ∧ n ≤ i ∧ i < n + m ∧ i < 255
  · rw [if_pos h, if_pos h, hwrote, if_pos h]
  · rw [if_neg h, if_neg h, hwrote, if_neg h]

/-- A party with a value in its destination, poisoned where what it came from was. -/
def Agent.answered (x : Nat) (bad : Bool) : Agent := if bad then (a.deliver d x).poisonDst d else a.deliver d x
theorem answered_rest (x : Nat) (bad : Bool) : ∃ v y p q t, a.answered d x bad = { a with v := v, x := y, preds := p, pfull := q, ppoison := t } := by
  obtain ⟨v, y, p, q, t, e⟩ := deliver_rest a d x
  unfold Agent.answered
  split
  · obtain ⟨v', y', t', e'⟩ := poisonDst_rest (a.deliver d x) d
    exact ⟨v', y', p, q, t', by rw [e', e]⟩
  · exact ⟨v, y, p, q, t, e⟩

end

/-- Registers filled with poisoned data: nothing else of the party changes. -/
theorem answered_poisoned (a : Agent) (n m x : Nat) : SameX a (a.answered (.v n m) x true) ∧ SameP a (a.answered (.v n m) x true) ∧
    ∀ i, (a.answered (.v n m) x true).vcell i =
      if n ≠ 255 ∧ n ≤ i ∧ i < n + m ∧ i < 255 then { val := BitVec.ofNat 32 (x / 2 ^ (32 * (i - n))), poison := true } else a.vcell i := by
  obtain ⟨v, e⟩ := putV_rest a n m x
  obtain ⟨v', e'⟩ := poisonV_rest (a.deliver (.v n m) x) n m
  have hrest : a.answered (.v n m) x true = { a with v := v' } := by
    refine e'.trans ?_
    rw [show a.deliver (.v n m) x = { a with v := v } from e]
  refine ⟨?_, ?_, vcell_poisonDst_deliver a n m x⟩
  · rw [hrest]; exact fun _ => rfl
  · rw [hrest]; exact ⟨rfl, rfl, rfl⟩

/-! ### The events -/

section
variable {s : State} {k : Nat} {a : Agent}

/-- An event that changes one party, and removes what it was about: whatever is looked at afterwards, the party holds what it was given. -/
theorem event_answers {l : List Part} (t : State) (k : Nat) (b : Agent) (honly : Only l s t) (hagents : t.agents = s.agents) (hl : .trigs ∈ l) :
    Happens (event (fun _ => putAgent t k b) s) fun u => (∀ p, p ≠ .trigs → Same t u p) ∧ Only l s u ∧ Others [k] s u ∧
      ∃ c, agent? u k = some c ∧ c.core = b.core := by
  refine Happens.of_event fun w tr => ?_
  have htu : Only [.trigs] t ((putAgent t k b).looked w tr) := (Only.putAgent t k b).of_nil.trans (Only.looked _ _ _)
  refine ⟨fun p hp => htu p (by simpa using hp), honly.trans (htu.mono (by simpa using hl)), ?_, ?_⟩
  · exact (Others.of_eq fun j _ => congrArg (fget? · j) hagents).trans ((Others.putAgent t k b).trans (Others.looked _ _ _ _))
  · refine ⟨_, (agent?_looked _ _ _ _).trans (congrArg (Option.map _) (agent?_putAgent_same t k b)), rfl⟩

theorem party?_of (h : agent? s k = some a) : party? s k a.uid = some a := by simp [party?, h]

end

/-- An event that changes one party where a condition holds. -/
theorem enters_modAgent {s : State} {k : Nat} {a : Agent} {p : Agent → Bool} (g : Agent → Agent) (hhere : agent? s k = some a) (hp : p a = true) :
    Enters (event (fun s => modAgent s k fun a => if p a then g a else a) s) (putAgent s k (g a)) :=
  Enters.of_eq (by rw [modAgent_some hhere, if_pos hp])

/-- What a producer's completion does (R153). -/
theorem producerCompletion_eq {s : State} {id : Nat} {p : Prod} {a : Agent} (hfind : s.prods.find? (·.id == id) = some p) (hsrc : p.src = none)
    (hhere : agent? s p.key = some a) (huid : a.uid = p.uid) (hstate : a.state ≠ .exited) : exec (.producerCompletion id) s =
    event (fun _ => putAgent { s with prods := s.prods.filter (·.id != id) } p.key { (a.answered p.dst p.value p.poison) with fl := a.fl ||| p.flags }) s := by
  have hparty : party? { s with prods := s.prods.filter (·.id != id) } p.key p.uid = some a := huid ▸ party?_of hhere
  show execProducerCompletion id s = _
  unfold execProducerCompletion event
  simp only [hfind, prodValue, hsrc, hparty, beq_eq_false_iff_ne.mpr hstate]
  rfl
/-- The party that an answer reaches, as it leaves it (R190, R195). -/
def replied (a : Agent) (r : Req) : Agent :=
  match r.fault with
  | some code => a.markDst r.acc.dst { code := code, acc := r.acc }
  | none => a.answered r.acc.dst (loaded r.acc r.result) r.poison
/-- What a load's completion does, but for a load of a table (R190, R195). -/
theorem loadCompletion_eq {s : State} {id : Nat} {r : Req} {a : Agent} (hreq : req? s id = some r)
    (hstage : r.stage = .returned ∨ (r.acc.scratch = true ∧ r.stage = .performed)) (hreturns : returns r = true) (htab : ∀ n, r.acc.dst ≠ .tab n)
    (hhere : agent? s r.who.key = some a) (huid : a.uid = r.who.uid) (hstate : a.state ≠ .exited) :
    exec (.loadCompletion id) s = event (fun _ => putAgent (dropReq s id) r.who.key (replied a r)) s := by
  have hparty : party? (dropReq s id) r.who.key r.who.uid = some a := huid ▸ party?_of hhere
  have hanswered : (!returns r || !(r.stage == .returned || (r.acc.scratch && r.stage == .performed))) = false := by
    rcases hstage with e | ⟨e, e'⟩ <;> simp [*]
  show execLoadCompletion id s = _
  unfold execLoadCompletion event replied
  simp only [hreq, hanswered, hparty, beq_eq_false_iff_ne.mpr hstate]
  cases hdst : r.acc.dst with
  | tab n => exact absurd hdst (htab n)
  | _ => cases r.fault <;> rfl

/-- The engine with the operation that its task waited to issue (R280). -/
def accepted (s : State) (cl : Nat) (r : SeqRec) : State := putEngine s cl { engine s cl with want := none, ops := (engine s cl).ops ++ [r] }
theorem matrixOperationAccept_eq {s : State} {cl : Nat} {a : Agent} {r : SeqRec} (hhere : agent? s (taskKey cl) = some a)
    (hwant : (engine s cl).want = some r) (hroom : (engine s cl).ops.length < 16) (hissues : ctxIssues s a.asid = true) :
    exec (.matrixOperationAccept cl) s = event (fun _ => finishWait (accepted s cl r) (taskKey cl) none []) s := by
  have hdue : acceptDue s cl = true := by simp [acceptDue, hwant, hroom, hhere, hissues]
  show execMatrixOperationAccept cl s = _
  unfold execMatrixOperationAccept event
  simp only [hwant, hdue, if_true]
  rfl

/-- Settles O50: each event's own meaning, and what is looked at after it. -/
theorem partyEvents : Obligations.PartyEvents := by
  unfold Obligations.PartyEvents
  refine ⟨?_, ?_, ?_, ?_, ?_, ?_, ?_, ?_⟩
  · intro s k a hhere hstate hwait hage
    exact enters_modAgent (fun a => { a with urgent := true }) hhere (by simp [hstate, hwait, hage])
  · intro s k a hhere hstate hheld
    exact enters_modAgent (fun a => { a with state := .ready, waited := 0 }) hhere (by simp [hstate, hheld])
  · intro s k a hhere hyielding hyielded
    exact enters_modAgent (fun a => { a with yielding := false, yielded := 0 }) hhere (by simp [hyielding, hyielded])
  · intro s id p a hfind hsrc hhere huid hstate
    rw [producerCompletion_eq hfind hsrc hhere huid hstate]
    obtain ⟨u, hu, hsame, honly, hothers, b, hb, hcore⟩ := event_answers (s := s) (l := [.prods, .trigs])
      { s with prods := s.prods.filter (·.id != id) } p.key { (a.answered p.dst p.value p.poison) with fl := a.fl ||| p.flags }
      (fun q hq => by cases q <;> simp_all [Same, group?, ctx?]) rfl (by simp)
    obtain ⟨v, y, x, q, z, e⟩ := answered_rest a p.dst p.value p.poison
    refine ⟨u, hu, hsame .prods (by simp), honly, hothers, b, hb, core_fl hcore, core_sameRest hcore ?_, fun hclean => ?_, fun n m hbad hdst => ?_⟩
    · rw [e]; rfl
    · refine core_wroteD hcore ?_
      have hwrote := wroteD_deliver a p.dst p.value
      rw [hclean]
      cases hd : p.dst with
      | _ => rw [hd] at hwrote; exact hwrote
    · rw [hbad, hdst] at hcore
      obtain ⟨hx, hp, hv⟩ := answered_poisoned a n m p.value
      exact ⟨core_sameX hcore hx, core_sameP hcore hp, fun i => (core_vcell hcore i).trans (hv i)⟩
  · intro s id r a hreq hstage hreturns htab hhere huid hstate
    rw [loadCompletion_eq hreq hstage hreturns htab hhere huid hstate]
    obtain ⟨u, hu, hsame, honly, hothers, b, hb, hcore⟩ := event_answers (s := s) (l := [.reqs, .trigs])
      (dropReq s id) r.who.key (replied a r) (fun q hq => by cases q <;> simp_all [Same, group?, ctx?, dropReq]) rfl (by simp)
    have hrest : ∃ v y p q t, replied a r = { a with v := v, x := y, preds := p, pfull := q, ppoison := t } := by
      unfold replied
      cases r.fault with
      | none => exact answered_rest ..
      | some code =>
        obtain ⟨v, y, e⟩ := markDst_rest a r.acc.dst { code := code, acc := r.acc }
        exact ⟨v, y, _, _, _, e⟩
    obtain ⟨v, y, x, q, z, e⟩ := hrest
    refine ⟨u, hu, hsame .reqs (by simp), honly, hothers, b, hb, (core_fl hcore).trans (by rw [e]), core_sameRest hcore (by rw [e]; rfl),
      fun hok hclean => ?_, fun code n m hfault hdst => ?_, fun n m hok hbad hdst => ?_⟩
    · refine core_wroteD hcore ?_
      simp only [replied, hok, hclean]
      exact wroteD_deliver ..
    · simp only [replied, hfault, hdst] at hcore
      obtain ⟨v', e'⟩ := markV_rest a n m { code := code, acc := r.acc }
      refine ⟨core_sameX hcore (by rw [e']; exact fun _ => rfl), core_sameP hcore (by rw [e']; exact ⟨rfl, rfl, rfl⟩), fun i => ?_⟩
      exact (core_vcell hcore i).trans (vcell_markDst a n m i _)
    · simp only [replied, hok, hbad, hdst] at hcore
      obtain ⟨hx, hp, hv⟩ := answered_poisoned a n m (loaded r.acc r.result)
      exact ⟨core_sameX hcore hx, core_sameP hcore hp, fun i => (core_vcell hcore i).trans (hv i)⟩
  · intro s k a o f len l p limit hhere hinst hwait hlimit hover
    show Happens (execMbwaitLimitExpiry k s) _
    refine event_expires ?_ hhere hinst
    simp [hhere, hwait, hlimit, hover]
  · intro s k a o f len va thr limit hhere hinst hwait hlimit hover
    show Happens (execQwaitLimitExpiry k s) _
    refine event_expires ?_ hhere hinst
    simp [hhere, hwait, hlimit, hover]
  · intro s cl a o f len r hhere hinst hwant hroom hissues
    rw [matrixOperationAccept_eq hhere hwant hroom hissues]
    obtain ⟨u, hu, hlater, honly, hothers, b, hpassed, hcore⟩ :=
      event_finishes (g := fun _ => finishWait (accepted s cl r) (taskKey cl) none []) (s := s) (t := accepted s cl r) (l := [.clusters, .trigs])
        rfl (hhere : agent? (accepted s cl r) (taskKey cl) = some a) hinst (fun q hq => by cases q <;> simp_all [Same, group?, ctx?, accepted, putEngine, putCluster]) (Others.of_eq fun _ _ => rfl) (by simp)
    refine ⟨u, hu, honly, hothers, ?_, b, hpassed, ?_⟩
    · have hclusters : u.clusters = (accepted s cl r).clusters := hlater .clusters (by simp)
      have heng : engine u cl = engine (accepted s cl r) cl := congrArg (fun m => (fgetD m cl {}).eng) hclusters
      exact heng.trans (congrArg Cluster.eng (fgetD_fput_same ..))
    · have hclk : b.core.clk = cmax a.clk [] := by rw [hcore]; rfl
      rw [show b.clk = cmax a.clk [] from hclk, hcore]
      rfl

end Sys2Proof.Machine
end

section
/-!
PROOF. Writes of the device itself (R232), and pushes to a queue (R234, R236).
-/
namespace Sys2Proof.Machine

/-! ### What a write of the device leaves -/

/-- A state with other memory, TLBs and side logs, lines and poison marks: all that a write of the device touches. -/
def Written (s u : State) : Prop := ∃ m b l p, u = { s with mem := m, bases := b, lines := l, poison := p }

section
variable {s t u : State}

theorem Written.refl (s : State) : Written s s := ⟨s.mem, s.bases, s.lines, s.poison, rfl⟩
theorem Written.trans (h : Written s t) (g : Written t u) : Written s u := by
  obtain ⟨m, b, l, p, rfl⟩ := h
  obtain ⟨m', b', l', p', rfl⟩ := g
  exact ⟨m', b', l', p', rfl⟩
theorem Written.only (h : Written s u) : Only [.mem, .bases, .lines, .poison] s u := by
  obtain ⟨m, b, l, p, rfl⟩ := h
  intro q hq
  cases q <;> simp_all [Same, group?, ctx?]
theorem Written.agent? (h : Written s u) (j : Nat) : agent? u j = Machine.agent? s j := by obtain ⟨m, b, l, p, rfl⟩ := h; rfl
theorem Written.queue? (h : Written s u) (j : Nat) : queue? u j = Machine.queue? s j := by obtain ⟨m, b, l, p, rfl⟩ := h; rfl

theorem written_deviceUse (s : State) (asid va : Nat) (write : Bool) : Written s (deviceUse s asid va write) := by
  obtain ⟨m, b, e⟩ := deviceUse_marked s asid va write
  exact ⟨m, b, s.lines, s.poison, e⟩
theorem written_invalidateFor (s : State) (pa : Nat) : Written s (invalidateFor s pa none) := by
  obtain ⟨l, e, -⟩ := LinesDropped.invalidateFor s pa
  exact ⟨s.mem, s.bases, l, s.poison, e⟩
theorem written_unpoison (s : State) (pa n : Nat) : Written s (unpoison s pa n) := by
  obtain ⟨p, e, -⟩ := unpoison_eq s pa n
  exact ⟨s.mem, s.bases, s.lines, p, e⟩
/-- A write of the device to an absent page changes only its home's side log. -/
theorem deviceLog_eq (s : State) (asid home va n v : Nat) : ∃ b, deviceLog s asid home va n v = { s with bases := b } := by
  unfold deviceLog
  generalize pieces va 16 (n / 16 + 2) n = l
  induction l generalizing s v with
  | nil => exact ⟨s.bases, rfl⟩
  | cons p l ih =>
    obtain ⟨b, e⟩ := ih _ _
    exact ⟨b, e⟩
theorem written_deviceWrite (s : State) (asid va n v : Nat) : Written s (deviceWrite s asid va n v) := by
  unfold deviceWrite
  split
  · refine iteInduction (motive := Written s) (fun _ => .refl s) fun _ => ?_
    refine ((written_deviceUse s asid va true).trans ?_).trans (written_invalidateFor _ _)
    exact Written.trans ⟨_, _, _, _, rfl⟩ (written_unpoison _ _ _)
  · obtain ⟨b, e⟩ := deviceLog_eq s asid _ va n v
    exact ⟨s.mem, b, s.lines, s.poison, e⟩
  · exact .refl s

/-! ### The bytes that it writes -/

/-- Where the device reaches a page, the address is one of the context's, and there is a leaf. -/
theorem deviceLoc_at {asid va pa e ea size : Nat} (h : deviceLoc s asid va = .at_ pa e ea size) :
    ∃ ad, classify s asid va = some ad ∧ findLeaf s asid ad = .leaf e ea size := by
  unfold deviceLoc at h
  split at h
  · cases h
  · rename_i ad hclass
    refine ⟨ad, hclass, ?_⟩
    split at h
    · cases h
    · split at h <;> cases h
    · rename_i hleaf
      rw [hleaf]
      split at h
      · cases h
      · split at h
        · cases h
        · split at h
          · cases h
          · cases h; rfl

/-- Memory after the device has used a leaf for a write. -/
def usedMem (m : Memory) (e ea : Nat) : Memory := if e ||| 384 == e then m else writeN m ea (readN m ea 8 ||| ((e ||| 384) - e)) 8
theorem deviceUse_mem {asid va pa e ea size : Nat} (h : deviceLoc s asid va = .at_ pa e ea size) : (deviceUse s asid va true).mem = usedMem s.mem e ea := by
  obtain ⟨ad, hclass, -⟩ := deviceLoc_at h
  unfold deviceUse
  rw [hclass, h]
  exact apply_ite State.mem _ _ _
/-- Memory after a write of the device: the leaf's marks, then the bytes. -/
theorem deviceWrite_mem (s : State) (asid va n v : Nat) : (deviceWrite s asid va n v).mem = match deviceLoc s asid va with
    | .at_ pa e ea _ => if paPkg pa == 255 then s.mem else writeN (usedMem s.mem e ea) pa v n
    | _ => s.mem := by
  unfold deviceWrite
  cases h : deviceLoc s asid va with
  | at_ pa e ea size =>
    dsimp only
    split
    · rfl
    · obtain ⟨l, hl, -⟩ := LinesDropped.invalidateFor (unpoison { deviceUse s asid va true with mem := writeN (deviceUse s asid va true).mem pa v n } pa n) pa
      obtain ⟨p, hp, -⟩ := unpoison_eq { deviceUse s asid va true with mem := writeN (deviceUse s asid va true).mem pa v n } pa n
      rw [hl, hp, ← deviceUse_mem h]
  | absent home => obtain ⟨b, e⟩ := deviceLog_eq s asid home va n v; dsimp only; rw [e]
  | prot => rfl
  | poisoned pa => rfl
/-- The device sees no queue of the model where it translates, so a queue's own new values do not change what it writes. -/
theorem deviceWrite_putQueue_mem (s : State) (qk : Nat) (q : Queue) (asid va n v : Nat) :
    (deviceWrite (putQueue s qk q) asid va n v).mem = (deviceWrite s asid va n v).mem := by
  rw [deviceWrite_mem, deviceWrite_mem]
  rfl
/-- A write of the device changes the bytes that it names, and the leaf that it marks. -/
theorem memBut_deviceWrite (s : State) (asid va n v : Nat) : MemBut s (deviceWrite s asid va n v) (deviceBytes s asid va n) := by
  intro hok i hi
  rw [deviceWrite_mem]
  cases h : deviceLoc s asid va with
  | at_ pa e ea size =>
    obtain ⟨ad, hclass, hleaf⟩ := deviceLoc_at h
    have hpa : i < pa ∨ pa + n ≤ i := by
      by_contra hin
      exact hi (.inl ⟨pa, by simp [devicePa, h], by omega, by omega⟩)
    have hea : i < ea ∨ ea + 8 ≤ i := by
      by_contra hin
      exact hi (.inr ⟨ad, e, ea, size, hclass, hleaf, by omega, by omega⟩)
    have hused : Memory.wf (usedMem s.mem e ea) = true ∧ Memory.get (usedMem s.mem e ea) i = Memory.get s.mem i := by
      unfold usedMem
      split
      · exact ⟨hok.1, rfl⟩
      · exact ⟨Memory.wf_writeN hok.1 _ _ _, Memory.get_writeN_ne hok.1 hea⟩
    dsimp only
    split
    · rfl
    · exact (Memory.get_writeN_ne hused.1 hpa).trans hused.2
  | absent | prot | poisoned => rfl

end

/-! ### A queue and its record -/

section
variable {s : State} {qk : Nat} {q : Queue}

theorem queue?_putQueue (s : State) (qk j : Nat) (q : Queue) : queue? (putQueue s qk q) j = if j = qk then some q else queue? s j := by
  by_cases h : j = qk
  · subst h; simp
  · rw [if_neg h]; exact fget?_fput_ne _ _ h
/-- A queue takes new values, with its record. -/
theorem setQueue_spec (s : State) (qk : Nat) (q : Queue) : Only [.mem, .bases, .queues, .lines, .poison] s (setQueue s qk q) ∧
    (∀ j, agent? (setQueue s qk q) j = agent? s j) ∧ (∀ j, queue? (setQueue s qk q) j = if j = qk then some q else queue? s j) ∧
    (setQueue s qk q).mem = (deviceWrite s q.asid q.recVa.toNat 64 q.image).mem ∧ MemBut s (setQueue s qk q) (deviceBytes s q.asid q.recVa.toNat 64) := by
  have hwritten := written_deviceWrite (putQueue s qk q) q.asid q.recVa.toNat 64 q.image
  have hput : Only [.mem, .bases, .queues, .lines, .poison] s (putQueue s qk q) := by
    intro p hp
    cases p <;> simp_all [Same, group?, ctx?, putQueue]
  have hmem := deviceWrite_putQueue_mem s qk q q.asid q.recVa.toNat 64 q.image
  refine ⟨hput.trans (hwritten.only.mono (by simp)), hwritten.agent?, fun j => (hwritten.queue? j).trans (queue?_putQueue _ _ _ _), hmem, ?_⟩
  intro hok i hi
  exact (congrArg (Memory.get · i) hmem).trans (memBut_deviceWrite _ _ _ _ _ hok i hi)

/-- One entry is pushed to a queue whose ring holds its entries (R234). -/
theorem pushEntry_spec (h : queue? s qk = some q) (hplace : q.inPlace) (img : Nat) (m : EntryMeta) :
    Pushed s (pushEntry s qk img m) qk img m q ∧ Only [.mem, .bases, .queues, .lines, .poison] s (pushEntry s qk img m) ∧
    ∀ j, agent? (pushEntry s qk img m) j = agent? s j := by
  have hring : (q.kind == 4 && q.state == .saved) = false := by
    by_cases hk : q.kind = 4
    · simp [hk, hplace hk]
    · simp [hk]
  have hpush : pushEntry s qk img m = setQueue (deviceWrite (deviceWrite s q.asid (q.slotVa q.pushed) 64 img) q.asid (q.statusVa q.pushed) 4 0) qk
      { q with ents := fput q.ents q.pushed m, pushed := q.pushed + 1 }.woken := by
    unfold pushEntry
    rw [h]
    exact if_neg (by simpa using hring)
  have hslot := written_deviceWrite s q.asid (q.slotVa q.pushed) 64 img
  have hstatus := written_deviceWrite (deviceWrite s q.asid (q.slotVa q.pushed) 64 img) q.asid (q.statusVa q.pushed) 4 0
  have hboth := hslot.trans hstatus
  obtain ⟨honly, hagents, hqueues, hmem, hbut⟩ := setQueue_spec (deviceWrite (deviceWrite s q.asid (q.slotVa q.pushed) 64 img) q.asid (q.statusVa q.pushed) 4 0)
    qk { q with ents := fput q.ents q.pushed m, pushed := q.pushed + 1 }.woken
  rw [hpush]
  refine ⟨⟨(hqueues qk).trans (if_pos rfl), fun j hj => ((hqueues j).trans (if_neg hj)).trans (hboth.queue? j), hmem, fun hok i hi => ?_⟩,
    (hboth.only.mono (by simp)).trans honly, fun j => (hagents j).trans (hboth.agent? j)⟩
  obtain ⟨hi1, hi23⟩ := not_or.mp hi
  obtain ⟨hi2, hi3⟩ := not_or.mp hi23
  have hok1 := deviceWrite_ok s q.asid (q.slotVa q.pushed) 64 img hok
  have hok2 := deviceWrite_ok _ q.asid (q.statusVa q.pushed) 4 0 hok1
  exact (hbut hok2 i hi3).trans ((memBut_deviceWrite _ _ _ _ _ hok1 i hi2).trans (memBut_deviceWrite _ _ _ _ _ hok i hi1))
/-- What is said of a push holds of a later state with the same memory and queues. -/
theorem Pushed.later {t u : State} {img : Nat} {m : EntryMeta} (h : Pushed s t qk img m q) (hmem : u.mem = t.mem) (hqueues : u.queues = t.queues) :
    Pushed s u qk img m q := by
  have hread (j : Nat) : queue? u j = queue? t j := congrArg (fget? · j) hqueues
  obtain ⟨hhere, hothers, hbytes, hbut⟩ := h
  exact ⟨(hread _).trans hhere, fun j hj => (hread j).trans (hothers j hj), hmem.trans hbytes, fun hok i hi => (congrArg (Memory.get · i) hmem).trans (hbut hok i hi)⟩

end

end Sys2Proof.Machine
end

section
/-!
PROOF. The control core's other instructions (R275, R278, R283 to R285).
-/
namespace Sys2Proof.Machine

/-! ### The engine of a cluster -/

section
variable {s u : State}

theorem engine_of_clusters (h : u.clusters = s.clusters) (n : Nat) : engine u n = engine s n := congrArg (fun m => (fgetD m n {}).eng) h
@[simp] theorem engine_putEngine_same (s : State) (n : Nat) (e : Engine) : engine (putEngine s n e) n = e := congrArg Cluster.eng (fgetD_fput_same ..)
theorem cluster_putEngine_ne (s : State) {n j : Nat} (e : Engine) (h : j ≠ n) : cluster (putEngine s n e) j = cluster s j := fgetD_fput_ne _ _ _ h
theorem Only.putEngine (s : State) (n : Nat) (e : Engine) : Only [.clusters] s (putEngine s n e) := fun p hp => by
  cases p with
  | clusters => exact absurd List.mem_cons_self hp
  | _ => simp [Same, Machine.putEngine, putCluster, group?, ctx?]

end

/-! ### TFMT, TCT and TCFG (R278) -/

theorem bodyTfmt_of_free {c : Ctx'} (h : namedInEngine (engine c.s (clusterOf c.k)) c.f.dst.toNat = false) : bodyTfmt c =
    .next (putEngine c.s (clusterOf c.k) { engine c.s (clusterOf c.k) with
      nf := fput (engine c.s (clusterOf c.k)).nf (c.f.dst.toNat - 0x20) (BitVec.ofNat 16 c.vb)
      tabMark := fdel (engine c.s (clusterOf c.k)).tabMark c.f.dst.toNat }) := if_neg (by simp [h])

/-- The load that TCT or TCFG sends. -/
def tableAccess (c : Ctx') (n : Nat) (l : List Nat) : Access :=
  { kind := .load, scratch := true, addr := BitVec.ofNat 64 c.ea32, locs := l, bytes := n, width := 2, dst := .tab c.f.dst.toNat, pc := c.a.pc }
theorem tableLoad_of {c : Ctx'} {n : Nat} {l : List Nat} {cs : CSet} (halign : c.ea32 % 16 = 0) (hset : csetOf c.s c.a = some cs)
    (hlocs : scratchLocs c.s cs none c.ea32 n false = some l) (hnamed : namedInEngine (engine c.s (clusterOf c.k)) c.f.dst.toNat = false)
    (hloading : tabLoading c.s c.a.uid c.f.dst.toNat = false) : tableLoad c n = .next (issueReq c.s c.k c.a (tableAccess c n l)) := by
  unfold tableLoad
  simp only [halign, hset, Option.bind_some, hlocs, hnamed, hloading]
  rfl

/-- A load without registers as its destination is one request, and its party's next sequence number. -/
theorem requested_issueReq {c : Ctx'} {acc : Access} {n : Nat} {u : State} {b : Agent} {q : Access → Prop}
    (heng : acc.eng = false) (hq : q acc) (hu : Only [] (issueReq c.s c.k c.a acc) u) (hb : b.core = { c.a with seq := c.a.seq + 1 }.core) :
    Requested c u b (.tab n) q := by
  refine ⟨_, hu .reqs (by simp), rfl, ?_, rfl, hq, ?_, core_fl (c := { c.a with seq := c.a.seq + 1 }) hb, ?_, ?_⟩
  · show { whoOf c.k c.a with engine := acc.eng } = whoOf c.k c.a
    rw [heng]
    rfl
  · exact ⟨core_sameV hb fun _ => rfl, core_sameX hb fun _ => rfl, core_sameP hb ⟨rfl, rfl, rfl⟩⟩
  · have hseq : b.core.seq = { c.a with seq := c.a.seq + 1 }.core.seq := by rw [hb]
    exact hseq
  · unfold Agent.bare
    rw [hb]
    rfl
theorem only_issueReq (s : State) (k : Nat) (a : Agent) (acc : Access) : Only [.ids, .reqs, .markers] s (issueReq s k a acc) := by
  intro p hp
  cases p <;> simp_all [Same, issueReq, freshId, group?, ctx?]

/-- What TCT and TCFG do, with their number of bytes. -/
theorem tableLoad_does {i : FormL → Instr} {o : Op} {n : Nat} {l : List Nat} {H : Ctx' → Prop} (hi : ∀ f s, exec (i f) s = issueL o f (tableLoad · n) s)
    (hH : ∀ c, H c → c.ea32 % 16 = 0 ∧ (∃ cs, csetOf c.s c.a = some cs ∧ scratchLocs c.s cs none c.ea32 n false = some l) ∧
      namedInEngine (engine c.s (clusterOf c.k)) c.f.dst.toNat = false ∧ tabLoading c.s c.a.uid c.f.dst.toNat = false) :
    Does i o H [.ids, .reqs, .markers] fun c u b => Requested c u b (.tab c.f.dst.toNat) fun q =>
      q.kind = .load ∧ q.scratch = true ∧ q.addr = BitVec.ofNat 64 c.ea32 ∧ q.locs = l ∧ q.bytes = n ∧ q.dst = .tab c.f.dst.toNat ∧ q.pc = c.a.pc := by
  refine doesL (tableLoad · n) hi fun c hhere hc => ?_
  obtain ⟨halign, ⟨cs, hset, hlocs⟩, hnamed, hloading⟩ := hH c hc
  refine ⟨_, _, tableLoad_of halign hset hlocs hnamed hloading, agent?_putAgent_same _ _ _, rfl, only_issueReq _ _ _ _, Others.putAgent _ _ _,
    fun u b hu hb => requested_issueReq rfl ⟨rfl, rfl, rfl, rfl, rfl, rfl, rfl⟩ hu hb⟩

/-! ### Waiting for the task's operations (R283) -/

/-- A task as it waits for its operations at a TWAIT or an ENDT: its region has ended. -/
def Agent.draining (a : Agent) (o : Op) (f : FormL) (len : Nat) : Agent :=
  if a.inst.isSome then a else { a.endRegion with inst := some (o, f, len) }
/-- Its state then. -/
def drainState (o : Op) (c : Ctx') : State := if c.a.inst.isSome then c.s else putAgent c.s c.k (c.a.draining o c.f c.len)

section
variable {c : Ctx'} {o : Op} {g : State → Go}

theorem agent?_drainState (hhere : agent? c.s c.k = some c.a) : agent? (drainState o c) c.k = some (c.a.draining o c.f c.len) := by
  unfold drainState
  split
  next h => rw [hhere, Agent.draining, if_pos h]
  next => exact agent?_putAgent_same ..
theorem putAgent_drainState (b : Agent) : putAgent (drainState o c) c.k b = putAgent c.s c.k b := by
  unfold drainState
  split
  · rfl
  · exact putAgent_putAgent ..
/-- Without a pending delivery a task's operations decide whether it waits. -/
theorem taskWait_eq (hhere : agent? c.s c.k = some c.a) (hpending : c.a.inst = none → c.a.pending = []) :
    taskWait c o g = if engineDone c.s c.a then g (drainState o c) else .wait (drainState o c) .retry := by
  unfold taskWait drainState
  cases hinst : c.a.inst with
  | some x => rfl
  | none =>
    simp only [delivering, hpending hinst, modAgent_some hhere, Agent.draining, hinst]
    rfl
theorem taskWait_pending {d : Delivery} {t : List Delivery} (hinst : c.a.inst = none) (hpending : c.a.pending = d :: t) : taskWait c o g =
    .freeze (putAgent c.s c.k { c.a with pending := t }) d.code { qid := d.qid, entry := d.entry, x0 := d.x0, other := true } := by
  unfold taskWait
  simp only [hinst, delivering, hpending]
  rfl

end

section
variable {c : Ctx'} {out : Out} (hhere : agent? c.s c.k = some c.a) (hout : out = .next (settle c.k c.a c.len (bodyTwait c)))
include hhere hout

/-- TWAIT of a task whose operations are done (R283). -/
theorem twait_done (hpending : c.a.inst = none → c.a.pending = []) (hdone : engineDone c.s c.a = true) : Moves c out [] fun _ b =>
    b.core = { c.a.core with inst := none } ∧ (c.a.inst = none → c.a.region < b.region) := by
  have hbody : bodyTwait c = .next (putAgent c.s c.k { (c.a.draining .twait c.f c.len) with inst := none }) := by
    unfold bodyTwait
    rw [taskWait_eq hhere hpending, if_pos hdone, modAgent_some (agent?_drainState hhere), putAgent_drainState]
  rw [hbody] at hout
  have hblk : ({ (c.a.draining .twait c.f c.len) with inst := none } : Agent).blk = c.a.blk := by unfold Agent.draining; split <;> rfl
  obtain ⟨u, b, hu, hpassed, honly, hothers, hcore⟩ := moves_settle (l := []) (P := fun _ b => b.core = { c.a.core with inst := none })
    hout (agent?_putAgent_same _ _ _) hblk (Only.putAgent _ _ _) (Others.putAgent _ _ _) fun u b _ hb => by
      rw [hb]
      unfold Agent.draining
      split <;> rfl
  refine ⟨u, b, hu, hpassed, honly, hothers, hcore, fun hinst => ?_⟩
  cases hout.symm.trans hu
  have hregion := settle_next_region (agent?_putAgent_same c.s c.k _) c.a c.len b hpassed.here
  have hended : (c.a.draining .twait c.f c.len).region = c.a.region + 1 := by
    unfold Agent.draining
    rw [hinst]
    rfl
  exact Nat.lt_of_lt_of_le (Nat.lt_succ_self _) (hended.symm.le.trans hregion)
/-- TWAIT of a task whose operations are not done: its first wait ends the region. -/
theorem twait_waits (hbusy : engineDone c.s c.a = false) :
    (c.a.inst = none → c.a.pending = [] → out =
      .next (putAgent c.s c.k { c.a with region := c.a.region + 1, inst := some (.twait, c.f, c.len), wait := .retry, age := 0, urgent := false })) ∧
    (c.a.inst.isSome = true → Waits c out .retry) := by
  have hwaits (hpending : c.a.inst = none → c.a.pending = []) :
      out = .next (putAgent c.s c.k { (c.a.draining .twait c.f c.len) with wait := .retry, age := 0, urgent := false }) := by
    rw [hout, bodyTwait, taskWait_eq hhere hpending, if_neg (by simp [hbusy]), settle, modAgent_some (agent?_drainState hhere), putAgent_drainState]
  refine ⟨fun hinst hpending => (hwaits fun _ => hpending).trans ?_, fun hinst => (hwaits fun hnone => ?_).trans ?_⟩
  · unfold Agent.draining
    rw [hinst]
    rfl
  · rw [hnone] at hinst
    cases hinst
  · unfold Agent.draining
    rw [if_pos hinst]

end

/-- The oldest pending delivery comes before any effect of a TWAIT (R239, R283). -/
theorem twait_pending {c : Ctx'} {out : Out} {d : Delivery} {t : List Delivery} (hout : out = .next (settle c.k c.a c.len (bodyTwait c)))
    (hinst : c.a.inst = none) (hpending : c.a.pending = d :: t) :
    Faults { c with a := { c.a with pending := t } } out d.code { qid := d.qid, entry := d.entry, x0 := d.x0, other := true } := by
  rw [hout, bodyTwait, taskWait_pending hinst hpending, settle]
  simp only [Bool.false_eq_true, if_false]
  rw [modAgent_some (agent?_putAgent_same _ _ _), putAgent_putAgent]
  rfl

/-! ### TFLG and TASKPUSH (R283, R284) -/

theorem tflg_does (q : Queue) : Does .tflg .tflg (fun c => c.a.kind = .task ∧ engineDone c.s c.a = true ∧ queue? c.s c.a.queue = some q)
    [.mem, .bases, .queues, .lines, .poison] (fun c u b =>
      queue? u c.a.queue = some { q with flags := q.flags &&& ~~~ BitVec.ofNat 5 (modBits c.f.mod 4 0) } ∧
      (∀ j, j ≠ c.a.queue → queue? u j = queue? c.s j) ∧ MemBut c.s u (deviceBytes c.s q.asid q.recVa.toNat 64) ∧
      WroteX c.a b c.f.dst.toNat q.flags.toNat ∧ SameV c.a b ∧ SameP c.a b ∧ b.fl = c.a.fl ∧ SameRest c.a b) := by
  refine doesL bodyTflg (fun _ _ => rfl) fun c hhere ⟨_, hdone, hq⟩ => ?_
  obtain ⟨honly, hagents, hqueues, -, hbut⟩ := setQueue_spec c.s c.a.queue { q with flags := q.flags &&& ~~~ BitVec.ofNat 5 (modBits c.f.mod 4 0) }
  have hthere := (hagents c.k).trans hhere
  obtain ⟨x, e⟩ := putX_rest c.a c.f.dst.toNat q.flags.toNat
  refine ⟨putAgent (setQueue c.s c.a.queue { q with flags := q.flags &&& ~~~ BitVec.ofNat 5 (modBits c.f.mod 4 0) }) c.k
    (c.a.putX c.f.dst.toNat q.flags.toNat), _, ?_, agent?_putAgent_same _ _ _, by rw [e], honly.trans (Only.putAgent _ _ _).of_nil,
    (Others.of_eq fun j _ => hagents j).trans (Others.putAgent _ _ _), fun u b hu hb => ⟨?_, fun j hj => ?_, ?_, core_wroteX hb (wroteX_putX _ _ _),
      core_sameV hb (sameV_putX _ _ _), core_sameP hb (by rw [e]; exact ⟨rfl, rfl, rfl⟩), (core_fl hb).trans (by rw [e]),
      core_sameRest hb (by rw [e]; rfl)⟩⟩
  · unfold bodyTflg
    simp only [hdone, hq, Bool.not_true, Bool.false_eq_true, if_false]
    exact congrArg Go.next (modAgent_some hthere _)
  · exact (congrArg (fget? · c.a.queue) (hu .queues (by simp))).trans ((hqueues _).trans (if_pos rfl))
  · exact (congrArg (fget? · j) (hu .queues (by simp))).trans ((hqueues j).trans (if_neg hj))
  · exact fun hok i hi => (congrArg (Memory.get · i) (hu .mem (by simp))).trans (hbut hok i hi)

theorem metaOf_eq (k : Nat) (a : Agent) (clk : Clock) :
    metaOf k a clk = { issuer := some (k, a.uid), group := if a.kind = .thread then some a.group else none, clk := clk } := by
  simp only [metaOf, beq_iff_eq]

section
variable {c : Ctx'} {out : Out} (hout : out = .next (settle c.k c.a c.len (bodyTaskpush c)))
include hout

theorem taskpush_misaligned (hhere : agent? c.s c.k = some c.a) (halign : c.ea % 64 ≠ 0) : Faults c out .misaligned { addr := BitVec.ofNat 64 c.ea } := by
  have hbody : bodyTaskpush c = .freeze c.s .misaligned { addr := BitVec.ofNat 64 c.ea } := if_pos (by simpa using halign)
  rw [hbody] at hout
  exact faults_settle hout rfl hhere
/-- TASKPUSH of a record that has been read is a push to the cluster set's TASK queue. -/
theorem taskpush_reads {ck r : Nat} {u : State} (halign : c.ea % 64 = 0) (hset : csetKey c.s c.a = some ck) (hread : readOnce c c.ea 64 = .inr (u, r)) :
    out = .next (settle c.k c.a c.len (pushOr c u (taskQkey ck) r
      { issuer := some (c.k, c.a.uid), group := if c.a.kind = .thread then some c.a.group else none } (some r))) := by
  have hbody : bodyTaskpush c = pushOr c u (taskQkey ck) r (metaOf c.k c.a []) (some r) := by
    unfold bodyTaskpush
    rw [if_neg (by simp [halign])]
    simp only [hread, hset]
  rw [hout, hbody, metaOf_eq]

end

section
variable {c : Ctx'} {out : Out} {u : State} {qk img : Nat} {m : EntryMeta} {q : Queue}

/-- A push to a queue that is DISABLED, or none, raises QUEUE_ERROR (R236). -/
theorem pushOr_disabled {read : Option Nat} (h : disabled u qk = true) : pushOr c u qk img m read = .freeze c.s .queueError {} := by
  unfold pushOr
  unfold disabled at h
  split at h
  · exact if_pos h
  · rfl
/-- A push of what the instruction has read, to a queue with room (R234). -/
theorem pushOr_read_moves {r n : Nat} (hout : out = .next (settle c.k c.a c.len (pushOr c u qk img m (some r))))
    (hthere : agent? u c.k = some { c.a with top := n }) (hq : queue? u qk = some q) (hstate : q.state ≠ .disabled) (hplace : q.inPlace)
    (hroom : q.full = false) : Moves { c with s := u, a := { c.a with top := n } } out [.mem, .bases, .queues, .lines, .poison] fun v b =>
      Pushed u v qk img m q ∧ b.core = { c.a.core with image := none } := by
  obtain ⟨hpushed, honly, hagents⟩ := pushEntry_spec hq hplace img m
  have hgo : pushOr c u qk img m (some r) = .next (putAgent (pushEntry u qk img m) c.k { c.a with top := n, image := none }) := by
    unfold pushOr
    simp only [hq, beq_eq_false_iff_ne.mpr hstate, hroom, Bool.false_eq_true, if_false, Option.isSome_some, if_true]
    exact congrArg Go.next (modAgent_some ((hagents c.k).trans hthere) _)
  rw [hgo] at hout
  obtain ⟨v, b, hv, hpassed, honly', hothers, hP⟩ := moves_settle (c := { c with s := u }) (l := [.mem, .bases, .queues, .lines, .poison])
    (P := fun v b => Pushed u v qk img m q ∧ b.core = { c.a.core with image := none }) hout (agent?_putAgent_same _ _ _) rfl
    (honly.trans (Only.putAgent _ _ _).of_nil) ((Others.of_eq fun j _ => hagents j).trans (Others.putAgent _ _ _)) fun v b hv hb =>
      ⟨hpushed.later (hv .mem (by simp)) (hv .queues (by simp)), hb⟩
  exact ⟨v, b, hv, ⟨hpassed.here, hpassed.pc.trans (advance_pc (a := { c.a with top := n }) (c := c.a) rfl _ _), hpassed.wait⟩, honly', hothers, hP⟩

end

end Sys2Proof.Machine
end

section
/-!
PROOF. The ends of tasks, threads and handlers (R106, R257, R285).
-/
namespace Sys2Proof.Machine

/-! ### The end of a task (R257, R285) -/

theorem fget?_fdel_same {α : Type} (n : Nat) : ∀ m : FMap α, fget? (fdel m n) n = none
  | [] => rfl
  | (k, v) :: t => by
    have ih := fget?_fdel_same n t
    unfold fdel at ih ⊢
    by_cases h : k = n
    · simp [h, ih]
    · simp [h, fget?, ih]

/-- A slot that is empty stays so, and the clusters do not change. -/
structure StaysEmpty (k : Nat) (s u : State) : Prop where
  empty : agent? s k = none → agent? u k = none
  clusters : u.clusters = s.clusters

section
variable {k : Nat} {s t u : State}

theorem StaysEmpty.refl (k : Nat) (s : State) : StaysEmpty k s s := ⟨id, rfl⟩
theorem StaysEmpty.trans (h : StaysEmpty k s t) (g : StaysEmpty k t u) : StaysEmpty k s u := ⟨g.empty ∘ h.empty, g.clusters.trans h.clusters⟩
theorem StaysEmpty.of_agents (h : u.agents = s.agents) (hclusters : u.clusters = s.clusters) : StaysEmpty k s u :=
  ⟨fun hk => (congrArg (fget? · k) h).trans hk, hclusters⟩
theorem StaysEmpty.putQueue (h : StaysEmpty k s t) (qk : Nat) (q : Queue) : StaysEmpty k s (putQueue t qk q) := h.trans (.of_agents rfl rfl)
theorem StaysEmpty.putDie (h : StaysEmpty k s t) (d : Nat) (x : Die) : StaysEmpty k s (putDie t d x) := h.trans (.of_agents rfl rfl)
theorem StaysEmpty.deviceWrite (h : StaysEmpty k s t) (asid va n v : Nat) : StaysEmpty k s (deviceWrite t asid va n v) := by
  obtain ⟨m, b, l, p, e⟩ := written_deviceWrite t asid va n v
  rw [e]
  exact h.trans (.of_agents rfl rfl)
theorem StaysEmpty.setQueue (h : StaysEmpty k s t) (qk : Nat) (q : Queue) : StaysEmpty k s (setQueue t qk q) := (h.putQueue qk q).deviceWrite ..
theorem StaysEmpty.modQueue (h : StaysEmpty k s t) (qk : Nat) (f : Queue → Queue) : StaysEmpty k s (modQueue t qk f) := by
  unfold Machine.modQueue
  split
  · exact h.setQueue ..
  · exact h
/-- A delivery finds a party where there is one. -/
theorem StaysEmpty.deliverTo (h : StaysEmpty k s t) (issuer : Option (Nat × Nat)) (d : Delivery) : StaysEmpty k s (deliverTo t issuer d) := by
  refine h.trans ?_
  unfold Machine.deliverTo
  split
  · exact .refl k t
  · rename_i j uid
    split
    · rename_i a hparty
      refine iteInduction (motive := StaysEmpty k t) (fun _ => .refl k t) fun _ => ⟨fun hk => ?_, rfl⟩
      have hj : k ≠ j := by
        rintro rfl
        simp [party?, hk] at hparty
      exact (agent?_putAgent_ne t _ hj).trans hk
    · unfold modSaved
      refine iteInduction (motive := fun o : Option State => StaysEmpty k t (o.getD t)) (fun _ => .of_agents rfl rfl) fun _ => ?_
      exact iteInduction (motive := fun o : Option State => StaysEmpty k t (o.getD t)) (fun _ => .of_agents rfl rfl) fun _ => .refl k t
theorem StaysEmpty.retireEntry (h : StaysEmpty k s t) (qk : Nat) (q : Queue) (x : Head) (code : Nat) : StaysEmpty k s (retireEntry t qk q x code) := by
  unfold Machine.retireEntry
  refine iteInduction (motive := StaysEmpty k s) (fun _ => .deliverTo ?_ _ _) fun _ => ?_
  all_goals exact iteInduction (motive := StaysEmpty k s) (fun _ => ((h.deviceWrite ..).setQueue ..).putDie ..) fun _ => (h.deviceWrite ..).setQueue ..
theorem StaysEmpty.flushTask (h : StaysEmpty k s t) (qk n : Nat) : StaysEmpty k s (flushTask t qk n) := by
  unfold Machine.flushTask
  split
  · exact h
  · exact iteInduction (motive := StaysEmpty k s) (fun _ => h) fun _ => ((h.deviceWrite ..).modQueue ..).deliverTo ..
theorem StaysEmpty.freeCSet (h : StaysEmpty k s t) (ck : Nat) : StaysEmpty k s (freeCSet t ck) := by
  unfold Machine.freeCSet
  split
  · exact iteInduction (motive := StaysEmpty k s) (fun _ => h.trans (.of_agents rfl rfl)) fun _ => h
  · exact iteInduction (motive := StaysEmpty k s) (fun _ => h.trans (.of_agents rfl rfl)) fun _ => h
  · exact h

end

/-- A task's control core and engine as its end leaves them, before its entry is DONE. -/
def freed (s : State) (k : Nat) (a : Agent) : State :=
  let t := sendMarkers s k
  putEngine { t with agents := fdel t.agents k, prods := t.prods.filter (·.uid != a.uid) } (clusterOf k)
    { engine t (clusterOf k) with ops := [], want := none, join := 0, cont := 0, barred := false }
/-- A task ends: its control core is free, and its engine holds no operation (R257). -/
theorem endTask_spec {s : State} {k : Nat} {a : Agent} (h : agent? s k = some a) (code : Nat) :
    agent? (endTask s k code) k = none ∧ (engine (endTask s k code) (clusterOf k)).ops = [] := by
  suffices hend : ∃ t, agent? t k = none ∧ (engine t (clusterOf k)).ops = [] ∧ StaysEmpty k t (endTask s k code) by
    obtain ⟨t, hempty, hops, hstays⟩ := hend
    exact ⟨hstays.empty hempty, (congrArg Engine.ops (engine_of_clusters hstays.clusters _)).trans hops⟩
  refine ⟨freed s k a, fget?_fdel_same _ _, congrArg Engine.ops (engine_putEngine_same _ _ _), ?_⟩
  unfold endTask
  simp only [h]
  split
  · exact .refl k _
  · split
    · exact .refl k _
    · have hretired (t : State) := (StaysEmpty.refl k t).retireEntry
      split
      · refine iteInduction (motive := StaysEmpty k _) (fun _ => hretired _ _ _ _ _) fun _ => .freeCSet ?_ _
        exact (hretired _ _ _ _ _).trans (foldl_keeps (R := StaysEmpty k) (.refl k) .trans (fun s n => (StaysEmpty.refl k s).flushTask _ n) _ _)
      · exact hretired _ _ _ _ _
theorem endTask_empties (s : State) (k code : Nat) : agent? (endTask s k code) k = none := by
  cases h : agent? s k with
  | none =>
    have hsame : endTask s k code = s := by unfold endTask; rw [h]
    rw [hsame]
    exact h
  | some a => exact (endTask_spec h code).1

/-! ### ENDT (R285) -/

/-- What an instruction that ends its party leaves, where the party is no thread. -/
theorem settle_ended {s : State} {k : Nat} {a : Agent} (hkind : a.kind ≠ .thread) (hempty : agent? s k = none) (len : Nat) :
    settle k a len (.ended s) = s := by
  have hcount : countIssue s a = s := if_pos (by simpa using hkind)
  simp only [settle, hcount]
  split
  · rfl
  · unfold chargeBudget modAgent
    rw [hempty]

section
variable {c : Ctx'}

/-- A settled party releases without waiting: its region ends (R213). -/
theorem releasing_drained {o : Op} {g : State → Agent → Go} (hhere : agent? c.s c.k = some c.a) (hsettled : Settled c) :
    releasing { c with s := drainState o c } g = g (putAgent c.s c.k (c.a.draining o c.f c.len).endRegion) (c.a.draining o c.f c.len).endRegion := by
  have hrelaxed : (c.a.draining o c.f c.len).relaxed = [] := by
    unfold Agent.draining
    split <;> exact hsettled.1
  have hmarkers : sendMarkers (drainState o c) c.k = putAgent c.s c.k (c.a.draining o c.f c.len) := by
    unfold sendMarkers
    rw [agent?_drainState hhere]
    simp only [hrelaxed, List.foldl_nil, putAgent_drainState]
    exact congrArg (putAgent c.s c.k) (by rw [← hrelaxed])
  have hperformed : allPerformed (putAgent c.s c.k (c.a.draining o c.f c.len)) c.a.uid = true := hsettled.2
  unfold releasing
  dsimp only
  rw [hmarkers, hperformed, agent?_putAgent_same, putAgent_putAgent]
  rfl

variable (hhere : agent? c.s c.k = some c.a) (hpending : c.a.inst = none → c.a.pending = []) (hdone : engineDone c.s c.a = true) (hsettled : Settled c)
include hhere hpending hdone hsettled

theorem endt_without_join (hjoin : (engine c.s (clusterOf c.k)).join = 0) : bodyEndt c =
    .ended (endTask (putAgent c.s c.k (c.a.draining .endt c.f c.len).endRegion) c.k (engine c.s (clusterOf c.k)).code) := by
  unfold bodyEndt
  rw [taskWait_eq hhere hpending, if_pos hdone, releasing_drained hhere hsettled]
  exact if_pos (by rw [show engine (putAgent c.s c.k _) (clusterOf c.k) = engine c.s (clusterOf c.k) from rfl, hjoin]; rfl)
theorem endt_misaligned (halign : (engine c.s (clusterOf c.k)).join.toNat % 8 ≠ 0) : bodyEndt c =
    .freeze (putAgent c.s c.k (c.a.draining .endt c.f c.len).endRegion) .misaligned { addr := (engine c.s (clusterOf c.k)).join } := by
  have hjoin : ((engine c.s (clusterOf c.k)).join.toNat == 0) = false := beq_eq_false_iff_ne.mpr fun h => halign (by rw [h])
  unfold bodyEndt
  rw [taskWait_eq hhere hpending, if_pos hdone, releasing_drained hhere hsettled]
  exact (if_neg (by rw [Bool.not_eq_true]; exact hjoin)).trans (if_pos (bne_iff_ne.mpr halign))
/-- The last step of a join that leaves others to come, or no continuation: JOIN is decremented once, and the task ends (R285). -/
theorem endt_decrements {pa home leaf v : Nat} {t u : State} {po r : Bool} {dec : Access} {a' : Agent} (ha : a' = (c.a.draining .endt c.f c.len).endRegion)
    (hdec : dec = { kind := .rmw, scratch := false, addr := (engine c.s (clusterOf c.k)).join, locs := [], bytes := 8, op := 0, data := 2 ^ 64 - 1, width := 3,
                    order := 4, scope := 5, pc := c.a.pc })
    (hjoin : (engine c.s (clusterOf c.k)).join ≠ 0) (halign : (engine c.s (clusterOf c.k)).join.toNat % 8 = 0)
    (hloc : locate (putAgent c.s c.k a') (placeOf c.k a') a'.tasid (engine c.s (clusterOf c.k)).join.toNat .rmw 8 = .at_ pa home leaf t)
    (hpkg : paPkg pa < 240) (hcross : crossNow (putAgent c.s c.k a') (whoOf c.k a') dec home = true) (hold : readPhys t pa 8 ≠ 0)
    (hlast : readPhys t pa 8 ≠ 1 ∨ (engine c.s (clusterOf c.k)).cont = 0)
    (hperform : performPhys (invalidateFor t pa none) (whoOf c.k a') dec a'.seq pa home leaf = .done u v po r) :
    bodyEndt c = .ended (endTask u c.k (engine c.s (clusterOf c.k)).code) := by
  have hnonzero : ((engine c.s (clusterOf c.k)).join.toNat == 0) = false :=
    beq_eq_false_iff_ne.mpr fun h => hjoin (BitVec.eq_of_toNat_eq h)
  have hpc : a'.pc = c.a.pc := by
    rw [ha]
    unfold Agent.draining
    split <;> rfl
  have hnolast : (readPhys t pa 8 == 1 && (engine c.s (clusterOf c.k)).cont != 0) = false := by
    rcases hlast with h | h <;> simp [h]
  unfold bodyEndt
  rw [taskWait_eq hhere hpending, if_pos hdone, releasing_drained hhere hsettled, ← ha]
  dsimp only
  rw [show engine (putAgent c.s c.k a') (clusterOf c.k) = engine c.s (clusterOf c.k) from rfl]
  simp only [hnonzero, halign, hloc, hpc, show ¬ paPkg pa ≥ 240 by omega, beq_eq_false_iff_ne.mpr hold, hnolast, bne_self_eq_false, Bool.false_eq_true, if_false,
    ← hdec, hcross, hperform, Bool.not_true]

end

end Sys2Proof.Machine
end

section
/-!
PROOF. EXIT (R106), and the group of a thread that has ended.
-/
namespace Sys2Proof.Machine

/-! ### A due barrier phase, beside the thread that has ended (R217) -/

section
variable {s : State} {k : Nat} {a : Agent}

theorem finishWait_bystanders (s : State) (k : Nat) (p : Option Bool) (c : Clock) : Only [] s (finishWait s k p c) ∧ Bystanders [k] s (finishWait s k p c) := by
  cases h : agent? s k with
  | none =>
    have hsame : finishWait s k p c = s := by unfold finishWait; rw [h]
    rw [hsame]
    exact ⟨Only.refl _ _, .of_eq fun _ _ => rfl⟩
  | some a =>
    cases hinst : a.inst with
    | none =>
      have hsame : finishWait s k p c = s := by unfold finishWait; simp only [h, hinst]
      rw [hsame]
      exact ⟨Only.refl _ _, .of_eq fun _ _ => rfl⟩
    | some i =>
      obtain ⟨o, f, len⟩ := i
      have hfinish : finishWait s k p c = settle k a len (.next (putAgent s k (a.resumed f p c))) := by
        unfold finishWait
        simp only [h, hinst]
        cases p <;> rfl
      rw [hfinish]
      obtain ⟨honly, -, -⟩ := settle_next_spec (agent?_putAgent_same s k (a.resumed f p c)) a len
      exact ⟨(Only.putAgent _ _ _).trans honly, (Bystanders.putAgent _ _ _).trans (settle_next_bystanders (agent?_putAgent_same _ _ _) a len)⟩
/-- The waits of listed parties at the barrier are over. -/
def passAll (clk : Clock) (l : List Nat) (s : State) : State :=
  l.foldl (fun s j => finishWait (modAgent s j fun a => { a with bar := .none }) j none clk) s
/-- Only these parties change. -/
theorem passAll_bystanders (clk : Clock) : ∀ (l : List Nat) (s : State),
    Only [] s (passAll clk l s) ∧
    Bystanders l s (passAll clk l s)
  | [], s => ⟨Only.refl _ _, .of_eq fun _ _ => rfl⟩
  | j :: l, s => by
    obtain ⟨honly, hby⟩ := finishWait_bystanders (modAgent s j fun a => { a with bar := .none }) j none clk
    obtain ⟨honly', hby'⟩ := passAll_bystanders clk l (finishWait (modAgent s j fun a => { a with bar := .none }) j none clk)
    exact ⟨((Only.modAgent _ _ _).trans honly).trans honly',
      (((Bystanders.modAgent _ _ _).trans hby).mono (by simp)).trans (hby'.mono fun _ => List.mem_cons_of_mem _)⟩

/-- A thread as a completing phase leaves it. -/
def Agent.phased (g : Nat) (clk : Clock) (a : Agent) : Agent :=
  if a.kind == .thread && a.group == g && a.bar == .arrived then { a with bar := .passed, barClk := clk } else a

theorem phased_eq (g : Nat) (clk : Clock) (a : Agent) : ∃ bar c, a.phased g clk = { a with bar := bar, barClk := c } := by
  unfold Agent.phased
  split
  · exact ⟨_, _, rfl⟩
  · exact ⟨a.bar, a.barClk, rfl⟩
/-- A group counts a phase. -/
def countPhase (s : State) (g : Nat) : State :=
  match group? s g with
  | some x => putGroup s g { x with phases := x.phases + 1 }
  | none => s
/-- A phase's parties and its count, before those that wait go on. -/
def phaseState (s : State) (g : Nat) (clk : Clock) : State := countPhase { s with agents := s.agents.map fun p => (p.1, p.2.phased g clk) } g
/-- What the arrivals of a phase have released. -/
def phaseClock (s : State) (g : Nat) : Clock := ((groupAgents s g).filter fun p => p.2.bar == .arrived).foldl (fun c p => cmax c p.2.barClk) []
/-- The parties of a group that wait at its barrier. -/
def barWaiters (s : State) (g : Nat) : List Nat := ((groupAgents s g).filter fun p => p.2.wait == .barrier).map (·.1)
theorem agent?_phaseState (s : State) (g : Nat) (clk : Clock) (j : Nat) : agent? (phaseState s g clk) j = (agent? s j).map (·.phased g clk) := by
  have hmap := fget?_map (fun _ (a : Agent) => a.phased g clk) s.agents j
  unfold phaseState countPhase
  split <;> exact hmap
theorem only_phaseState (s : State) (g : Nat) (clk : Clock) : Only [.groups] s (phaseState s g clk) := by
  intro p hp
  unfold phaseState countPhase
  split <;> cases p <;> simp_all [Same, putGroup, ctx?]
theorem group?_phaseState (s : State) (g : Nat) (clk : Clock) {n : Nat} {x : Group} (h : group? s n = some x) :
    ∃ y, group? (phaseState s g clk) n = some y ∧ y.state = x.state := by
  unfold phaseState countPhase
  split
  next z hz =>
    by_cases hn : n = g
    · subst hn
      cases h.symm.trans hz
      exact ⟨_, group?_putGroup_same .., rfl⟩
    · exact ⟨x, (fget?_fput_ne _ _ hn).trans h, rfl⟩
  next => exact ⟨x, h, rfl⟩
/-- A group whose state two states agree on but for what it has issued. -/
theorem state_of_same {t u : State} (h : Same t u .groups) {n : Nat} {x : Group} (hx : group? t n = some x) : ∃ y, group? u n = some y ∧ y.state = x.state := by
  have hread := h n
  rw [hx] at hread
  obtain ⟨y, hy, e⟩ := Option.map_eq_some_iff.mp hread
  have hstate : y.fixed.state = x.fixed.state := by rw [e]
  exact ⟨y, hy, hstate⟩

theorem barPhase_due {g : Nat} (h : phaseDue s g = true) :
    barPhase s g = passAll (phaseClock s g) (barWaiters s g) (phaseState s g (phaseClock s g)) := by
  have hmap : (s.agents.map fun (k, a) => if a.kind == .thread && a.group == g && a.bar == .arrived then
      (k, { a with bar := .passed, barClk := phaseClock s g }) else (k, a)) = s.agents.map fun p => (p.1, p.2.phased g (phaseClock s g)) := by
    refine List.map_congr_left fun p _ => ?_
    obtain ⟨k, a⟩ := p
    dsimp only [Agent.phased]
    split <;> rfl
  have hdue : ¬ (!phaseDue s g) = true := by simp [h]
  unfold barPhase phaseState
  rw [if_neg hdue, ← hmap]
  rfl
/-- A phase leaves a party that does not wait at the barrier all but its part in the phase, and a group all but its count of phases. -/
theorem barPhase_spec (h : agent? s k = some a) (hwait : ∀ b, (k, b) ∈ s.agents → b.wait ≠ .barrier) (g : Nat) : Only [.groups] s (barPhase s g) ∧
    (∃ b bar clk, agent? (barPhase s g) k = some b ∧ b.uncapped = { a with bar := bar, barClk := clk }.uncapped) ∧
    ∀ n x, group? s n = some x → ∃ y, group? (barPhase s g) n = some y ∧ y.state = x.state := by
  cases hdue : phaseDue s g with
  | false =>
    have hsame : barPhase s g = s := if_pos (by simp [hdue])
    rw [hsame]
    exact ⟨Only.refl _ _, ⟨a, a.bar, a.barClk, h, rfl⟩, fun n x hx => ⟨x, hx, rfl⟩⟩
  | true =>
    rw [barPhase_due hdue]
    generalize phaseClock s g = clk
    obtain ⟨honly, hby⟩ := passAll_bystanders clk (barWaiters s g) (phaseState s g clk)
    have hk : k ∉ barWaiters s g := by
      intro hmem
      obtain ⟨p, hp, rfl⟩ := List.mem_map.mp hmem
      obtain ⟨hp, hbarrier⟩ := List.mem_filter.mp hp
      exact hwait p.2 (List.mem_filter.mp hp).1 (beq_iff_eq.mp hbarrier)
    have hthere := agent?_phaseState s g clk k
    rw [h, Option.map_some] at hthere
    obtain ⟨bar, c, hphased⟩ := phased_eq g clk a
    obtain ⟨b, hb, hcap⟩ := hby.some hk hthere
    refine ⟨(only_phaseState s g clk).trans honly.of_nil, ⟨b, bar, c, hb, by rw [hcap, hphased]⟩, fun n x hx => ?_⟩
    obtain ⟨y, hy, hstate⟩ := group?_phaseState s g clk hx
    obtain ⟨z, hz, hstate'⟩ := state_of_same (honly .groups (by simp)) hy
    exact ⟨z, hz, hstate'.trans hstate⟩

end

/-! ### The end of a thread (R106, R161) -/

/-- A thread that has ended. -/
def Agent.ended (a : Agent) : Agent :=
  { a.endRegion with state := .exited, wait := .none, inst := none, pending := [], refused := [], sfault := none, record := none }
/-- The state with the thread ended, before its group looks at it. -/
def exitState (s : State) (k : Nat) (a : Agent) : State :=
  { putAgent s k a.ended with lists := s.lists.map fun p => (p.1, { p.2 with takers := p.2.takers.filter (· != a.uid) }) }
/-- A group whose threads have all ended retires, and its kernel with its last one (R161). -/
def settleGroup (s : State) (n : Nat) : State :=
  if (groupAgents s n).any fun p => p.2.state != .exited then s else
  match group? s n with
  | none => s
  | some g =>
    let s := putGroup s n { g with state := .retiring }
    match kernel? s g.kernel with
    | some x =>
      if x.state == .running && (kernelGroups s g.kernel).all (fun p => p.2.state == .retiring) then putKernel s g.kernel { x with state := .retiring } else s
    | none => s
theorem endThread_eq {s : State} {k : Nat} {a : Agent} (h : agent? s k = some a) :
    endThread s k = settleGroup (barPhase (exitState s k a) a.group) a.group := by
  unfold endThread
  rw [h]
  rfl

theorem mem_fput {α : Type} {m : FMap α} {n j : Nat} {x y z : α} (hkeys : (m.map (·.1)).Nodup) (hn : fget? m n = some y) (h : (j, z) ∈ fput m n x) :
    (j = n ∧ z = x) ∨ (j ≠ n ∧ (j, z) ∈ m) := by
  induction m with
  | nil => cases hn
  | cons p t ih =>
    obtain ⟨k, v⟩ := p
    obtain ⟨hk, hkeys⟩ := List.nodup_cons.mp hkeys
    simp only [fget?, beq_iff_eq] at hn
    by_cases hkn : k = n
    · subst hkn
      simp only [fput, Nat.lt_irrefl, if_false, beq_self_eq_true, if_true, List.mem_cons] at h
      rcases h with h | h
      · exact .inl (by simpa using h)
      · exact .inr ⟨fun hj => hk (List.mem_map.mpr ⟨(j, z), h, hj⟩), List.mem_cons_of_mem _ h⟩
    · rw [if_neg hkn] at hn
      by_cases hlt : n < k
      · rw [if_pos hlt] at hn; cases hn
      · rw [if_neg hlt] at hn
        simp only [fput, hlt, if_false, beq_eq_false_iff_ne.mpr (Ne.symm hkn), Bool.false_eq_true, List.mem_cons] at h
        rcases h with h | h
        · obtain ⟨rfl, rfl⟩ : j = k ∧ z = v := by simpa using h
          exact .inr ⟨hkn, List.mem_cons_self⟩
        · exact (ih hkeys hn h).imp_right fun ⟨hj, hmem⟩ => ⟨hj, List.mem_cons_of_mem _ hmem⟩

section
variable {s : State} {k : Nat} {a : Agent}

theorem only_exitState (s : State) (k : Nat) (a : Agent) : Only [.lists] s (exitState s k a) := by
  intro p hp
  cases p <;> simp_all [Same, exitState, group?, ctx?]
theorem agent?_settleGroup (s : State) (n j : Nat) : agent? (settleGroup s n) j = agent? s j := by
  unfold settleGroup
  refine iteInduction (motive := fun t => agent? t j = agent? s j) (fun _ => rfl) fun _ => ?_
  split
  · rfl
  · dsimp only
    split
    · exact iteInduction (motive := fun t => agent? t j = agent? s j) (fun _ => rfl) fun _ => rfl
    · rfl
theorem only_settleGroup (s : State) (n : Nat) : Only [.groups, .kernels] s (settleGroup s n) := by
  have hput (g : Group) : Only [.groups, .kernels] s (putGroup s n g) := by
    intro p hp
    cases p <;> simp_all [Same, putGroup, ctx?]
  have hkernel (t : State) (j : Nat) (x : Kernel) : Only [.groups, .kernels] t (putKernel t j x) := by
    intro p hp
    cases p <;> simp_all [Same, putKernel, ctx?]
  unfold settleGroup
  refine iteInduction (motive := Only [.groups, .kernels] s) (fun _ => Only.refl _ _) fun _ => ?_
  split
  · exact Only.refl _ _
  · dsimp only
    split
    · exact iteInduction (motive := Only [.groups, .kernels] s) (fun _ => (hput _).trans (hkernel _ _ _)) fun _ => hput _
    · exact hput _
theorem group?_settleGroup {n : Nat} {g : Group} (h : group? s n = some g) : ∃ x, group? (settleGroup s n) n = some x ∧
    (x.state = .retiring ∨ x.state = g.state) ∧ (((groupAgents s n).any fun p => p.2.state != .exited) = false → x.state = .retiring) := by
  unfold settleGroup
  by_cases hlive : ((groupAgents s n).any fun p => p.2.state != .exited) = true
  · rw [if_pos hlive]
    exact ⟨g, h, .inr rfl, fun hnone => by rw [hlive] at hnone; cases hnone⟩
  · rw [if_neg hlive, h]
    have hretired : ∃ x, group? (putGroup s n { g with state := .retiring }) n = some x ∧ (x.state = .retiring ∨ x.state = g.state) ∧
        (((groupAgents s n).any fun p => p.2.state != .exited) = false → x.state = .retiring) :=
      ⟨_, group?_putGroup_same _ _ _, .inl rfl, fun _ => rfl⟩
    dsimp only
    split
    · exact iteInduction (motive := fun t => ∃ x, group? t n = some x ∧ (x.state = .retiring ∨ x.state = g.state) ∧
        (((groupAgents s n).any fun p => p.2.state != .exited) = false → x.state = .retiring)) (fun _ => hretired) fun _ => hretired
    · exact hretired

/-- A thread ends (R106, R161): it is EXITED with its registers as they were, and its group is RETIRING when it was the last. -/
theorem endThread_spec (h : agent? s k = some a) (hkeys : (s.agents.map (·.1)).Nodup) :
    Only [.groups, .lists, .kernels] s (endThread s k) ∧
    (∃ b, agent? (endThread s k) k = some b ∧ b.state = .exited ∧ b.wait = .none ∧ SameV a b ∧ SameX a b ∧ SameP a b) ∧
    ∀ g, group? s a.group = some g → ∃ x, group? (endThread s k) a.group = some x ∧ (x.state = .retiring ∨ x.state = g.state) ∧
      ((∀ j b, (j, b) ∈ s.agents → b.kind = .thread → b.group = a.group → b.state = .exited ∨ j = k) → x.state = .retiring) := by
  have hmem {j : Nat} {b : Agent} (hb : (j, b) ∈ (exitState s k a).agents) : (j = k ∧ b = a.ended) ∨ (j ≠ k ∧ (j, b) ∈ s.agents) := mem_fput hkeys h hb
  have hthere : agent? (exitState s k a) k = some a.ended := agent?_putAgent_same s k _
  have hwait (b : Agent) (hb : (k, b) ∈ (exitState s k a).agents) : b.wait ≠ .barrier := by
    obtain ⟨-, rfl⟩ | ⟨hne, -⟩ := hmem hb
    · exact fun hbad => by cases hbad
    · exact absurd rfl hne
  obtain ⟨honly, ⟨b, bar, clk, hb, e⟩, hgroups⟩ := barPhase_spec hthere hwait a.group
  rw [endThread_eq h]
  refine ⟨?_, ⟨b, (agent?_settleGroup _ _ _).trans hb, ?_, uncapped_wait e, ?_, ?_, ?_⟩, fun g hg => ?_⟩
  · exact (((only_exitState s k a).mono (by simp)).trans (honly.mono (by simp))).trans ((only_settleGroup _ _).mono (by simp))
  · have hstate : b.uncapped.state = { a.ended with bar := bar, barClk := clk }.uncapped.state := by rw [e]
    exact hstate
  · exact core_sameV (uncapped_core e) fun _ => rfl
  · exact core_sameX (uncapped_core e) fun _ => rfl
  · exact core_sameP (uncapped_core e) ⟨rfl, rfl, rfl⟩
  · obtain ⟨y, hy, hstate⟩ := hgroups a.group g hg
    obtain ⟨x, hx, hkept, hlast⟩ := group?_settleGroup hy
    refine ⟨x, hx, hstate ▸ hkept, fun hothers => hlast ?_⟩
    have hexited : ∀ p ∈ groupAgents (exitState s k a) a.group, p.2.state = .exited := by
      intro p hp
      obtain ⟨hp, hthread⟩ := List.mem_filter.mp hp
      obtain ⟨hkind, hgroup⟩ := Bool.and_eq_true_iff.mp hthread
      obtain ⟨-, hended⟩ | ⟨hne, hp⟩ := hmem (j := p.1) (b := p.2) hp
      · rw [hended]; rfl
      · exact (hothers p.1 p.2 hp (beq_iff_eq.mp hkind) (beq_iff_eq.mp hgroup)).resolve_right hne
    have hphase : barPhase (exitState s k a) a.group = exitState s k a := by
      have hnone : ((groupAgents (exitState s k a) a.group).filter fun p => p.2.state != .exited) = [] :=
        List.filter_eq_nil_iff.mpr fun p hp => by simp [hexited p hp]
      have hdue : phaseDue (exitState s k a) a.group = false := by
        show (!((groupAgents (exitState s k a) a.group).filter fun p => p.2.state != .exited).isEmpty && _) = false
        rw [hnone]
        rfl
      exact if_pos (by simp [hdue])
    rw [hphase]
    exact List.any_eq_false.mpr fun p hp => by simp [hexited p hp]

end

/-! ### EXIT (R106) -/

section
variable {c : Ctx'} {out : Out} (hhere : agent? c.s c.k = some c.a) (hout : out = .next (settle c.k c.a c.len (bodyExit c)))

theorem producing_iff (s : State) (uid : Nat) : producing s uid = true ↔ (∃ p ∈ s.prods, p.uid = uid) ∨
    ∃ r ∈ s.reqs, r.who.uid = uid ∧ (r.acc.kind = .load ∨ (r.acc.kind = .rmw ∧ r.acc.dst ≠ .none)) := by
  have hloads : loadsOut s uid = true ↔ ∃ r ∈ s.reqs, r.who.uid = uid ∧ (r.acc.kind = .load ∨ (r.acc.kind = .rmw ∧ r.acc.dst ≠ .none)) := by
    unfold loadsOut
    rw [List.any_eq_true]
    refine exists_congr fun r => and_congr_right fun _ => ?_
    rw [Bool.and_eq_true, beq_iff_eq]
    refine and_congr_right fun _ => ?_
    cases r.acc.kind <;> simp
  unfold producing
  rw [Bool.or_eq_true, prodsOut_iff, hloads]

/-- An instruction whose own execution waits, leaving nothing changed. -/
theorem waits_settle {w : Wait} {g : Go} (hhere : agent? c.s c.k = some c.a) (hout : out = .next (settle c.k c.a c.len g)) (hg : g = .wait c.s w) :
    Waits c out w := by
  rw [hout, hg, settle, modAgent_some hhere]
  rfl

theorem agent?_invalidate {s : State} {k : Nat} {a : Agent} (h : agent? s k = some a) (t : Target) :
    ∃ b, agent? (invalidate s t) k = some b ∧ b.uncapped = a.uncapped :=
  ⟨_, (agent?_updateCaps _ _ _ _).trans (congrArg (Option.map _) h), rfl⟩
/-- What an instruction that ends its party leaves of a party that is there still: all but its capabilities. -/
theorem settle_ended_spec {t : State} {k : Nat} {b : Agent} (h : agent? t k = some b) (a : Agent) (len : Nat) :
    Only [] t (settle k a len (.ended t)) ∧ ∃ d, agent? (settle k a len (.ended t)) k = some d ∧ d.uncapped = b.uncapped := by
  have hthere : agent? (countIssue t a) k = some b := (agent?_countIssue _ _ _).trans h
  simp only [settle]
  split
  · exact ⟨Only.countIssue _ _, b, hthere, rfl⟩
  · exact ⟨(Only.countIssue _ _).trans (Only.modAgent _ _ _), _, (agent?_modAgent_same _ _ _).trans (congrArg (Option.map _) hthere), rfl⟩
theorem invalidate_agents (s : State) (t : Target) {j : Nat} {b : Agent} (h : (j, b) ∈ (invalidate s t).agents) :
    ∃ a, (j, a) ∈ s.agents ∧ b.uncapped = a.uncapped := by
  obtain ⟨p, hp, e⟩ := List.mem_map.mp h
  obtain ⟨rfl, rfl⟩ : p.1 = j ∧ _ = b := by simpa using e
  exact ⟨p.2, hp, rfl⟩
theorem invalidate_keys (s : State) (t : Target) : (invalidate s t).agents.map (·.1) = s.agents.map (·.1) := by
  simp [invalidate, updateCaps, Function.comp_def]

include hhere hout

theorem exit_waits (hbusy : producing c.s c.a.uid = true) : Waits c out .retry := waits_settle hhere hout (if_pos hbusy)

section
variable (hidle : producing c.s c.a.uid = false)
include hidle

/-- EXIT of a thread (R106). -/
theorem exit_thread (hkind : c.a.kind = .thread) (hkeys : (c.s.agents.map (·.1)).Nodup) : ∃ u b, out = .next u ∧ agent? u c.k = some b ∧
    b.state = .exited ∧ b.wait = .none ∧ SameV c.a b ∧ SameX c.a b ∧ SameP c.a b ∧ Only [.groups, .lists, .kernels] c.s u ∧
    ∀ g, group? c.s c.a.group = some g → ∃ h, group? u c.a.group = some h ∧ (h.state = .retiring ∨ h.state = g.state) ∧
      ((∀ j b, (j, b) ∈ c.s.agents → b.kind = .thread → b.group = c.a.group → b.state = .exited ∨ j = c.k) → h.state = .retiring) := by
  have hbody : bodyExit c = .ended (endThread (invalidate c.s (.agent c.k c.a.uid)) c.k) := by
    unfold bodyExit
    simp only [hidle, hkind, Bool.false_eq_true, if_false]
  obtain ⟨a', ha', e'⟩ := agent?_invalidate hhere (.agent c.k c.a.uid)
  have hgroup : a'.group = c.a.group := by
    have heq : a'.uncapped.group = c.a.uncapped.group := by rw [e']
    exact heq
  obtain ⟨honly, ⟨b, hb, hstate, hwait, hv, hx, hp⟩, hgroups⟩ := endThread_spec ha' (by rw [invalidate_keys]; exact hkeys)
  obtain ⟨hsettled, d, hd, e⟩ := settle_ended_spec hb c.a c.len
  rw [hbody] at hout
  refine ⟨_, d, hout, hd, ?_, (uncapped_wait e).trans hwait, ?_, ?_, ?_, ?_, fun g hg => ?_⟩
  · have heq : d.uncapped.state = b.uncapped.state := by rw [e]
    exact heq.trans hstate
  · exact core_sameV (uncapped_core e) fun m => (hv m).trans (core_vcell (uncapped_core e') m)
  · exact core_sameX (uncapped_core e) fun m => (hx m).trans (core_xcell (uncapped_core e') m)
  · obtain ⟨h1, h2, h3⟩ := hp
    exact core_sameP (uncapped_core e) ⟨h1.trans (core_preds (uncapped_core e')), h2.trans (core_pfull (uncapped_core e')), h3.trans (core_ppoison (uncapped_core e'))⟩
  · exact (((Only.updateCaps _ _ _).of_nil.trans honly).trans hsettled.of_nil)
  · obtain ⟨x, hx, hkept, hlast⟩ := hgroups g (hgroup ▸ hg)
    rw [hgroup] at hx
    obtain ⟨y, hy, hsame⟩ := state_of_same (hsettled .groups (by simp)) hx
    refine ⟨y, hy, hsame ▸ hkept, fun hothers => hsame.trans (hlast fun j b hmem hbkind hbgroup => ?_)⟩
    obtain ⟨b', hmem', eb⟩ := invalidate_agents _ _ hmem
    have hk : b.uncapped.kind = b'.uncapped.kind := by rw [eb]
    have hgr : b.uncapped.group = b'.uncapped.group := by rw [eb]
    have hst : b.uncapped.state = b'.uncapped.state := by rw [eb]
    exact (hothers j b' hmem' (hk.symm.trans hbkind) (hgr.symm.trans (hbgroup.trans hgroup))).imp_left hst.trans
/-- EXIT of a handler thread: its slot is EMPTY (R346). -/
theorem exit_handler (hkind : c.a.kind = .handler) : ∃ u, out = .next u ∧ agent? u c.k = none := by
  have hbody : bodyExit c = .ended (endHandler c.s c.k) := by
    unfold bodyExit
    simp only [hidle, hkind, Bool.false_eq_true, if_false]
  have hempty : agent? (endHandler c.s c.k) c.k = none := by
    unfold endHandler
    rw [hhere]
    exact fget?_fdel_same _ _
  rw [hbody, settle_ended (by rw [hkind]; decide) hempty] at hout
  exact ⟨_, hout, hempty⟩
/-- EXIT on the control core ends the task (R106, R257). -/
theorem exit_task (hkind : c.a.kind = .task) (hdone : engineDone c.s c.a = true) : ∃ u, out = .next u ∧ agent? u c.k = none ∧ (engine u (clusterOf c.k)).ops = [] := by
  have hbody : bodyExit c = .ended (endTask (invalidate c.s (.agent c.k c.a.uid)) c.k (engine c.s (clusterOf c.k)).code) := by
    unfold bodyExit
    simp only [hidle, hkind, hdone, Bool.not_true, Bool.false_eq_true, if_false]
  obtain ⟨a', ha', -⟩ := agent?_invalidate hhere (.agent c.k c.a.uid)
  obtain ⟨hempty, hops⟩ := endTask_spec ha' (engine c.s (clusterOf c.k)).code
  rw [hbody, settle_ended (by rw [hkind]; decide) hempty] at hout
  exact ⟨_, hout, hempty, hops⟩

end

end

end Sys2Proof.Machine
end

section
/-!
PROOF. The task instructions and EXIT together (R106, R275, R278, R283 to R285).
-/
namespace Sys2Proof.Machine

/-- A draining task's end of region at its ENDT, as the statement writes it. -/
theorem draining_endt (a : Agent) (f : FormL) (len : Nat) : (a.draining .endt f len).endRegion =
    if a.inst.isSome then { a with region := a.region + 1 } else { a with region := a.region + 2, inst := some (.endt, f, len) } := by
  unfold Agent.draining
  split <;> rfl

/-- ENDT of a task with nothing outstanding (R285). -/
theorem endt_ends {c : Ctx'} {out : Out} (hhere : agent? c.s c.k = some c.a) (hkind : c.a.kind = .task)
    (hout : out = .next (settle c.k c.a c.len (bodyEndt c))) (hpending : c.a.inst = none → c.a.pending = []) (hdone : engineDone c.s c.a = true)
    (hsettled : Settled c) {a' : Agent} (ha : a' = (c.a.draining .endt c.f c.len).endRegion) :
    let e := engine c.s (clusterOf c.k)
    let s' := putAgent c.s c.k a'
    let decrement : Access := { kind := .rmw, scratch := false, addr := e.join, locs := [], bytes := 8, op := 0, data := 2 ^ 64 - 1, width := 3,
                                order := 4, scope := 5, pc := c.a.pc }
    (e.join = 0 → out = .next (endTask s' c.k e.code) ∧ agent? (endTask s' c.k e.code) c.k = none ∧
      (engine (endTask s' c.k e.code) (clusterOf c.k)).ops = []) ∧
    (e.join.toNat % 8 ≠ 0 → Faults { c with a := a' } out .misaligned { addr := e.join }) ∧
    (∀ pa home leaf t, e.join ≠ 0 → e.join.toNat % 8 = 0 → locate s' (placeOf c.k a') a'.tasid e.join.toNat .rmw 8 = .at_ pa home leaf t →
      paPkg pa < 240 → crossNow s' (whoOf c.k a') decrement home = true →
      let old := readPhys t pa 8
      old ≠ 0 → (old ≠ 1 ∨ e.cont = 0) → ∀ u v po r,
        performPhys (invalidateFor t pa none) (whoOf c.k a') decrement a'.seq pa home leaf = .done u v po r → out = .next (endTask u c.k e.code)) := by
  intro e s' decrement
  have hnothread : c.a.kind ≠ .thread := by rw [hkind]; decide
  refine ⟨fun hjoin => ?_, fun halign => ?_, fun pa home leaf t hjoin halign hloc hpkg hcross => ?_⟩
  · obtain ⟨hempty, hops⟩ := endTask_spec (agent?_putAgent_same c.s c.k a') e.code
    rw [endt_without_join hhere hpending hdone hsettled hjoin, ← ha, settle_ended hnothread hempty] at hout
    exact ⟨hout, hempty, hops⟩
  · rw [endt_misaligned hhere hpending hdone hsettled halign, ← ha, settle] at hout
    simp only [Bool.false_eq_true, if_false] at hout
    rw [modAgent_some (agent?_putAgent_same _ _ _), putAgent_putAgent] at hout
    exact hout
  · intro old hold hlast u v po r hperform
    rw [endt_decrements hhere hpending hdone hsettled ha rfl hjoin halign hloc hpkg hcross hold hlast hperform,
      settle_ended hnothread (endTask_empties _ _ _)] at hout
    exact hout

/-- Settles O46: each instruction by the lemma about its own execution. -/
theorem taskInstructions : Obligations.TaskInstructions := by
  unfold Obligations.TaskInstructions
  refine ⟨?_, ?_⟩
  · intro eng named table load parts ends
    refine ⟨?_, fun f s k a h => ?_, fun l => ?_, fun l => ?_, ?_, fun f s k a h hbusy => ?_, fun f s k a d t h hinst hpending => ?_, tflg_does,
      fun f s k a h hkind => ?_, fun f s k a h => ?_⟩
    · refine doesL bodyTfmt (fun _ _ => rfl) fun c hhere ⟨_, hnamed⟩ => ⟨_, c.a, bodyTfmt_of_free hnamed, hhere, rfl, Only.putEngine _ _ _,
        Others.of_eq fun _ _ => rfl, fun u b hu hb => ⟨?_, fun j hj => ?_, hb⟩⟩
      · exact (engine_of_clusters (hu .clusters (by simp)) _).trans (engine_putEngine_same _ _ _)
      · exact (congrArg (fgetD · j ({} : Cluster)) (hu .clusters (by simp))).trans (cluster_putEngine_ne _ _ hj)
    · intro c hnamed
      exact h.waits (i := .tfmt) (body := bodyTfmt) (fun _ _ => rfl) (if_pos hnamed)
    · exact tableLoad_does (fun _ _ => rfl) fun c ⟨_, halign, hlocs, hnamed, hloading⟩ => ⟨halign, hlocs, hnamed, hloading⟩
    · exact tableLoad_does (fun _ _ => rfl) fun c ⟨_, halign, hlocs, hnamed, hloading⟩ => ⟨halign, hlocs, hnamed, hloading⟩
    · intro f s k a h c ⟨hpending, hdone⟩
      exact twait_done (c := c) h.here (issueL_clear h bodyTwait) hpending hdone
    · exact twait_waits (c := ctxOf .twait f (lenOf f) s k a) h.here (issueL_clear h bodyTwait) hbusy
    · exact twait_pending (c := ctxOf .twait f (lenOf f) s k a) (issueL_clear h bodyTwait) hinst hpending
    · intro c e a' s' decrement hpending hdone hsettled
      exact endt_ends (c := c) h.here hkind (issueL_clear h bodyEndt) hpending hdone hsettled (draining_endt a f (lenOf f)).symm
    · intro c
      have hout : exec (.taskpush f) s = .next (settle c.k c.a c.len (bodyTaskpush c)) := issueL_clear h bodyTaskpush
      refine ⟨taskpush_misaligned hout h.here, fun halign ck u r n hset hread hthere => ?_⟩
      have hpush := taskpush_reads hout halign hset hread
      refine ⟨fun hdisabled => ?_, fun q hq hstate hplace hroom => pushOr_read_moves hpush hthere hq hstate hplace hroom⟩
      rw [pushOr_disabled hdisabled] at hpush
      exact faults_settle hpush rfl h.here
  · intro goes
    have hgoes {c : Ctx'} {out : Out} (hhere : agent? c.s c.k = some c.a) (hout : out = .next (settle c.k c.a c.len (bodyExit c))) : goes c out := by
      have hidle := fun hnot => Bool.eq_false_iff.mpr (mt (producing_iff c.s c.a.uid).mp hnot)
      exact ⟨fun hbusy => exit_waits hhere hout ((producing_iff _ _).mpr hbusy), fun hnot => exit_thread hhere hout (hidle hnot),
        fun hnot => exit_handler hhere hout (hidle hnot), fun hnot => exit_task hhere hout (hidle hnot)⟩
    exact ⟨fun f s k a h => hgoes (c := ctxOf .exit f (lenOf f) s k a) h.here (issueL_clear h bodyExit),
      fun f s k a h => hgoes (c := ctxOfS .exit f s k a) h.here (issueS_clear h bodyExit)⟩

end Sys2Proof.Machine
end

section
/-!
PROOF. Integer instructions (R124 to R139): each writes one result, and the result is the number or the bit pattern that its rule gives.
-/
namespace Sys2Proof.Machine

/-! ### Instructions that write one result of TYPE, in forms L, X and S -/

section
variable {i : FormL → Instr} {j : FormS → Instr} {o : Op} {t x : Ctx' → Nat} (body : Ctx' → Go)

theorem writes_put (hi : ∀ f s, exec (i f) s = issueL o f body s) (hbody : ∀ c, body c = .next (c.put (t c) (x c))) : Writes i o t x fun _ => 0 :=
  writes_of body hi fun c => (hbody c).trans (congrArg Go.next (put_flags c _ _))
theorem writesS_put (hj : ∀ f s, exec (j f) s = issueS o f body s) (hbody : ∀ c, body c = .next (c.put (t c) (x c))) :
    WritesS j o t x fun _ => 0 :=
  writesS_of body hj fun c => (hbody c).trans (congrArg Go.next (put_flags c _ _))
theorem writes_both (hi : ∀ f s, exec (i f) s = issueL o f body s) (hj : ∀ f s, exec (j f) s = issueS o f body s)
    (hbody : ∀ c, body c = .next (c.put (t c) (x c))) : (Writes i o t x fun _ => 0) ∧ WritesS j o t x fun _ => 0 :=
  ⟨writes_put body hi hbody, writesS_put body hj hbody⟩

end

/-! ### Exact results, wrapped or clamped (R125) -/

theorem intMin_le_intMax (w : Nat) (sg : Bool) : intMin w sg ≤ intMax w sg := by
  have hhalf := Nat.two_pow_pos (w - 1)
  have hfull := Nat.two_pow_pos w
  cases sg <;> simp only [intMin, intMax, if_true, Bool.false_eq_true, if_false] <;> omega

theorem clampI_eq_max_min (w : Nat) (sg : Bool) (z : Int) : clampI w sg z = max (intMin w sg) (min (intMax w sg) z) := by
  have hle := intMin_le_intMax w sg
  unfold clampI
  split
  · omega
  · split <;> omega

theorem narrow_eq_fitted (t : Nat) (sat : Bool) (z : Int) : narrow (tyBits t) (tySigned t) sat z = fitted t sat z := by
  unfold narrow
  rw [clampI_eq_max_min]
  rfl

/-- An exact integer result is written as its w-bit pattern, clamped first under SAT. -/
theorem intResult_eq (z : Ctx' → Int) (c : Ctx') :
    intResult z c = .next (c.put (modTy c.f.mod) (fitted (modTy c.f.mod) (modBit c.f.mod 9) (z c))) :=
  congrArg (fun x => Go.next (c.put c.ty x)) (narrow_eq_fitted c.ty c.sat (z c))
theorem intResult_congr {z z' : Ctx' → Int} {c : Ctx'} (h : z c = z' c) : intResult z c = intResult z' c := by
  unfold intResult
  rw [h]

section
variable {i : FormL → Instr} {j : FormS → Instr} {o : Op} {z : Ctx' → Int} (body : Ctx' → Go)

theorem writes_intL (hi : ∀ f s, exec (i f) s = issueL o f body s) (hbody : ∀ c, body c = intResult z c) :
    Writes i o (fun c => modTy c.f.mod) (fun c => fitted (modTy c.f.mod) (modBit c.f.mod 9) (z c)) fun _ => 0 :=
  writes_put body hi fun c => (hbody c).trans (intResult_eq z c)
theorem writes_int (hi : ∀ f s, exec (i f) s = issueL o f body s) (hj : ∀ f s, exec (j f) s = issueS o f body s)
    (hbody : ∀ c, body c = intResult z c) :
    (Writes i o (fun c => modTy c.f.mod) (fun c => fitted (modTy c.f.mod) (modBit c.f.mod 9) (z c)) fun _ => 0) ∧
      WritesS j o (fun c => modTy c.f.mod) (fun c => fitted (modTy c.f.mod) (modBit c.f.mod 9) (z c)) fun _ => 0 :=
  writes_both body hi hj fun c => (hbody c).trans (intResult_eq z c)

end

/-- A byte of a dot product, by its sign bit of MOD (R138). -/
theorem toS_byte (sg : Bool) (x i : Nat) :
    (if sg then toS 8 (bitsN x (8 * i + 7) (8 * i)) else (bitsN x (8 * i + 7) (8 * i) : Nat) : Int) =
      if sg && 128 ≤ x / 2 ^ (8 * i) % 256 then ((x / 2 ^ (8 * i) % 256 : Nat) : Int) - 256 else (x / 2 ^ (8 * i) % 256 : Nat) := by
  have hbits : bitsN x (8 * i + 7) (8 * i) = x / 2 ^ (8 * i) % 256 := bitsN_field x i (w := 8) (by decide)
  rw [hbits]
  have hlt : x / 2 ^ (8 * i) % 256 < 256 := Nat.mod_lt _ (by decide)
  generalize x / 2 ^ (8 * i) % 256 = v at hlt ⊢
  cases sg with
  | false => rfl
  | true =>
    simp only [toS, if_true, Bool.true_and, decide_eq_true_eq]
    split <;> split <;> omega

theorem abs_eq_ite (z : Int) : |z| = if z < 0 then -z else z := by
  split
  · next h => exact abs_of_neg h
  · next h => exact abs_of_nonneg (not_lt.mp h)

/-- Settles O6: each body is one exact result; IDP4's sum is written out. -/
theorem integerArithmetic : Obligations.IntegerArithmetic := by
  unfold Obligations.IntegerArithmetic
  intro ty a b d out byte none both
  refine ⟨?iadd, ?isub, ?ineg, ?imul, ?imulh, ?imad, ?imin, ?imax, ?iabs, ?idp4⟩
  case iadd => exact writes_int bodyIadd (fun _ _ => rfl) (fun _ _ => rfl) fun _ => rfl
  case isub => exact writes_int bodyIsub (fun _ _ => rfl) (fun _ _ => rfl) fun _ => rfl
  case ineg => exact writes_int bodyIneg (fun _ _ => rfl) (fun _ _ => rfl) fun _ => rfl
  case imul => exact writes_int bodyImul (fun _ _ => rfl) (fun _ _ => rfl) fun _ => rfl
  case imulh =>
    refine writes_int bodyImulh (fun _ _ => rfl) (fun _ _ => rfl) fun c => intResult_congr ?_
    rw [Nat.cast_pow]
    rfl
  case imad => exact writes_int bodyImad (fun _ _ => rfl) (fun _ _ => rfl) fun _ => rfl
  case imin => exact writes_int bodyImin (fun _ _ => rfl) (fun _ _ => rfl) fun c => intResult_congr (min_def ..).symm
  case imax => exact writes_int bodyImax (fun _ _ => rfl) (fun _ _ => rfl) fun c => intResult_congr (max_def ..).symm
  case iabs => exact writes_int bodyIabs (fun _ _ => rfl) (fun _ _ => rfl) fun c => intResult_congr (abs_eq_ite _).symm
  case idp4 =>
    refine writes_intL bodyIdp4 (fun _ _ => rfl) fun c => intResult_congr ?_
    simp only [upFrom, List.map_cons, List.map_nil, List.foldl_cons, List.foldl_nil, zero_add, toS_byte]
    rfl

end Sys2Proof.Machine
end

section
/-!
PROOF. Bit patterns (R127, R128): the bitwise operations, and the counts of bits.
-/
namespace Sys2Proof.Machine

/-! ### Results that are bit patterns -/

theorem tyBits_cases (t : Nat) : tyBits t = 32 ∨ tyBits t = 64 := by
  unfold tyBits
  split <;> simp
theorem le_tyBits (t : Nat) : 32 ≤ tyBits t := by rcases tyBits_cases t with h | h <;> omega
theorem tyBits_pos (t : Nat) : 0 < tyBits t := lt_of_lt_of_le (by decide) (le_tyBits t)

/-- Operands a, b and c as bit vectors of the type's width. -/
abbrev Ctx'.bitsA (c : Ctx') : BitVec (tyBits (modTy c.f.mod)) := BitVec.ofNat _ c.va
abbrev Ctx'.bitsB (c : Ctx') : BitVec (tyBits (modTy c.f.mod)) := BitVec.ofNat _ c.vb
abbrev Ctx'.bitsC (c : Ctx') : BitVec (tyBits (modTy c.f.mod)) := BitVec.ofNat _ c.vc

theorem low_toNat {w : Nat} (b : BitVec w) : low w b.toNat = b.toNat := Nat.mod_eq_of_lt b.isLt

section
variable {i : FormL → Instr} {j : FormS → Instr} {o : Op} {x y : Ctx' → Nat} (body : Ctx' → Go)

/-- A body that is a pattern of the type's width writes its low bits. -/
theorem writes_bitsL (hi : ∀ f s, exec (i f) s = issueL o f body s) (hbody : ∀ c, body c = bitResult x c)
    (hx : ∀ c, low (tyBits (modTy c.f.mod)) (x c) = y c) : Writes i o (fun c => modTy c.f.mod) y fun _ => 0 :=
  writes_put body hi fun c => (hbody c).trans (congrArg (fun x => Go.next (c.put (modTy c.f.mod) x)) (hx c))
theorem writes_bits (hi : ∀ f s, exec (i f) s = issueL o f body s) (hj : ∀ f s, exec (j f) s = issueS o f body s)
    (hbody : ∀ c, body c = bitResult x c) (hx : ∀ c, low (tyBits (modTy c.f.mod)) (x c) = y c) :
    (Writes i o (fun c => modTy c.f.mod) y fun _ => 0) ∧ WritesS j o (fun c => modTy c.f.mod) y fun _ => 0 :=
  writes_both body hi hj fun c => (hbody c).trans (congrArg (fun x => Go.next (c.put (modTy c.f.mod) x)) (hx c))
/-- A body that is a bit vector of the type's width. -/
theorem writes_bitVec {v : ∀ c : Ctx', BitVec (tyBits (modTy c.f.mod))} (hi : ∀ f s, exec (i f) s = issueL o f body s)
    (hj : ∀ f s, exec (j f) s = issueS o f body s) (hbody : ∀ c, body c = bitResult x c) (hx : ∀ c, x c = (v c).toNat) :
    (Writes i o (fun c => modTy c.f.mod) (fun c => (v c).toNat) fun _ => 0) ∧
      WritesS j o (fun c => modTy c.f.mod) (fun c => (v c).toNat) fun _ => 0 :=
  writes_bits body hi hj hbody fun c => (congrArg (low _) (hx c)).trans (low_toNat (v c))

end

/-! ### Counting set bits -/

theorem popcount_eq (n : Nat) : ∀ x, popcount x n = ((List.range n).filter x.testBit).length := by
  induction n with
  | zero => intro x; rfl
  | succ n ih =>
    intro x
    have htail : ((List.range n).map Nat.succ).filter x.testBit = ((List.range n).filter (x / 2).testBit).map Nat.succ := by
      rw [List.filter_map]
      exact congrArg _ (List.filter_congr fun i _ => Nat.testBit_succ x i)
    rw [popcount, ih, List.range_succ_eq_map, List.filter_cons, htail, Nat.testBit_zero]
    rcases Nat.mod_two_eq_zero_or_one x with h | h <;> simp [h, Nat.add_comm]

/-- Bits below the width are those of the operand itself. -/
theorem testBit_low {w i : Nat} (x : Nat) (hi : i < w) : (low w x).testBit i = x.testBit i := by
  rw [low, Nat.testBit_mod_two_pow]
  simp [hi]

theorem popcount_low (w x : Nat) : popcount (low w x) w = ((List.range w).filter x.testBit).length := by
  rw [popcount_eq]
  exact congrArg List.length (List.filter_congr fun i hi => testBit_low x (List.mem_range.mp hi))

/-! ### Counting zeros -/

/-- How many numbers from 0 meet a test, one after the other: the first that does not. -/
theorem length_takeWhile_range {p : Nat → Bool} {n k : Nat} (hk : k ≤ n) (hp : ∀ i < k, p i = true) (hstop : k < n → p k = false) :
    ((List.range n).takeWhile p).length = k := by
  obtain ⟨m, rfl⟩ := Nat.exists_eq_add_of_le hk
  rw [List.range_add, List.takeWhile_append_of_pos fun i hi => hp i (List.mem_range.mp hi), List.length_append, List.length_range]
  cases m with
  | zero => rfl
  | succ m => simp [List.range_succ_eq_map, hstop (by omega)]

theorem trailing_spec (n : Nat) : ∀ x, trailing x n ≤ n ∧ (∀ i < trailing x n, x.testBit i = false) ∧
    (trailing x n < n → x.testBit (trailing x n) = true) := by
  induction n with
  | zero => intro x; simp [trailing]
  | succ n ih =>
    intro x
    obtain ⟨hle, hzeros, hone⟩ := ih (x / 2)
    unfold trailing
    split
    · next hodd => simpa [Nat.testBit_zero] using hodd
    · next heven =>
      refine ⟨by omega, fun i hi => ?_, fun hlt => ?_⟩
      · cases i with
        | zero => simpa [Nat.testBit_zero] using heven
        | succ i => rw [Nat.testBit_succ]; exact hzeros i (by omega)
      · rw [Nat.add_comm 1, Nat.testBit_succ]
        exact hone (by omega)

theorem trailing_low (w x : Nat) : trailing (low w x) w = ((List.range w).takeWhile fun i => !x.testBit i).length := by
  obtain ⟨hle, hzeros, hone⟩ := trailing_spec w (low w x)
  refine (length_takeWhile_range hle (fun i hi => ?_) fun hlt => ?_).symm
  · rw [← testBit_low x (hi.trans_le hle), hzeros i hi]; rfl
  · rw [← testBit_low x hlt, hone hlt]; rfl

theorem leading_low (w x : Nat) : leading w (low w x) = ((List.range w).takeWhile fun i => !x.testBit (w - 1 - i)).length := by
  have hlt : low w x < 2 ^ w := Nat.mod_lt _ (Nat.two_pow_pos w)
  unfold leading
  split
  · next hzero =>
    refine (length_takeWhile_range le_rfl (fun i hi => ?_) fun h => absurd h (lt_irrefl w)).symm
    rw [← testBit_low (w := w) x (by omega), beq_iff_eq.mp hzero, Nat.zero_testBit]; rfl
  · next hne =>
    have hne : low w x ≠ 0 := fun h => hne (beq_iff_eq.mpr h)
    have htop : (low w x).log2 < w := (Nat.log2_lt hne).mpr hlt
    refine (length_takeWhile_range (by omega) (fun i hi => ?_) fun hlt => ?_).symm
    · have habove : low w x < 2 ^ (w - 1 - i) := (Nat.log2_lt hne).mp (by omega)
      rw [← testBit_low (w := w) x (by omega), Nat.testBit_lt_two_pow habove]; rfl
    · rw [show w - 1 - (w - 1 - (low w x).log2) = (low w x).log2 by omega, ← testBit_low x htop, Nat.testBit_log2 hne]; rfl

/-! ### Reversing bits -/

theorem reverse_lt (n : Nat) : ∀ x, reverse x n < 2 ^ n := by
  induction n with
  | zero => intro x; simp [reverse]
  | succ n ih =>
    intro x
    have htail := ih (x / 2)
    have hpow := Nat.pow_succ 2 n
    rcases Nat.mod_two_eq_zero_or_one x with h | h <;> simp only [reverse, h] <;> omega

theorem testBit_reverse (n : Nat) : ∀ x i, i < n → (reverse x n).testBit i = x.testBit (n - 1 - i) := by
  induction n with
  | zero => intro x i hi; omega
  | succ n ih =>
    intro x i hi
    rw [reverse, Nat.mul_comm, Nat.testBit_two_pow_mul_add _ (reverse_lt n (x / 2))]
    split
    · next hlt => rw [ih _ _ hlt, ← Nat.testBit_succ, show (n - 1 - i).succ = n + 1 - 1 - i by omega]
    · next hge =>
      obtain rfl : i = n := by omega
      simp [Nat.testBit_zero]

theorem reverse_toNat {w : Nat} (x : BitVec w) : reverse x.toNat w = x.reverse.toNat := by
  refine Nat.eq_of_testBit_eq fun i => ?_
  rcases Nat.lt_or_ge i w with hi | hi
  · rw [testBit_reverse w _ i hi, BitVec.testBit_toNat, BitVec.testBit_toNat, BitVec.getLsbD_reverse, BitVec.getMsbD]
    simp [hi]
  · have hpow : 2 ^ w ≤ 2 ^ i := Nat.pow_le_pow_right (by decide) hi
    rw [Nat.testBit_lt_two_pow ((reverse_lt w _).trans_le hpow), Nat.testBit_lt_two_pow (x.reverse.isLt.trans_le hpow)]

/-- Settles O7: the bitwise operations are those of bit vectors; the counts are the lengths of the lists that count by the rule. -/
theorem bitwiseOperations : Obligations.BitwiseOperations := by
  unfold Obligations.BitwiseOperations
  refine ⟨?bitwise, ?counts⟩
  case bitwise =>
    intro ty w none both
    refine ⟨?and, ?or, ?xor, ?not, ?andn⟩
    case and => exact writes_bitVec bodyAnd (fun _ _ => rfl) (fun _ _ => rfl) (fun _ => rfl) fun c => (BitVec.toNat_and c.bitsA c.bitsB).symm
    case or => exact writes_bitVec bodyOr (fun _ _ => rfl) (fun _ _ => rfl) (fun _ => rfl) fun c => (BitVec.toNat_or c.bitsA c.bitsB).symm
    case xor => exact writes_bitVec bodyXor (fun _ _ => rfl) (fun _ _ => rfl) (fun _ => rfl) fun c => (BitVec.toNat_xor c.bitsA c.bitsB).symm
    case not => exact writes_bitVec bodyNot (fun _ _ => rfl) (fun _ _ => rfl) (fun _ => rfl) fun c => (BitVec.toNat_not (x := c.bitsA)).symm
    case andn =>
      exact writes_bitVec bodyAndn (fun _ _ => rfl) (fun _ _ => rfl) (fun _ => rfl) fun c => by
        rw [BitVec.toNat_and, BitVec.toNat_not]
        rfl
  case counts =>
    intro ty w n32 none set
    refine ⟨?popc, ?popcS, ?clz, ?clzS, ?ctz, ?ctzS, ?brev⟩
    case popc => exact writes_put bodyPopc (fun _ _ => rfl) fun c => congrArg (fun x => Go.next (c.put 1 x)) (popcount_low _ _)
    case popcS => exact writesS_put bodyPopc (fun _ _ => rfl) fun c => congrArg (fun x => Go.next (c.put 1 x)) (popcount_low _ _)
    case clz => exact writes_put bodyClz (fun _ _ => rfl) fun c => congrArg (fun x => Go.next (c.put 1 x)) (leading_low _ _)
    case clzS => exact writesS_put bodyClz (fun _ _ => rfl) fun c => congrArg (fun x => Go.next (c.put 1 x)) (leading_low _ _)
    case ctz => exact writes_put bodyCtz (fun _ _ => rfl) fun c => congrArg (fun x => Go.next (c.put 1 x)) (trailing_low _ _)
    case ctzS => exact writesS_put bodyCtz (fun _ _ => rfl) fun c => congrArg (fun x => Go.next (c.put 1 x)) (trailing_low _ _)
    case brev => exact writes_bitVec bodyBrev (fun _ _ => rfl) (fun _ _ => rfl) (fun _ => rfl) fun c => reverse_toNat c.bitsA

end Sys2Proof.Machine
end

section
/-!
PROOF. Shifts (R132, R133), fields of bits, bytes and addresses (R134 to R136).
-/
namespace Sys2Proof.Machine

/-! ### Shifts of bit vectors, as arithmetic -/

section
variable {w : Nat} (x : BitVec w) (n : Nat)

theorem toNat_shl : low w (if n ≥ w then 0 else x.toNat * 2 ^ n) = (x <<< n).toNat := by
  split
  · next h => rw [BitVec.shiftLeft_eq_zero h]; exact Nat.zero_mod _
  · rw [BitVec.toNat_shiftLeft, Nat.shiftLeft_eq]; rfl
theorem toNat_shr : (if n ≥ w then 0 else x.toNat / 2 ^ n) = (x >>> n).toNat := by
  split
  · next h => rw [BitVec.ushiftRight_eq_zero h]; rfl
  · rw [BitVec.toNat_ushiftRight, Nat.shiftRight_eq_div_pow]

/-- The two's-complement reading is that of the bit vector. -/
theorem toS_toNat (hw : 0 < w) : toS w x.toNat = x.toInt := by
  have hpow := Nat.two_pow_pred_mul_two hw
  rw [BitVec.toInt_eq_toNat_cond, toS, Nat.mod_eq_of_lt x.isLt]
  split <;> split <;> omega

/-- A shift by the width or more leaves only the sign, as a shift by one less does. -/
theorem toInt_div_two_pow (h : w - 1 ≤ n) : x.toInt / (2 ^ n : Nat) = if x.toInt < 0 then -1 else 0 := by
  have hpow : ((2 ^ (w - 1) : Nat) : Int) ≤ (2 ^ n : Nat) := Int.ofNat_le.mpr (Nat.pow_le_pow_right (by decide) h)
  have hlo : -((2 ^ (w - 1) : Nat) : Int) ≤ x.toInt := by rw [Nat.cast_pow]; exact x.le_toInt
  have hhi : x.toInt < ((2 ^ (w - 1) : Nat) : Int) := by rw [Nat.cast_pow]; exact x.toInt_lt
  split
  · next hneg => exact Int.ediv_eq_neg_one_of_neg_of_le hneg (by omega)
  · next hpos => exact Int.ediv_eq_zero_of_lt (not_lt.mp hpos) (by omega)
theorem toNat_sar (hw : 0 < w) : ofS w (toS w x.toNat / (2 ^ min n (w - 1) : Nat)) = (x.sshiftRight n).toNat := by
  rw [toS_toNat x hw, BitVec.sshiftRight_eq, BitVec.toNat_ofInt, Int.shiftRight_eq_div_pow]
  rcases Nat.le_total n (w - 1) with h | h
  · rw [Nat.min_eq_left h]; rfl
  · rw [Nat.min_eq_right h, toInt_div_two_pow x (w - 1) le_rfl, ← toInt_div_two_pow x n h]; rfl

theorem toNat_rot (hw : 0 < w) : low w (x.toNat * 2 ^ (n % w)) + x.toNat / 2 ^ (w - n % w) = (x.rotateLeft n).toNat := by
  have hm : n % w < w := Nat.mod_lt n hw
  have hpow : 2 ^ w = 2 ^ (n % w) * 2 ^ (w - n % w) := by rw [← Nat.pow_add, Nat.add_sub_cancel' hm.le]
  have hlow : low w (x.toNat * 2 ^ (n % w)) = 2 ^ (n % w) * (x.toNat % 2 ^ (w - n % w)) := by
    rw [low, Nat.mul_comm, hpow, Nat.mul_mod_mul_left]
  have hhigh : x.toNat / 2 ^ (w - n % w) < 2 ^ (n % w) := by
    rw [Nat.div_lt_iff_lt_mul (Nat.two_pow_pos _), ← hpow]
    exact x.isLt
  rw [BitVec.toNat_rotateLeft, Nat.shiftLeft_eq, Nat.shiftRight_eq_div_pow]
  change low w _ + _ = low w _ ||| _
  rw [hlow, Nat.two_pow_add_eq_or_of_lt hhigh]

/-- The pair c:a is c and a side by side. -/
theorem toNat_shf (h : BitVec w) : (h.toNat * 2 ^ w + x.toNat) / 2 ^ n = ((h ++ x) >>> n).toNat := by
  rw [BitVec.toNat_ushiftRight, BitVec.toNat_append, ← Nat.shiftLeft_add_eq_or_of_lt x.isLt, Nat.shiftLeft_eq, Nat.shiftRight_eq_div_pow]

end

/-- Settles O8: each body is the shift of the operand's bit vector, written as arithmetic. -/
theorem shifts : Obligations.Shifts := by
  unfold Obligations.Shifts
  intro ty w n a none both
  refine ⟨?shl, ?shr, ?sar, ?rot, ?shf⟩
  case shl => exact writes_bits bodyShl (fun _ _ => rfl) (fun _ _ => rfl) (fun _ => rfl) fun c => toNat_shl c.bitsA c.n
  case shr => exact writes_bitVec bodyShr (fun _ _ => rfl) (fun _ _ => rfl) (fun _ => rfl) fun c => toNat_shr c.bitsA c.n
  case sar => exact writes_bitVec bodySar (fun _ _ => rfl) (fun _ _ => rfl) (fun _ => rfl) fun c => toNat_sar c.bitsA c.n (tyBits_pos _)
  case rot => exact writes_bitVec bodyRot (fun _ _ => rfl) (fun _ _ => rfl) (fun _ => rfl) fun c => toNat_rot c.bitsA c.n (tyBits_pos _)
  case shf =>
    exact writes_bits bodyShf (fun _ _ => rfl) (fun _ _ => rfl) (fun _ => rfl) fun c => congrArg (low _) (toNat_shf c.bitsA _ c.bitsC)

/-! ### Fields of bits (R134) -/

theorem testBit_setBitsN (x v pos n i : Nat) (hn : 0 < n) :
    (setBitsN x (pos + n - 1) pos v).testBit i = if pos ≤ i ∧ i < pos + n then v.testBit (i - pos) else x.testBit i := by
  have hsplit : x = 2 ^ pos * (2 ^ n * (x / 2 ^ pos / 2 ^ n) + x / 2 ^ pos % 2 ^ n) + x % 2 ^ pos := by
    rw [Nat.div_add_mod, Nat.div_add_mod]
  have hset : setBitsN x (pos + n - 1) pos v = 2 ^ pos * (2 ^ n * (x / 2 ^ pos / 2 ^ n) + v % 2 ^ n) + x % 2 ^ pos := by
    rw [setBitsN, bitsN, show pos + n - 1 + 1 - pos = n by omega, Nat.mul_add, Nat.mul_comm (v % 2 ^ n), Nat.mul_comm (x / 2 ^ pos % 2 ^ n)]
    rw [Nat.mul_add] at hsplit
    omega
  have hlow : x % 2 ^ pos < 2 ^ pos := Nat.mod_lt _ (Nat.two_pow_pos _)
  have hmid : v % 2 ^ n < 2 ^ n := Nat.mod_lt _ (Nat.two_pow_pos _)
  rw [hset, Nat.testBit_two_pow_mul_add _ hlow, Nat.testBit_two_pow_mul_add _ hmid]
  split
  · next h => rw [if_neg (by omega), Nat.testBit_mod_two_pow]; simp [h]
  · next h =>
    split
    · next h' => rw [if_pos (by omega), Nat.testBit_mod_two_pow]; simp [h']
    · next h' =>
      rw [if_neg (by omega), Nat.testBit_div_two_pow, Nat.testBit_div_two_pow]
      congr 1
      omega

/-- BFI's result, bit by bit: those of a inside the field, those of c elsewhere; the field ends at the width. -/
theorem bfi_eq (w a d pos len : Nat) :
    low w (let l := min (min len w) (w - pos); if l == 0 then low w d else setBitsN (low w d) (pos + l - 1) pos (low w a)) =
      (BitVec.ofFnLE fun i : Fin w => if pos ≤ i.val ∧ i.val < pos + len then a.testBit (i.val - pos) else d.testBit i.val).toNat := by
  refine Nat.eq_of_testBit_eq fun i => ?_
  rw [low, Nat.testBit_mod_two_pow, BitVec.testBit_toNat, BitVec.getLsbD_ofFnLE]
  by_cases hi : i < w
  · simp only [hi, decide_true, Bool.true_and, dif_pos]
    split
    · next h =>
      rw [beq_iff_eq] at h
      rw [if_neg (by omega), testBit_low d hi]
    · next h =>
      rw [beq_iff_eq] at h
      rw [testBit_setBitsN _ _ _ _ _ (Nat.pos_of_ne_zero h)]
      split
      · rw [if_pos (by omega), testBit_low a (by omega)]
      · rw [if_neg (by omega), testBit_low d hi]
  · simp [hi]

theorem testBit_top {l v : Nat} (hl : 0 < l) (hv : v < 2 ^ l) : v.testBit (l - 1) = decide (2 ^ (l - 1) ≤ v) := by
  have h := BitVec.msb_eq_decide (BitVec.ofNat l v)
  rwa [BitVec.msb_eq_getLsbD_last, BitVec.getLsbD_ofNat, BitVec.toNat_ofNat, Nat.mod_eq_of_lt hv, decide_eq_true (by omega), Bool.true_and] at h

/-- BFE's result: a field of at most the width, whose top bit moves up for a signed type. -/
theorem bfe_eq {w len : Nat} (hw : 0 < w) (sg : Bool) (z : Int) (pos : Nat) :
    low w (let l := min len w
      if l == 0 then 0 else let v := ofS l (z / (2 ^ pos : Nat)); if sg then sext l w v else v) =
      if len = 0 then 0 else
        let l := min len w
        let v := (z / (2 ^ pos : Nat) % (2 ^ l : Nat)).toNat
        if sg && v.testBit (l - 1) then v + (2 ^ w - 2 ^ l) else v := by
  rcases Nat.eq_zero_or_pos len with rfl | hlen
  · simp [low]
  have hl : 0 < min len w := by omega
  have hpow : 2 ^ min len w ≤ 2 ^ w := Nat.pow_le_pow_right (by decide) (Nat.min_le_right ..)
  have hv : (z / (2 ^ pos : Nat) % (2 ^ min len w : Nat)).toNat < 2 ^ min len w := by
    have := Int.emod_lt_of_pos (z / (2 ^ pos : Nat)) (Int.natCast_pos.mpr (Nat.two_pow_pos (min len w)))
    have := Int.emod_nonneg (z / (2 ^ pos : Nat)) (Int.natCast_ne_zero.mpr (Nat.two_pow_pos (min len w)).ne')
    omega
  dsimp only [ofS]
  rw [if_neg hlen.ne', if_neg (by simpa using hl.ne')]
  generalize (z / (2 ^ pos : Nat) % (2 ^ min len w : Nat)).toNat = v at hv ⊢
  rw [testBit_top hl hv, sext_of_lt (Nat.min_le_right ..) hv]
  cases sg with
  | false => exact Nat.mod_eq_of_lt (hv.trans_le hpow)
  | true =>
    simp only [if_true, Bool.true_and, decide_eq_true_eq]
    split
    · rw [low, Nat.mod_eq_of_lt (by omega)]; omega
    · exact Nat.mod_eq_of_lt (hv.trans_le hpow)

/-! ### Bytes and addresses (R135, R136) -/

theorem bitsN_low {w hi : Nat} (x lo : Nat) (h : hi < w) : bitsN (low w x) hi lo = bitsN x hi lo := by
  refine Nat.eq_of_testBit_eq fun i => ?_
  simp only [bitsN, low, Nat.testBit_mod_two_pow, Nat.testBit_div_two_pow]
  by_cases hi : i < hi + 1 - lo
  · simp [hi, show i + lo < w by omega]
  · simp [hi]

/-- Selector nibble i of PRMT. -/
theorem bitsN_nibble (x : Nat) {i : Nat} (hi : i < 8) : bitsN (low 32 x) (4 * i + 3) (4 * i) = x / 16 ^ i % 16 := by
  rw [bitsN_low x _ (by omega), show 4 * i + 3 = 4 * i + 4 - 1 from rfl, bitsN_field x i (by decide), Nat.pow_mul]
  rfl
theorem bitsN_byte (x i : Nat) : bitsN x (8 * i + 7) (8 * i) = x / 256 ^ i % 256 := by
  rw [show 8 * i + 7 = 8 * i + 8 - 1 from rfl, bitsN_field x i (by decide), Nat.pow_mul]
  rfl

/-- The byte of the pair `v` that a selector nibble names, or its sign as a byte. -/
def pickByte (v sel : Nat) : Nat :=
  if sel < 8 then v / 256 ^ (sel % 8) % 256 else if v / 256 ^ (sel % 8) % 256 < 128 then 0 else 255

theorem pickByte_lt (v sel : Nat) : pickByte v sel < 256 := by
  unfold pickByte
  split
  · exact Nat.mod_lt _ (by decide)
  · split <;> decide
/-- Byte i of PRMT's result, by its selector nibble. -/
theorem prmt_byte (x v : Nat) {i : Nat} (hi : i < 8) :
    (let sel := bitsN (low 32 x) (4 * i + 3) (4 * i)
      let b := bitsN v (8 * (sel % 8) + 7) (8 * (sel % 8))
      (if sel ≥ 8 then (if b ≥ 128 then 255 else 0) else b) * 2 ^ (8 * i)) = pickByte v (x / 16 ^ i % 16) * 2 ^ (8 * i) := by
  simp only [pickByte, bitsN_nibble x hi, bitsN_byte, ge_iff_le, ← not_lt, ite_not]

theorem foldl_upFrom_four (f : Nat → Nat) : ((upFrom 0 4).map f).foldl (· + ·) 0 = f 0 + f 1 + f 2 + f 3 := by
  simp only [upFrom, List.map_cons, List.map_nil, List.foldl_cons, List.foldl_nil, Nat.zero_add, Nat.reduceAdd]

/-- Four bytes, put together, are a 32-bit number. -/
theorem low_bytes {w : Nat} (hw : 32 ≤ w) {b : Nat → Nat} (hb : ∀ i, b i < 256) :
    low w (((upFrom 0 4).map fun i => b i * 2 ^ (8 * i)).foldl (· + ·) 0) = b 0 + b 1 * 256 + b 2 * 256 ^ 2 + b 3 * 256 ^ 3 := by
  have hpow : 2 ^ 32 ≤ 2 ^ w := Nat.pow_le_pow_right (by decide) hw
  have h0 := hb 0
  have h1 := hb 1
  have h2 := hb 2
  have h3 := hb 3
  have hsum : b 0 * 2 ^ (8 * 0) + b 1 * 2 ^ (8 * 1) + b 2 * 2 ^ (8 * 2) + b 3 * 2 ^ (8 * 3) = b 0 + b 1 * 256 + b 2 * 256 ^ 2 + b 3 * 256 ^ 3 := by
    omega
  rw [foldl_upFrom_four, hsum]
  exact Nat.mod_eq_of_lt (by omega)

theorem toS_low (w x : Nat) : toS w (low w x) = toS w x := by simp only [toS, low, Nat.mod_mod]
theorem lea_eq (x : Nat) (z : Int) : ofS 64 ((low 64 x : Nat) + z) = ((x + z) % (2 ^ 64 : Nat)).toNat := by
  rw [ofS, low, Int.natCast_mod, Int.emod_add_emod]

/-- The two bytes of BFE's and BFI's operand b (R134). -/
theorem field_position (c : Ctx') : bitsN c.n 7 0 = c.vb % 256 := by
  rw [Ctx'.n, bitsN_low _ _ (by decide), bitsN, Nat.pow_zero, Nat.div_one]; rfl
theorem field_length (c : Ctx') : bitsN c.n 15 8 = c.vb / 256 % 256 := by
  rw [Ctx'.n, bitsN_low _ _ (by decide), bitsN]; rfl

/-- Settles O9: BFE as a number, BFI bit by bit, PRMT byte by byte, LEA modulo 2^64. -/
theorem fieldsAndAddresses : Obligations.FieldsAndAddresses := by
  unfold Obligations.FieldsAndAddresses
  intro ty w pos len none byte
  refine ⟨?bfe, ?bfi, ?prmt, ?lea⟩
  case bfe =>
    refine writes_bitsL bodyBfe (fun _ _ => rfl) (fun _ => rfl) fun c => ?_
    rw [field_position, field_length]
    exact bfe_eq (tyBits_pos _) _ _ _
  case bfi =>
    refine writes_bitsL bodyBfi (fun _ _ => rfl) (fun _ => rfl) fun c => ?_
    rw [field_position, field_length]
    exact bfi_eq _ _ _ _ _
  case prmt =>
    refine writes_bitsL bodyPrmt (fun _ _ => rfl) (fun _ => rfl) fun c => ?_
    refine (congrArg (fun l => low _ (l.foldl (· + ·) 0)) (List.map_congr_left fun i hi => ?_)).trans
      (low_bytes (b := byte c) (le_tyBits _) fun i => pickByte_lt _ (c.vb / 16 ^ i % 16))
    exact prmt_byte c.vb _ (by have := mem_upFrom.mp hi; omega)
  case lea =>
    refine writes_put bodyLea (fun _ _ => rfl) fun c => ?_
    have hindex : toS 32 c.n = toS 32 c.vb := toS_low 32 c.vb
    simp only [bodyLea, lea_eq, hindex]
    rfl

end Sys2Proof.Machine
end

section
/-!
PROOF. Moves, carries and compares (R129, R130, R137, R139), and integer division (R131).
-/
namespace Sys2Proof.Machine

/-! ### Moves (R139) -/

/-- Settles O10: NOP's own execution leaves the state, and each move is its operand's low bits. -/
theorem moveInstructions : Obligations.MoveInstructions := by
  unfold Obligations.MoveInstructions
  intro ty w none
  obtain ⟨hmov, hmovS⟩ := writes_bits (i := .mov) (j := .movS) (o := .mov) (y := fun c => c.va % 2 ^ w c) bodyMov
    (fun _ _ => rfl) (fun _ _ => rfl) (fun _ => rfl) fun _ => rfl
  refine ⟨?nop, ?nopS, hmov, hmovS, ?movi, ?sel⟩
  case nop =>
    exact doesL bodyNop (fun _ _ => rfl) fun c hhere _ => ⟨c.s, c.a, rfl, hhere, rfl, Only.refl _ _, Others.refl _ _, fun _ _ _ hb => hb⟩
  case nopS =>
    exact doesS bodyNop (fun _ _ => rfl) fun c hhere _ => ⟨c.s, c.a, rfl, hhere, rfl, Only.refl _ _, Others.refl _ _, fun _ _ _ hb => hb⟩
  case movi => exact writes_bitsL bodyMovi (fun _ _ => rfl) (fun _ => rfl) fun _ => rfl
  case sel => exact writes_bitsL bodySel (fun _ _ => rfl) (fun _ => rfl) fun c => by simp only [low, beq_iff_eq]; rfl

/-! ### The carry chain (R129) -/

/-- A register result beside a predicate result. -/
theorem putTy_setP_spec {a b : Agent} {d t x p : Nat} {r : Bool} (hb : b.core = ((a.putTy (a.kind == .task) d t x).setP p r).core) :
    WroteTy a b d t x ∧ WroteP a b p r ∧ b.fl = a.fl ∧ SameRest a b := by
  obtain ⟨v, y, hreg⟩ := putTy_rest a (a.kind == .task) d t x
  obtain ⟨q, m, n, hpred⟩ := setP_rest (a.putTy (a.kind == .task) d t x) p r
  have hwroteP := wroteP_setP (a.putTy (a.kind == .task) d t x) p r
  have hwroteTy := wroteTy_putTy a d t x
  refine ⟨core_wroteTy hb ?_, core_wroteP hb ?_, (core_fl hb).trans ?_, core_sameRest hb ?_⟩
  · rw [hpred]; exact hwroteTy
  · rw [hreg] at hwroteP ⊢; exact hwroteP
  · rw [hpred, hreg]
  · rw [hpred, hreg]; rfl

theorem iaddc_does : Does .iaddc .iaddc (fun c => c.a.pready (modBits c.f.mod 2 0) = true) [] fun c _ b =>
    WroteTy c.a b c.f.dst.toNat (modTy c.f.mod) (low c.w (c.ua + c.ub + c.vc)) ∧
      WroteP c.a b (modBits c.f.mod 2 0) (decide (2 ^ c.w ≤ c.ua + c.ub + c.vc)) ∧ b.fl = c.a.fl ∧ SameRest c.a b := by
  refine does_upd (body := bodyIaddc) (fun _ _ => rfl) (fun c hready => if_pos hready) (fun c => ?_) fun c _ b _ hb => putTy_setP_spec hb
  obtain ⟨v, y, hreg⟩ := putTy_rest c.a c.ctl c.f.dst.toNat c.ty (low c.w (c.ua + c.ub + c.vc))
  obtain ⟨q, m, n, hpred⟩ := setP_rest (c.a.putTy c.ctl c.f.dst.toNat c.ty (low c.w (c.ua + c.ub + c.vc))) (modBits c.mod 2 0)
    (decide (2 ^ c.w ≤ c.ua + c.ub + c.vc))
  rw [hpred, hreg]

/-! ### The wide multiply-add (R130) -/

theorem narrow_wide (sg sat : Bool) (z : Int) : narrow 64 sg sat z = fitted (if sg then 2 else 3) sat z := by
  cases sg with
  | false => exact narrow_eq_fitted 3 sat z
  | true => exact narrow_eq_fitted 2 sat z

/-- Registers of a vector core are written, and nothing else. -/
theorem putV_spec {a b : Agent} {r n x : Nat} (hb : b.core = (a.putV r n x).core) :
    WroteV a b r n x ∧ SameX a b ∧ SameP a b ∧ b.fl = a.fl ∧ SameRest a b := by
  obtain ⟨v, hv⟩ := putV_rest a r n x
  refine ⟨core_wroteV hb (wroteV_putV _ _ _ _), core_sameX hb (sameX_putV _ _ _ _), core_sameP hb ?_, (core_fl hb).trans ?_, core_sameRest hb ?_⟩
  · rw [hv]; exact ⟨rfl, rfl, rfl⟩
  · rw [hv]
  · rw [hv]; rfl

theorem does_putV {i : FormL → Instr} {o : Op} {body : Ctx' → Go} {n x : Ctx' → Nat} (hi : ∀ f s, exec (i f) s = issueL o f body s)
    (hbody : ∀ c, body c = .next (c.upd fun a => a.putV c.f.dst.toNat (n c) (x c))) : Does i o (fun _ => True) [] fun c _ b =>
    WroteV c.a b c.f.dst.toNat (n c) (x c) ∧ SameX c.a b ∧ SameP c.a b ∧ b.fl = c.a.fl ∧ SameRest c.a b := by
  refine does_upd hi (fun c _ => hbody c) (fun c => ?_) fun c _ b _ hb => putV_spec hb
  obtain ⟨v, hv⟩ := putV_rest c.a c.f.dst.toNat (n c) (x c)
  rw [hv]

/-! ### The compare (R137) -/

theorem bne_eq_decide_ne (x y : Int) : (x != y) = decide (x ≠ y) := by
  by_cases h : x = y <;> simp [h]

/-- An X register is written, and nothing else. -/
theorem putX_spec {a b : Agent} {r x : Nat} (hb : b.core = (a.putX r x).core) :
    WroteX a b r x ∧ SameP a b ∧ SameV a b ∧ b.fl = a.fl ∧ SameRest a b := by
  obtain ⟨y, hx⟩ := putX_rest a r x
  refine ⟨core_wroteX hb (wroteX_putX _ _ _), core_sameP hb ?_, core_sameV hb (sameV_putX _ _ _), (core_fl hb).trans ?_, core_sameRest hb ?_⟩
  · rw [hx]; exact ⟨rfl, rfl, rfl⟩
  · rw [hx]
  · rw [hx]; rfl
/-- A predicate is written, and nothing else. -/
theorem setP_spec {a b : Agent} {p : Nat} {r : Bool} (hb : b.core = (a.setP p r).core) :
    WroteP a b p r ∧ SameX a b ∧ SameV a b ∧ b.fl = a.fl ∧ SameRest a b := by
  obtain ⟨q, m, n, hp⟩ := setP_rest a p r
  refine ⟨core_wroteP hb (wroteP_setP _ _ _), core_sameX hb ?_, core_sameV hb ?_, (core_fl hb).trans ?_, core_sameRest hb ?_⟩
  · rw [hp]; exact fun _ => rfl
  · rw [hp]; exact fun _ => rfl
  · rw [hp]
  · rw [hp]; rfl

/-- What ISET leaves: a predicate on a vector core, an X register on the control core. -/
theorem iset_does {r : Ctx' → Bool} (hr : ∀ c, relI (modCode c.f.mod) c.ia c.ib = r c) : Does .iset .iset (fun _ => True) [] fun c _ b =>
    (if c.a.kind = .task then WroteX c.a b c.f.dst.toNat (if r c then 1 else 0) ∧ SameP c.a b
      else WroteP c.a b c.f.dst.toNat (r c) ∧ SameX c.a b) ∧
      SameV c.a b ∧ b.fl = c.a.fl ∧ SameRest c.a b := by
  refine does_upd (body := bodyIset) (g := fun c a => if c.ctl then a.putX c.f.dst.toNat (if r c then 1 else 0) else a.setP c.f.dst.toNat (r c))
    (fun _ _ => rfl) (fun c _ => ?body) (fun c => ?block) fun c _ b _ hb => ?spec
  case body => rw [← hr c]; rfl
  case block =>
    obtain ⟨y, hx⟩ := putX_rest c.a c.f.dst.toNat (if r c then 1 else 0)
    obtain ⟨p, q, t, hp⟩ := setP_rest c.a c.f.dst.toNat (r c)
    split
    · rw [hx]
    · rw [hp]
  case spec =>
    by_cases hkind : c.a.kind = .task
    · have hctl : c.ctl = true := beq_iff_eq.mpr hkind
      rw [hctl, if_pos rfl] at hb
      obtain ⟨hwrote, hpreds, hrest⟩ := putX_spec hb
      exact ⟨by rw [if_pos hkind]; exact ⟨hwrote, hpreds⟩, hrest⟩
    · have hctl : c.ctl = false := beq_eq_false_iff_ne.mpr hkind
      rw [hctl, if_neg Bool.false_ne_true] at hb
      obtain ⟨hwrote, hxregs, hrest⟩ := setP_spec hb
      exact ⟨by rw [if_neg hkind]; exact ⟨hwrote, hxregs⟩, hrest⟩

/-- Settles O11: IADDC as a register beside a predicate, IMADW as a register pair, ISET by its relation. -/
theorem carriesAndCompares : Obligations.CarriesAndCompares := by
  unfold Obligations.CarriesAndCompares
  refine ⟨iaddc_does, does_putV (body := bodyImadw) (fun _ _ => rfl) fun c => ?imadw, iset_does fun c => ?iset⟩
  case imadw =>
    simp only [bodyImadw, narrow_wide]
    rfl
  case iset =>
    unfold relI
    generalize modCode c.f.mod = code
    rcases code with _ | _ | _ | _ | _ | code
    case succ.zero => exact bne_eq_decide_ne ..
    all_goals rfl

/-! ### Division (R131) -/

theorem tyBits_signed_iff (t : Nat) : (tyBits t == 32 && tySigned t) = true ↔ t = 0 := by
  unfold tyBits tySigned
  by_cases h2 : t = 2
  · simp [h2]
  · by_cases h0 : t = 0 <;> simp [h0, h2]

section
variable {i : FormL → Instr} {o : Op} {x y : Ctx' → Nat} (body : Ctx' → Go)

/-- An integer producer: on the control core its X register is to take a 32-bit signed result sign-extended. -/
theorem produces_int (hi : ∀ f s, exec (i f) s = issueL o f body s) (hbody : ∀ c, body c = intProduce x c) (hx : ∀ c, x c = y c) :
    Produces i o (fun c => if c.a.kind = .task then .x c.f.dst.toNat else .v c.f.dst.toNat (tyRegs (modTy c.f.mod)))
      (fun c => if c.a.kind = .task ∧ modTy c.f.mod = 0 then sext 32 64 (y c) else y c) fun _ => 0 := by
  refine produces_of body hi fun c => (hbody c).trans ?_
  have hdst : c.dstTy c.ty = if c.a.kind = .task then .x c.f.dst.toNat else .v c.f.dst.toNat (tyRegs (modTy c.f.mod)) := by
    simp only [Ctx'.dstTy, Ctx'.ctl, beq_iff_eq]
    rfl
  have hsext : (c.ctl && c.w == 32 && tySigned c.ty) = true ↔ c.a.kind = .task ∧ modTy c.f.mod = 0 := by
    rw [Bool.and_assoc, Bool.and_eq_true, ← tyBits_signed_iff, Ctx'.ctl, beq_iff_eq]
    rfl
  unfold intProduce
  simp only [hdst, hsext, hx]

end

theorem divide_eq (t : Nat) (sat : Bool) (x y : Int) :
    divide (tyBits t) (tySigned t) sat x y = if y = 0 then 2 ^ tyBits t - 1 else fitted t sat (x.tdiv y) := by
  simp only [divide, narrow_eq_fitted, beq_iff_eq]
theorem remainder_eq (t : Nat) (x y : Int) : remainder (tyBits t) x y = fitted t false (if y = 0 then x else x.tmod y) := by
  simp only [remainder, beq_iff_eq]
  rfl

/-- Settles O12: quotient and remainder are the integers' own, toward zero. -/
theorem integerDivision : Obligations.IntegerDivision := by
  unfold Obligations.IntegerDivision
  intro ty w a b dst out none
  refine ⟨?idiv, ?irem⟩
  case idiv => exact produces_int bodyIdiv (fun _ _ => rfl) (fun _ => rfl) fun c => divide_eq (ty c) (modBit c.f.mod 9) (a c) (b c)
  case irem => exact produces_int bodyIrem (fun _ _ => rfl) (fun _ => rfl) fun c => remainder_eq (ty c) (a c) (b c)

end Sys2Proof.Machine
end

section
/-!
PROOF. Floating-point instructions (R141 to R153): each body is one operation of the number model on the modified operands.
-/
namespace Sys2Proof.Machine

/-! ### Sums, products and packed halves (R141, R142, R148) -/

section
variable {i : FormL → Instr} {j : FormS → Instr} {o : Op} {t : Ctx' → Nat} {r : Ctx' → Nat × BitVec 5} (body : Ctx' → Go)

theorem floats_both (hi : ∀ f s, exec (i f) s = issueL o f body s) (hj : ∀ f s, exec (j f) s = issueS o f body s)
    (hbody : ∀ c, body c = .next (c.putF (t c) (r c))) : Floats i o t r ∧ FloatsS j o t r :=
  ⟨floats_of body hi hbody, floatsS_of body hj hbody⟩

end

theorem low_half (x : Nat) : low 16 x = x / 65536 ^ 0 % 65536 := by rw [Nat.pow_zero, Nat.div_one]; rfl
theorem high_half (x : Nat) : bitsN x 31 16 = x / 65536 ^ 1 % 65536 := by rw [Nat.pow_one]; rfl

/-- A packed operation writes its two halves side by side, with the flags of both. -/
theorem packed_eq (op : Nat → Nat → Nat → Nat × BitVec 5) (c : Ctx') :
    packed op c = .next (c.putF 4 (
      let r (i : Nat) := op (c.va / 65536 ^ i % 65536) (c.vb / 65536 ^ i % 65536) (c.vc / 65536 ^ i % 65536)
      ((r 0).1 + (r 1).1 * 65536, (r 0).2 ||| (r 1).2))) := by
  simp only [packed, low_half, high_half, BitVec.or_assoc]
  rfl

/-- Settles O13: the scalar bodies are the rule's own operation; a packed body is that operation on each half. -/
theorem floatArithmetic : Obligations.FloatArithmetic := by
  unfold Obligations.FloatArithmetic
  refine ⟨?scalar, ?packed⟩
  case scalar =>
    intro ty f m a b d sat sum diff prod fma both
    refine ⟨?fadd, ?fsub, ?fmul, ?ffma, ?dadd, ?dmul, ?dfma⟩
    case fadd => exact floats_both bodyFadd (fun _ _ => rfl) (fun _ _ => rfl) fun _ => rfl
    case fsub => exact floats_both bodyFsub (fun _ _ => rfl) (fun _ _ => rfl) fun _ => rfl
    case fmul => exact floats_both bodyFmul (fun _ _ => rfl) (fun _ _ => rfl) fun _ => rfl
    case ffma => exact floats_both bodyFfma (fun _ _ => rfl) (fun _ _ => rfl) fun _ => rfl
    case dadd => exact floats_both bodyDadd (fun _ _ => rfl) (fun _ _ => rfl) fun _ => rfl
    case dmul => exact floats_both bodyDmul (fun _ _ => rfl) (fun _ _ => rfl) fun _ => rfl
    case dfma => exact floats_both bodyDfma (fun _ _ => rfl) (fun _ _ => rfl) fun _ => rfl
  case packed =>
    intro f m half a b d sat sum prod fma pair both
    refine ⟨?hfma2, ?hadd2, ?hmul2⟩
    case hfma2 => exact floats_both bodyHfma2 (fun _ _ => rfl) (fun _ _ => rfl) fun c => packed_eq (three c.fm c) c
    case hadd2 => exact floats_both bodyHadd2 (fun _ _ => rfl) (fun _ _ => rfl) fun c => packed_eq (fun a b _ => two opAdd c.fm c a b) c
    case hmul2 => exact floats_both bodyHmul2 (fun _ _ => rfl) (fun _ _ => rfl) fun c => packed_eq (fun a b _ => two opMul c.fm c a b) c

/-! ### Selection, compare, class, rounding and scaling (R143 to R147) -/

theorem scale_exponent (e : Int) : (if e < -5000 then -5000 else if 5000 < e then 5000 else e) = max (-5000) (min 5000 e) := by
  split
  · omega
  · split <;> omega

/-- Settles O14: each body is the rule's own operation; FSCL's exponent is cut at ±5000. -/
theorem floatSelection : Obligations.FloatSelection := by
  unfold Obligations.FloatSelection
  intro ty f m xa xb a b cmp fl e scaled
  refine ⟨?fmin, ?fmax, ?fset, ?dset, ?fclass, ?frnd, ?fscl⟩
  case fmin => exact floats_both bodyFmin (fun _ _ => rfl) (fun _ _ => rfl) fun _ => rfl
  case fmax => exact floats_both bodyFmax (fun _ _ => rfl) (fun _ _ => rfl) fun _ => rfl
  case fset => exact decides_of bodyFset (fun _ _ => rfl) fun _ => rfl
  case dset => exact decides_of bodyDset (fun _ _ => rfl) fun _ => rfl
  case fclass => exact writes_put bodyFclass (fun _ _ => rfl) fun _ => rfl
  case frnd => exact floats_of bodyFrnd (fun _ _ => rfl) fun _ => rfl
  case fscl =>
    refine floats_of bodyFscl (fun _ _ => rfl) fun c => ?_
    simp only [bodyFscl, scale_exponent]
    rfl

/-! ### Producers (R149 to R153) -/

/-- Settles O15: each body is a producer of its rule's own operation. -/
theorem floatProducers : Obligations.FloatProducers := by
  unfold Obligations.FloatProducers
  intro ty f m a b dest single double quot root special sfu
  refine ⟨?fdiv, ?fdivS, ?ddiv, ?dsqrt, ?sqrt, ?rcp, ?rsq, ?ex2, ?lg2, ?sin, ?cos, ?tanh⟩
  case fdiv => exact produces_of bodyFdiv (fun _ _ => rfl) fun _ => rfl
  case fdivS => exact producesS_of bodyFdiv (fun _ _ => rfl) fun _ => rfl
  case ddiv => exact produces_of bodyDdiv (fun _ _ => rfl) fun _ => rfl
  case dsqrt => exact produces_of bodyDsqrt (fun _ _ => rfl) fun _ => rfl
  case sqrt => exact produces_of bodySqrt (fun _ _ => rfl) fun _ => rfl
  case rcp => exact produces_of bodyRcp (fun _ _ => rfl) fun _ => rfl
  case rsq => exact produces_of bodyRsq (fun _ _ => rfl) fun _ => rfl
  case ex2 => exact produces_of bodyEx2 (fun _ _ => rfl) fun _ => rfl
  case lg2 => exact produces_of bodyLg2 (fun _ _ => rfl) fun _ => rfl
  case sin => exact produces_of bodySin (fun _ _ => rfl) fun _ => rfl
  case cos => exact produces_of bodyCos (fun _ _ => rfl) fun _ => rfl
  case tanh => exact produces_of bodyTanh (fun _ _ => rfl) fun _ => rfl

end Sys2Proof.Machine
end

section
/-!
PROOF. LAUNCH, APPEND and WLTAKE (R163, R164, R167 to R170), and the arrival of an item.
-/
namespace Sys2Proof.Machine

/-! ### LAUNCH (R163) -/

section
variable {c : Ctx'} {out : Out} {u : State} {qk img n r : Nat} {m : EntryMeta} {q : Queue}

/-- A push of what the instruction has read, to a queue without room: the party waits with what it has read (R163, R234). -/
theorem pushOr_read_waits (hout : out = .next (settle c.k c.a c.len (pushOr c u qk img m (some r)))) (hthere : agent? u c.k = some { c.a with top := n })
    (hq : queue? u qk = some q) (hstate : q.state ≠ .disabled) (hfull : q.full = true) :
    Waits { c with s := u, a := { c.a with top := n, image := some r } } out .retry := by
  have hgo : pushOr c u qk img m (some r) = .wait (putAgent u c.k { c.a with top := n, image := some r }) .retry := by
    unfold pushOr
    simp only [hq, beq_eq_false_iff_ne.mpr hstate, hfull, Bool.false_eq_true, if_false, Option.isSome_some, if_true]
    exact congrArg (Go.wait · .retry) (modAgent_some hthere _)
  rw [hout, hgo, settle, modAgent_some (agent?_putAgent_same _ _ _), putAgent_putAgent]
  rfl

section
variable (hout : out = .next (settle c.k c.a c.len (bodyLaunch c)))
include hout

theorem launch_misaligned (hhere : agent? c.s c.k = some c.a) (halign : c.va % 64 ≠ 0) : Faults c out .misaligned { addr := BitVec.ofNat 64 c.va } := by
  have hbody : bodyLaunch c = .freeze c.s .misaligned { addr := BitVec.ofNat 64 c.va } := if_pos (by simpa using halign)
  rw [hbody] at hout
  exact faults_settle hout rfl hhere
/-- LAUNCH of a header that has been read is a push to the launch queue, with the releases of the thread's fences. -/
theorem launch_reads (halign : c.va % 64 = 0) (hread : readOnce c c.va 64 = .inr (u, r)) :
    out = .next (settle c.k c.a c.len (pushOr c u (qkey c.a.asid (modBits c.f.mod 1 0)) r
      { issuer := some (c.k, c.a.uid), group := if c.a.kind = .thread then some c.a.group else none, lclk := c.a.relF } (some r))) := by
  have hbody : bodyLaunch c = pushOr c u (qkey c.a.asid (modBits c.f.mod 1 0)) r { metaOf c.k c.a [] with lclk := c.a.relF } (some r) := by
    unfold bodyLaunch
    rw [if_neg (by simp [halign])]
    simp only [hread]
    rfl
  rw [hout, hbody, metaOf_eq]
theorem launch_disabled (hhere : agent? c.s c.k = some c.a) (halign : c.va % 64 = 0) (hread : readOnce c c.va 64 = .inr (u, r))
    (hdisabled : disabled u (qkey c.a.asid (modBits c.f.mod 1 0)) = true) : Faults c out .queueError {} := by
  have hpush := launch_reads hout halign hread
  rw [pushOr_disabled hdisabled] at hpush
  exact faults_settle hpush rfl hhere

end

end

/-! ### An item on its way (R164, R167) -/

/-- A party as it waits for the arrival of the item that it appends. -/
def Agent.appending (a : Agent) (f : FormL) (len : Nat) : Agent := { a with inst := some (.append, f, len), wait := .own, age := 0, urgent := false }
/-- The item of an APPEND, with what its thread has released (R170). -/
def appended (c : Ctx') : Appending :=
  { id := c.s.nextId, key := c.k, uid := c.a.uid, kernel := c.a.kernel, list := c.vb % 2 ^ 32, item := BitVec.ofNat 64 c.va, rels := c.a.relF }
/-- The state once an APPEND's item has arrived, and before its list, or a taker, has it: its thread still waits. -/
def itemLanded (c : Ctx') : State := putAgent { c.s with nextId := c.s.nextId + 1 } c.k (c.a.appending c.f c.len)
/-- The state with an APPEND's item in flight. -/
def itemSent (c : Ctx') : State := { itemLanded c with appends := c.s.appends ++ [appended c] }

/-- What is asked of a list before an APPEND waits at a release fence: the list is there, and its kernel is not quiescent. -/
def listOpen (c : Ctx') (kn : Kernel) : Prop := kernel? c.s c.a.kernel = some kn ∧ c.vb % 2 ^ 32 < kn.nwl ∧ kn.quiet = false

section
variable {c : Ctx'} {out : Out} {kn : Kernel}

theorem bodyAppend_none (h : ∀ kn, kernel? c.s c.a.kernel = some kn → kn.nwl ≤ c.vb % 2 ^ 32 ∨ kn.quiet = true) :
    bodyAppend c = .freeze c.s .queueError {} := by
  unfold bodyAppend
  cases hk : kernel? c.s c.a.kernel with
  | none => rfl
  | some kn => exact if_pos (by simpa [low] using h kn hk)
theorem bodyAppend_open (h : listOpen c kn) : bodyAppend c =
    if c.a.fences.any fun x => x.order != 2 && fenceHolds c.s (c.s.reqs.filter (·.who.uid == c.a.uid)) c.a.uid c.a.seq false x then .wait c.s .retry
    else .wait (modAgent { c.s with nextId := c.s.nextId + 1, appends := c.s.appends ++ [appended c] } c.k fun a =>
      { a with inst := some (.append, c.f, c.len) }) .own := by
  obtain ⟨hk, hd, hquiet⟩ := h
  unfold bodyAppend
  simp only [hk]
  exact if_neg (by simpa [low, hquiet] using hd)

section
variable (hhere : agent? c.s c.k = some c.a) (hout : out = .next (settle c.k c.a c.len (bodyAppend c)))
include hhere hout

theorem append_refused (h : ∀ kn, kernel? c.s c.a.kernel = some kn → kn.nwl ≤ c.vb % 2 ^ 32 ∨ kn.quiet = true) : Faults c out .queueError {} := by
  rw [bodyAppend_none h] at hout
  exact faults_settle hout rfl hhere
/-- Behind a release fence, an APPEND waits for what its thread wrote before (R170). -/
theorem append_waits (h : listOpen c kn) (hheld : ∃ x ∈ c.a.fences, x.order ≠ 2 ∧
    fenceHolds c.s (c.s.reqs.filter (·.who.uid == c.a.uid)) c.a.uid c.a.seq false x = true) : Waits c out .retry := by
  refine waits_settle hhere hout ((bodyAppend_open h).trans (if_pos ?_))
  obtain ⟨x, hx, horder, hholds⟩ := hheld
  exact List.any_eq_true.mpr ⟨x, hx, by simp [horder, hholds]⟩
theorem append_sends (h : listOpen c kn) (hfree : ∀ x ∈ c.a.fences, ¬ (x.order ≠ 2 ∧
    fenceHolds c.s (c.s.reqs.filter (·.who.uid == c.a.uid)) c.a.uid c.a.seq false x = true)) : out = .next (itemSent c) := by
  have hbody := (bodyAppend_open h).trans (if_neg fun hany => by
    obtain ⟨x, hx, hholds⟩ := List.any_eq_true.mp hany
    exact hfree x hx (by simpa using hholds))
  have hthere : agent? { c.s with nextId := c.s.nextId + 1, appends := c.s.appends ++ [appended c] } c.k = some c.a := hhere
  rw [hout, hbody, modAgent_some hthere, settle, modAgent_some (agent?_putAgent_same _ _ _), putAgent_putAgent]
  rfl

end

/-! ### The arrival of an item (R164, R167) -/

theorem itemLanded_thread (c : Ctx') : agent? (itemLanded c) c.k = some (c.a.appending c.f c.len) := agent?_putAgent_same _ _ _
theorem itemLanded_others {c : Ctx'} : Others [c.k] c.s (itemLanded c) := Others.putAgent _ _ _
theorem itemLanded_only (c : Ctx') : Only [.ids] c.s (itemLanded c) := fun p hp => by
  cases p with
  | ids => exact absurd List.mem_cons_self hp
  | _ => simp [Same, itemLanded, group?, ctx?]

/-- A search that passes over an entry of a map finds the same once the entry has changed. -/
theorem find?_fput {α : Type} {n : Nat} {x y : α} {p : Nat × α → Bool} (hx : p (n, x) = false) (hy : p (n, y) = false) :
    ∀ {m : FMap α}, fget? m n = some x → (fput m n y).find? p = m.find? p
  | [], h => by cases h
  | (k, v) :: t, h => by
    simp only [fget?, beq_iff_eq] at h
    by_cases hk : k = n
    · subst hk
      obtain rfl : v = x := by simpa using h
      simp [fput, hx, hy]
    · rw [if_neg hk] at h
      by_cases hlt : n < k
      · rw [if_pos hlt] at h; cases h
      · rw [if_neg hlt] at h
        simp [fput, hlt, Ne.symm hk, List.find?_cons, find?_fput hx hy h]
theorem agentOf_putAgent {s : State} {k uid : Nat} {a b : Agent} (h : agent? s k = some a) (ha : a.uid ≠ uid) (hb : b.uid ≠ uid) :
    agentOf (putAgent s k b) uid = agentOf s uid :=
  find?_fput (p := fun x : Nat × Agent => x.2.uid == uid) (beq_eq_false_iff_ne.mpr ha) (beq_eq_false_iff_ne.mpr hb) h

/-- What an arrival finds: the one item with its number, which it takes out of flight. -/
theorem find_appended (hfresh : ∀ p ∈ c.s.appends, p.id ≠ c.s.nextId) : (itemSent c).appends.find? (·.id == c.s.nextId) = some (appended c) := by
  have hnone : c.s.appends.find? (·.id == c.s.nextId) = none := List.find?_eq_none.mpr fun p hp => by simpa using hfresh p hp
  simp [itemSent, List.find?_append, hnone, appended]
theorem itemSent_landed (hfresh : ∀ p ∈ c.s.appends, p.id ≠ c.s.nextId) :
    { itemSent c with appends := (itemSent c).appends.filter (·.id != c.s.nextId) } = itemLanded c := by
  have hkept : c.s.appends.filter (·.id != c.s.nextId) = c.s.appends := List.filter_eq_self.mpr fun p hp => by simpa using hfresh p hp
  have hleft : (c.s.appends ++ [appended c]).filter (·.id != c.s.nextId) = c.s.appends := by rw [List.filter_append, hkept]; simp [appended]
  exact congrArg (fun l => ({ itemLanded c with appends := l } : State)) hleft

end

/-! ### The end of a wait -/

section
variable {s : State} {k : Nat}

/-- A thread whose item has arrived passes its APPEND (R167). -/
theorem appended_passes {c : Ctx'} {n : Agent} (hthere : agent? s c.k = some n) (hn : n.uncapped = (c.a.appending c.f c.len).uncapped) :
    ∃ b, Passed c.len c.a (finishWait s c.k none []) c.k b ∧ b.core = { c.a.core with inst := none } := by
  have hinst : n.inst = some (.append, c.f, c.len) := (congrArg Agent.inst hn :)
  have hblk : n.blk = c.a.blk := (congrArg Agent.blk hn :)
  have hpc : n.pc = c.a.pc := (uncapped_pc hn :)
  have hcore : n.core = { c.a.core with inst := some (.append, c.f, c.len) } := uncapped_core hn
  obtain ⟨-, -, b, hpassed, hb⟩ := finishWait_spec hthere hinst none []
  refine ⟨b, ⟨hpassed.here, ?_, hpassed.wait⟩, hb.trans ?_⟩
  · rw [hpassed.pc, hpc]
    exact advance_pc hblk _ _
  · exact congrArg (fun x : Agent => { x with inst := none }) hcore

/-- What a WLTAKE delivers, and what it leaves (R168, R170). -/
theorem take_rest (a : Agent) (f : FormL) (item : Option (DWord × List Rel)) : ∃ v p q t, a.take f item =
    { a with v := v, preds := p, pfull := q, ppoison := t, acqP := (item.elim [] (·.2)).foldl addRel a.acqP } := by
  obtain ⟨v, hv⟩ := putV_rest a f.dst.toNat 2 (item.elim 0 (·.1.toNat))
  obtain ⟨p, q, t, hp⟩ := setP_rest (a.putV f.dst.toNat 2 (item.elim 0 (·.1.toNat))) f.c.toNat item.isNone
  refine ⟨v, p, q, t, ?_⟩
  unfold Agent.take
  rw [hp, hv]
theorem take_blk (a : Agent) (f : FormL) (item : Option (DWord × List Rel)) : (a.take f item).blk = a.blk := by
  obtain ⟨v, p, q, t, e⟩ := take_rest a f item
  rw [e]
theorem take_wrote (a : Agent) (f : FormL) (item : Option (DWord × List Rel)) :
    WroteV a (a.take f item) f.dst.toNat 2 (item.elim 0 (·.1.toNat)) ∧ WroteP a (a.take f item) f.c.toNat item.isNone := by
  obtain ⟨v, hv⟩ := putV_rest a f.dst.toNat 2 (item.elim 0 (·.1.toNat))
  obtain ⟨p, q, t, hp⟩ := setP_rest (a.putV f.dst.toNat 2 (item.elim 0 (·.1.toNat))) f.c.toNat item.isNone
  have hwroteV := wroteV_putV a f.dst.toNat 2 (item.elim 0 (·.1.toNat))
  have hwroteP := wroteP_setP (a.putV f.dst.toNat 2 (item.elim 0 (·.1.toNat))) f.c.toNat item.isNone
  unfold Agent.take
  constructor
  · rw [hp]; exact hwroteV
  · rw [hv] at hwroteP ⊢; exact hwroteP
/-- A thread whose WLTAKE has completed, whatever it waits in then. -/
theorem taken_spec {a b : Agent} {f : FormL} {item : Option (DWord × List Rel)} {i : Option (Op × FormL × Nat)}
    (hb : b.core = { (a.take f item).core with inst := i }) :
    WroteV a b f.dst.toNat 2 (item.elim 0 (·.1.toNat)) ∧ WroteP a b f.c.toNat item.isNone ∧ SameX a b ∧ b.fl = a.fl ∧
      b.acqP = (item.elim [] (·.2)).foldl addRel a.acqP ∧ b.inst = i := by
  have hcore : b.core = ({ (a.take f item) with inst := i } : Agent).core := hb
  obtain ⟨hv, hp⟩ := take_wrote a f item
  obtain ⟨v, p, q, t, e⟩ := take_rest a f item
  have hheld : b.core.acqP = (a.take f item).acqP ∧ b.core.inst = i := by rw [hb]; exact ⟨rfl, rfl⟩
  refine ⟨core_wroteV hcore hv, core_wroteP hcore hp, core_sameX hcore ?_, (core_fl hcore).trans ?_, hheld.1.trans ?_, hheld.2⟩
  · rw [e]; exact fun _ => rfl
  · rw [e]
  · rw [e]

/-- A WLTAKE that has completed leaves the rest of its thread (R168, R170). -/
theorem take_given {a b : Agent} {f : FormL} {item : Option (DWord × List Rel)} (hb : b.core = (a.take f item).core) :
    WroteV a b f.dst.toNat 2 (item.elim 0 (·.1.toNat)) ∧ WroteP a b f.c.toNat item.isNone ∧ SameX a b ∧ b.fl = a.fl ∧
      b.acqP = (item.elim [] (·.2)).foldl addRel a.acqP ∧ SameRest { a with acqP := b.acqP } b := by
  obtain ⟨hv, hp, hx, hfl, hacq, -⟩ := taken_spec (i := (a.take f item).inst) hb
  obtain ⟨v, p, q, t, e⟩ := take_rest a f item
  refine ⟨hv, hp, hx, hfl, hacq, core_sameRest hb ?_⟩
  rw [e, hacq]
  rfl

/-- A waiting WLTAKE completes where its thread stands (R168). -/
theorem finishTake_spec {uid j len : Nat} {m : Agent} {o : Op} {g : FormL} (hof : agentOf s uid = some (j, m)) (hinst : m.inst = some (o, g, len))
    (item : Option (DWord × List Rel)) : Only [] s (finishTake s uid item) ∧ Bystanders [j] s (finishTake s uid item) ∧
    ∃ e, Passed len m (finishTake s uid item) j e ∧ e.core = { (m.take g item).core with inst := none } := by
  have hfinish : finishTake s uid item = settle j m len (.next (putAgent s j { (m.take g item) with inst := none, wait := .none })) := by
    unfold finishTake
    simp only [hof, hinst]
  have hblk : ({ (m.take g item) with inst := none, wait := .none } : Agent).blk = m.blk := by
    obtain ⟨v, p, q, t, e⟩ := take_rest m g item
    rw [e]
  have hthere := agent?_putAgent_same s j { (m.take g item) with inst := none, wait := .none }
  obtain ⟨honly, -, e, he, hcore, hpc, hwait⟩ := settle_next_spec hthere m len
  rw [hfinish]
  exact ⟨(Only.putAgent _ _ _).trans honly, (Bystanders.putAgent _ _ _).trans (settle_next_bystanders hthere m len), e,
    ⟨he, hpc.trans (advance_pc hblk _ _), hwait⟩, hcore⟩
theorem wlist_putList (s : State) (kern d : Nat) (l : WList) : wlist (putList s kern d l) kern d = l := fgetD_fput_same ..
theorem wlist_of_lists {s u : State} (h : u.lists = s.lists) (kern d : Nat) : wlist u kern d = wlist s kern d := congrArg (fgetD · (lkey kern d) ({} : WList)) h
theorem Only.putList (s : State) (kern d : Nat) (l : WList) : Only [.lists] s (putList s kern d l) := fun p hp => by
  cases p with
  | lists => exact absurd List.mem_cons_self hp
  | _ => simp [Same, Machine.putList, group?, ctx?]

end

/-! ### The arrival of an item, by what its list holds (R164, R167) -/

section
variable {c : Ctx'} {kn : Kernel}

/-- The list that an APPEND names. -/
def listOf (c : Ctx') : WList := wlist c.s c.a.kernel (c.vb % 2 ^ 32)
/-- The state with another list in its place, once the item has arrived. -/
def listed (c : Ctx') (l : WList) : State := putList (itemLanded c) c.a.kernel (c.vb % 2 ^ 32) l

/-- The thread that appended goes on, if it is there still. -/
def appenderGoesOn (c : Ctx') (t : State) : State :=
  match party? t c.k c.a.uid with
  | some a => if a.state != .exited && a.wait == .own then finishWait t c.k none [] else t
  | none => t
/-- What an item's arrival leads to: its list's first taker has it, or its list, or its thread has the fault of a full one. -/
def arrived (c : Ctx') : State :=
  match (listOf c).takers with
  | x :: ts => appenderGoesOn c (finishTake (listed c { listOf c with takers := ts }) x (some (BitVec.ofNat 64 c.va, c.a.relF)))
  | [] =>
    if (kernel? c.s c.a.kernel).any fun kn => (listOf c).items.length < 2 ^ kn.wlcapl then
      appenderGoesOn c (listed c { listOf c with items := (listOf c).items ++ [(BitVec.ofNat 64 c.va, c.a.relF)] })
    else match party? (itemLanded c) c.k c.a.uid with
      | some a => if a.state != .exited then freeze (itemLanded c) c.k .queueError else itemLanded c
      | none => itemLanded c

theorem appendArrival_eq (hfresh : ∀ p ∈ c.s.appends, p.id ≠ c.s.nextId) :
    exec (.appendArrival c.s.nextId) (itemSent c) = event (fun _ => arrived c) (itemSent c) := by
  show execAppendArrival _ _ = _
  unfold execAppendArrival
  refine event_congr ?_
  simp only [find_appended hfresh, itemSent_landed hfresh]
  rfl

section
variable (hstate : c.a.state = .ready)
include hstate

theorem appenderGoesOn_eq {t : State} {n : Agent} (hthere : agent? t c.k = some n) (hn : n.uncapped = (c.a.appending c.f c.len).uncapped) :
    appenderGoesOn c t = finishWait t c.k none [] := by
  have huid : n.uid = c.a.uid := (congrArg Agent.uid hn :)
  have hready : n.state = .ready := (congrArg Agent.state hn :).trans hstate
  have hown : n.wait = .own := uncapped_wait hn
  unfold appenderGoesOn
  rw [← huid, party?_of hthere]
  simp [hready, hown]
theorem arrived_room (hkernel : kernel? c.s c.a.kernel = some kn) (htakers : (listOf c).takers = []) (hroom : (listOf c).items.length < 2 ^ kn.wlcapl) :
    arrived c = finishWait (listed c { listOf c with items := (listOf c).items ++ [(BitVec.ofNat 64 c.va, c.a.relF)] }) c.k none [] := by
  unfold arrived
  simp only [htakers, hkernel]
  rw [if_pos (by simpa using hroom)]
  exact appenderGoesOn_eq hstate (itemLanded_thread c) rfl
theorem arrived_full (hkernel : kernel? c.s c.a.kernel = some kn) (htakers : (listOf c).takers = []) (hfull : 2 ^ kn.wlcapl ≤ (listOf c).items.length) :
    arrived c = freeze (itemLanded c) c.k .queueError := by
  have hparty : party? (itemLanded c) c.k c.a.uid = some (c.a.appending c.f c.len) := party?_of (itemLanded_thread c)
  have hready : (c.a.appending c.f c.len).state = .ready := hstate
  unfold arrived
  simp only [htakers, hkernel, hparty]
  rw [if_neg (by simpa using hfull), if_pos (by simp [hready])]

/-- With a taker waiting, the arrival completes its WLTAKE, and then the APPEND. -/
theorem arrived_taken {x j len : Nat} {ts : List Nat} {m : Agent} {o : Op} {g : FormL} (htakers : (listOf c).takers = x :: ts) (hhere : agent? c.s c.k = some c.a)
    (hx : x ≠ c.a.uid) (hof : agentOf c.s x = some (j, m)) (hj : j ≠ c.k) (hinst : m.inst = some (o, g, len)) :
    Only [] (listed c { listOf c with takers := ts }) (arrived c) ∧ Bystanders [c.k, j] (listed c { listOf c with takers := ts }) (arrived c) ∧ ∃ b e,
      Passed c.len c.a (arrived c) c.k b ∧ b.core = { c.a.core with inst := none } ∧
      Passed len m (arrived c) j e ∧ e.core = { (m.take g (some (BitVec.ofNat 64 c.va, c.a.relF))).core with inst := none } := by
  have hfound : agentOf (listed c { listOf c with takers := ts }) x = some (j, m) :=
    (agentOf_putAgent (s := { c.s with nextId := c.s.nextId + 1 }) (b := c.a.appending c.f c.len) hhere hx.symm hx.symm).trans hof
  obtain ⟨honly, hby, e, hpassed, hcore⟩ := finishTake_spec hfound hinst (some (BitVec.ofNat 64 c.va, c.a.relF))
  obtain ⟨n, hn, hsame⟩ := hby.some (by simpa using hj.symm) (itemLanded_thread c)
  have harrived : arrived c = finishWait (finishTake (listed c { listOf c with takers := ts }) x (some (BitVec.ofNat 64 c.va, c.a.relF))) c.k none [] := by
    unfold arrived
    simp only [htakers]
    exact appenderGoesOn_eq hstate hn hsame
  rw [harrived]
  obtain ⟨b, hb, hbcore⟩ := appended_passes hn hsame
  obtain ⟨honly', hby'⟩ := finishWait_bystanders (finishTake (listed c { listOf c with takers := ts }) x (some (BitVec.ofNat 64 c.va, c.a.relF))) c.k none []
  obtain ⟨e', he', hsame'⟩ := hby'.some (by simpa using hj) hpassed.here
  exact ⟨honly.trans honly', (hby.mono (by simp)).trans (hby'.mono (by simp)), b, e', hb, hbcore,
    ⟨he', (uncapped_pc hsame').trans hpassed.pc, (uncapped_wait hsame').trans hpassed.wait⟩, (uncapped_core hsame').trans hcore⟩

end

theorem listed_only (c : Ctx') (l : WList) : Only [.ids, .lists, .trigs] c.s (listed c l) :=
  ((itemLanded_only c).mono (by simp)).trans ((Only.putList _ _ _ _).mono (by simp))

end

/-! ### WLTAKE (R168 to R170) -/

/-- A thread as it waits for an item: its destinations are empty. -/
def Agent.taking (a : Agent) (f : FormL) (len : Nat) : Agent := { ((a.emptyV f.dst.toNat 2).emptyP f.c.toNat) with inst := some (.wltake, f, len) }
theorem taking_rest (a : Agent) (f : FormL) (len : Nat) : ∃ v q t, a.taking f len =
    { a with v := v, pfull := q, ppoison := t, inst := some (.wltake, f, len) } := by
  obtain ⟨v, hv⟩ := emptyV_rest a f.dst.toNat 2
  obtain ⟨q, t, hp⟩ := emptyP_rest (a.emptyV f.dst.toNat 2) f.c.toNat
  refine ⟨v, q, t, ?_⟩
  unfold Agent.taking
  rw [hp, hv]
theorem taking_emptied (a : Agent) (f : FormL) (len : Nat) : EmptiedV a (a.taking f len) f.dst.toNat 2 ∧ EmptiedP a (a.taking f len) f.c.toNat := by
  obtain ⟨v, hv⟩ := emptyV_rest a f.dst.toNat 2
  obtain ⟨q, t, hp⟩ := emptyP_rest (a.emptyV f.dst.toNat 2) f.c.toNat
  have hemptiedV := emptiedV_emptyV a f.dst.toNat 2
  have hemptiedP := emptiedP_emptyP (a.emptyV f.dst.toNat 2) f.c.toNat
  unfold Agent.taking
  constructor
  · rw [hp]; exact hemptiedV
  · rw [hv] at hemptiedP ⊢; exact hemptiedP

section
variable {c : Ctx'} {kn : Kernel} (hkernel : kernel? c.s c.a.kernel = some kn) (hd : c.vb % 2 ^ 32 < kn.nwl)
include hkernel hd

theorem wltake_quiet (hquiet : kn.quiet = true) : bodyWltake c = .next (c.upd fun a => a.take c.f none) := by
  unfold bodyWltake
  simp only [hkernel, hquiet]
  exact if_neg (by simpa [low] using hd)

section
variable (hquiet : kn.quiet = false) (hhere : agent? c.s c.k = some c.a)
include hquiet hhere

theorem wltake_takes {x : DWord × List Rel} {t : List (DWord × List Rel)} (hitems : (listOf c).items = x :: t) :
    bodyWltake c = .next (putAgent (putList c.s c.a.kernel (c.vb % 2 ^ 32) { listOf c with items := t }) c.k (c.a.take c.f (some x))) := by
  have hitems' : (wlist c.s c.a.kernel (low 32 c.vb)).items = x :: t := hitems
  have hthere : agent? (putList c.s c.a.kernel (c.vb % 2 ^ 32) { listOf c with items := t }) c.k = some c.a := hhere
  unfold bodyWltake
  simp only [hkernel, hquiet, hitems']
  rw [if_neg (by simpa [low] using hd)]
  exact congrArg Go.next (modAgent_some hthere _)
theorem wltake_waits (hitems : (listOf c).items = []) :
    bodyWltake c = .wait (putAgent (putList c.s c.a.kernel (c.vb % 2 ^ 32) { listOf c with takers := (listOf c).takers ++ [c.a.uid] }) c.k
      (c.a.taking c.f c.len)) (.take (lkey c.a.kernel (c.vb % 2 ^ 32))) := by
  have hitems' : (wlist c.s c.a.kernel (low 32 c.vb)).items = [] := hitems
  have hthere : agent? (putList c.s c.a.kernel (c.vb % 2 ^ 32) { takers := (listOf c).takers ++ [c.a.uid] }) c.k = some c.a := hhere
  unfold bodyWltake
  simp only [hkernel, hquiet, hitems', hitems]
  rw [if_neg (by simpa [low] using hd)]
  exact congrArg (Go.wait · _) (modAgent_some hthere _)

end

end

/-! ### The statement -/

section
variable {c : Ctx'} {kn : Kernel} (hstate : c.a.state = .ready) (hfresh : ∀ p ∈ c.s.appends, p.id ≠ c.s.nextId)
include hstate hfresh

/-- The arrival at a list with room and without takers (R167). -/
theorem arrival_listed (hkernel : kernel? c.s c.a.kernel = some kn) (htakers : (listOf c).takers = []) (hroom : (listOf c).items.length < 2 ^ kn.wlcapl) :
    ∃ u b, exec (.appendArrival c.s.nextId) (itemSent c) = .next u ∧ Passed c.len c.a u c.k b ∧ Only [.ids, .lists, .trigs] c.s u ∧ Others [c.k] c.s u ∧
      b.core = { c.a.core with inst := none } ∧
      wlist u c.a.kernel (c.vb % 2 ^ 32) = { listOf c with items := (listOf c).items ++ [(BitVec.ofNat 64 c.va, c.a.relF)] } := by
  rw [appendArrival_eq hfresh, arrived_room hstate hkernel htakers hroom]
  generalize hl : ({ listOf c with items := (listOf c).items ++ [(BitVec.ofNat 64 c.va, c.a.relF)] } : WList) = l
  obtain ⟨u, hu, hlater, hafter, hkept⟩ := event_spec (fun _ => finishWait (listed c l) c.k none []) (itemSent c)
  obtain ⟨honly, hby⟩ := finishWait_bystanders (listed c l) c.k none []
  obtain ⟨b, hb, hcore⟩ := appended_passes (s := listed c l) (itemLanded_thread c) rfl
  have htu : Only [.trigs] (listed c l) u := honly.of_nil.trans hlater
  refine ⟨u, b, hu, ⟨hkept _ _ hb.here hb.wait, hb.pc, hb.wait⟩, (listed_only c l).trans (htu.mono (by simp)),
    (itemLanded_others.trans hby.others).trans (hafter _), hcore, ?_⟩
  exact (wlist_of_lists (htu .lists (by simp)) _ _).trans (wlist_putList _ _ _ _)
/-- The arrival at a list with a taker waiting (R168). -/
theorem arrival_taken {x j len : Nat} {ts : List Nat} {m : Agent} {o : Op} {g : FormL} (hhere : agent? c.s c.k = some c.a)
    (htakers : (listOf c).takers = x :: ts) (hx : x ≠ c.a.uid) (hof : agentOf c.s x = some (j, m)) (hj : j ≠ c.k) (hinst : m.inst = some (o, g, len)) :
    ∃ u b e, exec (.appendArrival c.s.nextId) (itemSent c) = .next u ∧ Passed c.len c.a u c.k b ∧ Passed len m u j e ∧
      Only [.ids, .lists, .trigs] c.s u ∧ Others [c.k, j] c.s u ∧ b.core = { c.a.core with inst := none } ∧
      wlist u c.a.kernel (c.vb % 2 ^ 32) = { listOf c with takers := ts } ∧ WroteV m e g.dst.toNat 2 (BitVec.ofNat 64 c.va).toNat ∧
      WroteP m e g.c.toNat false ∧ SameX m e ∧ e.fl = m.fl ∧ e.inst = none := by
  rw [appendArrival_eq hfresh]
  obtain ⟨honly, hby, b, e, hb, hbcore, he, hecore⟩ := arrived_taken hstate htakers hhere hx hof hj hinst
  generalize hl : ({ listOf c with takers := ts } : WList) = l at honly hby
  obtain ⟨u, hu, hlater, hafter, hkept⟩ := event_spec (fun _ => arrived c) (itemSent c)
  have htu : Only [.trigs] (listed c l) u := honly.of_nil.trans hlater
  obtain ⟨hv, hp, hxs, hfl, -, hnone⟩ := taken_spec hecore
  have hothers : Others [c.k, j] c.s (itemLanded c) := ((Bystanders.putAgent _ _ _).mono (by simp)).others
  refine ⟨u, b, e, hu, ⟨hkept _ _ hb.here hb.wait, hb.pc, hb.wait⟩, ⟨hkept _ _ he.here he.wait, he.pc, he.wait⟩,
    (listed_only c l).trans (htu.mono (by simp)), (hothers.trans hby.others).trans (hafter _), hbcore, ?_, hv, hp, hxs, hfl, hnone⟩
  exact (wlist_of_lists (htu .lists (by simp)) _ _).trans (wlist_putList _ _ _ _)
/-- The arrival at a full list (R167). -/
theorem arrival_refused (hkernel : kernel? c.s c.a.kernel = some kn) (htakers : (listOf c).takers = [])
    (hfull : 2 ^ kn.wlcapl ≤ (listOf c).items.length) : ∃ u b r, exec (.appendArrival c.s.nextId) (itemSent c) = .next u ∧ agent? u c.k = some b ∧
      b.state = .frozen ∧ b.pc = c.a.pc ∧ b.record = some r ∧ r.code = .queueError ∧ wlist u c.a.kernel (c.vb % 2 ^ 32) = listOf c := by
  rw [appendArrival_eq hfresh, arrived_full hstate hkernel htakers hfull]
  obtain ⟨honly, -, b, hb, hfrozen, hpc, -, hrecord⟩ := freeze_spec (itemLanded_thread c) .queueError {}
  obtain ⟨w, tr, e⟩ := after_looked (freeze (itemLanded c) c.k .queueError)
  have hevent : event (fun _ => freeze (itemLanded c) c.k .queueError) (itemSent c) = .next ((freeze (itemLanded c) c.k .queueError).looked w tr) :=
    congrArg Host.Outcome.next e
  have hlists : (freeze (itemLanded c) c.k .queueError).lists = c.s.lists := honly .lists (by simp)
  exact ⟨_, { b with wait := w b }, _, hevent, (agent?_looked _ _ _ _).trans (congrArg (Option.map _) hb), hfrozen, hpc, hrecord, rfl,
    wlist_of_lists hlists _ _⟩

end

/-- Settles O43: LAUNCH is a push of what it has read, APPEND a wait that its item's arrival ends, WLTAKE a take, an end or a wait. -/
theorem kernelWork : Obligations.KernelWork := by
  unfold Obligations.KernelWork
  refine ⟨fun f s k a h => ?launch, fun f s k a h hstate => ?append, ?takes, ?quiet, fun f s k a h => ?waits⟩
  case launch =>
    intro c qk
    have hout : exec (.launch f) s = .next (settle c.k c.a c.len (bodyLaunch c)) := issueL_clear h bodyLaunch
    refine ⟨launch_misaligned hout h.here, fun halign u r n hread hthere => ?_⟩
    have hpush := launch_reads hout halign hread
    exact ⟨launch_disabled (c := c) hout h.here halign hread, fun q hq hopen hfull => pushOr_read_waits (c := c) hpush hthere hq hopen hfull,
      fun q hq hopen hplace hroom => pushOr_read_moves (c := c) hpush hthere hq hopen hplace hroom⟩
  case append =>
    intro c d item l held
    have hout : exec (.append f) s = .next (settle c.k c.a c.len (bodyAppend c)) := issueL_clear h bodyAppend
    refine ⟨fun kn hkernel hd hquiet => append_waits h.here hout ⟨hkernel, hd, hquiet⟩, fun kn hkernel hd hquiet hfree hfresh => ?_,
      append_refused h.here hout⟩
    exact ⟨itemSent c, append_sends h.here hout ⟨hkernel, hd, hquiet⟩ hfree, arrival_listed (c := c) hstate hfresh hkernel,
      fun x ts j m o g len htakers hx hof hj _ hinst => arrival_taken (c := c) hstate hfresh h.here htakers hx hof hj hinst,
      arrival_refused (c := c) hstate hfresh hkernel⟩
  case takes =>
    intro kn x t
    refine doesL bodyWltake (fun _ _ => rfl) fun c hhere ⟨hkernel, hd, hquiet, hitems⟩ => ⟨_, _, wltake_takes hkernel hd hquiet hhere hitems,
      agent?_putAgent_same _ _ _, take_blk _ _ _, (Only.putList _ _ _ _).trans (Only.putAgent _ _ _).of_nil, Others.putAgent _ _ _, fun u b hu hb =>
      ⟨take_given hb, (wlist_of_lists (hu .lists (by simp)) _ _).trans (wlist_putList _ _ _ _)⟩⟩
  case quiet =>
    intro kn
    exact does_upd (body := bodyWltake) (fun _ _ => rfl) (fun c ⟨hkernel, hd, hquiet⟩ => wltake_quiet hkernel hd hquiet) (fun _ => take_blk _ _ _)
      fun c u b _ hb => take_given hb
  case waits =>
    intro c kn hkernel hd hquiet hitems
    have hout : exec (.wltake f) s = .next (settle c.k c.a c.len (bodyWltake c)) := issueL_clear h bodyWltake
    rw [wltake_waits hkernel hd hquiet h.here hitems, settle, modAgent_some (agent?_putAgent_same _ _ _), putAgent_putAgent] at hout
    obtain ⟨v, q, t, hrest⟩ := taking_rest a f (lenOf f)
    obtain ⟨hv, hp⟩ := taking_emptied a f (lenOf f)
    refine ⟨_, hout, wlist_putList _ _ _ _, (Only.putList _ _ _ _).trans (Only.putAgent _ _ _).of_nil, Others.putAgent _ _ _, _,
      agent?_putAgent_same _ _ _, rfl, ?_, rfl, hv, hp⟩
    exact (congrArg Agent.pc hrest :)

end Sys2Proof.Machine
end

section
/-!
PROOF. The events of kernels and groups (R158 to R162, R169, R172 to R174).
-/
namespace Sys2Proof.Machine

/-! ### A queue's head -/

section
variable {s : State} {qk : Nat} {q : Queue}

/-- `modHead` of a queue that is there. -/
theorem modHead_some (h : queue? s qk = some q) (g : Head → Head) : modHead s qk g = putQueue s qk { q with head := q.head.map g } := by
  simp [modHead, h]
theorem modHead_queues (s : State) (qk : Nat) (g : Head → Head) : ∃ m, modHead s qk g = { s with queues := m } := by
  unfold modHead
  split
  · exact ⟨_, rfl⟩
  · exact ⟨s.queues, rfl⟩
/-- The head of a queue that is there, once it has been changed. -/
theorem head_modHead {x : Head} (h : queue? s qk = some q) (hx : q.head = some x) (g : Head → Head) :
    ∃ p, queue? (modHead s qk g) qk = some p ∧ p.head = some (g x) :=
  ⟨_, (congrArg (queue? · qk) (modHead_some h g)).trans (queue?_putQueue_same _ _ _), congrArg (Option.map g) hx⟩

end

/-! ### Launch entries (R158) -/

section
variable {s : State} {qk : Nat} {q : Queue} {h : Head} {c : Ctx}

/-- The kernel of a launch entry, as it enters. -/
def launched (q : Queue) (qk : Nat) (h : Head) (c : Ctx) : Kernel :=
  { asid := q.asid, ident := c.nextK, hdr := h.img, q := qk, entryNo := h.num, clk := cmax h.who.clk (launchClock c (entMeta q h.num).lclk) }

section
variable (hq : queue? s qk = some q) (hh : q.head = some h) (hc : ctx? s q.asid = some c) (hkind : q.kind = 0) (hfinished : h.finished = false)
  (hmarked : h.marked = false) (hmarker : (entMeta q h.num).marker = none) (hrunning : c.state = .running)
include hq hh hc hkind hfinished hmarked hmarker hrunning

theorem launchHead_admitted (hlegal : launchReject c (launched q qk h c) = 0) : launchHead qk s =
    { s with ctxs := fput s.ctxs q.asid { c with nextK := if c.nextK = 0xFFFFFFFF then 1 else c.nextK + 1 }
             kernels := fput s.kernels (kkey q.asid c.nextK) (launched q qk h c)
             queues := fput s.queues qk { q with head := some { h with marked := true } } } := by
  have hthere : queue? (putKernel (putCtx s q.asid { c with nextK := if c.nextK == 0xFFFFFFFF then 1 else c.nextK + 1 }) (kkey q.asid c.nextK)
      (launched q qk h c)) qk = some q := hq
  unfold launched at hlegal
  unfold launchHead
  simp only [hq, hh, hc]
  rw [if_neg (by simp [hkind, hfinished, hmarked, hmarker, hrunning])]
  simp only [hlegal]
  refine (modHead_some hthere _).trans ?_
  simp only [hh, beq_iff_eq]
  rfl
/-- A code other than 0 finishes the entry: the match on it goes by `hillegal`. -/
theorem launchHead_rejected (hillegal : launchReject c (launched q qk h c) ≠ 0) : launchHead qk s = finishHead s qk (launchReject c (launched q qk h c)) := by
  unfold launched at hillegal ⊢
  unfold launchHead
  simp only [hq, hh, hc]
  exact if_neg (by simp [hkind, hfinished, hmarked, hmarker, hrunning])

end

end

/-! ### Placement, saving and restoring (R159, R160, R172 to R174) -/

section
variable {s t : State} {kern start n : Nat} {k : Kernel} {c : Ctx}

section
variable (hkernel : kernel? s kern = some k) (hctx : ctx? s k.asid = some c) (hrunning : c.state = .running) (hplacing : k.state = .placing)
include hkernel hctx hrunning hplacing

theorem groupPlacement_one (hnext : k.nextGroup = some n) (hcls : k.cls ≠ 0) (hplace : placeOne s kern n start k c = some t) :
    placeNext s kern start = some (settleKernel (modKernel t kern (·.took n)) kern) := by
  unfold placeNext
  simp [hkernel, hctx, hnext, hrunning, hplacing, hcls, hplace]
theorem groupPlacement_all (hnext : k.nextGroup.isSome = true) (hcls : k.cls = 0)
    (hplace : placeAll s kern start (k.back ++ upFrom k.next (k.groups - k.next)) k c = some t) :
    placeNext s kern start = some (settleKernel (modKernel t kern fun k => { k with next := k.groups, back := [] }) kern) := by
  obtain ⟨n, hn⟩ := Option.isSome_iff_exists.mp hnext
  unfold placeNext
  simp [hkernel, hctx, hn, hrunning, hplacing, hcls, hplace]

end

theorem groupPlacement_enters (h : placeNext s kern start = some t) : Enters (exec (.groupPlacement kern start) s) t := by
  show Enters (event (fun s => (placeNext s kern start).getD s) s) t
  exact Enters.of_eq (congrArg (Option.getD · s) h)
theorem weakGroupSave_enters {g : Nat} {x : Group} (hgroup : group? s g = some x) (hsavable : weakSavable s x.cset = true) :
    Enters (exec (.weakGroupSave g) s) (settleKernel (releaseCSet ((setGroups s x.cset).foldl (fun s p => saveGroup s p.1) s) x.cset) x.kernel) := by
  show Enters (execWeakGroupSave g s) _
  refine Enters.of_eq ?_
  simp only [hgroup, hsavable]
  rfl
theorem groupRestore_enters {g : Nat} {x : Group} (hgroup : group? s g = some x) (hkernel : kernel? s x.kernel = some k)
    (hrunning : ctxState s k.asid = .running) (hrestore : restoreCSet s x.cset start = some t) : Enters (exec (.groupRestore g start) s) t := by
  show Enters (execGroupRestore g start s) t
  refine Enters.of_eq ?_
  simp [hgroup, hkernel, hrunning, hrestore]

end

/-! ### Retirement of a group (R173) -/

section
variable {s : State} {g : Nat} {x : Group} {k : Kernel} {c : CSet}

/-- The state after a group's retirement that is not its cluster set's last: `m` are the queues, of which the launch entry has acquired. -/
def withoutGroup (s : State) (g : Nat) (x : Group) (k : Kernel) (c : CSet) (m : FMap Queue) : State :=
  putCSet (putKernel { s with queues := m, agents := s.agents.filter (fun p => !(p.2.kind == .thread && p.2.group == g)), groups := fdel s.groups g }
    x.kernel { k with gone := k.gone + 1 }) x.cset { c with live := c.live - 1 }

theorem groupRetirement_eq (hgroup : group? s g = some x) (hstate : x.state = .retiring) (hsettled : groupSettled s g = true)
    (hkernel : kernel? s x.kernel = some k) (hcset : cset? s x.cset = some c) (hlive : 1 < c.live) :
    ∃ m, exec (.groupRetirement g) s = event (fun _ => withoutGroup s g x k c m) s := by
  obtain ⟨m, hm⟩ := modHead_queues s k.q fun h => { h with who := { h.who with
    clk := cmax h.who.clk ((groupAgents s g).foldl (fun c p => cmax c p.2.relClk) []) } }
  refine ⟨m, ?_⟩
  show execGroupRetirement g s = _
  unfold execGroupRetirement
  refine event_congr ?_
  simp only [hgroup, hstate, hsettled, hkernel, hm]
  rw [if_neg (by simp)]
  have hthere : cset? (putKernel { s with queues := m, agents := s.agents.filter (fun p => !(p.2.kind == .thread && p.2.group == g)), groups := fdel s.groups g }
      x.kernel { k with gone := k.gone + 1 }) x.cset = some c := hcset
  simp only [hthere]
  exact if_neg (by omega)

theorem groupRetirement_happens (hgroup : group? s g = some x) (hstate : x.state = .retiring) (hsettled : groupSettled s g = true)
    (hkernel : kernel? s x.kernel = some k) (hcset : cset? s x.cset = some c) (hlive : 1 < c.live) :
    Happens (exec (.groupRetirement g) s) fun u => group? u g = none ∧ kernel? u x.kernel = some { k with gone := k.gone + 1 } ∧
      cset? u x.cset = some { c with live := c.live - 1 } ∧ (∀ j a, (j, a) ∈ u.agents → ¬ (a.kind = .thread ∧ a.group = g)) ∧
      Only [.kernels, .groups, .csets, .queues, .trigs] s u := by
  obtain ⟨m, hm⟩ := groupRetirement_eq hgroup hstate hsettled hkernel hcset hlive
  rw [hm]
  refine Happens.of_event fun w tr => ⟨fget?_fdel_same _ _, fget?_fput_same _ _ _, fget?_fput_same _ _ _, fun j a ha => ?_, fun p hp => ?_⟩
  · obtain ⟨⟨i, b⟩, hb, hab⟩ := List.mem_map.mp ha
    have hkept := (List.mem_filter.mp hb).2
    obtain ⟨-, rfl⟩ := Prod.ext_iff.mp hab
    simpa [imp_iff_not_or] using hkept
  · cases p <;> simp_all [Same, withoutGroup, State.looked, ctx?]

end

/-! ### Retirement of a kernel (R162) -/

section
variable {s : State} {kern : Nat} {k : Kernel} {q : Queue} {h : Head}

/-- The state without a kernel and its lists. -/
def withoutKernel (s : State) (kern : Nat) : State :=
  { s with kernels := fdel s.kernels kern, lists := s.lists.filter fun x => x.1 / 4096 != kern }
/-- A kernel is RETIRED: its lists are gone, and its launch entry says whether one of them held an item. -/
def retired (s : State) (kern : Nat) (k : Kernel) : State :=
  modHead (putKernel { s with lists := s.lists.filter fun x => x.1 / 4096 != kern } kern { k with state := .retired }) k.q
    fun x => { x with wldrop := x.wldrop || (listsOf s kern).any fun y => !y.2.items.isEmpty }

/-- The head that a kernel's retirement finishes keeps the code that it holds (R238). -/
theorem finishHead_head {s : State} {qk : Nat} {x : Head} {q : Queue} (hq : queue? s qk = some q) (hx : q.head = some x) :
    ∃ p, queue? (finishHead s qk 0) qk = some p ∧ p.head = some { x with finished := true } := by
  obtain ⟨p, hp, hhead⟩ := head_modHead hq hx fun h => { h with finished := true, code := if h.code == 0 then 0 else h.code }
  refine ⟨p, hp, hhead.trans ?_⟩
  by_cases hcode : x.code = 0 <;> simp [hcode]
/-- A retired kernel's launch entry, finished: all that changes beside it is that the kernel and its lists are gone. -/
theorem retired_finished (hq : queue? s k.q = some q) (hh : q.head = some h) :
    (∃ m, finishHead (withoutKernel (retired s kern k) kern) k.q 0 =
      { withoutKernel (putKernel { s with lists := s.lists.filter fun x => x.1 / 4096 != kern } kern { k with state := .retired }) kern with queues := m }) ∧
    ∃ p, queue? (finishHead (withoutKernel (retired s kern k) kern) k.q 0) k.q = some p ∧ p.head = some { h with
      wldrop := h.wldrop || (listsOf s kern).any fun y => !y.2.items.isEmpty, finished := true } := by
  constructor
  · obtain ⟨m, hm⟩ := modHead_queues (putKernel { s with lists := s.lists.filter fun x => x.1 / 4096 != kern } kern { k with state := .retired }) k.q
      fun x => { x with wldrop := x.wldrop || (listsOf s kern).any fun y => !y.2.items.isEmpty }
    obtain ⟨m', hm'⟩ := modHead_queues (withoutKernel (retired s kern k) kern) k.q
      fun h => { h with finished := true, code := if h.code == 0 then 0 else h.code }
    refine ⟨m', hm'.trans ?_⟩
    unfold retired
    rw [hm]
    rfl
  · obtain ⟨p, hp, hhead⟩ := head_modHead (s := putKernel { s with lists := s.lists.filter fun x => x.1 / 4096 != kern } kern { k with state := .retired })
      hq hh fun x => { x with wldrop := x.wldrop || (listsOf s kern).any fun y => !y.2.items.isEmpty }
    exact finishHead_head (s := withoutKernel (retired s kern k) kern) hp hhead

theorem items_left_iff (s : State) (kern : Nat) : ((listsOf s kern).any fun y => !y.2.items.isEmpty) = true ↔
    ∃ n l, (n, l) ∈ s.lists ∧ n / 4096 = kern ∧ l.items ≠ [] := by
  simp [listsOf]

section
variable (hq : queue? s k.q = some q) (hh : q.head = some h) (hnum : h.num = k.entryNo) (hfinished : h.finished = false)
  (hstate : k.state = .retiring ∨ k.state = .retired) (hgone : k.groups ≤ k.gone) (hrun : queuesRun s k.asid = true)
include hq hh hnum hfinished hstate hgone hrun

/-- What the retirement asks, and the entry that it finishes. -/
theorem kernelRetirement_due : (!(k.state == .retiring || k.state == .retired) || decide (k.gone < k.groups) || !queuesRun s k.asid) = false ∧
    ((queue? s k.q).bind fun q => (q.head.filter fun h => h.num == k.entryNo && !h.finished).map fun h => (q, h)) = some (q, h) := by
  constructor
  · rcases hstate with e | e <;> simp [e, hgone, hrun]
  · simp [hq, hh, hnum, hfinished]

variable (hkernel : kernel? s kern = some k) (hfaulted : q.state ≠ .faulted)
include hkernel hfaulted

theorem kernelRetirement_unsignalled (hsignal : k.signal = 0) :
    exec (.kernelRetirement kern) s = event (fun _ => finishHead (withoutKernel (retired s kern k) kern) k.q 0) s := by
  obtain ⟨hdue, hhead⟩ := kernelRetirement_due hq hh hnum hfinished hstate hgone hrun
  show execKernelRetirement kern s = _
  unfold execKernelRetirement
  refine event_congr ?_
  simp only [hkernel, hdue, hhead, beq_eq_false_iff_ne.mpr hfaulted, hsignal]
  rfl
/-- A kernel without a signal retires: it is gone with its lists, and its launch entry is finished (R162). -/
theorem kernelRetirement_happens (hsignal : k.signal = 0) :
    Happens (exec (.kernelRetirement kern) s) fun u => kernel? u kern = none ∧ (∀ n l, (n, l) ∈ u.lists → n / 4096 ≠ kern) ∧
      Only [.kernels, .lists, .queues, .trigs] s u ∧ Others [] s u ∧ ∃ p, queue? u k.q = some p ∧ ∃ j, p.head = some j ∧ j.finished = true ∧
        j.code = h.code ∧ (j.wldrop = true ↔ h.wldrop = true ∨ ∃ n l, (n, l) ∈ s.lists ∧ n / 4096 = kern ∧ l.items ≠ []) := by
  rw [kernelRetirement_unsignalled hq hh hnum hfinished hstate hgone hrun hkernel hfaulted hsignal]
  obtain ⟨⟨m, hm⟩, p, hp, hhead⟩ := retired_finished (kern := kern) hq hh
  refine Happens.of_event fun w tr => ⟨?_, fun n l hl => ?_, fun r hr => ?_, ?_, p, hp, _, hhead, rfl, rfl, ?_⟩
  · rw [hm]
    exact fget?_fdel_same _ _
  · rw [hm] at hl
    simpa using (List.mem_filter.mp hl).2
  · rw [hm]
    cases r <;> simp_all [Same, withoutKernel, State.looked, group?, ctx?]
  · exact Others.looked_of (by rw [hm]; rfl) w tr
  · rw [Bool.or_eq_true, items_left_iff]
/-- A kernel with a signal retires once the addition to it is done (R162). -/
theorem kernelRetirement_signalled {t : State} {race : Bool} (hsignal : k.signal ≠ 0) (hadd : addSignal (retired s kern k) h.who k.signal 1 = .done t race) :
    exec (.kernelRetirement kern) s = event (fun _ => finishHead (withoutKernel t kern) k.q (if race then 0x22 else 0)) s := by
  obtain ⟨hdue, hhead⟩ := kernelRetirement_due hq hh hnum hfinished hstate hgone hrun
  unfold retired at hadd
  show execKernelRetirement kern s = _
  unfold execKernelRetirement
  refine event_congr ?_
  simp only [hkernel, hdue, hhead, beq_eq_false_iff_ne.mpr hfaulted, beq_eq_false_iff_ne.mpr hsignal, hadd]
  rfl

end

end

/-! ### Quiescence (R169) -/

section
variable {s : State} {kern k len : Nat} {kn : Kernel} {a : Agent} {o : Op} {f : FormL}

/-- A party waits in its WLTAKE. -/
def Agent.atTake (a : Agent) : Bool := match a.wait with | .take _ => true | _ => false
/-- A kernel is quiescent: none of its lists has takers. -/
def quieted (s : State) (kern : Nat) (kn : Kernel) : State :=
  { putKernel s kern { kn with quiet := true } with lists := s.lists.map fun x => (x.1, if x.1 / 4096 == kern then { x.2 with takers := [] } else x.2) }

theorem quiescence_one (hkernel : kernel? s kern = some kn) (hdue : quietDue s kern kn = true)
    (htakers : s.agents.filter (fun p => p.2.kind == .thread && p.2.kernel == kern && p.2.atTake) = [(k, a)]) :
    exec (.quiescence kern) s = event (fun _ => finishTake (quieted s kern kn) a.uid none) s := by
  show execQuiescence kern s = _
  unfold execQuiescence
  refine event_congr ?_
  simp only [hkernel, hdue]
  exact congrArg (fun l : List (Nat × Agent) => (l.map (·.2.uid)).foldl (fun s t => finishTake s t none) (quieted s kern kn)) htakers
theorem quiescence_happens (hkernel : kernel? s kern = some kn) (hdue : quietDue s kern kn = true) (hinst : a.inst = some (o, f, len))
    (hof : agentOf s a.uid = some (k, a))
    (htakers : s.agents.filter (fun p => p.2.kind == .thread && p.2.kernel == kern && p.2.atTake) = [(k, a)]) :
    Happens (exec (.quiescence kern) s) fun u => kernel? u kern = some { kn with quiet := true } ∧
      ∃ b, Passed len a u k b ∧ WroteV a b f.dst.toNat 2 0 ∧ WroteP a b f.c.toNat true := by
  rw [quiescence_one hkernel hdue htakers]
  obtain ⟨u, hu, hlater, -, hkept⟩ := event_spec (fun _ => finishTake (quieted s kern kn) a.uid none) s
  obtain ⟨honly, -, b, hb, hcore⟩ := finishTake_spec (s := quieted s kern kn) hof hinst none
  obtain ⟨hv, hp, -⟩ := taken_spec hcore
  have hkernels : u.kernels = (quieted s kern kn).kernels := honly.of_nil.trans hlater .kernels (by simp)
  exact ⟨u, hu, (congrArg (fget? · kern) hkernels).trans (fget?_fput_same _ _ _), b, ⟨hkept _ _ hb.here hb.wait, hb.pc, hb.wait⟩, hv, hp⟩

end

/-- Settles O51, event by event. -/
theorem kernelAndGroupEvents : Obligations.KernelEvents := by
  unfold Obligations.KernelEvents
  refine ⟨?launch, ?one, ?all, ?save, ?restore, ?group, ?kernel, ?quiet⟩
  case launch =>
    intro s q x h c hq hh hc hkind hfinished hmarked hmarker hrunning k
    exact ⟨fun hlegal => Enters.of_eq (launchHead_admitted hq hh hc hkind hfinished hmarked hmarker hrunning hlegal),
      fun hillegal => Enters.of_eq (launchHead_rejected hq hh hc hkind hfinished hmarked hmarker hrunning hillegal)⟩
  case one =>
    intro s kern start k c n t hkernel hctx hnext hrunning hplacing hcls hplace
    exact groupPlacement_enters (groupPlacement_one hkernel hctx hrunning hplacing hnext hcls hplace)
  case all =>
    intro s kern start k c t hkernel hctx hnext hrunning hplacing hcls hplace
    exact groupPlacement_enters (groupPlacement_all hkernel hctx hrunning hplacing hnext hcls hplace)
  case save => exact fun s g x => weakGroupSave_enters
  case restore => exact fun s g start x k t => groupRestore_enters
  case group => exact fun s g x k c => groupRetirement_happens
  case kernel =>
    intro s kern k q h hkernel hq hh hnum hfinished hstate hgone hrun hfaulted
    exact ⟨kernelRetirement_happens hq hh hnum hfinished hstate hgone hrun hkernel hfaulted,
      fun t race => kernelRetirement_signalled hq hh hnum hfinished hstate hgone hrun hkernel hfaulted⟩
  case quiet =>
    intro s kern kn k a f len hkernel hdue _ _ _ _ _ hinst hof htakers
    exact quiescence_happens hkernel hdue hinst hof htakers

end Sys2Proof.Machine
end

section
/-!
PROOF. The canonical form of both memories (R175, R417): every instruction and every step keeps it.
-/
namespace Sys2Proof.Machine

/-- The meaning of every row of the opcode table keeps the canonical form, row by row. -/
theorem exec_ok (i : Instr) (s : State) (h : MemoryOk s) : ∀ t, exec i s = .next t → MemoryOk t := by
  cases i with
  | nopS f => exact execNopS_ok f s h
  | nop f => exact execNop_ok f s h
  | movS f => exact execMovS_ok f s h
  | mov f => exact execMov_ok f s h
  | movi f => exact execMovi_ok f s h
  | sel f => exact execSel_ok f s h
  | iaddS f => exact execIaddS_ok f s h
  | iadd f => exact execIadd_ok f s h
  | isubS f => exact execIsubS_ok f s h
  | isub f => exact execIsub_ok f s h
  | iaddc f => exact execIaddc_ok f s h
  | inegS f => exact execInegS_ok f s h
  | ineg f => exact execIneg_ok f s h
  | imulS f => exact execImulS_ok f s h
  | imul f => exact execImul_ok f s h
  | imulhS f => exact execImulhS_ok f s h
  | imulh f => exact execImulh_ok f s h
  | imadS f => exact execImadS_ok f s h
  | imad f => exact execImad_ok f s h
  | imadw f => exact execImadw_ok f s h
  | idiv f => exact execIdiv_ok f s h
  | irem f => exact execIrem_ok f s h
  | iminS f => exact execIminS_ok f s h
  | imin f => exact execImin_ok f s h
  | imaxS f => exact execImaxS_ok f s h
  | imax f => exact execImax_ok f s h
  | iabsS f => exact execIabsS_ok f s h
  | iabs f => exact execIabs_ok f s h
  | andS f => exact execAndS_ok f s h
  | and f => exact execAnd_ok f s h
  | orS f => exact execOrS_ok f s h
  | or f => exact execOr_ok f s h
  | xorS f => exact execXorS_ok f s h
  | xor f => exact execXor_ok f s h
  | notS f => exact execNotS_ok f s h
  | not f => exact execNot_ok f s h
  | andnS f => exact execAndnS_ok f s h
  | andn f => exact execAndn_ok f s h
  | shlS f => exact execShlS_ok f s h
  | shl f => exact execShl_ok f s h
  | shrS f => exact execShrS_ok f s h
  | shr f => exact execShr_ok f s h
  | sarS f => exact execSarS_ok f s h
  | sar f => exact execSar_ok f s h
  | rotS f => exact execRotS_ok f s h
  | rot f => exact execRot_ok f s h
  | shfS f => exact execShfS_ok f s h
  | shf f => exact execShf_ok f s h
  | popcS f => exact execPopcS_ok f s h
  | popc f => exact execPopc_ok f s h
  | clzS f => exact execClzS_ok f s h
  | clz f => exact execClz_ok f s h
  | ctzS f => exact execCtzS_ok f s h
  | ctz f => exact execCtz_ok f s h
  | brevS f => exact execBrevS_ok f s h
  | brev f => exact execBrev_ok f s h
  | bfe f => exact execBfe_ok f s h
  | bfi f => exact execBfi_ok f s h
  | prmt f => exact execPrmt_ok f s h
  | lea f => exact execLea_ok f s h
  | iset f => exact execIset_ok f s h
  | idp4 f => exact execIdp4_ok f s h
  | faddS f => exact execFaddS_ok f s h
  | fadd f => exact execFadd_ok f s h
  | fsubS f => exact execFsubS_ok f s h
  | fsub f => exact execFsub_ok f s h
  | fmulS f => exact execFmulS_ok f s h
  | fmul f => exact execFmul_ok f s h
  | ffmaS f => exact execFfmaS_ok f s h
  | ffma f => exact execFfma_ok f s h
  | fminS f => exact execFminS_ok f s h
  | fmin f => exact execFmin_ok f s h
  | fmaxS f => exact execFmaxS_ok f s h
  | fmax f => exact execFmax_ok f s h
  | fset f => exact execFset_ok f s h
  | fclass f => exact execFclass_ok f s h
  | frnd f => exact execFrnd_ok f s h
  | fscl f => exact execFscl_ok f s h
  | daddS f => exact execDaddS_ok f s h
  | dadd f => exact execDadd_ok f s h
  | dmulS f => exact execDmulS_ok f s h
  | dmul f => exact execDmul_ok f s h
  | dfmaS f => exact execDfmaS_ok f s h
  | dfma f => exact execDfma_ok f s h
  | dset f => exact execDset_ok f s h
  | hfma2S f => exact execHfma2S_ok f s h
  | hfma2 f => exact execHfma2_ok f s h
  | hadd2S f => exact execHadd2S_ok f s h
  | hadd2 f => exact execHadd2_ok f s h
  | hmul2S f => exact execHmul2S_ok f s h
  | hmul2 f => exact execHmul2_ok f s h
  | fcvt f => exact execFcvt_ok f s h
  | f2i f => exact execF2i_ok f s h
  | i2f f => exact execI2f_ok f s h
  | qnt f => exact execQnt_ok f s h
  | dqnt f => exact execDqnt_ok f s h
  | pack f => exact execPack_ok f s h
  | unpk f => exact execUnpk_ok f s h
  | rcp f => exact execRcp_ok f s h
  | rsq f => exact execRsq_ok f s h
  | sqrt f => exact execSqrt_ok f s h
  | ex2 f => exact execEx2_ok f s h
  | lg2 f => exact execLg2_ok f s h
  | sin f => exact execSin_ok f s h
  | cos f => exact execCos_ok f s h
  | tanh f => exact execTanh_ok f s h
  | fdivS f => exact execFdivS_ok f s h
  | fdiv f => exact execFdiv_ok f s h
  | ddiv f => exact execDdiv_ok f s h
  | dsqrt f => exact execDsqrt_ok f s h
  | plog f => exact execPlog_ok f s h
  | pmov f => exact execPmov_ok f s h
  | flrd f => exact execFlrd_ok f s h
  | flclr f => exact execFlclr_ok f s h
  | movs f => exact execMovs_ok f s h
  | clk f => exact execClk_ok f s h
  | wid f => exact execWid_ok f s h
  | setpart f => exact execSetpart_ok f s h
  | vote f => exact execVote_ok f s h
  | shfl f => exact execShfl_ok f s h
  | tred f => exact execTred_ok f s h
  | tscan f => exact execTscan_ok f s h
  | tsync f => exact execTsync_ok f s h
  | bra f => exact execBra_ok f s h
  | brc f => exact execBrc_ok f s h
  | jmp f => exact execJmp_ok f s h
  | call f => exact execCall_ok f s h
  | calli f => exact execCalli_ok f s h
  | retS f => exact execRetS_ok f s h
  | ret f => exact execRet_ok f s h
  | exitS f => exact execExitS_ok f s h
  | exit f => exact execExit_ok f s h
  | yieldS f => exact execYieldS_ok f s h
  | yield f => exact execYield_ok f s h
  | trap f => exact execTrap_ok f s h
  | bkpt f => exact execBkpt_ok f s h
  | ldS f => exact execLdS_ok f s h
  | ld f => exact execLd_ok f s h
  | stS f => exact execStS_ok f s h
  | st f => exact execSt_ok f s h
  | ldsS f => exact execLdsS_ok f s h
  | lds f => exact execLds_ok f s h
  | stsS f => exact execStsS_ok f s h
  | sts f => exact execSts_ok f s h
  | ldlS f => exact execLdlS_ok f s h
  | ldl f => exact execLdl_ok f s h
  | stlS f => exact execStlS_ok f s h
  | stl f => exact execStl_ok f s h
  | atom f => exact execAtom_ok f s h
  | atoms f => exact execAtoms_ok f s h
  | red f => exact execRed_ok f s h
  | fence f => exact execFence_ok f s h
  | pref f => exact execPref_ok f s h
  | append f => exact execAppend_ok f s h
  | wltake f => exact execWltake_ok f s h
  | launch f => exact execLaunch_ok f s h
  | trdy f => exact execTrdy_ok f s h
  | cpy f => exact execCpy_ok f s h
  | cpyt f => exact execCpyt_ok f s h
  | gsum f => exact execGsum_ok f s h
  | qsig f => exact execQsig_ok f s h
  | qwait f => exact execQwait_ok f s h
  | qfence f => exact execQfence_ok f s h
  | trig f => exact execTrig_ok f s h
  | taskpush f => exact execTaskpush_ok f s h
  | cgrun f => exact execCgrun_ok f s h
  | carve f => exact execCarve_ok f s h
  | msLdt f => exact execMsLdt_ok f s h
  | msStt f => exact execMsStt_ok f s h
  | msAdd f => exact execMsAdd_ok f s h
  | msSub f => exact execMsSub_ok f s h
  | msMul f => exact execMsMul_ok f s h
  | msMulc f => exact execMsMulc_ok f s h
  | msLog f => exact execMsLog_ok f s h
  | msCmp f => exact execMsCmp_ok f s h
  | msSel f => exact execMsSel_ok f s h
  | msSet f => exact execMsSet_ok f s h
  | msCpy f => exact execMsCpy_ok f s h
  | msShr f => exact execMsShr_ok f s h
  | msRsum f => exact execMsRsum_ok f s h
  | msCmpt f => exact execMsCmpt_ok f s h
  | msRel f => exact execMsRel_ok f s h
  | barSync f => exact execBarSync_ok f s h
  | barArv f => exact execBarArv_ok f s h
  | barWait f => exact execBarWait_ok f s h
  | mbinit f => exact execMbinit_ok f s h
  | mbarv f => exact execMbarv_ok f s h
  | mbwait f => exact execMbwait_ok f s h
  | mbtest f => exact execMbtest_ok f s h
  | mbdrop f => exact execMbdrop_ok f s h
  | capRdr f => exact execCapRdr_ok f s h
  | capWrr f => exact execCapWrr_ok f s h
  | capRds f => exact execCapRds_ok f s h
  | capSetpc f => exact execCapSetpc_ok f s h
  | capRes f => exact execCapRes_ok f s h
  | capKill f => exact execCapKill_ok f s h
  | capStep f => exact execCapStep_ok f s h
  | capArv f => exact execCapArv_ok f s h
  | capRel f => exact execCapRel_ok f s h
  | capNext f => exact execCapNext_ok f s h
  | pginv f => exact execPginv_ok f s h
  | pgmig f => exact execPgmig_ok f s h
  | tfmt f => exact execTfmt_ok f s h
  | tct f => exact execTct_ok f s h
  | tcfg f => exact execTcfg_ok f s h
  | tzero f => exact execTzero_ok f s h
  | mma f => exact execMma_ok f s h
  | mmac f => exact execMmac_ok f s h
  | mmab f => exact execMmab_ok f s h
  | tmac f => exact execTmac_ok f s h
  | tdrn f => exact execTdrn_ok f s h
  | tdrnb f => exact execTdrnb_ok f s h
  | twait f => exact execTwait_ok f s h
  | tflg f => exact execTflg_ok f s h
  | endt f => exact execEndt_ok f s h
  | threadUrgent k => exact execThreadUrgent_ok k s h
  | holdTimeout k => exact execHoldTimeout_ok k s h
  | yieldExpiry k => exact execYieldExpiry_ok k s h
  | producerCompletion id => exact execProducerCompletion_ok id s h
  | loadCompletion id => exact execLoadCompletion_ok id s h
  | rendezvousCompletion k => exact execRendezvousCompletion_ok k s h
  | mbwaitLimitExpiry k => exact execMbwaitLimitExpiry_ok k s h
  | qwaitLimitExpiry k => exact execQwaitLimitExpiry_ok k s h
  | launchEntryHead q => exact execLaunchEntryHead_ok q s h
  | groupPlacement kern start => exact execGroupPlacement_ok kern start s h
  | weakGroupSave g => exact execWeakGroupSave_ok g s h
  | groupRestore g start => exact execGroupRestore_ok g start s h
  | groupRetirement g => exact execGroupRetirement_ok g s h
  | kernelRetirement kern => exact execKernelRetirement_ok kern s h
  | appendArrival id => exact execAppendArrival_ok id s h
  | quiescence kern => exact execQuiescence_ok kern s h
  | queueEntryStart q => exact execQueueEntryStart_ok q s h
  | copyBox q n => exact execCopyBox_ok q n s h
  | entryCompletion q => exact execEntryCompletion_ok q s h
  | signalAddition id => exact execSignalAddition_ok id s h
  | triggerFire id => exact execTriggerFire_ok id s h
  | triggerEntryPush id => exact execTriggerEntryPush_ok id s h
  | joinMarkerCompletion q => exact execJoinMarkerCompletion_ok q s h
  | taskHead q => exact execTaskHead_ok q s h
  | taskAdmission cl => exact execTaskAdmission_ok cl s h
  | matrixOperationAccept cl => exact execMatrixOperationAccept_ok cl s h
  | matrixKStep cl => exact execMatrixKStep_ok cl s h
  | continuationPush q => exact execContinuationPush_ok q s h
  | carveEntry q => exact execCarveEntry_ok q s h
  | carvingComplete die => exact execCarvingComplete_ok die s h
  | mashOperationEntry q => exact execMashOperationEntry_ok q s h
  | mashTransferEntry q => exact execMashTransferEntry_ok q s h
  | msRelEntry q => exact execMsRelEntry_ok q s h
  | releasingComplete die => exact execReleasingComplete_ok die s h
  | read id => exact execRead_ok id s h
  | write id => exact execWrite_ok id s h
  | atomic id => exact execAtomic_ok id s h
  | resp id => exact execResp_ok id s h
  | ack id => exact execAck_ok id s h
  | marker id => exact execMarker_ok id s h
  | markerack id => exact execMarkerack_ok id s h
  | inval id => exact execInval_ok id s h
  | invalack id => exact execInvalack_ok id s h
  | fwd id => exact execFwd_ok id s h
  | fwdans id => exact execFwdans_ok id s h
  | chunk id outside => exact execChunk_ok id outside s h
  | fw st msg => exact execFw_ok st msg s h
  | migrationLineCopy st n => exact execMigrationLineCopy_ok st n s h
  | migrationSwitch st n => exact execMigrationSwitch_ok st n s h
  | runEntryStart q => exact execRunEntryStart_ok q s h
  | nodeCopy q n => exact execNodeCopy_ok q n s h
  | nodeRadd q n => exact execNodeRadd_ok q n s h
  | nodeRmax q n => exact execNodeRmax_ok q n s h
  | nodeGsum q n => exact execNodeGsum_ok q n s h
  | nodeCmp4 q n => exact execNodeCmp4_ok q n s h
  | nodeSend q n => exact execNodeSend_ok q n s h
  | nodeRecv q n => exact execNodeRecv_ok q n s h
  | landingGrant q n => exact execLandingGrant_ok q n s h
  | nodeCompletion q n => exact execNodeCompletion_ok q n s h
  | runCompletion q => exact execRunCompletion_ok q s h
  | crcReplay link fails => exact execCrcReplay_ok link fails s h
  | linkTraining link => exact execLinkTraining_ok link s h
  | linkTrained link r => exact execLinkTrained_ok link r s h
  | laneFault link control bundle => exact execLaneFault_ok link bundle control s h
  | linkSelfTest link lasting => exact execLinkSelfTest_ok link lasting s h
  | mastRemap mast inService => exact execMastRemap_ok mast inService s h
  | routeChange st pkg routes => exact execRouteChange_ok st pkg routes s h
  | frozenRecordAdmit asid => exact execFrozenRecordAdmit_ok asid s h
  | handlerStart asid => exact execHandlerStart_ok asid s h
  | handlerBudget k => exact execHandlerBudget_ok k s h
  | level2Handling die faulted => exact execLevel2Handling_ok die faulted s h
  | contextBuild asid => exact execContextBuild_ok asid s h
  | contextStart asid => exact execContextStart_ok asid s h
  | contextStartWhenFree asid => exact execContextStartWhenFree_ok asid s h
  | contextPreempt asid => exact execContextPreempt_ok asid s h
  | contextHalt asid => exact execContextHalt_ok asid s h
  | contextResume asid => exact execContextResume_ok asid s h
  | contextRetire asid => exact execContextRetire_ok asid s h
  | contextFree asid => exact execContextFree_ok asid s h
  | tsliceExpiry asid => exact execTsliceExpiry_ok asid s h
  | contextCut asid => exact execContextCut_ok asid s h
  | drainTimeout asid => exact execDrainTimeout_ok asid s h
  | handlerCutTimeout asid => exact execHandlerCutTimeout_ok asid s h
  | drainForward asid => exact execDrainForward_ok asid s h
  | doorbellWrite master asid q v => exact execDoorbellWrite_ok master asid q v s h
  | queueEnable q => exact execQueueEnable_ok q s h
  | queueDisable q => exact execQueueDisable_ok q s h
  | queueErrClear q => exact execQueueErrClear_ok q s h
  | diePowerOff die => exact execDiePowerOff_ok die s h
  | diePowerOn die => exact execDiePowerOn_ok die s h
  | operatingPointRequest die p => exact execOperatingPointRequest_ok die p s h
  | operatingPointSwitch die => exact execOperatingPointSwitch_ok die s h
  | mmioRegisterWrite off bytes v master => exact execMmioRegisterWrite_ok master off bytes v s h
  | controlIntervalStart => exact execControlIntervalStart_ok  s h
  | activationWindowAdjust st above => exact execActivationWindowAdjust_ok st above s h
  | eccError unit correctable => exact execEccError_ok unit correctable s h
  | healthSelfTest unit lasting spared => exact execHealthSelfTest_ok unit lasting spared s h
  | dieFailure die => exact execDieFailure_ok die s h
  | hostWriteInvalidate pa data => exact execHostWriteInvalidate_ok pa data s h
  | backInvalidate pa => exact execBackInvalidate_ok pa s h
  | attestationQuote nonce => exact execAttestationQuote_ok nonce s h
  | packageReset failure => exact execPackageReset_ok failure s h
  | packageFatal image => exact execPackageFatal_ok image s h
  | discardedFlit link flit => exact execDiscardedFlit_ok link flit s h
  | hostHbmAccess master pa bytes data => exact execHostHbmAccess_ok master pa bytes data s h

/-- A dynamic warp's issue keeps it: the fetch, the instruction of each party, or their freeze, and what the issue leaves. -/
theorem issueWarp_ok (port : Nat) (w : List (Nat × Agent)) (s : State) (h : MemoryOk s) : ∀ t, issueWarp port w s = .next t → MemoryOk t := by
  intro t e
  unfold issueWarp at e
  split at e
  case h_1 => cases e; exact h
  case h_2 k a rest =>
    dsimp only at e
    split at e
    case h_1 => cases e; exact h
    case h_2 => cases e; exact afterIssue_ok _ _ _ (freezeAll_ok _ _ _ _ h)
    case h_3 => cases e; exact afterIssue_ok _ _ _ (freezeAll_ok _ _ _ _ h)
    case h_4 ws u hfetch =>
      have hu : MemoryOk u := fetchAt_ok h hfetch
      split at e
      case h_1 =>
        split at e
        case h_1 v hexec => cases e; exact afterIssue_ok _ _ _ (exec_ok _ _ hu.upd _ hexec)
        case h_2 o hstuck => exact absurd e (hstuck t)
      case h_2 => cases e; exact afterIssue_ok _ _ _ (freezeAll_ok _ _ _ _ hu)

/-- What a step does when no event is due keeps it. -/
theorem issueNext_ok (s : State) (h : MemoryOk s) : ∀ t, issueNext s = .next t → MemoryOk t := by
  intro t e
  have hs : MemoryOk (enterBlocks (releaseHeld (boundaryMarkers s))) := enterBlocks_ok _ (releaseHeld_ok _ (boundaryMarkers_ok _ h))
  unfold issueNext at e
  dsimp only at e
  split at e
  case h_1 => exact issueWarp_ok _ _ _ hs _ e
  case h_2 =>
    split at e
    · cases e
      split
      · exact passTime_ok _ _ h
      · exact h
    · cases e; exact hs

/-- What the first success of a list answers, one of its elements answers. -/
theorem mem_of_firstSome {α β : Type} {f : α → Option β} {l : List α} {y : β} (h : firstSome f l = some y) : ∃ x ∈ l, f x = some y := by
  induction l with
  | nil => cases h
  | cons x l ih =>
    unfold firstSome at h
    split at h
    case h_1 z hx => cases h; exact ⟨x, by simp, hx⟩
    case h_2 =>
      obtain ⟨w, hw, hy⟩ := ih h
      exact ⟨w, List.mem_cons_of_mem _ hw, hy⟩

/-- An event that is taken because it changes something keeps it. -/
theorem tryEvent_ok (s : State) (e : Event) (h : MemoryOk s) (t : State) (ht : tryEvent s e = some (.next t)) : MemoryOk t := by
  unfold tryEvent at ht
  split at ht
  case h_1 u hrun =>
    split at ht
    · cases ht
    · cases ht; exact runEvent_ok _ _ h _ hrun
  case h_2 hstuck => exact absurd (Option.some.inj ht) (hstuck t)

/-- The first due event that changes something keeps it. -/
theorem nextEvent_ok (s : State) (h : MemoryOk s) (t : State) (ht : nextEvent s = some (.next t)) : MemoryOk t := by
  obtain ⟨due, -, hdue⟩ := mem_of_firstSome ht
  obtain ⟨e, -, he⟩ := mem_of_firstSome hdue
  exact tryEvent_ok s e h t he

/-- Settles O60: each way in which a step goes on, an event or an issue, keeps the form. -/
theorem memoryFormKept : Obligations.MemoryFormKept := by
  unfold Obligations.MemoryFormKept
  intro s t h e
  unfold step at e
  split at e
  case h_1 => exact runEvent_ok _ _ h.upd _ e
  case h_2 =>
    split at e
    · cases e
    · split at e
      · exact runEvent_ok _ _ h _ e
      · split at e
        case h_1 o ho => subst e; exact nextEvent_ok s h t ho
        case h_2 => exact issueNext_ok s h t e

end Sys2Proof.Machine
end

section
/-!
PROOF. Loads, stores and atomics as they issue (R187 to R193): one request enters, or the access faults.
-/
namespace Sys2Proof.Machine

/-! ### Marker fences of a wide release (R213, R375) -/

theorem putMarker_agents (s : State) (uid seq : Nat) (p : Place) (home order scope : Nat) : (putMarker s uid seq p home order scope).agents = s.agents := rfl
theorem Only.putMarker (s : State) (uid seq : Nat) (p : Place) (home order scope : Nat) :
    Only [.ids, .markers] s (putMarker s uid seq p home order scope) := by
  intro q hq
  cases q <;> simp_all [Same, Machine.putMarker, freshId, group?, ctx?]

section
variable {s : State} {k : Nat} {a : Agent}

/-- Sending markers takes the party's relaxed targets, and gives out identities. -/
theorem sendMarkers_spec (h : agent? s k = some a) (order scope : Nat) : agent? (sendMarkers s k order scope) k = some { a with relaxed := [] } ∧
    Only [.ids, .markers] s (sendMarkers s k order scope) ∧ Others [k] s (sendMarkers s k order scope) := by
  unfold sendMarkers
  rw [h]
  generalize ht : putAgent s k { a with relaxed := [] } = t
  have hmark : (a.relaxed.foldl (fun s h => putMarker s a.uid a.seq (placeOf k a) h order scope) t).agents = t.agents ∧
      Only [.ids, .markers] t (a.relaxed.foldl (fun s h => putMarker s a.uid a.seq (placeOf k a) h order scope) t) :=
    foldl_keeps (R := fun t u => u.agents = t.agents ∧ Only [.ids, .markers] t u) (fun t => ⟨rfl, Only.refl _ t⟩)
      (fun h g => ⟨g.1.trans h.1, h.2.trans g.2⟩) (fun t h => ⟨putMarker_agents .., Only.putMarker _ _ _ _ _ _ _⟩) _ t
  obtain ⟨hagents, honly⟩ := hmark
  have hread (j : Nat) : agent? (a.relaxed.foldl (fun s h => putMarker s a.uid a.seq (placeOf k a) h order scope) t) j = agent? t j :=
    congrArg (fget? · j) hagents
  subst ht
  exact ⟨(hread k).trans (agent?_putAgent_same ..), (Only.putAgent _ _ _).of_nil.trans honly,
    (Others.putAgent _ _ _).trans (Others.of_eq fun j _ => hread j)⟩

end

/-! ### One request enters (R190, R191) -/

/-- The request of a party for an access. -/
def requestOf (k : Nat) (a : Agent) (acc : Access) (id : Nat) : Req :=
  { id := id, seq := a.seq, who := { whoOf k a with engine := acc.eng }, acc := acc, fences := a.fences }

theorem issueReq_spec (s : State) (k : Nat) (a : Agent) (acc : Access) : agent? (issueReq s k a acc) k = some { a with seq := a.seq + 1 } ∧
    Only [.ids, .reqs, .markers] s (issueReq s k a acc) ∧ Others [k] s (issueReq s k a acc) ∧
    (issueReq s k a acc).reqs = s.reqs ++ [requestOf k a acc s.nextId] :=
  ⟨agent?_putAgent_same .., only_issueReq _ _ _ _, Others.of_eq fun j hj => fget?_fput_ne _ _ (by simpa using hj), rfl⟩

/-- Everything that issuing an access does: one request enters, with the party's next sequence number, and the party holds what it held. -/
theorem issueAccess_spec (c : Ctx') (a : Agent) (acc : Access) : ∃ id b', agent? (issueAccess c a acc) c.k = some b' ∧ b'.blk = a.blk ∧
    { b'.core with relaxed := [] } = { a.core with seq := a.seq + 1, relaxed := [] } ∧ Only [.ids, .reqs, .markers] c.s (issueAccess c a acc) ∧
    Others [c.k] c.s (issueAccess c a acc) ∧ (issueAccess c a acc).reqs = c.s.reqs ++ [requestOf c.k a acc id] := by
  unfold issueAccess
  extract_lets s1 s2 a2 a3 s3
  have h1 : agent? s1 c.k = some a := agent?_putAgent_same ..
  -- a wide release takes the relaxed targets
  have h2 : ∃ l, agent? s2 c.k = some { a with relaxed := l } ∧ Only [.ids, .markers] s1 s2 ∧ Others [c.k] s1 s2 := by
    refine iteInduction (motive := fun t => ∃ l, agent? t c.k = some { a with relaxed := l } ∧ Only [.ids, .markers] s1 t ∧ Others [c.k] s1 t)
      (fun _ => ?_) fun _ => ⟨a.relaxed, h1, Only.refl _ _, Others.refl _ _⟩
    exact ⟨[], sendMarkers_spec h1 _ _⟩
  obtain ⟨l, hthere, honly, hothers⟩ := h2
  -- a relaxed access adds one
  have h3 : ∃ l : List Nat, a3 = { a with relaxed := l } := by
    have ha2 : a2 = { a with relaxed := l } := congrArg (Option.getD · a) hthere
    simp only [a3]
    split
    · split
      · exact ⟨lput a2.relaxed _, by rw [ha2]⟩
      · exact ⟨l, ha2⟩
    · exact ⟨l, ha2⟩
  obtain ⟨l', ha3⟩ := h3
  obtain ⟨hthere', honly', hothers', hreqs⟩ := issueReq_spec s2 c.k a3 acc
  have honly3 : Only [.ids, .reqs, .markers] c.s s3 :=
    (((Only.putAgent _ _ _).of_nil.trans honly).mono (by simp)).trans honly'
  have hothers3 : Others [c.k] c.s s3 := ((Others.putAgent _ _ _).trans hothers).trans hothers'
  have hreqs3 : s3.reqs = c.s.reqs ++ [requestOf c.k a acc s2.nextId] := by
    rw [hreqs, honly .reqs (by simp), ha3]
    rfl
  have hheld (n : Nat) : { { a3 with seq := a3.seq + 1, region := n }.core with relaxed := [] } = { a.core with seq := a.seq + 1, relaxed := [] } := by
    rw [ha3]
    rfl
  split
  · refine ⟨s2.nextId, { a3 with seq := a3.seq + 1 }.endRegion, ?_, by rw [ha3]; rfl, hheld _, honly3.trans (Only.modAgent _ _ _).of_nil,
      hothers3.trans (Others.modAgent _ _ _), ?_⟩
    · exact (agent?_modAgent_same ..).trans (congrArg (Option.map _) hthere')
    · exact Eq.trans (Only.modAgent s3 c.k Agent.endRegion .reqs (by simp)) hreqs3
  · exact ⟨s2.nextId, _, hthere', by rw [ha3], hheld a3.region, honly3, hothers3, hreqs3⟩

/-- An access whose destination is emptied is one request of its party. -/
theorem requested_issueAccess {c : Ctx'} {acc : Access} {d : Dst} {q : Access → Prop} (heng : acc.eng = false) (hq : q acc) :
    ∃ b', agent? (issueAccess c (c.a.emptyDst d) acc) c.k = some b' ∧ b'.blk = c.a.blk ∧
      Only [.ids, .reqs, .markers] c.s (issueAccess c (c.a.emptyDst d) acc) ∧ Others [c.k] c.s (issueAccess c (c.a.emptyDst d) acc) ∧
      ∀ u b, Only [] (issueAccess c (c.a.emptyDst d) acc) u → b.core = b'.core → Requested c u b d q := by
  obtain ⟨id, b', hthere, hblk, hcore, honly, hothers, hreqs⟩ := issueAccess_spec c (c.a.emptyDst d) acc
  obtain ⟨v, x, p, t, hrest⟩ := emptyDst_rest c.a d
  refine ⟨b', hthere, by rw [hblk, hrest], honly, hothers, fun u b hu hb => ?_⟩
  -- what the party holds beside its relaxed targets
  have hheld : { b with relaxed := [] }.core = { c.a.emptyDst d with seq := c.a.seq + 1, relaxed := [] }.core := by
    have hb' : { b.core with relaxed := [] } = { b'.core with relaxed := [] } := by rw [hb]
    rw [hrest] at hcore ⊢
    exact hb'.trans hcore
  have hemptied : EmptiedD c.a { c.a.emptyDst d with seq := c.a.seq + 1, relaxed := [] } d := emptiedD_emptyDst c.a d
  refine ⟨requestOf c.k (c.a.emptyDst d) acc id, Eq.trans (hu .reqs (by simp)) hreqs, by rw [hrest]; rfl, ?_, rfl, hq,
    core_emptiedD (b := { b with relaxed := [] }) hheld hemptied, ?_, ?_, ?_⟩
  · rw [hrest]
    show { whoOf c.k c.a with engine := acc.eng } = whoOf c.k c.a
    rw [heng]
    rfl
  · exact (core_fl (b := { b with relaxed := [] }) hheld).trans (by rw [hrest])
  · exact congrArg Agent.seq hheld
  · have hbare : { b with relaxed := [] }.bare = { c.a.emptyDst d with seq := c.a.seq + 1, relaxed := [] }.bare := by
      unfold Agent.bare
      rw [hheld]
    rw [hrest] at hbare
    exact hbare

section
variable {o : Op} {H : Ctx' → Prop} {body : Ctx' → Go} {d : Ctx' → Dst} {acc : Ctx' → Access} {q : Ctx' → Access → Prop}
  (hbody : ∀ c, H c → body c = .next (issueAccess c (c.a.emptyDst (d c)) (acc c))) (heng : ∀ c, (acc c).eng = false) (hq : ∀ c, H c → q c (acc c))
include hbody heng hq

/-- An instruction whose own execution issues one access. -/
theorem requests_does {i : FormL → Instr} (hi : ∀ f s, exec (i f) s = issueL o f body s) :
    Does i o H [.ids, .reqs, .markers] fun c u b => Requested c u b (d c) (q c) := by
  refine doesL body hi fun c _ hc => ?_
  obtain ⟨b', hthere, hblk, honly, hothers, hP⟩ := requested_issueAccess (c := c) (d := d c) (heng c) (hq c hc)
  exact ⟨_, b', hbody c hc, hthere, hblk, honly, hothers, hP⟩
theorem requests_doesS {i : FormS → Instr} (hi : ∀ f s, exec (i f) s = issueS o f body s) :
    DoesS i o H [.ids, .reqs, .markers] fun c u b => Requested c u b (d c) (q c) := by
  refine doesS body hi fun c _ hc => ?_
  obtain ⟨b', hthere, hblk, honly, hothers, hP⟩ := requested_issueAccess (c := c) (d := d c) (heng c) (hq c hc)
  exact ⟨_, b', hbody c hc, hthere, hblk, honly, hothers, hP⟩

end

/-! ### The address of an access (R188, R189) -/

section
variable {c : Ctx'}

theorem globally_aligned {g : Nat → Go} (h : c.ea % widthBytes c.width = 0) : globally c g = g c.ea := if_neg (by simpa using h)
theorem globally_misaligned {g : Nat → Go} (h : c.ea % widthBytes c.width ≠ 0) :
    globally c g = .freeze c.s .misaligned { addr := BitVec.ofNat 64 c.ea } := if_pos (by simpa using h)

theorem csetOf_handler {s : State} {a : Agent} (h : a.kind = .handler) : csetOf s a = none := by simp only [csetOf, h]
theorem inScratch_found {diag : Bool} {g : List Nat → Go} {cs : CSet} {l : List Nat} (halign : c.ea32 % widthBytes c.width = 0)
    (hset : csetOf c.s c.a = some cs) (hlocs : scratchLocs c.s cs (ownGroup c.s c.a) c.ea32 (widthBytes c.width) diag = some l) :
    inScratch c diag g = g l := by
  have hkind : c.a.kind ≠ .handler := fun h => by rw [csetOf_handler h] at hset; cases hset
  simp [inScratch, hkind, halign, hset, hlocs]
theorem inScratch_misaligned {diag : Bool} {g : List Nat → Go} (halign : c.ea32 % widthBytes c.width ≠ 0) (hkind : c.a.kind ≠ .handler) :
    inScratch c diag g = .freeze c.s .misaligned { addr := BitVec.ofNat 64 c.ea32 } := by
  simp [inScratch, hkind, halign]
/-- A handler has no scratchpad, and some byte of another party's access does not exist. -/
theorem inScratch_lost {diag : Bool} {g : List Nat → Go} (h : c.a.kind = .handler ∨ (c.ea32 % widthBytes c.width = 0 ∧
    ∀ cs, csetOf c.s c.a = some cs → scratchLocs c.s cs (ownGroup c.s c.a) c.ea32 (widthBytes c.width) diag = none)) :
    inScratch c diag g = .freeze c.s .protection { addr := BitVec.ofNat 64 c.ea32 } := by
  rcases h with hkind | ⟨halign, hlost⟩
  · simp [inScratch, hkind]
  · have hnone : ((csetOf c.s c.a).bind fun cs => scratchLocs c.s cs (ownGroup c.s c.a) c.ea32 (widthBytes c.width) diag) = none :=
      Option.bind_eq_none_iff.mpr hlost
    simp [inScratch, halign, hnone]

theorem inPrivate_found {g : Nat → Go} (hkind : c.a.kind = .thread) (halign : c.ea32 % widthBytes c.width = 0)
    (hend : c.ea32 + widthBytes c.width ≤ privSize c.s c.a) : inPrivate c g = g (privVa c.s c.k c.a c.ea32) := by
  simp [inPrivate, hkind, halign, Nat.not_lt.mpr hend]
theorem inPrivate_misaligned {g : Nat → Go} (halign : c.ea32 % widthBytes c.width ≠ 0) (hkind : c.a.kind ≠ .handler) :
    inPrivate c g = .freeze c.s .misaligned { addr := BitVec.ofNat 64 c.ea32 } := by
  simp [inPrivate, hkind, halign]
/-- A party without thread-local space, and an access past its end. -/
theorem inPrivate_past {g : Nat → Go} (h : c.a.kind = .handler ∨ (c.ea32 % widthBytes c.width = 0 ∧
    (c.a.kind ≠ .thread ∨ privSize c.s c.a < c.ea32 + widthBytes c.width))) :
    inPrivate c g = .freeze c.s .stackOverflow { addr := BitVec.ofNat 64 c.ea32 } := by
  rcases h with hkind | ⟨halign, hnone | hpast⟩
  · simp [inPrivate, hkind]
  · simp [inPrivate, halign, hnone]
  · simp [inPrivate, halign, hpast]

end

/-! ### Loads and atomics with return (R190, R193) -/

/-- The destination that DST names (R50, R190). -/
def namedDst (c : Ctx') : Dst := if c.a.kind = .task then .x c.f.dst.toNat else .v c.f.dst.toNat (widRegs (modBits c.f.mod 14 12))

section
variable {c : Ctx'}

theorem memDst_eq (c : Ctx') : c.memDst = namedDst c := by
  simp only [Ctx'.memDst, Ctx'.ctl, beq_iff_eq]
  rfl
/-- A destination that keeps its value. -/
theorem namedDst_kept (h : if c.a.kind = .task then c.f.dst ≠ 0 else c.f.dst ≠ 255) : (namedDst c).isVoid = false := by
  have hnat {n : Byte} (hn : c.f.dst ≠ n) : (c.f.dst.toNat == n.toNat) = false := beq_eq_false_iff_ne.mpr fun e => hn (BitVec.eq_of_toNat_eq e)
  unfold namedDst
  split at h
  next hkind => rw [if_pos hkind]; exact hnat h
  next hkind => rw [if_neg hkind]; exact hnat h
theorem issueLoad_kept {acc : Access} {d : Dst} (hd : acc.dst = d) (h : d.isVoid = false) :
    issueLoad c acc = .next (issueAccess c (c.a.emptyDst d) acc) := by
  subst hd
  exact if_neg (by simp [h])

/-- The access that a load asks for. -/
theorem load_access (addr : Nat) (l : List Nat) (scr : Bool) : let q := c.access .load addr l scr
    q.kind = .load ∧ q.scratch = scr ∧ q.addr = BitVec.ofNat 64 addr ∧ q.locs = l ∧ q.bytes = 2 ^ modBits c.f.mod 14 12 ∧
      q.width = modBits c.f.mod 14 12 ∧ q.sx = modBit c.f.mod 11 ∧ q.order = modOrder c.f.mod ∧ q.scope = modScope c.f.mod ∧
      q.dst = namedDst c ∧ q.pc = c.a.pc :=
  ⟨rfl, rfl, rfl, rfl, rfl, rfl, rfl, rfl, rfl, memDst_eq c, rfl⟩
/-- The access that an atomic with return asks for. -/
theorem atomic_access (addr : Nat) (l : List Nat) (scr : Bool) : let n := 2 ^ modBits c.f.mod 14 12; let q := c.atomAccess addr l scr true
    q.kind = .rmw ∧ q.scratch = scr ∧ q.addr = BitVec.ofNat 64 addr ∧ q.locs = l ∧ q.bytes = n ∧ q.op = modCode c.f.mod ∧
      q.cmp = c.vc % 2 ^ (8 * n) ∧ q.data = (if modCode c.f.mod = 7 then c.vc / 2 ^ (8 * n) else c.vc) % 2 ^ (8 * n) ∧
      q.order = modOrder c.f.mod ∧ q.scope = modScope c.f.mod ∧ q.dst = namedDst c ∧ q.pc = c.a.pc := by
  refine ⟨rfl, rfl, rfl, rfl, rfl, rfl, rfl, ?_, rfl, rfl, memDst_eq c, rfl⟩
  show (if modCode c.f.mod == 7 then low _ (c.vc / 2 ^ (8 * 2 ^ modBits c.f.mod 14 12)) else low _ c.vc) = _
  by_cases hcas : modCode c.f.mod = 7 <;> simp only [hcas, beq_self_eq_true, beq_iff_eq, if_true, if_false] <;> rfl

end

/-- Settles O32: each body passes its address check, and its access's destination keeps its value. -/
theorem loads : Obligations.Loads := by
  unfold Obligations.Loads
  -- what each body does once its address is found
  have hload (c : Ctx') (addr : Nat) (l : List Nat) (scr : Bool) (hkept : if c.a.kind = .task then c.f.dst ≠ 0 else c.f.dst ≠ 255) :
      issueLoad c (c.access .load addr l scr) = .next (issueAccess c (c.a.emptyDst (namedDst c)) (c.access .load addr l scr)) :=
    issueLoad_kept (memDst_eq c) (namedDst_kept hkept)
  have hatom (c : Ctx') (addr : Nat) (l : List Nat) (scr : Bool) (hkept : if c.a.kind = .task then c.f.dst ≠ 0 else c.f.dst ≠ 255) :
      issueLoad c (c.atomAccess addr l scr true) = .next (issueAccess c (c.a.emptyDst (namedDst c)) (c.atomAccess addr l scr true)) :=
    issueLoad_kept (memDst_eq c) (namedDst_kept hkept)
  refine ⟨?_, ?_, fun l => ?_, fun l => ?_, ?_, ?_, ?_, fun l => ?_⟩
  · exact requests_does (body := bodyLd) (fun c ⟨h, hkept⟩ => (globally_aligned h).trans (hload c _ _ _ hkept)) (fun _ => rfl)
      (fun _ _ => load_access ..) fun _ _ => rfl
  · exact requests_doesS (body := bodyLd) (fun c ⟨h, hkept⟩ => (globally_aligned h).trans (hload c _ _ _ hkept)) (fun _ => rfl)
      (fun _ _ => load_access ..) fun _ _ => rfl
  · exact requests_does (body := bodyLds) (fun c ⟨⟨halign, cs, hset, hlocs⟩, hkept⟩ => (inScratch_found halign hset hlocs).trans (hload c _ _ _ hkept))
      (fun _ => rfl) (fun _ _ => load_access ..) fun _ _ => rfl
  · exact requests_doesS (body := bodyLds) (fun c ⟨⟨halign, cs, hset, hlocs⟩, hkept⟩ => (inScratch_found halign hset hlocs).trans (hload c _ _ _ hkept))
      (fun _ => rfl) (fun _ _ => load_access ..) fun _ _ => rfl
  · exact requests_does (body := bodyLdl) (fun c ⟨⟨hkind, halign, hend⟩, hkept⟩ => (inPrivate_found hkind halign hend).trans (hload c _ _ _ hkept))
      (fun _ => rfl) (fun _ _ => load_access ..) fun _ _ => rfl
  · exact requests_doesS (body := bodyLdl) (fun c ⟨⟨hkind, halign, hend⟩, hkept⟩ => (inPrivate_found hkind halign hend).trans (hload c _ _ _ hkept))
      (fun _ => rfl) (fun _ _ => load_access ..) fun _ _ => rfl
  · exact requests_does (body := bodyAtom) (fun c ⟨h, hkept⟩ => (globally_aligned h).trans (hatom c _ _ _ hkept)) (fun _ => rfl)
      (fun _ _ => atomic_access ..) fun _ _ => rfl
  · exact requests_does (body := bodyAtoms) (fun c ⟨⟨halign, cs, hset, hlocs⟩, hkept⟩ => (inScratch_found halign hset hlocs).trans (hatom c _ _ _ hkept))
      (fun _ => rfl) (fun _ _ => atomic_access ..) fun _ _ => rfl

/-! ### Stores and RED (R191, R193, R316) -/

section
variable {c : Ctx'}

theorem issueStore_room {acc : Access} (h : writesOut c.s c.a.uid < 8) : issueStore c acc = .next (issueAccess c (c.a.emptyDst .none) acc) :=
  if_neg (Nat.not_le.mpr h)

/-- The access that a store asks for. -/
theorem store_access (addr : Nat) (l : List Nat) (scr : Bool) : let n := 2 ^ modBits c.f.mod 14 12; let q := c.access .store addr l scr
    q.kind = .store ∧ q.scratch = scr ∧ q.addr = BitVec.ofNat 64 addr ∧ q.locs = l ∧ q.bytes = n ∧ q.data = c.vc % 2 ^ (8 * n) ∧
      q.order = modOrder c.f.mod ∧ q.scope = modScope c.f.mod ∧ q.dst = .none ∧ q.pc = c.a.pc :=
  ⟨rfl, rfl, rfl, rfl, rfl, rfl, rfl, rfl, rfl, rfl⟩
/-- The access that RED asks for. -/
theorem reduce_access (addr : Nat) : let n := 2 ^ modBits c.f.mod 14 12; let q := c.atomAccess addr [] false false
    q.kind = .rmw ∧ q.scratch = false ∧ q.addr = BitVec.ofNat 64 addr ∧ q.locs = [] ∧ q.bytes = n ∧ q.op = modCode c.f.mod ∧
      (modCode c.f.mod ≠ 7 → q.data = c.vc % 2 ^ (8 * n)) ∧ q.order = modOrder c.f.mod ∧ q.scope = modScope c.f.mod ∧ q.dst = .none ∧
      q.pc = c.a.pc :=
  ⟨rfl, rfl, rfl, rfl, rfl, rfl, fun hcas => if_neg fun h => hcas (beq_iff_eq.mp h), rfl, rfl, rfl, rfl⟩

end

/-- Settles O33: each body passes its address check, and the party has room for one more write. -/
theorem stores : Obligations.Stores := by
  unfold Obligations.Stores
  refine ⟨?_, ?_, fun l => ?_, fun l => ?_, ?_, ?_, ?_⟩
  · exact requests_does (body := bodySt) (fun c ⟨h, hroom⟩ => (globally_aligned h).trans (issueStore_room hroom)) (fun _ => rfl)
      (fun _ _ => store_access ..) fun _ _ => rfl
  · exact requests_doesS (body := bodySt) (fun c ⟨h, hroom⟩ => (globally_aligned h).trans (issueStore_room hroom)) (fun _ => rfl)
      (fun _ _ => store_access ..) fun _ _ => rfl
  · exact requests_does (body := bodySts) (fun c ⟨⟨halign, cs, hset, hlocs⟩, hroom⟩ => (inScratch_found halign hset hlocs).trans (issueStore_room hroom))
      (fun _ => rfl) (fun _ _ => store_access ..) fun _ _ => rfl
  · exact requests_doesS (body := bodySts) (fun c ⟨⟨halign, cs, hset, hlocs⟩, hroom⟩ => (inScratch_found halign hset hlocs).trans (issueStore_room hroom))
      (fun _ => rfl) (fun _ _ => store_access ..) fun _ _ => rfl
  · exact requests_does (body := bodyStl) (fun c ⟨⟨hkind, halign, hend⟩, hroom⟩ => (inPrivate_found hkind halign hend).trans (issueStore_room hroom))
      (fun _ => rfl) (fun _ _ => store_access ..) fun _ _ => rfl
  · exact requests_doesS (body := bodyStl) (fun c ⟨⟨hkind, halign, hend⟩, hroom⟩ => (inPrivate_found hkind halign hend).trans (issueStore_room hroom))
      (fun _ => rfl) (fun _ _ => store_access ..) fun _ _ => rfl
  · exact requests_does (body := bodyRed) (fun c ⟨h, hroom⟩ => (globally_aligned h).trans (issueStore_room hroom)) (fun _ => rfl)
      (fun _ _ => reduce_access ..) fun _ _ => rfl

/-! ### Faults at issue (R188, R189, R331) -/

section
variable {o : Op} {f : FormL} {s : State} {k : Nat} {a : Agent} {i : FormL → Instr} {body : Ctx' → Go} (h : Clear o f s k a)
  (hi : ∀ f s, exec (i f) s = issueL o f body s)
include h hi

/-- A body that is a global access. -/
theorem Clear.globally_faults (g : Ctx' → Nat → Go) (hbody : ∀ c, body c = globally c (g c)) :
    let c := ctxOf o f (lenOf f) s k a
    c.ea % widthBytes c.width ≠ 0 → Faults c (exec (i f) s) .misaligned { addr := BitVec.ofNat 64 c.ea } :=
  fun halign => h.faults hi ((hbody _).trans (globally_misaligned halign)) rfl
/-- A body that is a scratchpad access. -/
theorem Clear.inScratch_faults (diag : Ctx' → Bool) (g : Ctx' → List Nat → Go) (hbody : ∀ c, body c = inScratch c (diag c) (g c)) :
    let c := ctxOf o f (lenOf f) s k a
    (c.ea32 % widthBytes c.width ≠ 0 ∧ c.a.kind ≠ .handler → Faults c (exec (i f) s) .misaligned { addr := BitVec.ofNat 64 c.ea32 }) ∧
    (c.a.kind = .handler ∨ (c.ea32 % widthBytes c.width = 0 ∧
      ∀ cs, csetOf c.s c.a = some cs → scratchLocs c.s cs (ownGroup c.s c.a) c.ea32 (widthBytes c.width) (diag c) = none) →
      Faults c (exec (i f) s) .protection { addr := BitVec.ofNat 64 c.ea32 }) :=
  ⟨fun ⟨halign, hkind⟩ => h.faults hi ((hbody _).trans (inScratch_misaligned halign hkind)) rfl,
    fun hlost => h.faults hi ((hbody _).trans (inScratch_lost hlost)) rfl⟩
/-- A body that is a thread-local access. -/
theorem Clear.inPrivate_faults (g : Ctx' → Nat → Go) (hbody : ∀ c, body c = inPrivate c (g c)) :
    let c := ctxOf o f (lenOf f) s k a
    (c.ea32 % widthBytes c.width ≠ 0 ∧ c.a.kind ≠ .handler → Faults c (exec (i f) s) .misaligned { addr := BitVec.ofNat 64 c.ea32 }) ∧
    (c.a.kind = .handler ∨ (c.ea32 % widthBytes c.width = 0 ∧ (c.a.kind ≠ .thread ∨ privSize c.s c.a < c.ea32 + widthBytes c.width)) →
      Faults c (exec (i f) s) .stackOverflow { addr := BitVec.ofNat 64 c.ea32 }) :=
  ⟨fun ⟨halign, hkind⟩ => h.faults hi ((hbody _).trans (inPrivate_misaligned halign hkind)) rfl,
    fun hpast => h.faults hi ((hbody _).trans (inPrivate_past hpast)) rfl⟩

end

/-- Settles O34: every one of these bodies begins with the check of its address space. -/
theorem accessFaults : Obligations.AccessFaults := by
  unfold Obligations.AccessFaults
  have hlds (f s k a) (h : Clear .lds f s k a) := h.inScratch_faults (i := .lds) (body := bodyLds) (fun _ _ => rfl) _ _ fun _ => rfl
  have hsts (f s k a) (h : Clear .sts f s k a) := h.inScratch_faults (i := .sts) (body := bodySts) (fun _ _ => rfl) _ _ fun _ => rfl
  have hatoms (f s k a) (h : Clear .atoms f s k a) := h.inScratch_faults (i := .atoms) (body := bodyAtoms) (fun _ _ => rfl) _ _ fun _ => rfl
  have hldl (f s k a) (h : Clear .ldl f s k a) := h.inPrivate_faults (i := .ldl) (body := bodyLdl) (fun _ _ => rfl) _ fun _ => rfl
  have hstl (f s k a) (h : Clear .stl f s k a) := h.inPrivate_faults (i := .stl) (body := bodyStl) (fun _ _ => rfl) _ fun _ => rfl
  refine ⟨?_, ?_, ?_, ?_, ?_, ?_, ?_, ?_, ?_, ?_, ?_, ?_, ?_, ?_⟩
  · exact fun f s k a h => h.globally_faults (body := bodyLd) (fun _ _ => rfl) _ fun _ => rfl
  · exact fun f s k a h => h.globally_faults (body := bodySt) (fun _ _ => rfl) _ fun _ => rfl
  · exact fun f s k a h => h.globally_faults (body := bodyAtom) (fun _ _ => rfl) _ fun _ => rfl
  · exact fun f s k a h => h.globally_faults (body := bodyRed) (fun _ _ => rfl) _ fun _ => rfl
  · exact fun f s k a h => (hlds f s k a h).1
  · exact fun f s k a h => (hsts f s k a h).1
  · exact fun f s k a h => (hatoms f s k a h).1
  · exact fun f s k a h => (hlds f s k a h).2
  · exact fun f s k a h => (hsts f s k a h).2
  · exact fun f s k a h => (hatoms f s k a h).2
  · exact fun f s k a h => (hldl f s k a h).1
  · exact fun f s k a h => (hstl f s k a h).1
  · exact fun f s k a h => (hldl f s k a h).2
  · exact fun f s k a h => (hstl f s k a h).2

end Sys2Proof.Machine
end

section
/-!
PROOF. FENCE and PREF (R194, R215).
-/
namespace Sys2Proof.Machine

/-! ### FENCE (R215) -/

/-- How a clear party's instruction completes, with its region: what holds of a party whose region is no earlier than its own effect left it. -/
theorem moves_settle_region {c : Ctx'} {t : State} {b' : Agent} {l : List Part} {P : State → Agent → Prop} {out : Out}
    (hout : out = .next (settle c.k c.a c.len (.next t))) (hthere : agent? t c.k = some b') (hblk : b'.blk = c.a.blk) (honly : Only l c.s t)
    (hothers : Others [c.k] c.s t) (hP : ∀ u b, Only [] t u → b.core = b'.core → b'.region ≤ b.region → P u b) : Moves c out l P := by
  obtain ⟨u, b, hu, hpassed, honly', hothers', hkept, hcore⟩ :=
    moves_settle (P := fun u b => Only [] t u ∧ b.core = b'.core) hout hthere hblk honly hothers fun u b hu hb => ⟨hu, hb⟩
  cases hout.symm.trans hu
  exact ⟨_, b, hu, hpassed, honly', hothers', hP _ b hkept hcore (settle_next_region hthere c.a c.len b hpassed.here)⟩

/-- A party after its FENCE: its region has ended, an ACQ, AR or SC fence has taken what its atomics observed, a REL, AR or SC fence keeps its
release, and the fence stands at its place of the program order. -/
def Agent.fenced (a : Agent) (k o sc : Nat) (live : Fence → Bool) (l : List Nat) : Agent :=
  let clk := if o != 3 then cmax a.clk (acquired a.acqP sc (placeOf k a)) else a.clk
  { a with
    relaxed := l
    region := a.region + 1
    clk := clk
    relF := if o != 2 then a.relF.filter (fun r => r.scope != sc) ++ [{ uid := a.uid, place := placeOf k a, scope := sc, clk := fput clk a.uid (a.region + 1) }]
      else a.relF
    fences := a.fences.filter live ++ [{ seq := a.seq, region := a.region + 1, order := o, scope := sc }] }

theorem bodyFence_spec {c : Ctx'} (hhere : agent? c.s c.k = some c.a) : ∃ t live l, bodyFence c = .next t ∧ Only [.ids, .markers] c.s t ∧
    Others [c.k] c.s t ∧ agent? t c.k = some (c.a.fenced c.k (modOrder c.f.mod) (modScope c.f.mod) live l) := by
  unfold bodyFence
  extract_lets o sc s1
  have h1 : ∃ l, agent? s1 c.k = some { c.a with relaxed := l } ∧ Only [.ids, .markers] c.s s1 ∧ Others [c.k] c.s s1 := by
    simp only [s1]
    split
    · exact ⟨[], sendMarkers_spec hhere o sc⟩
    · exact ⟨c.a.relaxed, hhere, Only.refl _ _, Others.refl _ _⟩
  obtain ⟨l, hthere, honly, hothers⟩ := h1
  refine ⟨_, fenceLive s1 c.a.uid, l, rfl, honly.trans (Only.modAgent _ _ _).of_nil, hothers.trans (Others.modAgent _ _ _), ?_⟩
  rw [agent?_modAgent_same, hthere, Option.map_some]
  change _ = some (c.a.fenced c.k o sc (fenceLive s1 c.a.uid) l)
  unfold Agent.fenced
  cases o != 3 <;> cases o != 2 <;> rfl

theorem fence_does : Does .fence .fence (fun _ => True) [.ids, .markers] fun c _ b =>
    SameV c.a b ∧ SameX c.a b ∧ SameP c.a b ∧ b.fl = c.a.fl ∧ c.a.region < b.region ∧
    ∃ x ∈ b.fences, x.seq = c.a.seq ∧ x.order = modOrder c.f.mod ∧ x.scope = modScope c.f.mod := by
  intro f s k a h c _
  obtain ⟨t, live, l, hbody, honly, hothers, hthere⟩ := bodyFence_spec (c := c) h.here
  have hout : exec (.fence f) s = .next (settle c.k c.a c.len (.next t)) := (issueL_clear h bodyFence).trans (by rw [hbody]; rfl)
  refine moves_settle_region hout hthere rfl honly hothers fun u b _ hcore hregion => ?_
  refine ⟨core_sameV hcore fun _ => rfl, core_sameX hcore fun _ => rfl, core_sameP hcore ⟨rfl, rfl, rfl⟩, (core_fl hcore).trans rfl, hregion, ?_⟩
  have hfences : b.core.fences = _ := congrArg Agent.fences hcore
  change ∃ x ∈ b.core.fences, _
  rw [hfences]
  exact ⟨_, List.mem_append_right _ (List.mem_singleton_self _), rfl, rfl, rfl⟩

/-! ### The use of a line (R183 to R185) -/

/-- A state with other lines, replacement trees and count of free values: all that the use of a line touches. -/
def Lined (s u : State) : Prop := ∃ l p n, u = { s with lines := l, plru := p, free := n }

section
variable {s t u : State}

theorem Lined.refl (s : State) : Lined s s := ⟨s.lines, s.plru, s.free, rfl⟩
theorem Lined.trans (h : Lined s t) (g : Lined t u) : Lined s u := by
  obtain ⟨l, p, n, rfl⟩ := h
  obtain ⟨l', p', n', rfl⟩ := g
  exact ⟨l', p', n', rfl⟩
theorem Lined.only (h : Lined s u) : Only [.lines, .free] s u := by
  obtain ⟨l, p, n, rfl⟩ := h
  intro q hq
  cases q <;> simp_all [Same, group?, ctx?]
theorem Lined.agent? (h : Lined s u) (j : Nat) : agent? u j = Machine.agent? s j := by obtain ⟨l, p, n, rfl⟩ := h; rfl

theorem useLine_lined (s : State) (p : Place) (asid va pa home leaf hint : Nat) (write : Bool) : Lined s (useLine s p asid va pa home leaf hint write) := by
  unfold useLine
  split
  · exact .refl s
  · refine iteInduction (motive := Lined s) (fun _ => .refl s) fun _ => ?_
    extract_lets hint' here slice set key touch way dropped t
    -- the die L2 first
    have hdie : Lined s t := by
      simp only [t]
      split
      · exact iteInduction (motive := Lined s) (fun _ => .refl s) fun _ => ⟨_, _, _, rfl⟩
      · exact iteInduction (motive := Lined s) (fun _ => .refl s) fun _ => ⟨_, _, _, rfl⟩
    -- then the L1 of the core
    split
    · exact iteInduction (motive := Lined s) (fun _ => hdie.trans ⟨_, _, _, rfl⟩) fun _ => hdie
    · exact hdie

end

/-! ### PREF (R194) -/

section
variable {c : Ctx'}

/-- PREF does nothing, or waits for its line, or leaves what its translation left but for lines. -/
theorem bodyPref_crossed (hcross : ∀ pa home leaf v, locate c.s (placeOf c.k c.a) c.a.tasid c.ea .load = .at_ pa home leaf v →
      paPkg pa ≠ 255 ∧ bitsN leaf 10 9 ≠ 2 → crossNow c.s (whoOf c.k c.a) (plainLoad (lineOf c.ea) 128 c.a.pc) home = true) :
    bodyPref c = .next c.s ∨ ∃ pa home leaf v u, locate c.s (placeOf c.k c.a) c.a.tasid c.ea .load = .at_ pa home leaf v ∧ Lined v u ∧
      bodyPref c = .next u := by
  unfold bodyPref
  extract_lets t p
  split
  next pa home leaf v hloc =>
    split
    · exact .inl rfl
    next hfills =>
      have hfills' : paPkg pa ≠ 255 ∧ bitsN leaf 10 9 ≠ 2 := by simpa using hfills
      rw [if_neg (by simp [hcross pa home leaf v hloc hfills'])]
      exact .inr ⟨pa, home, leaf, v, _, hloc, useLine_lined .., rfl⟩
  next => exact .inl rfl
theorem bodyPref_waits {pa home leaf : Nat} {v : State} (hloc : locate c.s (placeOf c.k c.a) c.a.tasid c.ea .load = .at_ pa home leaf v)
    (hfills : paPkg pa ≠ 255 ∧ bitsN leaf 10 9 ≠ 2)
    (hcross : crossNow c.s (whoOf c.k c.a) (plainLoad (lineOf c.ea) 128 c.a.pc) home = false) : bodyPref c = .wait c.s .retry := by
  simp [bodyPref, hloc, hfills, hcross]

end

/-- Settles O35: a fence changes its party's region and fences, and a prefetch no more than its translation and its line. -/
theorem fencesAndPrefetches : Obligations.FencesAndPrefetches := by
  unfold Obligations.FencesAndPrefetches
  refine ⟨fence_does, ?_, ?_⟩
  · refine doesL bodyPref (fun _ _ => rfl) fun c hhere hcross => ?_
    rcases bodyPref_crossed hcross with hnothing | ⟨pa, home, leaf, v, u, hloc, hlined, hbody⟩
    · exact ⟨c.s, c.a, hnothing, hhere, rfl, Only.refl _ _, Others.refl _ _, fun u b hu hb =>
        ⟨hb, .inl ⟨hu .mem (by simp), hu .bases (by simp)⟩⟩⟩
    · have hmarked : Marked c.s v := by
        have := locate_marked c.s (placeOf c.k c.a) c.a.tasid c.ea .load 1
        rwa [hloc] at this
      refine ⟨u, c.a, hbody, (hlined.agent? _).trans ((hmarked.agent? _).trans hhere), rfl,
        (hmarked.only.mono (by simp)).trans (hlined.only.mono (by simp)), Others.of_eq fun j _ => (hlined.agent? j).trans (hmarked.agent? j),
        fun w b hw hb => ⟨hb, .inr ⟨pa, home, leaf, v, hloc, ?_, ?_⟩⟩⟩
      · exact Eq.trans (hw .mem (by simp)) (hlined.only .mem (by simp))
      · exact Eq.trans (hw .bases (by simp)) (hlined.only .bases (by simp))
  · intro f s k a h c pa home leaf v hloc hfills hcross
    exact h.waits (body := bodyPref) (fun _ _ => rfl) (bodyPref_waits hloc hfills hcross)

end Sys2Proof.Machine
end

section
/-!
PROOF. Accesses performed (R175, R190, R191, R193): what judging, observing and publishing leave, and the bytes that an access gives and changes.
-/
namespace Sys2Proof.Machine

/-! ### What judging, observing and publishing leave (R203 to R208) -/

/-- The fabric is the same, and every request but for what its party knows by now (R205). -/
def Asked (s u : State) : Prop := u.fabric = s.fabric ∧ ∃ f : Req → Who, u.reqs = s.reqs.map fun q => { q with who := f q }
/-- Memory and scratchpad are the same too. -/
def Judged (s u : State) : Prop := u.mem = s.mem ∧ u.sram = s.sram ∧ Asked s u

section
variable {s t u : State}

theorem Asked.of_eq (hfabric : u.fabric = s.fabric) (hreqs : u.reqs = s.reqs) : Asked s u := ⟨hfabric, Req.who, hreqs.trans (List.map_id' _).symm⟩
theorem Asked.trans (h : Asked s t) (g : Asked t u) : Asked s u := by
  obtain ⟨hfabric, f, hreqs⟩ := h
  obtain ⟨gfabric, f', greqs⟩ := g
  exact ⟨gfabric.trans hfabric, fun q => f' { q with who := f q }, by rw [greqs, hreqs, List.map_map]; rfl⟩
theorem Judged.of_eq (hmem : u.mem = s.mem) (hsram : u.sram = s.sram) (hfabric : u.fabric = s.fabric) (hreqs : u.reqs = s.reqs) : Judged s u :=
  ⟨hmem, hsram, .of_eq hfabric hreqs⟩
theorem Judged.refl (s : State) : Judged s s := .of_eq rfl rfl rfl rfl
theorem Judged.trans (h : Judged s t) (g : Judged t u) : Judged s u := ⟨g.1.trans h.1, g.2.1.trans h.2.1, h.2.2.trans g.2.2⟩
theorem Judged.foldl {α : Type} {f : State → α → State} (hf : ∀ s x, Judged s (f s x)) (l : List α) (s : State) : Judged s (l.foldl f s) :=
  foldl_keeps Judged.refl Judged.trans hf l s

/-- A request is found where it was, asking what it asked. -/
theorem Asked.req? {id : Nat} {r : Req} (h : Asked s u) (hr : req? s id = some r) : ∃ w, Machine.req? u id = some { r with who := w } := by
  obtain ⟨-, f, hreqs⟩ := h
  refine ⟨f r, ?_⟩
  unfold Machine.req? at *
  rw [hreqs, List.find?_map]
  exact (congrArg (Option.map _) hr)

theorem modAgent_judged (s : State) (k : Nat) (f : Agent → Agent) : Judged s (modAgent s k f) := by
  unfold modAgent
  split <;> exact .of_eq rfl rfl rfl rfl
theorem queueRec_judged (s : State) (r : Rec) : Judged s (queueRec s r) := by
  unfold queueRec modCtx
  split <;> exact .of_eq rfl rfl rfl rfl
theorem modSaved_judged {uid : Nat} {f : Agent → Agent} (h : modSaved s uid f = some t) : Judged s t := by
  simp only [modSaved] at h
  split at h
  · cases h; exact .of_eq rfl rfl rfl rfl
  · split at h
    · cases h; exact .of_eq rfl rfl rfl rfl
    · cases h
theorem storeFault_judged (s : State) (key uid asid : Nat) (code : FCode) (pc addr : DWord) (entry kernel : Nat) :
    Judged s (storeFault s key uid asid code pc addr entry kernel) := by
  have hdead : Judged s (storeFault.dead s key asid code pc addr entry kernel) :=
    Judged.trans (t := { s with nextId := s.nextId + 1 }) (.of_eq rfl rfl rfl rfl) (queueRec_judged _ _)
  unfold storeFault
  split
  · exact iteInduction (motive := Judged s) (fun _ => hdead) fun _ => .of_eq rfl rfl rfl rfl
  · split
    next hsaved => exact modSaved_judged hsaved
    next => exact hdead
theorem noteOrder_judged (s : State) (w : Who) : Judged s (noteOrder s w) := by
  unfold noteOrder
  split
  · exact iteInduction (motive := Judged s) (fun _ => .of_eq rfl rfl rfl rfl) fun _ => .refl s
  · exact .refl s
theorem tagRoom_judged (s : State) (word : Nat) : Judged s (tagRoom s word) := by
  unfold tagRoom
  refine iteInduction (motive := Judged s) (fun _ => .refl s) fun _ => ?_
  extract_lets mine idle
  refine iteInduction (motive := Judged s) (fun _ => .refl s) fun _ => ?_
  clear_value idle mine
  split
  · exact Judged.foldl (f := fun s (t : Tag) => boundary s t.uid) (fun s t => .of_eq rfl rfl rfl rfl) _ s
  · exact .of_eq rfl rfl rfl rfl
theorem addTag_judged (s : State) (word : Nat) (t : Tag) (clean : Bool) : Judged s (addTag s word t clean) := by
  have hroom := tagRoom_judged s word
  unfold addTag
  exact iteInduction (motive := Judged s) (fun _ => hroom) fun _ => hroom.trans (.of_eq rfl rfl rfl rfl)
/-- An access that is judged hits parties and enters the region tags. -/
theorem judge_judged {w : Who} {write atomic : Bool} {ws : List Nat} {addr : DWord} {both : Bool} (h : judge s w write atomic ws addr = some (t, both)) :
    Judged s t := by
  unfold judge at h
  extract_lets hs victims s1 tag s2 at h
  split at h
  · cases h
  · cases h
    have h1 : Judged s s1 := Judged.foldl (fun s t => storeFault_judged ..) _ s
    have h2 : Judged s1 s2 := Judged.foldl (fun s x => addTag_judged ..) _ s1
    exact (h1.trans h2).trans (noteOrder_judged _ _)
theorem acquireFrom_judged (s : State) (uid r : Nat) (c : Clock) : Judged s (acquireFrom s uid r c) := by
  unfold acquireFrom
  refine iteInduction (motive := Judged s) (fun _ => .refl s) fun _ => ⟨rfl, rfl, rfl, ?_⟩
  exact ⟨fun q => if q.who.uid == uid && q.who.region > r then { q.who with
    clk := cmax q.who.clk c, rels := q.who.rels.map fun x => if fgetD x.clk uid 0 > r then { x with clk := cmax x.clk c } else x } else q.who,
    List.map_congr_left fun q _ => by dsimp only; split <;> rfl⟩
theorem observe_judged (s : State) (w : Who) (ws : List Nat) (order scope seq : Nat) : Judged s (observe s w ws order scope seq) := by
  unfold observe
  extract_lets rs s1
  refine iteInduction (motive := Judged s) (fun _ => .refl s) fun _ => ?_
  have h1 : Judged s s1 := iteInduction (motive := Judged s) (fun _ => acquireFrom_judged ..) fun _ => .refl s
  split
  · exact h1
  · exact (h1.trans (Judged.foldl (fun s f => acquireFrom_judged ..) _ _)).trans (modAgent_judged ..)
theorem publish_judged (s : State) (ws : List Nat) (rels : List Rel) (rmw : Bool) : Judged s (publish s ws rels rmw) := by
  obtain ⟨r, e⟩ := publish_keeps s ws rels rmw
  rw [e]
  exact .of_eq rfl rfl rfl rfl
theorem writeBack_judged (s : State) (p : Place) (pa : Nat) : Judged s (writeBack s p pa) :=
  iteInduction (motive := Judged s) (fun _ => .of_eq rfl rfl rfl rfl) fun _ => .refl s
theorem Lined.judged (h : Lined s u) : Judged s u := by
  obtain ⟨l, p, n, rfl⟩ := h
  exact .of_eq rfl rfl rfl rfl

end

/-! ### An access on its words (R193) -/

section
variable {s u : State} {w : Who} {q : Access} {seq old v : Nat} {ws : List Nat} {checked po r : Bool} {put : State → Nat → State}

/-- What an access that is performed on its words gives, and where its data or its new value stands: `put` has written it in a state in which the
access has only been judged and has observed. -/
theorem performOn_spec (h : performOn s w q seq ws checked old put = .done u v po r) : ∃ t, Judged s t ∧ match q.kind with
    | .load => v = old ∧ Judged t u
    | .store => Judged (put t q.data) u
    | .rmw => v = old ∧ Judged (put t (atomicNew q.op (8 * q.bytes) old q.data q.cmp)) u := by
  unfold performOn at h
  split at h
  · cases h
  next t race hjudged =>
    have ht : Judged s t := by
      split at hjudged
      · exact judge_judged hjudged
      · cases hjudged; exact .refl s
    dsimp only at h
    cases hkind : q.kind with
    | load =>
      simp only [hkind] at h
      cases h
      exact ⟨t, ht, rfl, iteInduction (motive := Judged t) (fun _ => observe_judged ..) fun _ => .refl t⟩
    | store =>
      simp only [hkind] at h
      cases h
      refine ⟨t, ht, (publish_judged (put t q.data) ws (relsOf w q.order q.scope q.atomic) false).trans ?_⟩
      split
      · exact .of_eq rfl rfl rfl rfl
      · exact .refl _
    | rmw =>
      simp only [hkind] at h
      cases h
      refine ⟨observe t w ws q.order q.scope seq, ht.trans (observe_judged ..), rfl,
        (publish_judged (put _ _) ws (relsOf w q.order q.scope true) true).trans ?_⟩
      split
      · exact .of_eq rfl rfl rfl rfl
      · exact .refl _
/-- Requests are left asking what they asked, where writing leaves them. -/
theorem performOn_asked (h : performOn s w q seq ws checked old put = .done u v po r) (hput : ∀ t n, Asked t (put t n)) : Asked s u := by
  obtain ⟨t, ht, hu⟩ := performOn_spec h
  split at hu
  · exact ht.2.2.trans hu.2.2.2
  · exact ht.2.2.trans ((hput _ _).trans hu.2.2)
  · exact ht.2.2.trans ((hput _ _).trans hu.2.2.2)

end

/-! ### An access to memory at its home (R175, R190) -/

theorem pow_bytes (n : Nat) : 2 ^ (8 * n) = 256 ^ n := Nat.pow_mul 2 8 n
theorem readPhys_memory (s : State) {pa : Nat} (h : paPkg pa < 240) (n : Nat) : readPhys s pa n = readN s.mem pa n :=
  if_pos (bne_iff_ne.mpr (by omega))
theorem writePhys_memory (s : State) (p : Place) {pa : Nat} (h : paPkg pa < 240) (v n : Nat) :
    ∃ po, writePhys s p pa v n = { s with mem := writeN s.mem pa v n, poison := po } := by
  obtain ⟨po, e, -⟩ := unpoison_eq { s with mem := writeN s.mem pa v n } pa n
  refine ⟨po, Eq.trans ?_ e⟩
  exact if_neg (by simp; omega)
theorem writePhys_asked (s : State) (p : Place) (pa v n : Nat) : Asked s (writePhys s p pa v n) := by
  unfold writePhys
  refine iteInduction (motive := Asked s) (fun _ => .of_eq rfl rfl) fun _ => ?_
  obtain ⟨po, e, -⟩ := unpoison_eq { s with mem := writeN s.mem pa v n } pa n
  rw [e]
  exact .of_eq rfl rfl

section
variable {s u : State} {w : Who} {q : Access} {seq pa v : Nat} {po r : Bool}

theorem performHome_asked (h : performHome s w q seq pa = .done u v po r) : Asked s u :=
  (writeBack_judged s w.place pa).2.2.trans (performOn_asked h fun _ _ => writePhys_asked ..)

/-- A request performed on HBM at its home. -/
theorem performHome_memory (h : performHome s w q seq pa = .done u v po r) (hpa : paPkg pa < 240) : u.sram = s.sram ∧ match q.kind with
    | .load => v = readN s.mem pa q.bytes ∧ u.mem = s.mem
    | .store => u.mem = writeN s.mem pa q.data q.bytes
    | .rmw => v = readN s.mem pa q.bytes ∧
        u.mem = writeN s.mem pa (atomicNew q.op (8 * q.bytes) (readN s.mem pa q.bytes) q.data q.cmp) q.bytes := by
  obtain ⟨t, ht, hu⟩ := performOn_spec h
  obtain ⟨hmem, hsram, -⟩ := (writeBack_judged s w.place pa).trans ht
  rw [readPhys_memory s hpa] at hu
  have hput (n : Nat) : (writePhys t w.place pa n q.bytes).mem = writeN s.mem pa n q.bytes ∧ (writePhys t w.place pa n q.bytes).sram = s.sram := by
    obtain ⟨po, e⟩ := writePhys_memory t w.place hpa n q.bytes
    rw [e]
    exact ⟨congrArg (writeN · pa n q.bytes) hmem, hsram⟩
  cases hkind : q.kind with
  | load =>
    simp only [hkind] at hu
    obtain ⟨hv, humem, husram, -⟩ := hu
    exact ⟨husram.trans hsram, hv, humem.trans hmem⟩
  | store =>
    simp only [hkind] at hu
    obtain ⟨humem, husram, -⟩ := hu
    exact ⟨husram.trans (hput _).2, humem.trans (hput _).1⟩
  | rmw =>
    simp only [hkind] at hu
    obtain ⟨hv, humem, husram, -⟩ := hu
    exact ⟨husram.trans (hput _).2, hv, humem.trans (hput _).1⟩
/-- The answer's line is all that an access of a die leaves beside. -/
theorem performPhys_home {home leaf : Nat} (h : performPhys s w q seq pa home leaf = .done u v po r) :
    ∃ t, performHome s w q seq pa = .done t v po r ∧ Lined t u := by
  unfold performPhys at h
  split at h
  next t x po' r' hhome => cases h; exact ⟨t, hhome, useLine_lined ..⟩
  next hother => exact absurd h (hother u v po r)

end

/-! ### An access to scratchpad at its core (R175) -/

theorem get_writeLocs_ne {m : Memory} (h : Memory.wf m = true) {l : List Nat} (v : Nat) {i : Nat} (hi : i ∉ l) :
    Memory.get (writeLocs m l v) i = Memory.get m i := by
  induction l generalizing m v with
  | nil => rfl
  | cons a t ih =>
    obtain ⟨hne, hrest⟩ := List.ne_and_not_mem_of_not_mem_cons hi
    exact (ih (Memory.wf_set h _ _) _ hrest).trans ((Memory.get_set h _ _ _).trans (if_neg hne))
/-- Places without repeats read back the low bytes that were written. -/
theorem readLocs_writeLocs {m : Memory} (h : Memory.wf m = true) {l : List Nat} (hl : l.Nodup) (v : Nat) :
    readLocs (writeLocs m l v) l = v % 256 ^ l.length := by
  induction l generalizing m v with
  | nil => simp [readLocs, Nat.mod_one]
  | cons a t ih =>
    obtain ⟨hnot, hrest⟩ := List.nodup_cons.mp hl
    simp only [readLocs, writeLocs]
    rw [get_writeLocs_ne (Memory.wf_set h _ _) _ hnot, Memory.get_set h, if_pos rfl, ih (Memory.wf_set h _ _) hrest, BitVec.toNat_ofNat,
      List.length_cons, show 256 ^ (t.length + 1) = 256 * 256 ^ t.length from Nat.pow_succ', Nat.mod_mul]

section
variable {s u : State} {w : Who} {q : Access} {seq v : Nat} {po r : Bool}

theorem performScratch_asked (h : performScratch s w q seq = .done u v po r) : Asked s u := performOn_asked h fun _ _ => .of_eq rfl rfl

theorem performScratch_spec (h : performScratch s w q seq = .done u v po r) : u.mem = s.mem ∧ match q.kind with
    | .load => v = readLocs s.sram q.locs ∧ u.sram = s.sram
    | .store => u.sram = writeLocs s.sram q.locs q.data
    | .rmw => v = readLocs s.sram q.locs ∧
        u.sram = writeLocs s.sram q.locs (atomicNew q.op (8 * q.bytes) (readLocs s.sram q.locs) q.data q.cmp) := by
  obtain ⟨t, ⟨hmem, hsram, -⟩, hu⟩ := performOn_spec h
  cases hkind : q.kind with
  | load =>
    simp only [hkind] at hu
    obtain ⟨hv, humem, husram, -⟩ := hu
    exact ⟨humem.trans hmem, hv, husram.trans hsram⟩
  | store =>
    simp only [hkind] at hu
    obtain ⟨humem, husram, -⟩ := hu
    exact ⟨humem.trans hmem, husram.trans (congrArg (writeLocs · q.locs _) hsram)⟩
  | rmw =>
    simp only [hkind] at hu
    obtain ⟨hv, humem, husram, -⟩ := hu
    exact ⟨humem.trans hmem, hv, husram.trans (congrArg (writeLocs · q.locs _) hsram)⟩

end

/-- Settles O37: a load leaves both memories, and what a store or an atomic writes stands at the bytes it names, and there alone. -/
theorem accessPerformed : Obligations.AccessPerformed := by
  unfold Obligations.AccessPerformed
  refine ⟨fun s w q seq pa home leaf u v po r hphys hpa hok => ?_, fun s w q seq u v po r hscratch hnodup hok => ?_⟩
  · obtain ⟨t, hhome, hlined⟩ := performPhys_home hphys
    obtain ⟨humem, husram, -⟩ := hlined.judged
    obtain ⟨hsram, hkind⟩ := performHome_memory hhome hpa
    have hwrote (n : Nat) (h : t.mem = writeN s.mem pa n q.bytes) : readN u.mem pa q.bytes = n % 256 ^ q.bytes := by
      rw [humem, h, readN_writeN hok.1, pow_bytes]
    have hrest (n : Nat) (h : t.mem = writeN s.mem pa n q.bytes) (hnot : q.kind ≠ .load) :
        MemBut s u fun a => q.kind ≠ .load ∧ pa ≤ a ∧ a < pa + q.bytes := fun _ a ha => by
      rw [humem, h, Memory.get_writeN_ne hok.1]
      by_contra hin
      exact ha ⟨hnot, by omega, by omega⟩
    cases hk : q.kind with
    | load =>
      simp only [hk] at hkind ⊢
      exact ⟨fun _ a _ => by rw [humem, hkind.2], husram.trans hsram, fun _ => hkind.1, nofun, nofun⟩
    | store =>
      simp only [hk] at hkind hrest ⊢
      exact ⟨hrest _ hkind (by simp), husram.trans hsram, nofun, fun _ => hwrote _ hkind, nofun⟩
    | rmw =>
      simp only [hk] at hkind hrest ⊢
      exact ⟨hrest _ hkind.2 (by simp), husram.trans hsram, nofun, nofun, fun _ => ⟨hkind.1, hwrote _ hkind.2⟩⟩
  · obtain ⟨hmem, hkind⟩ := performScratch_spec hscratch
    have hwrote (n : Nat) (h : u.sram = writeLocs s.sram q.locs n) : readLocs u.sram q.locs = n % 256 ^ q.locs.length := by
      rw [h, readLocs_writeLocs hok.2 hnodup]
    have hrest (n : Nat) (h : u.sram = writeLocs s.sram q.locs n) (hnot : q.kind ≠ .load) :
        SramBut s u fun a => q.kind ≠ .load ∧ a ∈ q.locs := fun _ a ha => by
      rw [h, get_writeLocs_ne hok.2]
      exact fun hin => ha ⟨hnot, hin⟩
    cases hk : q.kind with
    | load =>
      simp only [hk] at hkind ⊢
      exact ⟨fun _ a _ => by rw [hkind.2], hmem, fun _ => hkind.1, nofun, nofun⟩
    | store =>
      simp only [hk] at hkind hrest ⊢
      exact ⟨hrest _ hkind (by simp), hmem, nofun, fun _ => hwrote _ hkind, nofun⟩
    | rmw =>
      simp only [hk] at hkind hrest ⊢
      exact ⟨hrest _ hkind.2 (by simp), hmem, nofun, nofun, fun _ => ⟨hkind.1, hwrote _ hkind.2⟩⟩

end Sys2Proof.Machine
end

section
/-!
PROOF. Requests on their way and at their homes (R190, R191, R193, R240, R310, R362, R364, R371).
-/
namespace Sys2Proof.Machine

/-! ### One request among the others -/

section
variable {s : State} {id : Nat} {r q : Req}

theorem id_of_req? (h : req? s id = some r) : r.id = id := by simpa using List.find?_some h
/-- A request that is put in the place of one with its number is found there. -/
theorem req?_putReq (h : req? s q.id = some r) : req? (putReq s q) q.id = some q := by
  unfold req? putReq at *
  dsimp only
  generalize s.reqs = l at h
  induction l with
  | nil => cases h
  | cons x t ih =>
    rw [List.find?_cons] at h
    rw [List.map_cons, List.find?_cons]
    by_cases hx : x.id == q.id
    · simp only [hx, if_true, beq_self_eq_true]
    · simp only [hx, if_false, Bool.false_eq_true] at h ⊢
      exact ih h

end

/-! ### What a result means for its request (R190, R195) -/

/-- A code that an engine records for its task changes clusters and saved tasks only. -/
theorem noteTask_eq (s : State) (key uid code : Nat) : ∃ cl cx, noteTask s key uid code = { s with clusters := cl, ctxs := cx } := by
  unfold noteTask
  split
  · exact ⟨_, s.ctxs, rfl⟩
  · exact ⟨s.clusters, _, rfl⟩
/-- A request that has been performed keeps the value that it gave. -/
theorem conclude_done (s : State) {r q : Req} {w : State} {v : Nat} {po race : Bool} (hq : req? w r.id = some q) : ∃ cl cx,
    conclude s r (.done w v po race) =
      putReq { w with clusters := cl, ctxs := cx } { q with stage := .performed, result := v, poison := po && returns r, fill := r.fill } := by
  have hnoted : ∃ cl cx, (if race && r.acc.eng then noteTask w r.who.key r.who.uid 0x22 else w) = { w with clusters := cl, ctxs := cx } := by
    split
    · exact noteTask_eq ..
    · exact ⟨w.clusters, w.ctxs, rfl⟩
  obtain ⟨cl, cx, e⟩ := hnoted
  refine ⟨cl, cx, ?_⟩
  have hq' : req? { w with clusters := cl, ctxs := cx } r.id = some q := hq
  unfold conclude
  simp only [e, hq']
  rfl
theorem conclude_absent (s : State) {r : Req} (h : returns r = true) (home : Nat) :
    conclude s r (.absent home) = putReq s { r with fill := none, stage := .performed, fault := some .pageFaultLoad } := if_pos h

/-- What the statement asks of a request that has been performed in a state `u`, with value `v`. -/
def Performed (r : Req) (u : State) (v : Nat) (po : Bool) (t : State) : Prop :=
  t.mem = u.mem ∧ t.sram = u.sram ∧ t.tags = u.tags ∧ t.poison = u.poison ∧ t.agenda = u.agenda ∧
  ∃ q, req? t r.id = some q ∧ q.stage = .performed ∧ q.result = v ∧ q.poison = (po && returns r) ∧ q.acc = r.acc ∧ q.fault = r.fault

/-- Neither what is on the fabric nor who looks again matters to it. -/
theorem Performed.looked {r : Req} {u t : State} {v : Nat} {po : Bool} (h : Performed r u v po t) (fb : List Packet) (w : Agent → Wait)
    (tr : List Trig) : Performed r u v po ({ t with fabric := fb }.looked w tr) := h

theorem conclude_performed (s : State) {u : State} {r : Req} {who : Who} {v : Nat} {po race : Bool} (hfound : req? u r.id = some { r with who := who })
    (fill : Option (Nat × Nat × Nat)) : Performed r u v po (conclude s { r with fill := fill } (.done u v po race)) := by
  obtain ⟨cl, cx, e⟩ := conclude_done s (r := { r with fill := fill }) (v := v) (po := po) (race := race) hfound
  have hput := req?_putReq (q := { r with who := who, stage := .performed, result := v, poison := po && returns r, fill := fill })
    (s := { u with clusters := cl, ctxs := cx }) hfound
  rw [e]
  exact ⟨rfl, rfl, rfl, rfl, rfl, _, hput, rfl, rfl, rfl, rfl, rfl⟩

/-! ### At its home (R310) -/

section
variable {s u w : State} {r : Req} {home pa h leaf v : Nat} {po x : Bool}

theorem Marked.req? {s u : State} (h : Marked s u) (id : Nat) : Machine.req? u id = Machine.req? s id := by obtain ⟨m, b, rfl⟩ := h; rfl
theorem atHome_performs (hrefused : returns r = true ∨ alreadyRefused s r home = false)
    (hloc : locate s r.who.place r.who.tasid r.acc.addr.toNat r.acc.need r.acc.bytes = .at_ pa h leaf u)
    (hsig : r.acc.sig = true → paPkg pa < 240) (hserved : servedAt s home pa = true) (hinval : mustInvalidate s r pa = [])
    (hdone : performHome u r.who r.acc r.seq pa = .done w v po x) :
    atHome s r home = conclude s { r with fill := some (pa, home, leaf) } (.done w v po x) := by
  have hrefused' : (alreadyRefused s r home && !returns r) = false := by rcases hrefused with e | e <;> simp [e]
  have hsig' : (r.acc.sig && decide (240 ≤ paPkg pa)) = false := by
    cases hs : r.acc.sig with
    | false => rfl
    | true => simpa using hsig hs
  have hinval' : mustInvalidate s { r with fill := some (pa, home, leaf) } pa = [] := hinval
  unfold atHome
  simp only [hrefused', hloc, hsig', hinval', hserved, hdone, ge_iff_le, Bool.false_eq_true, if_false, if_true]
  rfl
theorem atHome_absent (hret : returns r = true)
    (hloc : locate s r.who.place r.who.tasid r.acc.addr.toNat r.acc.need r.acc.bytes = .absent h) :
    atHome s r home = putReq s { r with fill := none, stage := .performed, fault := some .pageFaultLoad } := by
  unfold atHome
  simp only [hret, hloc, Bool.not_true, Bool.and_false, Bool.false_eq_true, if_false, if_true]
  exact conclude_absent s hret home
theorem atHome_logs (hret : returns r = false) (hrefused : alreadyRefused s r home = false)
    (hloc : locate s r.who.place r.who.tasid r.acc.addr.toNat r.acc.need r.acc.bytes = .absent h) (hlog : logWrite s home r.who r.acc = some u) :
    atHome s r home = putReq u { r with stage := .performed } := by
  unfold atHome
  simp only [hret, hrefused, hloc, hlog, Bool.false_and, Bool.false_eq_true, if_false]
/-- A write that enters the side log changes nothing else. -/
theorem logWrite_eq {h : Nat} {w : Who} {a : Access} (hlog : logWrite s h w a = some u) : ∃ b, u = { s with bases := b } := by
  simp only [logWrite] at hlog
  split at hlog
  · cases hlog; exact ⟨_, rfl⟩
  · cases hlog

/-- A request that does not wait at its home leaves the fabric, if it was there. -/
theorem meetHome_fabric {q : Req} (hq : req? (atHome s r home) r.id = some q) (hstage : q.stage ≠ .arrived) (p : Option Packet) :
    ∃ fb, meetHome s r home p = { atHome s r home with fabric := fb } := by
  unfold meetHome
  cases p with
  | none => exact ⟨(atHome s r home).fabric, rfl⟩
  | some p =>
    simp only [hq, Option.any_some, beq_eq_false_iff_ne.mpr hstage, Bool.false_eq_true, if_false]
    exact ⟨_, rfl⟩

end

/-! ### On its way (R362, R364, R371) -/

/-- A request may be put on the fabric. -/
def Sendable (s : State) (r : Req) (ad : Addr) : Prop :=
  packetOf s (· ≤ 2) r.id = none ∧ r.stage = .issued ∧ mayPerform s r = true ∧ sourceStopped s ad.pkg (r.acc.rx || r.who.relaxed) = false ∧
  routeOk s r.who.place ad.home = true
/-- A request has reached its home. -/
def Reached (s : State) (r : Req) (ad : Addr) : Prop :=
  (∃ p, packetOf s (· ≤ 2) r.id = some p ∧ (p.here = true ∨ (p.path.length ≤ 1 ∧ mayLeave s p = true))) ∨
  (packetOf s (· ≤ 2) r.id = none ∧ r.stage = .arrived) ∨
  (Sendable s r ad ∧ ∃ p, inject s r.who r.acc r.id ad.home = some p ∧ p.path = [])

section
variable {s : State} {id : Nat} {r : Req} {kind : AccKind} {sig : Bool} {ad : Addr} (hr : req? s id = some r) (hkind : r.acc.kind = kind)
  (hsig : r.acc.sig = sig) (hstage : r.stage = .issued ∨ r.stage = .arrived)
include hr hkind hsig hstage

theorem requestEvent_scratch (hscratch : r.acc.scratch = true) (hmay : mayPerform s r = true) :
    requestEvent kind sig id s = conclude s r (performScratch s r.who r.acc r.seq) := by
  have hmine : (r.acc.kind != kind || r.acc.sig != sig || !(r.stage == .issued || r.stage == .arrived)) = false := by
    rcases hstage with e | e <;> simp [hkind, hsig, e]
  unfold requestEvent
  simp only [hr, hmine, hscratch, hmay, Bool.false_eq_true, if_false, if_true]

variable (hscratch : r.acc.scratch = false) (hclass : classify s r.who.tasid r.acc.addr.toNat = some ad)
include hscratch hclass

/-- A request elsewhere, by what carries it. -/
theorem requestEvent_global : requestEvent kind sig id s = match packetOf s (· ≤ 2) id with
    | some p => if p.here || (p.path.length ≤ 1 && mayLeave s p) then meetHome s r ad.home (some p) else (forward s p).getD s
    | none =>
      if r.stage == .arrived then meetHome s r ad.home none
      else if !mayPerform s r || sourceStopped s ad.pkg (r.acc.rx || r.who.relaxed) then s
      else if !routeOk s r.who.place ad.home then conclude s r .prot
      else match inject s r.who r.acc id ad.home with
        | some p => if p.path.isEmpty then meetHome s r ad.home none else send s p
        | none => s := by
  have hmine : (r.acc.kind != kind || r.acc.sig != sig || !(r.stage == .issued || r.stage == .arrived)) = false := by
    rcases hstage with e | e <;> simp [hkind, hsig, e]
  unfold requestEvent
  simp only [hr, hmine, hscratch, hclass, Bool.false_eq_true, if_false]
  cases packetOf s (fun x => decide (x ≤ 2)) id <;> rfl
theorem requestEvent_reached (hreached : Reached s r ad) : ∃ p, requestEvent kind sig id s = meetHome s r ad.home p := by
  rw [requestEvent_global hr hkind hsig hstage hscratch hclass]
  have hid := id_of_req? hr
  rcases hreached with ⟨p, hp, hthere⟩ | ⟨hnone, harrived⟩ | ⟨⟨hnone, hissued, hmay, hsource, hroute⟩, p, hinject, hpath⟩
  · rw [hid] at hp
    have hthere' : (p.here || (decide (p.path.length ≤ 1) && mayLeave s p)) = true := by rcases hthere with e | ⟨e, f⟩ <;> simp [*]
    simp only [hp, hthere', if_true]
    exact ⟨_, rfl⟩
  · rw [hid] at hnone
    simp only [hnone, harrived, beq_self_eq_true, if_true]
    exact ⟨_, rfl⟩
  · rw [hid] at hnone hinject
    simp only [hnone, hissued, hmay, hsource, hroute, hinject, hpath, List.isEmpty_nil, if_true]
    exact ⟨none, rfl⟩
theorem requestEvent_sent {p : Packet} (hsend : Sendable s r ad) (hinject : inject s r.who r.acc id ad.home = some p) (hpath : p.path ≠ []) :
    requestEvent kind sig id s = send s p := by
  obtain ⟨hnone, hissued, hmay, hsource, hroute⟩ := hsend
  rw [id_of_req? hr] at hnone
  rw [requestEvent_global hr hkind hsig hstage hscratch hclass]
  have hlong : p.path.isEmpty = false := by simpa using hpath
  simp only [hnone, hissued, hmay, hsource, hroute, hinject, hlong]
  rfl
theorem requestEvent_forwards {p : Packet} (hp : packetOf s (· ≤ 2) id = some p) (hhere : p.here = false) (hpath : 1 < p.path.length) :
    requestEvent kind sig id s = (forward s p).getD s := by
  rw [requestEvent_global hr hkind hsig hstage hscratch hclass]
  simp only [hp, hhere, Nat.not_le.mpr hpath, decide_false, Bool.false_and, Bool.or_false, Bool.false_eq_true, if_false]

end

section
variable {e : Nat → Instr} {kind : AccKind} {sig : Bool} (he : ∀ id s, exec (e id) s = event (requestEvent kind sig id) s) {s : State} {id : Nat}
  {r : Req} (hr : req? s id = some r) (hkind : r.acc.kind = kind) (hsig : r.acc.sig = sig) (hstage : r.stage = .issued ∨ r.stage = .arrived)
include he hr hkind hsig hstage

/-- A scratchpad access is performed at its core (R175). -/
theorem request_scratch (hscratch : r.acc.scratch = true) (hmay : mayPerform s r = true) {u : State} {v : Nat} {po x : Bool}
    (hdone : performScratch s r.who r.acc r.seq = .done u v po x) : Happens (exec (e id) s) (Performed r u v po) := by
  rw [he]
  refine Happens.of_event fun w tr => ?_
  have hr' : req? s r.id = some r := by rw [id_of_req? hr, hr]
  obtain ⟨who, hfound⟩ := (performScratch_asked hdone).req? hr'
  rw [requestEvent_scratch hr hkind hsig hstage hscratch hmay, hdone]
  exact (conclude_performed s hfound r.fill).looked _ w tr

variable (hscratch : r.acc.scratch = false) {ad : Addr} (hclass : classify s r.who.tasid r.acc.addr.toNat = some ad) (hreached : Reached s r ad)
include hscratch hclass hreached

/-- A request that has reached its home, where its data stand, is performed there. -/
theorem request_performed {pa h leaf v : Nat} {u w : State} {po x : Bool}
    (hloc : locate s r.who.place r.who.tasid r.acc.addr.toNat r.acc.need r.acc.bytes = .at_ pa h leaf u) (hmem : sig = true → paPkg pa < 240)
    (hserved : servedAt s ad.home pa = true) (hinval : mustInvalidate s r pa = []) (hrefused : returns r = true ∨ alreadyRefused s r ad.home = false)
    (hdone : performHome u r.who r.acc r.seq pa = .done w v po x) : Happens (exec (e id) s) (Performed r w v po) := by
  have hmarked : Marked s u := by
    have := locate_marked s r.who.place r.who.tasid r.acc.addr.toNat r.acc.need r.acc.bytes
    rwa [hloc] at this
  have hr' : req? u r.id = some r := by rw [hmarked.req?, id_of_req? hr, hr]
  obtain ⟨who, hfound⟩ := (performHome_asked hdone).req? hr'
  have hhome := atHome_performs hrefused hloc (fun hs => hmem (hsig ▸ hs)) hserved hinval hdone
  have hstands : Performed r w v po (atHome s r ad.home) := hhome ▸ conclude_performed s hfound (some (pa, ad.home, leaf))
  obtain ⟨p, hp⟩ := requestEvent_reached hr hkind hsig hstage hscratch hclass hreached
  have ⟨_, _, _, _, _, q, hq, hperformed, _⟩ := hstands
  obtain ⟨fb, hfb⟩ := meetHome_fabric hq (by simp [hperformed]) p
  rw [he]
  refine Happens.of_event fun w' tr => ?_
  rw [hp, hfb]
  exact hstands.looked fb w' tr
/-- At an absent page what returns something has met its fault (R310). -/
theorem request_absent {h : Nat} (hloc : locate s r.who.place r.who.tasid r.acc.addr.toNat r.acc.need r.acc.bytes = .absent h)
    (hret : returns r = true) : Happens (exec (e id) s) fun t =>
      t.mem = s.mem ∧ ∃ q, req? t id = some q ∧ q.stage = .performed ∧ q.fault = some .pageFaultLoad := by
  have hid := id_of_req? hr
  have hhome := atHome_absent (s := s) (home := ad.home) hret hloc
  have hput : req? (atHome s r ad.home) r.id = some { r with fill := none, stage := .performed, fault := some .pageFaultLoad } := by
    rw [hhome]
    exact req?_putReq (q := { r with fill := none, stage := .performed, fault := some .pageFaultLoad }) (by rw [hid, hr])
  obtain ⟨p, hp⟩ := requestEvent_reached hr hkind hsig hstage hscratch hclass hreached
  obtain ⟨fb, hfb⟩ := meetHome_fabric hput (by simp) p
  rw [he]
  refine Happens.of_event fun w tr => ?_
  rw [hp, hfb]
  have hmem : (atHome s r ad.home).mem = s.mem := by rw [hhome]; rfl
  exact ⟨hmem, _, hid ▸ hput, rfl, rfl⟩
/-- A write to an absent page has entered the home's side log (R310, R313). -/
theorem request_logged {h : Nat} {u : State} (hloc : locate s r.who.place r.who.tasid r.acc.addr.toNat r.acc.need r.acc.bytes = .absent h)
    (hret : returns r = false) (hrefused : alreadyRefused s r ad.home = false) (hlog : logWrite s ad.home r.who r.acc = some u) :
    Happens (exec (e id) s) fun t => t.mem = s.mem ∧ t.bases = u.bases ∧ ∃ q, req? t id = some q ∧ q.stage = .performed := by
  have hid := id_of_req? hr
  have hhome := atHome_logs hret hrefused hloc hlog
  obtain ⟨b, hu⟩ := logWrite_eq hlog
  have hput : req? (atHome s r ad.home) r.id = some { r with stage := .performed } := by
    rw [hhome]
    exact req?_putReq (q := { r with stage := .performed }) (r := r) (by rw [hu, hid]; exact hr)
  obtain ⟨p, hp⟩ := requestEvent_reached hr hkind hsig hstage hscratch hclass hreached
  obtain ⟨fb, hfb⟩ := meetHome_fabric hput (by simp) p
  rw [he]
  refine Happens.of_event fun w tr => ?_
  rw [hp, hfb]
  have hmem : (atHome s r ad.home).mem = s.mem := by rw [hhome, hu]; rfl
  have hbases : (atHome s r ad.home).bases = u.bases := by rw [hhome]; rfl
  exact ⟨hmem, hbases, _, hid ▸ hput, rfl⟩

end

end Sys2Proof.Machine
end

section
/-!
PROOF. Messages under way and what each does at its goal (R190, R213, R317, R370, R375).
-/
namespace Sys2Proof.Machine

/-! ### Packets on the fabric change nothing else -/

/-- A state with other packets on the fabric. -/
def Moved (s u : State) : Prop := ∃ fb, u = { s with fabric := fb }

section
variable {s u v : State} {kind id : Nat} {msg : Packet} {f : State → State}

theorem Moved.markers (h : Moved s u) : u.markers = s.markers := by obtain ⟨fb, rfl⟩ := h; rfl
theorem Moved.invals (h : Moved s u) : u.invals = s.invals := by obtain ⟨fb, rfl⟩ := h; rfl
theorem Moved.req? (h : Moved s u) (id : Nat) : Machine.req? u id = Machine.req? s id := by obtain ⟨fb, rfl⟩ := h; rfl
theorem send_moved (s : State) (q : Packet) : Moved s (send s q) := by
  unfold send
  split
  · exact ⟨s.fabric, rfl⟩
  · split
    · split <;> exact ⟨_, rfl⟩
    · exact ⟨_, rfl⟩
theorem Delivered.moved (h : Delivered s kind id msg v) : Moved s v := by
  rcases h with ⟨-, -, rfl⟩ | ⟨p, -, -, -, rfl⟩
  · exact ⟨v.fabric, rfl⟩
  · exact ⟨_, rfl⟩

/-- What a message that reaches its goal does there. -/
theorem travel_delivered (h : Delivered s kind id msg v) (f : State → State) : travel s kind id msg f = f v := by
  unfold travel
  rcases h with ⟨hnone, hpath, rfl⟩ | ⟨p, hp, hlast, hleave, rfl⟩
  · simp only [hnone, hpath, List.isEmpty_nil, if_true]
  · simp only [hp, nearer, hlast, hleave, if_true]
/-- An event that takes a message on its way. -/
theorem Enters.crosses {out : Out} (h : Enters out (travel s kind id msg f)) : Crosses s kind id msg out := by
  refine ⟨fun hnone hpath => ?_, fun p hp hpath => ?_⟩
  · have hlong : msg.path.isEmpty = false := by simpa using hpath
    simpa only [travel, hnone, hlong, Bool.false_eq_true, if_false] using h
  · simpa only [travel, hp, nearer, Nat.not_le.mpr hpath, if_false] using h
/-- An event that brings a message to its goal. -/
theorem Enters.delivered {out : Out} (h : Enters out (travel s kind id msg f)) (hv : Delivered s kind id msg v) : Enters out (f v) :=
  travel_delivered hv f ▸ h
theorem Enters.happens {out : Out} {P : State → Prop} (h : Enters out u) (hP : ∀ w tr, P (u.looked w tr)) : Happens out P := by
  obtain ⟨w, tr, e⟩ := after_looked u
  exact ⟨_, h, e ▸ hP w tr⟩

end

/-! ### Answers and acknowledgements (R190, R213) -/

section
variable {s : State} {id : Nat} {r : Req}

theorem fillAnswered_lined (s : State) (r : Req) : Lined s (fillAnswered s r) := by
  unfold fillAnswered
  split
  · exact useLine_lined ..
  · exact .refl s

/-- A request's answer has come to its die: other requests stand in `l`, and the line has been used. -/
theorem answered_happens {v u : State} {l : List Req} (hv : Moved s v) (hu : Lined { v with reqs := l } u) (w : Agent → Wait) (tr : List Trig) :
    Only [.reqs, .lines, .free, .fabric, .trigs] s (u.looked w tr) ∧ Others [] s (u.looked w tr) ∧ (u.looked w tr).fabric = v.fabric ∧
      (u.looked w tr).reqs = l := by
  obtain ⟨fb, rfl⟩ := hv
  obtain ⟨ln, p, n, rfl⟩ := hu
  refine ⟨fun q hq => ?_, Others.looked_of rfl w tr, rfl, rfl⟩
  cases q <;> simp_all [Same, State.looked, group?, ctx?]

/-- RESP of a request that has been performed is its response's way. -/
theorem resp_goes (hr : req? s id = some r) (hstage : r.stage = .performed) (hret : returns r = true) (hglobal : r.acc.scratch = false) :
    Enters (exec (.resp id) s) (travel s FlitKind.resp id (respPacket s r (homeOf s r) true) fun s =>
      fillAnswered (putReq s { r with stage := .returned }) r) := by
  change Enters (execResp id s) _
  unfold execResp
  refine Enters.of_eq ?_
  simp only [hr, hstage, hret, hglobal]
  rfl
theorem resp_delivered (hr : req? s id = some r) (hstage : r.stage = .performed) (hret : returns r = true) (hglobal : r.acc.scratch = false) {v : State}
    (hv : Delivered s FlitKind.resp id (respPacket s r (homeOf s r) true) v) : Happens (exec (.resp id) s) fun u =>
      Only [.reqs, .lines, .free, .fabric, .trigs] s u ∧ Others [] s u ∧ u.fabric = v.fabric ∧
      u.reqs = s.reqs.map fun q => if q.id = id then { r with stage := .returned } else q := by
  refine ((resp_goes hr hstage hret hglobal).delivered hv).happens fun w tr => ?_
  have hreqs : putReq v { r with stage := .returned } = { v with reqs := s.reqs.map fun q => if q.id = id then { r with stage := .returned } else q } := by
    obtain ⟨fb, rfl⟩ := hv.moved
    simp only [putReq, id_of_req? hr, beq_iff_eq]
  exact answered_happens hv.moved (hreqs ▸ fillAnswered_lined ..) w tr

/-- ACK of a scratchpad store takes it away at once. -/
theorem ack_scratch (hr : req? s id = some r) (hstage : r.stage = .performed) (hret : returns r = false) (hscratch : r.acc.scratch = true) :
    Enters (exec (.ack id) s) { s with reqs := s.reqs.filter (·.id != id) } := by
  change Enters (execAck id s) _
  unfold execAck
  refine Enters.of_eq ?_
  simp only [hr, hstage, hret, hscratch]
  rfl
/-- ACK of any other store is its acknowledgement's way. -/
theorem ack_goes (hr : req? s id = some r) (hstage : r.stage = .performed) (hret : returns r = false) (hglobal : r.acc.scratch = false) :
    Enters (exec (.ack id) s) (travel s FlitKind.ack id (respPacket s r (homeOf s r) false) fun s => fillAnswered (dropReq s id) r) := by
  change Enters (execAck id s) _
  unfold execAck
  refine Enters.of_eq ?_
  simp only [hr, hstage, hret, hglobal]
  rfl
theorem ack_delivered (hr : req? s id = some r) (hstage : r.stage = .performed) (hret : returns r = false) (hglobal : r.acc.scratch = false) {v : State}
    (hv : Delivered s FlitKind.ack id (respPacket s r (homeOf s r) false) v) : Happens (exec (.ack id) s) fun u =>
      Only [.reqs, .lines, .free, .fabric, .trigs] s u ∧ Others [] s u ∧ u.fabric = v.fabric ∧ u.reqs = s.reqs.filter (·.id != id) := by
  refine ((ack_goes hr hstage hret hglobal).delivered hv).happens fun w tr => ?_
  have hreqs : dropReq v id = { v with reqs := s.reqs.filter (·.id != id) } := by
    obtain ⟨fb, rfl⟩ := hv.moved
    rfl
  exact answered_happens hv.moved (hreqs ▸ fillAnswered_lined ..) w tr

end

/-! ### Marker fences (R375) -/

/-- The copies of a marker that are on the fabric. -/
def copiesOf (s : State) (id : Nat) : List Packet := s.fabric.filter fun p => p.kind == FlitKind.marker && p.mail.any (·.2 == id)

section
variable {s : State} {id : Nat} {m : Marker} (hm : s.markers.find? (·.id == id) = some m)
include hm

/-- MARKER of a marker is a step of it. -/
theorem enters_marker {t : State} (h : markerStep s m = t) : Enters (exec (.marker id) s) t := by
  change Enters (execMarker id s) _
  unfold execMarker
  exact Enters.of_eq (by simp only [hm, h])
theorem id_of_marker : m.id = id := by simpa using List.find?_some hm

theorem marker_arrives {p : Packet} {t : List Packet} (hcopies : copiesOf s id = p :: t) (hlast : p.path.length ≤ 1) (hleave : mayLeave s p = true) :
    Enters (exec (.marker id) s) { takeOff s p id with
      markers := s.markers.map fun x => if x.id = id then { x with arrived := x.arrived + 1 } else x } := by
  obtain rfl := id_of_marker hm
  unfold copiesOf at hcopies
  refine enters_marker hm ?_
  unfold markerStep
  simp only [hcopies, List.findSome?_cons, gt_iff_lt, Nat.not_lt.mpr hlast, hleave, if_false, if_true, beq_iff_eq]
  rfl
theorem marker_crosses {p : Packet} {t : List Packet} {u : State} (hcopies : copiesOf s id = p :: t) (hpath : 1 < p.path.length)
    (hforward : forward s p = some u) : Enters (exec (.marker id) s) u := by
  obtain rfl := id_of_marker hm
  unfold copiesOf at hcopies
  refine enters_marker hm ?_
  unfold markerStep
  simp only [hcopies, List.findSome?_cons, gt_iff_lt, hpath, hforward, if_true]
theorem marker_sent {p : Packet} {t : List Packet} (hcopies : copiesOf s id = []) (htodo : m.todo = p :: t)
    (hsource : sourceStopped s (homePkg s m.target) true = false) (hbefore : relaxedBefore s m = false) (hroom : roomAt s p = true) :
    Enters (exec (.marker id) s) { send s p with markers := s.markers.map fun x => if x.id = id then { x with todo := t } else x } := by
  obtain rfl := id_of_marker hm
  unfold copiesOf at hcopies
  refine enters_marker hm ?_
  unfold markerStep
  simp only [hcopies, List.findSome?_nil, htodo, hsource, hbefore, hroom, (send_moved s p).markers, beq_iff_eq]
  rfl

end

section
variable {s : State} {id : Nat} {m : Marker}

/-- MARKERACK of a marker whose copies have all arrived is its acknowledgement's way. -/
theorem markerack_goes (hm : (s.markers.find? fun m => m.id == id && m.count ≤ m.arrived) = some m) :
    Enters (exec (.markerack id) s)
      (travel s FlitKind.markerack id (markerackPacket s m) fun s => { s with markers := s.markers.filter (·.id != id) }) := by
  change Enters (execMarkerack id s) _
  unfold execMarkerack
  exact Enters.of_eq (by simp only [hm])
theorem markerack_delivered (hm : (s.markers.find? fun m => m.id == id && m.count ≤ m.arrived) = some m) {v : State}
    (hv : Delivered s FlitKind.markerack id (markerackPacket s m) v) :
    Enters (exec (.markerack id) s) { v with markers := s.markers.filter (·.id != id) } :=
  hv.moved.markers ▸ (markerack_goes hm).delivered hv

end

/-! ### Invalidations (R317) -/

section
variable {s : State} {id : Nat} {i : Inval}

/-- INVAL of an invalidation that has not been acknowledged is its way to the die. -/
theorem inval_goes (hi : (s.invals.find? fun i => i.id == id && !i.acked) = some i) :
    Enters (exec (.inval id) s) (travel s FlitKind.inval id (invalPacket s i false) fun s =>
      { dropLines s (fun l => l.die == i.die && l.asid == i.asid && l.va == i.va) with
        invals := s.invals.map fun x => if x.id == id then { x with acked := true } else x }) := by
  change Enters (execInval id s) _
  unfold execInval
  exact Enters.of_eq (by simp only [hi])
theorem inval_delivered (hi : (s.invals.find? fun i => i.id == id && !i.acked) = some i) {v : State}
    (hv : Delivered s FlitKind.inval id (invalPacket s i false) v) : Happens (exec (.inval id) s) fun u =>
      Only [.lines, .invals, .fabric, .trigs] s u ∧ Others [] s u ∧ u.fabric = v.fabric ∧
      (∀ l, l ∈ u.lines ↔ l ∈ s.lines ∧ ¬ (l.die = i.die ∧ l.asid = i.asid ∧ l.va = i.va)) ∧
      u.invals = s.invals.map fun x => if x.id = id then { x with acked := true } else x := by
  refine ((inval_goes hi).delivered hv).happens fun w tr => ?_
  obtain ⟨fb, rfl⟩ := hv.moved
  refine ⟨fun q hq => ?_, Others.looked_of rfl w tr, rfl, fun l => ?_, ?_⟩
  · cases q <;> simp_all [Same, State.looked, dropLines, group?, ctx?]
  · simp only [State.looked, dropLines, List.mem_filter, Bool.not_eq_true', Bool.and_eq_false_iff, beq_eq_false_iff_ne]
    tauto
  · simp only [State.looked, dropLines, beq_iff_eq]
/-- INVALACK of an invalidation that has been acknowledged is its way back. -/
theorem invalack_goes (hi : (s.invals.find? fun i => i.id == id && i.acked) = some i) :
    Enters (exec (.invalack id) s)
      (travel s FlitKind.invalack id (invalPacket s i true) fun s => { s with invals := s.invals.filter (·.id != id) }) := by
  change Enters (execInvalack id s) _
  unfold execInvalack
  exact Enters.of_eq (by simp only [hi])
theorem invalack_delivered (hi : (s.invals.find? fun i => i.id == id && i.acked) = some i) {v : State}
    (hv : Delivered s FlitKind.invalack id (invalPacket s i true) v) :
    Enters (exec (.invalack id) s) { v with invals := s.invals.filter (·.id != id) } :=
  hv.moved.invals ▸ (invalack_goes hi).delivered hv

end

/-! ### Forwarded requests (R370) -/

section
variable {s : State} {id pa : Nat} {r : Req}

/-- A forwarded request that has been performed where its data lie. -/
theorem forwarded_performed {v t : State} {x : Nat} {po y : Bool} (hr : req? v r.id = some r)
    (hdone : performHome (deviceUse v r.who.tasid r.acc.addr.toNat (r.acc.kind != .load)) r.who r.acc r.seq pa = .done t x po y) :
    Performed r t x po (conclude v r (.done t x po y)) ∧ (conclude v r (.done t x po y)).fabric = v.fabric := by
  have hmarked := deviceUse_marked v r.who.tasid r.acc.addr.toNat (r.acc.kind != .load)
  have hasked := performHome_asked hdone
  obtain ⟨who, hfound⟩ := hasked.req? ((hmarked.req? r.id).trans hr)
  obtain ⟨cl, cx, e⟩ := conclude_done v (v := x) (po := po) (race := y) hfound
  have hfabric : t.fabric = v.fabric := hasked.1.trans (by obtain ⟨m, b, hb⟩ := hmarked; rw [hb])
  exact ⟨conclude_performed v hfound r.fill, by rw [e]; exact hfabric⟩

/-- What FWD does where the data lie: it performs the request, which has its answer then. -/
def performForwarded (s : State) (r : Req) (id pa : Nat) : State :=
  let u := conclude s r ((performHome (deviceUse s r.who.tasid r.acc.addr.toNat (r.acc.kind != .load)) r.who r.acc r.seq pa).undo s)
  match req? u id with
  | some q => putReq u { q with stage := .answered }
  | none => u
/-- FWD of a forwarded request is its way to where its data lie. -/
theorem fwd_goes (hr : req? s id = some r) (hstage : r.stage = .forwarded) (hpa : r.pa = some pa) :
    Enters (exec (.fwd id) s) (travel s FlitKind.fwd id (fwdPacket s r (homeOf s r) pa) fun s => performForwarded s r id pa) := by
  change Enters (execFwd id s) _
  unfold execFwd
  refine Enters.of_eq ?_
  simp only [hr, hstage, hpa]
  rfl
theorem fwd_delivered (hr : req? s id = some r) (hstage : r.stage = .forwarded) (hpa : r.pa = some pa) {v t : State} {x : Nat} {po y : Bool}
    (hv : Delivered s FlitKind.fwd id (fwdPacket s r (homeOf s r) pa) v)
    (hdone : performHome (deviceUse v r.who.tasid r.acc.addr.toNat (r.acc.kind != .load)) r.who r.acc r.seq pa = .done t x po y) :
    Happens (exec (.fwd id) s) fun u => u.mem = t.mem ∧ u.poison = t.poison ∧ u.tags = t.tags ∧ u.fabric = v.fabric ∧
      ∃ q, req? u id = some q ∧ q.stage = .answered ∧ q.result = x ∧ q.poison = (po && returns r) ∧ q.acc = r.acc := by
  refine ((fwd_goes hr hstage hpa).delivered hv).happens fun w tr => ?_
  obtain rfl := id_of_req? hr
  obtain ⟨⟨hmem, -, htags, hpoison, -, q, hq, -, hresult, hbad, hacc, -⟩, hfabric⟩ := forwarded_performed ((hv.moved.req? r.id).trans hr) hdone
  have hid := id_of_req? hq
  have hput := req?_putReq (q := { q with stage := .answered }) (hid.symm ▸ hq)
  simp only [performForwarded, hdone, Res.undo, hq]
  exact ⟨hmem, hpoison, htags, hfabric, { q with stage := .answered }, by rw [← hid]; exact hput, rfl, hresult, hbad, hacc⟩
/-- FWDANS of a request that has been answered is its answer's way home. -/
theorem fwdans_goes (hr : req? s id = some r) (hstage : r.stage = .answered) (hpa : r.pa = some pa) :
    Enters (exec (.fwdans id) s)
      (travel s FlitKind.fwdans id (answerPacket s r (homeOf s r) pa) fun s => putReq s { r with stage := .performed }) := by
  change Enters (execFwdans id s) _
  unfold execFwdans
  exact Enters.of_eq (by simp only [hr, hstage, hpa])
theorem fwdans_delivered (hr : req? s id = some r) (hstage : r.stage = .answered) (hpa : r.pa = some pa) {v : State}
    (hv : Delivered s FlitKind.fwdans id (answerPacket s r (homeOf s r) pa) v) : Happens (exec (.fwdans id) s) fun u =>
      Only [.reqs, .fabric, .trigs] s u ∧ Others [] s u ∧ u.fabric = v.fabric ∧
      ∃ q, req? u id = some q ∧ q.stage = .performed ∧ q.result = r.result ∧ q.poison = r.poison ∧ q.fault = r.fault ∧ q.acc = r.acc := by
  refine ((fwdans_goes hr hstage hpa).delivered hv).happens fun w tr => ?_
  obtain rfl := id_of_req? hr
  have hput := req?_putReq (q := { r with stage := .performed }) ((hv.moved.req? r.id).trans hr)
  obtain ⟨fb, rfl⟩ := hv.moved
  refine ⟨fun q hq => ?_, Others.looked_of rfl w tr, rfl, _, hput, rfl, rfl, rfl, rfl, rfl⟩
  cases q <;> simp_all [Same, State.looked, putReq, group?, ctx?]

end

/-! ### The statement -/

/-- Settles O38: a request that has reached its home is performed by what performs its access, and a message does at its goal, where its way ends,
what its kind says. -/
theorem requestsPerformed : Obligations.RequestsPerformed := by
  unfold Obligations.RequestsPerformed
  refine ⟨?_, fun s id r hr hstage hret hglobal => ?_, fun s id r => ack_scratch, fun s id r hr hstage hret hglobal => ?_, fun s id m hm => ?_,
    fun s id m hm => ?_, fun s id i hi => ?_, fun s id i hi => ?_, fun s id r pa hr hstage hpa => ?_, fun s id r pa hr hstage hpa => ?_⟩
  · intro after onWay due there performs
    have hperforms (e : Nat → Instr) (kind : AccKind) (sig : Bool) (he : ∀ id s, exec (e id) s = event (requestEvent kind sig id) s) :
        performs e kind sig := by
      intro s id r hr hkind hsig hstage
      refine ⟨fun hscratch hmay u v po x => request_scratch he hr hkind hsig hstage hscratch hmay, fun hscratch ad hclass => ⟨fun hthere => ⟨?_, ?_, ?_⟩, ?_, ?_⟩⟩
      · intro pa h leaf u v po x w hloc hmem hserved hinval hrefused hdone
        exact request_performed he hr hkind hsig hstage hscratch hclass hthere hloc hmem hserved hinval hrefused hdone
      · exact fun h hloc hret => request_absent he hr hkind hsig hstage hscratch hclass hthere hloc hret
      · exact fun h u hloc hret hrefused hlog => request_logged he hr hkind hsig hstage hscratch hclass hthere hloc hret hrefused hlog
      · intro p hdue hinject hpath
        rw [he]
        exact Enters.of_eq (requestEvent_sent hr hkind hsig hstage hscratch hclass hdue hinject hpath)
      · intro p hp hhere hpath
        rw [he]
        exact Enters.of_eq (requestEvent_forwards hr hkind hsig hstage hscratch hclass hp hhere hpath)
    exact ⟨hperforms .read .load false fun _ _ => rfl, hperforms .write .store false fun _ _ => rfl, hperforms .atomic .rmw false fun _ _ => rfl,
      hperforms .signalAddition .rmw true fun _ _ => rfl⟩
  · exact ⟨(resp_goes hr hstage hret hglobal).crosses, fun v => resp_delivered hr hstage hret hglobal⟩
  · exact ⟨(ack_goes hr hstage hret hglobal).crosses, fun v => ack_delivered hr hstage hret hglobal⟩
  · exact ⟨fun p t => marker_arrives hm, fun p t u => marker_crosses hm, fun p t => marker_sent hm⟩
  · exact ⟨(markerack_goes hm).crosses, fun v => markerack_delivered hm⟩
  · exact ⟨(inval_goes hi).crosses, fun v => inval_delivered hi⟩
  · exact ⟨(invalack_goes hi).crosses, fun v => invalack_delivered hi⟩
  · exact ⟨(fwd_goes hr hstage hpa).crosses, fun v t x po y => fwd_delivered hr hstage hpa⟩
  · exact ⟨(fwdans_goes hr hstage hpa).crosses, fun v => fwdans_delivered hr hstage hpa⟩

end Sys2Proof.Machine
end

section
/-!
PROOF. The group barrier (R216 to R220).
-/
namespace Sys2Proof.Machine

/-! ### The list of parties, but for one of them and for capabilities -/

section
variable {α β : Type} {m : FMap α} {k : Nat} {a : α}

/-- A map that has a key: what stands before its entry, the entry, which a write replaces, and what stands behind it. -/
theorem fget?_split (h : fget? m k = some a) : ∃ l r, m = l ++ (k, a) :: r ∧ ∀ x, fput m k x = l ++ (k, x) :: r := by
  induction m with
  | nil => cases h
  | cons p t ih =>
    obtain ⟨j, b⟩ := p
    by_cases hj : j = k
    · subst hj
      obtain rfl : b = a := by simpa [fget?] using h
      exact ⟨[], t, rfl, fun x => by simp [fput]⟩
    · by_cases hlt : k < j
      · simp [fget?, hj, hlt] at h
      · obtain ⟨l, r, hm, hput⟩ := ih (by simpa [fget?, hj, hlt] using h)
        exact ⟨(j, b) :: l, r, by rw [hm]; rfl, fun x => by simp [fput, hlt, Ne.symm hj, hput]⟩
theorem fput_fget? (h : fget? m k = some a) : fput m k a = m := by
  obtain ⟨l, r, hm, hput⟩ := fget?_split h
  rw [hput, hm]
theorem fput_map (g : α → β) (m : FMap α) (k : Nat) (x : α) :
    fput (m.map fun p => (p.1, g p.2)) k (g x) = (fput m k x).map fun p => (p.1, g p.2) := by
  induction m with
  | nil => rfl
  | cons p t ih =>
    simp only [List.map_cons, fput, ih]
    split
    · rfl
    · split <;> rfl

end

/-- The parties but for their capabilities. -/
def uncappedParties (s : State) : FMap Agent := s.agents.map fun p => (p.1, p.2.uncapped)
/-- The list of parties is the same but for party `k`, and for capabilities. -/
structure Beside (k : Nat) (s u : State) : Prop where
  put : ∀ x, fput (uncappedParties u) k x = fput (uncappedParties s) k x

section
variable {s t u : State} {k g : Nat} {a b : Agent}

theorem Beside.of_eq (h : uncappedParties u = uncappedParties s) : Beside k s u := ⟨fun x => by rw [h]⟩
theorem Beside.trans (h : Beside k s t) (h' : Beside k t u) : Beside k s u := ⟨fun x => (h'.put x).trans (h.put x)⟩
theorem Beside.putAgent (s : State) (k : Nat) (a : Agent) : Beside k s (putAgent s k a) := by
  have hput : uncappedParties (Machine.putAgent s k a) = fput (uncappedParties s) k a.uncapped := (fput_map Agent.uncapped s.agents k a).symm
  exact ⟨fun x => by rw [hput, fput_fput]⟩
theorem Beside.modAgent (s : State) (k : Nat) (f : Agent → Agent) : Beside k s (modAgent s k f) := by
  unfold Machine.modAgent
  split
  · exact .putAgent ..
  · exact .of_eq rfl
theorem Beside.updateCaps (s : State) (k : Nat) (p : Rec → Bool) (f : Cap → Cap) : Beside k s (updateCaps s p f) :=
  .of_eq ((List.map_map ..).trans (List.map_congr_left fun _ _ => rfl))
theorem Beside.queueRec (s : State) (k : Nat) (r : Rec) : Beside k s (queueRec s r) := by
  unfold Machine.queueRec Machine.modCtx
  split <;> exact .of_eq rfl
theorem Beside.countIssue (s : State) (k : Nat) (a : Agent) : Beside k s (countIssue s a) := by
  unfold Machine.countIssue
  split
  · exact .of_eq rfl
  · split <;> exact .of_eq rfl

/-- The other parties stand in the list where they stood. -/
theorem Beside.split (h : Beside k s u) (hs : agent? s k = some a) (hu : agent? u k = some b) : ∃ l r,
    uncappedParties s = l ++ (k, a.uncapped) :: r ∧ uncappedParties u = l ++ (k, b.uncapped) :: r := by
  have hread (v : State) : fget? (uncappedParties v) k = (agent? v k).map Agent.uncapped := fget?_map (fun _ (a : Agent) => a.uncapped) v.agents k
  obtain ⟨l, r, hsplit, hput⟩ := fget?_split ((hread s).trans (congrArg (Option.map _) hs))
  exact ⟨l, r, hsplit, by rw [← hput, ← h.put, fput_fget? ((hread u).trans (congrArg (Option.map _) hu))]⟩
theorem Beside.mem {j : Nat} {n : Agent} (h : Beside k s u) (hs : agent? s k = some a) (hu : agent? u k = some b) (hj : j ≠ k)
    (hn : (j, n) ∈ s.agents) : ∃ n', (j, n') ∈ u.agents ∧ n'.uncapped = n.uncapped := by
  obtain ⟨l, r, hl, hr⟩ := h.split hs hu
  have hmem : (j, n.uncapped) ∈ uncappedParties s := List.mem_map.mpr ⟨(j, n), hn, rfl⟩
  have hthere : (j, n.uncapped) ∈ uncappedParties u := by
    rw [hl] at hmem
    rw [hr]
    simpa [hj] using hmem
  obtain ⟨⟨i, n'⟩, hn', e⟩ := List.mem_map.mp hthere
  obtain rfl : i = j := congrArg (·.1) e
  exact ⟨n', hn', congrArg (·.2) e⟩
/-- An entry is of a thread of the group. -/
def inGroup (g : Nat) (p : Nat × Agent) : Bool := p.2.kind == .thread && p.2.group == g
/-- A thread alone in its group stays alone there. -/
theorem Beside.alone (h : Beside k s u) (hs : agent? s k = some a) (hu : agent? u k = some b) (halone : groupAgents s g = [(k, a)])
    (hkind : b.kind = .thread) (hgroup : b.group = g) : groupAgents u g = [(k, b)] := by
  have huncapped (v : State) : (groupAgents v g).map (fun p => (p.1, p.2.uncapped)) = (uncappedParties v).filter (inGroup g) :=
    (List.filter_map (f := fun p : Nat × Agent => (p.1, p.2.uncapped)) (p := inGroup g)).symm
  have hb : (k, b) ∈ groupAgents u g := List.mem_filter.mpr ⟨mem_of_fget? hu, by simp [hkind, hgroup]⟩
  have ha : inGroup g (k, a.uncapped) = true :=
    (List.mem_filter.mp (show (k, a) ∈ groupAgents s g by rw [halone]; exact List.mem_singleton_self _)).2
  obtain ⟨l, r, hl, hr⟩ := h.split hs hu
  have hrest : l.filter (inGroup g) = [] ∧ r.filter (inGroup g) = [] := by
    have hone := huncapped s
    rw [halone, hl, List.filter_append, List.filter_cons_of_pos ha] at hone
    have hlength := congrArg List.length hone
    simp only [List.map_cons, List.map_nil, List.length_cons, List.length_nil, List.length_append] at hlength
    exact ⟨List.length_eq_zero_iff.mp (by omega), List.length_eq_zero_iff.mp (by omega)⟩
  have hone := huncapped u
  rw [hr, List.filter_append, hrest.1, List.filter_cons_of_pos (by simp [inGroup, Agent.uncapped, hkind, hgroup]), hrest.2] at hone
  obtain ⟨p, hp, -⟩ := List.map_eq_singleton_iff.mp hone
  rw [hp] at hb ⊢
  rw [List.mem_singleton.mp hb]

/-! ### What completing and freezing leave of the list -/

theorem stepDone_beside (h : agent? s k = some a) : Beside k s (stepDone s k) ∧
    ∀ b, agent? (stepDone s k) k = some b → b.state = a.state ∨ b.state = .frozen := by
  have hstate : (agent? (stepDone s k) k).map Agent.state = some a.state ∨ (agent? (stepDone s k) k).map Agent.state = some .frozen := by
    simp only [stepDone, h]
    split
    · exact .inl (by rw [h]; rfl)
    · refine .inr ?_
      split
      · rw [agent?_updateCaps, agent?_putAgent_same]; rfl
      · rw [agent?_queueRec, agent?_putAgent_same]; rfl
  refine ⟨?_, fun b hb => ?_⟩
  · simp only [stepDone, h]
    split
    · exact .of_eq rfl
    · split
      · exact (Beside.putAgent ..).trans (.updateCaps ..)
      · exact (Beside.putAgent ..).trans (.queueRec ..)
  · rw [hb] at hstate
    exact hstate.imp Option.some.inj Option.some.inj
theorem advance_state (a : Agent) (p q : DWord) : (advance a p q).state = a.state := by
  unfold advance
  split
  · split <;> rfl
  · rfl
/-- Completing leaves the other parties in the list, and a party that has not ended has not ended after it. -/
theorem settle_next_beside (h : agent? s k = some a) (c : Agent) (len : Nat) : Beside k s (settle k c len (.next s)) ∧
    ∀ b, agent? (settle k c len (.next s)) k = some b → a.state ≠ .exited → b.state ≠ .exited := by
  have hdone : ∃ t d, settle k c len (.next s) = stepDone t k ∧ Beside k s t ∧ agent? t k = some d ∧ d.state = a.state := by
    simp only [settle]
    rw [modAgent_some h]
    generalize hmoved : ({ advance a c.pc (c.pc + BitVec.ofNat 64 len) with wait := .none, waited := 0, age := 0, urgent := false } : Agent) = moved
    have hstate : moved.state = a.state := hmoved ▸ advance_state _ _ _
    have hthere : agent? (countIssue (putAgent s k moved) c) k = some moved := (agent?_countIssue ..).trans (agent?_putAgent_same ..)
    have hbeside := (Beside.putAgent s k moved).trans (.countIssue _ k c)
    split
    · exact ⟨_, moved, rfl, hbeside, hthere, hstate⟩
    · exact ⟨_, _, rfl, hbeside.trans (.modAgent ..), (agent?_modAgent_same ..).trans (congrArg (Option.map _) hthere), hstate⟩
  obtain ⟨t, d, e, hbeside, hd, hstate⟩ := hdone
  obtain ⟨hrest, hparty⟩ := stepDone_beside hd
  rw [e]
  refine ⟨hbeside.trans hrest, fun b hb hlive hexited => ?_⟩
  rcases hparty b hb with hsame | hfrozen
  · exact hlive (hstate.symm.trans (hsame.symm.trans hexited))
  · cases hfrozen.symm.trans hexited
theorem freeze_beside (h : agent? s k = some a) (code : FCode) (i : FInfo) : Beside k s (freeze s k code i) := by
  rw [freeze_eq h]
  have hput := Beside.putAgent s k (frozenParty s k a code i)
  dsimp only
  split
  · exact hput.trans (.updateCaps ..)
  · split
    · exact hput.trans (.of_eq rfl)
    · exact hput.trans (.queueRec ..)

end

/-! ### Whether a phase is due (R217) -/

/-- A party that may arrive now: it has no pending delivery, and its earlier accesses have been performed. -/
def Ctx'.Near (c : Ctx') : Prop := c.a.pending = [] ∧ performedNear c.s c.a.uid = true
/-- A thread that may arrive, and has not. -/
def Ctx'.Open (c : Ctx') : Prop := c.Near ∧ c.a.kind = .thread ∧ c.a.bar ≠ .arrived
/-- Another live thread of the group has not arrived. -/
def Ctx'.Behind (c : Ctx') : Prop :=
  ∃ j b, j ≠ c.k ∧ (j, b) ∈ c.s.agents ∧ b.kind = .thread ∧ b.group = c.a.group ∧ b.state ≠ .exited ∧ b.bar ≠ .arrived
/-- The thread is the group's only one. -/
def Ctx'.Alone (c : Ctx') : Prop :=
  c.a.state ≠ .exited ∧ c.a.wait = .none ∧ c.s.agents.filter (fun p => p.2.kind == .thread && p.2.group == c.a.group) = [(c.k, c.a)]

section
variable {s u : State} {k g : Nat} {a b : Agent} {c : Ctx'}

theorem phaseDue_of_behind {j : Nat} {n : Agent} (hn : (j, n) ∈ s.agents) (hkind : n.kind = .thread) (hgroup : n.group = g)
    (hlive : n.state ≠ .exited) (hbar : n.bar ≠ .arrived) : phaseDue s g = false := by
  refine Bool.eq_false_iff.mpr fun hdue => ?_
  have hmem : (j, n) ∈ groupAgents s g := List.mem_filter.mpr ⟨hn, by simp [hkind, hgroup]⟩
  have harrived := List.all_eq_true.mp (Bool.and_eq_true_iff.mp hdue).2 (j, n) (List.mem_filter.mpr ⟨hmem, by simpa using hlive⟩)
  exact hbar (by simpa using harrived)
/-- While another thread is still to come, no instruction of this one makes the phase due. -/
theorem Ctx'.Behind.phaseDue (h : c.Behind) (hhere : agent? c.s c.k = some c.a) (hbeside : Beside c.k c.s u) (hb : agent? u c.k = some b) :
    phaseDue u c.a.group = false := by
  obtain ⟨j, n, hj, hn, hkind, hgroup, hlive, hbar⟩ := h
  obtain ⟨n', hn', hsame⟩ := hbeside.mem hhere hb hj hn
  exact phaseDue_of_behind hn' ((congrArg Agent.kind hsame).trans hkind) ((congrArg Agent.group hsame).trans hgroup)
    (fun e => hlive ((congrArg Agent.state hsame).symm.trans e)) (fun e => hbar ((congrArg Agent.bar hsame).symm.trans e))
theorem phaseDue_alone (h : groupAgents s g = [(k, a)]) (hlive : a.state ≠ .exited) (hbar : a.bar = .arrived) : phaseDue s g = true := by
  simp [phaseDue, h, hlive, hbar]

/-! ### A phase of one thread -/

theorem phased_arrived (hkind : a.kind = .thread) (hgroup : a.group = g) (hbar : a.bar = .arrived) (clk : Clock) :
    a.phased g clk = { a with bar := .passed, barClk := clk } :=
  if_pos (by simp [hkind, hgroup, hbar])
theorem others_phaseState (h : groupAgents s g = [(k, a)]) (clk : Clock) : Others [k] s (phaseState s g clk) :=
  .of_eq fun j hj => by
    rw [agent?_phaseState]
    cases hn : agent? s j with
    | none => rfl
    | some n =>
      have hout : (n.kind == .thread && n.group == g) = false := Bool.eq_false_iff.mpr fun hin => by
        have hmem : (j, n) ∈ groupAgents s g := List.mem_filter.mpr ⟨mem_of_fget? hn, hin⟩
        rw [h] at hmem
        exact hj (by simpa using congrArg (·.1) (List.mem_singleton.mp hmem))
      exact congrArg some (if_neg (by simp [hout]))
theorem phases_phaseState (clk : Clock) {x : Group} (h : group? s g = some x) :
    group? (phaseState s g clk) g = some { x with phases := x.phases + 1 } := by
  unfold phaseState countPhase
  split
  next y hy =>
    cases h.symm.trans hy
    exact group?_putGroup_same ..
  next hnone => cases h.symm.trans hnone
/-- A group's phases, where two states agree on the groups but for what they have issued. -/
theorem phases_of_same (h : Same s u .groups) {n : Nat} {x : Group} (hx : group? s n = some x) : ∃ y, group? u n = some y ∧ y.phases = x.phases := by
  have hread := h n
  rw [hx] at hread
  obtain ⟨y, hy, e⟩ := Option.map_eq_some_iff.mp hread
  exact ⟨y, hy, (congrArg Group.phases e :)⟩

end

/-! ### Arriving (R220) -/

/-- What a barrier leaves of a thread: its registers, predicates and flags. -/
def SameHeld (a b : Agent) : Prop := SameV a b ∧ SameX a b ∧ SameP a b ∧ b.fl = a.fl
theorem core_sameHeld {a b c : Agent} (h : b.core = c.core) (hc : SameHeld a c) : SameHeld a b := by
  obtain ⟨hv, hx, hp, hfl⟩ := hc
  exact ⟨core_sameV h hv, core_sameX h hx, core_sameP h hp, (core_fl h).trans hfl⟩
theorem SameHeld.trans {a b c : Agent} (h : SameHeld a b) (g : SameHeld b c) : SameHeld a c := by
  obtain ⟨hv, hx, ⟨hpreds, hfull, hpoison⟩, hfl⟩ := h
  obtain ⟨gv, gx, ⟨gpreds, gfull, gpoison⟩, gfl⟩ := g
  exact ⟨fun m => (gv m).trans (hv m), fun m => (gx m).trans (hx m), ⟨gpreds.trans hpreds, gfull.trans hfull, gpoison.trans hpoison⟩, gfl.trans hfl⟩
/-- A thread as it waits in an instruction for its group's phase. -/
def Agent.atBarrier (a : Agent) (o : Op) (f : FormL) (len : Nat) : Agent :=
  { a with inst := some (o, f, len), wait := .barrier, age := 0, urgent := false }

section
variable {c : Ctx'}

theorem arriving_open (h : c.Open) (g : State → Go) : arriving c g = g (c.upd Agent.arrive) := by
  obtain ⟨⟨hpending, hnear⟩, -, hbar⟩ := h
  simp [arriving, delivering, hpending, hnear, hbar]
theorem arriving_overrun (hpending : c.a.pending = []) (hbar : c.a.bar = .arrived) (g : State → Go) :
    arriving c g = .freeze c.s .barrierOverrun {} := by
  simp [arriving, delivering, hpending, hbar]
theorem bodyBarWait_waits (hpending : c.a.pending = []) (hbar : c.a.bar = .arrived) :
    bodyBarWait c = .wait (c.upd fun a => { a.endRegion with inst := some (.barWait, c.f, c.len) }) .barrier := by
  simp [bodyBarWait, delivering, hpending, hbar]
/-- A BAR.WAIT that goes on ends its thread's region, and an acquire from PASSED changes what the thread knows alone. -/
theorem bodyBarWait_passes (hpending : c.a.pending = []) (hbar : c.a.bar ≠ .arrived) : ∃ clk, bodyBarWait c =
    .next (c.upd fun a => { a.endRegion with clk := clk, bar := .none }) := by
  cases h : c.a.bar with
  | none => exact ⟨c.a.clk, by simp only [bodyBarWait, delivering, hpending, h, Ctx'.upd, Agent.endRegion]⟩
  | passed => exact ⟨_, by simp only [bodyBarWait, delivering, hpending, h]; rfl⟩
  | arrived => exact absurd h hbar

end

/-! ### Issuing (R217) -/

section
variable {o : Op} {f : FormL} {s t : State} {k : Nat} {a b : Agent} {i : FormL → Instr} {body : Ctx' → Go}

theorem issueBar_clear (h : Clear o f s k a) (body : Ctx' → Go) :
    issueBar o f body s = .next (barPhases (settle k a (lenOf f) (body (ctxOf o f (lenOf f) s k a))) [k]) := by
  unfold issueBar
  rw [h.alone]
  simp [issueOne_clear h]
theorem barPhases_undue (hb : agent? t k = some b) (hdue : phaseDue t b.group = false) : barPhases t [k] = t := by
  have hsame : barPhase t b.group = t := if_pos (by simp [hdue])
  simp [barPhases, hb, hsame]
/-- A group counts a phase. -/
def CountsPhase (s u : State) (n : Nat) : Prop := ∀ g, group? s n = some g → ∃ h, group? u n = some h ∧ h.phases = g.phases + 1
/-- The phase of a group's only thread, which has arrived. -/
theorem barPhases_alone (hb : agent? t k = some b) (hkind : b.kind = .thread) (halone : groupAgents t b.group = [(k, b)])
    (hlive : b.state ≠ .exited) (hbar : b.bar = .arrived) : ∃ u clk, agent? u k = some { b with bar := .passed, barClk := clk } ∧
    Only [.groups] t u ∧ Others [k] t u ∧ CountsPhase t u b.group ∧ barPhases t [k] = passAll clk (if b.wait = .barrier then [k] else []) u := by
  have hwaiters : barWaiters t b.group = if b.wait = .barrier then [k] else [] := by
    unfold barWaiters
    rw [halone]
    by_cases hwait : b.wait = .barrier <;> simp [hwait]
  refine ⟨phaseState t b.group (phaseClock t b.group), phaseClock t b.group, ?_, only_phaseState _ _ _, others_phaseState halone _, fun g hg => ⟨_, phases_phaseState _ hg, rfl⟩, ?_⟩
  · rw [agent?_phaseState, hb]
    exact congrArg some (phased_arrived hkind rfl hbar _)
  · rw [← hwaiters, ← barPhase_due (phaseDue_alone halone hlive hbar)]
    simp [barPhases, hb, hkind]
/-- Where that thread waits for it, the thread goes on. -/
theorem barPhases_alone_waiting {len : Nat} (hb : agent? t k = some b) (hkind : b.kind = .thread) (halone : groupAgents t b.group = [(k, b)])
    (hlive : b.state ≠ .exited) (hbar : b.bar = .arrived) (hwait : b.wait = .barrier) (hinst : b.inst = some (o, f, len)) :
    ∃ u d, barPhases t [k] = u ∧ Passed len b u k d ∧ Only [.groups] t u ∧ Others [k] t u ∧ CountsPhase t u b.group ∧
      d.bar = .none ∧ SameHeld b d := by
  obtain ⟨u, clk, hthere, honly, hothers, hcounts, hphase⟩ := barPhases_alone hb hkind halone hlive hbar
  rw [if_pos hwait] at hphase
  have hpassed : barPhases t [k] = finishWait (putAgent u k { b with bar := .none, barClk := clk }) k none clk :=
    hphase.trans (congrArg (finishWait · k none clk) (modAgent_some hthere _))
  obtain ⟨honly', hothers', d, ⟨hd, hpc, hgoes⟩, hcore⟩ :=
    finishWait_spec (agent?_putAgent_same u k { b with bar := .none, barClk := clk }) hinst none clk
  have hsame := ((Only.putAgent u k { b with bar := .none, barClk := clk }).trans honly') .groups (by simp)
  refine ⟨_, d, hpassed, ⟨hd, hpc.trans (advance_pc (a := b) (c := { b with bar := .none, barClk := clk }) rfl _ _), hgoes⟩, honly.trans ((Only.putAgent _ _ _).trans honly').of_nil,
    hothers.trans ((Others.putAgent _ _ _).trans hothers'), fun g hg => ?_, (congrArg Agent.bar hcore :),
    core_sameHeld hcore ⟨fun _ => rfl, fun _ => rfl, ⟨rfl, rfl, rfl⟩, rfl⟩⟩
  obtain ⟨h, hh, hphases⟩ := hcounts g hg
  rw [← hphases]
  exact phases_of_same hsame hh
/-- While another thread is still to come, an instruction of the barrier leaves what its own thread's part in it leaves. -/
theorem Clear.undue (h : Clear o f s k a) (hbehind : (ctxOf o f (lenOf f) s k a).Behind)
    (ht : settle k a (lenOf f) (body (ctxOf o f (lenOf f) s k a)) = t) (hbeside : Beside k s t) (hb : agent? t k = some b)
    (hgroup : b.group = a.group) : issueBar o f body s = .next t := by
  rw [issueBar_clear h, ht, barPhases_undue hb]
  rw [hgroup]
  exact hbehind.phaseDue h.here hbeside hb
theorem Clear.overruns (h : Clear o f s k a) (hi : ∀ f s, exec (i f) s = issueBar o f body s)
    (hbody : body (ctxOf o f (lenOf f) s k a) = .freeze s .barrierOverrun {}) (hbehind : (ctxOf o f (lenOf f) s k a).Behind) :
    Faults (ctxOf o f (lenOf f) s k a) (exec (i f) s) .barrierOverrun {} := by
  have hstop := agent?_putAgent_same s k { a with stopLen := lenOf f }
  obtain ⟨-, -, b, hb, -, -, hcore, -⟩ := freeze_spec hstop .barrierOverrun {}
  refine (hi f s).trans (h.undue hbehind ?_ ((Beside.putAgent ..).trans (freeze_beside hstop _ _)) hb (congrArg Agent.group hcore :))
  rw [hbody, settle]
  simp only [Bool.false_eq_true, if_false, modAgent_some h.here]
  rfl

/-- A BAR.ARV of a thread that has not arrived, before phases are tested: the thread has arrived and stands at the next instruction. -/
theorem barArv_settles (hopen : (ctxOf .barArv f (lenOf f) s k a).Open) :
    ∃ t b, settle k a (lenOf f) (bodyBarArv (ctxOf .barArv f (lenOf f) s k a)) = t ∧ Passed (lenOf f) a t k b ∧ Only [] s t ∧ Others [k] s t ∧
      Beside k s t ∧ b.core = a.arrive.core ∧ (a.state ≠ .exited → b.state ≠ .exited) := by
  have hput := agent?_putAgent_same s k a.arrive
  obtain ⟨honly, hothers, b, hb, hcore, hpc, hwait⟩ := settle_next_spec hput a (lenOf f)
  obtain ⟨hbeside, hlive⟩ := settle_next_beside hput a (lenOf f)
  exact ⟨_, b, congrArg (settle k a (lenOf f)) (arriving_open hopen .next), ⟨hb, hpc.trans (advance_pc (show a.arrive.blk = a.blk from rfl) _ _), hwait⟩,
    (Only.putAgent _ _ _).trans honly, (Others.putAgent _ _ _).trans hothers, (Beside.putAgent ..).trans hbeside, hcore, hlive b hb⟩
/-- A BAR.SYNC of a thread that has not arrived, before phases are tested: the thread has arrived and waits. -/
theorem barSync_settles (hopen : (ctxOf .barSync f (lenOf f) s k a).Open) :
    settle k a (lenOf f) (bodyBarSync (ctxOf .barSync f (lenOf f) s k a)) = putAgent s k (a.arrive.atBarrier .barSync f (lenOf f)) := by
  rw [bodyBarSync, arriving_open hopen, settle, Ctx'.upd]
  rw [show (ctxOf .barSync f (lenOf f) s k a).k = k from rfl, modAgent_some (agent?_putAgent_same ..), modAgent_some (agent?_putAgent_same ..),
    putAgent_putAgent, putAgent_putAgent]
  rfl

end

/-! ### The instructions -/

/-- BAR.ARV goes on while another live thread of its group has not arrived. -/
theorem barArv_goesOn : Does .barArv .barArv (fun c => c.Open ∧ c.Behind) [] fun c _ b =>
    b.bar = .arrived ∧ b.barClk = fput c.a.clk c.a.uid (c.a.region + 1) ∧ SameHeld c.a b := by
  intro f s k a h c ⟨hopen, hbehind⟩
  obtain ⟨t, b, ht, hpassed, honly, hothers, hbeside, hcore, -⟩ := barArv_settles hopen
  exact ⟨t, b, h.undue hbehind ht hbeside hpassed.here (congrArg Agent.group hcore :), hpassed, honly, hothers, (congrArg Agent.bar hcore :),
    (congrArg Agent.barClk hcore :), core_sameHeld hcore ⟨fun _ => rfl, fun _ => rfl, ⟨rfl, rfl, rfl⟩, rfl⟩⟩
/-- The BAR.ARV of the group's only thread completes the phase. -/
theorem barArv_alone : Does .barArv .barArv (fun c => c.Open ∧ c.Alone) [.groups] fun c u b => b.bar = .passed ∧ SameHeld c.a b ∧
    CountsPhase c.s u c.a.group := by
  intro f s k a h c ⟨hopen, hlive, _, halone⟩
  obtain ⟨t, b, ht, hpassed, honly, hothers, hbeside, hcore, hlives⟩ := barArv_settles hopen
  have hgroup : b.group = a.group := (congrArg Agent.group hcore :)
  have hkind : b.kind = .thread := (congrArg Agent.kind hcore :).trans hopen.2.1
  have halone' : groupAgents t b.group = [(k, b)] := hbeside.alone h.here hpassed.here (hgroup ▸ halone) hkind rfl
  obtain ⟨u, clk, hthere, honly', hothers', hcounts, hphase⟩ :=
    barPhases_alone hpassed.here hkind halone' (hlives hlive) (congrArg Agent.bar hcore :)
  rw [hpassed.wait, if_neg (by simp)] at hphase
  have hheld : SameHeld a { b with bar := .passed, barClk := clk } :=
    core_sameHeld (congrArg (fun x : Agent => { x with bar := .passed, barClk := clk }) hcore :) (c := { a.arrive with bar := .passed, barClk := clk })
      ⟨fun _ => rfl, fun _ => rfl, ⟨rfl, rfl, rfl⟩, rfl⟩
  refine ⟨u, _, (issueBar_clear h bodyBarArv).trans (by rw [ht, hphase]; rfl), ⟨hthere, hpassed.pc, hpassed.wait⟩, honly.of_nil.trans honly',
    hothers.trans hothers', rfl, hheld, fun g hg => ?_⟩
  obtain ⟨y, hy, hphases⟩ := phases_of_same (honly .groups (by simp)) hg
  rw [hgroup] at hcounts
  rw [← hphases]
  exact hcounts y hy
/-- The BAR.SYNC of the group's only thread completes the phase, and goes on. -/
theorem barSync_alone : Does .barSync .barSync (fun c => c.Open ∧ c.Alone) [.groups] fun c u b => b.bar = .none ∧ SameHeld c.a b ∧
    CountsPhase c.s u c.a.group := by
  intro f s k a h c ⟨hopen, hlive, _, halone⟩
  have hput := agent?_putAgent_same s k (a.arrive.atBarrier .barSync f (lenOf f))
  have halone' := (Beside.putAgent s k (a.arrive.atBarrier .barSync f (lenOf f))).alone h.here hput halone hopen.2.1 rfl
  obtain ⟨u, b, hphase, hpassed, honly, hothers, hcounts, hbar, hheld⟩ := barPhases_alone_waiting hput hopen.2.1 halone' hlive rfl rfl rfl
  refine ⟨u, b, (issueBar_clear h bodyBarSync).trans ?_, ⟨hpassed.here, ?_, hpassed.wait⟩, (Only.putAgent _ _ _).of_nil.trans honly,
    (Others.putAgent _ _ _).trans hothers, hbar, ?_, hcounts⟩
  · rw [barSync_settles hopen, hphase]
  · exact hpassed.pc.trans (advance_pc (show (a.arrive.atBarrier .barSync f (lenOf f)).blk = a.blk from rfl) _ _)
  · exact SameHeld.trans ⟨fun _ => rfl, fun _ => rfl, ⟨rfl, rfl, rfl⟩, rfl⟩ hheld
theorem barSync_waits {f : FormL} {s : State} {k : Nat} {a : Agent} (h : Clear .barSync f s k a) (hopen : (ctxOf .barSync f (lenOf f) s k a).Open)
    (hbehind : (ctxOf .barSync f (lenOf f) s k a).Behind) :
    exec (.barSync f) s = .next (putAgent s k (a.arrive.atBarrier .barSync f (lenOf f))) :=
  h.undue hbehind (barSync_settles hopen) (.putAgent ..) (agent?_putAgent_same ..) rfl
theorem barWait_goesOn : Does .barWait .barWait (fun c => c.a.pending = [] ∧ c.a.bar ≠ .arrived) [] fun c _ b =>
    b.bar = .none ∧ SameHeld c.a b ∧ c.a.region < b.region := by
  intro f s k a h c ⟨hpending, hbar⟩
  obtain ⟨clk, hbody⟩ := bodyBarWait_passes hpending hbar
  refine moves_settle_region (b' := { c.a.endRegion with clk := clk, bar := .none }) ((issueL_clear h bodyBarWait).trans (by rw [hbody]; rfl))
    (agent?_putAgent_same ..) rfl (Only.putAgent _ _ _)
    (Others.putAgent _ _ _) fun u b _ hcore hregion => ?_
  exact ⟨(congrArg Agent.bar hcore :), core_sameHeld hcore ⟨fun _ => rfl, fun _ => rfl, ⟨rfl, rfl, rfl⟩, rfl⟩, hregion⟩
theorem barWait_waits {f : FormL} {s : State} {k : Nat} {a : Agent} (h : Clear .barWait f s k a) (hpending : a.pending = [])
    (hbar : a.bar = .arrived) : exec (.barWait f) s = .next (putAgent s k (a.endRegion.atBarrier .barWait f (lenOf f))) := by
  refine (issueL_clear h bodyBarWait).trans ?_
  rw [bodyBarWait_waits (c := ctxOf .barWait f (lenOf f) s k a) hpending hbar, settle, Ctx'.upd]
  rw [show (ctxOf .barWait f (lenOf f) s k a).k = k from rfl, modAgent_some (agent?_putAgent_same ..), putAgent_putAgent]
  rfl

end Sys2Proof.Machine
end

section
/-!
PROOF. Memory barrier objects (R221 to R227).
-/
namespace Sys2Proof.Machine

/-! ### The place of an access in its party's order -/

section
variable {α : Type} {m : FMap α} {n : Nat} {x : α}

theorem fwf_cons {t : FMap α} : fwf ((n, x) :: t) = true ↔ (∀ p ∈ t, n < p.1) ∧ fwf t = true := by
  induction t generalizing n x with
  | nil => simp [fwf]
  | cons p t ih =>
    obtain ⟨k, v⟩ := p
    have hrest := ih (n := k) (x := v)
    simp only [fwf, Bool.and_eq_true, decide_eq_true_eq, List.mem_cons, forall_eq_or_imp]
    refine ⟨fun ⟨hlt, hwf⟩ => ⟨⟨hlt, fun q hq => hlt.trans ((hrest.mp hwf).1 q hq)⟩, hwf⟩, fun ⟨⟨hlt, _⟩, hwf⟩ => ⟨hlt, hwf⟩⟩
/-- Where keys rise, every entry is the one that its key finds. -/
theorem fget?_of_mem (hwf : fwf m = true) (h : (n, x) ∈ m) : fget? m n = some x := by
  induction m with
  | nil => cases h
  | cons p t ih =>
    obtain ⟨k, v⟩ := p
    obtain ⟨hlt, ht⟩ := fwf_cons.mp hwf
    rcases List.mem_cons.mp h with hhead | htail
    · cases hhead
      simp [fget?]
    · have hk := hlt (n, x) htail
      simp only [fget?, beq_iff_eq]
      rw [if_neg (by omega), if_neg (by omega), ih ht htail]
theorem length_filter_fput (p : Nat × α → Bool) (m : FMap α) (n : Nat) (x : α) : ((fput m n x).filter p).length ≤ (m.filter p).length + 1 := by
  induction m with
  | nil => simpa [fput] using List.length_filter_le p [(n, x)]
  | cons q t ih =>
    obtain ⟨k, v⟩ := q
    by_cases hnew : p (n, x) <;> by_cases hhead : p (k, v) <;> simp only [fput] <;> split_ifs <;> simp [hnew, hhead] <;> omega

end

section
variable {s : State} {k : Nat} {a : Agent}

/-- Noting an access changes how far its party's accesses have been performed, where the keys of the parties rise. -/
theorem noteOrder_spec (hwf : fwf s.agents = true) (hhere : agent? s k = some a) (w : Who) :
    Only [] s (noteOrder s w) ∧ Others [] s (noteOrder s w) ∧ (∃ n, agent? (noteOrder s w) k = some { a with top := n }) ∧
    ∀ p ∈ (noteOrder s w).agents, ∃ q ∈ s.agents, q.2.wait = p.2.wait := by
  have hsame : Only [] s s ∧ Others [] s s ∧ (∃ n, agent? s k = some { a with top := n }) ∧ ∀ p ∈ s.agents, ∃ q ∈ s.agents, q.2.wait = p.2.wait :=
    ⟨.refl _ _, .refl _ _, ⟨a.top, hhere⟩, fun p hp => ⟨p, hp, rfl⟩⟩
  unfold noteOrder
  split
  next j m hof =>
    split
    · have hm : agent? s j = some m := fget?_of_mem hwf (List.mem_of_find?_eq_some hof)
      refine ⟨Only.putAgent _ _ _, fun i _ => ?_, ?_, fun p hp => ?_⟩
      · by_cases hi : i = j
        · subst hi
          rw [agent?_putAgent_same, hm]
          rfl
        · rw [agent?_putAgent_ne _ _ hi]
      · by_cases hk : k = j
        · subst hk
          cases hhere.symm.trans hm
          exact ⟨_, agent?_putAgent_same ..⟩
        · exact ⟨a.top, (agent?_putAgent_ne _ _ hk).trans hhere⟩
      · obtain ⟨l, r, hsplit, hput⟩ := fget?_split hm
        rw [putAgent_agents, hput] at hp
        rw [hsplit]
        rcases List.mem_append.mp hp with hl | hr
        · exact ⟨p, List.mem_append_left _ hl, rfl⟩
        · rcases List.mem_cons.mp hr with rfl | hr
          · exact ⟨(j, m), by simp, rfl⟩
          · exact ⟨p, by simp [hr], rfl⟩
    · exact hsame
  · exact hsame

/-! ### An access without conflicts, on words that the region tag stores have room for (R202, R207) -/

theorem tagRoom_fits {x : Nat} {ws : List Nat} (h : TagsFit s (x :: ws)) : tagRoom s x = s := by
  rcases h x List.mem_cons_self with hthere | hroom
  · exact if_pos hthere
  · have hroom' : (s.tags.filter fun t => tagStore t.1 == tagStore x).length < tagCap := by
      rw [List.length_cons] at hroom
      omega
    unfold tagRoom
    split
    · rfl
    · exact if_pos hroom'
theorem addTag_fits {x : Nat} {ws : List Nat} (h : TagsFit s (x :: ws)) (t : Tag) (clean : Bool) :
    ∃ tags, addTag s x t clean = { s with tags := tags } ∧ TagsFit { s with tags := tags } ws := by
  unfold addTag
  rw [tagRoom_fits h]
  dsimp only
  split
  · have hfits : TagsFit s ws := fun w hw => (h w (List.mem_cons_of_mem _ hw)).imp_right fun hroom => by
      rw [List.length_cons] at hroom
      omega
    exact ⟨s.tags, rfl, hfits⟩
  · refine ⟨_, rfl, fun w hw => (h w (List.mem_cons_of_mem _ hw)).imp (fun hthere => ?_) fun hroom => ?_⟩
    · by_cases hwx : w = x
      · subst hwx
        exact (congrArg Option.isSome (fget?_fput_same ..)).trans rfl
      · exact (congrArg Option.isSome (fget?_fput_ne _ _ hwx)).trans hthere
    · rw [List.length_cons] at hroom
      refine (Nat.add_le_add_right (length_filter_fput ..) _).trans ?_
      omega
theorem foldl_addTag_fits (t : Tag) (clean : Bool) : ∀ (ws : List Nat) (s : State), TagsFit s ws →
    ∃ tags, ws.foldl (fun s x => addTag s x t clean) s = { s with tags := tags }
  | [], s, _ => ⟨s.tags, rfl⟩
  | x :: ws, s, h => by
    obtain ⟨tags, e, hfits⟩ := addTag_fits h t clean
    obtain ⟨tags', e'⟩ := foldl_addTag_fits t clean ws _ hfits
    exact ⟨tags', by rw [List.foldl_cons, e, e']⟩
theorem judge_quiet {w : Who} {write atomic : Bool} {ws : List Nat} (hhits : hits s w write atomic ws = []) (hfits : TagsFit s ws) (addr : DWord) :
    ∃ tags, (judge s w write atomic ws addr).map (·.1) = some (noteOrder { s with tags := tags } w) := by
  obtain ⟨tags, e⟩ := foldl_addTag_fits (tagOf w write atomic addr) true ws s hfits
  refine ⟨tags, ?_⟩
  unfold judge
  simp only [hhits, List.isEmpty_nil, Bool.not_true, Bool.false_and, Bool.false_eq_true, if_false, List.filter_nil, List.foldl_nil, e, Option.map_some]

end

/-! ### What stands in an object (R221) -/

/-- The fields of an object lie in their ranges. -/
def MbObj.Fits (o : MbObj) : Prop := o.expected < 2 ^ 16 ∧ o.arrived < 2 ^ 16 ∧ o.phase < 16 ∧ o.pend < 2 ^ 64
/-- An object with its phase completed where all have come (R223). -/
def MbObj.settled (o : MbObj) : MbObj :=
  if o.arrived = o.expected ∧ o.pend = 0 then { o with phase := (o.phase + 1) % 16, arrived := 0, drop := false } else o
/-- The object at its locations. -/
def objectAt (s : State) (l : List Nat) : MbObj := mbOf (readLocs s.sram l)

section
variable {o : MbObj} {s : State} {l : List Nat}

theorem mbOf_fits (v : Nat) : (mbOf v).Fits := by
  simp only [MbObj.Fits, mbOf, bitsN]
  exact ⟨Nat.mod_lt _ (by decide), Nat.mod_lt _ (by decide), Nat.mod_lt _ (by decide), Nat.mod_lt _ (by decide)⟩
theorem settled_fits (h : o.Fits) : o.settled.Fits := by
  obtain ⟨hexpected, harrived, hphase, hpend⟩ := h
  unfold MbObj.settled
  split
  · exact ⟨hexpected, Nat.two_pow_pos _, Nat.mod_lt _ (by decide), hpend⟩
  · exact ⟨hexpected, harrived, hphase, hpend⟩
theorem pack_lt (h : o.Fits) : o.pack < 256 ^ 16 := by
  obtain ⟨hexpected, harrived, hphase, hpend⟩ := h
  unfold MbObj.pack
  cases o.ovr <;> cases o.drop <;> simp only [if_true, if_false, Bool.false_eq_true] <;> omega
theorem mbOf_pack (h : o.Fits) : mbOf o.pack = o := by
  obtain ⟨expected, arrived, phase, ovr, drop, pend⟩ := o
  obtain ⟨hexpected, harrived, hphase, hpend⟩ := h
  dsimp only at hexpected harrived hphase hpend
  simp only [mbOf, MbObj.pack, MbObj.mk.injEq, bitsN, bitN]
  cases ovr <;> cases drop <;> refine ⟨?_, ?_, ?_, ?_, ?_, ?_⟩ <;> simp <;> omega
/-- A write of an object is read back, and changes its bytes alone. -/
theorem mbPut_spec (hok : MemoryOk s) (hl : l.Nodup) (hlen : l.length = 16) (ho : o.Fits) :
    objectAt (mbPut s l o) l = o ∧ SramBut s (mbPut s l o) (· ∈ l) := by
  refine ⟨?_, fun _ i hi => get_writeLocs_ne hok.2 _ hi⟩
  have hread : readLocs (mbPut s l o).sram l = o.pack := by
    rw [mbPut, readLocs_writeLocs hok.2 hl, hlen, Nat.mod_eq_of_lt (pack_lt ho)]
  rw [objectAt, hread, mbOf_pack ho]
/-- An object at which nobody waits is written settled. -/
theorem mbSettle_quiet (h : ∀ p ∈ s.agents, ∀ q n, p.2.wait ≠ .object (l.headD 0) q n) (o : MbObj) :
    ∃ rels, mbSettle s l o = mbPut { s with rels := rels } l o.settled := by
  have hnone : (s.agents.filter fun p => match p.2.wait with | .object j _ _ => j == l.headD 0 | _ => false) = [] := by
    refine List.filter_eq_nil_iff.mpr fun p hp hwait => ?_
    split at hwait
    next j q n e => exact h p hp q n (by rw [e, beq_iff_eq.mp hwait])
    next => cases hwait
  by_cases hdone : o.arrived = o.expected ∧ o.pend = 0
  · refine ⟨(mbTest s (l.headD 0) o).1.rels, ?_⟩
    rw [MbObj.settled, if_pos hdone, mbSettle, mbTest, if_pos (by simp [hdone])]
    dsimp only [Bool.not_true]
    rw [if_neg (by simp)]
    exact congrArg (fun w : List (Nat × Agent) => (w.map (·.1)).foldl (fun s k => finishWait s k (some true) (objClock s (l.headD 0))) _) hnone
  · refine ⟨s.rels, ?_⟩
    rw [MbObj.settled, if_neg hdone, mbSettle, mbTest, if_neg (by simpa using hdone)]
    rfl

end

/-! ### An object that a party may operate on -/

/-- An object at which nobody waits, with no conflict on its words and room for their region tags. -/
def FreeObject (s : State) (w : Who) (l : List Nat) : Prop := MemoryOk s ∧ l.Nodup ∧ l.length = 16 ∧ TagsFit s (wordsOfLocs l) ∧
  hits s w true true (wordsOfLocs l) = [] ∧ ∀ j a, (j, a) ∈ s.agents → ∀ p n, a.wait ≠ .object (l.headD 0) p n
/-- A party's instruction names such an object, and may be performed. -/
def Ctx'.AtObject (c : Ctx') (l : List Nat) : Prop :=
  FreeObject c.s (whoOf c.k c.a) l ∧ mbLocs c.s c.a (c.va % 2 ^ 32) = .inr l ∧ mbReady c = true
/-- A state in which the party's access to its object has been noted. -/
structure Noted (c : Ctx') (l : List Nat) (u : State) : Prop where
  ok : MemoryOk u
  only : Only [.tags] c.s u
  others : Others [] c.s u
  here : ∃ n, agent? u c.k = some { c.a with top := n }
  waits : ∀ p ∈ u.agents, ∀ q n, p.2.wait ≠ .object (l.headD 0) q n

section
variable {c : Ctx'} {l : List Nat} {u : State} {o : MbObj}

theorem Noted.sram (h : Noted c l u) : u.sram = c.s.sram := h.only .sram (by simp)
theorem Ctx'.AtObject.noted (h : c.AtObject l) (hwf : fwf c.s.agents = true) (hhere : agent? c.s c.k = some c.a) (addr : DWord) :
    Noted c l (mbTouch c.s (whoOf c.k c.a) l addr) := by
  obtain ⟨⟨hok, -, -, hfits, hhits, hwaits⟩, -, -⟩ := h
  obtain ⟨tags, hjudge⟩ := judge_quiet hhits hfits addr
  have htouch : mbTouch c.s (whoOf c.k c.a) l addr = noteOrder { c.s with tags := tags } (whoOf c.k c.a) := by rw [mbTouch, hjudge]; rfl
  obtain ⟨honly, hothers, hhere', hagents⟩ := noteOrder_spec (s := { c.s with tags := tags }) hwf hhere (whoOf c.k c.a)
  rw [htouch]
  have htags : Only [.tags] c.s { c.s with tags := tags } := fun p hp => by
    cases p with
    | tags => exact absurd List.mem_cons_self hp
    | _ => simp [Same, group?, ctx?]
  refine ⟨⟨?_, ?_⟩, htags.trans honly.of_nil, (Others.of_eq fun _ _ => rfl).trans hothers, hhere', fun p hp q n hwait => ?_⟩
  · rw [show (noteOrder _ _).mem = c.s.mem from honly .mem (by simp)]; exact hok.1
  · rw [show (noteOrder _ _).sram = c.s.sram from honly .sram (by simp)]; exact hok.2
  · obtain ⟨⟨j, m⟩, hm, e⟩ := hagents p hp
    exact hwaits j m hm q n (e.trans hwait)

/-! ### The instructions' own execution (R224 to R227) -/

theorem onObject_at (h : c.AtObject l) (g : List Nat → MbObj → Go) : onObject c g = g l (objectAt c.s l) := by
  unfold onObject
  dsimp only
  rw [show mbLocs c.s c.a (low 32 c.va) = .inr l from h.2.1]
  rfl
theorem bodyMbinit_at (h : c.AtObject l) (hn : c.vb % 2 ^ 32 ≤ 65535) : bodyMbinit c =
    .next (modAgent (mbPut (mbTouch c.s (whoOf c.k c.a) l c.obj) l
      { objectAt c.s l with expected := c.vb % 2 ^ 32, arrived := 0, ovr := false, drop := false, pend := 0 }) c.k Agent.endRegion) := by
  rw [bodyMbinit, onObject_at h]
  dsimp only [low]
  rw [if_neg (by omega), if_neg (by simp [h.2.2])]
  rfl
/-- The object after an arrival with a count and bytes (R225), and after a drop (R227). -/
def MbObj.arrive (o : MbObj) (count bytes : Nat) : MbObj := { o with arrived := o.arrived + count, pend := (o.pend + bytes) % 2 ^ 64 }
def MbObj.dropped (o : MbObj) (count : Nat) : MbObj := { o with expected := o.expected - count, drop := o.drop || decide (count ≠ 0) }
/-- An object is written settled, and what a release joins there is left in the map of releases. -/
theorem mbSettle_released (hu : Noted c l u) (r : Rel) (o : MbObj) :
    ∃ rels, mbSettle (mbRelease u (l.headD 0) r) l o = mbPut { u with rels := rels } l o.settled :=
  mbSettle_quiet (s := mbRelease u (l.headD 0) r) hu.waits o
theorem mbArrive_noted (hu : Noted c l (mbTouch c.s (whoOf c.k c.a) l c.obj)) {count bytes : Nat}
    (hroom : (objectAt c.s l).arrived + count ≤ (objectAt c.s l).expected) : ∃ rels, mbArrive c.s (whoOf c.k c.a) l c.obj count bytes =
      .inr (mbPut { mbTouch c.s (whoOf c.k c.a) l c.obj with rels := rels } l ((objectAt c.s l).arrive count bytes).settled, objectAt c.s l) := by
  have hread : mbOf (readLocs (mbTouch c.s (whoOf c.k c.a) l c.obj).sram l) = objectAt c.s l := by rw [hu.sram]; rfl
  obtain ⟨rels, e⟩ := mbSettle_released hu _ ((objectAt c.s l).arrive count bytes)
  refine ⟨rels, ?_⟩
  unfold mbArrive
  dsimp only
  rw [hread, if_neg (by omega)]
  exact congrArg (fun t => Sum.inr (t, objectAt c.s l)) e

/-- An object at its locations, written in a state whose party has then changed. -/
def rewritten (u : State) (rels : FMap RelLoc) (l : List Nat) (o : MbObj) (k : Nat) (g : Agent → Agent) : State :=
  modAgent (mbPut { u with rels := rels } l o) k g
theorem bodyMbarv_at (h : c.AtObject l) (hu : Noted c l (mbTouch c.s (whoOf c.k c.a) l c.obj))
    (hroom : (objectAt c.s l).arrived + c.vb % 2 ^ 32 ≤ (objectAt c.s l).expected) : ∃ rels,
      let t := rewritten (mbTouch c.s (whoOf c.k c.a) l c.obj) rels l ((objectAt c.s l).arrive (c.vb % 2 ^ 32) (c.vc % 2 ^ 32)).settled c.k Agent.endRegion
      bodyMbarv c = .next (if c.f.dst.toNat = 255 then t else
        produce t c.k ((agent? t c.k).getD c.a) (.v c.f.dst.toNat 1) (objectAt c.s l).phase 0 (poisonedWords c.s (wordsOfLocs l))) := by
  obtain ⟨rels, e⟩ := mbArrive_noted hu (bytes := c.vc % 2 ^ 32) hroom
  refine ⟨rels, ?_⟩
  rw [bodyMbarv, onObject_at h]
  dsimp only [low]
  rw [if_neg (by omega), if_neg (by simp [h.2.2]), e]
  simp only [beq_iff_eq]
  rfl
theorem bodyMbdrop_at (h : c.AtObject l) (hu : Noted c l (mbTouch c.s (whoOf c.k c.a) l c.obj))
    (hroom : (objectAt c.s l).arrived + c.vb % 2 ^ 32 ≤ (objectAt c.s l).expected) : ∃ rels, bodyMbdrop c =
      .next (rewritten (mbTouch c.s (whoOf c.k c.a) l c.obj) rels l ((objectAt c.s l).dropped (c.vb % 2 ^ 32)).settled c.k Agent.endRegion) := by
  obtain ⟨rels, e⟩ := mbSettle_released hu { uid := c.a.uid, place := placeOf c.k c.a, scope := 2, clk := fput c.a.clk c.a.uid (c.a.region + 1) }
    ((objectAt c.s l).dropped (c.vb % 2 ^ 32))
  have hne : (c.vb % 2 ^ 32 != 0) = decide (c.vb % 2 ^ 32 ≠ 0) := by rw [decide_not]; rfl
  refine ⟨rels, ?_⟩
  rw [bodyMbdrop, onObject_at h]
  dsimp only [low]
  rw [if_neg (by omega), if_neg (by simp [h.2.2]), hne]
  exact congrArg (fun t => Go.next (endRegion t c.k)) e
/-- A party after it has tested an object's phase: a true result acquires. -/
def Agent.tested (a : Agent) (n : Nat) (r : Bool) (clk : Clock) : Agent := if r then (a.setP n r).endRegion.acquire clk else (a.setP n r).endRegion
theorem tested_rest (a : Agent) (n : Nat) (r : Bool) (clk : Clock) : ∃ clk', a.tested n r clk = { a.setP n r with region := a.region + 1, clk := clk' } := by
  obtain ⟨p, q, t, e⟩ := setP_rest a n r
  unfold Agent.tested
  rw [e]
  cases r
  · exact ⟨a.clk, rfl⟩
  · exact ⟨_, rfl⟩
theorem tested_region (a : Agent) (n : Nat) (r : Bool) (clk : Clock) : (a.tested n r clk).blk = a.blk ∧ (a.tested n r clk).region = a.region + 1 := by
  obtain ⟨p, q, t, e⟩ := setP_rest a n r
  obtain ⟨clk', htested⟩ := tested_rest a n r clk
  rw [htested, e]
  exact ⟨rfl, rfl⟩
theorem phasePassed_clean (hclean : poisonedWords c.s (wordsOfLocs l) = false) (r : Bool) : ∃ clk, phasePassed c l o r =
    rewritten (mbTouch c.s (whoOf c.k c.a) l c.obj) (mbTouch c.s (whoOf c.k c.a) l c.obj).rels l o c.k (·.tested c.f.dst.toNat r clk) := by
  refine ⟨objClock (mbPut (mbTouch c.s (whoOf c.k c.a) l c.obj) l o) (l.headD 0), ?_⟩
  unfold phasePassed
  rw [hclean]
  rfl
theorem bodyMbtest_at (h : c.AtObject l) : bodyMbtest c = .next (phasePassed c l (objectAt c.s l) (decide ((objectAt c.s l).phase ≠ c.vb % 16))) := by
  have hne : ((objectAt c.s l).phase != low 4 c.vb) = decide ((objectAt c.s l).phase ≠ c.vb % 16) := by rw [decide_not]; rfl
  rw [bodyMbtest, onObject_at h]
  rw [if_neg (by simp [h.2.2]), hne]
theorem bodyMbwait_at (h : c.AtObject l) (hphase : (objectAt c.s l).phase ≠ c.vb % 16) : bodyMbwait c = .next (phasePassed c l (objectAt c.s l) true) := by
  have hpassed : ((objectAt c.s l).phase != low 4 c.vb) = true := bne_iff_ne.mpr hphase
  rw [bodyMbwait, onObject_at h, if_neg (by simp [h.2.2]), if_pos hpassed]

/-! ### What the instructions leave (R224 to R227) -/

/-- What the object's operations leave of a party on a vector core: its X registers, which nothing reads there, FL, and a region that has ended. -/
def Ctx'.Bare (c : Ctx') (b : Agent) : Prop := SameX c.a b ∧ b.fl = c.a.fl ∧ c.a.region < b.region
/-- An object stands at its locations, and the rest of scratchpad is as it was. -/
def Rewrote (s u : State) (l : List Nat) (o : MbObj) : Prop := objectAt u l = o ∧ SramBut s u (· ∈ l)

theorem rewritten_spec (hu : Noted c l u) (rels : FMap RelLoc) (o : MbObj) (g : Agent → Agent) :
    Only [.sram, .tags, .rels] c.s (rewritten u rels l o c.k g) ∧ Others [c.k] c.s (rewritten u rels l o c.k g) ∧
    ∃ n, agent? (rewritten u rels l o c.k g) c.k = some (g { c.a with top := n }) := by
  obtain ⟨n, hn⟩ := hu.here
  have hput : Only [.sram, .rels] u (mbPut { u with rels := rels } l o) := fun p hp => by
    cases p with
    | sram | rels => simp at hp
    | _ => simp [Same, mbPut, group?, ctx?]
  refine ⟨(hu.only.mono (by simp)).trans ((hput.mono (by simp)).trans (Only.modAgent _ _ _).of_nil), fun j hj => ?_, n, ?_⟩
  · exact (Others.modAgent (mbPut { u with rels := rels } l o) c.k g j hj).trans (hu.others j (by simp))
  · exact (agent?_modAgent_same ..).trans (congrArg (Option.map g) hn)
theorem Rewrote.of_sram (hok : MemoryOk u) (hsram : u.sram = c.s.sram) (h : c.AtObject l) (ho : o.Fits) {v : State}
    (hv : v.sram = writeLocs u.sram l o.pack) : Rewrote c.s v l o := by
  obtain ⟨⟨-, hnodup, hlen, -⟩, -⟩ := h
  obtain ⟨hread, hbut⟩ := mbPut_spec hok hnodup hlen ho
  unfold Rewrote objectAt SramBut at *
  rw [hv, ← hsram]
  exact ⟨hread, fun _ => hbut hok⟩

/-- An instruction of a clear party that rewrites its object, and changes its party as `g` says. -/
theorem rewritten_moves {out : Out} {rels : FMap RelLoc} {g : Agent → Agent} (h : c.AtObject l) (hu : Noted c l u) (ho : o.Fits)
    (hg : ∀ a, (g a).blk = a.blk ∧ (g a).region = a.region + 1) (hout : out = .next (settle c.k c.a c.len (.next (rewritten u rels l o c.k g)))) :
    Moves c out [.sram, .tags, .rels] fun v b => Rewrote c.s v l o ∧ c.a.region < b.region ∧ ∃ n, b.core = (g { c.a with top := n }).core := by
  obtain ⟨honly, hothers, n, hn⟩ := rewritten_spec hu rels o g
  obtain ⟨hblk, hregion⟩ := hg { c.a with top := n }
  refine moves_settle_region hout hn hblk honly hothers fun v b hv hcore hlater => ⟨?_, Nat.lt_of_lt_of_le (by rw [hregion]; exact Nat.lt_succ_self _) hlater, n, hcore⟩
  have hsram : (rewritten u rels l o c.k g).sram = writeLocs u.sram l o.pack := (Only.modAgent _ _ _) .sram (by simp)
  exact .of_sram hu.ok hu.sram h ho (Eq.trans (hv .sram (by simp)) hsram)

/-- A party whose region has ended, and for which nothing else has changed. -/
theorem ended_rest {b : Agent} {n : Nat} (hcore : b.core = ({ c.a with top := n } : Agent).endRegion.core) (hregion : c.a.region < b.region) :
    SameV c.a b ∧ SameP c.a b ∧ c.Bare b :=
  ⟨core_sameV hcore fun _ => rfl, core_sameP hcore ⟨rfl, rfl, rfl⟩, core_sameX hcore fun _ => rfl, (core_fl hcore).trans rfl, hregion⟩
/-- A party that has tested an object's phase. -/
theorem tested_wrote {b : Agent} {n m : Nat} {r : Bool} {clk : Clock} (hcore : b.core = (({ c.a with top := n } : Agent).tested m r clk).core)
    (hregion : c.a.region < b.region) : WroteP c.a b m r ∧ SameV c.a b ∧ c.Bare b := by
  obtain ⟨clk', htested⟩ := tested_rest { c.a with top := n } m r clk
  obtain ⟨x, y, z, e⟩ := setP_rest { c.a with top := n } m r
  have hwrote : WroteP c.a (({ c.a with top := n } : Agent).setP m r) m r := wroteP_setP { c.a with top := n } m r
  rw [htested] at hcore
  refine ⟨core_wroteP hcore hwrote, core_sameV hcore ?_, core_sameX hcore ?_, (core_fl hcore).trans ?_, hregion⟩
  · rw [e]; exact fun _ => rfl
  · rw [e]; exact fun _ => rfl
  · rw [e]
/-- A producer with its poison: everything that `produce` does. -/
theorem produce_poison_spec (s : State) (k : Nat) (a : Agent) (d : Dst) (x : Nat) (fl : BitVec 5) (poison : Bool) :
    agent? (produce s k a d x fl poison) k = some (a.emptyDst d) ∧ Only [.ids, .prods] s (produce s k a d x fl poison) ∧
    Others [k] s (produce s k a d x fl poison) ∧
    (produce s k a d x fl poison).prods = s.prods ++ [{ id := s.nextId, key := k, uid := a.uid, dst := d, value := x, flags := fl, poison := poison }] := by
  refine ⟨agent?_putAgent_same { s with nextId := s.nextId + 1 } k _, fun p hp => ?_,
    .of_eq fun j hj => agent?_putAgent_ne { s with nextId := s.nextId + 1 } _ (by simpa using hj), rfl⟩
  cases p with
  | ids | prods => simp at hp
  | _ => simp [produce, freshId, Same, group?, ctx?]

end

/-! ### The instructions -/

/-- The object that a party's instruction names, in a state whose list of parties has its keys in rising order. -/
def Ctx'.AtOrdered (c : Ctx') (l : List Nat) : Prop := c.AtObject l ∧ fwf c.s.agents = true

section
variable (l : List Nat)

theorem settled_arrive_fits {o : MbObj} (ho : o.Fits) {n bytes : Nat} (hroom : o.arrived + n ≤ o.expected) : (o.arrive n bytes).settled.Fits := by
  obtain ⟨hexpected, -, hphase, -⟩ := ho
  exact settled_fits ⟨hexpected, hroom.trans_lt hexpected, hphase, Nat.mod_lt _ (Nat.two_pow_pos _)⟩
theorem settled_dropped_fits {o : MbObj} (ho : o.Fits) (n : Nat) : (o.dropped n).settled.Fits := by
  obtain ⟨hexpected, harrived, hphase, hpend⟩ := ho
  exact settled_fits ⟨(Nat.sub_le _ _).trans_lt hexpected, harrived, hphase, hpend⟩

/-- An instruction of a clear party whose own execution goes on. -/
theorem Clear.next {o : Op} {f : FormL} {s t : State} {k : Nat} {a : Agent} {body : Ctx' → Go} (h : Clear o f s k a)
    (hbody : body (ctxOf o f (lenOf f) s k a) = .next t) : issueL o f body s = .next (settle k a (lenOf f) (.next t)) := by
  rw [issueL_clear h, hbody]
/-- R224: EXPECTED as given, and no arrival, byte or drop counted. -/
theorem mbinit_initialises : Does .mbinit .mbinit (fun c => c.AtOrdered l ∧ c.vb % 2 ^ 32 ≤ 65535) [.sram, .tags, .rels] fun c u b =>
    Rewrote c.s u l { objectAt c.s l with expected := c.vb % 2 ^ 32, arrived := 0, ovr := false, drop := false, pend := 0 } ∧
    SameV c.a b ∧ SameP c.a b ∧ c.Bare b := by
  intro f s k a h c ⟨⟨hat, hwf⟩, hn⟩
  have hu := hat.noted hwf h.here c.obj
  have hfits : ({ objectAt c.s l with expected := c.vb % 2 ^ 32, arrived := 0, ovr := false, drop := false, pend := 0 } : MbObj).Fits :=
    ⟨Nat.lt_succ_of_le hn, Nat.two_pow_pos _, (mbOf_fits _).2.2.1, Nat.two_pow_pos _⟩
  refine (rewritten_moves (g := Agent.endRegion) hat hu hfits (fun _ => ⟨rfl, rfl⟩) (h.next (bodyMbinit_at hat hn))).imp ?_
  exact fun u b _ ⟨hrewrote, hregion, n, hcore⟩ => ⟨hrewrote, ended_rest hcore hregion⟩
/-- R225, with no register: arrivals and bytes are counted, and the phase is over when all have come. -/
theorem mbarv_arrives : Does .mbarv .mbarv (fun c => c.AtOrdered l ∧ c.f.dst = 255 ∧ (objectAt c.s l).arrived + c.vb % 2 ^ 32 ≤ (objectAt c.s l).expected)
    [.sram, .tags, .rels] fun c u b =>
    Rewrote c.s u l ((objectAt c.s l).arrive (c.vb % 2 ^ 32) (c.vc % 2 ^ 32)).settled ∧ SameV c.a b ∧ SameP c.a b ∧ c.Bare b := by
  intro f s k a h c ⟨⟨hat, hwf⟩, hdst, hroom⟩
  have hu := hat.noted hwf h.here c.obj
  obtain ⟨rels, hbody⟩ := bodyMbarv_at hat hu hroom
  dsimp only at hbody
  rw [if_pos (by rw [hdst]; rfl)] at hbody
  refine (rewritten_moves (g := Agent.endRegion) hat hu (settled_arrive_fits (mbOf_fits _) hroom) (fun _ => ⟨rfl, rfl⟩) (h.next hbody)).imp ?_
  exact fun u b _ ⟨hrewrote, hregion, n, hcore⟩ => ⟨hrewrote, ended_rest hcore hregion⟩
/-- R219 and R225, with a register (log 57): the arrival counts as the MBARV issues, and only the phase that it found is delivered later. -/
theorem mbarv_produces : Does .mbarv .mbarv (fun c => c.AtOrdered l ∧ c.f.dst ≠ 255 ∧ (objectAt c.s l).arrived + c.vb % 2 ^ 32 ≤ (objectAt c.s l).expected)
    [.sram, .tags, .rels, .ids, .prods] fun c u b =>
    Rewrote c.s u l ((objectAt c.s l).arrive (c.vb % 2 ^ 32) (c.vc % 2 ^ 32)).settled ∧
    u.prods = c.s.prods ++ [{ id := c.s.nextId, key := c.k, uid := c.a.uid, dst := .v c.f.dst.toNat 1, value := (objectAt c.s l).phase, flags := 0,
                              poison := poisonedWords c.s (wordsOfLocs l) }] ∧ EmptiedV c.a b c.f.dst.toNat 1 ∧ SameP c.a b ∧ c.Bare b := by
  intro f s k a h c ⟨⟨hat, hwf⟩, hdst, hroom⟩
  have hu := hat.noted hwf h.here c.obj
  obtain ⟨rels, hbody⟩ := bodyMbarv_at hat hu hroom
  obtain ⟨honly, hothers, n, hn⟩ := rewritten_spec hu rels ((objectAt c.s l).arrive (c.vb % 2 ^ 32) (c.vc % 2 ^ 32)).settled Agent.endRegion
  dsimp only at hbody
  rw [if_neg fun e => hdst (BitVec.eq_of_toNat_eq (e.trans (show 255 = (255 : BitVec 8).toNat from rfl))), hn, Option.getD_some] at hbody
  have hsram : (rewritten (mbTouch c.s (whoOf c.k c.a) l c.obj) rels l ((objectAt c.s l).arrive (c.vb % 2 ^ 32) (c.vc % 2 ^ 32)).settled c.k
      Agent.endRegion).sram = writeLocs (mbTouch c.s (whoOf c.k c.a) l c.obj).sram l _ := (Only.modAgent _ _ _) .sram (by simp)
  generalize rewritten (mbTouch c.s (whoOf c.k c.a) l c.obj) rels l _ c.k Agent.endRegion = t at *
  obtain ⟨hthere, honly', hothers', hprods⟩ := produce_poison_spec t c.k ({ c.a with top := n } : Agent).endRegion (.v c.f.dst.toNat 1)
    (objectAt c.s l).phase 0 (poisonedWords c.s (wordsOfLocs l))
  obtain ⟨v, e⟩ := emptyV_rest ({ c.a with top := n } : Agent).endRegion c.f.dst.toNat 1
  have hempties : EmptiedV c.a (({ c.a with top := n } : Agent).endRegion.emptyV c.f.dst.toNat 1) c.f.dst.toNat 1 := emptiedV_emptyV _ _ _
  refine moves_settle_region (h.next hbody) hthere
    (by rw [Agent.emptyDst, e]; rfl) ((honly.mono (by simp)).trans (honly'.mono (by simp))) (hothers.trans hothers') fun u b hu' hcore hregion => ?_
  rw [Agent.emptyDst] at hcore hregion
  refine ⟨.of_sram hu.ok hu.sram hat (settled_arrive_fits (mbOf_fits _) hroom) ?_, ?_, core_emptiedV hcore hempties, core_sameP hcore ?_, core_sameX hcore ?_,
    (core_fl hcore).trans ?_, ?_⟩
  · exact Eq.trans (hu' .sram (by simp)) (Eq.trans (honly' .sram (by simp)) hsram)
  · have hids := honly .ids (by simp)
    rw [show u.prods = _ from hu' .prods (by simp), hprods, show t.prods = c.s.prods from honly .prods (by simp), hids.1]
    rfl
  · rw [e]; exact ⟨rfl, rfl, rfl⟩
  · rw [e]; exact fun _ => rfl
  · rw [e]; rfl
  · rw [e] at hregion
    exact hregion
/-- R226: the predicate says whether the phase has gone on from the one that is named. -/
theorem mbtest_tests : Does .mbtest .mbtest (fun c => c.AtOrdered l ∧ poisonedWords c.s (wordsOfLocs l) = false) [.sram, .tags, .rels] fun c u b =>
    Rewrote c.s u l (objectAt c.s l) ∧ WroteP c.a b c.f.dst.toNat (decide ((objectAt c.s l).phase ≠ c.vb % 16)) ∧ SameV c.a b ∧ c.Bare b := by
  intro f s k a h c ⟨⟨hat, hwf⟩, hclean⟩
  have hu := hat.noted hwf h.here c.obj
  obtain ⟨clk, hpassed⟩ := phasePassed_clean (o := objectAt c.s l) hclean (decide ((objectAt c.s l).phase ≠ c.vb % 16))
  refine (rewritten_moves hat hu (mbOf_fits _) (fun a => tested_region a _ _ _) (h.next ((bodyMbtest_at hat).trans (congrArg Go.next hpassed)))).imp ?_
  exact fun u b _ ⟨hrewrote, hregion, n, hcore⟩ => ⟨hrewrote, tested_wrote hcore hregion⟩
/-- R226: an MBWAIT on a phase that has gone on passes at once. -/
theorem mbwait_passes : Does .mbwait .mbwait
    (fun c => c.AtOrdered l ∧ poisonedWords c.s (wordsOfLocs l) = false ∧ (objectAt c.s l).phase ≠ c.vb % 16) [.sram, .tags, .rels] fun c u b =>
    Rewrote c.s u l (objectAt c.s l) ∧ WroteP c.a b c.f.dst.toNat true ∧ SameV c.a b ∧ c.Bare b := by
  intro f s k a h c ⟨⟨hat, hwf⟩, hclean, hphase⟩
  have hu := hat.noted hwf h.here c.obj
  obtain ⟨clk, hpassed⟩ := phasePassed_clean (o := objectAt c.s l) hclean true
  refine (rewritten_moves hat hu (mbOf_fits _) (fun a => tested_region a _ _ _) (h.next ((bodyMbwait_at hat hphase).trans (congrArg Go.next hpassed)))).imp ?_
  exact fun u b _ ⟨hrewrote, hregion, n, hcore⟩ => ⟨hrewrote, tested_wrote hcore hregion⟩
/-- R227: EXPECTED is lower, and the phase is over when all that are left have come. -/
theorem mbdrop_drops : Does .mbdrop .mbdrop (fun c => c.AtOrdered l ∧ (objectAt c.s l).arrived + c.vb % 2 ^ 32 ≤ (objectAt c.s l).expected)
    [.sram, .tags, .rels] fun c u b =>
    Rewrote c.s u l ((objectAt c.s l).dropped (c.vb % 2 ^ 32)).settled ∧ SameV c.a b ∧ SameP c.a b ∧ c.Bare b := by
  intro f s k a h c ⟨⟨hat, hwf⟩, hroom⟩
  have hu := hat.noted hwf h.here c.obj
  obtain ⟨rels, hbody⟩ := bodyMbdrop_at hat hu hroom
  refine (rewritten_moves (g := Agent.endRegion) hat hu (settled_dropped_fits (mbOf_fits _) _) (fun _ => ⟨rfl, rfl⟩) (h.next hbody)).imp ?_
  exact fun u b _ ⟨hrewrote, hregion, n, hcore⟩ => ⟨hrewrote, ended_rest hcore hregion⟩

end

end Sys2Proof.Machine
end

section
/-!
PROOF. The statement about barriers (R215 to R227), clause by clause, and where it fails.
-/
namespace Sys2Proof.Machine

/-! ### The clauses -/

/-- The statement's clauses about the group barrier. -/
def GroupBarrierClauses : Prop :=
  Does .barArv .barArv (fun c => c.Open ∧ c.Behind) [] (fun c _ b =>
    b.bar = .arrived ∧ b.barClk = fput c.a.clk c.a.uid (c.a.region + 1) ∧ SameHeld c.a b) ∧
  Does .barArv .barArv (fun c => c.Open ∧ c.Alone) [.groups] (fun c u b => b.bar = .passed ∧ SameHeld c.a b ∧ CountsPhase c.s u c.a.group) ∧
  Does .barSync .barSync (fun c => c.Open ∧ c.Alone) [.groups] (fun c u b => b.bar = .none ∧ SameHeld c.a b ∧ CountsPhase c.s u c.a.group) ∧
  (∀ f s k a, Clear .barSync f s k a → (ctxOf .barSync f (lenOf f) s k a).Open → (ctxOf .barSync f (lenOf f) s k a).Behind →
    exec (.barSync f) s = .next (putAgent s k (a.arrive.atBarrier .barSync f (lenOf f)))) ∧
  Does .barWait .barWait (fun c => c.a.pending = [] ∧ c.a.bar ≠ .arrived) [] (fun c _ b => b.bar = .none ∧ SameHeld c.a b ∧ c.a.region < b.region) ∧
  (∀ f s k a, Clear .barWait f s k a → a.pending = [] → a.bar = .arrived →
    exec (.barWait f) s = .next (putAgent s k (a.endRegion.atBarrier .barWait f (lenOf f)))) ∧
  (∀ f s k a, Clear .barSync f s k a → a.pending = [] → a.bar = .arrived → (ctxOf .barSync f (lenOf f) s k a).Behind →
    Faults (ctxOf .barSync f (lenOf f) s k a) (exec (.barSync f) s) .barrierOverrun {}) ∧
  (∀ f s k a, Clear .barArv f s k a → a.pending = [] → a.bar = .arrived → (ctxOf .barArv f (lenOf f) s k a).Behind →
    Faults (ctxOf .barArv f (lenOf f) s k a) (exec (.barArv f) s) .barrierOverrun {})
/-- Its clauses about memory barrier objects, for the instructions that name an object as `At` says. -/
def ObjectClauses (At : Ctx' → List Nat → Prop) : Prop := ∀ l,
  Does .mbinit .mbinit (fun c => At c l ∧ c.vb % 2 ^ 32 ≤ 65535) [.sram, .tags, .rels] (fun c u b =>
    Rewrote c.s u l { objectAt c.s l with expected := c.vb % 2 ^ 32, arrived := 0, ovr := false, drop := false, pend := 0 } ∧
    SameV c.a b ∧ SameP c.a b ∧ c.Bare b) ∧
  Does .mbarv .mbarv (fun c => At c l ∧ c.f.dst = 255 ∧ (objectAt c.s l).arrived + c.vb % 2 ^ 32 ≤ (objectAt c.s l).expected) [.sram, .tags, .rels]
    (fun c u b => Rewrote c.s u l ((objectAt c.s l).arrive (c.vb % 2 ^ 32) (c.vc % 2 ^ 32)).settled ∧ SameV c.a b ∧ SameP c.a b ∧ c.Bare b) ∧
  Does .mbarv .mbarv (fun c => At c l ∧ c.f.dst ≠ 255 ∧ (objectAt c.s l).arrived + c.vb % 2 ^ 32 ≤ (objectAt c.s l).expected)
    [.sram, .tags, .rels, .ids, .prods] (fun c u b =>
    Rewrote c.s u l ((objectAt c.s l).arrive (c.vb % 2 ^ 32) (c.vc % 2 ^ 32)).settled ∧
    u.prods = c.s.prods ++ [{ id := c.s.nextId, key := c.k, uid := c.a.uid, dst := .v c.f.dst.toNat 1, value := (objectAt c.s l).phase, flags := 0,
                              poison := poisonedWords c.s (wordsOfLocs l) }] ∧ EmptiedV c.a b c.f.dst.toNat 1 ∧ SameP c.a b ∧ c.Bare b) ∧
  Does .mbtest .mbtest (fun c => At c l ∧ poisonedWords c.s (wordsOfLocs l) = false) [.sram, .tags, .rels] (fun c u b =>
    Rewrote c.s u l (objectAt c.s l) ∧ WroteP c.a b c.f.dst.toNat (decide ((objectAt c.s l).phase ≠ c.vb % 16)) ∧ SameV c.a b ∧ c.Bare b) ∧
  Does .mbwait .mbwait (fun c => At c l ∧ poisonedWords c.s (wordsOfLocs l) = false ∧ (objectAt c.s l).phase ≠ c.vb % 16) [.sram, .tags, .rels]
    (fun c u b => Rewrote c.s u l (objectAt c.s l) ∧ WroteP c.a b c.f.dst.toNat true ∧ SameV c.a b ∧ c.Bare b) ∧
  Does .mbdrop .mbdrop (fun c => At c l ∧ (objectAt c.s l).arrived + c.vb % 2 ^ 32 ≤ (objectAt c.s l).expected) [.sram, .tags, .rels] (fun c u b =>
    Rewrote c.s u l ((objectAt c.s l).dropped (c.vb % 2 ^ 32)).settled ∧ SameV c.a b ∧ SameP c.a b ∧ c.Bare b)
/-- The statement is these clauses, for objects in every state. -/
theorem barriers_iff : Obligations.Barriers ↔ GroupBarrierClauses ∧ ObjectClauses Ctx'.AtObject := Iff.rfl

theorem groupBarrierClauses : GroupBarrierClauses :=
  ⟨barArv_goesOn, barArv_alone, barSync_alone, fun _ _ _ _ => barSync_waits, barWait_goesOn, fun _ _ _ _ => barWait_waits,
    fun f s k a h hpending hbar => h.overruns (i := .barSync) (body := bodyBarSync) (fun _ _ => rfl)
      (arriving_overrun (c := ctxOf .barSync f (lenOf f) s k a) hpending hbar _),
    fun f s k a h hpending hbar => h.overruns (i := .barArv) (body := bodyBarArv) (fun _ _ => rfl)
      (arriving_overrun (c := ctxOf .barArv f (lenOf f) s k a) hpending hbar _)⟩
/-- Where the keys of the list of parties rise, the clauses about objects hold. -/
theorem objectClauses_ordered : ObjectClauses Ctx'.AtOrdered := fun l =>
  ⟨mbinit_initialises l, mbarv_arrives l, mbarv_produces l, mbtest_tests l, mbwait_passes l, mbdrop_drops l⟩

/-! ### An MBINIT, and a list of parties that names a key twice -/

/-- The object at offset 0 of its group's slice, and no other operand: V0 reads 0. -/
def initFields : FormL := { dst := 0, a := 0, g := 7, gn := false, ba := false, b := .reg 0 false, c := 0, bc := false, mod := 0 }
/-- The thread at key 1 that issues the MBINIT. -/
def initThread : Agent := { kind := .thread, uid := 1, asid := 1, tasid := 1, kernel := 1, group := 1, nregs := 8, pc := 0x1008, entry := .inside }
/-- Its state, with a list of parties. The object's words have region tags already, with no access behind them. -/
def initState (parties : FMap Agent) : State := { State.reset with
  issuing := [1]
  agents := parties
  kernels := [(1, { asid := 1, ident := 1, q := 0, entryNo := 0, hdr := 2 ^ 69 })]
  groups := [(1, { kernel := 1, index := 0, core := 0, warp := 0, cset := 1 })]
  csets := [(1, { kernel := 1, index := 0, cluster := 0, base := 0, size := 65536, slot := 0, live := 1 })]
  tags := [(2 ^ 60, []), (2 ^ 60 + 1, []), (2 ^ 60 + 2, []), (2 ^ 60 + 3, [])] }
/-- What its MBINIT sees. -/
def initCtx (parties : FMap Agent) : Ctx' := ctxOf .mbinit initFields (lenOf initFields) (initState parties) 1 initThread
/-- The thread alone. -/
def oneParty : FMap Agent := [(1, initThread)]
/-- A key stands twice: `agent?` finds the party with uid 2 at key 0, and `agentOf` the entry behind it, which has the uid of the thread at key 1. -/
def twoNamedAlike : FMap Agent := [(0, { initThread with uid := 2 }), (0, initThread), (1, initThread)]

/-- The thread may operate on the object, whatever other parties there are that do not wait. -/
theorem initCtx_atObject {parties : FMap Agent} (h : ∀ p ∈ parties, p.2.wait = .none) : (initCtx parties).AtObject (upFrom 0 16) := by
  have htags : (wordsOfLocs (upFrom 0 16)).all (fun x => (fget? (initState []).tags x).isSome) = true := by decide +kernel
  refine ⟨⟨⟨rfl, rfl⟩, by decide, rfl, fun x hx => .inl (List.all_eq_true.mp htags x hx), rfl, fun j a ha p n => ?_⟩, rfl, rfl⟩
  rw [h (j, a) ha]
  nofun
/-- The clauses about objects are about something: the thread alone passes its checks, and its state is one where they hold. -/
theorem oneParty_meets : Clear .mbinit initFields (initState oneParty) 1 initThread ∧ (initCtx oneParty).AtOrdered (upFrom 0 16) :=
  ⟨by constructor <;> decide, initCtx_atObject (by decide), rfl⟩
theorem twoNamedAlike_clear : Clear .mbinit initFields (initState twoNamedAlike) 1 initThread := by constructor <;> decide
/-- The MBINIT notes its access with the party of its uid: the thread's double takes the first place of key 0. -/
theorem twoNamedAlike_moves : ∃ u, exec (.mbinit initFields) (initState twoNamedAlike) = .next u ∧ (agent? u 0).map (·.uid) = some 1 :=
  ⟨_, rfl, by decide +kernel⟩
/-- So another party does not stay as it was. -/
theorem not_objectClauses : ¬ ObjectClauses Ctx'.AtObject := by
  intro h
  obtain ⟨hinit, -⟩ := h (upFrom 0 16)
  obtain ⟨u, b, hu, -, -, hothers, -⟩ := hinit initFields (initState twoNamedAlike) 1 initThread twoNamedAlike_clear
    ⟨initCtx_atObject (by decide), by decide⟩
  obtain ⟨v, hv, huid⟩ := twoNamedAlike_moves
  cases hu.symm.trans hv
  have hkept : (agent? u 0).map (fun a => (a.core, a.pc)) = some (({ initThread with uid := 2 } : Agent).core, initThread.pc) :=
    hothers 0 (by decide)
  obtain ⟨n, hn, hcore⟩ := Option.map_eq_some_iff.mp hkept
  have hsame : n.core.uid = 2 := congrArg (fun p => p.1.uid) hcore
  rw [hn] at huid
  exact absurd ((Option.some.inj huid).symm.trans hsame) (by decide)

/-- Refutes O39: every operation on an object is noted with its party, which `noteOrder` looks up by its uid and writes back under its key. In
`twoNamedAlike` the list of parties has a key twice, so that an MBINIT of one party overwrites another, where the statement has the others stay. (The
statement is about every state; whether a run reaches this one is not claimed.) Nothing else of it fails: the clauses about the group barrier hold
in every state, and those about objects where the keys of the list of parties rise, as `groupBarrierClauses` and `objectClauses_ordered` say. -/
theorem not_barriers : ¬ Obligations.Barriers := fun h => not_objectClauses (barriers_iff.mp h).2

end Sys2Proof.Machine
end

section
/-!
PROOF. Signals (R240, R250, R251): their checks, QSIG and QWAIT.
-/
namespace Sys2Proof.Machine

/-! ### A release with nothing outstanding (R213) -/

section
variable {s : State} {c : Ctx'} {k order scope : Nat} {a : Agent}

theorem sendMarkers_unrelaxed (hhere : agent? s k = some a) (hrelaxed : a.relaxed = []) : sendMarkers s k order scope = s := by
  unfold sendMarkers
  rw [hhere]
  simp only [hrelaxed, List.foldl_nil]
  rw [← hrelaxed]
  exact congrArg (fun m => { s with agents := m }) (fput_fget? hhere)
/-- A release of a party with nothing outstanding ends its region. -/
theorem releasing_settled {g : State → Agent → Go} (hthere : agent? c.s c.k = some a) (hrelaxed : a.relaxed = [])
    (hperformed : allPerformed c.s c.a.uid = true) : releasing c g = g (putAgent c.s c.k a.endRegion) a.endRegion := by
  unfold releasing
  rw [sendMarkers_unrelaxed hthere hrelaxed]
  dsimp only
  rw [hperformed, hthere]
  rfl

end

/-! ### The checks of a signal (R240) -/

/-- A signal that passes its checks has marked its leaf, and no more. -/
theorem checkSignal_marked {s u : State} {k va : Nat} {a : Agent} (h : checkSignal s k a va = .ok u) : Marked s u := by
  have hloc := locate_marked s (placeOf k a) a.tasid va .load 1
  unfold checkSignal at h
  split at h
  · cases h
  · split at h
    next hat =>
      rw [hat] at hloc
      split at h
      · cases h
      · cases h; exact hloc
    · cases h
    · cases h; exact Marked.refl s
    · cases h; exact Marked.refl s
    · cases h
theorem checkSignal_misaligned {s : State} {k va : Nat} {a : Agent} (h : va % 8 ≠ 0) : checkSignal s k a va = .bad .misaligned :=
  if_pos (bne_iff_ne.mpr h)

/-! ### QSIG (R250) -/

section
variable {c : Ctx'}

theorem bodyQsig_bad {code : FCode} (h : checkSignal c.s c.k c.a c.va = .bad code) :
    bodyQsig c = .freeze c.s code { addr := BitVec.ofNat 64 c.va } := by
  unfold bodyQsig
  rw [h]
/-- The addition of a QSIG. -/
def sigAccess (c : Ctx') : Access := { addAccess c.va c.vb with pc := c.a.pc }
theorem bodyQsig_settled (hhere : agent? c.s c.k = some c.a) (hsettled : Settled c) (hok : ∀ e, checkSignal c.s c.k c.a c.va ≠ .bad e) :
    bodyQsig c = .next (endRegion (issueReq c.s c.k c.a (sigAccess c)) c.k) := by
  obtain ⟨hrelaxed, hperformed⟩ := hsettled
  unfold bodyQsig
  split
  next code hbad => exact absurd hbad (hok code)
  next =>
    rw [sendMarkers_unrelaxed hhere hrelaxed]
    dsimp only
    rw [hperformed, hhere]
    rfl
theorem issueReq_only (s : State) (k : Nat) (a : Agent) (acc : Access) : Only [.ids, .reqs] s (issueReq s k a acc) := by
  intro p hp
  cases p <;> simp_all [Same, issueReq, freshId, group?, ctx?]
theorem qsig_requests : Does .qsig .qsig (fun c => Settled c ∧ ∀ e, checkSignal c.s c.k c.a c.va ≠ .bad e) [.ids, .reqs] fun c u b =>
    Requested c u b .none (fun q => q = sigAccess c) ∧ c.a.region < b.region := by
  intro f s k a h c ⟨hsettled, hok⟩
  have hthere : agent? (issueReq s k a (sigAccess c)) k = some { a with seq := a.seq + 1 } := (issueReq_spec s k a _).1
  have hend : agent? (endRegion (issueReq s k a (sigAccess c)) k) k = some { a with seq := a.seq + 1 }.endRegion :=
    (agent?_modAgent_same ..).trans (congrArg (Option.map _) hthere)
  refine moves_settle_region ((issueL_clear h bodyQsig).trans (by rw [bodyQsig_settled (c := c) h.here hsettled hok]; rfl)) hend rfl
    ((issueReq_only s k a _).trans (Only.modAgent _ _ _).of_nil) ((issueReq_spec s k a _).2.2.1.trans (Others.modAgent _ _ _)) fun u b hu hb hregion => ⟨?_, hregion⟩
  exact requested_issueReq (c := c) (q := fun q => q = sigAccess c) (n := 0) rfl rfl ((Only.modAgent _ k Agent.endRegion).trans hu) hb

end

/-! ### QWAIT (R251) -/

/-- A party whose QWAIT has found its signal: the predicate is true, and what the signal's releases say is acquired. -/
def Agent.signalled (a : Agent) (n : Nat) (clk : Clock) : Agent := { (a.setP n true).acquire clk with inst := none }

theorem signalled_rest (a : Agent) (n : Nat) (clk : Clock) : ∃ p q t clk', a.signalled n clk =
    { a with preds := p, pfull := q, ppoison := t, clk := clk', inst := none } := by
  obtain ⟨p, q, t, e⟩ := setP_rest a n true
  exact ⟨p, q, t, _, by unfold Agent.signalled; rw [e]; rfl⟩
theorem signalled_wrote {a b : Agent} {n : Nat} {clk : Clock} (hb : b.core = (a.signalled n clk).core) :
    WroteP a b n true ∧ SameV a b ∧ SameX a b ∧ b.fl = a.fl ∧ b.inst = none := by
  obtain ⟨p, q, t, clk', e⟩ := signalled_rest a n clk
  have hwrote : WroteP a (a.signalled n clk) n true := wroteP_setP a n true
  refine ⟨core_wroteP hb hwrote, core_sameV hb ?_, core_sameX hb ?_, (core_fl hb).trans ?_, (congrArg Agent.inst hb :)⟩
  · rw [e]; exact fun _ => rfl
  · rw [e]; exact fun _ => rfl
  · rw [e]

section
variable {c : Ctx'}

theorem bodyQwait_woken (hhere : agent? c.s c.k = some c.a) (hinst : c.a.inst.isSome = true) : ∃ clk,
    bodyQwait c = .next (putAgent c.s c.k (c.a.signalled c.f.dst.toNat clk)) :=
  ⟨_, (if_pos hinst).trans (congrArg Go.next (modAgent_some hhere _))⟩
theorem bodyQwait_pending {d : Delivery} {t : List Delivery} (hinst : c.a.inst = none) (hpending : c.a.pending = d :: t) :
    bodyQwait c = .freeze (putAgent c.s c.k { c.a with pending := t }) d.code { qid := d.qid, entry := d.entry, x0 := d.x0, other := true } := by
  unfold bodyQwait delivering
  rw [hinst, hpending]
  rfl

section
variable {e : State} (hhere : agent? c.s c.k = some c.a) (hinst : c.a.inst = none) (hpending : c.a.pending = [])
  (hcheck : checkSignal c.s c.k c.a c.va = .ok e)
include hhere hinst hpending hcheck

theorem bodyQwait_reached (hreached : sigReached e c.a.tasid (BitVec.ofNat 64 c.va) c.vb = true) : ∃ clk,
    bodyQwait c = .next (putAgent e c.k (c.a.endRegion.signalled c.f.dst.toNat clk)) := by
  have hthere := ((checkSignal_marked hcheck).agent? c.k).trans hhere
  refine ⟨signalClock (putAgent e c.k c.a.endRegion) c.a.tasid (BitVec.ofNat 64 c.va) (placeOf c.k c.a), ?_⟩
  unfold bodyQwait delivering
  simp only [hinst, hpending, hcheck, hreached, Option.isSome_none, Bool.false_eq_true, if_false, if_true]
  rw [endRegion, modAgent_some hthere, modAgent_some (agent?_putAgent_same ..), putAgent_putAgent]
  rfl
theorem bodyQwait_unreached (hreached : sigReached e c.a.tasid (BitVec.ofNat 64 c.va) c.vb = false) :
    bodyQwait c = .wait (putAgent e c.k { c.a.endRegion with inst := some (.qwait, c.f, c.len) })
      (.signal (BitVec.ofNat 64 c.va) (BitVec.ofNat 64 c.vb) (modBits c.f.mod 7 0)) := by
  have hthere := ((checkSignal_marked hcheck).agent? c.k).trans hhere
  unfold bodyQwait delivering
  simp only [hinst, hpending, hcheck, hreached, Option.isSome_none, Bool.false_eq_true, if_false]
  rw [modAgent_some hthere]
  rfl

end

end

theorem qwait_completes : Does .qwait .qwait (fun c => c.a.inst = none ∧ c.a.pending = [] ∧ ∃ e, checkSignal c.s c.k c.a c.va = .ok e ∧
      sigReached e c.a.tasid (BitVec.ofNat 64 c.va) c.vb = true) [.mem, .bases] fun c u b =>
    (∀ e, checkSignal c.s c.k c.a c.va = .ok e → u.mem = e.mem ∧ u.bases = e.bases) ∧
    WroteP c.a b c.f.dst.toNat true ∧ SameV c.a b ∧ SameX c.a b ∧ b.fl = c.a.fl ∧ c.a.region < b.region := by
  intro f s k a h c ⟨hinst, hpending, e, hcheck, hreached⟩
  obtain ⟨clk, hbody⟩ := bodyQwait_reached (c := c) h.here hinst hpending hcheck hreached
  have hmarked := checkSignal_marked hcheck
  obtain ⟨p, q, t, clk', hrest⟩ := signalled_rest a.endRegion f.dst.toNat clk
  refine moves_settle_region ((issueL_clear h bodyQwait).trans (by rw [hbody]; rfl)) (agent?_putAgent_same ..) (congrArg Agent.blk hrest :)
    (hmarked.only.trans (Only.putAgent _ _ _).of_nil) ((hmarked.others _).trans (Others.putAgent _ _ _)) fun u b hu hb hregion => ⟨fun e' he' => ?_, ?_⟩
  · cases hcheck.symm.trans he'
    exact ⟨hu .mem (by simp), hu .bases (by simp)⟩
  · obtain ⟨hp, hv, hx, hfl, -⟩ := signalled_wrote hb
    exact ⟨hp, hv, hx, hfl, Nat.lt_of_lt_of_le (by rw [hrest]; exact Nat.lt_succ_self _) hregion⟩
theorem qwait_woken : Does .qwait .qwait (fun c => c.a.inst.isSome = true) [] fun c _ b =>
    WroteP c.a b c.f.dst.toNat true ∧ SameV c.a b ∧ SameX c.a b ∧ b.fl = c.a.fl ∧ b.inst = none :=
  doesL bodyQwait (fun _ _ => rfl) fun c hhere hinst => by
    obtain ⟨clk, hbody⟩ := bodyQwait_woken hhere hinst
    obtain ⟨p, q, t, clk', hrest⟩ := signalled_rest c.a c.f.dst.toNat clk
    exact ⟨_, _, hbody, agent?_putAgent_same .., by rw [hrest], Only.putAgent _ _ _, Others.putAgent _ _ _, fun u b _ hb => signalled_wrote hb⟩

section
variable {c : Ctx'} {out : Out} (hout : out = .next (settle c.k c.a c.len (bodyQwait c))) (hinst : c.a.inst = none)
include hout hinst

/-- A QWAIT whose signal has not reached its threshold: the region has ended, and the party waits for the signal. -/
theorem qwait_waits {e : State} (hhere : agent? c.s c.k = some c.a) (hpending : c.a.pending = []) (hcheck : checkSignal c.s c.k c.a c.va = .ok e)
    (hreached : sigReached e c.a.tasid (BitVec.ofNat 64 c.va) c.vb = false) : out = .next (putAgent e c.k { c.a with
      region := c.a.region + 1, inst := some (.qwait, c.f, c.len), wait := .signal (BitVec.ofNat 64 c.va) (BitVec.ofNat 64 c.vb) (modBits c.f.mod 7 0)
      age := 0, urgent := false }) := by
  rw [hout, bodyQwait_unreached hhere hinst hpending hcheck hreached, settle, modAgent_some (agent?_putAgent_same _ _ _), putAgent_putAgent]
  rfl
/-- The oldest pending delivery comes before any effect of a QWAIT (R239). -/
theorem qwait_delivers {d : Delivery} {t : List Delivery} (hpending : c.a.pending = d :: t) :
    Faults { c with a := { c.a with pending := t } } out d.code { qid := d.qid, entry := d.entry, x0 := d.x0, other := true } := by
  rw [hout, bodyQwait_pending hinst hpending, settle]
  simp only [Bool.false_eq_true, if_false]
  rw [modAgent_some (agent?_putAgent_same _ _ _), putAgent_putAgent]
  rfl

end

/-- Settles O41, instruction by instruction. -/
theorem signals : Obligations.Signals := by
  unfold Obligations.Signals
  refine ⟨⟨qsig_requests, qwait_completes, qwait_woken, fun f s k a h => ?_, fun f s k a h => ?_, fun s k a va => checkSignal_misaligned⟩,
    fun f s k a d t h hinst => ?_⟩
  · intro c hinst hpending e
    exact qwait_waits (c := c) (issueL_clear h bodyQwait) hinst h.here hpending
  · intro c e hbad
    exact h.faults (i := .qsig) (body := bodyQsig) (fun _ _ => rfl) (bodyQsig_bad hbad) rfl
  · exact qwait_delivers (c := ctxOf .qwait f (lenOf f) s k a) (issueL_clear h bodyQwait) hinst

end Sys2Proof.Machine
end

section
/-!
PROOF. QFENCE, TRIG and TRDY (R252 to R254).
-/
namespace Sys2Proof.Machine

/-! ### What the device reads does not change as an instruction completes -/

/-- What a read of the device looks at: contexts `c`, translations, memory, and the registers of the MMIO window. -/
def State.readable (s : State) (c : FMap Ctx) : State :=
  { State.reset with package := s.package, mem := s.mem, queues := s.queues, ctxs := c, ctxGone := s.ctxGone, bases := s.bases, dies := s.dies, host := s.host }

theorem deviceRead_readable (s : State) (asid va n : Nat) : deviceRead (s.readable s.ctxs) asid va n = deviceRead s asid va n := rfl
theorem Only.readable {s u : State} (h : Only [] s u) (c : FMap Ctx) : u.readable c = s.readable c := by
  obtain ⟨-, -, -, -, hpackage⟩ := h .sched (by simp)
  unfold State.readable
  rw [hpackage, h .mem (by simp), h .queues (by simp), h .gone (by simp), h .bases (by simp), h .dies (by simp), h .host (by simp)]

section
variable {s : State} {c : FMap Ctx} (h : ∀ n, (fget? c n).map Ctx.fixed = (ctx? s n).map Ctx.fixed)
include h

/-- A context with another frozen queue is the same to whoever asks for its fields. -/
theorem ctx_cases (n : Nat) : (fget? c n = none ∧ ctx? s n = none) ∨ ∃ x q p, ctx? s n = some x ∧ fget? c n = some { x with fq := q, parked := p } := by
  have hctx := h n
  cases hx : ctx? s n with
  | none =>
    rw [hx] at hctx
    exact .inl ⟨Option.map_eq_none_iff.mp hctx, rfl⟩
  | some x =>
    rw [hx] at hctx
    obtain ⟨y, hy, hfixed⟩ := Option.map_eq_some_iff.mp hctx
    have hrest : y = { y.fixed with fq := y.fq, parked := y.parked } := rfl
    exact .inr ⟨x, y.fq, y.parked, rfl, hy.trans (congrArg some (hrest.trans (by rw [hfixed]; rfl)))⟩
theorem classify_fixed (asid va : Nat) : classify { s with ctxs := c } asid va = classify s asid va := by
  have hread : ctx? { s with ctxs := c } asid = fget? c asid := rfl
  unfold classify
  rw [hread]
  obtain ⟨hnew, hold⟩ | ⟨x, q, p, hold, hnew⟩ := ctx_cases h asid
  · rw [hnew, hold]
  · rw [hnew, hold]; rfl
theorem ctxstat_fixed (n : Nat) : ctxstat { s with ctxs := c } n = ctxstat s n := by
  have hread : ctx? { s with ctxs := c } n = fget? c n := rfl
  unfold ctxstat
  rw [hread]
  obtain ⟨hnew, hold⟩ | ⟨x, q, p, hold, hnew⟩ := ctx_cases h n <;> rw [hnew, hold]
theorem deviceLoc_fixed (asid va : Nat) : deviceLoc { s with ctxs := c } asid va = deviceLoc s asid va := by
  have hlogged : logged { s with ctxs := c } = logged s := by
    funext asid ad lo size
    unfold logged
    simp only [classify_fixed h]
    rfl
  unfold deviceLoc
  rw [classify_fixed h, hlogged]
  rfl
theorem readPhys_fixed (pa n : Nat) : readPhys { s with ctxs := c } pa n = readPhys s pa n := by
  have hreg : mmioReg { s with ctxs := c } = mmioReg s := by
    funext st o
    unfold mmioReg
    rw [ctxstat_fixed h]
    rfl
  unfold readPhys mmioRead
  rw [hreg]
theorem deviceRead_fixed (asid va n : Nat) : deviceRead { s with ctxs := c } asid va n = deviceRead s asid va n := by
  unfold deviceRead devicePa
  rw [deviceLoc_fixed h]
  exact congrArg (Option.map · _) (funext fun pa => readPhys_fixed h pa n)

end

/-- A signal has reached its threshold, or has not, whatever completing changes. -/
theorem Only.sigReached {s u : State} (h : Only [] s u) (asid : Nat) (va : DWord) (thr : Nat) : sigReached u asid va thr = sigReached s asid va thr := by
  unfold Machine.sigReached
  rw [← deviceRead_readable u, h.readable, ← deviceRead_readable s]
  exact congrArg (Option.any _) (deviceRead_fixed (s := s.readable s.ctxs) (h .ctxs (by simp)) ..)

/-! ### TRIG (R253) -/

/-- A trigger after its home has tested it (R241). -/
def Trig.tested (s : State) (t : Trig) : Trig :=
  if t.state == .armed && sigReached s t.tasid t.signal t.thr.toNat then { t with state := .fired } else t
theorem noteUpdates_trigs (s : State) : (noteUpdates s).trigs = s.trigs.map (Trig.tested s) := by
  unfold noteUpdates
  cases htrigs : s.trigs with
  | nil => simp only [List.isEmpty_nil, if_true, List.map_nil]; split <;> exact htrigs
  | cons t l => simp only [List.isEmpty_cons, Bool.false_eq_true, if_false]; split <;> rfl

/-- The trigger that a TRIG arms at a home for a queue. -/
def armed (c : Ctx') (home qk : Nat) : Trig :=
  { id := c.s.nextId, asid := c.a.asid, tasid := c.a.tasid, home := home, signal := BitVec.ofNat 64 c.va, thr := BitVec.ofNat 64 c.vb,
    image := BitVec.ofNat 64 c.vc, q := qk, issuer := some (c.k, c.a.uid), group := if c.a.kind = .thread then some c.a.group else none }
/-- The state once a TRIG's signal has passed its checks. -/
def sigChecked (c : Ctx') : State := match checkSignal c.s c.k c.a c.va with | .ok e => e | _ => c.s
/-- The state with a TRIG's trigger armed, before its home tests it. -/
def trigArmed (c : Ctx') (home qk : Nat) : State :=
  { sigChecked c with nextId := c.s.nextId + 1, trigs := c.s.trigs ++ [armed c home qk] }

section
variable {c : Ctx'} {home qk : Nat}

theorem armed_tested (s : State) : (armed c home qk).tested s = { armed c home qk with
    state := if sigReached s c.a.tasid (BitVec.ofNat 64 c.va) (BitVec.ofNat 64 c.vb).toNat = true then .fired else .armed } := by
  cases h : sigReached s c.a.tasid (BitVec.ofNat 64 c.va) (BitVec.ofNat 64 c.vb).toNat
  · exact if_neg (ne_true_of_eq_false h)
  · exact if_pos h

theorem sigChecked_marked (c : Ctx') : Marked c.s (sigChecked c) := by
  unfold sigChecked
  split
  next e h => exact checkSignal_marked h
  next => exact .refl _
theorem bodyTrig_arms {ad : Addr} (hqueue : queueOf c.s c.a (modBits c.f.mod 5 0) = some qk) (hok : ∀ e, checkSignal c.s c.k c.a c.va ≠ .bad e)
    (hclass : classify c.s c.a.tasid c.va = some ad) (halign : c.vc % 64 = 0) (hroom : (c.s.trigs.filter fun t => t.home == ad.home).length < 1024) :
    bodyTrig c = .next (noteUpdates (trigArmed c ad.home qk)) := by
  have hqueue' : queueOf c.s c.a (modBits c.mod 5 0) = some qk := hqueue
  have hmarked := sigChecked_marked c
  unfold bodyTrig trigArmed armed
  rw [hqueue']
  unfold sigChecked at *
  cases hcheck : checkSignal c.s c.k c.a c.va with
  | bad e => exact absurd hcheck (hok e)
  | ok e =>
    rw [hcheck] at hmarked
    obtain ⟨m, b, rfl⟩ := hmarked
    simp only [hclass, halign, Option.elim_some, bne_self_eq_false, Bool.false_eq_true, if_false, freshId, beq_iff_eq]
    exact if_neg (Nat.not_le.mpr hroom)
  | absent =>
    simp only [hclass, halign, Option.elim_some, bne_self_eq_false, Bool.false_eq_true, if_false, freshId, beq_iff_eq]
    exact if_neg (Nat.not_le.mpr hroom)

/-- What TRIG leaves, but for its home's test. -/
theorem trigArmed_spec (c : Ctx') (home qk : Nat) : Only [.ids, .trigs, .mem, .bases] c.s (trigArmed c home qk) ∧
    (∀ j, agent? (trigArmed c home qk) j = agent? c.s j) := by
  obtain ⟨m, b, h⟩ := sigChecked_marked c
  unfold trigArmed
  rw [h]
  refine ⟨fun p hp => ?_, fun j => rfl⟩
  cases p <;> simp_all [Same, group?, ctx?]

theorem trig_arms (qk : Nat) (ad : Addr) : Does .trig .trig (fun c => queueOf c.s c.a (modBits c.f.mod 5 0) = some qk ∧
      (∀ e, checkSignal c.s c.k c.a c.va ≠ .bad e) ∧ classify c.s c.a.tasid c.va = some ad ∧ c.vc % 64 = 0 ∧
      (c.s.trigs.filter fun t => t.home == ad.home).length < 1024) [.ids, .trigs, .mem, .bases] fun c u b =>
    b.core = c.a.core ∧ u.trigs.length = c.s.trigs.length + 1 ∧ (u.mem = (sigChecked c).mem ∧ u.bases = (sigChecked c).bases) ∧
    { armed c ad.home qk with state := if sigReached u c.a.tasid (BitVec.ofNat 64 c.va) (BitVec.ofNat 64 c.vb).toNat = true then .fired else .armed } ∈
      u.trigs := by
  refine doesL bodyTrig (fun _ _ => rfl) fun c hhere ⟨hqueue, hok, hclass, halign, hroom⟩ => ?_
  obtain ⟨honly, hagents⟩ := trigArmed_spec c ad.home qk
  obtain ⟨w, tr, hlooked⟩ := noteUpdates_looked (trigArmed c ad.home qk)
  have htrigs := noteUpdates_trigs (trigArmed c ad.home qk)
  have hbody := bodyTrig_arms hqueue hok hclass halign hroom
  rw [hlooked] at hbody htrigs
  have hthere := (agent?_looked (trigArmed c ad.home qk) w tr c.k).trans (congrArg (Option.map _) ((hagents c.k).trans hhere))
  refine ⟨_, _, hbody, hthere, rfl, honly.trans ((Only.looked _ _ _).mono (by simp)),
    (Others.of_eq fun j _ => hagents j).trans (Others.looked _ _ _ _), fun u b hu hb => ?_⟩
  have hmap : u.trigs = (trigArmed c ad.home qk).trigs.map (Trig.tested (trigArmed c ad.home qk)) := Eq.trans (hu .trigs (by simp)) htrigs
  have hreached (asid : Nat) (va : DWord) (thr : Nat) : sigReached u asid va thr = sigReached (trigArmed c ad.home qk) asid va thr := hu.sigReached ..
  rw [hmap, hreached, ← armed_tested]
  refine ⟨hb, ?_, ⟨hu .mem (by simp), hu .bases (by simp)⟩, List.mem_map_of_mem (List.mem_append_right _ (List.mem_singleton_self _))⟩
  rw [List.length_map]
  exact List.length_append

end

/-! ### QFENCE (R252) -/

/-- A push to a queue that takes it; what the instruction had read is gone then. -/
theorem pushOr_room {c : Ctx'} {u : State} {qk img : Nat} {m : EntryMeta} {q : Queue} (hq : queue? u qk = some q) (hstate : q.state ≠ .disabled)
    (hroom : q.full = false) (read : Option Nat) : pushOr c u qk img m read =
      .next (if read.isSome then modAgent (pushEntry u qk img m) c.k fun a => { a with image := none } else pushEntry u qk img m) := by
  unfold pushOr
  rw [hq]
  simp only [beq_eq_false_iff_ne.mpr hstate, hroom, Bool.false_eq_true, if_false]
theorem disabled_eq_false {s : State} {qk : Nat} {q : Queue} (hq : queue? s qk = some q) (hstate : q.state ≠ .disabled) : disabled s qk = false := by
  unfold disabled
  rw [hq]
  exact beq_eq_false_iff_ne.mpr hstate

theorem qfence_pushes (qa qb : Nat) (q : Queue) : Does .qfence .qfence (fun c => queueOf c.s c.a (modBits c.f.mod 5 0) = some qa ∧
      queueOf c.s c.a (modBits c.f.mod 11 6) = some qb ∧ queue? c.s qa = some q ∧ q.state ≠ .disabled ∧ q.inPlace ∧ q.full = false)
      [.mem, .bases, .queues, .lines, .poison] fun c u b =>
    Pushed c.s u qa 0 { metaOf c.k c.a [] with marker := some (qb, if qa == qb then 0 else (queue? c.s qb).elim 0 (·.pushed)) } q ∧
    b.core = c.a.core := by
  refine doesL bodyQfence (fun _ _ => rfl) fun c hhere ⟨hqa, hqb, hq, hstate, hplace, hroom⟩ => ?_
  obtain ⟨hpushed, honly, hagents⟩ := pushEntry_spec hq hplace 0
    { metaOf c.k c.a [] with marker := some (qb, if qa == qb then 0 else (queue? c.s qb).elim 0 (·.pushed)) }
  have hqa' : queueOf c.s c.a (modBits c.mod 5 0) = some qa := hqa
  have hqb' : queueOf c.s c.a (modBits c.mod 11 6) = some qb := hqb
  refine ⟨_, c.a, ?_, (hagents c.k).trans hhere, rfl, honly, Others.of_eq fun j _ => hagents j, fun u b hu hb =>
    ⟨hpushed.later (hu .mem (by simp)) (hu .queues (by simp)), hb⟩⟩
  unfold bodyQfence
  rw [hqa', hqb']
  exact (if_neg (by simp [disabled_eq_false hq hstate])).trans (pushOr_room hq hstate hroom none)

/-! ### TRDY (R254) -/

/-- A cluster set with token n counted, its adding released with `clk`. -/
def CSet.counted (cs : CSet) (n : Nat) (clk : Clock) : CSet :=
  let v := (fgetD cs.toks n 0 + 1) % 65536
  { cs with toks := fput cs.toks n v, adds := cs.adds ++ [{ tok := n, count := v, clk := clk }] }

theorem addToken_counts {s : State} {ck : Nat} {cs : CSet} (hset : cset? s ck = some cs) (hretired : cs.retired = false) (n : Nat) (clk : Clock) :
    addToken s ck n clk = putCSet s ck (cs.counted n clk) := by
  unfold addToken
  rw [hset]
  exact if_neg (by simp [hretired])
theorem bodyTrdy_counts {c : Ctx'} {ck : Nat} {cs : CSet} (hhere : agent? c.s c.k = some c.a) (hsettled : Settled c) (hn : c.vb % 2 ^ 32 < 64)
    (hkey : csetKey c.s c.a = some ck) (hset : cset? c.s ck = some cs) (hretired : cs.retired = false) :
    bodyTrdy c = .next (putCSet (putAgent c.s c.k c.a.endRegion) ck (cs.counted (c.vb % 2 ^ 32) c.a.endRegion.relClk)) := by
  obtain ⟨hrelaxed, hperformed⟩ := hsettled
  have hkey' : csetKey (putAgent c.s c.k c.a.endRegion) c.a.endRegion = some ck := hkey
  unfold bodyTrdy
  rw [releasing_settled hhere hrelaxed hperformed]
  rw [hkey']
  exact (if_neg (Nat.not_le.mpr hn)).trans (congrArg Go.next (addToken_counts (s := putAgent c.s c.k c.a.endRegion) hset hretired ..))
theorem putCSet_only (s : State) (ck : Nat) (cs : CSet) : Only [.csets] s (putCSet s ck cs) := by
  intro p hp
  cases p <;> simp_all [Same, putCSet, group?, ctx?]
theorem trdy_counts (ck : Nat) (cs : CSet) : Does .trdy .trdy (fun c => c.vb % 2 ^ 32 < 64 ∧ Settled c ∧ csetKey c.s c.a = some ck ∧
      cset? c.s ck = some cs ∧ cs.retired = false) [.csets] fun c u b =>
    cset? u ck = some (cs.counted (c.vb % 2 ^ 32) (fput c.a.clk c.a.uid (c.a.region + 1))) ∧
    (∀ j, j ≠ ck → cset? u j = cset? c.s j) ∧ Kept c.a b ∧ c.a.region < b.region := by
  intro f s k a h c ⟨hn, hsettled, hkey, hset, hretired⟩
  have hbody := bodyTrdy_counts (c := c) h.here hsettled hn hkey hset hretired
  have hthere : agent? (putCSet (putAgent s k a.endRegion) ck (cs.counted (c.vb % 2 ^ 32) a.endRegion.relClk)) k = some a.endRegion :=
    agent?_putAgent_same ..
  refine moves_settle_region ((issueL_clear h bodyTrdy).trans (by rw [hbody]; rfl)) hthere rfl
    ((Only.putAgent s k a.endRegion).of_nil.trans (putCSet_only _ _ _)) (Others.putAgent _ _ _) fun u b hu hb hregion =>
    ⟨?_, fun j hj => ?_, hb, Nat.lt_of_lt_of_le (Nat.lt_succ_self _) hregion⟩
  · exact (congrArg (fget? · ck) (hu .csets (by simp))).trans (fget?_fput_same _ _ _)
  · exact (congrArg (fget? · j) (hu .csets (by simp))).trans (fget?_fput_ne _ _ hj)

/-- Settles O42, instruction by instruction. -/
theorem fencesTriggersTokens : Obligations.FencesTriggersTokens := by
  unfold Obligations.FencesTriggersTokens
  refine ⟨fun qa qb q f s k a h => ?_, fun qk ad f s k a h => ?_, trdy_counts⟩
  · intro c hH
    refine (qfence_pushes qa qb q f s k a h hH).imp fun u b _ ⟨hpushed, hcore⟩ => ⟨?_, hcore⟩
    rw [metaOf_eq] at hpushed
    simp only [beq_iff_eq] at hpushed
    cases hqb : queue? c.s qb <;> rw [hqb] at hpushed <;> exact hpushed
  · intro c hH
    refine (trig_arms qk ad f s k a h hH).imp fun u b _ ⟨hcore, hlength, hsignal, hmem⟩ => ⟨hcore, hlength, ?_, _, hmem, ?_⟩
    · unfold sigChecked at hsignal
      cases hcheck : checkSignal c.s c.k c.a c.va <;> rw [hcheck] at hsignal <;> exact hsignal
    · exact ⟨rfl, rfl, rfl, rfl, rfl, rfl, rfl, rfl, rfl, rfl⟩

end Sys2Proof.Machine
end

section
/-!
PROOF. CPY and CPYT (R243, R247 to R249).
-/
namespace Sys2Proof.Machine

/-! ### A push does not look at the parties -/

/-- The state with other parties. -/
def State.among (s : State) (ag : FMap Agent) : State := { s with agents := ag }

section
variable (s : State) (ag : FMap Agent)

theorem useLeaf_among (asid : Nat) (ad : Addr) (e ea size : Nat) (write : Bool) :
    (useLeaf (s.among ag) asid ad e ea size write).2 = (useLeaf s asid ad e ea size write).2.among ag := by
  unfold useLeaf
  dsimp only
  generalize ((e ||| (256 + if write then 128 else 0)) == e) = same
  cases same <;> rfl
theorem deviceUse_among (asid va : Nat) (write : Bool) : deviceUse (s.among ag) asid va write = (deviceUse s asid va write).among ag := by
  have hclass : classify (s.among ag) asid va = classify s asid va := rfl
  have hloc : deviceLoc (s.among ag) asid va = deviceLoc s asid va := rfl
  unfold deviceUse
  rw [hclass, hloc]
  split
  · exact useLeaf_among ..
  · rfl
theorem unpoison_among (pa n : Nat) : unpoison (s.among ag) pa n = (unpoison s pa n).among ag := by
  unfold unpoison State.among
  dsimp only
  split <;> rfl
theorem invalidateFor_among (pa : Nat) (but : Option Nat) : invalidateFor (s.among ag) pa but = (invalidateFor s pa but).among ag := by
  unfold invalidateFor State.among
  dsimp only
  split <;> rfl
theorem deviceLog_among (asid home va n v : Nat) : deviceLog (s.among ag) asid home va n v = (deviceLog s asid home va n v).among ag := by
  unfold deviceLog
  exact congrArg Prod.fst (List.foldl_hom (fun x : State × Nat => (x.1.among ag, x.2)) (init := (s, v)) fun _ _ => rfl)
theorem deviceWrite_among (asid va n v : Nat) : deviceWrite (s.among ag) asid va n v = (deviceWrite s asid va n v).among ag := by
  have hloc : deviceLoc (s.among ag) asid va = deviceLoc s asid va := rfl
  unfold deviceWrite
  rw [hloc]
  cases deviceLoc s asid va with
  | at_ pa e ea size =>
    dsimp only
    split
    · rfl
    · rw [deviceUse_among]
      exact (congrArg (invalidateFor · pa none) (unpoison_among { deviceUse s asid va true with mem := writeN (deviceUse s asid va true).mem pa v n } ag pa n)).trans
        (invalidateFor_among ..)
  | absent home => exact deviceLog_among ..
  | prot => rfl
  | poisoned pa => rfl

end

/-- A push among other parties is the same push. -/
theorem Pushed.of_among {s u : State} {ag : FMap Agent} {qk img : Nat} {m : EntryMeta} {q : Queue} (h : Pushed (s.among ag) u qk img m q) :
    Pushed s u qk img m q := by
  unfold Pushed at h
  simp only [deviceWrite_among] at h
  exact h

/-! ### The checks of a copy (R248) -/

/-- An endpoint's bytes lie in one scratchpad of the party's cluster set, where it is a scratchpad's. -/
def Ctx'.Spans (c : Ctx') (scr : Bool) (off n : Nat) : Prop :=
  scr = false ∨ n = 0 ∨ ∃ cs, csetOf c.s c.a = some cs ∧ off + n ≤ 2 ^ 32 ∧ (off + n - 1) / 2 ^ 20 = off / 2 ^ 20 ∧
    (scratchByte c.s cs (ownGroup c.s c.a) off).isSome ∧ (scratchByte c.s cs (ownGroup c.s c.a) (off + n - 1)).isSome
/-- The entry that a copy's image becomes. -/
def Ctx'.entry (c : Ctx') (img : Nat) : Nat := stampCopy c.s c.k (some c.a) img

/-- A copy's image passes the checks of CPY and CPYT (R248). -/
structure CopyPasses (c : Ctx') (img : Nat) : Prop where
  formed : copyMalformed (c.entry img) false = false
  source : c.Spans (bitN img 8) (bitsN img 159 128) (copySpan img (bitsN img 351 320))
  destination : c.Spans (bitN img 9) (bitsN img 223 192) (copySpan img (bitsN img 383 352))
  object : bitsN img 12 11 = 2 → c.Spans true (bitsN img 95 64) 16
  signal : bitsN img 12 11 = 1 → ∀ e, checkSignal c.s c.k c.a (bitsN (c.entry img) 127 64) ≠ .bad e
  aligned : bitsN img 12 11 = 2 → bitsN (c.entry img) 95 64 % 16 = 0
  token : bitsN img 12 11 = 3 → bitsN (c.entry img) 127 64 < 64

theorem pushCopy_passes {c : Ctx'} {img : Nat} (h : CopyPasses c img) (hable : disabled c.s (qkey c.a.asid (8 + modBits c.mod 1 0)) = false)
    (read : Option Nat) : pushCopy c img read =
      releasing { c with s := if read.isSome then modAgent c.s c.k fun a => { a with image := read } else c.s } fun s a =>
        pushOr { c with s := s } s (qkey c.a.asid (8 + modBits c.mod 1 0)) (c.entry img) (metaOf c.k a a.relClk) read := by
  obtain ⟨hformed, hsource, hdestination, hobject, hsignal, haligned, htoken⟩ := h
  unfold pushCopy
  extract_lets stamped qk comp cmpv fits
  have hfits (scr : Bool) (off n : Nat) (h : c.Spans scr off n) : (!fits scr off n) = false := by
    obtain rfl | rfl | ⟨cs, hcs, hend, hpart, hfirst, hlast⟩ := h
    · simp [fits]
    · simp [fits]
    · rw [Bool.not_eq_false']
      simp only [fits, hcs, hpart, hfirst, hlast, decide_eq_true hend, beq_self_eq_true, Bool.and_true, Bool.or_true]
  have hobject' : (comp == 2 && !fits true (bitsN img 95 64) 16) = false := by
    by_cases hc : comp = 2
    · rw [hfits _ _ _ (hobject hc), Bool.and_false]
    · rw [beq_eq_false_iff_ne.mpr hc, Bool.false_and]
  have hsignal' (e : FCode) : (if comp == 1 then checkSignal c.s c.k c.a cmpv else .ok c.s) ≠ .bad e := by
    by_cases hc : comp = 1
    · have hcmpv : cmpv = bitsN (c.entry img) 127 64 := by simp only [cmpv, hc]; rfl
      rw [if_pos (beq_iff_eq.mpr hc), hcmpv]
      exact hsignal hc e
    · rw [if_neg (by simpa using hc)]
      exact SigCheck.noConfusion
  have haligned' : (comp == 2 && cmpv % 16 != 0) = false := by
    by_cases hc : comp = 2
    · have hcmpv : cmpv = bitsN (c.entry img) 95 64 := by simp only [cmpv, hc]; rfl
      rw [hcmpv, haligned hc]
      exact Bool.and_false _
    · rw [beq_eq_false_iff_ne.mpr hc, Bool.false_and]
  have htoken' : (comp == 3 && decide (cmpv ≥ 64)) = false := by
    by_cases hc : comp = 3
    · have hcmpv : cmpv = bitsN (c.entry img) 127 64 := by simp only [cmpv, hc]; rfl
      rw [hcmpv, decide_eq_false (Nat.not_le.mpr (htoken hc)), Bool.and_false]
    · rw [beq_eq_false_iff_ne.mpr hc, Bool.false_and]
  have hformed' : copyMalformed stamped false = false := hformed
  rw [if_neg (ne_true_of_eq_false hformed'), if_neg (ne_true_of_eq_false (hfits _ _ _ hsource)),
    if_neg (ne_true_of_eq_false (hfits _ _ _ hdestination)), if_neg (ne_true_of_eq_false hobject')]
  split
  next e hbad => exact absurd hbad (hsignal' e)
  next =>
    rw [if_neg (ne_true_of_eq_false haligned'), if_neg (ne_true_of_eq_false htoken'), if_neg (ne_true_of_eq_false hable)]
    rfl

/-! ### The push of a copy (R249) -/

/-- A party that has pushed what it had read holds it no more. -/
def Agent.pushed (a : Agent) (read : Option Nat) : Agent := { a with image := if read.isSome then none else a.image }
theorem pushOr_pushes {c : Ctx'} {u : State} {qk img : Nat} {m : EntryMeta} {q : Queue} {b : Agent} (hthere : agent? u c.k = some b)
    (hq : queue? u qk = some q) (hstate : q.state ≠ .disabled) (hplace : q.inPlace) (hroom : q.full = false) (read : Option Nat) :
    ∃ t, pushOr c u qk img m read = .next t ∧ agent? t c.k = some (b.pushed read) ∧ Only [.mem, .bases, .queues, .lines, .poison] u t ∧
      Others [c.k] u t ∧ Pushed u t qk img m q := by
  obtain ⟨hpushed, honly, hagents⟩ := pushEntry_spec hq hplace img m
  have hback := (hagents c.k).trans hthere
  have hothers : Others [c.k] u (pushEntry u qk img m) := Others.of_eq fun j _ => hagents j
  rw [pushOr_room hq hstate hroom]
  cases read with
  | none => exact ⟨_, rfl, hback, honly, hothers, hpushed⟩
  | some x => exact ⟨_, congrArg Go.next (modAgent_some hback fun a => { a with image := none }), agent?_putAgent_same _ _ _,
      honly.trans (Only.putAgent _ _ _).of_nil, hothers.trans (Others.putAgent _ _ _), hpushed.later rfl rfl⟩

/-- What a copy's push says of its issuer, whose region it has ended. -/
def Ctx'.copyMeta (c : Ctx') : EntryMeta :=
  { issuer := some (c.k, c.a.uid), group := if c.a.kind = .thread then some c.a.group else none, clk := fput c.a.clk c.a.uid (c.a.region + 1) }

section
variable {c : Ctx'} {img n : Nat} {q : Queue} (hpasses : CopyPasses c img) (hthere : agent? c.s c.k = some { c.a with top := n }) (hsettled : Settled c)
  (hq : queue? c.s (qkey c.a.asid (8 + modBits c.mod 1 0)) = some q) (hstate : q.state ≠ .disabled) (hplace : q.inPlace) (hroom : q.full = false)
include hpasses hthere hsettled hq hstate hplace hroom

theorem pushCopy_pushes (read : Option Nat) : ∃ t, pushCopy c img read = .next t ∧
    agent? t c.k = some ({ c.a with top := n, image := if read.isSome then read else c.a.image }.endRegion.pushed read) ∧
    Only [.mem, .bases, .queues, .lines, .poison] c.s t ∧ Others [c.k] c.s t ∧
    Pushed c.s t (qkey c.a.asid (8 + modBits c.mod 1 0)) (c.entry img) c.copyMeta q := by
  let b : Agent := { c.a with top := n, image := if read.isSome then read else c.a.image }
  let s := putAgent c.s c.k b.endRegion
  obtain ⟨hrelaxed, hperformed⟩ := hsettled
  have hread : (if read.isSome then modAgent c.s c.k fun a => { a with image := read } else c.s) = putAgent c.s c.k b := by
    cases read with
    | none => exact (congrArg (fun m => { c.s with agents := m }) (fput_fget? hthere)).symm
    | some x => exact modAgent_some hthere _
  have hreleasing (g : State → Agent → Go) : releasing { c with s := putAgent c.s c.k b } g = g s b.endRegion :=
    (releasing_settled (c := { c with s := putAgent c.s c.k b }) (agent?_putAgent_same ..) hrelaxed hperformed).trans
      (congrArg (g · _) (putAgent_putAgent ..))
  rw [pushCopy_passes hpasses (disabled_eq_false hq hstate), hread, hreleasing, metaOf_eq]
  obtain ⟨t, ht, hback, honly, hothers, hpushed⟩ := pushOr_pushes (c := { c with s := s }) (u := s) (img := c.entry img) (m := c.copyMeta)
    (agent?_putAgent_same c.s c.k b.endRegion) hq hstate hplace hroom read
  exact ⟨t, ht, hback, (Only.putAgent c.s c.k b.endRegion).of_nil.trans honly, (Others.putAgent c.s c.k b.endRegion).trans hothers,
    Pushed.of_among (s := c.s) (ag := fput c.s.agents c.k b.endRegion) hpushed⟩
/-- A copy of a party with nothing outstanding is pushed, and the party goes on behind the instruction. -/
theorem copy_moves {out : Out} {read : Option Nat} (hout : out = .next (settle c.k c.a c.len (pushCopy c img read))) :
    Moves { c with a := { c.a with top := n } } out [.mem, .bases, .queues, .lines, .poison] fun u b =>
      Pushed c.s u (qkey c.a.asid (8 + modBits c.mod 1 0)) (c.entry img) c.copyMeta q ∧
      b.core = (if read.isSome then { c.a.core with image := none } else c.a.core) ∧ c.a.region < b.region := by
  obtain ⟨t, ht, hback, honly, hothers, hpushed⟩ := pushCopy_pushes hpasses hthere hsettled hq hstate hplace hroom read
  rw [ht] at hout
  obtain ⟨v, b, hv, hpassed, honly', hothers', hP⟩ := moves_settle_region (P := fun u b =>
      Pushed c.s u (qkey c.a.asid (8 + modBits c.mod 1 0)) (c.entry img) c.copyMeta q ∧
      b.core = (if read.isSome then { c.a.core with image := none } else c.a.core) ∧ c.a.region < b.region)
    hout hback rfl honly hothers fun v b hv hb hregion => ⟨hpushed.later (hv .mem (by simp)) (hv .queues (by simp)),
      hb.trans (by cases read <;> rfl), Nat.lt_of_lt_of_le (Nat.lt_succ_self _) hregion⟩
  exact ⟨v, b, hv, ⟨hpassed.here, hpassed.pc.trans (advance_pc (a := { c.a with top := n }) (c := c.a) rfl _ _), hpassed.wait⟩, honly', hothers', hP⟩

end

/-! ### CPY and CPYT -/

theorem bodyCpyt_read {c : Ctx'} {u : State} {e : Nat} (halign : c.va % 64 = 0) (hread : readOnce c c.va 64 = .inr (u, e)) : bodyCpyt c =
    pushCopy { c with s := u } (setBitsN (setBitsN (setBitsN e 12 11 (modBits c.mod 3 2)) 10 10 (modBits c.mod 6 6)) 127 64 c.compOp) (some e) := by
  unfold bodyCpyt
  rw [hread]
  exact if_neg (by simp [halign])
/-- A bit of an image, from a bit of MOD. -/
theorem flag_mul (b : Bool) (n : Nat) : (if b then 1 else 0) * n = if b then n else 0 := by cases b <;> simp

/-- Settles O40: both instructions push their image, which passes the checks. -/
theorem copyInstructions : Obligations.CopyInstructions := by
  unfold Obligations.CopyInstructions
  intro pushes comp flag
  have hpushes {c : Ctx'} {out : Out} {img n : Nat} {read : Option Nat} (hthere : agent? c.s c.k = some { c.a with top := n })
      (hout : out = .next (settle c.k c.a c.len (pushCopy c img read))) : pushes { c with a := { c.a with top := n } } out img read.isSome :=
    fun hformed hsource hdestination hobject hsignal haligned htoken hsettled q hq hstate hplace hroom =>
      copy_moves (c := c) ⟨hformed, hsource, hdestination, hobject, hsignal, haligned, htoken⟩ hthere hsettled hq hstate hplace hroom hout
  refine ⟨fun f s k a h => ?_, fun f s k a h => ?_⟩
  · intro c
    have hbody : bodyCpy c = pushCopy c (1 + flag f.mod 4 * 2 ^ 8 + flag f.mod 5 * 2 ^ 9 + flag f.mod 6 * 2 ^ 10 + modBits f.mod 3 2 * 2 ^ 11 +
      comp c * 2 ^ 64 + c.va * 2 ^ 128 + c.vb * 2 ^ 192 + c.vc % 2 ^ 32 * 2 ^ 256 + 2 ^ 288) := by
      simp only [flag, flag_mul]
      rfl
    exact hpushes (n := c.a.top) (read := none) h.here ((issueL_clear h bodyCpy).trans (by rw [hbody]; rfl))
  · intro c halign u e n hread hthere
    exact hpushes (c := { c with s := u }) (read := some e) hthere ((issueL_clear h bodyCpyt).trans (by rw [bodyCpyt_read (c := c) halign hread]; rfl))

end Sys2Proof.Machine
end

section
/-!
PROOF. The events of queues (R234 to R238, R241, R245, R252, R375).
-/
namespace Sys2Proof.Machine

/-! ### The start of an entry (R236) -/

theorem startHead_spec {s t : State} {qk : Nat} {q : Queue} {h : Head} (hstart : startHead s qk q = some (t, h)) :
    h.num = q.doneN ∧ deviceRead s q.asid (q.slotVa q.doneN) 64 = some h.img ∧ t.queues = fput s.queues qk { q with head := some h } := by
  unfold startHead at hstart
  cases hfetch : deviceFetch s q.asid (q.slotVa q.doneN) 64 with
  | none => rw [hfetch] at hstart; cases hstart
  | some p =>
    obtain ⟨img, u⟩ := p
    rw [hfetch] at hstart
    cases hstart
    obtain ⟨pa, hpa, hread⟩ := Option.map_eq_some_iff.mp hfetch
    cases hread
    obtain ⟨m, b, hmarked⟩ := deviceUse_marked s q.asid (q.slotVa q.doneN) false
    refine ⟨rfl, ?_, ?_⟩
    · unfold deviceRead
      rw [hpa]
      rfl
    · rw [hmarked]
      rfl

section
variable {s t : State} {qk : Nat} {q : Queue} {h : Head} (hq : queue? s qk = some q) (hstartable : startable s q = true) (hkind : q.kind ≠ 4)
  (hstart : startHead s qk q = some (t, h))
include hq hstartable hkind hstart

/-- An entry starts, and a copy is checked as it does. -/
theorem queueEntryStart_enters : Enters (exec (.queueEntryStart qk) s) (if q.kind == 1 && !(entMeta q h.num).marker.isSome then
    if copyMalformed h.img (entMeta q h.num).host then finishHead t qk 0x20 else if copyBoxes h.img == 0 then finishHead t qk 0 else t else t) := by
  change Enters (execQueueEntryStart qk s) _
  refine Enters.of_eq ?_
  rw [hq]
  dsimp only
  rw [if_neg (by simp [hstartable, hkind]), hstart]
theorem entryStart_enters (hother : q.kind ≠ 1 ∨ (entMeta q h.num).marker ≠ none) : Enters (exec (.queueEntryStart qk) s) t := by
  have henters := queueEntryStart_enters hq hstartable hkind hstart
  rwa [if_neg (by simpa [Option.isSome_iff_ne_none, Classical.or_iff_not_imp_left] using hother)] at henters
theorem copyStart_enters (hcopy : q.kind = 1) (hmarker : (entMeta q h.num).marker = none) : Enters (exec (.queueEntryStart qk) s)
    (if copyMalformed h.img (entMeta q h.num).host then finishHead t qk 0x20 else if copyBoxes h.img = 0 then finishHead t qk 0 else t) := by
  have henters := queueEntryStart_enters hq hstartable hkind hstart
  rw [if_pos (by simp [hcopy, hmarker])] at henters
  simpa only [beq_iff_eq] using henters

end

/-! ### The completion of an entry (R238, R375) -/

section
variable {s : State} {qk : Nat} {q : Queue} {h : Head} (hq : queue? s qk = some q) (hhead : q.head = some h) (hfinished : h.finished = true)
  (hrun : queuesRun s q.asid = true) (hstate : q.state ≠ .faulted) (hmarking : marking s h.who.uid = false)
include hq hhead hfinished hrun hstate hmarking

/-- A finished entry, of a queue that runs, whose marker fences are not out. -/
theorem entryCompletion_due : completeEntry qk s =
    if !h.homes.isEmpty then markHomes (modHead s qk fun h => { h with homes := [] }) h.who h.homes
    else match completionAction s q h with
      | .wait => s
      | .stop va => stopEntry s qk q h.num .sideLogFull va 1 0 (.entry qk h.num)
      | .done s code => (match queue? s qk with | some q => retireEntry s qk q h code | none => s) := by
  unfold completeEntry
  rw [hq]
  dsimp only
  rw [hhead]
  exact if_neg (by simp [hfinished, hrun, hstate, hmarking])
theorem entryCompletion_marks (hhomes : h.homes ≠ []) :
    Enters (exec (.entryCompletion qk) s) (markHomes (modHead s qk fun h => { h with homes := [] }) h.who h.homes) :=
  Enters.of_eq ((entryCompletion_due hq hhead hfinished hrun hstate hmarking).trans (if_pos (by simpa using hhomes)))
theorem entryCompletion_retires {t : State} {p : Queue} {code : Nat} (hhomes : h.homes = []) (haction : completionAction s q h = .done t code)
    (hp : queue? t qk = some p) : Enters (exec (.entryCompletion qk) s) (retireEntry t qk p h code) := by
  refine Enters.of_eq ((entryCompletion_due hq hhead hfinished hrun hstate hmarking).trans ((if_neg (by simp [hhomes])).trans ?_))
  rw [haction]
  dsimp only
  rw [hp]

end

/-! ### Triggers (R241) -/

section
variable {s : State} {id : Nat} {t : Trig} (hfind : s.trigs.find? (·.id == id) = some t)
include hfind

theorem triggerFire_enters (hstate : t.state = .fired) (hrun : queuesRun s t.asid = true) : Enters (exec (.triggerFire id) s) (fireTrig s t) := by
  change Enters (execTriggerFire id s) _
  refine Enters.of_eq ?_
  rw [hfind]
  exact if_pos (by unfold trigDue; rw [hstate, hrun]; rfl)
theorem triggerEntryPush_enters (hstate : t.state = .room) (hrun : queuesRun s t.asid = true) {q : Queue} (hq : queue? s t.q = some q)
    (hroom : q.full = false) (hable : q.state ≠ .disabled) : Enters (exec (.triggerEntryPush id) s) (pushTrig s t) := by
  change Enters (execTriggerEntryPush id s) _
  refine Enters.of_eq ?_
  rw [hfind]
  exact if_pos (by simp [roomDue, hstate, hrun, hq, hroom, hable])

end

/-- A trigger's entry, stamped with its issuer's cluster where it is a COPY or a run entry (R243, R382). -/
def Trig.entry (s : State) (t : Trig) (q : Queue) : Nat :=
  let g := if t.gone then none else t.group.bind (group? s)
  let cl := match g, t.issuer with | some g, _ => g.core / 4 | none, some (k, _) => clusterOf k | none, none => 0
  if q.kind = 1 then stampGroup s cl g t.img else if q.kind = 2 ∧ bitsN t.img 7 0 = 0x10 then stampGroup s cl none t.img else t.img
theorem pushTrig_room {s : State} {t : Trig} {q : Queue} (hq : queue? s t.q = some q) (hroom : q.full = false) (hable : q.state ≠ .disabled) :
    pushTrig s t = pushEntry { s with trigs := s.trigs.filter (·.id != t.id) } t.q (t.entry s q)
      { issuer := t.issuer, group := t.group, gone := t.gone, code := t.code, clk := t.clk } := by
  unfold pushTrig
  rw [hq]
  refine (if_neg (by simp [hroom, hable])).trans ?_
  simp only [beq_iff_eq, Bool.and_eq_true]
  rfl

theorem triggerEntryPush_pushes {s : State} {id : Nat} {t : Trig} {q : Queue} (hfind : s.trigs.find? (·.id == id) = some t) (hstate : t.state = .room)
    (hrun : queuesRun s t.asid = true) (hq : queue? s t.q = some q) (hroom : q.full = false) (hable : q.state ≠ .disabled) :
    Enters (exec (.triggerEntryPush id) s) (pushEntry { s with trigs := s.trigs.filter (·.id != id) } t.q (t.entry s q)
      { issuer := t.issuer, group := t.group, gone := t.gone, code := t.code, clk := t.clk }) := by
  have hid : t.id = id := beq_iff_eq.mp (List.find?_some hfind :)
  have henters := triggerEntryPush_enters hfind hstate hrun hq hroom hable
  rwa [pushTrig_room hq hroom hable, hid] at henters

/-! ### Join markers (R252) -/

/-- What the entries behind a join marker acquire: the completions of the joined queue. -/
def joinedClock (s : State) (q : Queue) : Clock :=
  match q.head.bind fun h => (entMeta q h.num).marker with
  | some (qb, _) => (match queue? s qb with | some b => b.clk | none => [])
  | none => []
/-- A head that acquires what a clock says. -/
def Head.acquire (h : Head) (clk : Clock) : Head := { h with who := { h.who with clk := cmax h.who.clk clk } }
/-- A finished head of a queue that is there, which has acquired; no more has changed. -/
theorem finishHead_acquire {s : State} {qk : Nat} {q : Queue} {h : Head} (hq : queue? s qk = some q) (hhead : q.head = some h) (clk : Clock) :
    (∃ m, finishHead (modHead s qk (·.acquire clk)) qk 0 = { s with queues := m }) ∧
    ∃ p, queue? (finishHead (modHead s qk (·.acquire clk)) qk 0) qk = some p ∧ p.head = some { h.acquire clk with finished := true } := by
  constructor
  · obtain ⟨m, hm⟩ := modHead_queues s qk (·.acquire clk)
    obtain ⟨m', hm'⟩ := modHead_queues (modHead s qk (·.acquire clk)) qk fun h => { h with finished := true, code := if h.code == 0 then 0 else h.code }
    exact ⟨m', hm'.trans (by rw [hm])⟩
  · obtain ⟨p, hp, hphead⟩ := head_modHead hq hhead (·.acquire clk)
    exact finishHead_head hp hphead

section
variable {s : State} {qk qb n : Nat} {q : Queue} {h : Head} (hhead : q.head = some h) (hfinished : h.finished = false)
  (hrun : queuesRun s q.asid = true) (hmarker : (entMeta q h.num).marker = some (qb, n)) (hfar : ∀ b, queue? s qb = some b → n ≤ b.doneN)
include hhead hfinished hrun hmarker hfar

theorem markerDue_of_far : markerDue s q = true := by
  unfold markerDue
  rw [hhead]
  dsimp only
  rw [hfinished, hrun, hmarker]
  dsimp only
  cases hb : queue? s qb with
  | none => rfl
  | some b => simpa using hfar b hb

variable (hq : queue? s qk = some q)
include hq

theorem joinMarkerCompletion_finishes :
    exec (.joinMarkerCompletion qk) s = event (fun _ => finishHead (modHead s qk (·.acquire (joinedClock s q))) qk 0) s := by
  have hdue := markerDue_of_far hhead hfinished hrun hmarker hfar
  show execJoinMarkerCompletion qk s = _
  unfold execJoinMarkerCompletion
  refine event_congr ?_
  rw [hq]
  exact if_neg (by simp [hdue])
theorem joinMarkerCompletion_happens : Happens (exec (.joinMarkerCompletion qk) s) fun u => Only [.queues, .trigs] s u ∧ Others [] s u ∧
    ∃ p j, queue? u qk = some p ∧ p.head = some j ∧ j.finished = true ∧ j.code = h.code ∧ j.num = h.num := by
  obtain ⟨⟨m, hm⟩, p, hp, hphead⟩ := finishHead_acquire hq hhead (joinedClock s q)
  rw [joinMarkerCompletion_finishes hhead hfinished hrun hmarker hfar hq]
  refine Happens.of_event fun w tr => ⟨fun r hr => ?_, Others.looked_of (by rw [hm]) w tr, p, _, hp, hphead, rfl, rfl, rfl⟩
  rw [hm]
  cases r <;> simp_all [Same, State.looked, group?, ctx?]

end

/-! ### The doorbell (R235) -/

/-- A queue whose doorbell has put n entries of the host behind its last one. -/
def Queue.rung (q : Queue) (n : Nat) : Queue :=
  { q with ents := (upFrom q.pushed n).foldl (fun e i => fput e i { host := true }) q.ents, pushed := q.pushed + n }.woken
theorem woken_state (q : Queue) : q.woken.state = if q.state = .idle then .active else q.state := by
  simp only [Queue.woken, beq_iff_eq]
theorem woken_kept (q : Queue) : q.woken.kept = if q.state = .saved ∧ q.kept = .idle then .active else q.kept := by
  simp only [Queue.woken, Bool.and_eq_true, beq_iff_eq]
theorem queue?_setQueue_same (s : State) (qk : Nat) (q : Queue) : queue? (setQueue s qk q) qk = some q :=
  ((setQueue_spec s qk q).2.2.1 qk).trans (if_pos rfl)

section
variable {s : State} {master asid qid : Nat} {v : DWord} {q : Queue} (hready : s.host.ready = true)
  (hallowed : refusedBy s master (255 * 2 ^ 48 + (0x1000000 + 512 * asid + 8 * qid)) .store = false) (hfree : ctxState s asid ≠ .free)
  (hretired : ctxState s asid ≠ .retired) (hq : queue? s (qkey asid qid) = some q) (hable : q.state ≠ .disabled) (hnew : v.toNat ≠ q.pushed % 2 ^ 64)
include hready hallowed hfree hretired hq hable hnew

theorem doorbellWrite_sets : ∃ t, exec (.doorbellWrite master asid qid v) s = event (fun _ => setQueue t (qkey asid qid)
    (if q.pushed % 2 ^ 64 < v.toNat ∧ v.toNat ≤ q.doneN % 2 ^ 64 + q.cap then q.rung (v.toNat - q.pushed % 2 ^ 64) else { q with dbe := true })) s := by
  refine ⟨if q.pushed % 2 ^ 64 < v.toNat ∧ v.toNat ≤ q.doneN % 2 ^ 64 + q.cap then
    (upFrom q.pushed (v.toNat - q.pushed % 2 ^ 64)).foldl (fun s n => deviceWrite s q.asid (q.statusVa n) 4 0) s else s, ?_⟩
  show execDoorbellWrite master asid qid v s = _
  unfold execDoorbellWrite
  refine event_congr ?_
  dsimp only
  rw [hallowed, hready, if_neg (by simp [hfree, hretired]), hq]
  dsimp only
  rw [if_neg (by rw [Bool.or_eq_true, beq_iff_eq, beq_iff_eq]; exact not_or.mpr ⟨hable, hnew⟩)]
  by_cases hfits : q.pushed % 2 ^ 64 < v.toNat ∧ v.toNat ≤ q.doneN % 2 ^ 64 + q.cap
  · rw [if_pos hfits, if_pos hfits]
    exact if_pos (by simpa using hfits)
  · rw [if_neg hfits, if_neg hfits]
    exact if_neg (by simpa using hfits)
theorem doorbellWrite_happens : Happens (exec (.doorbellWrite master asid qid v) s) fun u => ∃ p, queue? u (qkey asid qid) = some p ∧
    (if q.pushed % 2 ^ 64 < v.toNat ∧ v.toNat ≤ q.doneN % 2 ^ 64 + q.cap then
      p.pushed = q.pushed + (v.toNat - q.pushed % 2 ^ 64) ∧ p.dbe = q.dbe ∧ p.state = (if q.state = .idle then .active else q.state) ∧
      p.kept = (if q.state = .saved ∧ q.kept = .idle then .active else q.kept)
    else p = { q with dbe := true }) := by
  obtain ⟨t, ht⟩ := doorbellWrite_sets hready hallowed hfree hretired hq hable hnew
  rw [ht]
  refine Happens.of_event fun w tr => ⟨_, queue?_setQueue_same t (qkey asid qid) _, ?_⟩
  split
  · exact ⟨rfl, rfl, woken_state _, woken_kept _⟩
  · rfl

end

/-! ### The states of a queue (R236) -/

section
variable {s : State} {qk : Nat} {q : Queue}

theorem queueEnable_disabled (hq : queue? s qk = some q) (hstate : q.state = .disabled) : Enters (exec (.queueEnable qk) s)
    (setQueue s qk { q with en := true, state := if q.doneN < q.pushed then .active else .idle }) := by
  change Enters (execQueueEnable qk s) _
  refine Enters.of_eq ?_
  rw [hq]
  exact if_pos (beq_iff_eq.mpr hstate)
theorem queueEnable_loads {t : State} (hq : queue? s qk = none) (hload : loadQueue s (qk / 0x20000) (qk % 0x20000) = some (q, t)) :
    Enters (exec (.queueEnable qk) s) (setQueue t qk { q with en := true, state := .idle }) := by
  change Enters (execQueueEnable qk s) _
  refine Enters.of_eq ?_
  rw [hq]
  dsimp only
  rw [hload]

section
variable (hq : queue? s qk = some q)
include hq

theorem modQueue_some (f : Queue → Queue) : modQueue s qk f = setQueue s qk (f q) := by
  unfold modQueue
  rw [hq]
theorem queueDisable_enters (hstate : q.state ≠ .saved) : Enters (exec (.queueDisable qk) s)
    (setQueue s qk { q with en := false, state := if q.head = none then .disabled else q.state }) := by
  change Enters (execQueueDisable qk s) _
  refine Enters.of_eq ((modQueue_some hq _).trans (congrArg (setQueue s qk) ?_))
  rw [if_neg (by simpa using hstate)]
  simp only [Option.isNone_iff_eq_none]
theorem queueErrClear_enters : Enters (exec (.queueErrClear qk) s) (setQueue s qk { q with
    err := false, state := if q.state = .halted then (if q.doneN < q.pushed then .active else .idle) else q.state }) := by
  change Enters (execQueueErrClear qk s) _
  refine Enters.of_eq ((modQueue_some hq _).trans (congrArg (setQueue s qk) ?_))
  simp only [beq_iff_eq]

end

end

end Sys2Proof.Machine
end

section
/-!
PROOF. Boxes of a copy (R237, R245), and the statement about the events of queues.
-/
namespace Sys2Proof.Machine

/-! ### Poison does not look at the queues -/

/-- The state with other queues. -/
def State.queued (s : State) (m : FMap Queue) : State := { s with queues := m }

section
variable (s : State) (m : FMap Queue)

theorem poisonLeaf_queued (asid home set e ea size : Nat) :
    poisonLeaf (s.queued m) asid home set e ea size = (poisonLeaf s asid home set e ea size).queued m := by
  unfold poisonLeaf State.queued
  dsimp only
  split <;> rfl
theorem poisonPageOf_queued (asid va : Nat) : poisonPageOf (s.queued m) asid va = (poisonPageOf s asid va).queued m := by
  have hclass : classify (s.queued m) asid va = classify s asid va := rfl
  have hloc : deviceLoc (s.queued m) asid va = deviceLoc s asid va := rfl
  unfold poisonPageOf
  rw [hclass, hloc]
  split
  · exact poisonLeaf_queued ..
  · rfl
theorem poisonRange_queued (asid va n : Nat) : poisonRange (s.queued m) asid va n = (poisonRange s asid va n).queued m := by
  unfold poisonRange
  refine List.foldl_hom (State.queued · m) (init := s) fun s p => ?_
  have hpa : devicePa (s.queued m) asid p.1 = devicePa s asid p.1 := rfl
  rw [hpa]
  split
  · exact poisonPageOf_queued { s with poison := _ } m asid p.1
  · rfl
theorem poisonLines_queued (asid va : Nat) (offs : List Nat) : poisonLines (s.queued m) asid va offs = (poisonLines s asid va offs).queued m := by
  unfold poisonLines
  exact List.foldl_hom (State.queued · m) (init := s) fun s x => poisonRange_queued s m asid (x % 2 ^ 64) 128

end

/-- What poisoning lines changes: the poison, and where a whole page is poisoned its leaf and the translations of its home. -/
theorem written_poisonLeaf (s : State) (asid home set e ea size : Nat) : Written s (poisonLeaf s asid home set e ea size) := by
  unfold poisonLeaf
  exact iteInduction (motive := Written s) (fun _ => .refl s) fun _ => ⟨_, _, s.lines, s.poison, rfl⟩
theorem written_poisonPageOf (s : State) (asid va : Nat) : Written s (poisonPageOf s asid va) := by
  unfold poisonPageOf
  split
  · exact written_poisonLeaf ..
  · exact .refl s
theorem Written.foldl {α : Type} {f : State → α → State} (hf : ∀ s x, Written s (f s x)) (l : List α) : ∀ s, Written s (l.foldl f s) := by
  induction l with
  | nil => exact Written.refl
  | cons x l ih => exact fun s => (hf s x).trans (ih _)
theorem written_poisonRange (s : State) (asid va n : Nat) : Written s (poisonRange s asid va n) := by
  refine Written.foldl (fun s p => ?_) _ s
  split
  · exact Written.trans ⟨s.mem, s.bases, s.lines, _, rfl⟩ (written_poisonPageOf ..)
  · exact .refl s
theorem written_poisonLines (s : State) (asid va : Nat) (offs : List Nat) : Written s (poisonLines s asid va offs) :=
  Written.foldl (fun s x => written_poisonRange s asid (x % 2 ^ 64) 128) _ s

/-! ### A changed head -/

/-- A state has changed in its queues alone, and a queue's head is `h` there. -/
def Headed (s u : State) (qk : Nat) (h : Head) : Prop := (∃ m, u = s.queued m) ∧ ∃ p, queue? u qk = some p ∧ p.head = some h

section
variable {s u : State} {qk : Nat} {h : Head}

theorem Headed.of_head {q : Queue} (hq : queue? s qk = some q) (hhead : q.head = some h) : Headed s s qk h := ⟨⟨s.queues, rfl⟩, q, hq, hhead⟩
theorem Headed.modHead (H : Headed s u qk h) (g : Head → Head) : Headed s (modHead u qk g) qk (g h) := by
  obtain ⟨⟨m, hm⟩, p, hp, hhead⟩ := H
  obtain ⟨m', hm'⟩ := modHead_queues u qk g
  exact ⟨⟨m', hm'.trans (by rw [hm]; rfl)⟩, head_modHead hp hhead g⟩
/-- What a box meets gives the entry a code, once it has none. -/
theorem Headed.code (H : Headed s u qk h) (b : Bool) (code : Nat) :
    Headed s (if b then headCode u qk code else u) qk { h with code := if h.code == 0 && b then code else h.code } := by
  cases b with
  | false => simpa using H
  | true => simpa [headCode] using H.modHead fun h => { h with code := if h.code == 0 then code else h.code }
theorem Headed.poisonLines (H : Headed s u qk h) (asid va : Nat) (offs : List Nat) :
    Headed (poisonLines s asid va offs) (poisonLines u asid va offs) qk h := by
  obtain ⟨⟨m, hm⟩, p, hp, hhead⟩ := H
  exact ⟨⟨m, by rw [hm, poisonLines_queued]⟩, p, ((written_poisonLines u asid va offs).queue? qk).trans hp, hhead⟩

end

/-! ### A box of a copy (R237, R245) -/

/-- The code that an entry has after a box met poison (x) or a race (y): the first one stays. -/
theorem code_met (c : Nat) (x y : Bool) : (if (if c == 0 && x then 0x23 else c) == 0 && y then 0x22 else if c == 0 && x then 0x23 else c) =
    if c ≠ 0 then c else if x then 0x23 else if y then 0x22 else 0 := by
  by_cases hc : c = 0
  · subst hc
    cases x <;> cases y <;> rfl
  · simp [hc]
theorem served_bases (s : State) (qk : Nat) : ∃ b, served s qk = { s with bases := b } := by
  unfold served
  split
  · exact ⟨_, rfl⟩
  · exact ⟨s.bases, rfl⟩

section
variable {s : State} {qk n : Nat} {q : Queue} {h : Head} (hq : queue? s qk = some q) (hhead : q.head = some h) (hturn : boxTurn s qk n = true)
include hq hhead hturn

theorem boxDue_of_turn : boxDue s q h n = true := by
  unfold boxTurn at hturn
  rw [hq] at hturn
  dsimp only at hturn
  have hnext : nextBox s q = some n := beq_iff_eq.mp (Bool.and_eq_true_iff.mp hturn).2
  unfold nextBox at hnext
  rw [hhead] at hnext
  dsimp only [Option.bind_some] at hnext
  split at hnext
  · cases hnext
  · exact List.find?_some hnext

section
variable {t : State} {d : List Byte} {new : List Nat} {x y : Bool}
  (hmove : moveRows s h.who (endpoint s (entMeta q h.num)) h.img (boxRows h.img n) = (.done t d x y, new)) (hkept : queue? t qk = some q)
include hmove hkept

/-- What a box that has moved its rows leaves. -/
theorem runBox_headed : ∃ j, j.done = lput h.done n ∧ j.bad = new.foldl lput h.bad ∧ (j.finished = true ↔ (lput h.done n).length = copyBoxes h.img) ∧
    (j.code = if h.code ≠ 0 then h.code else if x then 0x23 else if y then 0x22 else 0) ∧
    Headed (poisonLines t q.asid 0 (if (lput h.done n).length = copyBoxes h.img then new.foldl lput h.bad else new)) (runBox qk n s) qk j := by
  have hdue := boxDue_of_turn hq hhead hturn
  have hfinished : h.finished = false := by simp_all [boxDue]
  have hmet := (((Headed.of_head hkept hhead).code x 0x23).code y 0x22).poisonLines q.asid 0
    (if (lput h.done n).length = copyBoxes h.img then new.foldl lput h.bad else new)
  have hrun : runBox qk n s = modHead (poisonLines (if y then headCode (if x then headCode t qk 0x23 else t) qk 0x22 else if x then headCode t qk 0x23 else t)
      q.asid 0 (if (lput h.done n).length = copyBoxes h.img then new.foldl lput h.bad else new)) qk fun h' =>
        { h' with done := lput h.done n, homes := (boxHomes s h n).foldl lput h.homes, bad := new.foldl lput h.bad,
                  finished := h'.finished || (lput h.done n).length == copyBoxes h.img } := by
    unfold runBox
    rw [hq]
    dsimp only
    rw [hhead]
    dsimp only
    rw [if_neg (by simp [hdue]), hmove]
    simp only [beq_iff_eq]
  rw [hrun]
  refine ⟨_, rfl, rfl, ?_, ?_, hmet.modHead _⟩
  · simp [hfinished]
  · exact code_met h.code x y
theorem copyBox_serves : exec (.copyBox qk n) s = event (fun _ => served (runBox qk n s) qk) s := by
  have hdue := boxDue_of_turn hq hhead hturn
  obtain ⟨j, hdone, -, -, -, -, p, hp, hphead⟩ := runBox_headed hq hhead hturn hmove hkept
  have hchanged : runBox qk n s ≠ s := fun hsame => by
    rw [hsame] at hp
    cases hq.symm.trans hp
    cases hhead.symm.trans hphead
    have hold : n ∈ h.done := hdone ▸ mem_lput.mpr (.inl rfl)
    simp [boxDue, hold] at hdue
  show execCopyBox qk n s = _
  unfold execCopyBox
  exact event_congr (if_neg (by simp [hturn, hchanged]))
theorem copyBox_happens : Happens (exec (.copyBox qk n) s) fun u =>
    let v := poisonLines t q.asid 0 (if (lput h.done n).length = copyBoxes h.img then new.foldl lput h.bad else new)
    u.mem = v.mem ∧ u.sram = t.sram ∧ u.poison = v.poison ∧ ∃ p j, queue? u qk = some p ∧ p.head = some j ∧
      j.done = lput h.done n ∧ j.bad = new.foldl lput h.bad ∧ (j.finished = true ↔ (lput h.done n).length = copyBoxes h.img) ∧
      j.code = if h.code ≠ 0 then h.code else if x then 0x23 else if y then 0x22 else 0 := by
  obtain ⟨j, hdone, hbad, hfinished, hcode, ⟨m, hm⟩, p, hp, hphead⟩ := runBox_headed hq hhead hturn hmove hkept
  obtain ⟨b, hb⟩ := served_bases (runBox qk n s) qk
  obtain ⟨mem, bases, lines, poison, hwritten⟩ := written_poisonLines t q.asid 0 (if (lput h.done n).length = copyBoxes h.img then new.foldl lput h.bad else new)
  rw [copyBox_serves hq hhead hturn hmove hkept]
  refine Happens.of_event fun w tr => ?_
  rw [hb]
  refine ⟨by rw [hm]; rfl, by rw [hm, hwritten]; rfl, by rw [hm]; rfl, p, j, hp, hphead, hdone, hbad, hfinished, hcode⟩

end

end

/-- Settles O52, event by event. -/
theorem queueAndTriggerEvents : Obligations.QueueEvents := by
  unfold Obligations.QueueEvents
  refine ⟨fun s qk q t h hq hstartable hkind hstart => ⟨entryStart_enters hq hstartable hkind hstart, copyStart_enters hq hstartable hkind hstart, startHead_spec hstart⟩,
    fun s qk n q h t d new x y hq hhead hturn hmove hkept => copyBox_happens hq hhead hturn hmove hkept,
    fun s qk q h hq hhead hfinished hrun hstate hmarking => ⟨entryCompletion_marks hq hhead hfinished hrun hstate hmarking,
      fun t p code => entryCompletion_retires hq hhead hfinished hrun hstate hmarking⟩,
    fun s id t hfind => triggerFire_enters hfind,
    fun s id t q hfind hstate hrun hq hroom hable => triggerEntryPush_pushes hfind hstate hrun hq hroom hable,
    fun s qk q h qb n hq hhead hfinished hrun hmarker hfar => joinMarkerCompletion_happens hhead hfinished hrun hmarker hfar hq,
    fun s master asid qid v q => doorbellWrite_happens,
    fun s qk q => queueEnable_disabled, fun s qk q t => queueEnable_loads, fun s qk q => queueDisable_enters, fun s qk q => queueErrClear_enters⟩

end Sys2Proof.Machine
end

section
/-!
PROOF. Matrix operations enter the engine (R270, R275, R278 to R282).
-/
namespace Sys2Proof.Machine

/-! ### Room in the engine (R280) -/

/-- An operation has entered its cluster's engine behind the earlier ones, and taken its task's next sequence number. -/
def Entered (c : Ctx') (r : SeqRec) (u : State) (b : Agent) : Prop :=
  engine u (clusterOf c.k) = { engine c.s (clusterOf c.k) with ops := (engine c.s (clusterOf c.k)).ops ++ [r] } ∧
  (∀ j, j ≠ clusterOf c.k → cluster u j = cluster c.s j) ∧ b.core = { c.a.core with seq := c.a.seq + 1 }

theorem enterEngine_of_room {c : Ctx'} (h : (engine c.s (clusterOf c.k)).ops.length < 16) (r : SeqRec) :
    enterEngine c r = .next (putEngine (putAgent c.s c.k { c.a with seq := c.a.seq + 1 }) (clusterOf c.k)
      { engine c.s (clusterOf c.k) with ops := (engine c.s (clusterOf c.k)).ops ++ [r] }) := if_pos h

/-- A matrix operation whose own execution lets it into the engine. -/
theorem does_enter {i : FormL → Instr} {o : Op} {H : Ctx' → Prop} (body : Ctx' → Go) (r : Ctx' → SeqRec)
    (hi : ∀ f s, exec (i f) s = issueL o f body s) (hbody : ∀ c, H c → body c = enterEngine c (r c)) :
    Does i o (fun c => c.a.kind = .task ∧ (engine c.s (clusterOf c.k)).ops.length < 16 ∧ H c) [.clusters] fun c => Entered c (r c) := by
  refine doesL body hi fun c hhere ⟨_, hroom, hH⟩ => ⟨_, { c.a with seq := c.a.seq + 1 }, (hbody c hH).trans (enterEngine_of_room hroom _),
    agent?_putAgent_same _ _ _, rfl, (Only.putAgent _ _ _).of_nil.trans (Only.putEngine _ _ _), Others.putAgent _ _ _, fun u b hu hb => ⟨?_, fun j hj => ?_, hb⟩⟩
  · exact (engine_of_clusters (hu .clusters (by simp)) _).trans (engine_putEngine_same _ _ _)
  · exact (congrArg (fgetD · j ({} : Cluster)) (hu .clusters (by simp))).trans (cluster_putEngine_ne _ _ hj)

/-! ### The checks of an operand (R267, R270, R273, R276) -/

/-- The check of a tile's offset and stride finds nothing. -/
theorem tile_aligned {t n : Nat} (h : TileOk t n) :
    (tileOff t % 16 != 0 || (bitsN t 43 32 != 0 && (bitsN t 43 32 % 16 != 0 || bitsN t 43 32 < n))) = false := by
  obtain ⟨hoff, hpacked | ⟨hstride, hspans⟩⟩ := h
  · simp [hoff, hpacked]
  · simp [hoff, hstride, hspans]
theorem checkTile_eq_none {t n : Nat} (h : TileOk t n) : checkTile t n = none := if_neg (by rw [tile_aligned h]; decide)
theorem inTaskWindow_eq_none {c : Ctx'} {l : List (Nat × Nat)} (h : c.inWindow l) : inTaskWindow c l = none := by
  have hfind : (l.find? fun (off, n) => !(csetOf c.s c.a).any fun x => inWindow c.s x off n) = none := by
    refine List.find?_eq_none.mpr fun x hx => ?_
    obtain ⟨cs, hset, hin⟩ := h x hx
    simp [hset, hin]
  exact congrArg (Option.map (·.1)) hfind

/-- A side whose descriptor is not valid for its format, or whose inverse curve is not allowed there (R270, R271). -/
def Side.refused (x : Side) (acct : Nat) : Bool :=
  (isNf x.fmt && !x.nf.valid x.fmt) || (x.cmp && (acct != 0 || !(4 ≤ x.fmt && x.fmt ≤ 12)))
theorem Side.refused_eq_false {x : Side} {acct : Nat} (hnf : isNf x.fmt = true → x.nf.valid x.fmt = true)
    (hcurve : x.cmp = true → acct = 0 ∧ 4 ≤ x.fmt ∧ x.fmt ≤ 12) : x.refused acct = false := by
  unfold Side.refused
  rw [Bool.or_eq_false_iff]
  constructor
  · cases hx : isNf x.fmt with
    | false => rfl
    | true => simp [hnf hx]
  · cases hx : x.cmp with
    | false => rfl
    | true => simp [hcurve hx]

section
variable (c : Ctx') (opc a k : Nat)

/-- Bytes of a row of an operand in a format, over all of an operation's steps. -/
def Ctx'.rowBytes (fmt : Nat) : Nat := k * stepsOf opc c.f.mod * fmtWidth fmt / 8
/-- The view that field a names. -/
def Ctx'.view : View := viewOf (fgetD (engine c.s (clusterOf c.k)).cv (c.f.a.toNat - 0x2C) 0)
/-- A view or BYP that an operation may not use (R272, R273, R279, R280). -/
def Ctx'.sourceRefused : Bool :=
  let e := engine c.s (clusterOf c.k)
  match aSource opc c.mod with
  | 1 => [c.view.c, c.view.w, c.view.h, c.view.nb, c.view.kh, c.view.kw, c.view.oh, c.view.ow].contains 0 || c.view.c * fmtWidth (fmA c.vc) % 8 != 0
  | 2 => (match bypTag e with | some (t, d) => t != fmA c.vc || (isNf (fmA c.vc) && d != e.nfAt (bitsN c.vc 10 8)) | none => true) ||
      (if opc == 0xC6 then modBits c.mod 5 4 else 0) * k ≥ 32 || (if k < 32 then stepsOf opc c.mod * k > 32 else stepsOf opc c.mod != 1)
  | _ => false
/-- Where the A operand is misaligned. -/
def Ctx'.sourceMisaligned : Option Nat :=
  match aSource opc c.mod with
  | 0 => checkTile a (c.rowBytes opc k (fmA c.vc))
  | 1 => if c.view.base % 16 != 0 then some c.view.base else none
  | _ => none
/-- The byte ranges that a multiply names. -/
def Ctx'.mulRanges : List (Nat × Nat) :=
  let acct := modBits c.mod 1 0; let ktot := k * stepsOf opc c.mod
  (match aSource opc c.mod with
  | 0 => tileExt a (c.rowBytes opc k (fmA c.vc)) (fmA c.vc) acct ktot
  | 1 => [(c.view.base, c.view.bytes (fmtWidth (fmA c.vc)))]
  | _ => []) ++ tileExt c.vb (c.rowBytes opc k (fmB c.vc)) (fmB c.vc) acct ktot
/-- What the A source of a multiply must be: an aligned tile, a view without an empty extent, or a BYP of the same format that has the columns. -/
def Ctx'.SourceOk : Prop :=
  let e := engine c.s (clusterOf c.k); let n := stepsOf opc c.mod
  match aSource opc c.mod with
  | 0 => TileOk a (c.rowBytes opc k (fmA c.vc))
  | 1 => c.view.base % 16 = 0 ∧ 0 ∉ [c.view.c, c.view.w, c.view.h, c.view.nb, c.view.kh, c.view.kw, c.view.oh, c.view.ow] ∧
      c.view.c * fmtWidth (fmA c.vc) % 8 = 0
  | 2 => (∃ d, bypTag e = some (fmA c.vc, d) ∧ (isNf (fmA c.vc) = true → d = e.nfAt (bitsN c.vc 10 8))) ∧
      (if opc = 0xC6 then modBits c.mod 5 4 else 0) * k < 32 ∧ (if k < 32 then n * k ≤ 32 else n = 1)
  | _ => True

end

/-! ### Multiplies (R279, R280) -/

section
variable {c : Ctx'} {opc a k : Nat}

/-- A pair of formats without a row of R270. -/
theorem issueMul_without_row (htabs : c.tabsReady opc a) (hrow : kPerStep (fmA c.vc) (fmB c.vc) (modBits c.mod 1 0) = none) :
    issueMul c opc a = .freeze c.s .illegalOpcode {} := by
  unfold Ctx'.tabsReady at htabs
  unfold issueMul
  simp only [htabs, hrow]
/-- The checks that follow the tables and the row of R270, in their order. -/
theorem issueMul_with_row (htabs : c.tabsReady opc a) (hrow : kPerStep (fmA c.vc) (fmB c.vc) (modBits c.mod 1 0) = some k) : issueMul c opc a =
    if (sideA (engine c.s (clusterOf c.k)) c.vc).refused (modBits c.mod 1 0) || (sideB (engine c.s (clusterOf c.k)) c.vc).refused (modBits c.mod 1 0) ||
        c.sourceRefused opc k then .freeze c.s .illegalOpcode {}
    else
      match c.sourceMisaligned opc a k, checkTile c.vb (c.rowBytes opc k (fmB c.vc)) with
      | some t, _ => .freeze c.s .misaligned { addr := BitVec.ofNat 64 t }
      | none, some t => .freeze c.s .misaligned { addr := BitVec.ofNat 64 t }
      | none, none =>
        match inTaskWindow c (c.mulRanges opc a k) with
        | some off => .freeze c.s .protection { addr := BitVec.ofNat 64 off }
        | none => enterEngine c (seqRec c opc a c.vb c.vc ((c.mulRanges opc a k).map fun x => (false, x.1, x.2))) := by
  unfold Ctx'.tabsReady at htabs
  unfold issueMul
  simp only [htabs, hrow]
  rfl
/-- An A source as it must be passes both of its checks. -/
theorem source_passes (h : c.SourceOk opc a k) : c.sourceRefused opc k = false ∧ c.sourceMisaligned opc a k = none := by
  unfold Ctx'.SourceOk at h
  unfold Ctx'.sourceRefused Ctx'.sourceMisaligned
  generalize aSource opc c.mod = source at h ⊢
  match source, h with
  | 0, htile => exact ⟨rfl, checkTile_eq_none htile⟩
  | 1, ⟨hbase, hpos, hbits⟩ => exact ⟨by simpa [hbits] using hpos, by simp [hbase]⟩
  | 2, ⟨⟨d, htag, hdesc⟩, hfirst, hfits⟩ =>
    have hformat : (isNf (fmA c.vc) && d != (engine c.s (clusterOf c.k)).nfAt (bitsN c.vc 10 8)) = false := by
      cases hx : isNf (fmA c.vc) with
      | false => rfl
      | true => simp [hdesc hx]
    rw [ite_mul, Nat.zero_mul] at hfirst
    refine ⟨?_, rfl⟩
    by_cases hk : k < 32
    · rw [if_pos hk] at hfits
      simp [htag, hformat, hfirst, hfits, hk]
    · rw [if_neg hk] at hfits
      simp [htag, hformat, hfirst, hfits, hk]
  | _ + 3, _ => exact ⟨rfl, rfl⟩
/-- What a multiply needs, by the parts that its checks look at. -/
theorem multiplies_iff {ext : List (Bool × Nat × Nat)} : c.multiplies opc a ext ↔
    ∃ k, kPerStep (fmA c.vc) (fmB c.vc) (modBits c.mod 1 0) = some k ∧ c.tabsReady opc a ∧
      (∀ x ∈ [sideA (engine c.s (clusterOf c.k)) c.vc, sideB (engine c.s (clusterOf c.k)) c.vc],
        (isNf x.fmt = true → x.nf.valid x.fmt = true) ∧ (x.cmp = true → modBits c.mod 1 0 = 0 ∧ 4 ≤ x.fmt ∧ x.fmt ≤ 12)) ∧
      TileOk c.vb (c.rowBytes opc k (fmB c.vc)) ∧ c.SourceOk opc a k ∧ c.inWindow (c.mulRanges opc a k) ∧
      ext = (c.mulRanges opc a k).map fun x => (false, x.1, x.2) := Iff.rfl
theorem issueMul_of_multiplies {ext : List (Bool × Nat × Nat)} (h : c.multiplies opc a ext) :
    issueMul c opc a = enterEngine c (seqRec c opc a c.vb c.vc ext) := by
  obtain ⟨k, hrow, htabs, hsides, htile, hsource, hwindow, rfl⟩ := multiplies_iff.mp h
  obtain ⟨hnfA, hcurveA⟩ := hsides (sideA (engine c.s (clusterOf c.k)) c.vc) (by simp)
  obtain ⟨hnfB, hcurveB⟩ := hsides (sideB (engine c.s (clusterOf c.k)) c.vc) (by simp)
  obtain ⟨hallowed, haligned⟩ := source_passes hsource
  rw [issueMul_with_row htabs hrow, Side.refused_eq_false hnfA hcurveA, Side.refused_eq_false hnfB hcurveB, hallowed, haligned,
    checkTile_eq_none htile, inTaskWindow_eq_none hwindow]
  rfl

end

/-! ### Drains (R281, R282) -/

section
variable {c : Ctx'}

/-- Bytes of a row that a TDRN writes. -/
def Ctx'.drainLen (c : Ctx') : Nat := 32 * (if modBit c.mod 2 then 8 else if modBits c.mod 1 0 = 0 then 4 else 2)
/-- Bytes from the first one that a TDRN to scratchpad names to its last. -/
def Ctx'.drainSpan (c : Ctx') : Nat := modBits c.mod 8 4 * tileStr c.vb c.drainLen + c.drainLen

theorem bodyTdrn_global (hglobal : modBit c.mod 3 = true) (halign : c.vb % 16 = 0) :
    bodyTdrn c = enterEngine c (seqRec c 0xC8 c.vb 0 0 [(true, c.vb, c.drainLen * (modBits c.mod 8 4 + 1))]) := by
  unfold bodyTdrn Ctx'.drainLen
  simp [hglobal, halign]
theorem bodyTdrn_tile (hlocal : modBit c.mod 3 = false) (htile : TileOk c.vb (if modBit c.mod 2 then 256 else 128))
    (hinside : c.inWindow [(tileOff c.vb, c.drainSpan)]) :
    bodyTdrn c = enterEngine c (seqRec c 0xC8 c.vb 0 0 [(false, tileOff c.vb, c.drainSpan)]) := by
  unfold bodyTdrn
  simp only [hlocal, tile_aligned htile, Bool.false_eq_true, if_false, beq_iff_eq, Nat.add_sub_cancel]
  change (match inTaskWindow c [(tileOff c.vb, c.drainSpan)] with
    | some off => Go.freeze c.s .protection { addr := BitVec.ofNat 64 off }
    | none => enterEngine c (seqRec c 0xC8 c.vb 0 0 [(false, tileOff c.vb, c.drainSpan)])) = _
  rw [inTaskWindow_eq_none hinside]
theorem bodyTdrn_misaligned (hlocal : modBit c.mod 3 = false) (halign : tileOff c.vb % 16 ≠ 0) :
    bodyTdrn c = .freeze c.s .misaligned { addr := BitVec.ofNat 64 (tileOff c.vb) } := by
  unfold bodyTdrn
  simp [hlocal, halign]
theorem bodyTdrnb_ready (htabs : c.tabsReady 0xC9 0) (hfmt : fmA c.vc < 13) (hpair : fmA c.vc = 0 ↔ modBit c.mod 2 = true)
    (hnf : isNf (fmA c.vc) = true → (nfOf ((engine c.s (clusterOf c.k)).nfAt (bitsN c.vc 10 8))).valid (fmA c.vc) = true) :
    bodyTdrnb c = enterEngine c (seqRec c 0xC9 0 0 c.vc []) := by
  have hconverts : (decide (fmA c.vc ≥ 13) || (fmA c.vc == 0) != modBit c.mod 2 ||
      (isNf (fmA c.vc) && !(nfOf ((engine c.s (clusterOf c.k)).nfAt (bitsN c.vc 10 8))).valid (fmA c.vc))) = false := by
    have hwidth : (fmA c.vc == 0) = modBit c.mod 2 := Bool.eq_iff_iff.mpr (beq_iff_eq.trans hpair)
    cases hx : isNf (fmA c.vc) with
    | false => simp [hfmt, hwidth]
    | true => simp [hfmt, hwidth, hnf hx]
  have hready : tabAsk c.s (engine c.s (clusterOf c.k)) c.a.uid (seqRec c 0xC9 0 0 c.vc []).names = .ok := htabs
  unfold bodyTdrnb
  simp only [hready, hconverts]
  rfl

end

/-- Settles O45: what each operation's own execution checks is met, so that it enters the engine; the faults are its first failing checks. -/
theorem matrixOperations : Obligations.MatrixOperations := by
  unfold Obligations.MatrixOperations
  intro eng enters tile inside tabs multiplies va zero tmacA len rows
  refine ⟨?_, ?_, ?_, ?_, ?_, ?_, ?_, ?_, ?_, ?_⟩
  · rintro ext
    refine does_enter bodyTzero (fun c => seqRec c 0xC3 0 0 0 ext) (fun _ _ => rfl) ?_
    rintro c rfl
    rfl
  · exact fun ext => does_enter bodyMma (fun c => seqRec c 0xC4 c.va c.vb c.vc ext) (fun _ _ => rfl) fun c => issueMul_of_multiplies
  · exact fun ext => does_enter bodyMmac (fun c => seqRec c 0xC5 0 c.vb c.vc ext) (fun _ _ => rfl) fun c => issueMul_of_multiplies
  · exact fun ext => does_enter bodyMmab (fun c => seqRec c 0xC6 0 c.vb c.vc ext) (fun _ _ => rfl) fun c => issueMul_of_multiplies
  · refine fun ext => does_enter bodyTmac (fun c => seqRec c 0xC7 (tmacA c) c.vb c.vc ext) (fun _ _ => rfl) fun c hmul => ?_
    have htile : (if modBits c.mod 5 4 == 0 then c.va else 0) = tmacA c := by simp only [beq_iff_eq]; rfl
    rw [bodyTmac, htile]
    exact issueMul_of_multiplies hmul
  · refine fun ext => does_enter bodyTdrn (fun c => seqRec c 0xC8 c.vb 0 0 ext) (fun _ _ => rfl) ?_
    rintro c ⟨hglobal, halign, rfl⟩
    exact bodyTdrn_global hglobal halign
  · refine fun ext => does_enter bodyTdrn (fun c => seqRec c 0xC8 c.vb 0 0 ext) (fun _ _ => rfl) ?_
    rintro c ⟨hlocal, htile, hinside, rfl⟩
    exact bodyTdrn_tile hlocal htile hinside
  · refine fun ext => does_enter bodyTdrnb (fun c => seqRec c 0xC9 0 0 c.vc ext) (fun _ _ => rfl) ?_
    rintro c ⟨htabs, hfmt, hpair, hnf, rfl⟩
    exact bodyTdrnb_ready htabs hfmt hpair hnf
  · intro f s k a h c htabs hrow
    have hout : exec (.mma f) s = .next (settle c.k c.a c.len (issueMul c 0xC4 c.va)) := issueL_clear h bodyMma
    rw [issueMul_without_row htabs hrow] at hout
    exact faults_settle hout rfl h.here
  · intro f s k a h c hlocal halign
    have hout : exec (.tdrn f) s = .next (settle c.k c.a c.len (bodyTdrn c)) := issueL_clear h bodyTdrn
    rw [bodyTdrn_misaligned (c := c) hlocal halign] at hout
    exact faults_settle hout rfl h.here

end Sys2Proof.Machine
end

section
/-!
PROOF. The events of tile tasks (R257 to R262, R274 to R282, R285).
-/
namespace Sys2Proof.Machine

/-! ### The head of a TASK queue (R257, R259, R263) -/

/-- A record that becomes its queue's head is checked, or completes where its cluster set has retired. -/
theorem taskHead_enters {s t : State} {qk : Nat} {q : Queue} {h : Head} {c : CSet} (hq : queue? s qk = some q) (hkind : q.kind = 4)
    (hstartable : startable s q = true) (hflushed : (entMeta q q.doneN).flushed = false) (hstart : startHead s qk q = some (t, h))
    (hmarker : (entMeta q h.num).marker = none) (hset : cset? s q.cset = some c) (hlate : lateTask s c.cluster = false) :
    Enters (exec (.taskHead qk) s) (if c.retired then finishHead t qk 0x24
      else if taskFault t c h.img = 0 then t else finishHead t qk (taskFault t c h.img)) := by
  change Enters (execTaskHead qk s) _
  refine Enters.of_eq ?_
  unfold taskHead
  rw [hq]
  dsimp only
  rw [if_neg (by simp [hkind, hstartable, hset, hlate]), if_neg (by simp [hflushed]), hstart, hset]
  dsimp only
  rw [hmarker]
  refine (if_neg (by simp)).trans (if_congr Iff.rfl rfl ?_)
  split
  next hsound => rw [if_pos hsound]
  next hfaulty => rw [if_neg hfaulty]

/-! ### Admission (R258, R260 to R262) -/

/-- The cluster of a task as it starts, charged the record's energy. -/
def chargedCluster (s : State) (cl qk : Nat) (q : Queue) (h : Head) : Cluster :=
  { cluster s cl with
    remaining := (cluster s cl).remaining - recEnergy h.img, admitted := (cluster s cl).admitted + 1
    charged := fput (cluster s cl).charged q.asid (fgetD (cluster s cl).charged q.asid 0 + recEnergy h.img)
    admittedBy := fput (cluster s cl).admittedBy q.asid (fgetD (cluster s cl).admittedBy q.asid 0 + 1), turn := qk
    eng := { join := BitVec.ofNat 64 (recJoin h.img), cont := BitVec.ofNat 64 (recCont h.img), code := h.code } }
/-- The party of a task as it starts, before and after X1 and X2 are set. -/
def freshTask (s : State) (qk : Nat) (q : Queue) (h : Head) (c : CSet) : Agent :=
  { kind := .task, uid := s.nextUid, asid := q.asid, tasid := q.asid, kernel := c.kernel, nregs := 32, pc := BitVec.ofNat 64 (recCode h.img),
    clk := (inTiles h.img).foldl (fun m t => cmax m (tokClock c t)) h.who.clk, queue := qk, entryNo := h.num }
def startedTask (s : State) (qk : Nat) (q : Queue) (h : Head) (c : CSet) : Agent :=
  ((freshTask s qk q h c).putX 1 (recFrame h.img)).putX 2 (q.slotVa h.num)

theorem startedTask_rest (s : State) (qk : Nat) (q : Queue) (h : Head) (c : CSet) :
    ∃ x, startedTask s qk q h c = { freshTask s qk q h c with x := x } := by
  obtain ⟨x, hx⟩ := putX_rest (freshTask s qk q h c) 1 (recFrame h.img)
  obtain ⟨y, hy⟩ := putX_rest ((freshTask s qk q h c).putX 1 (recFrame h.img)) 2 (q.slotVa h.num)
  exact ⟨y, by rw [startedTask, hy, hx]⟩
theorem startedTask_x1 (s : State) (qk : Nat) (q : Queue) (h : Head) (c : CSet) :
    ((startedTask s qk q h c).xcell 1).val = BitVec.ofNat 64 (recFrame h.img) := by
  rw [startedTask, wroteX_putX _ 2 _ 1, if_neg (by omega), wroteX_putX _ 1 _ 1, if_pos ⟨rfl, by omega, by omega⟩]
theorem startedTask_x2 (s : State) (qk : Nat) (q : Queue) (h : Head) (c : CSet) :
    ((startedTask s qk q h c).xcell 2).val = BitVec.ofNat 64 (q.slotVa h.num) := by
  rw [startedTask, wroteX_putX _ 2 _ 2, if_pos ⟨rfl, by omega, by omega⟩]
/-- What a task's start changes: its party, its cluster, its queue's head, and the count of parties. -/
theorem startTask_eq {s : State} {qk : Nat} {q : Queue} {h : Head} (hq : queue? s qk = some q) (hhead : q.head = some h) (cl : Nat) (c : CSet) :
    startTask s cl qk q h c = { s with
      nextUid := s.nextUid + 1, clusters := fput s.clusters cl (chargedCluster s cl qk q h)
      agents := fput s.agents (taskKey cl) (startedTask s qk q h c)
      queues := fput s.queues qk { q with head := some { h with marked := true } } } := by
  refine (modHead_some (s := { s with
    nextUid := s.nextUid + 1, clusters := fput s.clusters cl (chargedCluster s cl qk q h)
    agents := fput s.agents (taskKey cl) (startedTask s qk q h c) }) hq _).trans ?_
  rw [hhead]
  rfl

section
variable {s : State} {cl qk : Nat} {q : Queue} {h : Head} {c : CSet} (hfree : agent? s (taskKey cl) = none)
  (hchosen : chosen s cl = some (qk, q, h, c))
include hfree hchosen

/-- A cluster without a task starts the chosen one. -/
theorem taskAdmission_starts : exec (.taskAdmission cl) s = event (fun _ => startTask s cl qk q h c) s := by
  show execTaskAdmission cl s = _
  unfold execTaskAdmission
  refine event_congr ?_
  rw [hfree, hchosen]
  rfl
theorem taskAdmission_happens (hq : queue? s qk = some q) (hhead : q.head = some h) :
    Happens (exec (.taskAdmission cl) s) fun u => Only [.ids, .clusters, .queues, .trigs] s u ∧ Others [taskKey cl] s u ∧
      queue? u qk = some { q with head := some { h with marked := true } } ∧
      (engine u cl).join = BitVec.ofNat 64 (recJoin h.img) ∧ (engine u cl).cont = BitVec.ofNat 64 (recCont h.img) ∧
      (cluster u cl).remaining = (cluster s cl).remaining - recEnergy h.img ∧
      ∃ a, agent? u (taskKey cl) = some a ∧ a.kind = .task ∧ a.pc = BitVec.ofNat 64 (recCode h.img) ∧ a.queue = qk ∧ a.entryNo = h.num ∧
        (a.xcell 1).val = BitVec.ofNat 64 (recFrame h.img) ∧ (a.xcell 2).val = BitVec.ofNat 64 (q.slotVa h.num) := by
  obtain ⟨x, hrest⟩ := startedTask_rest s qk q h c
  have hcharged : fgetD (fput s.clusters cl (chargedCluster s cl qk q h)) cl {} = chargedCluster s cl qk q h := fgetD_fput_same ..
  rw [taskAdmission_starts hfree hchosen]
  refine Happens.of_event fun w tr => ?_
  rw [startTask_eq hq hhead]
  refine ⟨fun p hp => ?_, ?_, fget?_fput_same _ _ _, congrArg (·.eng.join) hcharged, congrArg (·.eng.cont) hcharged, congrArg (·.remaining) hcharged,
    { startedTask s qk q h c with wait := w (startedTask s qk q h c) }, ?_, ?_, ?_, ?_, ?_, startedTask_x1 s qk q h c, startedTask_x2 s qk q h c⟩
  · cases p <;> simp_all [Same, State.looked, group?, ctx?]
  · exact (Others.of_eq fun j hj => agent?_putAgent_ne s _ (by simpa using hj)).trans (Others.looked _ _ w tr)
  · exact (agent?_looked _ w tr _).trans (congrArg (Option.map _) (fget?_fput_same _ _ _))
  all_goals rw [hrest]; rfl

end

/-! ### The engine's oldest operation (R274, R279, R281, R282) -/

section
variable {s : State} {cl : Nat} {a : Agent} {r : SeqRec} {t : List SeqRec} (hhere : agent? s (taskKey cl) = some a) (hops : (engine s cl).ops = r :: t)
  (hdue : kstepDue s cl = true) (hopen : (engine s cl).barred = false)
include hhere hops hdue hopen

/-- What the engine does next, while its task's cluster set has not retired. -/
theorem engineStep_eq : engineStep s cl =
    if r.opc = 0xC3 then putEngine s cl { (engine s cl).clearAcc (r.dst - 0x30) r.pair with ops := t }
    else if r.opc = 0xC8 then drain s cl (taskKey cl) a.queue a.entryNo (some (taskKey cl, a.uid)) (csetOf s a) r
    else if r.opc = 0xC9 then drainByp s cl a.queue a.entryNo (some (taskKey cl, a.uid)) r
    else (csetOf s a).elim s fun c => mulStep s cl a.queue a.entryNo (some (taskKey cl, a.uid)) c r r.k := by
  unfold engineStep
  simp only [hdue, hops, hhere, hopen, Bool.not_true, Bool.false_eq_true, if_false, List.drop_one, List.tail_cons, beq_iff_eq]
  cases csetOf s a <;> rfl

theorem matrixKStep_enters :
    (r.opc = 0xC3 → Enters (exec (.matrixKStep cl) s) (putEngine s cl { (engine s cl).clearAcc (r.dst - 0x30) r.pair with ops := t })) ∧
    (r.opc = 0xC8 → Enters (exec (.matrixKStep cl) s) (drain s cl (taskKey cl) a.queue a.entryNo (some (taskKey cl, a.uid)) (csetOf s a) r)) ∧
    (r.opc = 0xC9 → Enters (exec (.matrixKStep cl) s) (drainByp s cl a.queue a.entryNo (some (taskKey cl, a.uid)) r)) ∧
    (∀ c, r.isMul = true → csetOf s a = some c →
      Enters (exec (.matrixKStep cl) s) (mulStep s cl a.queue a.entryNo (some (taskKey cl, a.uid)) c r r.k)) := by
  have hstep := engineStep_eq hhere hops hdue hopen
  have henters {u : State} (hu : engineStep s cl = u) : Enters (exec (.matrixKStep cl) s) u := Enters.of_eq (f := (engineStep · cl)) hu
  refine ⟨fun hclear => henters ?_, fun hdrain => henters ?_, fun hbyp => henters ?_, fun c hmul hset => henters ?_⟩
  · rw [hstep, if_pos hclear]
  · rw [hstep, if_neg (by omega), if_pos hdrain]
  · rw [hstep, if_neg (by omega), if_neg (by omega), if_pos hbyp]
  · have hopc : 0xC4 ≤ r.opc ∧ r.opc ≤ 0xC7 := by simpa [SeqRec.isMul] using hmul
    rw [hstep, if_neg (by omega), if_neg (by omega), if_neg (by omega), hset, Option.elim_some]

end

/-! ### Continuations (R285) -/

theorem continuationPush_enters {s : State} {qk img code : Nat} {clk : Clock} {q : Queue} {t : List (Nat × Clock × Nat)} (hq : queue? s qk = some q)
    (hconts : q.conts = (img, clk, code) :: t) (hroom : q.full = false) (hstate : q.state ≠ .saved) (hrun : queuesRun s q.asid = true) :
    Enters (exec (.continuationPush qk) s)
      (pushEntry { s with queues := fput s.queues qk { q with conts := t } } qk img { code := code, clk := clk }) := by
  change Enters (execContinuationPush qk s) _
  refine Enters.of_eq ?_
  rw [hq]
  dsimp only
  rw [hconts]
  exact if_pos (by simp [contDue, hconts, hroom, hstate, hrun])

/-- Settles O53, event by event. -/
theorem tileTaskEvents : Obligations.TaskEvents := by
  unfold Obligations.TaskEvents
  exact ⟨fun s qk q t h c hq hkind hstartable hflushed hstart _ hmarker => taskHead_enters hq hkind hstartable hflushed hstart hmarker,
    fun s cl qk q h c => taskAdmission_happens, fun s cl a r t => matrixKStep_enters, fun s qk q img clk code t => continuationPush_enters⟩

end Sys2Proof.Machine
end

section
/-!
PROOF. The mash instructions (R240, R291, R295 to R297, R299): what the die's mash unit checks, and the entry that it pushes.
-/
namespace Sys2Proof.Machine

/-! ### The checks of acceptance (R291, R299) -/

/-- The die's MASH queue of an instruction's context. -/
def Ctx'.mashQueue (c : Ctx') : Nat := mashKey c.a.asid (dieOf c.k)
/-- The MASH queue is there and takes an entry. -/
def Ctx'.MashReady (c : Ctx') (q : Queue) : Prop := queue? c.s c.mashQueue = some q ∧ q.state ≠ .disabled ∧ q.inPlace ∧ q.full = false
/-- Every field ends within the 256 rows. -/
def FieldsFit (l : List (Nat × Nat)) : Prop := ∀ x ∈ l, x.1 + x.2 ≤ 256
/-- The image of the entry that a mash instruction pushes. -/
def Ctx'.mashImage (c : Ctx') (op ea n : Nat) : Nat :=
  MashEnt.image { op := op, d := c.f.dst.toNat, a := c.f.a.toNat, b := bNum c.f, c := c.f.c.toNat, m := c.mod, ea := ea, n := n }
/-- Whether the entry of an operation holds an address pair: a transfer's, and the signal of CARVE and MS.REL. -/
def holdsAddress (op : Nat) : Bool := [0x90, 0x91, 0x92, 0x9D, 0x9E, 0x9F].contains op
/-- What an entry says of its issuer. -/
def Ctx'.issuer (c : Ctx') : EntryMeta := { issuer := some (c.k, c.a.uid), group := if c.a.kind = .thread then some c.a.group else none }
/-- A queue takes a declaration of ways, where there is one (R297). -/
def declareWays (s : State) (qk : Nat) : Option Nat → State
  | some k => modQueue s qk fun q => { q with kdecl := k }
  | none => s

/-- A mash instruction passes the checks of the mash unit. -/
structure MashPasses (c : Ctx') (op align : Nat) (fields : List (Nat × Nat)) (n kd : Nat) : Prop where
  fit      : FieldsFit fields
  declared : op ≠ 0x90 → op ≠ 0x9F → kd ≠ 0
  lanes    : op = 0x91 ∨ op = 0x92 → n ≤ kd * Config.wayLanes
  ways     : op = 0x90 → n ≤ 12 ∧ kd = 0
  aligned  : c.va % align = 0
  signal   : op = 0x90 ∨ op = 0x9F → c.va ≠ 0 → ∀ e, checkSignal c.s c.k c.a c.va ≠ .bad e

section
variable {c : Ctx'} {op align n : Nat} {fields : List (Nat × Nat)} {q : Queue}

theorem any_beyond_eq_false : fields.any (fun (b, w) => b + w > 256) = false ↔ FieldsFit fields := by
  simp [FieldsFit]
/-- Fields beyond the rows, or an operation on a region without declared ways (R291, R299). -/
theorem accept_mashRange {kdecl : Option Nat} (hop : op ≠ 0x90 ∧ op ≠ 0x9F)
    (h : ¬ FieldsFit fields ∨ ∀ q, queue? c.s c.mashQueue = some q → q.kdecl = 0) :
    accept c op align fields n kdecl = .freeze c.s .mashRange {} := by
  unfold accept
  refine if_pos ?_
  obtain hrows | hways := h
  · rw [← any_beyond_eq_false, Bool.not_eq_false] at hrows
    rw [hrows]
    rfl
  · have hzero : (queue? c.s (mashKey c.a.asid (dieOf c.k))).elim 0 (·.kdecl) = 0 := by
      cases hq : queue? c.s (mashKey c.a.asid (dieOf c.k)) with
      | none => rfl
      | some q => exact hways q hq
    simp [hzero, hop]
/-- An instruction that passes pushes its entry, and declares the ways where it has a declaration. -/
theorem accept_passes (h : MashPasses c op align fields n q.kdecl) (hq : queue? c.s c.mashQueue = some q) (hstate : q.state ≠ .disabled)
    (hroom : q.full = false) (kdecl : Option Nat) : accept c op align fields n kdecl =
      .next (declareWays (pushEntry c.s c.mashQueue (c.mashImage op (if holdsAddress op then c.va else 0) n) c.issuer) c.mashQueue kdecl) := by
  obtain ⟨hfit, hdeclared, hlanes, hways, haligned, hsignal⟩ := h
  unfold Ctx'.mashQueue at hq
  have hrange : ¬ ((fields.any fun (b, w) => b + w > 256) || (op != 0x90 && op != 0x9F && q.kdecl == 0) ||
      ((op == 0x91 || op == 0x92) && n > q.kdecl * Config.wayLanes) || (op == 0x90 && (n > 12 || q.kdecl != 0))) = true := by
    simp only [any_beyond_eq_false.mpr hfit, Bool.or_eq_true, Bool.and_eq_true, beq_iff_eq, bne_iff_ne, decide_eq_true_eq, Bool.false_eq_true, false_or]
    rintro ((⟨⟨hcarve, hrel⟩, hnone⟩ | ⟨hop, hover⟩) | ⟨hop, hover | hagain⟩)
    · exact hdeclared hcarve hrel hnone
    · exact absurd (hlanes hop) (Nat.not_le.mpr hover)
    · exact absurd (hways hop).1 (Nat.not_le.mpr hover)
    · exact hagain (hways hop).2
  have hsignal' (e : FCode) : (if (op == 0x90 || op == 0x9F) && c.va != 0 then checkSignal c.s c.k c.a c.va else .ok c.s) ≠ .bad e := by
    split
    next hcheck =>
      simp only [Bool.and_eq_true, Bool.or_eq_true, beq_iff_eq, bne_iff_ne] at hcheck
      exact hsignal hcheck.1 hcheck.2 e
    next => exact SigCheck.noConfusion
  unfold accept
  simp only [hq, Option.elim_some]
  rw [if_neg hrange, if_neg (by simp [haligned])]
  generalize (if (op == 0x90 || op == 0x9F) && c.va != 0 then checkSignal c.s c.k c.a c.va else .ok c.s) = signal at hsignal' ⊢
  cases signal with
  | bad code => exact absurd rfl (hsignal' code)
  | _ =>
    rw [if_neg (ne_true_of_eq_false (disabled_eq_false hq hstate)), metaOf_eq]
    cases kdecl with
    | some k => exact if_neg (ne_true_of_eq_false hroom)
    | none => exact pushOr_room hq hstate hroom none

end

/-! ### Operations and transfers (R295, R296) -/

/-- An operation or transfer is accepted under the checks of the mash unit, and refused where its fields or the region do not allow it. -/
def MashAccepted (i : FormL → Instr) (o : Op) (op : Nat) (align : Ctx' → Nat) (addr : Bool) (fields : Ctx' → List (Nat × Nat))
    (n bound : Ctx' → Nat) : Prop :=
  (∀ q, Does i o (fun c => c.MashReady q ∧ q.kdecl ≠ 0 ∧ FieldsFit (fields c) ∧ bound c ≤ q.kdecl * Config.wayLanes ∧ c.va % align c = 0)
    [.mem, .bases, .queues, .lines, .poison] fun c u b =>
      Pushed c.s u c.mashQueue (c.mashImage op (if addr then c.va else 0) (n c)) c.issuer q ∧ b.core = c.a.core) ∧
  (∀ f s k a, Clear o f s k a → let c := ctxOf o f (lenOf f) s k a
    (¬ FieldsFit (fields c) ∨ ∀ q, queue? s c.mashQueue = some q → q.kdecl = 0) → Faults c (exec (i f) s) .mashRange {})

section
variable {i : FormL → Instr} {o : Op} {op : Nat} {fields : Ctx' → List (Nat × Nat)} {n bound : Ctx' → Nat}

/-- An instruction whose own execution is acceptance without a declaration; only a transfer of lanes has a bound on them. -/
theorem mashAccepted_of_accept {align : Ctx' → Nat} (hop : op ≠ 0x90 ∧ op ≠ 0x9F) (hlanes : op = 0x91 ∨ op = 0x92 → n = bound)
    (hi : ∀ f s, exec (i f) s = issueL o f (fun c => accept c op (align c) (fields c) (n c) none) s) :
    MashAccepted i o op align (holdsAddress op) fields n bound := by
  obtain ⟨hcarve, hrel⟩ := hop
  constructor
  · refine fun q => doesL _ hi fun c hhere ⟨⟨hq, hstate, hplace, hroom⟩, hways, hfit, hbound, halign⟩ => ?_
    have hpasses : MashPasses c op (align c) (fields c) (n c) q.kdecl :=
      { fit := hfit, declared := fun _ _ => hways, lanes := fun h => hlanes h ▸ hbound, ways := fun h => absurd h hcarve, aligned := halign
        signal := fun h => absurd h (not_or.mpr ⟨hcarve, hrel⟩) }
    obtain ⟨hpushed, honly, hagents⟩ := pushEntry_spec hq hplace (c.mashImage op (if holdsAddress op then c.va else 0) (n c)) c.issuer
    exact ⟨_, c.a, accept_passes hpasses hq hstate hroom none, (hagents c.k).trans hhere, rfl, honly, Others.of_eq fun j _ => hagents j,
      fun u b hu hb => ⟨hpushed.later (hu .mem (by simp)) (hu .queues (by simp)), hb⟩⟩
  · intro f s k a h c hrefused
    exact h.faults hi (accept_mashRange ⟨hcarve, hrel⟩ hrefused) rfl

/-- An operation on rows, which has neither an address nor lanes to bound. -/
theorem mashAccepted_row (hop : 0x93 ≤ op ∧ op ≤ 0x9C) (hi : ∀ f s, exec (i f) s = issueL o f (fun c => accept c op 1 (fields c) (n c) none) s) :
    MashAccepted i o op (fun _ => 1) false fields n (fun _ => 0) := by
  have haddr : holdsAddress op = false := by simp [holdsAddress]; omega
  exact haddr ▸ mashAccepted_of_accept (align := fun _ => 1) (by omega) (by omega) hi

end

/-! ### CARVE and MS.REL (R297) -/

theorem declareWays_spec {v : State} {qk : Nat} {p : Queue} (hp : queue? v qk = some p) (k : Nat) :
    Only [.mem, .bases, .queues, .lines, .poison] v (declareWays v qk (some k)) ∧ (∀ j, agent? (declareWays v qk (some k)) j = agent? v j) ∧
    (∀ j, queue? (declareWays v qk (some k)) j = if j = qk then some { p with kdecl := k } else queue? v j) ∧
    MemBut v (declareWays v qk (some k)) (deviceBytes v p.asid p.recVa.toNat 64) := by
  have hset : declareWays v qk (some k) = setQueue v qk { p with kdecl := k } := modQueue_some hp _
  obtain ⟨honly, hagents, hqueues, -, hbut⟩ := setQueue_spec v qk { p with kdecl := k }
  exact hset ▸ ⟨honly, hagents, hqueues, hbut⟩
/-- An entry is pushed, and its queue takes a declaration of ways. -/
theorem does_declare {i : FormL → Instr} {o : Op} {op : Nat} {n : Ctx' → Nat} {H : Ctx' → Queue → Prop} (haddr : holdsAddress op = true)
    (hpasses : ∀ c q, H c q → c.va % 8 = 0 → (c.va ≠ 0 → ∀ e, checkSignal c.s c.k c.a c.va ≠ .bad e) → MashPasses c op 8 [] (n c) q.kdecl)
    (hi : ∀ f s, exec (i f) s = issueL o f (fun c => accept c op 8 [] (n c) (some (n c))) s) (q : Queue) :
    Does i o (fun c => c.MashReady q ∧ H c q ∧ c.va % 8 = 0 ∧ (c.va ≠ 0 → ∀ e, checkSignal c.s c.k c.a c.va ≠ .bad e))
      [.mem, .bases, .queues, .lines, .poison] fun c u b => b.core = c.a.core ∧
        ∃ v, Pushed c.s v c.mashQueue (c.mashImage op c.va (n c)) c.issuer q ∧
          queue? u c.mashQueue = (queue? v c.mashQueue).map (fun q => { q with kdecl := n c }) ∧ (∀ j, j ≠ c.mashQueue → queue? u j = queue? v j) ∧
          MemBut v u (deviceBytes v q.asid q.recVa.toNat 64) := by
  refine doesL _ hi fun c hhere ⟨⟨hq, hstate, hplace, hroom⟩, hH, halign, hsignal⟩ => ?_
  have hgo := accept_passes (hpasses c q hH halign hsignal) hq hstate hroom (some (n c))
  rw [haddr, if_pos rfl] at hgo
  obtain ⟨hpushed, honly, hagents⟩ := pushEntry_spec hq hplace (c.mashImage op c.va (n c)) c.issuer
  obtain ⟨honly', hagents', hqueues, hbut⟩ := declareWays_spec hpushed.1 (n c)
  refine ⟨_, c.a, hgo, (hagents' c.k).trans ((hagents c.k).trans hhere), rfl, honly.trans honly',
    Others.of_eq fun j _ => (hagents' j).trans (hagents j), fun u b hu hb => ⟨hb, _, hpushed, ?_, fun j hj => ?_, fun hok i hi => ?_⟩⟩
  · rw [hpushed.1]
    exact (congrArg (fget? · c.mashQueue) (hu .queues (by simp))).trans ((hqueues _).trans (if_pos rfl))
  · exact (congrArg (fget? · j) (hu .queues (by simp))).trans ((hqueues j).trans (if_neg hj))
  · exact (congrArg (Memory.get · i) (hu .mem (by simp))).trans (hbut hok i hi)

/-- Settles O44: each instruction's own execution is acceptance, with its fields, its alignment and its declaration. -/
theorem mashInstructions : Obligations.MashInstructions := by
  unfold Obligations.MashInstructions
  intro key w rd ra rb word none entry party fit ready parts accepted row declares
  have hrow {i : FormL → Instr} {o : Op} {op : Nat} {fields : Ctx' → List (Nat × Nat)} {n : Ctx' → Nat} (hop : 0x93 ≤ op ∧ op ≤ 0x9C)
      (hi : ∀ f s, exec (i f) s = issueL o f (fun c => accept c op 1 (fields c) (n c) .none) s) : row i o op fields n := mashAccepted_row hop hi
  refine ⟨hrow (by decide) fun _ _ => rfl, hrow (by decide) fun _ _ => rfl, hrow (by decide) fun _ _ => rfl, hrow (by decide) fun _ _ => rfl,
    hrow (by decide) fun _ _ => rfl, hrow (by decide) fun _ _ => rfl, hrow (by decide) fun _ _ => rfl, hrow (by decide) fun _ _ => rfl,
    hrow (by decide) fun _ _ => rfl, hrow (by decide) fun _ _ => rfl,
    mashAccepted_of_accept (op := 0x9D) (align := fun _ => 8) (by decide) (by omega) fun _ _ => rfl,
    mashAccepted_of_accept (op := 0x9E) (align := fun _ => 4) (by decide) (by omega) fun _ _ => rfl,
    mashAccepted_of_accept (op := 0x91) (by decide) (fun _ => rfl) fun _ _ => rfl,
    mashAccepted_of_accept (op := 0x92) (by decide) (fun _ => rfl) fun _ _ => rfl,
    does_declare (op := 0x90) rfl (fun c q hH halign hsignal => ?_) fun _ _ => rfl,
    does_declare (op := 0x9F) rfl (fun c q _ halign hsignal => ?_) fun _ _ => rfl⟩
  · exact { fit := by simp [FieldsFit], declared := fun h => absurd rfl h, lanes := by omega, ways := fun _ => hH, aligned := halign,
            signal := fun _ => hsignal }
  · exact { fit := by simp [FieldsFit], declared := fun _ h => absurd rfl h, lanes := by omega, ways := by omega, aligned := halign,
            signal := fun _ => hsignal }

end Sys2Proof.Machine
end

section
/-!
PROOF. The events of the mash region (R287 to R289, R293 to R299, R375).
-/
namespace Sys2Proof.Machine

/-! ### A die's region (R288) -/

theorem mash_putMash_same (s : State) (d : Nat) (m : Mash) : (dieSt (putMash s d m) d).mash = m := congrArg Die.mash (dieSt_putDie_same s d _)
theorem mash_putMash_ne (s : State) {d j : Nat} (m : Mash) (h : j ≠ d) : dieSt (putMash s d m) j = dieSt s j := fgetD_fput_ne _ _ _ h
theorem putMash_putMash (s : State) (d : Nat) (m m' : Mash) : putMash (putMash s d m) d m' = putMash s d m' := by
  unfold putMash
  rw [dieSt_putDie_same]
  exact congrArg (fun x => { s with dies := x }) (fput_fput ..)
/-- A change of a region and of the queues changes the dies and the queues. -/
theorem Only.putMash_looked (s : State) (d : Nat) (m : Mash) (l : FMap Queue) (w : Agent → Wait) (tr : List Trig) :
    Only [.dies, .queues, .trigs] s (((putMash s d m).queued l).looked w tr) := by
  intro p hp
  cases p <;> simp_all [Same, State.looked, State.queued, putMash, group?, ctx?]

/-- A queue and a region change, and then the queue's head. -/
theorem modHead_putMash_putQueue (s : State) (qk : Nat) (q : Queue) (d : Nat) (m : Mash) (g : Head → Head) :
    modHead (putMash (putQueue s qk q) d m) qk g = { s with
      queues := fput s.queues qk { q with head := q.head.map g }, dies := fput s.dies d { dieSt s d with mash := m } } := by
  have hthere : queue? (putMash (putQueue s qk q) d m) qk = some q := queue?_putQueue_same s qk q
  exact (modHead_some hthere g).trans (congrArg (fun l => { putMash s d m with queues := l }) (fput_fput ..))

/-! ### The head of a MASH queue (R293) -/

/-- A finished head does not begin again. -/
theorem mashHead_finished {s : State} {qk : Nat} {q : Queue} {h : Head} (hq : queue? s qk = some q) (hhead : q.head = some h)
    (hfinished : h.finished = true) : mashHead s qk = none := by
  unfold mashHead
  rw [hq]
  dsimp only
  rw [hhead]
  exact if_neg (by simp [hfinished])
/-- The first error that an entry meets is its code: one it had, then poison, then a race. -/
theorem finished_code (code : Nat) (poison race : Bool) :
    (if (if code == 0 && poison then 0x23 else code) == 0 then if race then 0x22 else 0 else if code == 0 && poison then 0x23 else code) =
      if code ≠ 0 then code else if poison then 0x23 else if race then 0x22 else 0 := by
  by_cases hcode : code = 0
  · subst hcode
    cases poison <;> rfl
  · simp [hcode]

/-- No entry that has not begun, no run. -/
theorem runMash_unbegun {s : State} {qk : Nat} (hnone : mashHead s qk = none) (lo hi : Nat) (f : State → Who → MashEnt → Mash → Xfer) :
    runMash qk lo hi s f = s := by
  unfold runMash
  rw [hnone]
/-- An entry of another operation does not run. -/
theorem runMash_other {s : State} {qk : Nat} {q : Queue} {h : Head} {e : MashEnt} (hat : mashHead s qk = some (q, h, e)) {lo hi : Nat}
    (hout : e.op < lo ∨ hi < e.op) (f : State → Who → MashEnt → Mash → Xfer) : runMash qk lo hi s f = s := by
  unfold runMash
  rw [hat]
  exact if_pos (by simpa using hout)
/-- A head that owes marker fences to more homes (R375). -/
def Head.owing (h : Head) (homes : List Nat) : Head := { h with homes := homes.foldl lput h.homes }
/-- What a transfer entry moves (R296). -/
def laneTransfer (s : State) (w : Who) (e : MashEnt) (m : Mash) : Xfer :=
  match e.op with
  | 0x91 => loadLanes s w e m
  | 0x92 => storeLanes s w e m
  | 0x9D => sumLanes s w e m
  | _ => compactLanes s w e m
/-- A head `h` has run and stands as `j`: it owes markers to the homes it reached, and has met poison or a race. -/
structure MashFinished (h j : Head) (homes : List Nat) (poisoned : Prop) [Decidable poisoned] (race : Bool) : Prop where
  finished : j.finished = true
  homes    : j.homes = homes.foldl lput h.homes
  code     : j.code = if h.code ≠ 0 then h.code else if poisoned then 0x23 else if race then 0x22 else 0

/-! ### Rows (R287, R295) -/

theorem putRows_poison (m : Mash) (b act : Nat) (rows : List Nat) : (m.putRows b act rows).poison = m.poison := by
  unfold Mash.putRows
  generalize (upFrom 0 rows.length).zip rows = l
  induction l generalizing m with
  | nil => rfl
  | cons x l ih => exact ih _
/-- An operation on rows leaves the poison marks of the segments. -/
theorem rowOp_poison (e : MashEnt) (m : Mash) : (rowOp e m).poison = m.poison := by
  unfold rowOp
  extract_lets all w act a b put ex
  split
  case h_3 =>
    split
    · exact putRows_poison ..
    · exact putRows_poison ..
  all_goals exact putRows_poison ..

section
variable {s : State} {qk : Nat} {q : Queue} {h : Head} {e : MashEnt} (hat : mashHead s qk = some (q, h, e))
  (hhead : q.head = some h)
include hat hhead

/-! ### CARVE and MS.REL entries (R288, R289, R297, R299) -/

theorem carveEntry_carves (hop : e.op = 0x90)
    (hmine : ((dieSt s q.die).mash.owned = true ∧ (dieSt s q.die).mash.owner = q.asid) ∨ (dieSt s q.die).mash.owned = false)
    (hstate : (dieSt s q.die).mash.state = 0) (hquota : e.n ≤ (ctx? s q.asid).elim 0 (·.mashq)) (hpos : 0 < e.n) :
    Enters (exec (.carveEntry qk) s) { s with
      queues := fput s.queues qk { q with siga := BitVec.ofNat 64 e.ea, head := some { h with marked := true } }
      dies := fput s.dies q.die { dieSt s q.die with mash := { (dieSt s q.die).mash with owner := q.asid, owned := true, ways := e.n, state := 1 } } } := by
  let q' : Queue := { q with siga := BitVec.ofNat 64 e.ea }
  let m : Mash := { (dieSt s q.die).mash with owner := q.asid, owned := true, ways := e.n, state := 1 }
  have hothers : ((dieSt s q.die).mash.owned && (dieSt s q.die).mash.owner != q.asid) = false := by
    obtain ⟨-, howner⟩ | hfree := hmine
    · simp [howner]
    · simp [hfree]
  have hrefused : ¬ (decide (e.n > (ctx? s q.asid).elim 0 (·.mashq)) || (dieSt s q.die).mash.state != 0) = true := by simp [hquota, hstate]
  have hcarves : carveStart qk s = modHead (putMash (putQueue s qk q') q.die m) qk fun h => { h with marked := true } := by
    unfold carveStart
    rw [hat]
    refine (if_neg (by simp [hop])).trans ((if_neg (ne_true_of_eq_false hothers)).trans ((if_neg hrefused).trans ((if_pos hpos).trans ?_)))
    rw [if_pos hpos]
    rfl
  refine Enters.of_eq (hcarves.trans ((modHead_putMash_putQueue ..).trans ?_))
  simp only [q', hhead]
  rfl

theorem msRelEntry_releases (hq : queue? s qk = some q) (hop : e.op = 0x9F) (howned : (dieSt s q.die).mash.owned = true)
    (howner : (dieSt s q.die).mash.owner = q.asid) (hways : 0 < (dieSt s q.die).mash.ways) :
    Enters (exec (.msRelEntry qk) s) { s with
      queues := fput s.queues qk { q with head := some { h with
        marked := true, code := if (dieSt s q.die).mash.poison ≠ [] ∧ h.code = 0 then 0x23 else h.code } }
      dies := fput s.dies q.die { dieSt s q.die with mash :=
        { (dieSt s q.die).mash with owner := 0, owned := false, ways := 0, rows := [], poison := [], state := 4 } } } := by
  let m : Mash := { (dieSt s q.die).mash with owner := 0, owned := false, ways := 0, rows := [], poison := [], state := 4 }
  let h' : Head := { h with code := if (dieSt s q.die).mash.poison ≠ [] ∧ h.code = 0 then 0x23 else h.code }
  -- the head with the code that poison gives it
  have hcoded : (if (dieSt s q.die).mash.poison.isEmpty then s else headCode s qk 0x23) = putQueue s qk { q with head := some h' } := by
    by_cases hclean : (dieSt s q.die).mash.poison = []
    · have hsame : ({ q with head := some h' } : Queue) = q := by simp [h', hclean, ← hhead]
      rw [hsame, if_pos (by simp [hclean])]
      exact (congrArg (fun l => { s with queues := l }) (fput_fget? hq)).symm
    · rw [if_neg (by simp [hclean]), headCode, modHead_some hq, hhead]
      simp [h', hclean]
  have hreleases : exec (.msRelEntry qk) s =
      event (fun _ => modHead (putMash (putQueue s qk { q with head := some h' }) q.die m) qk fun h => { h with marked := true }) s := by
    show execMsRelEntry qk s = _
    unfold execMsRelEntry
    refine event_congr ?_
    rw [hat]
    refine (if_neg (by simp [hop])).trans ((if_pos (by simp [howned, howner])).trans ?_)
    dsimp only
    rw [hcoded, if_pos hways, if_pos hways]
  exact hreleases ▸ Enters.of_eq (modHead_putMash_putQueue ..)

/-! ### Operations and transfers (R293, R295, R296, R299, R375) -/

section
variable (howned : (dieSt s q.die).mash.owned = true) (howner : (dieSt s q.die).mash.owner = q.asid) (hways : (dieSt s q.die).mash.ways ≠ 0)
  (hstate : (dieSt s q.die).mash.state = 2 ∨ (dieSt s q.die).mash.state = 3)
include howned howner hways hstate

section
variable {t : State} {y : Mash} {poison race : Bool} (hkept : queue? t qk = some q)
include hkept

/-- An operation that has run on its context's region leaves the region as it made it, and finishes its entry. -/
theorem runMash_headed {lo hi : Nat} {f : State → Who → MashEnt → Mash → Xfer} (hin : lo ≤ e.op ∧ e.op ≤ hi)
    (hdone : f (putMash s q.die { (dieSt s q.die).mash with state := 3 }) h.who e { (dieSt s q.die).mash with state := 3 } = .done t y poison race) :
    ∃ j, MashFinished h j (homesOf t q.asid (e.ranges (dieSt s q.die).mash)) (poison = true ∨ y.poison ≠ []) race ∧
      Headed (putMash t q.die y) (runMash qk lo hi s f) qk j := by
  have hthere : queue? (putMash t q.die y) qk = some q := hkept
  have hmet := ((Headed.of_head hthere hhead).modHead (·.owing (homesOf t q.asid (e.ranges (dieSt s q.die).mash)))).code
    (poison || !y.poison.isEmpty) 0x23
  have hrefused : ¬ (!(dieSt s q.die).mash.owned || (dieSt s q.die).mash.owner != q.asid || (dieSt s q.die).mash.ways == 0 ||
      ((dieSt s q.die).mash.state != 2 && (dieSt s q.die).mash.state != 3)) = true := by
    obtain hready | hbusy := hstate
    · simp [howned, howner, hways, hready]
    · simp [howned, howner, hways, hbusy]
  have hrun : runMash qk lo hi s f =
      let t := modHead (putMash t q.die y) qk (·.owing (homesOf t q.asid (e.ranges (dieSt s q.die).mash)))
      finishHead (if poison || !y.poison.isEmpty then headCode t qk 0x23 else t) qk (if race then 0x22 else 0) := by
    unfold runMash
    rw [hat]
    refine (if_neg (by simpa [Nat.not_lt] using hin)).trans ((if_neg hrefused).trans ?_)
    dsimp only
    rw [hdone]
    rfl
  rw [hrun]
  refine ⟨_, ⟨rfl, rfl, (finished_code h.code (poison || !y.poison.isEmpty) race).trans ?_⟩, hmet.modHead _⟩
  simp

theorem mashTransfer_headed (hop : e.op ∈ [0x91, 0x92, 0x9D, 0x9E])
    (hdone : laneTransfer (putMash s q.die { (dieSt s q.die).mash with state := 3 }) h.who e { (dieSt s q.die).mash with state := 3 } =
      .done t y poison race) :
    ∃ j, MashFinished h j (homesOf t q.asid (e.ranges (dieSt s q.die).mash)) (poison = true ∨ y.poison ≠ []) race ∧
      Headed (putMash t q.die y) (runMash qk 0x9D 0x9E (runMash qk 0x91 0x92 s laneTransfer) laneTransfer) qk j := by
  have hcases : (0x91 ≤ e.op ∧ e.op ≤ 0x92) ∨ (0x9D ≤ e.op ∧ e.op ≤ 0x9E) := by
    simp only [List.mem_cons, List.not_mem_nil, or_false] at hop
    omega
  obtain hlanes | hsums := hcases
  · obtain ⟨j, hfin, hheaded⟩ := runMash_headed hat hhead howned howner hways hstate hkept hlanes hdone
    obtain ⟨-, p, hp, hphead⟩ := id hheaded
    exact ⟨j, hfin, (runMash_unbegun (mashHead_finished hp hphead hfin.finished) _ _ _).symm ▸ hheaded⟩
  · rw [runMash_other hat (.inr (by omega))]
    exact runMash_headed hat hhead howned howner hways hstate hkept hsums hdone
theorem mashTransferEntry_happens (hop : e.op ∈ [0x91, 0x92, 0x9D, 0x9E])
    (hdone : laneTransfer (putMash s q.die { (dieSt s q.die).mash with state := 3 }) h.who e { (dieSt s q.die).mash with state := 3 } =
      .done t y poison race) : Happens (exec (.mashTransferEntry qk) s) fun u => u.mem = t.mem ∧ (dieSt u q.die).mash = y ∧
        ∃ p j, queue? u qk = some p ∧ p.head = some j ∧
          MashFinished h j (homesOf t q.asid (e.ranges (dieSt s q.die).mash)) (poison = true ∨ y.poison ≠ []) race := by
  obtain ⟨j, hfin, ⟨m, hm⟩, p, hp, hphead⟩ := mashTransfer_headed hat hhead howned howner hways hstate hkept hop hdone
  show Happens (event (fun s => runMash qk 0x9D 0x9E (runMash qk 0x91 0x92 s laneTransfer) laneTransfer) s) _
  refine Happens.of_event fun w tr => ?_
  rw [hm] at hp ⊢
  exact ⟨rfl, mash_putMash_same .., p, j, hp, hphead, hfin⟩

end

theorem mashOperationEntry_happens (hq : queue? s qk = some q) (hin : 0x93 ≤ e.op ∧ e.op ≤ 0x9C) : Happens (exec (.mashOperationEntry qk) s) fun u =>
    (dieSt u q.die).mash = rowOp e { (dieSt s q.die).mash with state := 3 } ∧ (∀ j, j ≠ q.die → (dieSt u j).mash = (dieSt s j).mash) ∧
    Only [.dies, .queues, .trigs] s u ∧ Others [] s u ∧ ∃ p j, queue? u qk = some p ∧ p.head = some j ∧ j.finished = true ∧
      j.code = if h.code ≠ 0 then h.code else if (dieSt s q.die).mash.poison = [] then 0 else 0x23 := by
  obtain ⟨j, ⟨hfin, -, hcode⟩, ⟨m, hm⟩, p, hp, hphead⟩ := runMash_headed (f := fun s _ e m => .done s (rowOp e m) false false)
    (t := putMash s q.die { (dieSt s q.die).mash with state := 3 }) hat hhead howned howner hways hstate hq hin rfl
  rw [putMash_putMash] at hm
  show Happens (event (fun s => runMash qk 0x93 0x9C s fun s _ e m => .done s (rowOp e m) false false) s) _
  refine Happens.of_event fun w tr => ?_
  rw [hm] at hp ⊢
  refine ⟨mash_putMash_same .., fun j hj => congrArg Die.mash (mash_putMash_ne _ _ hj), Only.putMash_looked _ _ _ _ _ _, .looked_of rfl w tr,
    p, j, hp, hphead, hfin, hcode.trans ?_⟩
  simp [rowOp_poison]

end

end

/-! ### The ends of carving and releasing (R288, R289) -/

/-- The ways of a region are emptied. -/
def emptied (s : State) (d : Nat) : State := dropLines s fun l => l.die == d && l.way ≥ 16 - (dieSt s d).mash.ways

theorem mem_emptied {s : State} {d : Nat} {l : Line} (hl : l ∈ (emptied s d).lines) : ¬ (l.die = d ∧ 16 - (dieSt s d).mash.ways ≤ l.way) := by
  rintro ⟨hdie, hway⟩
  simpa [hdie, hway] using (List.mem_filter.mp hl).2

section
variable {s : State} {d : Nat}

section
variable (hstate : (dieSt s d).mash.state = 1)
include hstate

theorem carvingComplete_ends : exec (.carvingComplete d) s = event (fun _ => (markedMash s d 0x90).elim (putMash (emptied s d) d {}) fun qk =>
    finishHead (putMash (emptied s d) d { (dieSt s d).mash with state := 2, rows := [], poison := [] }) qk 0) s := by
  have hsame : markedMash s d 0x90 = markedMash (emptied s d) d 0x90 := rfl
  show execCarvingComplete d s = _
  refine event_congr ((if_neg (by simp [hstate])).trans ?_)
  rw [hsame]
  dsimp only [emptied]
  generalize markedMash _ d 0x90 = found
  cases found <;> rfl

theorem carvingComplete_frees (hmarked : markedMash s d 0x90 = none) : Happens (exec (.carvingComplete d) s) fun u =>
    (dieSt u d).mash = {} ∧ (∀ j, j ≠ d → (dieSt u j).mash = (dieSt s j).mash) ∧
      ∀ l ∈ u.lines, ¬ (l.die = d ∧ 16 - (dieSt s d).mash.ways ≤ l.way) := by
  rw [carvingComplete_ends hstate, hmarked]
  exact Happens.of_event fun w tr => ⟨mash_putMash_same .., fun j hj => congrArg Die.mash (mash_putMash_ne _ _ hj), fun l => mem_emptied⟩
theorem carvingComplete_readies {qk : Nat} {q : Queue} {h : Head} (hmarked : markedMash s d 0x90 = some qk) (hq : queue? s qk = some q)
    (hhead : q.head = some h) : Happens (exec (.carvingComplete d) s) fun u =>
      (dieSt u d).mash = { (dieSt s d).mash with state := 2, rows := [], poison := [] } ∧ (∀ j, j ≠ d → (dieSt u j).mash = (dieSt s j).mash) ∧
      (∀ l ∈ u.lines, ¬ (l.die = d ∧ 16 - (dieSt s d).mash.ways ≤ l.way)) ∧ ∃ p j, queue? u qk = some p ∧ p.head = some j ∧ j.finished = true := by
  let t := putMash (emptied s d) d { (dieSt s d).mash with state := 2, rows := [], poison := [] }
  have hready : Headed t t qk h := .of_head hq hhead
  obtain ⟨⟨m, hm⟩, p, hp, hphead⟩ := hready.modHead fun h => { h with finished := true, code := if h.code == 0 then 0 else h.code }
  rw [carvingComplete_ends hstate, hmarked, Option.elim_some, finishHead, hm]
  rw [hm] at hp
  refine Happens.of_event fun w tr => ?_
  exact ⟨mash_putMash_same .., fun j hj => congrArg Die.mash (mash_putMash_ne _ _ hj), fun l => mem_emptied, p, _, hp, hphead, rfl⟩

end

theorem releasingComplete_frees (hstate : (dieSt s d).mash.state = 4) : Happens (exec (.releasingComplete d) s) fun u =>
    (dieSt u d).mash = { (dieSt s d).mash with state := 0 } ∧ (∀ j, j ≠ d → (dieSt u j).mash = (dieSt s j).mash) ∧
      Only [.dies, .queues, .trigs] s u ∧ Others [] s u := by
  let t := putMash s d { (dieSt s d).mash with state := 0 }
  obtain ⟨m, hm⟩ : ∃ m, (match markedMash t d 0x9F with | some qk => finishHead t qk 0 | none => t) = t.queued m := by
    split
    · exact modHead_queues ..
    · exact ⟨t.queues, rfl⟩
  have hends : exec (.releasingComplete d) s = event (fun _ => t.queued m) s := by
    show execReleasingComplete d s = _
    exact event_congr ((if_neg (by simp [hstate])).trans hm)
  rw [hends]
  exact Happens.of_event fun w tr => ⟨mash_putMash_same .., fun j hj => congrArg Die.mash (mash_putMash_ne _ _ hj), Only.putMash_looked _ _ _ _ _ _,
    .looked_of rfl w tr⟩

end

/-- Settles O54, event by event. -/
theorem mashRegionEvents : Obligations.MashEvents := by
  unfold Obligations.MashEvents
  intro at_ m dies mine
  refine ⟨fun s qk q h e ⟨hat, _, hhead⟩ => carveEntry_carves hat hhead, fun s d => carvingComplete_frees,
    fun s d qk q h hstate => carvingComplete_readies hstate,
    fun s qk q h e ⟨hat, hq, hhead⟩ hlo hhi ⟨howned, howner⟩ hways hstate =>
      mashOperationEntry_happens hat hhead howned howner hways hstate hq ⟨hlo, hhi⟩,
    fun s qk q h e t y po x ⟨hat, _, hhead⟩ hop ⟨howned, howner⟩ hways hstate hdone hkept => ?_,
    fun s qk q h e ⟨hat, hq, hhead⟩ hop ⟨howned, howner⟩ => msRelEntry_releases hat hhead hq hop howned howner, fun s d => releasingComplete_frees⟩
  have hlanes : laneTransfer (putMash s q.die { (dieSt s q.die).mash with state := 3 }) h.who e { (dieSt s q.die).mash with state := 3 } =
      .done t y po x := by
    unfold laneTransfer
    simp only [List.mem_cons, List.not_mem_nil, or_false] at hop
    obtain hload | hstore | hsum | hcompact := hop
    · rw [hload] at hdone ⊢; exact hdone
    · rw [hstore] at hdone ⊢; exact hdone
    · rw [hsum] at hdone ⊢; exact hdone
    · rw [hcompact] at hdone ⊢; exact hdone
  obtain ⟨u, hu, hmem, hregion, p, j, hp, hphead, hfinished, hhomes, hcode⟩ :=
    mashTransferEntry_happens hat hhead howned howner hways hstate hkept hop hlanes
  exact ⟨u, hu, hmem, hregion, p, j, hp, hphead, hfinished, hhomes, hcode⟩

end Sys2Proof.Machine
end

section
/-!
PROOF. The state after reset (R417), and that a step never refuses (R418).
-/
namespace Sys2Proof.Machine

/-! ### Reset -/

/-- Settles O5: reset lists nothing, so each map and memory reads as its default. -/
theorem resetState : Obligations.ResetState := by
  unfold Obligations.ResetState
  intro s
  exact ⟨⟨rfl, rfl, rfl, rfl, rfl⟩, fun _ => rfl, fun _ => rfl, rfl, rfl, rfl, rfl, rfl, rfl, fun _ => ⟨rfl, rfl, rfl, rfl, rfl⟩,
    fun _ => rfl, fun _ => ⟨rfl, rfl⟩, fun _ => ⟨rfl, rfl⟩, rfl, rfl⟩

/-! ### No meaning faults or refuses -/

/-- The meaning of every row of the opcode table is an event or an issue, and both answer a next state. -/
theorem exec_next (i : Instr) (s : State) : ∃ t, exec i s = .next t := by
  cases i <;> exact ⟨_, rfl⟩
/-- An event means what its row of the opcode table means. -/
theorem runEvent_next (e : Event) (s : State) : ∃ t, runEvent e s = .next t := by
  cases e <;> exact ⟨_, rfl⟩

/-- A dynamic warp's issue ends in a next state, whatever its fetch and its decoding find. -/
theorem issueWarp_next (port : Nat) (w : List (Nat × Agent)) (s : State) : ∃ t, issueWarp port w s = .next t := by
  unfold issueWarp
  split
  case h_1 => exact ⟨_, rfl⟩
  case h_2 k a rest =>
    dsimp only
    split
    case h_1 | h_2 | h_3 => exact ⟨_, rfl⟩
    case h_4 ws u _ =>
      split
      case h_1 i n _ =>
        obtain ⟨v, hv⟩ := exec_next i { u with issuing := k :: rest.map (·.1) }
        rw [hv]
        exact ⟨_, rfl⟩
      case h_2 => exact ⟨_, rfl⟩
theorem issueNext_next (s : State) : ∃ t, issueNext s = .next t := by
  unfold issueNext
  dsimp only
  split
  case h_1 => exact issueWarp_next _ _ _
  case h_2 => split <;> exact ⟨_, rfl⟩

/-- An event that is taken because it changes something ends in a next state. -/
theorem nextEvent_next {s : State} {o : Out} (h : nextEvent s = some o) : ∃ t, o = .next t := by
  obtain ⟨due, -, hdue⟩ := mem_of_firstSome h
  obtain ⟨e, -, he⟩ := mem_of_firstSome hdue
  obtain ⟨t, ht⟩ := runEvent_next e s
  unfold tryEvent at he
  rw [ht] at he
  dsimp only at he
  split at he
  · cases he
  · exact ⟨t, (Option.some.inj he).symm⟩

/-- Settles O4: the agenda, bring-up, a due event and an issue each end in a next state, so that only a FATAL package with nothing left on its
agenda stops. -/
theorem stepGoesOn : Obligations.StepGoesOn := by
  unfold Obligations.StepGoesOn
  intro s
  unfold step
  split
  case h_1 e t _ => exact .inl (runEvent_next _ _)
  case h_2 hagenda =>
    split
    case isTrue hfatal => exact .inr ⟨rfl, hfatal, hagenda⟩
    case isFalse =>
      split
      case isTrue => exact .inl (runEvent_next _ s)
      case isFalse =>
        split
        case h_1 o ho => exact .inl (nextEvent_next ho)
        case h_2 => exact .inl (issueNext_next s)

end Sys2Proof.Machine
end

section
/-!
PROOF. Taking a fault (R326 to R329, R334).
-/
namespace Sys2Proof.Machine

section
variable {s : State} {k : Nat} {a : Agent} (code : FCode) (i : FInfo)

/-- The record of a party that is not stepping goes to level 2 or to its context (R329, R334). -/
theorem freeze_handler (hhere : agent? s k = some a) (hstate : a.state ≠ .stepping) (hkind : a.kind = .handler) : freeze s k code i =
    putDie (putAgent s k (frozenParty s k a code i)) (dieOf k)
      { dieSt s (dieOf k) with level2 := (dieSt s (dieOf k)).level2 ++ [mkRec s k a code i] } := by
  rw [freeze_eq hhere]
  dsimp only
  rw [if_neg (by simp [hstate]), if_pos (by simp [hkind])]
  rfl
theorem freeze_other (hhere : agent? s k = some a) (hstate : a.state ≠ .stepping) (hkind : a.kind ≠ .handler) :
    freeze s k code i = queueRec (putAgent s k (frozenParty s k a code i)) (mkRec s k a code i) := by
  rw [freeze_eq hhere]
  dsimp only
  rw [if_neg (by simp [hstate]), if_neg (by simp [hkind])]

/-- The party stands FROZEN where it stood, in a new region, with its record. -/
theorem agent?_freeze (hhere : agent? s k = some a) (hstate : a.state ≠ .stepping) : agent? (freeze s k code i) k = some (frozenParty s k a code i) := by
  by_cases hkind : a.kind = .handler
  · rw [freeze_handler code i hhere hstate hkind]
    exact agent?_putAgent_same ..
  · rw [freeze_other code i hhere hstate hkind, agent?_queueRec]
    exact agent?_putAgent_same ..

/-- What the record of a fault says (R327). -/
theorem mkRec_fields (s : State) (k : Nat) (a : Agent) : let r := mkRec s k a code i
    r.code = code ∧ r.fpc = a.pc ∧ r.opc = i.opc.getD a.pc ∧ (r.origv = true ↔ r.opc ≠ a.pc) ∧ r.addr = i.addr ∧ r.party = partyWord s k ∧
      r.done = i.done ∧ (r.lvl2 = true ↔ a.kind = .handler) ∧ r.target = .agent k a.uid ∧ r.asid = a.asid :=
  ⟨rfl, rfl, rfl, bne_iff_ne, rfl, rfl, rfl, beq_iff_eq, rfl, rfl⟩

end

/-- A record is queued while its context's frozen queue has room and nothing waits before it, and waits otherwise (R329). -/
def Ctx.withRec (c : Ctx) (r : Rec) : Ctx :=
  if c.fq.length < 2 ^ c.fqlog ∧ c.parked = [] then { c with fq := c.fq ++ [r] } else { c with parked := c.parked ++ [r] }
theorem ctx?_queueRec (s : State) (r : Rec) (j : Nat) :
    ctx? (queueRec s r) j = if j = r.asid then (ctx? s r.asid).map (·.withRec r) else ctx? s j := by
  rw [queueRec, ctx?_modCtx]
  simp only [Ctx.withRec, Bool.and_eq_true, decide_eq_true_eq, List.isEmpty_iff]

/-- Settles O24: the party is put back frozen, and its record goes to level 2 for a handler and to its context's queue for any other. -/
theorem takingAFault : Obligations.TakingAFault := by
  unfold Obligations.TakingAFault
  intro s k a code i hhere hstate r u
  obtain ⟨-, hothers, -⟩ := freeze_spec hhere code i
  refine ⟨⟨_, agent?_freeze code i hhere hstate, rfl, rfl, rfl, rfl, rfl, rfl⟩, hothers, mkRec_fields code i s k a, fun hkind => ?_, fun hkind => ?_⟩
  · have hu : u = queueRec (putAgent s k (frozenParty s k a code i)) r := freeze_other code i hhere hstate hkind
    have hread := ctx?_queueRec (putAgent s k (frozenParty s k a code i)) r
    rw [hu]
    refine ⟨((Only.putAgent s k _).trans (Only.queueRec _ _)).of_nil, fun j hj => (hread j).trans (if_neg hj), fun c hc => ?_⟩
    have hctx : ctx? (putAgent s k (frozenParty s k a code i)) r.asid = some c := hc
    have hqueued := hread r.asid
    rw [if_pos rfl, hctx] at hqueued
    exact hqueued
  · have hu : u = putDie (putAgent s k (frozenParty s k a code i)) (dieOf k) { dieSt s (dieOf k) with level2 := (dieSt s (dieOf k)).level2 ++ [r] } :=
      freeze_handler code i hhere hstate hkind
    rw [hu]
    exact ⟨(Only.putAgent s k _).of_nil.trans (Only.putDie _ _ _), fun d hd => fgetD_fput_ne _ _ _ hd, dieSt_putDie_same ..⟩

end Sys2Proof.Machine
end

section
/-!
PROOF. What translation leaves (R305, R308).
-/
namespace Sys2Proof.Machine

section
variable {s u : State} {p : Place} {asid va n pa home leaf : Nat} {need : Need}

/-- An access writes: its leaf takes DRT. -/
def Need.marks (need : Need) : Bool := need == .store || need == .rmw

/-- Where an access is translated, its home has a leaf for it that permits it, and the access uses that leaf. -/
theorem locate_at (h : locate s p asid va need n = .at_ pa home leaf u) : ∃ ad e ea size, classify s asid va = some ad ∧ ad.home = home ∧
    findLeaf s asid ad = .leaf e ea size ∧ permits e need = true ∧ useLeaf s asid ad e ea size need.marks = (leaf, u) := by
  unfold locate at h
  split at h
  · cases h
  · rename_i ad hclass
    split at h
    · cases h
    · split at h
      · cases h
      · split at h <;> cases h
      · rename_i e ea size hleaf
        refine ⟨ad, e, ea, size, hclass, ?_⟩
        split at h
        · cases h
        · dsimp only at h
          split at h
          · cases h
          · rename_i hok
            have hpermits : permits e need = true := by
              by_contra hno
              exact hok (by simp [hno])
            split at h
            · cases h
            · split at h
              · cases h
              · split at h
                · cases h
                · cases h
                  exact ⟨rfl, hleaf, hpermits, rfl⟩

/-! ### The bits of a leaf -/

/-- Numbers with no bit in common are joined by their sum. -/
theorem add_of_and_eq_zero {a b : Nat} (h : a &&& b = 0) : a ||| b = a + b := by
  have hw : a + b < 2 ^ (a + b) := Nat.lt_two_pow_self
  have ha := Nat.mod_eq_of_lt (show a < 2 ^ (a + b) by omega)
  have hb := Nat.mod_eq_of_lt (show b < 2 ^ (a + b) by omega)
  have hsum := BitVec.add_eq_or_of_and_eq_zero (BitVec.ofNat (a + b) a) (BitVec.ofNat (a + b) b) (by
    apply BitVec.eq_of_toNat_eq
    simpa [ha, hb] using h)
  simpa [ha, hb, Nat.mod_eq_of_lt hw] using (congrArg BitVec.toNat hsum).symm
/-- The bits that setting some bits adds are among those set. -/
theorem testBit_added {e m i : Nat} (h : m.testBit i = false) : ((e ||| m) - e).testBit i = false := by
  have hdisjoint : e &&& ((e ||| m) ^^^ e) = 0 := Nat.eq_of_testBit_eq fun j => by
    cases he : e.testBit j <;> simp [he]
  have hor : e ||| ((e ||| m) ^^^ e) = e ||| m := Nat.eq_of_testBit_eq fun j => by
    cases he : e.testBit j <;> simp [he]
  have hsum : e ||| m = e + ((e ||| m) ^^^ e) := hor.symm.trans (add_of_and_eq_zero hdisjoint)
  rw [hsum, Nat.add_sub_cancel_left]
  cases he : e.testBit i <;> simp [he, h]

/-! ### The use of a leaf -/

/-- The bits that an access through a leaf sets: ACC, and for a write DRT. -/
def useBits (write : Bool) : Nat := 256 + if write then 128 else 0

theorem testBit_useBits (write : Bool) (i : Nat) : (useBits write).testBit i = (decide (i = 8) || (write && decide (i = 7))) := by
  cases write with
  | false => exact (Nat.testBit_two_pow (n := 8)).trans (by simp [eq_comm])
  | true =>
    refine (Nat.testBit_or (2 ^ 8) (2 ^ 7) i).trans ?_
    rw [Nat.testBit_two_pow, Nat.testBit_two_pow]
    simp [eq_comm]

/-- The leaf as an access through it leaves it. -/
theorem useLeaf_leaf (s : State) (asid : Nat) (ad : Addr) (e ea size : Nat) (write : Bool) :
    (useLeaf s asid ad e ea size write).1 = e ||| useBits write := rfl
theorem permits_useBits (e : Nat) (write : Bool) (need : Need) : permits (e ||| useBits write) need = permits e need := by
  have hkept (i : Nat) (h : 12 ≤ i) : bitN (e ||| useBits write) i = bitN e i := by
    rw [bitN_eq_testBit, bitN_eq_testBit, Nat.testBit_or, testBit_useBits, decide_eq_false (by omega), decide_eq_false (by omega)]
    simp
  cases need <;> simp [permits, hkept]
theorem useLeaf_mem (s : State) (asid : Nat) (ad : Addr) (e ea size : Nat) (write : Bool) : (useLeaf s asid ad e ea size write).2.mem =
    if (e ||| useBits write) == e then s.mem else writeN s.mem ea (readN s.mem ea 8 ||| ((e ||| useBits write) - e)) 8 := by
  unfold useLeaf
  dsimp only [putBase]
  exact apply_ite State.mem _ _ _
/-- Of the home's registers an access changes the TLB alone, and of no other home any. -/
theorem useLeaf_bases (s : State) (asid : Nat) (ad : Addr) (e ea size : Nat) (write : Bool) : let u := (useLeaf s asid ad e ea size write).2
    (∀ h, h ≠ ad.home → base u h = base s h) ∧ { base u ad.home with tlb := [] } = { base s ad.home with tlb := [] } := by
  have hbases (c : Bool) (m : Memory) (h : Nat) : base (if c then s else { s with mem := m }) h = base s h := by cases c <;> rfl
  unfold useLeaf
  dsimp only
  refine ⟨fun h hne => (fgetD_fput_ne _ _ _ hne).trans (hbases ..), ?_⟩
  rw [base_putBase_same, hbases]
theorem readN_lt (m : Memory) (a n : Nat) : readN m a n < 2 ^ (8 * n) := by
  induction n generalizing a with
  | zero => exact Nat.one_pos
  | succ n ih =>
    have hlow := (Memory.get m a).isLt
    have hhigh := ih (a + 1)
    rw [Nat.mul_succ, Nat.pow_add]
    unfold readN
    omega
/-- Of memory an access changes the leaf entry alone, and of that the bits ACC and DRT. -/
theorem useLeaf_bytes (s : State) (asid : Nat) (ad : Addr) (e ea size : Nat) (write : Bool) : let u := (useLeaf s asid ad e ea size write).2
    (MemBut s u fun a => ea ≤ a ∧ a < ea + 8) ∧
    (MemoryOk s → ∀ i, i ≠ 7 → i ≠ 8 → bitN (readN u.mem ea 8) i = bitN (readN s.mem ea 8) i) := by
  dsimp only
  refine ⟨fun hok i hi => ?_, fun hok i h7 h8 => ?_⟩
  · rw [useLeaf_mem]
    split
    · rfl
    · exact Memory.get_writeN_ne hok.1 (by omega)
  · rw [useLeaf_mem]
    split
    · rfl
    · have hadded : ((e ||| useBits write) - e).testBit i = false := testBit_added (by simp [testBit_useBits, h7, h8])
      have hold := readN_lt s.mem ea 8
      rw [readN_writeN hok.1, bitN_eq_testBit, bitN_eq_testBit, Nat.testBit_mod_two_pow, Nat.testBit_or, hadded, Bool.or_false]
      by_cases hi : i < 8 * 8
      · simp [hi]
      · simp [hi, Nat.testBit_lt_two_pow (hold.trans_le (Nat.pow_le_pow_right (by decide) (Nat.le_of_not_lt hi)))]

end

/-- Settles O36: the access that translation lets through has used the leaf that it found. -/
theorem translationFrame : Obligations.TranslationFrame := by
  unfold Obligations.TranslationFrame
  intro s p asid va need n pa home leaf u h
  obtain ⟨ad, e, ea, size, hclass, rfl, hleaf, hpermits, huse⟩ := locate_at h
  have hu : u = (useLeaf s asid ad e ea size need.marks).2 := by rw [huse]
  have hl : leaf = e ||| useBits need.marks := (congrArg Prod.fst huse).symm
  have hmarked := useLeaf_marked s asid ad e ea size need.marks
  obtain ⟨hothers, hhome⟩ := useLeaf_bases s asid ad e ea size need.marks
  obtain ⟨hbut, hbits⟩ := useLeaf_bytes s asid ad e ea size need.marks
  subst hu hl
  refine ⟨hmarked.only, ?_, hothers, hhome, ⟨ad, e, ea, size, hclass, rfl, hleaf, hbut, hbits⟩, (permits_useBits ..).trans hpermits, ?_, fun hneed => ?_⟩
  · obtain ⟨m, b, hb⟩ := hmarked
    rw [hb]
  · simp [bitN_eq_testBit, testBit_useBits]
  · have hwrite : need.marks = true := by rcases hneed with rfl | rfl <;> rfl
    simp [bitN_eq_testBit, testBit_useBits, hwrite]

end Sys2Proof.Machine
end

section
/-!
PROOF. CGRUN and GSUM (R400, R401).
-/
namespace Sys2Proof.Machine

/-- The check of a signal does not look at the parties. -/
theorem checkSignal_bad_of_putAgent {s : State} {k j va : Nat} {a b : Agent} {e : FCode} (h : checkSignal (putAgent s j b) k a va = .bad e) :
    checkSignal s k a va = .bad e := by
  have hloc : locate (putAgent s j b) (placeOf k a) a.tasid va .load =
      (locate s (placeOf k a) a.tasid va .load).manned (fput s.agents j b) s.clusters s.nextId s.reqs := locate_manned ..
  unfold checkSignal at h ⊢
  rw [hloc] at h
  by_cases halign : (va % 8 != 0) = true
  · rw [if_pos halign] at h ⊢
    exact h
  rw [if_neg halign] at h ⊢
  cases hl : locate s (placeOf k a) a.tasid va .load with
  | at_ pa home leaf t =>
    rw [hl] at h
    dsimp only [Loc.manned] at h ⊢
    split at h
    · next hbad => rw [if_pos hbad]; exact h
    · cases h
  | prot => rw [hl] at h; exact h
  | wait | absent | poisoned => rw [hl] at h; cases h

section
variable {c : Ctx'} {img n : Nat} {sig : Bool} {q : Queue} (hsig : sig = true → ∀ e, checkSignal c.s c.k c.a c.vd ≠ .bad e)
  (hthere : agent? c.s c.k = some { c.a with top := n }) (hsettled : Settled c) (hq : queue? c.s (qkey c.a.asid (0x10 + modBits c.mod 1 0)) = some q)
  (hstate : q.state ≠ .disabled) (hplace : q.inPlace) (hroom : q.full = false)
include hsig hthere hsettled hq hstate hplace hroom

/-- A run entry that passes its checks is pushed by a party with nothing outstanding, which releases with it. -/
theorem pushStack_pushes (read : Option Nat) : ∃ t, pushStack c sig img read = .next t ∧
    agent? t c.k = some ({ c.a with top := n, image := if read.isSome then read else c.a.image }.endRegion.pushed read) ∧
    Only [.mem, .bases, .queues, .lines, .poison] c.s t ∧ Others [c.k] c.s t ∧
    Pushed c.s t (qkey c.a.asid (0x10 + modBits c.mod 1 0)) img c.copyMeta q := by
  let b : Agent := { c.a with top := n, image := if read.isSome then read else c.a.image }
  let d : Ctx' := { c with s := putAgent c.s c.k b }
  let s := putAgent c.s c.k b.endRegion
  obtain ⟨hrelaxed, hperformed⟩ := hsettled
  have hread : (if read.isSome then { c with s := modAgent c.s c.k fun a => { a with image := read } } else c) = d := by
    cases read with
    | none => exact congrArg (fun t => { c with s := t }) (congrArg (fun m => { c.s with agents := m }) (fput_fget? hthere)).symm
    | some x => exact congrArg (fun t => { c with s := t }) (modAgent_some hthere _)
  have hreleasing (g : State → Agent → Go) : releasing d g = g s b.endRegion :=
    (releasing_settled (c := d) (agent?_putAgent_same ..) hrelaxed hperformed).trans (congrArg (g · _) (putAgent_putAgent ..))
  have hable : disabled d.s (qkey c.a.asid (0x10 + modBits c.mod 1 0)) = false := disabled_eq_false hq hstate
  have hgo : pushStack c sig img read = pushOr { d with s := s } s (qkey c.a.asid (0x10 + modBits c.mod 1 0)) img c.copyMeta read := by
    unfold pushStack
    rw [hread]
    dsimp only
    rw [if_neg (ne_true_of_eq_false hable), hreleasing, metaOf_eq]
    cases sig with
    | false => rfl
    | true =>
      rw [if_neg (by decide)]
      split
      next e hbad => exact absurd (checkSignal_bad_of_putAgent hbad) (hsig rfl e)
      next => rfl
  obtain ⟨t, ht, hback, honly, hothers, hpushed⟩ := pushOr_pushes (c := { d with s := s }) (u := s) (img := img) (m := c.copyMeta)
    (agent?_putAgent_same c.s c.k b.endRegion) hq hstate hplace hroom read
  exact ⟨t, hgo.trans ht, hback, (Only.putAgent c.s c.k b.endRegion).of_nil.trans honly, (Others.putAgent c.s c.k b.endRegion).trans hothers,
    Pushed.of_among (s := c.s) (ag := fput c.s.agents c.k b.endRegion) hpushed⟩
/-- The push completes, and the party goes on behind the instruction. -/
theorem pushStack_moves {out : Out} {read : Option Nat} (hout : out = .next (settle c.k c.a c.len (pushStack c sig img read))) :
    Moves { c with a := { c.a with top := n } } out [.mem, .bases, .queues, .lines, .poison] fun u b =>
      Pushed c.s u (qkey c.a.asid (0x10 + modBits c.mod 1 0)) img c.copyMeta q ∧
      b.core = (if read.isSome then { c.a.core with image := none } else c.a.core) ∧ c.a.region < b.region := by
  obtain ⟨t, ht, hback, honly, hothers, hpushed⟩ := pushStack_pushes hsig hthere hsettled hq hstate hplace hroom read
  rw [ht] at hout
  obtain ⟨v, b, hv, hpassed, honly', hothers', hP⟩ := moves_settle_region (P := fun u b =>
      Pushed c.s u (qkey c.a.asid (0x10 + modBits c.mod 1 0)) img c.copyMeta q ∧
      b.core = (if read.isSome then { c.a.core with image := none } else c.a.core) ∧ c.a.region < b.region)
    hout hback rfl honly hothers fun v b hv hb hregion => ⟨hpushed.later (hv .mem (by simp)) (hv .queues (by simp)),
      hb.trans (by cases read <;> rfl), Nat.lt_of_lt_of_le (Nat.lt_succ_self _) hregion⟩
  exact ⟨v, b, hv, ⟨hpassed.here, hpassed.pc.trans (advance_pc (a := { c.a with top := n }) (c := c.a) rfl _ _), hpassed.wait⟩, honly', hothers', hP⟩

end

theorem bodyGsum_read {c : Ctx'} {u : State} {e : Nat} (halign : c.ea % 64 = 0) (hread : readOnce c c.ea 64 = .inr (u, e)) (hop : nOp e = 4)
    (hspill : bitN e 22 = false) (hsecond : bitN e 30 = false) (hformed : nodeMalformed e = false) : bodyGsum c =
    pushStack { c with s := u } (modBit c.mod 2) (setBitsN (setBitsN e 15 15 (if modBit c.mod 2 then 1 else 0)) 95 32 (if modBit c.mod 2 then c.vd else 0))
      (some e) := by
  unfold bodyGsum
  rw [if_neg (by simp [halign]), hread]
  exact if_neg (by simp [hop, hspill, hsecond, hformed])

/-- Settles O47: both instructions push their entry, once their signal has passed its checks. -/
theorem stackInstructions : Obligations.StackInstructions := by
  unfold Obligations.StackInstructions
  intro pushes sig
  refine ⟨fun f s k a h => ⟨fun halign => ?_, fun halign hbases hsig hsettled q hq hstate hplace hroom => ?_⟩, fun f s k a h => ?_⟩
  · have hbody : bodyCgrun (ctxOf .cgrun f (lenOf f) s k a) = .freeze s .misaligned { addr := BitVec.ofNat 64 (ctxOf .cgrun f (lenOf f) s k a).va } :=
      if_pos (bne_iff_ne.mpr halign)
    exact h.faults (body := bodyCgrun) (fun _ _ => rfl) hbody rfl
  · have hbody := (if_neg (by simp [halign])).trans (if_neg (by simp [hbases])) (a := bodyCgrun (ctxOf .cgrun f (lenOf f) s k a))
    exact pushStack_moves (c := ctxOf .cgrun f (lenOf f) s k a) (n := a.top) (read := none) hsig h.here hsettled hq hstate hplace hroom
      ((issueL_clear h bodyCgrun).trans (by rw [hbody]; rfl))
  · intro c halign u e n hread hthere hop hspill hsecond hformed hsig hsettled q hq hstate hplace hroom
    exact pushStack_moves (c := { c with s := u }) (read := some e) hsig hthere hsettled hq hstate hplace hroom
      ((issueL_clear h bodyGsum).trans (by rw [bodyGsum_read (c := c) halign hread hop hspill hsecond hformed]; rfl))

end Sys2Proof.Machine
end

section
/-!
PROOF. PGINV and PGMIG (R318, R323, R324).
-/
namespace Sys2Proof.Machine

/-! ### Closings of a range -/

/-- Registers of a home that one more closing has joined. -/
def Base.closing (b : Base) (x : Closing) : Base := { b with closings := b.closings.filter (·.uid != x.uid) ++ [x] }
/-- Registers of a home that a handler's closings have left. -/
def Base.opened (b : Base) (uid : Nat) : Base := { b with closings := b.closings.filter (·.uid != uid) }

section
variable {s : State} {home uid : Nat} {b : Base} {x : Closing}

theorem putBase_putBase (s : State) (n : Nat) (b d : Base) : putBase (putBase s n b) n d = putBase s n d :=
  congrArg (fun m => { s with bases := m }) (fput_fput ..)
theorem base_dropClosings (s : State) (uid home : Nat) : base (dropClosings s uid) home = (base s home).opened uid := by
  have hread := fget?_map (fun _ b => Base.opened b uid) s.bases home
  unfold base fgetD dropClosings
  refine (congrArg (·.getD {}) hread).trans ?_
  cases fget? s.bases home <;> rfl
theorem only_dropClosings (s : State) (uid : Nat) : Only [.bases] s (dropClosings s uid) := fun p hp => by
  cases p with
  | bases => exact absurd List.mem_cons_self hp
  | _ => simp [Same, dropClosings, group?, ctx?]
theorem Only.putBase (s : State) (n : Nat) (b : Base) : Only [.bases] s (putBase s n b) := fun p hp => by
  cases p with
  | bases => exact absurd List.mem_cons_self hp
  | _ => simp [Same, Machine.putBase, group?, ctx?]

theorem closings_closing (h : b.closings.all (·.uid != x.uid) = true) : (b.closing x).closings = b.closings ++ [x] := by
  unfold Base.closing
  rw [List.filter_eq_self.mpr (List.all_eq_true.mp h)]
theorem find_closing (h : b.closings.all (·.uid != x.uid) = true) : (b.closing x).closings.find? (·.uid == x.uid) = some x := by
  rw [closings_closing h, List.find?_append, List.find?_eq_none.mpr fun y hy => by simpa using List.all_eq_true.mp h y hy]
  simp
theorem filter_closing (h : b.closings.all (·.uid != x.uid) = true) : (b.closing x).closings.filter (·.uid == x.uid) = [x] := by
  rw [closings_closing h, List.filter_append, List.filter_eq_nil_iff.mpr fun y hy => by simpa using List.all_eq_true.mp h y hy]
  simp
theorem closing_closing {y : Closing} (hy : y.uid = x.uid) : (b.closing x).closing y = b.closing y := by
  unfold Base.closing
  simp [hy]

/-! ### PGINV -/

/-- The translations of a home that a closed range leaves. -/
def Base.invalidated (b : Base) (x : Closing) : Base :=
  { b with tlb := b.tlb.filter fun t => !(t.asid == x.asid && t.set == x.set && rangesMeet t.base t.size x.base x.size) }

/-- With no line cached a home has done its part of a PGINV once its translations are dropped. -/
theorem pginvHome_quiet (hlines : s.lines = []) (hopen : b.closings.all (·.uid != x.uid) = true) (hsent : x.sent = false) :
    pginvHome (putBase s home (b.closing x)) x.uid home = putBase s home ((b.invalidated x).closing { x with sent := true, todo := [] }) := by
  let t := putBase s home ((b.invalidated x).closing x)
  have hfilter (p : Line → Bool) : t.lines.filter p = [] := (congrArg (List.filter p) hlines).trans rfl
  have hdrop : pginvHome (putBase s home (b.closing x)) x.uid home = putClosing (sendInvals t home []) home { x with sent := true, todo := [] } := by
    unfold pginvHome
    rw [base_putBase_same, find_closing hopen]
    have hfilter' (p : Line → Bool) : (putBase s home (b.closing x)).lines.filter p = [] := (congrArg (List.filter p) hlines).trans rfl
    dsimp only
    simp only [hsent, Bool.false_eq_true, if_false, hfilter', List.map_nil, putBase_putBase]
    exact congrArg (fun l => putClosing (sendInvals t home l) home { x with sent := true, todo := [] }) (hfilter _)
  rw [hdrop]
  unfold putClosing
  exact (congrArg (putBase t home) (congrArg (Base.closing · _) (base_putBase_same ..))).trans
    ((putBase_putBase ..).trans (congrArg (putBase s home) (closing_closing (y := { x with sent := true, todo := [] }) rfl)))

/-- A range with no logged write is replayed by nothing. -/
theorem replayRange_quiet (hlogs : (base s home).logs = []) (asid set lo size : Nat) :
    replayRange s home asid set lo size = putBase s home (base s home) := by
  have hlog : sideLog s home asid = [] := by unfold sideLog; rw [hlogs]; rfl
  unfold replayRange
  simp only [hlog, List.filter_nil, List.isEmpty_nil, if_true, List.foldl_nil, hlogs]
  exact congrArg (putBase s home) (congrArg (fun l => { base s home with logs := l }) hlogs.symm)

end

/-- The closing that a PGINV or PGMIG puts on the page of so many bytes at an offset. -/
def Ctx'.closingOf (c : Ctx') (ad : Addr) (size : Nat) : Closing :=
  { uid := c.a.uid, asid := c.a.asid, set := ad.set, base := ad.off / size * size, size := size }
/-- Registers of its home when a PGINV's range has been invalidated. -/
def Ctx'.invalidated (c : Ctx') (ad : Addr) (size : Nat) : Base :=
  ((base c.s ad.home).invalidated (c.closingOf ad size)).closing { c.closingOf ad size with sent := true, todo := [] }

section
variable {c : Ctx'} {ad : Addr} (hhere : agent? c.s c.k = some c.a) (hsettled : Settled c) (hclass : classify c.s c.a.asid c.va = some ad)
  (hset : ad.set = 0) (hmigs : (base c.s ad.home).migs = []) (hholds : (base c.s ad.home).holds = []) (hlogs : (base c.s ad.home).logs = [])
include hhere hsettled hclass hset hmigs hholds hlogs

/-- A PGINV of a page that nothing keeps busy passes in one go. -/
theorem bodyPginv_quiet (hclosings : ∀ h, (base c.s h).closings.all (·.uid != c.a.uid) = true) (hlines : c.s.lines = []) (hinvals : c.s.invals = []) :
    bodyPginv c = .next (dropClosings (putBase c.s ad.home (c.invalidated ad (pgSize (modBits c.mod 1 0)))) c.a.uid) := by
  obtain ⟨hrelaxed, hperformed⟩ := hsettled
  have hhomes : pageHomes c.s c.a.asid ad = [ad.home] := by unfold pageHomes; rw [if_pos (by simp [hset])]
  have hbegun : (base c.s ad.home).closings.filter (·.uid == c.a.uid) = [] :=
    List.filter_eq_nil_iff.mpr fun y hy => by simpa using List.all_eq_true.mp (hclosings ad.home) y hy
  unfold bodyPginv
  dsimp only
  rw [hclass]
  generalize pgSize (modBits c.mod 1 0) = size
  have hput : putClosing c.s ad.home { uid := c.a.uid, asid := c.a.asid, set := ad.set, base := ad.off / size * size, size := size } =
    putBase c.s ad.home ((base c.s ad.home).closing (c.closingOf ad size)) := rfl
  have hquiet : pginvHome (putBase c.s ad.home ((base c.s ad.home).closing (c.closingOf ad size))) c.a.uid ad.home =
      putBase c.s ad.home (c.invalidated ad size) := pginvHome_quiet hlines (hclosings ad.home) rfl
  have hmine : (c.invalidated ad size).closings.filter (·.uid == c.a.uid) = [{ c.closingOf ad size with sent := true, todo := [] }] :=
    filter_closing (b := (base c.s ad.home).invalidated (c.closingOf ad size)) (x := { c.closingOf ad size with sent := true, todo := [] })
      (hclosings ad.home)
  have hmigs' : ((base c.s ad.home).closing (c.closingOf ad size)).migs = [] := hmigs
  have hheld : held (putBase c.s ad.home (c.invalidated ad size)) ad.home c.a.asid ad.set (ad.off / size * size) size = false := by
    unfold held
    rw [base_putBase_same]
    exact congrArg (List.any · _) hholds
  have hinvals' : (putBase c.s ad.home (c.invalidated ad size)).invals = [] := hinvals
  have hreplay : replayRange (putBase c.s ad.home (c.invalidated ad size)) ad.home c.a.asid ad.set (ad.off / size * size) size =
      putBase c.s ad.home (c.invalidated ad size) := by
    rw [replayRange_quiet (by rw [base_putBase_same]; exact hlogs), base_putBase_same, putBase_putBase]
  simp only [hhomes, List.any_cons, List.any_nil, Bool.or_false, hbegun, List.isEmpty_nil, Bool.not_true, Bool.not_false, Bool.true_and, Bool.false_eq_true,
    if_false, List.foldl_cons, List.foldl_nil, sendMarkers_unrelaxed hhere hrelaxed, hperformed, hput, base_putBase_same, hmigs', hquiet, hmine, hheld,
    hinvals', hreplay]

omit hhere hsettled hclass hset hmigs hholds hlogs in
theorem setLeaf_spec (s : State) (home at_ : Nat) (f : Nat → Nat) : ∃ l,
    setLeaf s home at_ f = putBase { s with mem := writeN s.mem at_ (f (readN s.mem at_ 8)) 8 } home { base s home with tlb := l } := ⟨_, rfl⟩
/-- A PGMIG of a page that nothing keeps busy makes its leaf MIGRATING and starts the copy. -/
theorem bodyPgmig_quiet {e at_ size : Nat} (hsig : ∀ e, checkSignal c.s c.k c.a c.vc ≠ .bad e) (hmiss : tlbFind (base c.s ad.home) c.a.asid ad = none)
    (hwalk : walk c.s c.a.asid ad = .leaf e at_ size) (hpresent : bitsN e 61 60 = 0) (hsize : size ≤ 2 ^ 21) (hok : leafOk c.s ad.home e size = true)
    (halign : c.vb % size = 0) (hmap : mappable c.vb size = true) :
    ∃ b, bodyPgmig c = .next (dropClosings (putBase { c.s with mem := writeN c.s.mem at_ (setBitsN (readN c.s.mem at_ 8) 61 60 2) 8 } ad.home b) c.a.uid) ∧
      b.migs = [{ asid := c.a.asid, tasid := c.a.tasid, base := ad.off / size * size, size := size, old := leafPa e, new := c.vb, leafAt := at_,
                  signal := BitVec.ofNat 64 c.vc, clk := c.a.relClk }] := by
  obtain ⟨hrelaxed, hperformed⟩ := hsettled
  have hfind : findLeaf c.s c.a.asid ad = .leaf e at_ size := by unfold findLeaf; rw [hmiss]; exact hwalk
  have hlogged : logged c.s c.a.asid ad (ad.off / size * size) size = false := by
    unfold logged sideLog
    rw [hlogs]
    rfl
  have hheld (x : Closing) : held (putClosing c.s ad.home x) ad.home c.a.asid 0 (ad.off / size * size) size = false := by
    unfold held putClosing
    rw [base_putBase_same]
    exact congrArg (List.any · _) hholds
  have hmigs' (x : Closing) : (base (putClosing c.s ad.home x) ad.home).migs = [] := by
    unfold putClosing
    rw [base_putBase_same]
    exact hmigs
  obtain ⟨l, hleaf⟩ := setLeaf_spec (putClosing c.s ad.home { uid := c.a.uid, asid := c.a.asid, set := 0, base := ad.off / size * size, size := size })
    ad.home at_ fun e => setBitsN e 61 60 2
  unfold bodyPgmig
  dsimp only
  split
  next e hbad => exact absurd hbad (hsig e)
  next =>
    rw [hclass]
    dsimp only
    rw [hfind]
    simp only [hset, hpresent, hlogged, hok, halign, hmap, bne_self_eq_false, decide_eq_false (Nat.not_lt.mpr hsize), Bool.not_true, Bool.or_false,
      Bool.false_eq_true, if_false, sendMarkers_unrelaxed hhere hrelaxed, hperformed, hmigs', hleaf, base_putBase_same, putBase_putBase, hheld, List.length_nil, ge_iff_le,
      List.nil_append]
    have hput := putBase_putBase { c.s with mem := writeN c.s.mem at_ (setBitsN (readN c.s.mem at_ 8) 61 60 2) 8 } ad.home
      ((base c.s ad.home).closing { uid := c.a.uid, asid := c.a.asid, set := 0, base := ad.off / size * size, size := size })
    exact ⟨_, congrArg (fun t => Go.next (dropClosings t c.a.uid)) (hput _), rfl⟩

end

theorem pgSize_eq (n : Nat) : pgSize n = 2 ^ [16, 21, 26, 32].getD n 32 := match n with
  | 0 | 1 | 2 | 3 => rfl
  | _ + 4 => rfl

theorem base_of_same {s u : State} (h : Same s u .bases) (n : Nat) : base u n = base s n := congrArg (fun m => fgetD m n ({} : Base)) h

/-- Settles O48: with nothing that keeps the page busy, both instructions pass in one go. -/
theorem pageInstructions : Obligations.PageInstructions := by
  unfold Obligations.PageInstructions
  intro lo
  constructor
  · refine doesL bodyPginv (fun _ _ => rfl) fun c hhere ⟨hsettled, ad, hclass, hset, hclosings, hmigs, hholds, hlogs, hlines, hinvals⟩ => ?_
    have hbody := bodyPginv_quiet hhere hsettled hclass hset hmigs hholds hlogs hclosings hlines hinvals
    have honly := (Only.putBase c.s ad.home (c.invalidated ad (pgSize (modBits c.mod 1 0)))).trans (only_dropClosings _ c.a.uid)
    refine ⟨_, _, hbody, hhere, rfl, honly, .of_eq fun _ _ => rfl, fun u b hu hb => ⟨hb, fun ad' hclass' => ?_⟩⟩
    obtain rfl : ad = ad' := Option.some.inj (hclass.symm.trans hclass')
    have htlb : (base u ad.home).tlb = (c.invalidated ad (pgSize (modBits c.mod 1 0))).tlb := by
      rw [base_of_same (hu .bases (by simp))]
      exact (congrArg Base.tlb (base_dropClosings ..)).trans (congrArg (fun x => (x.opened c.a.uid).tlb) (base_putBase_same ..))
    rw [htlb, ← pgSize_eq]
    refine ⟨fun t ht hmeets => ?_, fun t ht => List.mem_of_mem_filter ht⟩
    obtain ⟨hasid, hset', hmeet⟩ := hmeets
    have hkept : (!(t.asid == c.a.asid && t.set == ad.set &&
      rangesMeet t.base t.size (ad.off / pgSize (modBits c.mod 1 0) * pgSize (modBits c.mod 1 0)) (pgSize (modBits c.mod 1 0)))) = true := (List.mem_filter.mp ht).2
    have hmeet' : rangesMeet t.base t.size (ad.off / pgSize (modBits c.mod 1 0) * pgSize (modBits c.mod 1 0)) (pgSize (modBits c.mod 1 0)) = true := hmeet
    rw [hasid, hset', hmeet'] at hkept
    simp at hkept
  · refine doesL bodyPgmig (fun _ _ => rfl) fun c hhere ⟨hsettled, hsig, ad, e, at_, size, hclass, hset, hmiss, hwalk, hpresent, hsize, hok, halign, hmap,
      hmigs, hholds, hlogs⟩ => ?_
    obtain ⟨b, hbody, hmig⟩ := bodyPgmig_quiet hhere hsettled hclass hset hmigs hholds hlogs hsig hmiss hwalk hpresent hsize hok halign hmap
    have hput : Only [.mem, .bases] c.s (putBase { c.s with mem := writeN c.s.mem at_ (setBitsN (readN c.s.mem at_ 8) 61 60 2) 8 } ad.home b) := fun p hp => by
      cases p <;> simp_all [Same, putBase, group?, ctx?]
    have honly := hput.trans ((only_dropClosings _ c.a.uid).mono (by simp))
    refine ⟨_, _, hbody, hhere, rfl, honly, .of_eq fun _ _ => rfl, fun u d hu hd => ⟨hd, fun ad' e' at' size' hclass' hwalk' => ?_⟩⟩
    obtain rfl : ad = ad' := Option.some.inj (hclass.symm.trans hclass')
    obtain ⟨rfl, rfl, rfl⟩ := Walk.leaf.inj (hwalk.symm.trans hwalk')
    have hmem : u.mem = writeN c.s.mem at_ (setBitsN (readN c.s.mem at_ 8) 61 60 2) 8 := hu .mem (by simp)
    have hmigs' : (base u ad.home).migs = b.migs := by
      rw [base_of_same (hu .bases (by simp))]
      exact (congrArg Base.migs (base_dropClosings ..)).trans (congrArg (fun x => (x.opened c.a.uid).migs) (base_putBase_same ..))
    refine ⟨fun hwf i hi => ?_, hmem, _, hmigs'.trans hmig, rfl, rfl, rfl, rfl, rfl, rfl⟩
    rw [hmem]
    exact Memory.get_writeN_ne hwf.1 (by omega)

end Sys2Proof.Machine
end

section
/-!
PROOF. The events of migrations, the frozen queue and handler threads (R320, R321, R324, R329 to R334).
-/
namespace Sys2Proof.Machine

/-! ### Migrations -/

section
variable {s : State} {home n : Nat} {m : Mig}

theorem modCtx_some {asid : Nat} {c : Ctx} (h : ctx? s asid = some c) (f : Ctx → Ctx) : modCtx s asid f = putCtx s asid (f c) := by
  unfold modCtx
  rw [h]
theorem lt_of_mig? (h : mig? s home n = some m) : n < (base s home).migs.length := by
  by_contra hle
  unfold mig? at h
  rw [List.drop_eq_nil_of_le (Nat.le_of_not_lt hle)] at h
  cases h
theorem migs_putMig (s : State) (home n : Nat) (m : Mig) :
    (base (putMig s home n m) home).migs = (base s home).migs.take n ++ [m] ++ (base s home).migs.drop (n + 1) :=
  congrArg Base.migs (base_putBase_same ..)
theorem mig?_putMig (h : n < (base s home).migs.length) (m : Mig) : mig? (putMig s home n m) home n = some m := by
  unfold mig?
  rw [migs_putMig, List.append_assoc, List.drop_append_of_le_length (by rw [List.length_take]; omega), List.drop_take]
  simp
/-- What stands before and behind a migration stays when it takes new values. -/
theorem others_putMig (h : n < (base s home).migs.length) (m : Mig) :
    (base (putMig s home n m) home).migs.take n ++ (base (putMig s home n m) home).migs.drop (n + 1) =
      (base s home).migs.take n ++ (base s home).migs.drop (n + 1) := by
  have hlen : ((base s home).migs.take n).length = n := by rw [List.length_take]; omega
  rw [migs_putMig, List.append_assoc, List.take_left' hlen, List.singleton_append, List.drop_append, hlen]
  simp [List.drop_take]

theorem moveLine_agents (s : State) (old new : Nat) : (moveLine s old new).agents = s.agents := by
  simp only [moveLine]
theorem moveLine_bases (s : State) (old new : Nat) : (moveLine s old new).bases = s.bases := by
  simp only [moveLine]
theorem moveLine_mem (s : State) (old new : Nat) : (moveLine s old new).mem = writeN s.mem new (readN s.mem old 128) 128 := by
  simp only [moveLine]

theorem migrationLineCopy_event (hmig : mig? s home n = some m) (hleft : 128 * m.copied < m.size) (hgoes : sourceStopped s s.package false = false)
    (hfree : lineBusy s (m.old + 128 * m.copied) = false) : Happens (exec (.migrationLineCopy home n) s) fun u =>
      u.mem = writeN s.mem (m.new + 128 * m.copied) (readN s.mem (m.old + 128 * m.copied) 128) 128 ∧
      mig? u home n = some { m with copied := m.copied + 1 } ∧ Others [] s u := by
  have hcopy : exec (.migrationLineCopy home n) s =
      event (fun _ => putMig (moveLine s (m.old + 128 * m.copied) (m.new + 128 * m.copied)) home n { m with copied := m.copied + 1 }) s := by
    show execMigrationLineCopy home n s = _
    unfold execMigrationLineCopy
    refine event_congr ?_
    simp only [hmig, hgoes, hfree, ge_iff_le, decide_eq_false (Nat.not_le.mpr hleft), Bool.or_false, Bool.false_eq_true, if_false]
  have hmem := moveLine_mem s (m.old + 128 * m.copied) (m.new + 128 * m.copied)
  have hagents := moveLine_agents s (m.old + 128 * m.copied) (m.new + 128 * m.copied)
  have hbases := moveLine_bases s (m.old + 128 * m.copied) (m.new + 128 * m.copied)
  rw [hcopy]
  generalize moveLine s (m.old + 128 * m.copied) (m.new + 128 * m.copied) = t at hmem hagents hbases
  have hlen : n < (base t home).migs.length := by
    unfold base
    rw [hbases]
    exact lt_of_mig? hmig
  exact Happens.of_event fun w tr => ⟨hmem, mig?_putMig hlen _, Others.looked_of hagents w tr⟩

/-! ### The switch of a migration -/

/-- The state in which a migration's leaf is the new one. -/
def switched (s : State) (home n : Nat) (m : Mig) : State :=
  if m.switched then s else
    putMig (setLeaf s home m.leafAt fun e => setBitsN (setBitsN e 61 60 0) 55 16 (m.new / 65536)) home n { m with switched := true }
/-- The state without the migration, and who adds its 1 to its signal. -/
def migrated (s : State) (home n : Nat) (m : Mig) : State × Who :=
  migWho (putBase (switched s home n m) home { base (switched s home n m) home with
    migs := (base (switched s home n m) home).migs.take n ++ (base (switched s home n m) home).migs.drop (n + 1) }) home m

theorem switched_eq (s : State) (home n : Nat) (m : Mig) : switched s home n m = { s with
    mem := if m.switched then s.mem else writeN s.mem m.leafAt (setBitsN (setBitsN (readN s.mem m.leafAt 8) 61 60 0) 55 16 (m.new / 65536)) 8
    bases := (switched s home n m).bases } := by
  unfold switched
  split <;> rfl
theorem migs_switched (hmig : mig? s home n = some m) :
    (base (switched s home n m) home).migs.take n ++ (base (switched s home n m) home).migs.drop (n + 1) =
      (base s home).migs.take n ++ (base s home).migs.drop (n + 1) := by
  unfold switched
  split
  · rfl
  · have hleaf (f : Nat → Nat) : (base (setLeaf s home m.leafAt f) home).migs = (base s home).migs := by
      unfold setLeaf
      rw [base_putBase_same]
    rw [others_putMig (by rw [hleaf]; exact lt_of_mig? hmig), hleaf]
theorem queuesRun_migrated (s : State) (home n : Nat) (m : Mig) (asid : Nat) : queuesRun (migrated s home n m).1 asid = queuesRun s asid := by
  unfold migrated
  rw [switched_eq]
  rfl

/-- The last step of a migration: its 1 is latched while the context's queues do not run, and added else. -/
theorem migrationSwitch_latched (hmig : mig? s home n = some m) (hdone : m.size ≤ 128 * m.copied) (hrun : queuesRun s m.asid = false) :
    exec (.migrationSwitch home n) s = event (fun _ => modCtx (migrated s home n m).1 m.asid fun c =>
      { c with latched := c.latched ++ [{ who := (migrated s home n m).2, va := m.signal }] }) s := by
  rw [← queuesRun_migrated s home n m] at hrun
  show execMigrationSwitch home n s = _
  unfold execMigrationSwitch
  refine event_congr ?_
  simp only [hmig, Nat.not_lt.mpr hdone, if_false]
  exact if_pos (by rw [Bool.not_eq_true', ← hrun]; rfl)
theorem migrationSwitch_added {t : State} {r : Bool} (hmig : mig? s home n = some m) (hdone : m.size ≤ 128 * m.copied)
    (hrun : queuesRun s m.asid = true) (hadd : addSignal (migrated s home n m).1 (migrated s home n m).2 m.signal.toNat 1 = .done t r) :
    Enters (exec (.migrationSwitch home n) s) t := by
  rw [← queuesRun_migrated s home n m] at hrun
  show Enters (execMigrationSwitch home n s) t
  unfold execMigrationSwitch
  refine Enters.of_eq ?_
  simp only [hmig, Nat.not_lt.mpr hdone, if_false]
  have hrun' : (!queuesRun (migrated s home n m).1 m.asid) = false := by rw [hrun]; rfl
  refine (if_neg (ne_true_of_eq_false hrun')).trans ?_
  unfold migrated switched at hadd
  simp only [hadd]

theorem migrationSwitch_latches {c : Ctx} (hmig : mig? s home n = some m) (hdone : m.size ≤ 128 * m.copied) (hctx : ctx? s m.asid = some c)
    (hrun : queuesRun s m.asid = false) : Happens (exec (.migrationSwitch home n) s) fun u =>
      u.mem = (if m.switched then s.mem else
        writeN s.mem m.leafAt (setBitsN (setBitsN (readN s.mem m.leafAt 8) 61 60 0) 55 16 (m.new / 65536)) 8) ∧
      (base u home).migs = (base s home).migs.take n ++ (base s home).migs.drop (n + 1) ∧ Others [] s u ∧
      ∃ w, ctx? u m.asid = some { c with latched := c.latched ++ [{ who := w, va := m.signal }] } := by
  have hbases : (base (migrated s home n m).1 home).migs = (base s home).migs.take n ++ (base s home).migs.drop (n + 1) := by
    have hput : base (migrated s home n m).1 home = _ := base_putBase_same ..
    rw [hput]
    exact migs_switched hmig
  have hsame : migrated s home n m = ({ s with mem := (switched s home n m).mem, bases := (migrated s home n m).1.bases, nextUid := s.nextUid + 1 }, (migrated s home n m).2) := by
    unfold migrated
    rw [switched_eq]
    rfl
  have hmem : (switched s home n m).mem = if m.switched then s.mem else
      writeN s.mem m.leafAt (setBitsN (setBitsN (readN s.mem m.leafAt 8) 61 60 0) 55 16 (m.new / 65536)) 8 := congrArg State.mem (switched_eq s home n m)
  have hctx' : ctx? (migrated s home n m).1 m.asid = some c := by rw [hsame]; exact hctx
  rw [migrationSwitch_latched hmig hdone hrun, modCtx_some hctx']
  refine Happens.of_event fun w tr => ⟨?_, hbases, Others.looked_of ?_ w tr, _, fget?_fput_same ..⟩
  · rw [← hmem, hsame]
    rfl
  · rw [hsame]
    rfl

end

/-! ### The frozen queue and handler threads -/

section
variable {s : State} {asid : Nat} {c : Ctx} {r : Rec}

theorem frozenRecordAdmit_enters {t : List Rec} (hctx : ctx? s asid = some c) (hmove : c.recordsMove = true) (hparked : c.parked = r :: t)
    (hroom : c.fq.length < 2 ^ c.fqlog) : Enters (exec (.frozenRecordAdmit asid) s)
      { s with ctxs := fput s.ctxs asid { c with fq := c.fq ++ [r], parked := t } } := by
  show Enters (execFrozenRecordAdmit asid s) _
  unfold execFrozenRecordAdmit
  refine Enters.of_eq ?_
  have hdue : admitRecDue c = true := by simp [admitRecDue, hmove, hparked, hroom]
  rw [modCtx_some hctx]
  simp only [hparked, hdue, if_true, putCtx]

theorem startHandler_eq {k : Nat} (hctx : ctx? s asid = some c) (hrun : c.state = .running) (hentry : c.hentry ≠ 0)
    (hslot : (unserved s asid c).bind (poolSlot s c) = some k) : startHandler asid s = putAgent { s with nextUid := s.nextUid + 1 } k
      { kind := .handler, uid := s.nextUid, asid := asid, tasid := c.hasid, nregs := c.nh, pc := BitVec.ofNat 64 c.hentry } := by
  unfold startHandler
  rw [hctx]
  simp [hrun, hentry, hslot, freshUid]
theorem handlerStart_event {k : Nat} (hctx : ctx? s asid = some c) (hrun : c.state = .running) (hentry : c.hentry ≠ 0)
    (hslot : (unserved s asid c).bind (poolSlot s c) = some k) : Happens (exec (.handlerStart asid) s) fun u => Only [.ids, .trigs] s u ∧
      Others [k] s u ∧ ∃ a, agent? u k = some a ∧ a.kind = .handler ∧ a.asid = asid ∧ a.tasid = c.hasid ∧ a.nregs = c.nh ∧
      a.pc = BitVec.ofNat 64 c.hentry ∧ a.state = .ready ∧ a.uid = s.nextUid := by
  refine Happens.of_event fun w tr => ?_
  rw [startHandler_eq hctx hrun hentry hslot]
  have honly : Only [.ids] s { s with nextUid := s.nextUid + 1 } := fun p hp => by
    cases p with
    | ids => exact absurd List.mem_cons_self hp
    | _ => simp [Same, group?, ctx?]
  refine ⟨?_, (Others.putAgent _ _ _).trans (Others.looked _ _ _ _), _,
    (agent?_looked _ w tr k).trans (congrArg (Option.map _) (agent?_putAgent_same _ _ _)), rfl, rfl, rfl, rfl, rfl, rfl, rfl⟩
  exact ((honly.mono (by simp)).trans (Only.putAgent _ _ _).of_nil).trans ((Only.looked _ _ _).mono (by simp))

theorem handlerBudget_enters {k n : Nat} {a : Agent} {x : Cap} (hhere : agent? s k = some a) (hkind : a.kind = .handler) (hstate : a.state ≠ .frozen)
    (hspent : a.caps.find? (fun p => p.2.valid && p.2.budget == 0) = some (n, x)) :
    Enters (exec (.handlerBudget k) s) (freeze s k .handlerBudget { x0 := BitVec.ofNat 32 n }) := by
  show Enters (execHandlerBudget k s) _
  unfold execHandlerBudget
  refine Enters.of_eq ?_
  simp [hhere, hspent, hkind, hstate]

/-! ### Level 2 -/

/-- The state without the record that a die's firmware has taken. -/
def taken2 (s : State) (d : Nat) (r : Rec) : State := { s with dies := fput s.dies d { dieSt s d with level2 := (dieSt s d).level2.erase r } }

section
variable {d : Nat} (hrec : (dieSt s d).level2.find? (fun r => (ctx? s r.asid).all (·.recordsMove)) = some r)
include hrec

theorem level2_faulted : level2 d true s = contextError (taken2 s d r) r.asid 1 := by
  unfold level2
  rw [hrec]
  rfl
theorem level2_handler {j : Nat} {p : Agent} (htarget : r.target = .agent j p.uid) (hthere : agent? s j = some p) (hstate : p.state = .frozen) :
    level2 d false s = if r.code = .handlerBudget ∧ ctxState s r.asid ≠ .cutting then
      modAgent (resumeParty (taken2 s d r) j .ready []) j fun a => { a with caps := a.caps.map fun x => (x.1, { x.2 with budget := 65536 }) }
    else endHandler (taken2 s d r) j := by
  have hparty : party? (putDie s d { dieSt s d with level2 := (dieSt s d).level2.erase r }) j p.uid = some p := party?_of hthere
  have hctx : ctxState (putDie s d { dieSt s d with level2 := (dieSt s d).level2.erase r }) r.asid = ctxState s r.asid := rfl
  unfold level2
  rw [hrec]
  simp only [htarget, hparty, hstate, hctx, bne_self_eq_false, Bool.false_eq_true, if_false, Bool.and_eq_true, beq_iff_eq, bne_iff_ne]
  rfl

end
end

/-- Settles O56, an event at a time. -/
theorem pageAndFrozenEvents : Obligations.PageAndFrozenEvents := by
  unfold Obligations.PageAndFrozenEvents
  exact ⟨
    fun s home n m hmig hleft hgoes hfree => migrationLineCopy_event hmig hleft hgoes hfree,
    fun s home n m c hmig hdone hctx hrun => migrationSwitch_latches hmig hdone hctx hrun,
    fun s home n m t r hmig hdone hrun => migrationSwitch_added hmig hdone hrun,
    fun s asid c r t hctx hmove hparked hroom => frozenRecordAdmit_enters hctx hmove hparked hroom,
    fun s asid c k hctx hrun hentry hslot => handlerStart_event hctx hrun hentry hslot,
    fun s k a n c hhere hkind hstate hspent => handlerBudget_enters hhere hkind hstate hspent,
    fun s d r hrec => Enters.of_eq (level2_faulted hrec),
    fun s d r j p hrec htarget hthere hstate => Enters.of_eq (level2_handler hrec htarget hthere hstate)⟩

end Sys2Proof.Machine
end

section
/-!
PROOF. A CAP.NEXT that gives back what it takes (R337, R346).
-/
namespace Sys2Proof.Machine

/-- A thread that stands FROZEN at a breakpoint, its record, and a handler that holds it in C0. -/
def stoppedRecord : Rec := { kind := 0, target := .agent 0 1, code := .breakpoint, asid := 1 }
def stoppedThread : Agent := { kind := .thread, uid := 1, asid := 1, tasid := 1, nregs := 64, pc := 0x1008, state := .frozen, record := some stoppedRecord }
def holdingHandler : Agent := { kind := .handler, uid := 2, asid := 1, tasid := 1, nregs := 64, pc := 0x2008, entry := .inside
                                caps := [(0, { record := stoppedRecord, budget := 65536, valid := true })] }
/-- The context of both runs, with room in its frozen queue, which is empty. -/
def emptyQueueState : State :=
  { State.reset with issuing := [2016], agents := [(0, stoppedThread), (2016, holdingHandler)], ctxs := [(1, { desc := 0, state := .running })] }
/-- CAP.NEXT into C0. -/
def nextC0 : FormL := { dst := 0, a := 0, g := 7, gn := false, ba := false, b := .reg 0 false, c := 0, bc := false, mod := 0 }

theorem nextC0_clear : (Instr.capNext nextC0).wellFormed .vector = true ∧ Clear .capNext nextC0 emptyQueueState 2016 holdingHandler :=
  ⟨by decide, by constructor <;> decide⟩
/-- The record that the handler gives back is the oldest of the queue then, and the handler takes it again. -/
theorem nextC0_takes : ∃ u, exec (.capNext nextC0) emptyQueueState = .next u ∧ (agent? u 2016).isSome = true := ⟨_, rfl, by decide⟩

/-- Refutes O49: the clause by which CAP.NEXT ends a handler reads the frozen queue before the instruction does. CAP.NEXT first releases what the
register named by DST holds (R337), and a release puts the record of a party that is still stopped back at the front of the queue (R346). In
`emptyQueueState` the queue is empty, the handler holds the record of a frozen thread in C0, and its CAP.NEXT into C0 gives the record back and
takes it again: the handler goes on. -/
theorem not_capabilities : ¬ Obligations.Capabilities := by
  unfold Obligations.Capabilities
  intro h
  obtain ⟨u, hu, hended⟩ := h.2.1 nextC0 emptyQueueState 2016 holdingHandler nextC0_clear.2 (by decide) rfl rfl ⟨_, rfl, .inl rfl⟩
  obtain ⟨u', hu', hlives⟩ := nextC0_takes
  cases hu.symm.trans hu'
  rw [hended] at hlives
  cases hlives

end Sys2Proof.Machine
end

section
/-!
PROOF. The events of links, masts and routes (R363, R364, R367, R369, R372, R373, R377, R379).
-/
namespace Sys2Proof.Machine

section
variable {s : State} {n : Nat}

/-! ### A link's faults (R369, R372, R373) -/

/-- A link is in service. -/
def Serves (s : State) (n : Nat) : Prop := (link s n).state = .up ∨ (link s n).state = .degraded
theorem serves_iff : (link s n).state.serves = true ↔ Serves s n := by simp [LState.serves, Serves]

/-- A link with so many flits failing in a row. -/
def replayed (s : State) (n fails : Nat) : State :=
  if replayBuffer s n = [] then s else if 16 ≤ fails then fence s n else putLink s n { link s n with replay := fails }
theorem crcReplay_enters (h : Serves s n) (fails : Nat) : Enters (exec (.crcReplay n fails) s) (replayed s n fails) := by
  show Enters (execCrcReplay n fails s) _
  unfold execCrcReplay replayed
  refine Enters.of_eq ?_
  simp only [serves_iff.mpr h, Bool.not_true, Bool.false_or, List.isEmpty_iff, ge_iff_le]

theorem linkKind_mast (h : n < 320) : ∃ m, linkKind n = some (.mast m) := by
  unfold linkKind
  split
  · exact ⟨_, rfl⟩
  · exact ⟨_, rfl⟩
theorem linkKind_port (h : 320 ≤ n) (hn : n < 384) : linkKind n = some (.port ((n - 320) / 4) ((n - 320) % 4)) := by
  unfold linkKind
  rw [if_neg (by omega), if_neg (by omega), if_pos hn]
theorem linkKind_isSome (hn : n < 384) : (linkKind n).isSome = true := by
  by_cases h : n < 320
  · obtain ⟨m, hm⟩ := linkKind_mast h
    rw [hm]
    rfl
  · rw [linkKind_port (Nat.le_of_not_lt h) hn]
    rfl
theorem linkTraining_enters (hn : n < 384) (hdown : (link s n).state = .down) :
    Enters (exec (.linkTraining n) s) (putLink s n { link s n with state := .training }) := by
  show Enters (execLinkTraining n s) _
  unfold execLinkTraining
  refine Enters.of_eq ?_
  simp only [linkKind_isSome hn, hdown, beq_self_eq_true, Bool.and_self, if_true]

theorem putLink_putLink (s : State) (n : Nat) (l k : Link) : putLink (putLink s n l) n k = putLink s n k :=
  congrArg (fun m => { s with links := m }) (fput_fput ..)

/-- What the result of a training makes of the link. -/
def afterTraining (s : State) (n : Nat) : TrainResult → State
  | .failed => fence s n
  | .up => execLinkTrained.back n (putLink s n { state := .up })
  | .degraded faults => if (trainedLink n faults).state = .fenced then fence (putLink s n (trainedLink n faults)) n
      else execLinkTrained.back n (putLink s n (trainedLink n faults))
theorem linkTrained_eq (h : (link s n).state = .training) (r : TrainResult) : exec (.linkTrained n r) s = event (fun s => afterTraining s n r) s := by
  show execLinkTrained n r s = _
  unfold execLinkTrained
  refine event_congr ?_
  have hin : ¬ ((link s n).state != .training) = true := by simp [h]
  refine (if_neg hin).trans ?_
  cases r with
  | failed => rfl
  | up => rfl
  | degraded faults => exact ite_congr (propext beq_iff_eq) (fun _ => rfl) fun _ => rfl

/-- The spare lanes of its bundles cover a link's faults. -/
def Covered (n : Nat) (lanes : FMap Lanes) : Prop :=
  if n < 320 then ∀ y ∈ lanes, y.2.data ≤ 2 ∧ y.2.ctl ≤ 1 else (lanes.map fun y => y.2.data + y.2.ctl).foldl (· + ·) 0 ≤ 1
theorem lanesCovered_iff (hn : n < 384) (lanes : FMap Lanes) : lanesCovered n lanes = true ↔ Covered n lanes := by
  unfold lanesCovered Covered
  by_cases h : n < 320
  · obtain ⟨m, hm⟩ := linkKind_mast h
    simp [hm, h]
  · simp [linkKind_port (Nat.le_of_not_lt h) hn, h]

/-- What a link with one bundle becomes when its training has ended with some faults. -/
theorem trainedLink_state (hn : n < 192 ∨ (320 ≤ n ∧ n < 384)) (d c : Nat) : (trainedLink n [(d, c)]).state =
    if d + c = 0 then .up else if (if n < 192 then d ≤ 2 ∧ c ≤ 1 else d + c ≤ 1) then .degraded else .fenced := by
  have hbundles : bundles n = 1 := by
    unfold bundles
    exact if_neg (by simp; omega)
  have hlanes : (((upFrom 0 1).zip [(d, c)]).filterMap fun x => if x.2.1 + x.2.2 == 0 then none else some (x.1, ({ data := x.2.1, ctl := x.2.2 } : Lanes))) =
      if d + c = 0 then [] else [(0, { data := d, ctl := c })] := by
    have hzip : (upFrom 0 1).zip [(d, c)] = [(0, d, c)] := rfl
    rw [hzip, List.filterMap_cons]
    by_cases hzero : d + c = 0
    · rw [if_pos (beq_iff_eq.mpr hzero), if_pos hzero]
      rfl
    · rw [if_neg (by simpa using hzero), if_neg hzero]
      rfl
  have hcovered : lanesCovered n [(0, { data := d, ctl := c })] = true ↔ if n < 192 then d ≤ 2 ∧ c ≤ 1 else d + c ≤ 1 := by
    rw [lanesCovered_iff (by omega)]
    unfold Covered
    by_cases h : n < 192
    · simp [h, show n < 320 by omega]
    · simp [h, show ¬ n < 320 by omega]
  unfold trainedLink
  rw [hbundles]
  dsimp only at hlanes ⊢
  rw [hlanes]
  by_cases hzero : d + c = 0
  · rw [if_pos hzero, if_pos hzero]
    rfl
  · rw [if_neg hzero, if_neg hzero]
    simp only [List.isEmpty_cons, Bool.false_eq_true, if_false, hcovered]

/-- A link's lanes with one more fault in a bundle. -/
def lanesLost (l : Link) (b : Nat) (control : Bool) : FMap Lanes :=
  fput l.lanes b (if control then { fgetD l.lanes b {} with ctl := (fgetD l.lanes b {}).ctl + 1 } else { fgetD l.lanes b {} with data := (fgetD l.lanes b {}).data + 1 })
/-- The state with the link DEGRADED by one more fault. -/
def laneLost (s : State) (n b : Nat) (control : Bool) : State := putLink s n { link s n with lanes := lanesLost (link s n) b control, state := .degraded }
theorem laneFault_eq {b : Nat} (h : Serves s n) (hb : b < bundles n) (control : Bool) : exec (.laneFault n control b) s = event (fun _ =>
    if !lanesCovered n (lanesLost (link s n) b control) then fence (laneLost s n b control) n
    else if n < 320 then logError (laneLost s n b control) (.link n) 2 else laneLost s n b control) s := by
  show execLaneFault n control s b = _
  unfold execLaneFault
  refine event_congr ?_
  simp only [serves_iff.mpr h, hb, decide_true, Bool.and_self, if_true]
  rfl
theorem laneFault_covered {b : Nat} {control : Bool} (h : Serves s n) (hn : n < 384) (hb : b < bundles n)
    (hcovered : Covered n (lanesLost (link s n) b control)) : Enters (exec (.laneFault n control b) s)
      (if n < 320 then logError (laneLost s n b control) (.link n) 2 else laneLost s n b control) := by
  rw [laneFault_eq h hb]
  exact Enters.of_eq (if_neg (by simp [(lanesCovered_iff hn _).mpr hcovered]))
theorem laneFault_fences {b : Nat} {control : Bool} (h : Serves s n) (hn : n < 384) (hb : b < bundles n)
    (hlost : ¬ Covered n (lanesLost (link s n) b control)) : Happens (exec (.laneFault n control b) s) fun u =>
      (link u n).state = .fenced ∧ ∀ j, j ≠ n → link u j = link s j := by
  rw [laneFault_eq h hb, if_pos (by rw [Bool.not_eq_true', ← Bool.not_eq_true, lanesCovered_iff hn]; exact hlost)]
  refine Happens.of_event fun w tr => ⟨?_, fun j hj => ?_⟩
  · rw [looked_link, link_fence, if_pos rfl]
  · rw [looked_link, link_fence, if_neg hj]
    exact (link_putLink ..).trans (if_neg hj)

theorem linkSelfTest_enters (h : (link s n).state = .fenced) :
    Enters (exec (.linkSelfTest n true) s) (logError (putLink s n { link s n with state := .retired }) (.link n) 3) ∧
    Enters (exec (.linkSelfTest n false) s) (putLink s n { link s n with state := .training }) := by
  have hout (lasting : Bool) : Enters (exec (.linkSelfTest n lasting) s)
      (if lasting then retireLink s n else putLink s n { link s n with state := .training }) := by
    show Enters (execLinkSelfTest n lasting s) _
    unfold execLinkSelfTest
    exact Enters.of_eq (if_neg (by simp [h]))
  exact ⟨hout true, hout false⟩

theorem discardedFlit_enters (h : Serves s n) (b : BitVec 256) :
    Enters (exec (.discardedFlit n b) s) (if (Flit.ofBits b).ok = true then s else fence s n) := by
  show Enters (execDiscardedFlit n s b) _
  unfold execDiscardedFlit
  refine Enters.of_eq ?_
  simp only [serves_iff.mpr h, Bool.true_and, Bool.not_eq_true']
  cases (Flit.ofBits b).ok <;> rfl

end

theorem fw_enters (s : State) (st : Nat) (msg : DWord) :
    Enters (exec (.fw st msg) s) (putBase s st { base s st with fw := (base s st).fw ++ [msg] }) := by
  show Enters (execFw st msg s) _
  exact Enters.of_eq rfl

/-! ### Masts and routes (R363, R364, R377, R379) -/

section
variable {s : State}

/-- The places of a map that is written at each of some numbers. -/
theorem fgetD_foldl_fput {α : Type} (d : α) (f : α → α) {l : List Nat} (hl : l.Nodup) (m : FMap α) {n : Nat} :
    fgetD (l.foldl (fun m k => fput m k (f (fgetD m k d))) m) n d = if n ∈ l then f (fgetD m n d) else fgetD m n d := by
  induction l generalizing m with
  | nil => rfl
  | cons k t ih =>
    obtain ⟨hk, ht⟩ := List.nodup_cons.mp hl
    rw [List.foldl_cons, ih ht, fgetD_fput]
    by_cases hn : n = k
    · subst hn
      simp [hk]
    · simp [hn]
theorem remap_remapAll (s : State) (alive : Nat) : (∀ b, b < 16 → (base (remapAll s alive) b).remap = BitVec.ofNat 32 (remapOf alive)) ∧
    ∀ d, d < 8 → (dieSt (remapAll s alive) d).remap = BitVec.ofNat 32 (remapOf alive) := by
  have hbases : (remapAll s alive).bases = (upFrom 0 Config.numStacks).foldl (fun b n => fput b n { fgetD b n {} with remap := BitVec.ofNat 32 (remapOf alive) })
    s.bases := by simp only [remapAll]
  have hdies : (remapAll s alive).dies = (upFrom 0 Config.numDies).foldl (fun b n => fput b n { fgetD b n {} with remap := BitVec.ofNat 32 (remapOf alive) })
    s.dies := by simp only [remapAll]
  refine ⟨fun b hb => ?_, fun d hd => ?_⟩
  · unfold base
    rw [hbases, fgetD_foldl_fput ({} : Base) (fun x => { x with remap := BitVec.ofNat 32 (remapOf alive) }) (nodup_upFrom 0 Config.numStacks),
      if_pos (mem_upFrom.mpr ⟨Nat.zero_le b, by simpa [Config.numStacks] using hb⟩)]
  · unfold dieSt
    rw [hdies, fgetD_foldl_fput ({} : Die) (fun x => { x with remap := BitVec.ofNat 32 (remapOf alive) }) (nodup_upFrom 0 Config.numDies),
      if_pos (mem_upFrom.mpr ⟨Nat.zero_le d, by simpa [Config.numDies] using hd⟩)]

theorem remapAll_keeps (s : State) (alive : Nat) : (remapAll s alive).changes = s.changes ∧ (remapAll s alive).mem = s.mem ∧
    (remapAll s alive).agents = s.agents := by simp only [remapAll, and_self]

theorem head_ne_of_absent {e : Event} (h : s.changes.contains e = false) : (s.changes.head? == some e) = false := by
  rw [beq_eq_false_iff_ne]
  intro hhead
  have hmem := List.mem_of_head? hhead
  rw [← List.contains_iff_mem, h] at hmem
  cases hmem

/-- A mast leaves: the sources stop. -/
theorem mastRemap_starts {m : Nat} (hm : m < 4) (habsent : s.changes.contains (.mastRemap m false) = false) (halive : bitN (aliveNow s) m = true)
    (hothers : setBitsN (aliveNow s) m m 0 ≠ 0) : ∃ fb, exec (.mastRemap m false) s =
      event (fun _ => { s with fabric := fb, changes := s.changes ++ [.mastRemap m false] }) s := by
  apply Exists.intro
  show execMastRemap m false s = _
  unfold execMastRemap
  refine event_congr ?_
  dsimp only
  rw [if_neg (by omega), if_neg (ne_true_of_eq_false (head_ne_of_absent habsent)), habsent, halive]
  have hlast : lastMast s m = false := by simp [lastMast, hothers]
  rw [if_neg (by simp), if_neg (by decide), hlast, if_neg (by decide)]
  rfl

/-- The sources' stop is over, and a mast leaves or returns. -/
theorem mastRemap_ends {m : Nat} {up : Bool} (hm : m < 4) (hhead : s.changes.head? = some (.mastRemap m up)) (hdrained : drained s none = true)
    (hchanges : bitN (aliveNow s) m ≠ up) (hwhole : up = true → mastWhole s m = true) (hothers : up = false → setBitsN (aliveNow s) m m 0 ≠ 0) :
    ∃ ag, exec (.mastRemap m up) s = event (fun _ =>
      { remapAll (popChange s) (setBitsN (aliveNow s) m m (if up then 1 else 0)) with agenda := ag }) s := by
  have halive : aliveNow (popChange s) = aliveNow s := rfl
  have hwhole' : mastWhole (popChange s) m = mastWhole s m := rfl
  have hlast : (!up && lastMast (popChange s) m) = false := by
    unfold lastMast
    rw [halive]
    cases up with
    | true => rfl
    | false => simpa using hothers rfl
  have hreturns : (up && !mastWhole s m) = false := by
    cases up with
    | true => simp [hwhole rfl]
    | false => rfl
  have hready : changeReady s (.mastRemap m up) = true := hdrained
  have hnow : ∃ ag, remapNow m up s =
      { remapAll (popChange s) (setBitsN (aliveNow s) m m (if up then 1 else 0)) with agenda := ag } := by
    unfold remapNow
    dsimp only
    rw [halive, hwhole', hreturns, if_neg (by simpa using hchanges), if_neg (ne_true_of_eq_false hlast)]
    generalize remapAll (popChange s) (setBitsN (aliveNow s) m m (if up then 1 else 0)) = t
    by_cases hback : (!up && mastWhole t m) = true
    · exact ⟨_, if_pos hback⟩
    · exact ⟨_, if_neg hback⟩
  obtain ⟨ag, hag⟩ := hnow
  refine ⟨ag, ?_⟩
  show execMastRemap m up s = _
  unfold execMastRemap
  refine event_congr ?_
  dsimp only
  rw [if_neg (by omega), if_pos (by rw [hhead]; exact beq_self_eq_true _), if_pos hready]
  exact hag

theorem mastLeaves {m : Nat} (hm : m < 4) (habsent : s.changes.contains (.mastRemap m false) = false) (halive : bitN (aliveNow s) m = true)
    (hothers : setBitsN (aliveNow s) m m 0 ≠ 0) : Happens (exec (.mastRemap m false) s) fun u => u.changes = s.changes ++ [.mastRemap m false] ∧
      (∀ pkg rx, sourceStopped u pkg rx = true) ∧ u.bases = s.bases ∧ u.dies = s.dies ∧ u.mem = s.mem ∧ Others [] s u := by
  obtain ⟨fb, h⟩ := mastRemap_starts hm habsent halive hothers
  rw [h]
  refine Happens.of_event fun w tr => ⟨rfl, fun pkg rx => ?_, rfl, rfl, rfl, Others.looked_of rfl w tr⟩
  exact List.any_eq_true.mpr ⟨.mastRemap m false, List.mem_append_right _ (List.mem_singleton_self _), rfl⟩
theorem mastRemapped {m : Nat} {up : Bool} (hm : m < 4) (hhead : s.changes.head? = some (.mastRemap m up)) (hdrained : drained s none = true)
    (hchanges : bitN (aliveNow s) m ≠ up) (hwhole : up = true → mastWhole s m = true) (hothers : up = false → setBitsN (aliveNow s) m m 0 ≠ 0) :
    let alive := setBitsN (aliveNow s) m m (if up then 1 else 0)
    Happens (exec (.mastRemap m up) s) fun u => u.changes = s.changes.tail ∧ (∀ b, b < 16 → (base u b).remap = BitVec.ofNat 32 (remapOf alive)) ∧
      (∀ d, d < 8 → (dieSt u d).remap = BitVec.ofNat 32 (remapOf alive)) ∧ u.mem = s.mem ∧ Others [] s u := by
  intro alive
  obtain ⟨ag, h⟩ := mastRemap_ends hm hhead hdrained hchanges hwhole hothers
  obtain ⟨hbases, hdies⟩ := remap_remapAll (popChange s) alive
  obtain ⟨hqueue, hmem, hagents⟩ := remapAll_keeps (popChange s) alive
  rw [h]
  generalize remapAll (popChange s) alive = t at hbases hdies hqueue hmem hagents
  exact Happens.of_event fun w tr => ⟨hqueue, hbases, hdies, hmem, Others.looked_of hagents w tr⟩

/-- A base die's entry for a package takes new routes. -/
theorem routeChange_eq {st pkg : Nat} {r : DWord} (hst : st < 16) (hpkg : pkg < 240) (hother : pkg ≠ s.package) :
    exec (.routeChange st pkg r) s = event (fun s =>
      if s.changes.head? == some (.routeChange st pkg r) then if drained s (some pkg) then routeNow st pkg r (popChange s) else s
      else if s.changes.contains (.routeChange st pkg r) then s
      else if routeQuiet s st pkg r then routeNow st pkg r s
      else startChange (reinject s (fun l => 320 ≤ l && portOut s l) fun p =>
        if (p.mail.any fun (f, _) => f.dpkg.toNat == pkg) && bitN (bitsN (maskRoutes s r.toNat) 15 0) 15 then
          rerouted s (bitsN (maskRoutes s r.toNat) 15 0) p else p) (.routeChange st pkg r)) s := by
  show execRouteChange st pkg r s = _
  unfold execRouteChange
  refine event_congr ?_
  have hplace : (decide (st ≥ Config.numStacks) || decide (pkg ≥ 240) || pkg == s.package) = false := by
    have hst' : ¬ st ≥ Config.numStacks := by simpa [Config.numStacks] using hst
    simp [hst', hpkg, hother]
  exact if_neg (ne_true_of_eq_false hplace)
theorem routeChange_quiet {st pkg : Nat} {r : DWord} (hst : st < 16) (hpkg : pkg < 240) (hother : pkg ≠ s.package)
    (habsent : s.changes.contains (.routeChange st pkg r) = false) (hquiet : routeQuiet s st pkg r = true) :
    Enters (exec (.routeChange st pkg r) s) (routeNow st pkg r s) := by
  rw [routeChange_eq hst hpkg hother]
  refine Enters.of_eq ?_
  rw [if_neg (ne_true_of_eq_false (head_ne_of_absent habsent)), habsent, if_neg (by decide), if_pos hquiet]
theorem routeChange_starts {st pkg : Nat} {r : DWord} (hst : st < 16) (hpkg : pkg < 240) (hother : pkg ≠ s.package)
    (habsent : s.changes.contains (.routeChange st pkg r) = false) (hquiet : routeQuiet s st pkg r = false) :
    Happens (exec (.routeChange st pkg r) s) fun u => u.changes = s.changes ++ [.routeChange st pkg r] ∧ sourceStopped u pkg false = true ∧
      u.bases = s.bases ∧ u.mem = s.mem ∧ Others [] s u := by
  rw [routeChange_eq hst hpkg hother]
  refine Happens.of_event fun w tr => ?_
  rw [if_neg (ne_true_of_eq_false (head_ne_of_absent habsent)), habsent, if_neg (by decide), hquiet, if_neg (by decide)]
  refine ⟨rfl, ?_, rfl, rfl, Others.looked_of rfl w tr⟩
  exact List.any_eq_true.mpr ⟨.routeChange st pkg r, List.mem_append_right _ (List.mem_singleton_self _), by simp⟩
theorem routeChange_ends {st pkg : Nat} {r : DWord} (hst : st < 16) (hpkg : pkg < 240) (hother : pkg ≠ s.package)
    (hhead : s.changes.head? = some (.routeChange st pkg r)) (hdrained : drained s (some pkg) = true) :
    Enters (exec (.routeChange st pkg r) s) (routeNow st pkg r (popChange s)) := by
  rw [routeChange_eq hst hpkg hother]
  exact Enters.of_eq (by rw [if_pos (by rw [hhead]; exact beq_self_eq_true _), if_pos hdrained])

end

/-- Settles O58, an event at a time. Which number a link has, and which base die logs it, is log 10. -/
theorem linkEvents : Obligations.LinkEvents := by
  unfold Obligations.LinkEvents
  intro put fenced serves
  refine ⟨fun s n k h => crcReplay_enters h k, fun s n hn h => linkTraining_enters hn h, fun s n h => ⟨?_, ?_, fun faults => ?_⟩,
    fun n d c hn => trainedLink_state hn d c, fun s n b control h hn hb => ⟨laneFault_covered h hn hb, laneFault_fences h hn hb⟩,
    fun s n h => linkSelfTest_enters h, fun s m hm habsent halive hothers => mastLeaves hm habsent halive hothers,
    fun s m up hm hhead hdrained hchanges hwhole hothers => mastRemapped hm hhead hdrained hchanges hwhole hothers,
    fun s st pkg r hst hpkg hother => ⟨routeChange_quiet hst hpkg hother, routeChange_starts hst hpkg hother, routeChange_ends hst hpkg hother⟩,
    fun s n b h => discardedFlit_enters h b, fun s st msg => fw_enters s st msg⟩
  · rw [linkTrained_eq h]
    exact Enters.of_eq rfl
  · rw [linkTrained_eq h]
    exact Enters.of_eq rfl
  · rw [linkTrained_eq h]
    refine Enters.of_eq ?_
    have hlink := (link_putLink s n n (trainedLink n faults)).trans (if_pos rfl)
    refine ite_congr rfl (fun _ => ?_) fun _ => rfl
    unfold fence
    rw [hlink]
    rfl

end Sys2Proof.Machine
end

section
/-!
PROOF. The events of contexts (R349 to R361, R408, R415, R417, R418).
-/
namespace Sys2Proof.Machine

/-! ### Requests of CTXREQ (R408) -/

section
variable {s : State} {n : Nat} {c : Ctx}

/-- A request for a context is taken up. -/
def Taken (s : State) (n : Nat) : Prop := s.host.ready = true ∧ s.host.fatal = false ∧ s.host.busy = false ∧ n < 4096
/-- The state with a request in CTXREQ. -/
def askedFor (s : State) (n op : Nat) : State := { s with host := { s.host with reqAsid := BitVec.ofNat 12 n, reqOp := BitVec.ofNat 3 op } }

theorem request_taken (h : Taken s n) (op : Nat) (f : Nat → State → State) : request op f n s = f n (askedFor s n op) := by
  obtain ⟨hready, hfatal, hbusy, hn⟩ := h
  exact if_neg (by simp [hready, hfatal, hbusy, hn])
theorem request_refused (h : ¬ Taken s n) (op : Nat) (f : Nat → State → State) : request op f n s = s := by
  refine if_pos ?_
  by_contra hno
  simp only [Bool.or_eq_true, Bool.not_eq_true', decide_eq_true_eq, not_or, Bool.not_eq_false, Bool.not_eq_true, ge_iff_le, not_le] at hno
  obtain ⟨⟨⟨hready, hfatal⟩, hbusy⟩, hn⟩ := hno
  exact h ⟨hready, hfatal, hbusy, hn⟩
theorem requests_refused (h : ¬ Taken s n) {e : Instr}
    (he : e ∈ [Instr.contextBuild n, .contextStart n, .contextPreempt n, .contextHalt n, .contextResume n, .contextRetire n]) : Enters (exec e s) s := by
  simp only [List.mem_cons, List.not_mem_nil, or_false] at he
  obtain rfl | rfl | rfl | rfl | rfl | rfl := he <;> exact Enters.of_eq (request_refused h _ _)
theorem enters_request {op : Nat} {f : Nat → State → State} {t : State} (h : Taken s n) (hf : f n (askedFor s n op) = t) :
    Enters (event (request op f n) s) t := Enters.of_eq ((request_taken h op f).trans hf)

theorem ctxState_of (h : ctx? s n = some c) : ctxState s n = c.state := by unfold ctxState; rw [h]; rfl

theorem modCtx_putCtx (s : State) (n : Nat) (c : Ctx) (f : Ctx → Ctx) : modCtx (putCtx s n c) n f = putCtx s n (f c) :=
  (modCtx_some (s := putCtx s n c) (fget?_fput_same ..) f).trans (congrArg (fun m => { s with ctxs := m }) (fput_fput ..))
/-- A context enters a state of which the host gets no message. -/
theorem setState_putCtx {st : CState} (h : (st == .saved || st == .halted || st == .error) = false) (s : State) (n : Nat) (c : Ctx) :
    setState (putCtx s n c) n st = putCtx s n { c with state := st, ntrans := c.ntrans + 1 } :=
  (if_neg (ne_true_of_eq_false h)).trans (modCtx_putCtx ..)

/-! ### Requests in a state that has no row for them (R349) -/

theorem start_refused (hrunnable : ctxState s n ≠ .runnable) (hsaved : ctxState s n ≠ .saved) : start n s = reply s 1 := by
  unfold start
  split
  · rfl
  next c hc =>
    rw [ctxState_of hc] at hrunnable hsaved
    exact if_pos (by simp [hrunnable, hsaved])
theorem preempt_refused (hrunning : ctxState s n ≠ .running) (hhalted : ctxState s n ≠ .halted) : preempt n s = reply s 1 :=
  if_neg (by simp [cuttable, hrunning, hhalted])
theorem halt_refused (hrunning : ctxState s n ≠ .running) (hcutting : ctxState s n ≠ .cutting) : halt n s = reply s 1 :=
  if_neg (by simp [hrunning, hcutting])
theorem resume_refused (hhalted : ctxState s n ≠ .halted) : resume n s = reply s 1 := by
  unfold resume
  split
  next c hc =>
    rw [ctxState_of hc] at hhalted
    exact if_neg (by simp [hhalted])
  · rfl
theorem retire_refused (h : ctxState s n ∉ [CState.built, .runnable, .saved, .error]) : retire n s = reply s 1 := by
  unfold retire
  split
  · rfl
  next c hc =>
    rw [ctxState_of hc] at h
    simp only [List.mem_cons, List.not_mem_nil, or_false, not_or] at h
    obtain ⟨hbuilt, hrunnable, hsaved, herror⟩ := h
    exact if_pos (by simp [hbuilt, hrunnable, hsaved, herror])

/-! ### Start (R359, R415) -/

/-- A die of the context is RETIRED. -/
def RetiredDie (s : State) (c : Ctx) : Prop := ∃ d ∈ diesOf c.diemask, (dieSt s d).pstate = 3
theorem dieRetired_iff : dieRetired s c = true ↔ RetiredDie s c := by simp [dieRetired, RetiredDie]
/-- A runnable context runs. -/
theorem runContext_runnable (h : c.state = .runnable) : runContext s n c = reply (setState (loadQueues s n) n .running) 0 :=
  if_neg (by simp [h])
/-- What becomes of a saved context that starts. -/
theorem runContext_saved (h : c.state = .saved) : runContext s n c = if saveBad s c then contextError s n 2
    else if (saveImage s n c).1.any fun p => areaRefused s (c.savePa + p.1) p.2.1 false then contextError s n 3
    else reply (setState (restoreContext s n c) n .running) 0 :=
  if_pos (by simp [h])
theorem returns_runContext {out : Out} (hout : Enters out (runContext s n c)) (h : c.state = .saved) :
    let refused : Prop := ∃ p ∈ (saveImage s n c).1, areaRefused s (c.savePa + p.1) p.2.1 false = true
    (saveBad s c = true → Enters out (contextError s n 2)) ∧ (saveBad s c = false → refused → Enters out (contextError s n 3)) ∧
    (saveBad s c = false → ¬ refused → Enters out (reply (setState (restoreContext s n c) n .running) 0)) := by
  intro refused
  have hrefused : ((saveImage s n c).1.any fun p => areaRefused s (c.savePa + p.1) p.2.1 false) = true ↔ refused := List.any_eq_true
  rw [runContext_saved h] at hout
  refine ⟨fun hbad => ?_, fun hbad hr => ?_, fun hbad hr => ?_⟩
  · rwa [if_pos hbad] at hout
  · rwa [if_neg (by simp [hbad]), if_pos (hrefused.mpr hr)] at hout
  · rwa [if_neg (by simp [hbad]), if_neg (by rwa [hrefused])] at hout

theorem start_eq (hctx : ctx? s n = some c) (hstate : c.state = .runnable ∨ c.state = .saved) : start n s =
    if dieRetired s c then reply s 3 else if canStart s n c then runContext s n c
    else { s with host := { s.host with busy := true, reqAsid := BitVec.ofNat 12 n, reqOp := 2 } } := by
  unfold start
  rw [hctx]
  exact if_neg (by rcases hstate with h | h <;> simp [h])
theorem contextStartWhenFree_eq (h : startWaiting s n = some c) : contextStartWhenFree n s = if dieRetired s c then reply s 3 else runContext s n c := by
  unfold contextStartWhenFree
  rw [h]

/-! ### Halt and resume (R349) -/

theorem halt_taken (hctx : ctx? s n = some c) (hstate : c.state = .running ∨ c.state = .cutting) : halt n s = reply (setState s n .halted) 0 :=
  if_pos (by rw [ctxState_of hctx]; rcases hstate with h | h <;> simp [h])
theorem resume_taken (hctx : ctx? s n = some c) (hstate : c.state = .halted) :
    resume n s = reply (sendAllLatched (setState s n (if c.cut.isSome then .cutting else .running)) n) 0 := by
  unfold resume
  rw [hctx]
  exact if_pos (by simp [hstate])

/-! ### The start of a cut (R354, R360, R361) -/

/-- A cut as it begins: a HALTED context is cut as it stands. -/
def cutBegun (s : State) (n : Nat) (c : Ctx) : Cut :=
  if c.state = .halted then { choices := (residentOf s n).map fun x => (x.1, Choice.save), fromHalt := true, ready := true }
  else { choices := choices s n, fromHalt := false }
theorem beginCut_eq (hctx : ctx? s n = some c) (sliced : Bool) : beginCut s n sliced =
    putCtx s n { c with sliced := sliced, cut := some (cutBegun s n c), state := .cutting, ntrans := c.ntrans + 1 } := by
  have hcut : ({ choices := if c.state == .halted then (residentOf s n).map fun x => (x.1, Choice.save) else choices s n
                 fromHalt := c.state == .halted, ready := c.state == .halted } : Cut) = cutBegun s n c := by
    unfold cutBegun
    by_cases h : c.state = .halted
    · simp [h]
    · have h' : (c.state == .halted) = false := beq_eq_false_iff_ne.mpr h
      simp [h, h']
  unfold beginCut
  rw [hctx]
  simp only [modCtx_some hctx]
  rw [hcut]
  exact setState_putCtx rfl ..


theorem preempt_taken (hctx : ctx? s n = some c) (hstate : c.state = .running ∨ c.state = .halted) :
    preempt n s = { putCtx s n { c with sliced := false, cut := some (cutBegun s n c), state := .cutting, ntrans := c.ntrans + 1 } with
      host := { s.host with busy := true, reqAsid := BitVec.ofNat 12 n, reqOp := 3 } } := by
  have hcuttable : cuttable s n = true := by
    unfold cuttable
    rw [ctxState_of hctx]
    rcases hstate with h | h <;> simp [h]
  unfold preempt
  rw [if_pos hcuttable, beginCut_eq hctx]
theorem tsliceExpiry_taken (hfatal : s.host.fatal = false) (hctx : ctx? s n = some c) (hstate : c.state = .running ∨ c.state = .halted)
    (hslice : c.tslice ≠ 0) :
    tsliceExpiry n s = putCtx s n { c with sliced := true, cut := some (cutBegun s n c), state := .cutting, ntrans := c.ntrans + 1 } := by
  have hcuttable : cuttable s n = true := by
    unfold cuttable
    rw [ctxState_of hctx]
    rcases hstate with h | h <;> simp [h]
  unfold tsliceExpiry
  rw [if_pos (by simp [hcuttable, hfatal, hctx, hslice]), beginCut_eq hctx]

/-! ### The timeouts and the steps of a cut (R354 to R356) -/

theorem drainTimeout_eq {x : Cut} (hctx : ctx? s n = some c) (hcut : c.cut = some x) : drainTimeout n s =
    putCtx s n { c with cut := some { x with choices := x.choices.map fun p => (p.1, if p.2 = .drain then Choice.save else p.2) } } := by
  unfold drainTimeout
  rw [modCtx_some hctx, hcut]
  simp only [Option.map_some, beq_iff_eq]
theorem handlerCutTimeout_eq {x : Cut} {k i : Nat} {a : Agent} {y : Cap} (hctx : ctx? s n = some c) (hstate : c.state = .cutting) (hcut : c.cut = some x)
    (hhalt : x.fromHalt = false) (hone : s.agents.filter (fun p => p.2.kind == .handler && p.2.asid == n && p.2.state != .frozen) = [(k, a)])
    (hholds : a.caps.find? (fun p => p.2.valid) = some (i, y)) :
    handlerCutTimeout n s = freeze s k .handlerBudget { x0 := BitVec.ofNat 32 i } := by
  unfold handlerCutTimeout
  rw [if_neg (by simp [ctxState_of hctx, hstate, hctx, hcut, hhalt])]
  refine (congrArg (List.foldl _ s) hone).trans ?_
  simp only [List.foldl_cons, List.foldl_nil]
  rw [hholds]

theorem cutDue_of {x : Cut} (hctx : ctx? s n = some c) (hstate : c.state = .cutting) (hcut : c.cut = some x) (hgoes : cutWaits s n x = false) :
    cutDue s n = some x := by
  unfold cutDue
  rw [hctx]
  simp [hstate, hcut, hgoes]
theorem settle5_settled (h : settled s n = true) (k : Nat) : settle5 n k s = s := by
  cases k with
  | zero => rfl
  | succ k => exact if_pos h
theorem contextCut_scans {x : Cut} (hdue : cutDue s n = some x) (hforward : forwards (setReady s n) n = false ∨ x.forwarded = true)
    (hsettled : settled (setReady s n) n = true) : contextCut n s = scanContext (setReady s n) n x := by
  unfold contextCut
  rw [hdue]
  dsimp only
  rw [if_neg (by rcases hforward with h | h <;> simp [h]), settle5_settled hsettled, if_pos hsettled]
theorem drainForward_ready {x : Cut} (hctx : ctx? s n = some c) (hcut : c.cut = some x) (hdue : cutDue s n = some x) (hready : forwardReady s n = true) :
    drainForward n s = putCtx s n { c with cut := some { x with ready := true, forwarded := true } } := by
  unfold drainForward
  rw [hdue]
  dsimp only
  rw [hready, if_neg (by decide)]
  unfold setReady
  rw [modCtx_some hctx, modCtx_putCtx, hcut]
  rfl

end

/-! ### Build (R350 to R352) -/

section
variable {s : State} {n : Nat}

/-- The register window gives nothing to a read of a descriptor, so that a request in CTXREQ does not change it. -/
theorem readPhys_askedFor (s : State) (n op pa : Nat) : readPhys (askedFor s n op) pa 128 = readPhys s pa 128 := by
  have hwindow (t : State) (o : Nat) : mmioRead t o 128 = 0 := rfl
  have hmem : (askedFor s n op).mem = s.mem := rfl
  have hwide : ¬ ((128 : Nat) == 16) = true := by decide
  unfold readPhys
  simp only [hwindow, hmem, if_neg hwide]

/-- The context that a build finds in memory. -/
def describedBy (s : State) : Ctx := { desc := readPhys s s.host.ctxdesc.toNat 128 }
/-- The context is BUILT. -/
def builtState (s : State) (n : Nat) : State :=
  { askedFor s n 1 with ctxGone := fdel s.ctxGone n, ctxs := fput s.ctxs n { describedBy s with ntrans := 1 } }
theorem build_begins (s : State) (n : Nat) :
    setState (putCtx { askedFor s n 1 with ctxGone := fdel s.ctxGone n } n { desc := readPhys (askedFor s n 1) s.host.ctxdesc.toNat 128 }) n .built =
      builtState s n := by
  rw [readPhys_askedFor]
  exact setState_putCtx rfl ..
/-- Whether a descriptor is legal does not depend on the context that it describes being BUILT. -/
theorem descBad_built (c : Ctx) : descBad (builtState s n) n c = descBad s n c := by
  have hmem : (builtState s n).mem = s.mem := rfl
  have hroots : rootPairs (builtState s n) c = rootPairs s c := by
    unfold rootPairs
    rw [hmem]
  have hown : ownHbm (builtState s n) = ownHbm s := rfl
  have hbad : rootsBad (builtState s n) = rootsBad s := rfl
  have hdie : dieSt (builtState s n) = dieSt s := rfl
  have hdesc : (builtState s n).host.ctxdesc = s.host.ctxdesc := rfl
  have hhandlers : (c.hasid == n || savedState (ctxState (builtState s n) c.hasid)) = (c.hasid == n || savedState (ctxState s c.hasid)) := by
    by_cases h : c.hasid = n
    · simp [h]
    · have hctx : ctx? (builtState s n) c.hasid = ctx? s c.hasid := fget?_fput_ne _ _ h
      unfold ctxState
      rw [hctx]
  unfold descBad
  dsimp only
  rw [hhandlers]
  simp only [hroots, hown, hbad, hdie, hdesc]

/-- Every base die has the roots of a context (R352). -/
def rooted (s : State) (n : Nat) (c : Ctx) : State :=
  (rootPairs s c).foldl (fun s x => putBase s x.1 { base s x.1 with roots := fput (base s x.1).roots n (x.2.1, x.2.2) }) s
/-- A stripe set of a context, where it is VALID (R18). -/
def stripeSet (s : State) (n : Nat) (c : Ctx) (i : Nat) : Option (Nat × BitVec 128) :=
  (deviceRead s n ((c.stripe + 16 * i) % 2 ^ 64) 16).bind fun v => if v == 0 then none else some (i, BitVec.ofNat 128 v)
/-- A context takes its stripe sets. -/
def striped (s : State) (n : Nat) : State := modCtx s n fun c => { c with stripes := (upFrom 0 128).filterMap (stripeSet s n c) }
theorem build_eq (hfree : ctx? s n = none) : build n (askedFor s n 1) = if descBad (builtState s n) n (describedBy s) then
      reply (contextError (builtState s n) n 4) 2
    else let t := striped (rooted (builtState s n) n (describedBy s)) n
      reply (setState { t with denied := t.denied ++ accessEntries n (describedBy s) } n .runnable) 0 := by
  have hctx : ctx? (askedFor s n 1) n = none := hfree
  have hdesc : (askedFor s n 1).host.ctxdesc = s.host.ctxdesc := rfl
  have hgone : (askedFor s n 1).ctxGone = s.ctxGone := rfl
  have hbuilt := build_begins s n
  unfold build
  rw [hctx, readPhys_askedFor, hdesc, hgone]
  rw [readPhys_askedFor] at hbuilt
  dsimp only
  rw [hbuilt]
  rfl

/-! ### What a build of a legal descriptor leaves -/

theorem rooted_eq (s : State) (n : Nat) (c : Ctx) : ∃ b, rooted s n c = { s with bases := b } :=
  foldl_keeps (R := fun s u => ∃ b, u = { s with bases := b }) (fun s => ⟨s.bases, rfl⟩)
    (fun ⟨b, h⟩ ⟨d, g⟩ => ⟨d, by rw [g, h]⟩) (fun _ _ => ⟨_, rfl⟩) _ s
/-- The writes of some base dies' roots leave those of other base dies. -/
theorem base_foldl_roots (n : Nat) {st : Nat} : ∀ (l : List (Nat × Nat × Nat)) (s : State), st ∉ l.map (·.1) →
    base (l.foldl (fun s x => putBase s x.1 { base s x.1 with roots := fput (base s x.1).roots n (x.2.1, x.2.2) }) s) st = base s st
  | [], s, _ => rfl
  | x :: l, s, h => by
    simp only [List.map_cons, List.mem_cons, not_or] at h
    obtain ⟨hx, hl⟩ := h
    exact (base_foldl_roots n l _ hl).trans ((base_putBase ..).trans (if_neg hx))
theorem roots_foldl_roots (n : Nat) {x : Nat × Nat × Nat} : ∀ (l : List (Nat × Nat × Nat)) (s : State), (l.map (·.1)).Nodup → x ∈ l →
    fget? (base (l.foldl (fun s x => putBase s x.1 { base s x.1 with roots := fput (base s x.1).roots n (x.2.1, x.2.2) }) s) x.1).roots n = some x.2
  | y :: l, s, hnodup, hx => by
    obtain ⟨hy, hl⟩ := List.nodup_cons.mp hnodup
    rw [List.foldl_cons]
    rcases List.mem_cons.mp hx with rfl | hx
    · rw [base_foldl_roots n l _ hy, base_putBase_same]
      exact fget?_fput_same ..
    · exact roots_foldl_roots n l _ hl hx
theorem nodup_rootPairs (s : State) (c : Ctx) : ((rootPairs s c).map (·.1)).Nodup := by
  have hplaces : (rootPairs s c).map (·.1) = upFrom 0 16 := (List.map_map ..).trans (List.map_id' _)
  rw [hplaces]
  exact nodup_upFrom 0 16

/-- The context as a build of a legal descriptor leaves it. -/
def runnableCtx (s : State) (n : Nat) : Ctx :=
  { describedBy s with stripes := (upFrom 0 128).filterMap (stripeSet (rooted (builtState s n) n (describedBy s)) n { describedBy s with ntrans := 1 })
                       state := .runnable, ntrans := 2 }
theorem build_legal (hfree : ctx? s n = none) (hok : descBad s n (describedBy s) = false) : ∃ b, build n (askedFor s n 1) =
      reply { askedFor s n 1 with ctxGone := fdel s.ctxGone n, bases := b, denied := s.denied ++ accessEntries n (describedBy s)
                                  ctxs := fput s.ctxs n (runnableCtx s n) } 0 ∧
    ∀ st h r, (st, h, r) ∈ rootPairs s (describedBy s) → fget? (fgetD b st {}).roots n = some (h, r) := by
  have hpairs : rootPairs (builtState s n) (describedBy s) = rootPairs s (describedBy s) := by
    have hmem : (builtState s n).mem = s.mem := rfl
    unfold rootPairs
    rw [hmem]
  obtain ⟨b, hb⟩ := rooted_eq (builtState s n) n (describedBy s)
  refine ⟨b, ?_, fun st h r hx => ?_⟩
  · have hctx : ctx? (rooted (builtState s n) n (describedBy s)) n = some { describedBy s with ntrans := 1 } := by
      rw [hb]
      exact fget?_fput_same ..
    have hstriped : striped (rooted (builtState s n) n (describedBy s)) n = putCtx (rooted (builtState s n) n (describedBy s)) n
        { runnableCtx s n with state := .built, ntrans := 1 } := modCtx_some hctx _
    rw [build_eq hfree, descBad_built, if_neg (ne_true_of_eq_false hok), hstriped]
    have hdenied : (rooted (builtState s n) n (describedBy s)).denied = s.denied := by rw [hb]; rfl
    have hruns := setState_putCtx (st := .runnable) rfl { rooted (builtState s n) n (describedBy s) with denied := s.denied ++ accessEntries n (describedBy s) }
      n { runnableCtx s n with state := .built, ntrans := 1 }
    have hput : { putCtx (rooted (builtState s n) n (describedBy s)) n { runnableCtx s n with state := .built, ntrans := 1 } with
        denied := (putCtx (rooted (builtState s n) n (describedBy s)) n { runnableCtx s n with state := .built, ntrans := 1 }).denied ++
          accessEntries n (describedBy s) } =
      putCtx { rooted (builtState s n) n (describedBy s) with denied := s.denied ++ accessEntries n (describedBy s) } n
        { runnableCtx s n with state := .built, ntrans := 1 } := by
      rw [← hdenied]
      rfl
    refine congrArg (reply · 0) ((congrArg (setState · n .runnable) hput).trans (hruns.trans ?_))
    rw [hb]
    exact congrArg (fun m => { askedFor s n 1 with ctxGone := fdel s.ctxGone n, bases := b, denied := s.denied ++ accessEntries n (describedBy s), ctxs := m })
      (fput_fput ..)
  · have hroots := roots_foldl_roots n (x := (st, h, r)) (rootPairs (builtState s n) (describedBy s)) (builtState s n) (nodup_rootPairs _ _) (by rwa [hpairs])
    have hbase : (rooted (builtState s n) n (describedBy s)).bases = b := congrArg State.bases hb
    rw [← hbase]
    exact hroots

/-! ### What a build of an illegal descriptor leaves -/

/-- The entry of a context into ERROR leaves the access tables. -/
theorem contextError_denied (s : State) (n cause : Nat) : (contextError s n cause).denied = s.denied := by
  have hsame {α : Type} {f : State → α → State} (hf : ∀ s x, (f s x).denied = s.denied) (l : List α) (s : State) : (l.foldl f s).denied = s.denied :=
    foldl_keeps (R := fun s u => u.denied = s.denied) (fun _ => rfl) (fun h g => g.trans h) hf l s
  have hmod (t : State) (f : Ctx → Ctx) : (modCtx t n f).denied = t.denied := by
    obtain ⟨c, h⟩ := modCtx_keeps t n f
    rw [h]
  have hset (t : State) : (setState t n .error).denied = t.denied := hmod t _
  have hend (t : State) : (endRequest t n 1).denied = t.denied := by
    obtain ⟨b, x, h⟩ := endRequest_keeps t n 1
    rw [h]
  unfold contextError
  extract_lets kerns s1 cls s2 s3 s4
  refine (hend _).trans ((hset _).trans ((hmod _ _).trans ?_))
  have hengines : s2.denied = s1.denied := hsame (f := fun s cl => putEngine s cl {}) (fun _ _ => rfl) cls { s1 with agents := s1.agents.filter fun x => x.2.asid != n }
  exact hengines.trans (hsame (f := abortKernel) (fun _ _ => rfl) kerns s)
theorem contextBuild_illegal (h : Taken s n) (hfree : ctx? s n = none) (hbad : descBad s n (describedBy s) = true) :
    Happens (exec (.contextBuild n) s) fun u => u.host.result = 2 ∧ u.host.busy = false ∧ ctxState u n = .error ∧ u.denied = s.denied ∧
      ∃ c, ctx? u n = some c ∧ c.cause = 4 ∧ c.ntrans = 2 := by
  have hbuild : contextBuild n s = reply (contextError (builtState s n) n 4) 2 :=
    (request_taken h 1 build).trans ((build_eq hfree).trans (if_pos (by rwa [descBad_built])))
  have hbuilt : ctx? (builtState s n) n = some { describedBy s with ntrans := 1 } := fget?_fput_same ..
  have hctx : ctx? (contextError (builtState s n) n 4) n = some { describedBy s with cause := 4, cut := none, state := .error, ntrans := 2 } := by
    rw [ctx?_contextError, if_pos rfl, hbuilt]
    rfl
  refine Happens.of_event fun w tr => ?_
  rw [hbuild]
  have hdenied : (contextError (builtState s n) n 4).denied = s.denied := contextError_denied ..
  generalize contextError (builtState s n) n 4 = v at hctx hdenied
  exact ⟨rfl, rfl, ctxState_of (s := (reply v 2).looked w tr) hctx, hdenied, _, hctx, rfl, rfl⟩
theorem contextBuild_legal (h : Taken s n) (hfree : ctx? s n = none) (hok : descBad s n (describedBy s) = false) :
    Happens (exec (.contextBuild n) s) fun u => u.host.result = 0 ∧ u.host.busy = false ∧ ctxState u n = .runnable ∧
      u.denied = s.denied ++ accessEntries n (describedBy s) ∧ (∀ d, ctx? u n = some d → d.desc = (describedBy s).desc ∧ d.ntrans = 2) ∧ u.mem = s.mem ∧
      Others [] s u ∧ ∀ st h r, (st, h, r) ∈ rootPairs s (describedBy s) → fget? (base u st).roots n = some (h, r) := by
  obtain ⟨b, hbuild, hroots⟩ := build_legal hfree hok
  refine Happens.of_event fun w tr => ?_
  rw [show contextBuild n s = _ from (request_taken h 1 build).trans hbuild]
  generalize hu : reply { askedFor s n 1 with ctxGone := fdel s.ctxGone n, bases := b, denied := s.denied ++ accessEntries n (describedBy s)
                                              ctxs := fput s.ctxs n (runnableCtx s n) } 0 = u
  have hctx : ctx? (u.looked w tr) n = some (runnableCtx s n) := by
    rw [← hu]
    exact fget?_fput_same ..
  refine ⟨by rw [← hu]; rfl, by rw [← hu]; rfl, ctxState_of hctx, by rw [← hu]; rfl, fun d hd => ?_, by rw [← hu]; rfl,
    Others.looked_of (by rw [← hu]; rfl) w tr, fun st h r hx => by rw [← hu]; exact hroots st h r hx⟩
  obtain rfl : runnableCtx s n = d := Option.some.inj (hctx.symm.trans hd)
  exact ⟨rfl, rfl⟩
theorem build_known {c : Ctx} (hctx : ctx? s n = some c) : build n s = reply s 1 := by
  unfold build
  rw [hctx]

/-! ### Retirement (R349) -/

theorem retired_eq {c : Ctx} {f : Ctx → Ctx} (hctx : ctx? s n = some c) : reply (setState (modCtx s n f) n .retired) 0 =
    { putCtx s n { f c with state := .retired, ntrans := (f c).ntrans + 1 } with host := { s.host with busy := false, result := 0 } } := by
  rw [modCtx_some hctx, setState_putCtx rfl]
  rfl
theorem contextRetire_event {c : Ctx} (h : Taken s n) (hctx : ctx? s n = some c)
    (hstate : c.state = .built ∨ c.state = .runnable ∨ c.state = .saved ∨ c.state = .error) :
    Happens (exec (.contextRetire n) s) fun u => ctxState u n = .retired ∧ u.host.result = 0 ∧ (∀ j a, (j, a) ∈ u.agents → a.asid ≠ n) ∧
      (∀ j q, (j, q) ∈ u.queues → q.asid ≠ n) ∧ (∀ j k, (j, k) ∈ u.kernels → k.asid ≠ n) ∧ (∀ r ∈ u.reqs, r.who.asid ≠ n) ∧
      (∀ d ∈ u.denied, d.asid ≠ some n) ∧ u.mem = s.mem := by
  refine Happens.of_event fun w tr => ?_
  have hretire : contextRetire n s = retire n (askedFor s n 6) := request_taken h 6 retire
  have hctx' : ctx? (askedFor s n 6) n = some c := hctx
  have hgoes : (!(c.state == .built || c.state == .runnable || c.state == .saved || c.state == .error)) = false := by
    rcases hstate with h | h | h | h <;> simp [h]
  rw [hretire]
  unfold retire
  rw [hctx']
  dsimp only
  rw [if_neg (ne_true_of_eq_false hgoes)]
  rw [retired_eq (c := c)]
  on_goal 2 => exact hctx
  have hkept {α : Type} {l : FMap α} {p : α → Bool} {j : Nat} {x : α} (hx : (j, x) ∈ l.filter fun y => p y.2) : p x = true := (List.mem_filter.mp hx).2
  refine ⟨?_, rfl, fun j a ha => ?_, fun j q hq => ?_, fun j k hk => ?_, fun r hr => ?_, fun d hd => ?_, rfl⟩
  · refine ctxState_of (c := { c with fq := [], parked := [], cut := none, saved := {}, latched := [], state := .retired, ntrans := c.ntrans + 1 }) ?_
    exact fget?_fput_same ..
  · obtain ⟨y, hy, hya⟩ := List.mem_map.mp ha
    have hasid := hkept (p := fun a : Agent => a.asid != n) hy
    cases hya
    simpa using hasid
  · simpa using hkept (p := fun q : Queue => q.asid != n) hq
  · simpa using hkept (p := fun k : Kernel => k.asid != n) hk
  · simpa using (List.mem_filter.mp hr).2
  · simpa using (List.mem_filter.mp hd).2

theorem contextFree_event (hdue : freeDue s n = true) : Happens (exec (.contextFree n) s) fun u => ctx? u n = none ∧
    ctxstat u n = ctxstat (setState s n .free) n ∧ (∀ l ∈ u.lines, l.asid ≠ n) ∧
    (∀ b x, (b, x) ∈ u.bases → (∀ t ∈ x.tlb, t.asid ≠ n) ∧ fget? x.roots n = none ∧ fget? x.logs n = none) ∧ u.mem = s.mem := by
  refine Happens.of_event fun w tr => ?_
  unfold contextFree
  rw [if_neg (by simp [hdue])]
  have hgone {t : State} (h : ctx? t n = none) : ctxstat t n = fgetD t.ctxGone n 0 := by unfold ctxstat; rw [h]
  have hnone := fget?_fdel_same n s.ctxs
  refine ⟨hnone, ?_, fun l hl => ?_, fun b x hx => ?_, rfl⟩
  · rw [hgone]
    · exact fgetD_fput_same ..
    · exact hnone
  · simpa using (List.mem_filter.mp hl).2
  · obtain ⟨y, hy, hyx⟩ := List.mem_map.mp hx
    cases hyx
    exact ⟨fun t ht => by simpa using (List.mem_filter.mp ht).2, fget?_fdel_same .., fget?_fdel_same ..⟩

/-! ### A halt before what ends the slice (R360) -/

theorem step_halts_first {e : Event} (he : e ∈ [Event.tsliceExpiry n, .contextPreempt n]) (hagenda : s.agenda = [e, .contextHalt n]) :
    step s = exec (.contextHalt n) { s with agenda := [e] } := by
  have hfirst : firstInput e [.contextHalt n] = (.contextHalt n, [e]) := by
    have hlast : actsLast e [.contextHalt n] = true := by
      simp only [List.mem_cons, List.not_mem_nil, or_false] at he
      obtain rfl | rfl := he <;> simp [actsLast]
    unfold firstInput
    rw [if_pos hlast]
    rfl
  unfold step
  rw [hagenda]
  dsimp only
  rw [hfirst]
  rfl

end

/-- Settles O57, an event at a time. The choices are the model's: logs 1 (the agenda), 18, 25 and 66. -/
theorem contextEvents_happen : Obligations.ContextEvents := by
  unfold Obligations.ContextEvents
  intro answered taken asked retiredDie runs returns halted
  refine ⟨fun s n e h he => requests_refused h he, fun s n h => ⟨?_, ?_, ?_, ?_, ?_⟩, fun s n h hfree hbad => contextBuild_illegal h hfree hbad,
    fun s n h hfree hok => contextBuild_legal h hfree hok, fun s n c h hctx => enters_request h (build_known hctx),
    fun s n c h hctx hstate => ?_, fun s n c h => ?_, fun s n c h hctx hstate => enters_request h (halt_taken hctx hstate),
    fun s n c h hctx hstate => enters_request h (resume_taken hctx hstate), fun s n c h hctx hstate => ?_, fun s n c hfatal hctx hstate hslice => ?_,
    fun s n c h hctx hstate => contextRetire_event h hctx hstate, fun s n hdue => contextFree_event hdue,
    fun s n c x hctx hcut => Enters.of_eq (drainTimeout_eq hctx hcut),
    fun s n c x k a i y hctx hstate hcut hhalt hone hholds => Enters.of_eq (handlerCutTimeout_eq hctx hstate hcut hhalt hone hholds),
    fun s n c x hctx hstate hcut hgoes hforward hsettled => Enters.of_eq (contextCut_scans (cutDue_of hctx hstate hcut hgoes) hforward hsettled),
    fun s n c x hctx hstate hcut hgoes hready => Enters.of_eq (drainForward_ready hctx hcut (cutDue_of hctx hstate hcut hgoes) hready),
    fun s n e he hagenda => step_halts_first he hagenda⟩
  · exact fun hrunnable hsaved => enters_request h (start_refused hrunnable hsaved)
  · exact fun hrunning hhalted => enters_request h (preempt_refused hrunning hhalted)
  · exact fun hrunning hcutting => enters_request h (halt_refused hrunning hcutting)
  · exact fun hhalted => enters_request h (resume_refused hhalted)
  · exact fun hstate => enters_request h (retire_refused hstate)
  · have hstart : start n (askedFor s n 2) = if dieRetired s c then reply (askedFor s n 2) 3 else if canStart s n c then runContext (askedFor s n 2) n c
        else { askedFor s n 2 with host := { (askedFor s n 2).host with busy := true } } := start_eq (s := askedFor s n 2) hctx hstate
    have henters {t : State} (ht : start n (askedFor s n 2) = t) : Enters (exec (.contextStart n) s) t := enters_request h ht
    refine ⟨fun hretired => ?_, fun hwhole hfree hrunnable => ?_, fun hwhole hfree hsaved => ?_, fun hwhole hfree => ?_⟩
    · exact henters (hstart.trans (if_pos (dieRetired_iff.mpr hretired)))
    all_goals rw [if_neg (by rwa [dieRetired_iff])] at hstart
    · have hasked : asked s n 2 = askedFor s n 2 := rfl
      show Enters _ (runs (asked s n 2) n)
      rw [hasked]
      exact henters (hstart.trans ((if_pos hfree).trans (runContext_runnable hrunnable)))
    · exact returns_runContext (henters (hstart.trans (if_pos hfree))) hsaved
    · exact henters (hstart.trans (if_neg (by simp [hfree])))
  · have henters {t : State} (ht : contextStartWhenFree n s = t) : Enters (exec (.contextStartWhenFree n) s) t := Enters.of_eq ht
    have hstart := contextStartWhenFree_eq h
    refine ⟨fun hretired => ?_, fun hwhole hrunnable => ?_, fun hwhole hsaved => ?_⟩
    · exact henters (hstart.trans (if_pos (dieRetired_iff.mpr hretired)))
    all_goals rw [if_neg (by rwa [dieRetired_iff])] at hstart
    · exact henters (hstart.trans (runContext_runnable hrunnable))
    · exact returns_runContext (henters hstart) hsaved
  · have hpreempt : contextPreempt n s = _ := (request_taken h 3 preempt).trans (preempt_taken (s := askedFor s n 3) hctx hstate)
    refine Happens.of_event fun w tr => ?_
    rw [hpreempt]
    exact ⟨rfl, rfl, rfl, Others.looked_of rfl w tr, _, fget?_fput_same .., rfl, rfl, rfl, rfl⟩
  · have hslices : tsliceExpiry n s = _ := tsliceExpiry_taken hfatal hctx hstate hslice
    refine Happens.of_event fun w tr => ?_
    rw [hslices]
    exact ⟨rfl, Others.looked_of rfl w tr, _, fget?_fput_same .., rfl, rfl, rfl⟩

end Sys2Proof.Machine
end

section
/-!
PROOF. The events of stack-engine runs (R381 to R397).
-/
namespace Sys2Proof.Machine

section
variable {s : State} {qk n : Nat}

/-! ### The head of a STACK queue, and its run -/

/-- A queue's head whose marker stands is not the engines' to run. -/
structure StackHead (s : State) (qk : Nat) (q : Queue) (h : Head) : Prop where
  there : queue? s qk = some q
  kind : q.kind = 2
  head : q.head = some h
  open_ : (h.finished || (entMeta q h.num).marker.isSome) = false
theorem stackHead_some {q : Queue} {h : Head} (hhead : stackHead s qk = some (q, h)) : StackHead s qk q h := by
  unfold stackHead at hhead
  cases hq : queue? s qk with
  | none => simp [hq] at hhead
  | some p =>
    rw [hq] at hhead
    by_cases hkind : p.kind = 2
    · cases hg : p.head with
      | none => simp [hg] at hhead
      | some g =>
        cases hopen : g.finished || (entMeta p g.num).marker.isSome with
        | true => simp [hg, hopen] at hhead
        | false =>
          obtain ⟨rfl, rfl⟩ : p = q ∧ g = h := by simpa [hkind, hg, hopen] using hhead
          exact ⟨hq, hkind, hg, hopen⟩
    · simp [hkind] at hhead
theorem StackHead.eq {q : Queue} {h : Head} (hat : StackHead s qk q h) : stackHead s qk = some (q, h) := by
  unfold stackHead
  rw [hat.there]
  dsimp only
  rw [if_pos (by simp [hat.kind]), hat.head]
  dsimp only
  rw [if_neg (by simp [hat.open_])]
theorem running?_some {r : Running} (hrun : running? s qk = some r) : StackHead s qk r.q r.h ∧ r.h.run = some r.g := by
  obtain ⟨⟨q, h⟩, hhead, hmap⟩ := Option.bind_eq_some_iff.mp hrun
  obtain ⟨g, hg, rfl⟩ := Option.map_eq_some_iff.mp hmap
  exact ⟨stackHead_some hhead, hg⟩
/-- The run of a head that changes only its party and its run. -/
theorem running?_modHead {r : Running} (hrun : running? s qk = some r) (w : Head → Who) (f : GRun → GRun) :
    ∃ x, running? (modHead s qk fun h => { h with who := w h, run := h.run.map f }) qk = some x ∧ x.g = f r.g := by
  obtain ⟨hat, hg⟩ := running?_some hrun
  have hnew : StackHead (modHead s qk fun h => { h with who := w h, run := h.run.map f }) qk
      { r.q with head := some { r.h with who := w r.h, run := some (f r.g) } } { r.h with who := w r.h, run := some (f r.g) } := by
    refine ⟨?_, hat.kind, rfl, hat.open_⟩
    rw [modHead_some hat.there, queue?_putQueue_same, hat.head, Option.map_some, hg, Option.map_some]
  exact ⟨_, by rw [running?, hnew.eq]; rfl, rfl⟩

/-! ### The start of a node entry (R385) -/

theorem runEntryStart_enters {q : Queue} {h : Head} (hhead : stackHead s qk = some (q, h)) (hrun : h.run = none) (hctx : ctxState s q.asid = .running)
    (hstate : q.state = .active) (hop : bitsN h.img 7 0 ≠ 0x10) : Enters (exec (.runEntryStart qk) s)
      (if 1 ≤ nOp h.img ∧ nOp h.img ≤ 5 ∧ bitN h.img 22 = false ∧ bitN h.img 30 = false ∧ nodeMalformed h.img = false then
        modHead s qk fun h => { h with run := some { nodes := [(0, h.img)], clk := h.who.clk, single := true } } else finishHead s qk 0x50) := by
  obtain ⟨hq, -, hh, -⟩ := stackHead_some hhead
  refine Enters.of_eq ?_
  unfold startRun
  rw [hhead]
  dsimp only
  rw [if_neg (by simp [hrun, hctx, hstate]), if_pos (by simpa using hop)]
  refine ite_congr (propext ?_) (fun _ => ?_) fun _ => rfl
  · simp only [Bool.and_eq_true, decide_eq_true_eq, Bool.not_eq_true', and_assoc]
  · rw [modHead_some hq, modHead_some hq, hh]
    rfl

/-! ### The engines' choice (R397) -/

/-- An engine that has taken its turn for a queue's node. -/
def turned (t : State) (st qk : Nat) (high : Bool) : State :=
  putBase t st { base t st with turn := qk, highRun := if high then (base t st).highRun + 1 else 0 }
theorem runNode_picked {op : Nat} {r : Running} {img : Nat} {c : Candidate} {t : State} (hrun : running? s qk = some r) (hnode : fget? r.g.nodes n = some img)
    (hop : nOp img = op) (hpick : enginePick s (nStk img) = some (c, t)) (hq : c.q = qk) (hn : c.n = n) :
    runNode op qk n s = turned t (nStk img) qk c.high := by
  unfold runNode
  simp only [hrun, Option.bind_some, hnode, hop, hpick, hq, hn, bne_self_eq_false, Bool.or_self, Bool.false_eq_true, if_false, turned]

theorem nodeRecv_posts {t : State} (hpost : postRecv s qk n = some t) : Enters (exec (.nodeRecv qk n) s) t := by
  show Enters (execNodeRecv qk n s) t
  unfold execNodeRecv
  refine Enters.of_eq ?_
  simp only [hpost]
theorem nodeRecv_runs (hpost : postRecv s qk n = none) : exec (.nodeRecv qk n) s = event (runNode 7 qk n) s := by
  show execNodeRecv qk n s = _
  unfold execNodeRecv
  refine event_congr ?_
  simp only [hpost]

/-! ### Landing grants (R395) -/

theorem landingGrant_enters {t : State} (h : (grant s qk n).or (outsideGrant s qk n) = some t) : Enters (exec (.landingGrant qk n) s) t := by
  show Enters (execLandingGrant qk n s) t
  unfold execLandingGrant
  refine Enters.of_eq ?_
  simp only [h, Option.getD_some]

/-! ### The way of a chunk (R368, R371, R395) -/

/-- None of a chunk's flits is on the fabric. -/
theorem chunkStep_landed {b : Beat} (hnone : ∀ p ∈ s.fabric, p.kind = FlitKind.chunk → ∀ x ∈ p.mail, x.2 ≠ b.id) : chunkStep s b = match b.todo with
    | p :: t => if sourceStopped s b.pkg true = true ∨ roomAt s p = false then s else
        { send s p with beats := s.beats.map fun x => if x.id == b.id then { x with todo := t } else x }
    | [] => if b.pkg = s.package then (land s b).getD s else { s with beats := s.beats.filter (·.id != b.id) } := by
  have hout : (s.fabric.filter fun p => p.kind == FlitKind.chunk && p.mail.any (·.2 == b.id)) = [] := by
    refine List.filter_eq_nil_iff.mpr fun p hp hmine => ?_
    obtain ⟨hkind, hmail⟩ := Bool.and_eq_true_iff.mp hmine
    obtain ⟨x, hx, hid⟩ := List.any_eq_true.mp hmail
    exact hnone p hp (by simpa using hkind) x hx (by simpa using hid)
  unfold chunkStep
  rw [hout]
  cases b.todo with
  | nil =>
    by_cases hpkg : b.pkg = s.package
    · simp [hpkg]
    · simp [hpkg]
  | cons p t =>
    refine ite_congr (propext ?_) (fun _ => rfl) fun _ => rfl
    simp only [Bool.or_eq_true, Bool.not_eq_true']
theorem chunk_eq {id : Nat} {b : Beat} (hfind : s.beats.find? (·.id == id) = some b) : b.id = id ∧ exec (.chunk id) s = event (fun s => chunkStep s b) s := by
  refine ⟨by simpa using List.find?_some hfind, ?_⟩
  show execChunk id s = _
  unfold execChunk
  refine event_congr ?_
  simp only [hfind]

/-- A chunk that another package sends. -/
def sentChunk (s : State) (x : Arrival) (room : Option Nat) : Beat :=
  { id := s.nextId, asid := x.asid, pkg := s.package, stack := x.stack, comm := x.comm, tag := x.tag, chunk := x.chunk, data := x.data, room := room, clk := [] }
theorem chunk_arrives {id : Nat} {x : Arrival} {room : Option Nat} (hsome : 0 < x.data.length) (hfits : x.data.length ≤ 65536) (hstack : x.stack < 16)
    (hgrant : landingGrant { s with nextId := s.nextId + 1 } x.stack { asid := x.asid, comm := x.comm, tag := x.tag, chunk := x.chunk } x.data.length = some room) :
    let t := { useComm { s with nextId := s.nextId + 1 } x.asid x.comm with beats := s.beats ++ [sentChunk s x room] }
    Enters (exec (.chunk id (some x)) s) ((land t (sentChunk s x room)).getD t) := by
  intro t
  have hgoes : ¬ (x.data.isEmpty || decide (x.data.length > 65536) || decide (x.stack ≥ 16)) = true := by
    have hdata : x.data ≠ [] := List.ne_nil_of_length_pos hsome
    simp [hdata, hfits, hstack]
  have harrives : chunkArrives s x = (land t (sentChunk s x room)).getD t := by
    unfold chunkArrives
    refine (if_neg hgoes).trans ?_
    have hgrant' : landingGrant { s with nextId := s.nextId + 1 } x.stack (sentChunk s x none).key x.data.length = some room := hgrant
    unfold sentChunk at hgrant'
    simp only [hgrant']
    rfl
  exact Enters.of_eq harrives

/-! ### The end of a node and of a run (R375, R387, R388) -/

section
variable {r : Running} {img : Nat} {e : Ended} (hrun : running? s qk = some r) (hran : fget? r.g.ran n = some e) (hnode : fget? r.g.nodes n = some img)
  (hqueues : queuesRun s r.q.asid = true) (hmarked : marking s e.uid = false)
include hrun hran hnode hqueues hmarked

theorem nodeCompletion_marks (hhomes : e.homes ≠ []) : Enters (exec (.nodeCompletion qk n) s)
    (e.homes.foldl (fun s h => putMarker s e.uid 0 { die := none, stack := nStk img } h 3 5) (modRun s qk fun g => { g with ran := fput g.ran n { e with homes := [] } })) := by
  refine Enters.of_eq ?_
  unfold completeNode
  simp only [hrun, hran, hnode]
  rw [if_neg (by simp [hqueues, hmarked]), if_pos (by simpa using hhomes)]

/-- A node that completes counts in its OUT counter. -/
def nodeCounts (g : GRun) (img : Nat) : Bool := !g.single && bitN img 30
/-- A run once a node of it has completed. -/
def nodeDone (r : GRun) (img : Nat) (e : Ended) (n : Nat) (g : GRun) : GRun := { g with
  ran := fdel g.ran n, done := lput g.done n
  counts := if nodeCounts r img then fput g.counts (nOut img) (fgetD r.counts (nOut img) 0 + 1) else g.counts
  cclk := if nodeCounts r img then fput g.cclk (8192 * nOut img + fgetD r.counts (nOut img) 0) e.clk else g.cclk }

theorem completeNode_last (hhomes : e.homes = []) : completeNode qk n s =
    modHead s qk fun h => { h with who := { h.who with clk := cmax h.who.clk e.clk }, run := h.run.map (nodeDone r.g img e n) } := by
  unfold completeNode
  simp only [hrun, hran, hnode]
  rw [if_neg (by simp [hqueues, hmarked]), if_neg (by simp [hhomes])]
  rfl
omit hrun hran hnode hqueues hmarked in
theorem nodeDone_counts (r : GRun) (img : Nat) (e : Ended) (n : Nat) : fgetD (nodeDone r img e n r).counts (nOut img) 0 =
    fgetD r.counts (nOut img) 0 + if r.single = false ∧ bitN img 30 = true then 1 else 0 := by
  by_cases hout : nodeCounts r img = true
  · rw [if_pos (by simpa [nodeCounts] using hout)]
    simp [nodeDone, hout]
  · rw [if_neg (by simpa [nodeCounts] using hout)]
    simp [nodeDone, hout]
omit hrun hran hnode hqueues hmarked in
theorem Only.queued (s : State) (m : FMap Queue) : Only [.queues] s { s with queues := m } := fun p hp => by
  cases p with
  | queues => exact absurd List.mem_cons_self hp
  | _ => simp [Same, group?, ctx?]
theorem nodeCompletion_counts (hhomes : e.homes = []) : Happens (exec (.nodeCompletion qk n) s) fun u =>
    Only [.queues, .trigs] s u ∧ Others [] s u ∧ ∃ x, running? u qk = some x ∧ x.g.done = lput r.g.done n ∧ x.g.nodes = r.g.nodes ∧
      fgetD x.g.counts (nOut img) 0 = fgetD r.g.counts (nOut img) 0 + if r.g.single = false ∧ bitN img 30 = true then 1 else 0 := by
  refine Happens.of_event fun w tr => ?_
  rw [completeNode_last hrun hran hnode hqueues hmarked hhomes]
  obtain ⟨x, hx, hg⟩ := running?_modHead hrun (fun h => { h.who with clk := cmax h.who.clk e.clk }) (nodeDone r.g img e n)
  have hsame := modHead_queues s qk fun h => { h with who := { h.who with clk := cmax h.who.clk e.clk }, run := h.run.map (nodeDone r.g img e n) }
  refine ⟨?_, ?_, x, hx, ?_, ?_, ?_⟩
  · obtain ⟨m, hm⟩ := hsame
    rw [hm]
    exact ((Only.queued s m).mono (by simp)).trans ((Only.looked _ w tr).mono (by simp))
  · obtain ⟨m, hm⟩ := hsame
    exact Others.looked_of (by rw [hm]) w tr
  · rw [hg]; rfl
  · rw [hg]; rfl
  · rw [hg]; exact nodeDone_counts r.g img e n

end

theorem runCompletion_enters (hdone : runDone s qk = true) : Enters (exec (.runCompletion qk) s) (completeEntry qk (finishHead s qk 0)) := by
  show Enters (execRunCompletion qk s) _
  unfold execRunCompletion
  exact Enters.of_eq (if_pos hdone)

end

/-- Settles O55, an event at a time. Where a chunk spills is log 84. -/
theorem stackEvents_happen : Obligations.StackEvents := by
  unfold Obligations.StackEvents
  intro picked
  have hpicked {e : Instr} {op : Nat} {s : State} {qk n : Nat} (he : exec e s = event (runNode op qk n) s) (r : Running) (img : Nat) (c : Candidate)
      (t : State) (hrun : running? s qk = some r) (hnode : fget? r.g.nodes n = some img) (hop : nOp img = op) (_ : op = 7 → postRecv s qk n = none)
      (hpick : enginePick s (nStk img) = some (c, t)) (hq : c.q = qk) (hn : c.n = n) : Enters (exec e s) (turned t (nStk img) qk c.high) := by
    rw [he]
    exact Enters.of_eq (runNode_picked hrun hnode hop hpick hq hn)
  refine ⟨fun s qk q h hhead hrun hctx hstate hop => runEntryStart_enters hhead hrun hctx hstate hop, fun _ _ _ => hpicked rfl, fun _ _ _ => hpicked rfl,
    fun _ _ _ => hpicked rfl, fun _ _ _ => hpicked rfl, fun _ _ _ => hpicked rfl, fun _ _ _ => hpicked rfl, ?recv,
    fun s qk n t hpost => nodeRecv_posts hpost, fun s qk n t hgrant => landingGrant_enters (by rw [hgrant, Option.some_or]),
    fun s qk n t hnone hgrant => landingGrant_enters (by rw [hnone, hgrant, Option.none_or]), ?chunk,
    fun s id x room hsome hfits hstack hgrant => chunk_arrives hsome hfits hstack hgrant,
    fun s qk n r e img hrun hran hnode hqueues hmarked => ⟨nodeCompletion_marks hrun hran hnode hqueues hmarked,
      nodeCompletion_counts hrun hran hnode hqueues hmarked⟩, fun s qk hdone => runCompletion_enters hdone⟩
  case recv => exact fun s qk n r img c t hrun hnode hop hnone => hpicked (nodeRecv_runs (hnone rfl)) r img c t hrun hnode hop hnone
  case chunk =>
    intro s id b hfind hnone
    obtain ⟨rfl, hout⟩ := chunk_eq hfind
    have hstep := chunkStep_landed hnone
    rw [hout]
    refine ⟨fun p t htodo => Enters.of_eq ?_, fun htodo hpkg => Enters.of_eq ?_, fun htodo hpkg => Enters.of_eq ?_⟩
    · exact hstep.trans (by rw [htodo])
    · exact hstep.trans (by rw [htodo]; exact if_neg hpkg)
    · exact hstep.trans (by rw [htodo]; exact if_pos hpkg)

end Sys2Proof.Machine
end
